-- ==== Sys2Proof/Word.lean ====
section
/-!
DEFINITION. The word types of the Hexpied model.
Registers are 32 bits wide (R4), 64-bit values are pairs of them (R8), memory is bytes.
-/

namespace Sys2Proof

/-- One byte of memory. -/
abbrev Byte := BitVec 8
/-- One 32-bit register (R4). -/
abbrev Word := BitVec 32
/-- A 64-bit value, exposed as two registers (R8). -/
abbrev Dword := BitVec 64

end Sys2Proof
end

