-- ==== Sys2Proof/Machine/Bits.lean ====
section
/-!
DEFINITION. Bits and fields of numbers, from which every field of a register, a record or a descriptor is read.
-/

namespace Sys2Proof

/-- The bits `lo` to `lo + len - 1` of a number, as a number. -/
def bitsAt (x lo len : Nat) : Nat := (x >>> lo) % 2 ^ len

/-- Bit `i` of a number. -/
def bitAt (x i : Nat) : Bool := (x >>> i) % 2 == 1

/-- The number with its field of `len` bits at `lo` replaced by `v`. -/
def putBits (x lo len v : Nat) : Nat :=
  x - (bitsAt x lo len) * 2 ^ lo + (v % 2 ^ len) * 2 ^ lo

/-- 1 or 0 for a Boolean. -/
def b2n (b : Bool) : Nat := if b then 1 else 0

end Sys2Proof
end

