-- ==== Sys2Proof/Machine/AMap.lean ====
section
/-!
DEFINITION. Sparse maps from numbers to values as plain sorted lists in ONE canonical form:
keys strictly rising and no entry equal to what an unlisted key reads as. Memory, the register
file and every per-unit table of the state are such maps, so equal contents are equal data.
-/

namespace Sys2Proof

/-- A sparse map as plain data. -/
abbrev AMap (β : Type) := List (Nat × β)

namespace AMap

variable {β : Type}

/-- What key `k` reads as; `d` gives the value of an unlisted key. -/
def read (d : Nat → β) : AMap β → Nat → β
  | [], k => d k
  | (k', v) :: t, k => if k' = k then v else read d t k

/-- The map without key `k`. -/
def erase : AMap β → Nat → AMap β
  | [], _ => []
  | (k', v) :: t, k => if k' = k then erase t k else (k', v) :: erase t k

/-- Places an entry before the first larger key. -/
def place : AMap β → Nat → β → AMap β
  | [], k, v => [(k, v)]
  | (k', v') :: t, k, v => if k < k' then (k, v) :: (k', v') :: t else (k', v') :: place t k v

/-- Writes `v` at `k`; writing what an unlisted key reads as removes the entry. -/
def write [DecidableEq β] (d : Nat → β) (m : AMap β) (k : Nat) (v : β) : AMap β :=
  if v = d k then erase m k else place (erase m k) k v

/-- Applies `f` to the value at `k`. -/
def modify [DecidableEq β] (d : Nat → β) (m : AMap β) (k : Nat) (f : β → β) : AMap β :=
  write d m k (f (read d m k))

/-- Keys strictly rising above a bound, no entry equal to the default. -/
def wfFrom [DecidableEq β] (d : Nat → β) : Option Nat → AMap β → Bool
  | _, [] => true
  | lo, (k, v) :: t =>
    (match lo with | none => true | some b => decide (b < k)) && decide (v ≠ d k) && wfFrom d (some k) t

/-- The canonical form of a map. -/
def wf [DecidableEq β] (d : Nat → β) (m : AMap β) : Bool := wfFrom d none m

end AMap

end Sys2Proof
end

