-- ==== Sys2Proof/Types/Numeric.lean ====
section
/-!
DEFINITION. The numeric records that streams, engines and cores keep: quantisation windows (R107), scan states
(R270), attention partials (R208), reduction accumulators (R148) and cairn slots are plain data.
-/

namespace Sys2Proof.Machine

/-- One 16-byte entry of a window record (R107). -/
structure WinEntry where
  lo : Word := 0
  hi : Word := 0
  clipped : Nat := 0
  total : Nat := 0
  deriving DecidableEq, Repr

/-- A stream's window at one quantisation point, oldest entry first (R107). -/
structure QWindow where
  k : Nat := 0
  entries : List WinEntry := []
  deriving DecidableEq, Repr

/-- One finished node of a scan: `L` positions, with one `A` and one `B` per vector element (R270). -/
structure ScanNode where
  len : Nat
  a : List Word
  b : List Word
  deriving DecidableEq, Repr

/-- A scan state: the count `u`, the anchor and the node stack, top first (R270). -/
structure ScanState where
  u : Nat := 0
  anchor : List Word := []
  stack : List ScanNode := []
  deriving DecidableEq, Repr

/-- The partial (m, l, o, bad) of a row and head (R208), with the overflows on the way to it that the cluster's matrix
engine and vector unit will count (R99); a partial that came from elsewhere carries none. -/
structure AttnPart where
  m : Word
  l : Word
  o : List Word
  bad : Bool
  mat : Nat := 0
  vec : Nat := 0
  deriving DecidableEq, Repr

/-- One node of a nomad core's reduction stack (R148). -/
structure RedNode where
  value : Word := 0
  blocks : Nat := 0
  deriving DecidableEq, Repr

/-- A nomad core's reduction accumulator (R148): the operation, the open window, the next element index and
the stack of at most 20 finished nodes, top first. -/
structure RedAcc where
  op : Nat := 0
  started : Bool := false
  nextElem : Nat := 0
  winSum : Int := 0
  winNan : Bool := false
  winPos : Bool := false
  winNeg : Bool := false
  winNegZero : Bool := true
  winTerms : Nat := 0
  ext : Option Word := none
  stack : List RedNode := []
  lastFed : Bool := false
  deriving DecidableEq, Repr

end Sys2Proof.Machine
end

