-- ==== Sys2Proof/Types/Engines.lean ====
section
/-!
DEFINITION. State of the engines: nomad cores (R139 to R152), cluster barriers and queues (R146, R192), cistern
engines (R162 to R171) and Caravan engines (R180 to R198).
-/

namespace Sys2Proof.Machine

/-- A barrier object (R192). -/
structure Barrier where
  expect : Nat := 0
  count : Nat := 0
  gen : Nat := 0
  deriving DecidableEq, Repr

/-- The barriers and queues that a node of a placed stream holds (R146): first and count of each. -/
structure ObjAlloc where
  strm : Nat
  node : Nat
  barBase : Nat := 0
  barCount : Nat := 0
  qBase : Nat := 0
  qCount : Nat := 0
  deriving DecidableEq, Repr

/-- A weight with home CLUSTER as it lies in a cluster's store (R273): its reference, its units of 64 bytes, how many units
of the store lie above it, and the granules that it was loaded from as zeros (R168, R174). -/
structure StoredWeight where
  id : Nat
  units : Nat
  above : Nat
  zeros : List Nat := []
  deriving DecidableEq, Repr
/-- The offset in the cluster's store. -/
def StoredWeight.ofs (w : StoredWeight) : Nat := 0x800000 - 64 * (w.above + w.units)

/-- The barriers and queues of one cluster (R14, R146), each by index, and the nodes they are allocated to; the weights that
its store holds. -/
structure ClusterObj where
  bars : AMap Barrier := []
  queues : AMap (List Dword) := []
  alloc : List ObjAlloc := []
  loaded : List StoredWeight := []
  deriving DecidableEq, Repr

/-- What a nomad core is waiting for (R146), and the register it will write: a tick count, the end of a barrier's
generation, room in a queue for a value, or an entry. Barriers and queues are the cluster's. -/
inductive CoreWait where
  | tick (plane : Nat) (frame : Bool) (count rd : Nat)
  | barrier (idx gen rd : Nat)
  | push (q : Nat) (v : Dword) (rd : Nat)
  | pop (q rd : Nat)
  deriving DecidableEq, Repr

/-- An invocation in progress (R143): kernel and node, the rows, the grants, the node's barriers and queues as cluster
objects, and the draw context (R147). -/
structure Invocation where
  graph : Nat := 0
  kernel : Nat := 0
  handle : Nat := 0xFFFFFFFF
  node : Nat := 0
  textLen : Nat := 0
  ranges : List (Nat × Nat) := []
  barBase : Nat := 0
  barCount : Nat := 0
  qBase : Nat := 0
  qCount : Nat := 0
  /-- The queue bound to the cluster's Caravan engine (R181). -/
  carQ : Option Nat := none
  seed : Dword := 0
  drift : Dword := 0
  tensor : Nat := 0
  drawPos : Nat := 0
  ticked : Bool := false
  plane : Nat := 0
  frame : Bool := false
  cls : Nat := 0
  cycles : Nat := 0
  instret : Nat := 0
  started : Dword := 0
  deriving DecidableEq, Repr

/-- One nomad core (R139 to R152): registers, CSRs (Table 07-1), local memory, reduction accumulator, last drift evaluation. -/
structure Core where
  x : AMap Dword := []
  f : AMap Dword := []
  v : AMap (BitVec 512) := []
  pc : Dword := 0
  fflags : Nat := 0
  frm : Nat := 0
  vstart : Nat := 0
  vl : Nat := 0
  vtype : Dword := 0
  vcsr : Nat := 0
  resv : Option (Nat × Nat) := none
  mem : AMap Byte := []
  red : RedAcc := {}
  lastKey : List Word := []
  lastOut : List Word := []
  inv : Option Invocation := none
  wait : Option CoreWait := none
  deriving DecidableEq, Repr

/-- A cistern work item (R162, R163, Table 08-5). -/
structure WorkItem where
  op : Nat := 0
  barEn : Bool := false
  barrier : Nat := 0
  cluster : Nat := 0
  prio : Nat := 0
  ticked : Bool := false
  handle : Nat := 0xFFFFFFFF
  src : Nat := 0
  dst : Nat := 0
  length : Nat := 0
  param : Nat := 0
  compl : Nat := 0
  param2 : Nat := 0
  /-- The part does not take the item: it has no effect and completes REJECTED in its turn (R162, R164). -/
  denied : Bool := false
  deriving DecidableEq, Repr

/-- A work item that has started (R163 to R165): slices ended, its status and the granules it was given as zeros. -/
structure CisRun where
  item : WorkItem := {}
  slices : Nat := 0
  status : Nat := 0
  zeroed : Nat := 0
  /-- The item has stopped at a page that is being restored (R227). -/
  held : Bool := false
  deriving DecidableEq, Repr

/-- A cistern engine (R164, R165, R169): items queued in arrival order, items whose requesters wait for room, the item
running, those that gave way, and the known-bad list, oldest first. -/
structure Cistern where
  queue : List WorkItem := []
  waiting : List WorkItem := []
  running : Option CisRun := none
  gaveWay : List CisRun := []
  bad : List Nat := []
  deriving DecidableEq, Repr

/-- Why a transfer context waits (R194, R195). -/
inductive XferWait where
  | fault (page : Nat) | swap
  deriving DecidableEq, Repr

/-- Who sent a transfer (R181). -/
inductive XferSrc where
  | part | placement | host | kernel
  deriving DecidableEq, Repr

/-- A block record (R185, Table 09-2). -/
structure CarBlock where
  src : Nat := 0
  dst : Nat := 0
  ext0 : Nat := 0
  ext1 : Nat := 1
  ext2 : Nat := 1
  ext3 : Nat := 1
  trows : Nat := 1
  sstr1 : Int := 0
  sstr2 : Int := 0
  sstr3 : Int := 0
  dstr1 : Int := 0
  dstr2 : Int := 0
  dstr3 : Int := 0
  /-- Bytes of an element. -/
  esize : Nat := 1
  mode : Nat := 0
  arrive : Nat := 0
  ring : Bool := false
  layer : Bool := false
  restart : Bool := false
  cslot : Nat := 0
  barrier : Nat := 0
  bcluster : Nat := 127
  credit : Nat := 255
  deriving DecidableEq, Repr

/-- How far a context has come with a tile (R405): nothing asked, remote reads sent, remote writes sent. -/
inductive TilePhase where
  | fresh | reading | writing
  deriving DecidableEq, Repr

/-- A transfer (R182, R186, R191 to R197): its request (Table 09-1), the work that owns it, and its progress in tiles handed over. -/
structure Xfer where
  list : Nat := 0
  nblk : Nat := 0
  pref : Nat := 0
  handle : Nat := 0xFFFFFFFF
  compl : Nat := 0
  blk : Nat := 0
  tile : Nat := 0
  src : XferSrc := .part
  fn : Nat := 0
  prio : Nat := 0
  ticked : Bool := false
  order : Nat := 0
  ranges : List (Nat × Nat) := []
  barBase : Nat := 0
  barCount : Nat := 0
  zeroed : Nat := 0
  bytes : Nat := 0
  wait : Option XferWait := none
  /-- When its last page request went out (R194). -/
  waitTb : Nat := 0
  /-- The status a condition has already given the transfer (Table 09-5); it ends at the tile it has reached. -/
  ended : Option Nat := none
  slotHeld : Option Nat := none
  /-- The block in progress, and the arrivals its credit barrier had when it began (R191). -/
  block : Option CarBlock := none
  /-- The blocks that the transfer has begun: their destinations may overlap sources still to be read (R185). -/
  past : List CarBlock := []
  /-- What its destinations held before it wrote them, by address, last written first (R185). -/
  old : List (Nat × List Byte) := []
  credit0 : Nat := 0
  phase : TilePhase := .fresh
  /-- Bytes of the tile that remote reads have brought, by offset. -/
  got : List (Nat × List Byte) := []
  /-- Remote pieces of the tile that have been issued, and the port whose tags the next one waits for (R187). -/
  issued : Nat := 0
  noTag : Option Nat := none
  /-- The order in which the engine's transfers started, and whether the transfer has given a context up (R198). -/
  start : Nat := 0
  suspended : Bool := false
  /-- No completion record can be written: its page request was refused (R194). -/
  lost : Bool := false
  /-- The stream whose step waits for the transfer. -/
  step : Option Nat := none
  /-- The host command that asked for it: function, ring and descriptor (R382). -/
  cmd : Option (Nat × Nat × BitVec 512) := none
  deriving DecidableEq, Repr

/-- A Caravan engine with its cairn unit (R180, R199, R201): contexts by number, waiting requests in arrival order,
and the low words held until their high words are written. -/
structure Caravan where
  ctxs : AMap (Option Xfer) := []
  waiting : List Xfer := []
  arrivals : Nat := 0
  latch : AMap (Option Word) := []
  deriving DecidableEq, Repr

end Sys2Proof.Machine
end

