-- ==== Sys2Proof/Types/Command.lean ====
section
/-!
DEFINITION. Operand types of the commands that name something other than a number: register spaces, record rings,
causes and the owner of a transfer.
-/

namespace Sys2Proof.Machine

/-- A register space: BAR0, which only the physical function reaches, or BAR2 of a function. -/
inductive Space where
  | bar0
  | bar2 (fn : Fin 64)
  deriving DecidableEq, Repr

/-- The record rings of R46 and R47: the miss ring, each die's saturation event ring, the cascade event ring and the
ATTEND ring of each array. -/
inductive RingId where
  | miss
  | qev (d : Fin 4)
  | cascade
  | attend (a : Fin 4)
  deriving DecidableEq, Repr

/-- Why holdover begins (R29): no PPS edge for 1.1 s, REF_TB lost, or every fabric timing path lost. -/
inductive HoldCause where
  | pps | refTb | fabric
  deriving DecidableEq, Repr

/-- Why a fabric port goes down (R393). -/
inductive DownCause where
  | replay | align | hello
  deriving DecidableEq, Repr

/-- What resets the part as a host reset (R482). -/
inductive HostResetCause where
  | perst | hot | linkDown
  deriving DecidableEq, Repr

/-- The work that owns a transfer (R181, R182): its source, function, priority class, whether it is grain-bound, its
handle and, for a kernel's request, the granted ranges and the node's barriers. -/
structure Owner where
  src : XferSrc := .part
  fn : Fin 64 := 0
  prio : Fin 8 := 0
  ticked : Bool := false
  handle : Word := 0xFFFFFFFF#32
  deriving DecidableEq, Repr

end Sys2Proof.Machine
end

