-- ==== Sys2Proof/Types/Fabric.lean ====
section
/-!
DEFINITION. State of the Erg fabric (chapter 18).
-/

namespace Sys2Proof.Machine

/-- A link-state advertisement (R396): identity, device ID (assigned or requested), sequence number, whether the member
could be grandmaster (R410), and per port that is up the peer's identity and the port's cost. -/
structure Lsa where
  ident : Nat := 0
  devId : Nat := 0
  assigned : Bool := false
  seq : Nat := 0
  gmOk : Bool := false
  links : List (Nat × Nat × Nat) := []
  deriving DecidableEq, Repr

/-- A HELLO (R394): nonce, ephemeral key, identity key, fused identity record. -/
structure Hello where
  nonce : BitVec 256 := 0
  eph : BitVec 256 := 0
  ident : BitVec 256 := 0
  record : List Byte := []
  deriving DecidableEq, Repr

/-- A fabric port (R391 to R397). -/
structure ErgPort where
  fails : Nat := 0
  rateTry : Nat := 0
  /-- HELLOs of the handshake in progress or last made (R394). -/
  own : Option Hello := none
  peer : Option Hello := none
  peerEnc : Bool := false
  missed : Nat := 0
  badReplays : Nat := 0
  txFlits : Nat := 0
  rxFlits : Nat := 0
  keys : Nat := 0
  /-- The handshake is being run again on a port that is up (R395). -/
  rekey : Bool := false
  deriving DecidableEq, Repr

/-- A remote request outstanding at its source (R403, R405): `engine` is 8 times the engine's number plus the context,
and `local_` the place of a read's bytes in its tile. -/
structure RemReq where
  id : Nat := 0
  dst : Nat := 0
  fn : Nat := 0
  write : Bool := false
  addr : Nat := 0
  len : Nat := 0
  data : List Byte := []
  local_ : Nat := 0
  engine : Nat := 0
  handle : Nat := 0xFFFFFFFF
  retried : Bool := false
  /-- The port whose tag it holds (R187). -/
  port : Nat := 0
  deriving DecidableEq, Repr

/-- A member of the database with the time its advertisement arrived (R396). -/
structure Member where
  lsa : Lsa := {}
  at_ : Dword := 0
  deriving DecidableEq, Repr

/-- What a response brings (R405, R407): the bytes read, and the granules that came as zeros, each by its distance from the
request's address. -/
structure RespData where
  bytes : List Byte := []
  zeros : List Nat := []
  deriving DecidableEq, Repr

/-- What the package sends on a fabric port. The spec gives no byte layout of these messages, so they are typed
(log 14). -/
inductive FabMsg where
  | hello (h : Hello)
  | proof (signature : List Byte)
  | lsa (l : Lsa)
  | grant (ident dev : Nat)
  | replay (rseq : Nat)
  | linkHello
  | sync
  | snap (t num : Nat)
  | request (r : RemReq)
  | response (id status : Nat) (data : RespData)
  deriving DecidableEq, Repr

/-- The fabric as this package holds it (R391 to R413). -/
structure Fabric where
  ports : AMap ErgPort := []
  db : List Member := []
  seq : Nat := 0
  granted : Bool := false
  members : List Nat := []
  anchor : Nat := 0
  reqs : List RemReq := []
  unr : AMap Nat := []
  unrRec : AMap (Option Dword) := []
  /-- Messages sent on the ports, newest first: the model's record of what left the package (log 14). -/
  sent : List (Nat × FabMsg) := []
  deriving DecidableEq, Repr

end Sys2Proof.Machine
end

