-- ==== Sys2Proof/Machine/Drift.lean ====
section
/-!
DEFINITION. The drift generator's mixing function (R119, R121) and its use of the four words (R123, R124).
-/

namespace Sys2Proof.Machine

/-- Four 32-bit words: a key, a counter or an output is made of them (Table 06-1). -/
structure W4 where
  w0 : Word := 0
  w1 : Word := 0
  w2 : Word := 0
  w3 : Word := 0
  deriving DecidableEq, Repr

namespace W4

def get (w : W4) : Nat → Word
  | 0 => w.w0
  | 1 => w.w1
  | 2 => w.w2
  | _ => w.w3

end W4

/-- The key schedule: the four key words and their fold with the constant (R121). -/
def ksWord (k : W4) : Nat → Word
  | 0 => k.w0
  | 1 => k.w1
  | 2 => k.w2
  | 3 => k.w3
  | _ => k.w0 ^^^ k.w1 ^^^ k.w2 ^^^ k.w3 ^^^ 0x5AD01E55#32

/-- `inject(s)` of R121. -/
def inject (k x : W4) (s : Nat) : W4 :=
  ⟨x.w0 + ksWord k (s % 5), x.w1 + ksWord k ((s + 1) % 5), x.w2 + ksWord k ((s + 2) % 5),
    x.w3 + ksWord k ((s + 3) % 5) + BitVec.ofNat 32 s⟩

def rotA : Nat → Nat
  | 0 => 16 | 1 => 8 | 2 => 24 | _ => 12
def rotB : Nat → Nat
  | 0 => 12 | 1 => 20 | 2 => 4 | _ => 28

/-- One round of R121, with the exchange and the injection after every second round. -/
def mixRound (k x : W4) (r : Nat) : W4 :=
  let x0 := x.w0 + x.w1
  let x1 := (x.w1.rotateLeft (rotA (r % 4))) ^^^ x0
  let x2 := x.w2 + x.w3
  let x3 := (x.w3.rotateLeft (rotB (r % 4))) ^^^ x2
  let y : W4 := ⟨x0, x3, x2, x1⟩
  if r % 2 = 1 then inject k y ((r + 1) / 2) else y

/-- One evaluation of the generator: key `k`, counter `x` (R121). -/
def mix (k x : W4) : W4 := (List.range 10).foldl (mixRound k) (inject k x 0)

def lo32 (d : Dword) : Word := d.truncate 32
def hi32 (d : Dword) : Word := (d >>> 32).truncate 32
def joinHiLo (hi lo : Word) : Dword := hi ++ lo

/-- The key and the counter of one evaluation (Table 06-1). -/
def driftKey (seed drift : Dword) : W4 := ⟨lo32 seed, hi32 seed, lo32 drift, hi32 drift⟩
def driftCtr (elem : Nat) (tensor : Nat) (pos : Nat) : W4 :=
  ⟨BitVec.ofNat 32 elem, BitVec.ofNat 32 (elem >>> 32),
    BitVec.ofNat 32 ((bitsAt pos 32 16) * 2 ^ 16 + tensor % 2 ^ 16), BitVec.ofNat 32 pos⟩

/-- What a draw needs besides the element index: seed, drift stream value, tensor and draw position. -/
structure DrawCtx where
  seed : Dword := 0
  drift : Dword := 0
  tensor : Nat := 0
  pos : Nat := 0
  deriving DecidableEq, Repr

/-- The drift evaluation at an element index. -/
def DrawCtx.eval (c : DrawCtx) (elem : Nat) : W4 :=
  mix (driftKey c.seed c.drift) (driftCtr elem c.tensor c.pos)

end Sys2Proof.Machine
end

