-- ==== Sys2Proof/Config.lean ====
section
/-!
DEFINITION. What an implementation fixes and what the spec leaves open. Every constant here is opaque:
nothing in Lean can evaluate it, so a statement holds for every value of it.
-/

namespace Sys2Proof.Config

/-- FREE VALUES of the machine: the value that draw `n` of an open value takes. DESIGN CHOICE, log 4. -/
opaque freeValue : Nat → Dword

/-- The result of a vector operation at operands for which no exact value exists and the spec states no
result (log2 of 0, a zero divisor), and of an INT32 element that dropout keeps, by its value and KEEP. First argument: 0 div,
1 recip, 2 sqrt, 3 rsqrt, 4 log2, 5 dropout. DESIGN CHOICE, log 11. -/
opaque unstated : Nat → Word → Word → Word

/-- An entry of the expander table of a vision node's operand (0 input, 1 weights), by descriptor and code: the descriptor
has no field for the table's address (R81, Table 13-5). DESIGN CHOICE, log 11. -/
opaque visTable : BitVec 512 → Nat → Nat → Word

/-- The FP32 product of a convolution output whose taps read pixels with different scales or zero points, for which R116
has no formula: by the side records of the taps, their codes and the weights. DESIGN CHOICE, log 11. -/
opaque mixedScales : List (Word × Word) → List (Option Word × Word) → Word

/-- The tensor and the draw position of a scan node's stochastic rounding, by graph and node: its descriptor has no drift
word (R88, Table 12-5). DESIGN CHOICE, log 11. -/
opaque scanTensor : Nat → Nat → Nat
opaque scanDraw : Nat → Nat → Nat

/-- The largest offset, in ns, at which the timebase counts as within its source's tolerance (TCK_STATUS.LOCKED,
Table 02-5), which the spec does not state. DESIGN CHOICE, log 16. -/
opaque lockTolerance : Nat

/-- Which member of a sequence's SPAN a package is, under LAYOUT POSITION (R254), by global handle: the spec does not
state how the part knows it. DESIGN CHOICE, log 23. -/
opaque spanMember : Nat → Nat

/-- The 16-bit label of a fabric flow by traffic class and flow (R401): the part assigns it and the spec does not say how.
DESIGN CHOICE, log 4. -/
opaque flowLabel : Nat → Nat → Nat

/-- Whether a quotient that is not exact is rounded up, where the spec states no rounding (DIV_PPM of Table 20-3).
DESIGN CHOICE, log 18. -/
opaque roundsUp : Int → Int → Bool

/-- Ripple's arithmetic that the spec leaves without formulas (R317): the 40 log-band energies and the energy of a frame's
samples, what a model's bytes make of its state and the energies (scores and new state), and whether a model's bytes
keep the Ripple model format and its limits. DESIGN CHOICE, log 27. -/
opaque bandEnergies : List Int → List Int
opaque frameEnergy : List Int → Int
opaque rippleModel : List Byte → List Byte → List Int → List Int × List Byte
opaque rippleAccepts : List Byte → Bool

/-- Whether the code of a granule or word sees an error in more of its symbols or bits than it is sure to detect (R166), by
the symbols or the word and bits in error. DESIGN CHOICE, log 6. -/
opaque codeSees : List Nat → Bool

end Sys2Proof.Config
end

