-- ==== Sys2Proof/Machine/Float.lean ====
section
/-!
DEFINITION. Exact dyadic arithmetic under the float formats of the part: the encodings of Table 04-2,
rounding (R84, R108), and the FP32 operations of Table 04-7. A value is a sign, a natural number and a
power of two, so every product and sum is exact until the one rounding the spec gives it.
-/

namespace Sys2Proof.Machine

/-- The value of a float: not a number, an infinity, or `(-1)^neg * m * 2^e`. -/
inductive FVal where
  | nan
  | inf (neg : Bool)
  | fin (neg : Bool) (m : Nat) (e : Int)
  deriving DecidableEq, Repr

/-- Rounding directions: the two internal modes of R84, the quantiser's own directed ones (R108), and the two others that
a nomad core's instructions name (R140): to nearest with ties away from zero, and to odd. -/
inductive RMode where
  | rne | rtz | up | down | rmm | odd
  deriving DecidableEq, Repr

/-- What stands at the top of a format's range (Table 04-2). -/
inductive FTop where
  | ieee | e4m3 | none
  deriving DecidableEq, Repr

/-- A float format: exponent bits, fraction bits, bias and top of range (Table 04-2). -/
structure FFmt where
  eb : Nat
  fb : Nat
  bias : Nat
  top : FTop
  deriving DecidableEq, Repr

namespace FFmt

def fp32 : FFmt := ⟨8, 23, 127, .ieee⟩
def bf16 : FFmt := ⟨8, 7, 127, .ieee⟩
def fp16 : FFmt := ⟨5, 10, 15, .ieee⟩
def fp64 : FFmt := ⟨11, 52, 1023, .ieee⟩
def e4m3 : FFmt := ⟨4, 3, 7, .e4m3⟩
def e5m2 : FFmt := ⟨5, 2, 15, .ieee⟩
def e3m2 : FFmt := ⟨3, 2, 3, .none⟩
def e2m3 : FFmt := ⟨2, 3, 1, .none⟩
def e2m1 : FFmt := ⟨2, 1, 1, .none⟩

/-- Weight of the last place of a subnormal, as a power of two. -/
def qmin (f : FFmt) : Int := 1 - (f.bias : Int) - (f.fb : Int)

/-- The value a code encodes (R74). -/
def decode (f : FFmt) (c : Nat) : FVal :=
  let frac := c % 2 ^ f.fb
  let ex := (c >>> f.fb) % 2 ^ f.eb
  let neg := bitAt c (f.fb + f.eb)
  let top := 2 ^ f.eb - 1
  if f.top = .ieee ∧ ex = top then (if frac = 0 then .inf neg else .nan)
  else if f.top = .e4m3 ∧ ex = top ∧ frac = 2 ^ f.fb - 1 then .nan
  else if ex = 0 then .fin neg frac f.qmin
  else .fin neg (2 ^ f.fb + frac) (f.qmin + (ex : Int) - 1)

/-- The largest finite magnitude, as `(m, e)`. -/
def maxFin (f : FFmt) : Nat × Int :=
  let ex : Nat := match f.top with
    | .ieee => 2 ^ f.eb - 2
    | _ => 2 ^ f.eb - 1
  let m := match f.top with
    | .e4m3 => 2 ^ (f.fb + 1) - 2
    | _ => 2 ^ (f.fb + 1) - 1
  (m, f.qmin + (ex : Int) - 1)

/-- The code of a magnitude that the format holds exactly. -/
def encodeMag (f : FFmt) (m : Nat) (q : Int) : Nat :=
  if m = 0 then 0 else
  let bl := m.log2
  let msb : Int := q + (bl : Int)
  if msb < 1 - (f.bias : Int) then m <<< (q - f.qmin).toNat
  else
    let sig := if f.fb ≤ bl then m >>> (bl - f.fb) else m <<< (f.fb - bl)
    ((msb + (f.bias : Int)).toNat <<< f.fb) + (sig - 2 ^ f.fb)

def signBit (f : FFmt) (neg : Bool) : Nat := if neg then 2 ^ (f.fb + f.eb) else 0

/-- The canonical NaN of the format (R75); formats without one write +0. -/
def nanCode (f : FFmt) : Nat := match f.top with
  | .ieee => (2 ^ f.eb - 1) * 2 ^ f.fb + 2 ^ (f.fb - 1)
  | .e4m3 => 0x7F
  | .none => 0

def infCode (f : FFmt) (neg : Bool) : Nat := f.signBit neg + (2 ^ f.eb - 1) * 2 ^ f.fb

def maxCode (f : FFmt) (neg : Bool) : Nat := f.signBit neg + f.encodeMag f.maxFin.1 f.maxFin.2

end FFmt

/-- `m * 2^e` against `m' * 2^e'`. -/
def magLt (m : Nat) (e : Int) (m' : Nat) (e' : Int) : Bool :=
  if e ≤ e' then decide (m < m' <<< (e' - e).toNat) else decide (m <<< (e - e').toNat < m')

/-- Rounds a magnitude to `p` significant bits, no finer than `2^qmin`. `sticky` says that the exact
value lies strictly between `m * 2^e` and the next multiple of `2^e`. -/
def roundMag (p : Nat) (qmin : Int) (mode : RMode) (neg : Bool) (m : Nat) (e : Int) (sticky : Bool) :
    Nat × Int :=
  let q := max (e + (m.log2 : Int) + 1 - (p : Int)) qmin
  if q ≤ e then (m <<< (e - q).toNat, q)
  else
    let d := (q - e).toNat
    let t := m >>> d
    let rem := m % 2 ^ d
    let half := 2 ^ (d - 1)
    let inexact := rem != 0 || sticky
    let bump := match mode with
      | .rne => decide (half < rem) || (rem == half && (sticky || t % 2 == 1))
      | .rtz => false
      | .up => !neg && inexact
      | .down => neg && inexact
      | .rmm => decide (half ≤ rem)
      | .odd => inexact && t % 2 == 0
    (if bump then t + 1 else t, q)

/-- Rounds into a format with the format's own overflow (R84); the Boolean says that it overflowed. -/
def roundFmtO (f : FFmt) (mode : RMode) (neg : Bool) (m : Nat) (e : Int) (sticky : Bool) : Nat × Bool :=
  if m = 0 ∧ !sticky then (f.signBit neg, false) else
  let (m', q) := roundMag (f.fb + 1) f.qmin mode neg m e sticky
  if magLt f.maxFin.1 f.maxFin.2 m' q then
    let toMax := match mode with
      | .rne => false
      | .rtz => true
      | .up => neg
      | .down => !neg
      | .rmm => false
      | .odd => true
    (if toMax then f.maxCode neg else f.infCode neg, true)
  else (f.signBit neg + f.encodeMag m' q, false)

/-- Rounds into FP32 and says whether it overflowed. -/
def round32O (mode : RMode) (neg : Bool) (m : Nat) (e : Int) (sticky : Bool) : Word × Bool :=
  let r := roundFmtO .fp32 mode neg m e sticky
  (BitVec.ofNat 32 r.1, r.2)

def val32 (w : Word) : FVal := FFmt.fp32.decode w.toNat

def nan32 : Word := 0x7FC00000#32
def inf32 (neg : Bool) : Word := if neg then 0xFF800000#32 else 0x7F800000#32
def zero32 (neg : Bool) : Word := if neg then 0x80000000#32 else 0#32
def one32 : Word := 0x3F800000#32

def FVal.isNan : FVal → Bool | .nan => true | _ => false
def FVal.isFin : FVal → Bool | .fin _ _ _ => true | _ => false
def FVal.isInf : FVal → Bool | .inf _ => true | _ => false

def isNan32 (w : Word) : Bool := (val32 w).isNan
def isFin32 (w : Word) : Bool := (val32 w).isFin
def isInf32 (w : Word) : Bool := (val32 w).isInf

/-- The signed integer `v` with `±m * 2^e = v * 2^base`, for `base ≤ e`. -/
def scaled (neg : Bool) (m : Nat) (e base : Int) : Int :=
  let k : Int := ((m <<< (e - base).toNat : Nat) : Int)
  if neg then -k else k

/-- The sign of an exact zero sum (IEEE 754): minus only when rounding down. -/
def zeroSumSign (mode : RMode) : Bool := mode == .down

/-- Rounds the exact signed value `v * 2^base` in a format. -/
def roundIntO (f : FFmt) (mode : RMode) (v : Int) (base : Int) : Nat × Bool :=
  roundFmtO f mode (decide (v < 0)) v.natAbs base false

/-- IEEE 754 addition in a format under a mode, with R75 for NaN; with its overflow. -/
def addFO (f : FFmt) (mode : RMode) (a b : FVal) : Nat × Bool :=
  match a, b with
  | .nan, _ => (f.nanCode, false)
  | _, .nan => (f.nanCode, false)
  | .inf s, .inf t => (if s = t then f.infCode s else f.nanCode, false)
  | .inf s, _ => (f.infCode s, false)
  | _, .inf t => (f.infCode t, false)
  | .fin s m e, .fin t n g =>
    let base := min e g
    let v := scaled s m e base + scaled t n g base
    if v = 0 then
      (f.signBit (if m = 0 ∧ n = 0 ∧ s = t then s else zeroSumSign mode), false)
    else roundIntO f mode v base

def FVal.neg : FVal → FVal
  | .nan => .nan
  | .inf s => .inf (!s)
  | .fin s m e => .fin (!s) m e

/-- The exact product of two values; `nan` for zero times infinity. -/
def mulV (a b : FVal) : FVal :=
  match a, b with
  | .nan, _ => .nan
  | _, .nan => .nan
  | .inf s, .inf t => .inf (s != t)
  | .inf s, .fin t n _ => if n = 0 then .nan else .inf (s != t)
  | .fin s m _, .inf t => if m = 0 then .nan else .inf (s != t)
  | .fin s m e, .fin t n g => .fin (s != t) (m * n) (e + g)

def roundVO (f : FFmt) (mode : RMode) : FVal → Nat × Bool
  | .nan => (f.nanCode, false)
  | .inf s => (f.infCode s, false)
  | .fin s m e => roundFmtO f mode s m e false

/-- Fused multiply-add: one rounding of the exact value. -/
def fmaFO (f : FFmt) (mode : RMode) (a b c : FVal) : Nat × Bool := addFO f mode (mulV a b) c

/-- Division, correctly rounded. A zero divisor and infinity over infinity have no exact value: the
caller gives their result. -/
def divFO (f : FFmt) (mode : RMode) (a b : FVal) (open_ : Nat) : Nat × Bool :=
  match a, b with
  | .nan, _ => (f.nanCode, false)
  | _, .nan => (f.nanCode, false)
  | .inf _, .inf _ => (open_, false)
  | .inf s, .fin t n _ => (if n = 0 then open_ else f.infCode (s != t), false)
  | .fin s _ _, .inf t => (f.signBit (s != t), false)
  | .fin s m e, .fin t n g =>
    if n = 0 then (open_, false)
    else if m = 0 then (f.signBit (s != t), false)
    else
      let k := f.fb + 4 + n.log2
      let num := m <<< k
      roundFmtO f mode (s != t) (num / n) (e - g - (k : Int)) (num % n != 0)

/-- Integer square root, one bit of the result per unit of fuel. -/
def isqrtGo : Nat → Nat → Nat → Nat
  | 0, _, r => r
  | k + 1, x, r =>
    let r' := r + 2 ^ k
    isqrtGo k x (if r' * r' ≤ x then r' else r)

def isqrt (x : Nat) : Nat := isqrtGo (x.log2 / 2 + 1) x 0

/-- Square root, correctly rounded; `open_` for a negative operand. -/
def sqrtFO (f : FFmt) (mode : RMode) (a : FVal) (open_ : Nat) : Nat × Bool :=
  match a with
  | .nan => (f.nanCode, false)
  | .inf s => (if s then open_ else f.infCode false, false)
  | .fin s m e =>
    if m = 0 then (f.signBit s, false)
    else if s then (open_, false)
    else
      let k0 := 2 * (f.fb + 3)
      let k := if (e - (k0 : Int)) % 2 = 0 then k0 else k0 + 1
      let x := m <<< k
      let r := isqrt x
      roundFmtO f mode false r ((e - (k : Int)) / 2) (r * r != x)

/-- Reciprocal square root, correctly rounded; `open_` for zero and negative operands. -/
def rsqrtFO (f : FFmt) (mode : RMode) (a : FVal) (open_ : Nat) : Nat × Bool :=
  match a with
  | .nan => (f.nanCode, false)
  | .inf s => (if s then open_ else f.signBit false, false)
  | .fin s m e =>
    if m = 0 ∨ s then (open_, false)
    else
      let m' := if e % 2 = 0 then m else 2 * m
      let e' := if e % 2 = 0 then e else e - 1
      let k := f.fb + 6 + m'.log2
      let y := 2 ^ (2 * k)
      let r := isqrt (y / m')
      roundFmtO f mode false r (-(k : Int) - e' / 2) (r * r * m' != y)

/-- Natural logarithm of 2 times 2^256, rounded down. -/
def ln2Fix : Nat := 0xb17217f7d1cf79abc9e3b39803f2f6af40f343267298b62d8a0d175b8baafa2b

/-- `sum t^i / i!` for `i` up to the first argument plus the terms already in `acc`, in units of `2^-256`, by
Horner's rule. -/
def expSeries (t : Nat) : Nat → Nat → Nat
  | 0, acc => acc
  | k + 1, acc => expSeries t k (2 ^ 256 + ((t * acc) >>> 256) / (k + 1))

/-- 2 to a power, correctly rounded. A power that is not a whole number is irrational, so the
256-bit value decides every rounding. -/
def exp2FO (f : FFmt) (mode : RMode) (a : FVal) : Nat × Bool :=
  match a with
  | .nan => (f.nanCode, false)
  | .inf s => (if s then f.signBit false else f.infCode false, false)
  | .fin s m e =>
    if m = 0 then roundFmtO f mode false 1 0 false
    else
      -- the power in units of 2^-base
      let base : Nat := (max (-e) 0).toNat
      let x := m <<< (max e 0).toNat
      let whole := x >>> base
      if 2048 ≤ whole then
        (if s then roundFmtO f mode false 1 (-4096) true else roundFmtO f mode false 1 4096 true)
      else if x % 2 ^ base = 0 then
        roundFmtO f mode false 1 (if s then -(whole : Int) else (whole : Int)) false
      else
        let v : Int := if s then -(x : Int) else (x : Int)
        let n : Int := v / ((2 ^ base : Nat) : Int)
        let fr : Nat := (v - n * ((2 ^ base : Nat) : Int)).toNat
        let t := (fr * ln2Fix) >>> base
        roundFmtO f mode false (expSeries t 60 (2 ^ 256)) (n - 256) true

/-- Bits of log2 of a number in [1, 2), scaled by 2^400, most significant first. -/
def log2Bits : Nat → Nat → Nat → Nat
  | 0, _, acc => acc
  | k + 1, y, acc =>
    let y2 := (y * y) >>> 400
    if 2 ^ 401 ≤ y2 then log2Bits k (y2 >>> 1) (2 * acc + 1) else log2Bits k y2 (2 * acc)

/-- Logarithm to base 2, correctly rounded; `open_` for zero and negative operands. -/
def log2FO (f : FFmt) (mode : RMode) (a : FVal) (open_ : Nat) : Nat × Bool :=
  match a with
  | .nan => (f.nanCode, false)
  | .inf s => (if s then open_ else f.infCode false, false)
  | .fin s m e =>
    if m = 0 ∨ s then (open_, false)
    else
      let n : Int := e + (m.log2 : Int)
      if m = 2 ^ m.log2 then
        (if n = 0 then (f.signBit false, false) else roundIntO f mode n 0)
      else
        let y := (m <<< 400) >>> m.log2
        let fr := log2Bits 160 y 0
        let v : Int := n * ((2 ^ 160 : Nat) : Int) + (fr : Int)
        if 0 ≤ v then roundFmtO f mode false v.toNat (-160) true
        else roundFmtO f mode true ((-v).toNat - 1) (-160) true

/-! FP32 operations on register words. -/

/-- `fp32_add` (R85). -/
def fadd (m : RMode) (a b : Word) : Word := BitVec.ofNat 32 (addFO .fp32 m (val32 a) (val32 b)).1
def fsub (m : RMode) (a b : Word) : Word := BitVec.ofNat 32 (addFO .fp32 m (val32 a) (val32 b).neg).1
def fmul (m : RMode) (a b : Word) : Word :=
  BitVec.ofNat 32 (roundVO .fp32 m (mulV (val32 a) (val32 b))).1
def ffma (m : RMode) (a b c : Word) : Word :=
  BitVec.ofNat 32 (fmaFO .fp32 m (val32 a) (val32 b) (val32 c)).1
def fdiv (m : RMode) (a b : Word) : Word :=
  BitVec.ofNat 32 (divFO .fp32 m (val32 a) (val32 b) (Config.unstated 0 a b).toNat).1
def frecip (m : RMode) (a : Word) : Word :=
  BitVec.ofNat 32 (divFO .fp32 m (val32 one32) (val32 a) (Config.unstated 1 a 0).toNat).1
def fsqrt (m : RMode) (a : Word) : Word :=
  BitVec.ofNat 32 (sqrtFO .fp32 m (val32 a) (Config.unstated 2 a 0).toNat).1
def frsqrt (m : RMode) (a : Word) : Word :=
  BitVec.ofNat 32 (rsqrtFO .fp32 m (val32 a) (Config.unstated 3 a 0).toNat).1
def fexp2 (m : RMode) (a : Word) : Word := BitVec.ofNat 32 (exp2FO .fp32 m (val32 a)).1
def flog2 (m : RMode) (a : Word) : Word :=
  BitVec.ofNat 32 (log2FO .fp32 m (val32 a) (Config.unstated 4 a 0).toNat).1
def fneg (a : Word) : Word := a ^^^ 0x80000000#32
/-- exp(x) = exp2(mul(x, log2 e)) (Table 04-7). -/
def fexp (m : RMode) (a : Word) : Word := fexp2 m (fmul m a 0x3FB8AA3B#32)
/-- sigmoid(x) = recip(add(1, exp(-x))). -/
def fsigmoid (m : RMode) (a : Word) : Word := frecip m (fadd m one32 (fexp m (fneg a)))
/-- tanh(x) = fma(2, sigmoid(mul(2, x)), -1). -/
def ftanh (m : RMode) (a : Word) : Word :=
  ffma m 0x40000000#32 (fsigmoid m (fmul m 0x40000000#32 a)) 0xBF800000#32

/-- The order of FP32 numbers with -0 below +0: a key that rises with the value. -/
def fkey (a : Word) : Int :=
  if a.getLsbD 31 then -((a.toNat % 2 ^ 31 : Nat) : Int) - 1 else ((a.toNat : Nat) : Int)

/-- `a < b` for numbers, with both zeros equal. -/
def fltNum (a b : Word) : Bool :=
  decide (fkey a < fkey b) && !(a.toNat % 2 ^ 31 == 0 && b.toNat % 2 ^ 31 == 0)
def fleNum (a b : Word) : Bool := !(fltNum b a)
def feqNum (a b : Word) : Bool := !(fltNum a b) && !(fltNum b a)

/-- min and max of Table 04-7: -0 below +0, NaN gives canonical NaN. -/
def fmin (a b : Word) : Word :=
  if isNan32 a || isNan32 b then nan32 else if fkey a ≤ fkey b then a else b
def fmax (a b : Word) : Word :=
  if isNan32 a || isNan32 b then nan32 else if fkey a ≤ fkey b then b else a

/-- A natural number in FP32 under a mode. -/
def ofNat32 (m : RMode) (n : Nat) : Word := (round32O m false n 0 false).1
def ofInt32 (m : RMode) (v : Int) : Word := BitVec.ofNat 32 (roundIntO .fp32 m v 0).1

end Sys2Proof.Machine
end

