-- ==== Sys2Proof/Machine/Formats.lean ====
section
/-!
DEFINITION. Formats, packing, the exact block accumulation and its tree, and output conversion
(R73 to R92) as the matrix engines, vector units, cistern engines and nomad reductions share them.
-/

namespace Sys2Proof.Machine

/-- Bits per element of a format code (Table 04-1). -/
def fmtBits : Nat → Nat
  | 0 => 32 | 1 => 16 | 2 => 16 | 3 => 8 | 4 => 8 | 5 => 6 | 6 => 6 | 7 => 4 | 8 => 8 | 9 => 4
  | 10 => 2 | 11 => 3 | 12 => 4 | 13 => 6 | 14 => 8 | _ => 32

/-- The float format of a code, for codes 0 to 7. -/
def fmtFloat : Nat → Option FFmt
  | 0 => some .fp32 | 1 => some .bf16 | 2 => some .fp16 | 3 => some .e4m3
  | 4 => some .e5m2 | 5 => some .e3m2 | 6 => some .e2m3 | 7 => some .e2m1 | _ => none

def fmtIsFloat (c : Nat) : Bool := decide (c ≤ 7)
def fmtIsInt (c : Nat) : Bool := c == 8 || c == 9 || c == 15
def fmtIsU (c : Nat) : Bool := decide (10 ≤ c ∧ c ≤ 14)

/-- Bytes of one row of `n` elements: rows start on byte boundaries (R76). -/
def rowBytes (fmt n : Nat) : Nat := (n * fmtBits fmt + 7) / 8

/-- A two's complement field of `w` bits. -/
def sext (w c : Nat) : Int :=
  let c := c % 2 ^ w
  if 2 ^ (w - 1) ≤ c then (c : Int) - ((2 ^ w : Nat) : Int) else (c : Int)

/-- The FP32 word that equals a float code's value; every float value is exact in FP32 (R74). -/
def toFp32 (fmt c : Nat) : Word :=
  match fmtFloat fmt with
  | some f => BitVec.ofNat 32 (roundVO .fp32 .rne (f.decode c)).1
  | none => 0

/-- The numeric mode word (Table 04-4). -/
structure ModeWord where
  raw : Word
  deriving DecidableEq, Repr

namespace ModeWord
def fmtA (m : ModeWord) : Nat := bitsAt m.raw.toNat 0 4
def fmtB (m : ModeWord) : Nat := bitsAt m.raw.toNat 4 4
def fmtOut (m : ModeWord) : Nat := bitsAt m.raw.toNat 8 4
def rnd (m : ModeWord) : Nat := bitsAt m.raw.toNat 12 2
def sr3 (m : ModeWord) : Bool := bitAt m.raw.toNat 14
def sat (m : ModeWord) : Bool := bitAt m.raw.toNat 15
def expA (m : ModeWord) : Nat := bitsAt m.raw.toNat 16 2
def expB (m : ModeWord) : Nat := bitsAt m.raw.toNat 18 2
def tgtA (m : ModeWord) : Bool := bitAt m.raw.toNat 20
def tgtB (m : ModeWord) : Bool := bitAt m.raw.toNat 21
def accC (m : ModeWord) : Bool := bitAt m.raw.toNat 22
def reserved (m : ModeWord) : Nat := bitsAt m.raw.toNat 23 9
/-- The internal rounding mode (R84). -/
def internal (m : ModeWord) : RMode := if m.rnd = 1 then .rtz else .rne
end ModeWord

/-- A result and the events it counts (R98, R99): overflows from finite operands, NaN outputs,
saturations and draws. -/
structure Cnts where
  infgen : Nat := 0
  nan : Nat := 0
  sat : Nat := 0
  sr : Nat := 0
  drop : Nat := 0
  deriving DecidableEq, Repr

def Cnts.add (a b : Cnts) : Cnts := ⟨a.infgen + b.infgen, a.nan + b.nan, a.sat + b.sat, a.sr + b.sr, a.drop + b.drop⟩

/-- Weight of the least significant bit of the 560-bit window (R83). -/
def winBase : Int := -298

/-- What a block's window holds: the exact sum of its finite products, the special operands tracked
beside it (R85), and whether every product so far is -0 (R84). -/
structure Window where
  sum : Int := 0
  nan : Bool := false
  posInf : Bool := false
  negInf : Bool := false
  allNegZero : Bool := true
  terms : Nat := 0
  deriving DecidableEq, Repr

/-- One product enters the window. -/
def Window.feed (w : Window) (p : FVal) : Window :=
  let w := { w with terms := w.terms + 1 }
  match p with
  | .nan => { w with nan := true, allNegZero := false }
  | .inf false => { w with posInf := true, allNegZero := false }
  | .inf true => { w with negInf := true, allNegZero := false }
  | .fin s m e =>
    { w with sum := w.sum + scaled s m e winBase, allNegZero := w.allNegZero && (s && m == 0) }

/-- The block result in FP32 and whether it overflowed from finite operands (R83 to R85). -/
def Window.result (w : Window) (mode : RMode) : Word × Bool :=
  if w.nan || (w.posInf && w.negInf) then (nan32, false)
  else if w.posInf then (inf32 false, false)
  else if w.negInf then (inf32 true, false)
  else if w.sum = 0 then (zero32 (decide (0 < w.terms) && w.allNegZero), false)
  else
    let r := roundIntO .fp32 mode w.sum winBase
    (BitVec.ofNat 32 r.1, r.2)

/-- Splits a list into blocks of 32 (R83); fuel is the list's length. -/
def chunksOf (n : Nat) {α : Type} : Nat → List α → List (List α)
  | 0, _ => []
  | _, [] => []
  | k + 1, l => l.take n :: chunksOf n k (l.drop n)

def blocksOf {α : Type} (l : List α) : List (List α) := chunksOf 32 l.length l

/-- The block result of a list of products. -/
def blockSum (mode : RMode) (ps : List FVal) : Word × Bool :=
  (ps.foldl Window.feed {}).result mode

/-- A value with what R99 needs of its history: whether it, or a value it was formed from, overflowed from finite
operands, and how many overflows were counted on the way. -/
structure Traced where
  v : Word
  ovf : Bool := false
  n : Nat := 0
  deriving DecidableEq, Repr
/-- A result and its overflow flag, from operands with the joint history given: an overflow counts where it first
happened, and no later step that it passes through counts it again (R99). -/
def Traced.of (r : Word × Bool) (ovf : Bool) (n : Nat) : Traced := ⟨r.1, ovf || r.2, n + b2n (r.2 && !ovf)⟩
/-- `fp32_add` of two traced values. -/
def addT (mode : RMode) (a b : Traced) : Traced :=
  let r := addFO .fp32 mode (val32 a.v) (val32 b.v)
  .of (BitVec.ofNat 32 r.1, r.2) (a.ovf || b.ovf) (a.n + b.n)

/-- One level of the tree of R85. -/
def treeLevel (mode : RMode) : List Traced → List Traced
  | a :: b :: t => addT mode a b :: treeLevel mode t
  | l => l

def treeGo (mode : RMode) : Nat → List Traced → List Traced
  | 0, l => l
  | k + 1, l => if l.length ≤ 1 then l else treeGo mode k (treeLevel mode l)

/-- The tree of R85 over block results; +0 for none. -/
def treeOf (mode : RMode) (blk : List Traced) : Traced := (treeGo mode blk.length blk).headD ⟨0, false, 0⟩

/-- A block's result, traced. -/
def blockT (mode : RMode) (ps : List FVal) : Traced := .of (blockSum mode ps) false 0
/-- An exact reduction of products: blocks of 32, then the tree (R83, R85). -/
def reduceT (mode : RMode) (ps : List FVal) : Traced := treeOf mode ((blocksOf ps).map (blockT mode))
def reduceProducts (mode : RMode) (ps : List FVal) : Word × Nat := ((reduceT mode ps).v, (reduceT mode ps).n)

def products (a b : List Word) : List FVal := List.zipWith (fun x y => mulV (val32 x) (val32 y)) a b
def dot32 (mode : RMode) (a b : List Word) : Word × Nat := reduceProducts mode (products a b)
def sum32 (mode : RMode) (a : List Word) : Word × Nat := reduceProducts mode (a.map val32)

/-- max and min of R92: the exact extreme, with R75 for NaN. An empty reduction has no extreme: +0 (R85's empty level). -/
def extreme (mx : Bool) : List Word → Word
  | [] => 0
  | a :: t => t.foldl (fun m x => if mx then fmax m x else fmin m x) (if isNan32 a then nan32 else a)

/-- The two draw widths of R88. -/
def srBits (sr3 : Bool) : Nat := if sr3 then 3 else 4

/-- Converts a value to a float format under RND and SAT (R87 to R89). `word0` is word 0 of the element's
drift evaluation, used only under RND = 2 and only when the conversion is inexact. -/
def convertFloat (f : FFmt) (isFp32 : Bool) (rnd : Nat) (sr3 sat : Bool) (word0 : Word) (v : FVal) : Nat × Cnts :=
  match v with
  | .nan => (f.nanCode, { nan := if f.top = .none then 0 else 1 })
  | .inf s =>
    if sat then (f.maxCode s, { sat := 1 })
    else match f.top with
      | .ieee => (f.infCode s, {})
      | .e4m3 => (f.nanCode, { sat := 1 })
      | .none => (f.maxCode s, { sat := 1 })
  | .fin s m e =>
    if m = 0 then (f.signBit s, {}) else
    let tr := roundMag (f.fb + 1) f.qmin .rtz s m e false
    let q := tr.2
    let exact := decide (q ≤ e) || (m % 2 ^ (q - e).toNat == 0)
    let nb := srBits sr3
    let (mag, drew) : Nat × Nat :=
      if exact then (tr.1, 0)
      else if rnd = 1 then (tr.1, 0)
      else if rnd = 2 then
        let d := (q - e).toNat
        let fq := ((m % 2 ^ d) <<< nb) >>> d
        (if 2 ^ nb ≤ fq + bitsAt word0.toNat 0 nb then tr.1 + 1 else tr.1, 1)
      else ((roundMag (f.fb + 1) f.qmin .rne s m e false).1, 0)
    if magLt f.maxFin.1 f.maxFin.2 mag q && !isFp32 then
      let c := if sat then f.maxCode s else match f.top with
        | .ieee => f.infCode s
        | .e4m3 => f.nanCode
        | .none => f.maxCode s
      (c, { sat := 1, sr := drew })
    else (f.signBit s + f.encodeMag mag q, { sr := drew })

/-- Converts an FP32 value to INT32 under RND (Table 04-7). -/
def convertInt32 (rnd : Nat) (sr3 : Bool) (word0 : Word) (v : FVal) : Nat × Cnts :=
  let sat (s : Bool) : Nat := if s then 0x80000000 else 0x7FFFFFFF
  match v with
  | .nan => (0, { nan := 1 })
  | .inf s => (sat s, { sat := 1 })
  | .fin s m e =>
    let d := (-e).toNat
    let t := if 0 ≤ e then m <<< e.toNat else m >>> d
    let rem := if 0 ≤ e then 0 else m % 2 ^ d
    let nb := srBits sr3
    let (mag, drew) : Nat × Nat :=
      if rem = 0 ∨ rnd = 1 then (t, 0)
      else if rnd = 2 then
        (if 2 ^ nb ≤ ((rem <<< nb) >>> d) + bitsAt word0.toNat 0 nb then t + 1 else t, 1)
      else (if 2 ^ (d - 1) < rem ∨ (rem = 2 ^ (d - 1) ∧ t % 2 = 1) then t + 1 else t, 0)
    if (s ∧ 2 ^ 31 < mag) ∨ (!s ∧ 2 ^ 31 ≤ mag) then (sat s, { sat := 1, sr := drew })
    else (if s then (2 ^ 32 - mag) % 2 ^ 32 else mag, { sr := drew })

/-- Converts an FP32 word to an output format code (R87); word 0 as for `convertFloat`. -/
def convertOut (mw : ModeWord) (word0 : Word) (v : Word) : Nat × Cnts :=
  match fmtFloat mw.fmtOut with
  | some f => convertFloat f (mw.fmtOut == 0) mw.rnd mw.sr3 mw.sat word0 (val32 v)
  | none => convertInt32 mw.rnd mw.sr3 word0 (val32 v)

/-- Whether converting `v` under this mode word takes a draw (R89). -/
def needsDraw (mw : ModeWord) (v : Word) : Bool := decide (0 < (convertOut mw 0 v).2.sr)

/-- Converts under round to nearest even without saturation, as attention's probabilities (R208). -/
def convertRne (fmt : Nat) (v : Word) : Nat :=
  match fmtFloat fmt with
  | some f => (convertFloat f (fmt == 0) 0 false false 0 (val32 v)).1
  | none => 0

/-- Dropout (R127): keeps or drops an element by the low 8 bits of word 1: the element, 1 where it was dropped, and
whether its scaling overflowed. -/
def dropout (mode : RMode) (keep : Nat) (word1 : Word) (x : Word) : Word × Nat × Bool :=
  if keep = 255 then (x, 0, false)
  else if bitsAt word1.toNat 0 8 ≤ keep then
    let r := roundVO .fp32 mode (mulV (val32 x) (val32 (fdiv .rne (ofNat32 .rne 256) (ofNat32 .rne (keep + 1)))))
    (BitVec.ofNat 32 r.1, 0, r.2)
  else (0, 1, false)

/-- The expander (R81) in affine mode: the integer itself, exact in FP32. -/
def expandAffine (q : Nat) : Word := ofNat32 .rne q

/-- The exact integer total of R82 with FMT_OUT INT32, saturated. -/
def intTotal (a b : List Int) (c : Int) : Nat :=
  let t := (List.zipWith (· * ·) a b).foldl (· + ·) 0 + c
  if t < -2147483648 then 0x80000000 else if 2147483647 < t then 0x7FFFFFFF
  else (t % 4294967296).toNat

/-- The integer total rounded once to FP32 (R82, FMT_OUT FP32). -/
def intTotalFp32 (mode : RMode) (a b : List Int) : Word :=
  ofInt32 mode ((List.zipWith (· * ·) a b).foldl (· + ·) 0)

end Sys2Proof.Machine
end

