-- ==== Sys2Proof/Machine/Quant.lean ====
section
/-!
DEFINITION. The quantiser (R101 to R113): the range a window gives, how a row is coded, how a step updates
the window, and when the margin adapts; and the dequantised product (R116).
-/

namespace Sys2Proof.Machine

/-- The 16-byte quantisation block (Table 05-1). -/
structure QBlock where
  w0 : Word := 0
  w1 : Word := 0
  w2 : Word := 0
  w3 : Word := 0
  deriving DecidableEq, Repr

namespace QBlock
def point (q : QBlock) : Nat := bitsAt q.w0.toNat 17 5
def marginInit (q : QBlock) : Nat := bitsAt q.w0.toNat 12 5
def depth (q : QBlock) : Nat := bitsAt q.w0.toNat 8 4 + 1
def stats (q : QBlock) : Bool := bitAt q.w0.toNat 6
def watch (q : QBlock) : Bool := bitAt q.w0.toNat 5
def srcRow (q : QBlock) : Bool := bitAt q.w0.toNat 4
def fmtQ (q : QBlock) : Nat := bitsAt q.w0.toNat 0 4
def active (q : QBlock) : Bool := fmtIsU q.fmtQ
def thresh (q : QBlock) : Nat := bitsAt q.w1.toNat 0 16
def initHi (q : QBlock) : Word := toFp32 1 (bitsAt q.w2.toNat 16 16)
def initLo (q : QBlock) : Word := toFp32 1 (bitsAt q.w2.toNat 0 16)
def qb (q : QBlock) : Bool := bitAt q.w3.toNat 3
def qa (q : QBlock) : Bool := bitAt q.w3.toNat 2
def groupB (q : QBlock) : Nat := match bitsAt q.w3.toNat 0 2 with | 1 => 32 | 2 => 64 | 3 => 128 | _ => 0
/-- The largest code, 2^w - 1. -/
def qmax (q : QBlock) : Nat := 2 ^ fmtBits q.fmtQ - 1
end QBlock

/-- A row's scale (FP32) and zero point (BF16 code). -/
structure RowScale where
  s : Word := 0
  z : Nat := 0
  deriving DecidableEq, Repr

/-- The derivation of R108 from the extremes `lo` and `hi` and the margin step `k`. -/
def deriveScale (qmax k : Nat) (lo hi : Word) : RowScale :=
  let d := fsub .up hi lo
  let e := fmul .up d (fdiv .rne (ofNat32 .rne k) (ofNat32 .rne 32))
  let loM := fsub .down lo e
  let hiM := fadd .up hi e
  let z := (roundVO .bf16 .down (val32 loM)).1
  let s := fdiv .up (fsub .up hiM (toFp32 1 z)) (ofNat32 .rne qmax)
  ⟨s, z⟩

def minList : List Word → Word
  | [] => 0
  | a :: t => t.foldl fmin a
def maxList : List Word → Word
  | [] => 0
  | a :: t => t.foldl fmax a

/-- The scale a window gives (R108, SRC = WINDOW). -/
def windowScale (q : QBlock) (w : QWindow) : RowScale :=
  if w.entries = [] then deriveScale q.qmax w.k q.initLo q.initHi
  else deriveScale q.qmax w.k (minList (w.entries.map (·.lo))) (maxList (w.entries.map (·.hi)))

/-- The nearest integer, ties to even; infinities lie beyond every code. -/
def roundHalfEven : FVal → Int
  | .nan => 0
  | .inf s => if s then -1 else 65536
  | .fin s m e =>
    let mag : Nat :=
      if 0 ≤ e then m <<< e.toNat
      else
        let d := (-e).toNat
        let t := m >>> d
        let rem := m % 2 ^ d
        if 2 ^ (d - 1) < rem ∨ (rem = 2 ^ (d - 1) ∧ t % 2 = 1) then t + 1 else t
    if s then -(mag : Int) else (mag : Int)

/-- The code of one element, and whether it was clipped and counted (R109). -/
def codeElem (sc : RowScale) (qmax : Nat) (x : Word) : Nat × Bool × Bool :=
  match val32 x with
  | .nan => (0, false, false)
  | .inf s => (if s then 0 else qmax, true, true)
  | .fin _ _ _ =>
    let r := fdiv .rne (fsub .rne x (toFp32 1 sc.z)) sc.s
    let q := roundHalfEven (val32 r)
    if q < 0 then (0, true, true)
    else if (qmax : Int) < q then (qmax, true, true)
    else (q.toNat, false, true)

/-- Whether a row is ordinary, flat or without a finite element (R110). -/
inductive RowKind where
  | plain | flat | nofin
  deriving DecidableEq, Repr

/-- What the quantiser writes for one row and counts from it. -/
structure QRow where
  kind : RowKind
  codes : List Nat
  scale : RowScale
  flags : Nat
  lo : Word
  hi : Word
  clipped : Nat
  total : Nat
  deriving DecidableEq, Repr

/-- One row of BF16 values (as FP32 words) through the quantiser (R108 to R110). -/
def quantRow (q : QBlock) (w : QWindow) (row : List Word) : QRow :=
  let fin := row.filter isFin32
  let zeros := row.map (fun _ => 0)
  match fin with
  | [] => ⟨.nofin, zeros, {}, 3 + w.k * 8, 0, 0, 0, 0⟩
  | a :: t =>
    if t.all (feqNum a) then
      let c := if fin.all (fun x => x == a) then a else 0
      ⟨.flat, zeros, ⟨0, (roundVO .bf16 .down (val32 c)).1⟩, 1 + w.k * 8, c, c, 0, 0⟩
    else
      let lo := minList fin
      let hi := maxList fin
      let sc := if q.srcRow then deriveScale q.qmax w.k lo hi else windowScale q w
      let cs := row.map (codeElem sc q.qmax)
      let cl := (cs.filter (·.2.1)).length
      ⟨.plain, cs.map (·.1), sc, (if 0 < cl then 4 else 0) + w.k * 8, lo, hi, cl,
        (cs.filter (·.2.2)).length⟩

/-- A quantised row of a step: the handle of the stream it belongs to, its point and what the quantiser made (R108, R111). -/
structure PointRow where
  own : Nat
  point : Nat
  row : QRow
  deriving DecidableEq, Repr

def sat32 (n : Nat) : Nat := min n 0xFFFFFFFF

/-- A saturation event (R113): margins before and after, the ceiling flag and the share. -/
structure SatEvent where
  oldK : Nat
  newK : Nat
  ceil : Bool
  share : Nat
  deriving DecidableEq, Repr

/-- The judgement of R113 over the window's entries. -/
def judgeWindow (q : QBlock) (ceiling : Nat) (w : QWindow) : QWindow × Option SatEvent :=
  let c := w.entries.foldl (fun n e => n + e.clipped) 0
  let t := w.entries.foldl (fun n e => n + e.total) 0
  if q.watch ∧ 16 * 65536 ≤ t * q.thresh ∧ q.thresh * t < c * 65536 then
    let k' := min (w.k + 1) ceiling
    ({ k := if ceiling ≤ w.k then w.k else k',
       entries := w.entries.map (fun e => { e with clipped := 0, total := 0 }) },
     some ⟨w.k, if ceiling ≤ w.k then w.k else k', decide (ceiling ≤ w.k), min (c * 65536 / t) 65535⟩)
  else (w, none)

/-- The end-of-step update of one window (R111). -/
def updateWindow (q : QBlock) (ceiling : Nat) (w : QWindow) (rows : List QRow) : QWindow × Option SatEvent :=
  let ok := rows.filter (fun r => r.kind = .plain)
  let w' : QWindow :=
    if ok = [] then w
    else
      let e : WinEntry := ⟨minList (ok.map (·.lo)), maxList (ok.map (·.hi)),
        sat32 (ok.foldl (fun n r => n + r.clipped) 0), sat32 (ok.foldl (fun n r => n + r.total) 0)⟩
      let es := w.entries ++ [e]
      { w with entries := es.drop (es.length - q.depth) }
  judgeWindow q ceiling w'

/-- The gatherer's record of a row (R112): least and greatest finite value, or two canonical NaNs. -/
def gatherRow (row : List Word) : Word × Word :=
  let fin := row.filter isFin32
  if fin = [] then (nan32, nan32) else (minList fin, maxList fin)

/-- The larger magnitude of a row's extremes, as BF16 (Table 05-4). -/
def maxAbs (row : List Word) : Nat :=
  let g := gatherRow row
  if isNan32 g.1 then 0 else max (g.1.toNat % 2 ^ 31) (g.2.toNat % 2 ^ 31) / 2 ^ 16

/-- Rounds an exact sum of products once in the window of R83 (`round_internal`, R116). -/
def roundProducts (mode : RMode) (ps : List (Traced × Traced)) : Traced :=
  .of (blockSum mode (ps.map (fun p => mulV (val32 p.1.v) (val32 p.2.v)))) (ps.any (fun p => p.1.ovf || p.2.ovf))
    (ps.foldl (fun n p => n + p.1.n + p.2.n) 0)

/-- The dequantised product of R116. `terms` pairs each element of A with that of B; an element that is absent, a padded tap,
gives the product +0 and is no real element of its block (R292, DEDUCED, log 35). `sb`, `zb` give each block's weight-group
scale and zero point. -/
def dequantT (mode : RMode) (sa za : Word) (terms : List (Option Word × Word)) (sb zb : List Word) : Traced :=
  let term (i : Nat) (l : List (Option Word × Word)) : Traced × Traced :=
    let s : Traced := ⟨sb.getD i one32, false, 0⟩
    let z : Traced := ⟨zb.getD i 0, false, 0⟩
    let real := l.filterMap (fun t => t.1.map (fun a => (a, t.2)))
    let p := blockT mode (l.map (fun t => match t.1 with
      | some a => mulV (val32 a) (val32 t.2)
      | none => .fin false 0 0))
    let qas := blockT mode (real.map (fun t => val32 t.1))
    let qbs := blockT mode (real.map (fun t => val32 t.2))
    (roundProducts mode [(s, p), (z, qas)], roundProducts mode [(s, qbs), (z, ⟨ofNat32 .rne real.length, false, 0⟩)])
  let yz := (blocksOf terms).zipIdx.map (fun x => term x.2 x.1)
  let yTot := treeOf mode (yz.map (·.1))
  let zTot := treeOf mode (yz.map (·.2))
  roundProducts mode [(⟨sa, false, 0⟩, yTot), (⟨za, false, 0⟩, zTot)]
/-- The dequantised product for one row of A and one column of B. `qa`, `qb` are the codes or values as FP32 words. -/
def dequantProduct (mode : RMode) (sa za : Word) (qa qb : List Word) (sb zb : List Word) : Traced :=
  dequantT mode sa za (List.zip (qa.map some) qb) sb zb

end Sys2Proof.Machine
end

