-- ==== Sys2Proof/Types/Graph.lean ====
section
/-!
DEFINITION. The decoded content of a Sandplan image's graphs and kernels (R56 to R61): operands, state items,
nodes and cost tables. Where a chapter gives a node's 64-byte descriptor the node holds those 512 bits; where the
spec gives a node's meaning and no byte layout its fields are typed (DESIGN CHOICE, log 7).
-/

namespace Sys2Proof.Machine

/-- Where an operand's bytes live (R273, R298). -/
inductive Home where
  | cluster | region | dram
  deriving DecidableEq, Repr

/-- One entry of a node's operand table (R142, R230, R261, R298). -/
inductive Operand where
  /-- A tensor of `len` bytes at offset `ofs` of its home. -/
  | tensor (home : Home) (ofs len : Nat)
  /-- A state item of the stream (R261). -/
  | state (item : Nat)
  /-- The staging slot of a layer (R238). -/
  | stage (layer : Nat)
  /-- A weight reference and its home (R273). -/
  | weight (id : Nat) (home : Home)
  deriving DecidableEq, Repr

/-- The kinds of state item (R261, Table 12-7). -/
inductive ItemKind where
  | hidden | convCache | scan
  deriving DecidableEq, Repr

/-- A state item a graph declares (R269, R273): kind, format code, size and initial value. -/
structure ItemDecl where
  kind : ItemKind := .hidden
  fmt : Nat := 0
  bytes : Nat := 0
  init : Option Nat := none
  width : Nat := 0
  deriving DecidableEq, Repr

/-- The vector unit's operations (Table 04-7, R92). -/
inductive VecOp where
  | add | sub | mul | fma | vmin | vmax | cmpLt | cmpEq | select | convert
  | iadd | isub | imul | ishl | ishr | isar | iand | ior | ixor
  | recip | sqrt | rsqrt | exp2 | log2 | div | exp | sigmoid | tanh
  deriving DecidableEq, Repr

/-- The vector reductions of R92. -/
inductive RedOp where
  | sum | dot | sumsq | max | min
  deriving DecidableEq, Repr

/-- The fields of a matrix node: rows of A (m × k) times columns of B (n × k), with optional accumulator input. -/
structure MatNode where
  mode : Word := 0
  drift : Word := 0xFF000000#32
  q : QBlock := {}
  m : Nat := 0
  n : Nat := 0
  k : Nat := 0
  sA : Nat := 255
  sB : Nat := 255
  sC : Nat := 255
  sOut : Nat := 255
  sSideA : Nat := 255
  sSideOut : Nat := 255
  sStats : Nat := 255
  /-- Offsets in the cluster store of the expander's tables (R81). -/
  tabA : Nat := 0
  tabB : Nat := 0
  /-- The row table (R108): four bytes a row, the global handle of the stream it belongs to. -/
  sRows : Nat := 255
  deriving DecidableEq, Repr

/-- The fields of an element-wise vector node over `rows` rows of `n` elements. -/
structure VecNode where
  op : VecOp := .add
  mode : Word := 0
  drift : Word := 0xFF000000#32
  q : QBlock := {}
  rows : Nat := 1
  n : Nat := 0
  sA : Nat := 255
  sB : Nat := 255
  sC : Nat := 255
  sOut : Nat := 255
  sSideOut : Nat := 255
  sStats : Nat := 255
  sRows : Nat := 255
  deriving DecidableEq, Repr

/-- The fields of a reduction node: one result per row. -/
structure RedNodeDesc where
  op : RedOp := .sum
  mode : Word := 0
  drift : Word := 0xFF000000#32
  rows : Nat := 1
  n : Nat := 0
  sA : Nat := 255
  sB : Nat := 255
  sOut : Nat := 255
  sRows : Nat := 255
  deriving DecidableEq, Repr

/-- The fields of a sampling node (R132, R134). -/
structure SampNode where
  drift : Word := 0xFF00FFFF#32
  fmt : Nat := 0
  rows : Nat := 1
  sLogits : Nat := 255
  sBlocks : Nat := 255
  sRec : Nat := 255
  sRows : Nat := 255
  deriving DecidableEq, Repr

/-- The fields of an initialisation node (R128, R129): uniform between lo and hi, or normal with mean and sigma. -/
structure InitNode where
  normal : Bool := false
  mode : Word := 0
  drift : Word := 0
  n : Nat := 0
  p0 : Word := 0
  p1 : Word := 0
  sTable : Nat := 255
  sOut : Nat := 255
  deriving DecidableEq, Repr

/-- The fields of a nomad node (R142, R143, R146): kernel, cores, rows, argument block, granted ranges, barriers with
their expected counts, queues and whether one queue is bound to the Caravan engine (R181). -/
structure KernelNode where
  kernel : Nat := 0
  cores : Nat := 1
  rows : Nat := 0
  args : List Byte := []
  drift : Word := 0xFF000000#32
  barriers : List Nat := []
  queues : Nat := 0
  carQueue : Option Nat := none
  deriving DecidableEq, Repr

/-- The fields of a Caravan node: a transfer request's address (R181, R182). -/
structure CarNode where
  request : Nat := 0
  deriving DecidableEq, Repr

/-- The output node: `rows` rows of `rowBytes` bytes at a slot go to the stream's sink (R263), in elements of `esize`
bytes: samples at `rate` Hz, tokens, or neither (log 7). -/
structure OutNode where
  slot : Nat := 255
  rowBytes : Nat := 0
  rows : Nat := 1
  esize : Nat := 4
  rate : Nat := 0
  tokens : Bool := false
  deriving DecidableEq, Repr

/-- One operator node. -/
inductive Node where
  | mat (n : MatNode)
  | vec (n : VecNode)
  | red (n : RedNodeDesc)
  | sample (n : SampNode)
  | init (n : InitNode)
  /-- Attention, forward 0x40 or backward 0x41 (Table 10-6). -/
  | attention (desc : BitVec 512)
  /-- Cache declaration 0x48 (Table 11-1). -/
  | cache (desc : BitVec 512)
  /-- Scan 0x50 (Table 12-5). -/
  | scan (desc : BitVec 512)
  /-- Input 0x51 (Table 12-1). -/
  | input (desc : BitVec 512)
  /-- Vision 0x60 to 0x63 (Table 13-5). -/
  | vision (desc : BitVec 512)
  | kernel (n : KernelNode)
  | caravan (n : CarNode)
  | output (n : OutNode)
  deriving DecidableEq, Repr

/-- A node with its operand table (R58, R298). -/
structure NodeRec where
  node : Node
  ops : List Operand := []
  deriving DecidableEq, Repr

/-- A cost-table entry (R59). -/
structure CostEntry where
  bound : Nat := 0
  cycles : Nat := 0
  pages : Nat := 0
  deriving DecidableEq, Repr

/-- A GRAPH section (R57 to R59): head, cost table, state items and nodes, with the bytes of its node descriptors as
the parcel digest covers them (Table 12-6). -/
structure Graph where
  id : Nat := 0
  pool : Nat := 0
  plane : Nat := 0
  frame : Bool := false
  ticked : Bool := false
  ceiling : Nat := 0
  kernels : List Nat := []
  costs : List CostEntry := []
  items : List ItemDecl := []
  nodes : List NodeRec := []
  descBytes : List Byte := []
  deriving DecidableEq, Repr

/-- A KERNEL section (R60). -/
structure Kernel where
  id : Nat := 0
  entry : Nat := 0
  text : List Byte := []
  data : List Byte := []
  stack : Nat := 0
  deriving DecidableEq, Repr

/-- A WEIGHTS entry (R60). -/
structure WeightRef where
  id : Nat := 0
  fmt : Nat := 0
  size : Nat := 0
  digest : List Byte := []
  deriving DecidableEq, Repr

/-- The drift word of a node (Table 06-4). -/
structure DriftWord where
  raw : Word
  deriving DecidableEq, Repr

end Sys2Proof.Machine
end

