-- ==== Sys2Proof/Types/Stream.lean ====
section
/-!
DEFINITION. A stream's state (R260 to R286): its queue, its recurrent state, its windows, its drift state, its
key-value sequence (R232 to R257) and the step in progress (R39 to R42).
-/

namespace Sys2Proof.Machine

/-- Stream states (Table 12-3, Table 12-12). -/
inductive StrmState where
  | closed | active | idle | paused | swapped | exporting
  deriving DecidableEq, Repr

/-- A queued chunk record (Table 12-4). `skip` counts positions of its first row already consumed by an earlier part;
`noRelease` marks the first part of a split or an appended mark record, which write no RELEASE (R266). -/
structure Chunk where
  src : Nat := 0
  pos : Nat := 0
  ended : Bool := false
  mark : Bool := false
  bytes : Nat := 0
  tag : Dword := 0
  skip : Nat := 0
  noRelease : Bool := false
  split : Bool := false
  /-- The payload of a chunk that a producer stream's output node made (R263). -/
  own : List Byte := []
  /-- The submission ring that fed it, to whose completion ring its release goes (R384). -/
  sq : Nat := 0
  deriving DecidableEq, Repr

/-- Where the output node's rows go (R263, R383): nowhere, a host output ring by the address of its descriptor, or a
serial audio port slot. -/
inductive Sink where
  | none
  | ring (addr : Nat)
  | port (port slot : Nat)
  deriving DecidableEq, Repr

/-- The value of a state item (R261): bytes in logical order, or a scan state. -/
inductive ItemVal where
  | bytes (l : List Byte)
  | scan (s : ScanState)
  deriving DecidableEq, Repr

/-- Key-value sequence states (Table 11-8). -/
inductive KvState where
  | none | resident | swapOut | swapped | restore | parked
  deriving DecidableEq, Repr

/-- A staging set (R238): its cluster, the first position it stages, the staged bytes by offset (block after the open
one times groups times page size, plus group times page size, plus byte), the token IDs of the open block, and whether
positions beyond the context are to be written as zero at the next flush (R243). -/
structure Staging where
  cluster : Nat := 0
  start : Nat := 0
  bytes : AMap Byte := []
  tokens : List Word := []
  deriving DecidableEq, Repr

/-- A sequence's cache (R235 to R257). The list itself lies in device memory at `list`. -/
structure KvSeq where
  list : Nat := 0
  cap : Nat := 0
  ctx : Nat := 0
  st : KvState := .none
  home : Nat := 0
  baseCh : Option Nat := none
  pinned : Bool := false
  ring : Bool := false
  staging : Option Staging := none
  /-- Positions beyond the context are to be written as zero at the next flush (R243). -/
  zeroTail : Bool := false
  /-- Token IDs of the open block, and those of every committed position (R239, Table 12-7). -/
  tokens : List Word := []
  allTokens : List Word := []
  /-- Blocks of an import that wait for their pages: FILL, token IDs and pages (R249, R282). -/
  incoming : List (Nat × List Word × List (List Byte)) := []
  /-- Block index and block record address of each shared block (R241). -/
  recs : List (Nat × Nat) := []
  /-- Hash of the last full block (R245). -/
  lastHash : Dword := 0
  /-- List entries the sequence waits to be given pages for, and since when (R249). -/
  need : List Nat := []
  since : Nat := 0
  /-- Pages given for a restore or an import, by list entry (R252). -/
  granted : List (Nat × Nat) := []
  /-- List entries still to be swapped out, in order (R249). -/
  swapOut : List Nat := []
  /-- Ring attention (R255): the blocks received, by layer and block, and those sent on. -/
  ringBlocks : List (Nat × Nat × List Byte) := []
  ringSent : List (Nat × Nat) := []
  /-- Members whose ready records have arrived (R254). -/
  ready : List Nat := []
  /-- The ring node ended UNREACHABLE (R256). -/
  ringLost : Bool := false
  deriving DecidableEq, Repr

/-- What a step in progress waits for: nothing, pages for its cache (R249), a restore (R252), the cores of a kernel
node (R143), a transfer of a Caravan node (R181), cistern items (R216), a host page of its payload (R265), ring or
ready blocks of other packages (R254, R255), or nothing more: every node has run. -/
inductive StepWait where
  | run | pages | restore | kernel | transfer | items | host (page : Nat) | members | done
  deriving DecidableEq, Repr

/-- A run of positions of a step between reset marks (R266): how many marks stand before it, its first position counted
from the step's first, its positions and the payload rows that serve them. -/
structure StepSeg where
  mark : Nat := 0
  first : Nat := 0
  count : Nat := 0
  /-- Where the rows lie: an address, or the bytes themselves. -/
  src : List (Nat × List Byte) := []
  rows : List (List Byte) := []
  deriving DecidableEq, Repr

/-- A node of a step's attention (R211, R216): first block, blocks, first key-value head and how many and, row by row
and head by head, its partials. -/
structure AttnNode where
  first : Nat
  count : Nat
  kvh : Nat
  heads : Nat
  parts : List AttnPart
  deriving DecidableEq, Repr

/-- A step in progress and what it will deliver when it completes (R39 to R42, R111, R239, R269). -/
structure StepRun where
  tick : Nat := 0
  started : Dword := 0
  positions : Nat := 0
  ended : Bool := false
  segs : List StepSeg := []
  /-- Chunks that the step's positions end, released when it completes (R265). -/
  spent : List Chunk := []
  node : Nat := 0
  wait : StepWait := .run
  /-- When the step last began to wait. -/
  waitTb : Nat := 0
  status : List Nat := []
  /-- A condition stopped the step at its node: no later node runs. -/
  stop : Bool := false
  /-- Granules delivered as zeros, each once (R168), and those that remote reads or saved contexts reported. -/
  zgrans : List Nat := []
  /-- Deliveries of zeros to the step's work so far (R163, R168). -/
  zgiven : Nat := 0
  zeroed : Nat := 0
  /-- Draw position of the step (R124). -/
  p : Nat := 0
  items : List ItemVal := []
  rows : List PointRow := []
  /-- Rows sampled so far, by node and owner (R133). -/
  sampled : List (Nat × Nat × Nat) := []
  outputs : List Byte := []
  outCount : Nat := 0
  outSize : Nat := 0
  outTokens : Bool := false
  outRate : Nat := 0
  /-- Positions the step appends to its cache, once its pages are had (R249), and their token IDs (R239). -/
  kvRows : Option Nat := none
  /-- Rows of the step's operands that stand before the sequence's own (R238). -/
  kvRow0 : Nat := 0
  kvTokens : List Word := []
  /-- Work of the node in progress that others do: cistern items or cores still to end, and what the items gave. -/
  jobs : Nat := 0
  sent : Bool := false
  parts : List AttnNode := []
  expanded : List (Nat × List Byte) := []
  yielded : Bool := false
  /-- Tensors that EMPTY nodes of the step were to write (R291). -/
  empties : List Operand := []
  deriving DecidableEq, Repr

/-- A matrix or vector operation that yielded, as it lies saved in the cluster store (R96): its save number, whose
work it is, the tree nodes not yet combined, the output tile (`position`), weight tile and row pass it stopped at, and what
its unit's MODE, GRAPH and STATUS showed. -/
structure SavedOp where
  id : Nat := 0
  unit : Nat := 0
  handle : Nat := 0xFFFFFFFF
  accType : Nat := 0
  nodes : List (Nat × List Word) := []
  position : Nat := 0
  weightTile : Nat := 0
  pass : Nat := 0
  mode : Word := 0
  graph : Nat := 0
  status : Nat := 0
  deriving DecidableEq, Repr

/-- One stream (R260 to R286). The default is a closed handle. -/
structure Stream where
  st : StrmState := .closed
  fn : Nat := 0
  cls : Nat := 0
  graph : Nat := 0
  size : Nat := 0
  seed : Dword := 0
  drift : Dword := 0
  p : Nat := 0
  pos : Nat := 0
  steps : Nat := 0
  cycles : Nat := 0
  pages : Nat := 0
  cluster : Option Nat := none
  order : Nat := 0
  sink : Sink := .none
  source : Option Nat := none
  /-- Some stream was opened or imported with this one as its SOURCE (R285). -/
  feeds : Bool := false
  queue : List Chunk := []
  /-- Marks that apply at the stream's next position (R266, R269). -/
  markDue : Nat := 0
  items : List ItemVal := []
  windows : AMap QWindow := []
  /-- Windows of the rows that belong to no stream: they stay with the operator instance (R107). -/
  noWindows : AMap QWindow := []
  kv : KvSeq := {}
  step : Option StepRun := none
  nextTick : Nat := 0
  atCurrent : Bool := true
  starved : Bool := false
  resumeTick : Option Nat := none
  /-- The stream was IDLE when it was paused, or its parcel says so: a resume returns it there. -/
  wasIdle : Bool := false
  /-- An accepted STREAM_CLOSE that waits for the step in progress (R262). -/
  closing : Bool := false
  /-- Commands that wait for the step in progress or for an export to end: function, ring and descriptor (R264). -/
  due : List (Nat × Nat × BitVec 512) := []
  /-- An attach in progress: its command and the tokens attached so far (R248). -/
  attach : Option (Nat × Nat × BitVec 512 × Nat) := none
  /-- Chosen as a pre-emption victim (R358). -/
  victim : Bool := false
  /-- Frames, or the swap-pool unit, that hold the saved state items of a swapped stream (R274). -/
  savedFrames : List Nat := []
  savedUnit : Option Nat := none
  /-- Operations of a yielded step that lie saved with a stream that is swapped out (R274). -/
  savedOps : List SavedOp := []
  /-- The stream has just been swapped out and is still to ask for its restore (R275). -/
  asks : Bool := false
  /-- Pages reserved at admission that the stream has not taken yet (R59). -/
  resv : Nat := 0
  /-- The state to which an export returns, and the command that asked for it (R278). -/
  prev : StrmState := .closed
  export_ : Option (Nat × Nat × BitVec 512) := none
  /-- An import that waits for pages of its cache, and the command that asked for it (R249, R282). -/
  import_ : Option (Nat × Nat × BitVec 512) := none
  lost : Bool := false
  zeroed : Nat := 0
  lastTick : Option Nat := none
  lastDone : Dword := 0
  opened : Dword := 0
  deriving DecidableEq, Repr

end Sys2Proof.Machine
end

