-- ==== Sys2Proof/Types/Host.lean ====
section
/-!
DEFINITION. State of placement (chapter 16) and of the host queues (chapter 17).
-/

namespace Sys2Proof.Machine

/-- A ready item of work that is not tick-bound (R355, R359). -/
structure Item where
  handle : Nat := 0
  cluster : Nat := 0
  cls : Nat := 0
  age : Nat := 0
  waited : Nat := 0
  since : Dword := 0
  running : Bool := false
  startOrder : Nat := 0
  urgentSince : Option Nat := none
  missed : Bool := false
  deriving DecidableEq, Repr

/-- Where an admission came from (R356): a command still to be completed, a restore, or a Crest request. -/
inductive AdmitSrc where
  | command (fn sq : Nat) (desc : BitVec 512)
  | restore
  | crest (ch : Nat)
  deriving DecidableEq, Repr

/-- An admission waiting for a region wake or for its victims (R357, R358). -/
structure PendAdmit where
  handle : Nat := 0
  cluster : Nat := 0
  victims : List Nat := []
  waking : Bool := false
  src : AdmitSrc := .restore
  cls : Nat := 0
  graph : Nat := 0
  size : Nat := 0
  /-- The stream as it will be once placed, and its host side. -/
  strm : Stream := {}
  deriving DecidableEq, Repr

/-- A placed Crest instance (R324). -/
structure CrestInst where
  channel : Nat := 0
  graph : Nat := 0
  cluster : Nat := 0
  cycles : Nat := 0
  deriving DecidableEq, Repr

/-- State of placement besides its registers (R354 to R366). -/
structure Place where
  items : List Item := []
  orders : Nat := 0
  starts : Nat := 0
  agingTicks : Nat := 0
  pend : List PendAdmit := []
  crests : List CrestInst := []
  idle : AMap Nat := []
  waking : List Nat := []
  deriving DecidableEq, Repr

/-- A completion entry (R384, Table 17-5) before PHASE and SQ_HEAD are put in. -/
structure CplEntry where
  result : Dword := 0
  cid : Nat := 0
  sq : Nat := 0
  type : Nat := 0
  status : Nat := 0
  handle : Nat := 0xFFFFFFFF
  aux : Nat := 0
  tb : Dword := 0
  deriving DecidableEq, Repr

/-- A command fetched and not yet completed (R378, R379), and whether it has started. -/
structure Fetched where
  fn : Nat := 0
  sq : Nat := 0
  desc : BitVec 512 := 0
  started : Bool := false
  deriving DecidableEq, Repr

/-- A completion ring's state besides its registers (R380, R381). -/
structure CqState where
  head : Nat := 0
  waiting : List CplEntry := []
  unsignalled : Nat := 0
  /-- When the first entry not yet signalled was written. -/
  firstTb : Nat := 0
  deriving DecidableEq, Repr

/-- A stream's host side (R382 to R386): the ring that opened it, its step event ring, and what its next output record
says. -/
structure StrmHost where
  relSq : Nat := 0
  stepCq : Option Nat := none
  outGap : Bool := false
  outDrop : Bool := false
  outSeen : Bool := false
  deriving DecidableEq, Repr

/-- State of the host queues (R372 to R388). -/
structure HostQ where
  tails : AMap Nat := []
  cqs : AMap CqState := []
  fetched : List Fetched := []
  turnFn : Nat := 0
  turnUsed : Nat := 0
  turnSq : AMap Nat := []
  /-- High words latched by reads of low words, by the high word's address (R8). BAR0 and each BAR2 have one reader. -/
  shadow : AMap (Option Word) := []
  /-- MSI-X vectors raised and not yet taken by the host (R381). -/
  vectors : List Nat := []
  strm : AMap StrmHost := []
  deriving DecidableEq, Repr

end Sys2Proof.Machine
end

