-- ==== Sys2Proof/Types/Audio.lean ====
section
/-!
DEFINITION. State of the serial audio ports (chapter 15) and the AUDIO record of an image.
-/

namespace Sys2Proof.Machine

/-- The states of an enabled TX slot (R347). -/
inductive SlotSt where
  | idle | live | hold | mute
  deriving DecidableEq, Repr

/-- One TX slot of a port: its state, the last sample sent, the length of the gap, the ramp's place, the samples queued
by frame, the bound stream and the frame its next sample is scheduled for (R345, R347, R348). -/
structure PortSlot where
  st : SlotSt := .idle
  last : Int := 0
  gap : Nat := 0
  ramp : Nat := 0
  /-- A quiet ramp is due at the first frame without a sample, or is being sent (R348). -/
  quiet : Bool := false
  quietRun : Bool := false
  /-- The bound stream was declared starved and has given no sample since (R347, R351). -/
  starved : Bool := false
  /-- Frame, linear value, and whether a DEGRADED step made the sample. -/
  fifo : List (Nat × Int × Bool) := []
  /-- Frames whose samples lie in an uncorrectable word of the FIFO, which no register shows (R351, log 6). -/
  bad : List Nat := []
  bound : Option Nat := none
  next : Option Nat := none
  deriving DecidableEq, Repr

/-- A serial audio port (R332 to R352). -/
structure Port where
  running : Bool := false
  /-- No frame has begun since the start. -/
  fresh : Bool := true
  /-- The START records of the directions that have found no side record yet (R341, R342). -/
  txStart : Bool := false
  rxStart : Bool := false
  /-- The stop has begun, with so many frames of zeros still to send. -/
  tail : Option Nat := none
  /-- The last frame sent: by slot the slot's bits, or none in high impedance. -/
  wire : List (Option Nat) := []
  noSync : Bool := false
  txShadow : Option Word := none
  rxShadow : Option Word := none
  bindShadow : List (Nat × Option Nat) := []
  txHeldCnt : Bool := false
  rxHeldCnt : Bool := false
  txEpoch : Nat := 0
  rxEpoch : Nat := 0
  txBytes : Nat := 0
  rxBytes : Nat := 0
  rxGap : Bool := false
  /-- A full image changed the port's AUDIO record: the new settings apply when it has stopped (R351). -/
  changed : Bool := false
  slots : AMap PortSlot := []
  trim : Int := 0
  steerSum : Int := 0
  steerN : Nat := 0
  steerUnder : Bool := false
  rateN : Nat := 0
  rateTb : Dword := 0
  /-- The time in ns of the last run of 256 frames, until it is evaluated (R338). -/
  rateRun : Option Nat := none
  deriving DecidableEq, Repr

/-- An AUDIO record (R56, Tables 15-5, 15-6): the port and the values of its image-set registers. -/
structure AudioRec where
  port : Nat := 0
  cfg : Word := 0
  clk : Word := 0
  timing : Word := 0x10084040#32
  steer : Word := 0
  audSrc : Bool := false
  audFreq : Bool := false
  deriving DecidableEq, Repr

end Sys2Proof.Machine
end

