-- ==== Sys2Proof/Types/Listen.lean ====
section
/-!
DEFINITION. State of the listening cascade (chapter 14): channels, pre-roll rings, Crest requests, microphone arrays
and the ACOUSTIC and CALIB records of an image.
-/

namespace Sys2Proof.Machine

/-- Channel states (R320, Table 14-13). -/
inductive ChanState where
  | off | ripple | crest | dune
  deriving DecidableEq, Repr

/-- One state of a phrase's matcher (R318). -/
structure PhrState where
  a : Int := 0
  age : Nat := 0
  live : Bool := false
  deriving DecidableEq, Repr

/-- An enrolled phrase (R320 to R322, Table 14-6). -/
structure Phrase where
  minFrames : Nat := 0
  thresh : Int := 0
  units : List Nat := []
  deriving DecidableEq, Repr

/-- A pre-roll block (R315). -/
structure PreBlock where
  x0 : Int := 0
  e : Nat := 0
  codes : List Int := []
  /-- Its words in the always-on store hold an uncorrectable error (R328, log 6). -/
  bad : Bool := false
  deriving DecidableEq, Repr

/-- A Crest request in progress (R324, R325). -/
structure CrestReq where
  tb : Dword := 0
  phrase : Nat := 0
  onset : Bool := false
  phraseEnd : Dword := 0
  group : Nat := 0
  live : Nat := 0
  placed : Option Nat := none
  pcm : List Int := []
  degraded : Bool := false
  deriving DecidableEq, Repr

/-- A listening channel (R303 to R328). -/
structure Channel where
  cfg : Word := 0
  src : Word := 0
  st : ChanState := .off
  hold : Nat := 0
  inbuf : List Int := []
  /-- The ends of the frames that wait in `inbuf` (R303). -/
  ends : List Dword := []
  readCount : Nat := 0
  paths : AMap (List PhrState) := []
  /-- By phrase the end of the last frame in which its final unit beat filler (R321). -/
  beat : AMap Dword := []
  floor : Int := 0
  run : Nat := 0
  frames : Nat := 0
  model : List Byte := []
  ring : List PreBlock := []
  xp : Int := 0
  discard : Nat := 0
  pendSrc : Option Word := none
  pendCfg : Option Word := none
  pendModel : Bool := false
  pendPhr : List Nat := []
  crest : Option CrestReq := none
  damaged : Bool := false
  deriving DecidableEq, Repr

/-- A mode-change request of an array (R310, R327). -/
structure ModeReq where
  mode : Nat := 0
  tb : Dword := 0
  deferred : Bool := false
  deriving DecidableEq, Repr

/-- A microphone array (R307 to R314). -/
structure MicArray where
  mode : Nat := 0
  pending : Option ModeReq := none
  clkDue : Bool := false
  clkRun : Bool := false
  hqRun : Bool := false
  hqBlocks : Nat := 0
  hqLast : Bool := false
  index : Nat := 0
  /-- By microphone the last outputs of the high-quality path before calibration, newest last (R312). -/
  hist : AMap (List Int) := []
  deriving DecidableEq, Repr

/-- One array's settings in an ACOUSTIC record (R307, Table 14-16). -/
structure ArrayCfg where
  mics : Nat := 0
  listenMic : Nat := 0
  attendOk : Bool := false
  hq48k : Bool := false
  pdmRate : Nat := 0
  mode : Nat := 0
  deriving DecidableEq, Repr

/-- A CALIB record (R70, Table 03-3): microphone, gain in Q2.14, delay in 1/64 samples. -/
structure Calib where
  mic : Nat := 0
  gain : Int := 0x4000
  delay : Int := 0
  deriving DecidableEq, Repr

end Sys2Proof.Machine
end

