-- ==== Sys2Proof/Types/Package.lean ====
section
/-!
DEFINITION. State of the package as a whole: tick planes (chapter 02), the structure and its loader (chapter 03),
weights and page pools (chapters 03, 08, 11), engine operations (R96), errors and snapshots (chapter 21), power and
pins (chapters 22, 23).
-/

namespace Sys2Proof.Machine

/-- A tick plane that is enabled (R33, R34): rate, grains per frame, the next grain's count, the accumulator and the
edge it falls at, and whether the first frame tick has passed. -/
structure Plane where
  f : Nat := 8000
  g : Nat := 20
  late : Nat := 4
  n : Nat := 0
  acc : Nat := 0
  next : Nat := 0
  run : Bool := false
  /-- Ticks delivered to each cluster (R35): grain count last delivered, by cluster. -/
  given : AMap Nat := []
  deriving DecidableEq, Repr

/-- State of the timebase besides its value and registers (R26 to R30). -/
structure Tck where
  /-- The value the next PPS edge is expected at; none before the first compared edge (R27). -/
  expected : Option Dword := none
  /-- The offset still to be absorbed by slewing (R28). -/
  slew : Int := 0
  planes : AMap (Option Plane) := []
  deriving DecidableEq, Repr

/-- A moderated interrupt (R46, R458): its interval runs, and a record was written while it ran. -/
structure Moderation where
  running : Bool := false
  due : Bool := false
  /-- When the running interval began, and its length in ns. -/
  since : Nat := 0
  span : Nat := 0
  deriving DecidableEq, Repr

/-- A POOL record (R57, Table 03-3): kind, cluster mask and the grain and frame share of each plane. -/
structure PoolRec where
  kind : Nat := 0
  mask : Nat := 0
  shares : List Nat := []
  deriving DecidableEq, Repr

/-- A PLANE record (R32, R57, Table 03-3). -/
structure PlaneRec where
  plane : Nat := 0
  en : Bool := false
  grain : Nat := 0
  frame : Nat := 0
  late : Nat := 4
  deriving DecidableEq, Repr

/-- A CARVE record: die and reservations in 2 MiB units, the weights' first, then each pool's (R159). -/
structure CarveRec where
  die : Nat := 0
  weights : Nat := 0
  pools : List Nat := []
  deriving DecidableEq, Repr

/-- The PRIORITY record (R367, Table 16-3). -/
structure PrioRec where
  gateDelay : Nat := 16
  ageStep : Nat := 64
  ceil : Nat := 70
  borrow : Nat := 8
  deriving DecidableEq, Repr

/-- The structure that an image gives (R56 to R61). -/
structure Structure where
  pools : List PoolRec := []
  planes : List PlaneRec := []
  /-- The 16 region words, then the 128 channel words, of R160; empty for the default weights. -/
  xbar : List Word := []
  split : List Nat := [8, 5, 3]
  prio : PrioRec := {}
  carves : List CarveRec := []
  audio : List AudioRec := []
  arrays : AMap ArrayCfg := []
  calibs : List Calib := []
  graphs : List Graph := []
  kernels : List Kernel := []
  deriving DecidableEq, Repr

/-- The decoded content of a staged image (R56 to R60, R69; log 7): its structure section if any, its graphs and kernels, its CALIB
section, and whether any record lies outside the range its chapter gives or the sections reach beyond Table 03-5. -/
structure Image where
  structureSec : Option Structure := none
  graphs : List Graph := []
  kernels : List Kernel := []
  calibs : List Calib := []
  outOfRange : Bool := false
  deriving DecidableEq, Repr

/-- A weight reference with its condition (R61, R174): whether it is present, whether it holds a listed granule, the
address at which its bytes lie, and whether they lie in a page pool's frames. -/
structure Weight where
  ref : WeightRef := {}
  present : Bool := false
  damaged : Bool := false
  addr : Nat := 0
  pooled : Bool := false
  deriving DecidableEq, Repr

/-- A load in progress (R64 to R68). -/
structure Load where
  pool : Bool := false
  mask : Nat := 0
  src : Nat := 0
  dev : Bool := false
  len : Nat := 0
  serial : Dword := 0
  /-- STATE before GO, to which a refusal returns. -/
  before : Nat := 1
  image : Option Image := none
  refs : List WeightRef := []
  digest : List Byte := []
  /-- Frame ticks of the switch plane since the drain began, the timebase at which it began, and whether the drain has
  ended (R67, R68). -/
  drainTicks : Nat := 0
  drainStart : Nat := 0
  drained : Bool := false
  /-- A frame tick of the switch plane has come since the drain ended (R67 step 4). -/
  due : Bool := false
  deriving DecidableEq, Repr

/-- A page pool of one die (R159, R233): its first row of frames (a fic value), its rows, and the runs of frames in
use, each by first frame number and length. -/
structure PagePool where
  die : Nat := 0
  pool : Nat := 0
  row0 : Nat := 0
  rows : Nat := 0
  used : List (Nat × Nat) := []
  deriving DecidableEq, Repr

/-- Matrix and vector work of a cluster (R96): operations running by unit, and operations saved. -/
structure ClusterWork where
  running : AMap (Option SavedOp) := []
  saved : List SavedOp := []
  /-- Matrix-engine cycles attributed to each function and not yet a whole unit of 1,500 (R431). -/
  rem : AMap Nat := []
  deriving DecidableEq, Repr

/-- A report merged in a collector (R452): class, code, suspect kind and suspect, first location, first time, count
and whether the first report fired a snapshot. -/
structure ErrWin where
  cls : Nat := 0
  code : Nat := 0
  skind : Nat := 0
  suspect : Nat := 0
  loc : Nat := 0
  tb : Nat := 0
  count : Nat := 1
  snap : Bool := false
  region : Nat := 0
  /-- For the package collector: the first-report time of every merged report that joined. -/
  members : List Nat := []
  deriving DecidableEq, Repr

/-- The error collectors (R452, R454): the open error records' location paths by SEQ are read back from the ring; the collectors hold their windows. -/
structure Errors where
  regionWins : List ErrWin := []
  packageWins : List ErrWin := []
  /-- SEQ and location path of every record that is open (R454). -/
  openRecs : List (Nat × Nat) := []
  mirrorStopped : Bool := false
  deriving DecidableEq, Repr

/-- A snapshot trigger (R461, R462). -/
structure Trigger where
  t : Nat := 0
  num : Nat := 0
  source : Nat := 0
  late : Bool := false
  deriving DecidableEq, Repr

/-- The snapshot machinery (R459 to R464): pending and held triggers, trigger numbers seen, and the copies by the
address of their window. -/
structure Snap where
  pending : Option Trigger := none
  held : Option Trigger := none
  /-- When SNAP_OUT last rose (R464). -/
  outTb : Nat := 0
  seen : List Nat := []
  copies : AMap Word := []
  deriving DecidableEq, Repr

/-- A compute die's power state (R472 to R480): frequency in MHz and issue in sixteenths, the limits of the cap loop and
of thermal control on them (1,650 and 16 for none), and the time of thermal control's last step. -/
structure DiePower where
  freq : Nat := 1500
  issue : Nat := 16
  capFreq : Nat := 1650
  thermFreq : Nat := 1650
  thermIssue : Nat := 16
  thermTb : Nat := 0
  night : Bool := false
  waking : Bool := false
  throttling : Bool := false
  /-- The time since which the conditions of the 1,650 MHz target have held. -/
  boostSince : Option Nat := none
  temp : Nat := 0
  /-- When an access last reached its DRAM or an engine or a region of it last stopped working (R476). -/
  busyTb : Nat := 0
  deriving DecidableEq, Repr

/-- Power state of the package (R470 to R480): the cap loop's issue reduction, the time of its last change and of its last CAP_FLOOR
record, AVSBus transactions unanswered in a row, and the estimates of the last second with their times. -/
structure Power where
  dies : AMap DiePower := []
  capIssue : Nat := 0
  lastChange : Option Nat := none
  avsFails : Nat := 0
  avsFault : Bool := false
  lastFloor : Option Nat := none
  trip : Bool := false
  /-- TRIM in mV, from the fuses. -/
  trim : Int := 0
  estimates : List (Nat × Nat) := []
  deriving DecidableEq, Repr

/-- The JTAG instructions (R497). -/
inductive JtagInstr where
  | bypass | idcode | samplePreload | extest | highz | clamp | extestPulse | extestTrain
  deriving DecidableEq, Repr

/-- What the signal balls of the boundary chain are doing (R497, R498): the part drives them, their cells drive them,
they float, they are held, or the lanes carry a 1149.6 test signal. -/
inductive PinMode where
  | part | cells | floating | held | pulse | train
  deriving DecidableEq, Repr

/-- What the release of POR_N senses: the strap pins (R496) and whether VDD_AUD is at 3.3 V, not 1.8 V (R494). -/
structure Straps where
  addr : Fin 8 := 0
  aud33 : Bool := false
  deriving DecidableEq, Repr

/-- Pins and boundary scan (R464, R480, R482, R496 to R498): POR_N asserted, the SMBus address that the straps gave,
whether the VDD_AUD outputs drive for 3.3 V (else 1.8 V, R494), SNAP_OUT, ALERT_N and THERMTRIP_N asserted, and the boundary chain. -/
structure Pins where
  por : Bool := false
  smb : Nat := 0x38
  aud33 : Bool := false
  snapOut : Bool := false
  alert : Bool := false
  thermtrip : Bool := false
  jtag : JtagInstr := .idcode
  mode : PinMode := .part
  cells : AMap Nat := []
  deriving DecidableEq, Repr

/-- What the last command answered: the bytes of a read or of a message, and whether a read aborted (R376). -/
structure Answer where
  bytes : List Byte := []
  abort : Bool := false
  deriving DecidableEq, Repr

/-- The physical condition of memory (R166 to R173, R194), which no register shows (log 6): the 16-bit symbols of DRAM granules whose cells
hold an error, by byte address; the bits of SRAM words whose cells do, by word address and bit; the granules of local
memories that are uncorrectable; and the host pages whose translation fails. -/
structure Condition where
  symbols : List Nat := []
  bits : List (Nat × Nat) := []
  locals : List Nat := []
  hostFail : List Nat := []
  deriving DecidableEq, Repr

/-- The listening cascade and front end (R303 to R328), each by number. -/
structure Cascade where
  chans : AMap Channel := []
  phrases : AMap (Option Phrase) := []
  groupModels : AMap (Option (List Byte)) := []
  arrays : AMap MicArray := []
  /-- Calibration that waits for its array's next frame boundary, and by microphone the gain that the low-power path uses
  (R313). -/
  calibPend : List Calib := []
  lpGain : AMap Int := []
  deriving DecidableEq, Repr

end Sys2Proof.Machine
end

