-- ==== Sys2Proof/Types/Security.lean ====
section
/-!
DEFINITION. State of the security engine (chapter 19) and of the Sandglass island with its mirror (chapter 20).
-/

namespace Sys2Proof.Machine

/-- One fuse generation of a signer slot (R418): its key, whether its completion fuse and REVOKED bit are set. -/
structure SlotGen where
  key : List Byte := []
  complete : Bool := false
  revoked : Bool := false
  deriving DecidableEq, Repr

/-- A slot request being programmed (R421): operation, target and new key. -/
structure SlotProg where
  op : Nat := 0
  target : Nat := 0
  key : List Byte := []
  deriving DecidableEq, Repr

/-- The security engine (R415 to R426): fuses and work under way. The fuses before any is known: zero keys (DESIGN CHOICE, log 8). -/
structure Security where
  seed : List Byte := List.replicate 32 0
  idRecord : List Byte := List.replicate 192 0
  mfgKeys : List (List Byte) := []
  slots : AMap (List SlotGen) := []
  prog : Option SlotProg := none
  /-- The slot digest of the last request that completed OK, while a failed one has changed the fuses (R425). -/
  heldDigest : Option (List Byte) := none
  /-- WARM and DIE written while fuses are programmed: they act when programming ends (R483). -/
  warmDue : Bool := false
  dieDue : Nat := 0
  deriving DecidableEq, Repr

/-- The eight counts of a function (R430, Table 20-4): VOICE, VOICE_DEG, CHAN, CHAN_DEG, TOKENS, TOKENS_DEG, ENGINE, ENGINE_DEG. -/
structure MeterCnt where
  voice : Nat := 0
  voiceDeg : Nat := 0
  chan : Nat := 0
  chanDeg : Nat := 0
  tokens : Nat := 0
  tokensDeg : Nat := 0
  engine : Nat := 0
  engineDeg : Nat := 0
  deriving DecidableEq, Repr

/-- A record the island holds in its ring: SEQ, offset of its first byte, and its bytes (R436, R441). -/
structure MeterRec where
  seq : Nat := 0
  ofs : Nat := 0
  bytes : List Byte := []
  deriving DecidableEq, Repr

/-- The Sandglass island (R428 to R441). -/
structure Meter where
  powered : Bool := false
  seed : List Byte := List.replicate 32 0
  idRecord : List Byte := List.replicate 192 0
  time : Nat := 0
  per : Nat := 0
  sealOpen : Bool := false
  sealLogged : Bool := false
  counts : AMap MeterCnt := []
  nextSeq : Nat := 0
  tStart : Nat := 0
  tbStart : Dword := 0
  /-- Periods closed at their regular boundary since START (R435). -/
  periods : Nat := 0
  diverged : Bool := false
  divPpm : Int := 0
  prev : List Byte := List.replicate 64 0
  ring : List MeterRec := []
  head : Nat := 0
  /-- Tap residues by tap key: function, quantity and class (R433). -/
  residues : AMap Nat := []
  /-- Next SEQ the mirror copies (R442), and the chain it belongs to. -/
  mirrorNext : Nat := 0
  deriving DecidableEq, Repr

end Sys2Proof.Machine
end

