-- ==== Sys2Proof/Syntax.lean ====
section
/-!
DEFINITION. The commands the part takes: one constructor per row of spec/opcode_table.json, in its order. Register
writes carry the word written; events carry what the outside world supplies (a sample, a status, a time).
-/

namespace Sys2Proof

open Sys2Proof.Machine

/-- A command to the part. -/
inductive Instr where
  /-- REGISTER_WRITE (R5). -/
  | registerWrite (sp : Space) (off : Nat) (v : Word)
  /-- BAR0_MISALIGNED_ACCESS (R4). -/
  | bar0MisalignedAccess (write : Bool) (off : Nat) (len : Nat)
  /-- LOW_WORD_READ (R8). -/
  | lowWordRead (sp : Space) (off : Nat)
  /-- PPS_EPOCH_WRITE (R27). -/
  | ppsEpochWrite (hi : Bool) (v : Word)
  /-- PPS_EDGE (R26). -/
  | ppsEdge (rising : Bool)
  /-- HOLDOVER_ENTER (R29). -/
  | holdoverEnter (cause : HoldCause)
  /-- HOLDOVER_EXIT (R29). -/
  | holdoverExit (offset : Int)
  /-- TB_LOAD (R31). -/
  | tbLoad (v : Word)
  /-- GRAIN_TICK (R33). -/
  | grainTick (p : Fin 4)
  /-- TICK_DELIVERY (R35). -/
  | tickDelivery (cl : Fin 96) (p : Fin 4) (frame : Bool) (used : Nat)
  /-- STEP_START (R39). -/
  | stepStart (h : Word)
  /-- STEP_COMPLETE (R40). -/
  | stepComplete (h : Word) (cycles : Nat)
  /-- RING_TAIL_WRITE (R46). -/
  | ringTailWrite (r : RingId) (v : Word)
  /-- EVENT_MOD_INTERVAL_END (R46). -/
  | eventModIntervalEnd (r : RingId)
  /-- TBG_PEAK_CLEAR (R52). -/
  | tbgPeakClear (cl : Fin 96) (b : Fin 8)
  /-- SPL_GO (R64). -/
  | splGo (v : Word)
  /-- IMAGE_COPY_DONE (R64). -/
  | imageCopyDone (img : Image)
  /-- POOL_SWITCH (R67). -/
  | poolSwitch
  /-- DRAIN_TIMEOUT (R68). -/
  | drainTimeout
  /-- SPL_ABORT (R68). -/
  | splAbort (v : Word)
  /-- TRAINING_COMPLETE (R484). -/
  | trainingComplete (failed : BitVec 128) (temps : List Nat)
  /-- WEIGHT_LOAD (R61). -/
  | weightLoad (fn : Fin 64) (sq : Fin 64) (desc : BitVec 512)
  /-- ENGINE_RESUME (R96). -/
  | engineResume (cl : Fin 96) (unit : Fin 3) (id : Nat)
  /-- ME_CNT_CLR (R98). -/
  | meCntClr (cl : Fin 96) (e : Fin 2) (v : Word)
  /-- VEC_CNT_CLR (R100). -/
  | vecCntClr (cl : Fin 96) (v : Word)
  /-- QST_CNT_CLR (R117). -/
  | qstCntClr (cl : Fin 96) (v : Word)
  /-- QST_SLOT_CLEAR (R117). -/
  | qstSlotClear (cl : Fin 96) (n : Fin 8)
  /-- QST_WSEL_WRITE (R114). -/
  | qstWselWrite (cl : Fin 96) (n : Fin 8) (v : Word)
  /-- DRF_TEST_GO (R137). -/
  | drfTestGo (cl : Fin 96)
  /-- DRF_TEST_DONE (R137). -/
  | drfTestDone (cl : Fin 96)
  /-- DRF_CNT_CLR (R136). -/
  | drfCntClr (cl : Fin 96) (v : Word)
  /-- SMP_CNT_CLR (R138). -/
  | smpCntClr (cl : Fin 96) (v : Word)
  /-- NMD_RV64_INSTRUCTION (R139). -/
  | nmdRv64Instruction (n : Fin 384)
  /-- NMD_ECALL (R144). -/
  | nmdEcall (n : Fin 384)
  /-- NMD_TWAIT (R146). -/
  | nmdTwait (n : Fin 384)
  /-- NMD_BAR (R146). -/
  | nmdBar (n : Fin 384)
  /-- NMD_QPUSH (R146). -/
  | nmdQpush (n : Fin 384)
  /-- NMD_QPOP (R146). -/
  | nmdQpop (n : Fin 384)
  /-- NMD_DRAW (R147). -/
  | nmdDraw (n : Fin 384)
  /-- NMD_MARK (R145). -/
  | nmdMark (n : Fin 384)
  /-- NMD_RBEGIN (R145). -/
  | nmdRbegin (n : Fin 384)
  /-- NMD_RFEED (R148). -/
  | nmdRfeed (n : Fin 384)
  /-- NMD_RNODE (R148). -/
  | nmdRnode (n : Fin 384)
  /-- NMD_REND (R148). -/
  | nmdRend (n : Fin 384)
  /-- NMD_WATCHDOG (R151). -/
  | nmdWatchdog (n : Fin 384)
  /-- NMD_RESUME (R150). -/
  | nmdResume (n : Fin 384) (id : Nat)
  /-- NMD_CNT_CLR (R153). -/
  | nmdCntClr (n : Fin 384) (v : Word)
  /-- CISTERN_ATTN (R216). -/
  | cisternAttn (e : Fin 128)
  /-- CISTERN_EXPAND (R217). -/
  | cisternExpand (e : Fin 128)
  /-- CISTERN_QSCAN (R162). -/
  | cisternQscan (e : Fin 128)
  /-- CISTERN_PROBE (R248). -/
  | cisternProbe (e : Fin 128)
  /-- CISTERN_FILL (R162). -/
  | cisternFill (e : Fin 128)
  /-- CISTERN_COPY (R162). -/
  | cisternCopy (e : Fin 128)
  /-- CISTERN_SLICE_END (R165). -/
  | cisternSliceEnd (e : Fin 128)
  /-- CISTERN_ITEM_COMPLETE (R164). -/
  | cisternItemComplete (e : Fin 128)
  /-- DMEM_RETIRE (R175). -/
  | dmemRetire (d : Fin 4) (v : Word)
  /-- DRAM_REFRESH (R176). -/
  | dramRefresh (d : Fin 4)
  /-- STACK_TEMP_READ (R176). -/
  | stackTempRead (d : Fin 4) (t : Nat)
  /-- PATROL_SCRUB (R176). -/
  | patrolScrub (d : Fin 4) (ofs : Nat)
  /-- DMEM_CNT_CLR (R178). -/
  | dmemCntClr (d : Fin 4) (v : Word)
  /-- CIS_CNT_CLR (R179). -/
  | cisCntClr (e : Fin 128) (v : Word)
  /-- TRANSFER_REQUEST (R182). -/
  | transferRequest (e : Fin 104) (addr : Nat) (own : Owner)
  /-- TRANSFER_START (R180). -/
  | transferStart (e : Fin 104)
  /-- TILE_HANDOVER (R191). -/
  | tileHandover (e : Fin 104) (c : Fin 8)
  /-- TRANSFER_COMPLETE (R186). -/
  | transferComplete (e : Fin 104) (c : Fin 8)
  /-- PRI_RESPONSE (R194). -/
  | priResponse (e : Fin 104) (c : Fin 8) (ok : Bool)
  /-- PRI_TIMEOUT (R197). -/
  | priTimeout (e : Fin 104) (c : Fin 8)
  /-- CAR_CNT_CLR (R203). -/
  | carCntClr (e : Fin 104) (v : Word)
  /-- CRN_RESTART (R204). -/
  | crnRestart (e : Fin 104) (v : Word)
  /-- CRN_PAIR_HIGH_WRITE (R201). -/
  | crnPairHighWrite (e : Fin 104) (sl : Fin 4) (pair : Fin 4) (v : Word)
  /-- KV_ATTACH (R248). -/
  | kvAttach (fn : Fin 64) (sq : Fin 64) (desc : BitVec 512)
  /-- KV_FORK (R242). -/
  | kvFork (fn : Fin 64) (sq : Fin 64) (desc : BitVec 512)
  /-- KV_TRUNCATE (R243). -/
  | kvTruncate (fn : Fin 64) (sq : Fin 64) (desc : BitVec 512)
  /-- KV_PIN (R250). -/
  | kvPin (fn : Fin 64) (sq : Fin 64) (desc : BitVec 512)
  /-- SWAP_PAGE_WRITE_DONE (R251). -/
  | swapPageWriteDone (h : Word) (entry : Nat) (ok : Bool)
  /-- KV_RESTORE_COMPLETE (R252). -/
  | kvRestoreComplete (h : Word)
  /-- READY_RECORD_ARRIVAL (R254). -/
  | readyRecordArrival (h : Word) (member : Nat) (first : Nat) (count : Nat) (data : List Byte)
  /-- RING_BLOCK_RECEIVE (R255). -/
  | ringBlockReceive (h : Word) (layer : Nat) (block : Nat) (data : List Byte)
  /-- RING_TIMEOUT (R256). -/
  | ringTimeout (h : Word)
  /-- KVC_CNT_CLR (R258). -/
  | kvcCntClr (v : Word)
  /-- KVP_LOW_WRITE (R259). -/
  | kvpLowWrite (d : Fin 4) (i : Fin 5) (v : Word)
  /-- STREAM_OPEN (R263). -/
  | streamOpen (fn : Fin 64) (sq : Fin 64) (desc : BitVec 512)
  /-- STREAM_FEED (R265). -/
  | streamFeed (fn : Fin 64) (sq : Fin 64) (desc : BitVec 512)
  /-- STREAM_MARK (R266). -/
  | streamMark (fn : Fin 64) (sq : Fin 64) (desc : BitVec 512)
  /-- STREAM_PAUSE (R273). -/
  | streamPause (fn : Fin 64) (sq : Fin 64) (desc : BitVec 512)
  /-- STREAM_RESUME (R283). -/
  | streamResume (fn : Fin 64) (sq : Fin 64) (desc : BitVec 512)
  /-- RESUME_TICK_REACHED (R283). -/
  | resumeTickReached (h : Word)
  /-- STREAM_EXPORT (R278). -/
  | streamExport (fn : Fin 64) (sq : Fin 64) (desc : BitVec 512)
  /-- EXPORT_PARCEL_WRITTEN (R278). -/
  | exportParcelWritten (h : Word)
  /-- STREAM_IMPORT (R282). -/
  | streamImport (fn : Fin 64) (sq : Fin 64) (desc : BitVec 512)
  /-- STREAM_CLOSE (R262). -/
  | streamClose (fn : Fin 64) (sq : Fin 64) (desc : BitVec 512)
  /-- STRM_CNT_CLR (R285). -/
  | strmCntClr (v : Word)
  /-- HOST_INPUT_POLL (R305). -/
  | hostInputPoll (ch : Nat)
  /-- RIPPLE_FRAME (R317). -/
  | rippleFrame (ch : Nat) (pcm : List Int)
  /-- CREST_DECISION (R325). -/
  | crestDecision (ch : Nat)
  /-- CREST_TIMEOUT (R325). -/
  | crestTimeout (ch : Nat)
  /-- CHANNEL_RELEASE (R326). -/
  | channelRelease (ch : Nat)
  /-- RPL_CH_SRC_WRITE (R316). -/
  | rplChSrcWrite (ch : Nat) (v : Word)
  /-- GROUP_ENABLE (R317). -/
  | groupEnable (g : Fin 64) (v : Word)
  /-- ENROLL (R322). -/
  | enroll (v : Word)
  /-- ENROLL_DELETE (R322). -/
  | enrollDelete (v : Word)
  /-- RPL_CNT_CLR (R330). -/
  | rplCntClr (v : Word)
  /-- ACF_MODE_WRITE (R310). -/
  | acfModeWrite (a : Fin 4) (v : Word)
  /-- ACF_MODE_CHANGE (R327). -/
  | acfModeChange (a : Fin 4)
  /-- PDM_CLOCK_START (R311). -/
  | pdmClockStart (a : Fin 4)
  /-- ATTEND_BLOCK (R314). -/
  | attendBlock (a : Fin 4) (pcm : List Int)
  /-- ACF_CNT_CLR (R331). -/
  | acfCntClr (v : Word)
  /-- PORT_START (R349). -/
  | portStart (n : Fin 8) (v : Word)
  /-- PORT_STOP (R349). -/
  | portStop (n : Fin 8) (v : Word)
  /-- PORT_STOP_COMPLETE (R349). -/
  | portStopComplete (n : Fin 8)
  /-- PORT_FRAME (R340). -/
  | portFrame (n : Fin 8) (rx : List Word)
  /-- SLOT_SAMPLE_ARRIVAL (R345). -/
  | slotSampleArrival (n : Fin 8) (slot : Fin 32) (skipped : Nat) (x : Int) (deg : Bool)
  /-- STEER_UPDATE (R337). -/
  | steerUpdate (n : Fin 8)
  /-- RATE_MEASURE (R338). -/
  | rateMeasure (n : Fin 8)
  /-- SYNC_LOST (R339). -/
  | syncLost (n : Fin 8)
  /-- TXMASK_WRITE (R341). -/
  | txmaskWrite (n : Fin 8) (v : Word)
  /-- RXMASK_WRITE (R341). -/
  | rxmaskWrite (n : Fin 8) (v : Word)
  /-- TRIM_CLR (R337). -/
  | trimClr (n : Fin 8) (v : Word)
  /-- SAP_CNT_CLR (R352). -/
  | sapCntClr (v : Word)
  /-- ITEM_START (R355). -/
  | itemStart (cl : Fin 96)
  /-- PREEMPT_PLACE (R358). -/
  | preemptPlace (h : Word)
  /-- AGING_TICK (R359). -/
  | agingTick
  /-- REGION_WAKE_COMPLETE (R366). -/
  | regionWakeComplete (j : Fin 16)
  /-- PLC_CNT_CLR (R369). -/
  | plcCntClr (v : Word)
  /-- LINK_TRAINING_COMPLETE (R371). -/
  | linkTrainingComplete (rate : Nat) (width : Nat)
  /-- SQ_DOORBELL (R378). -/
  | sqDoorbell (fn : Fin 64) (q : Fin 64) (v : Word)
  /-- CQ_DOORBELL (R380). -/
  | cqDoorbell (fn : Fin 64) (q : Fin 64) (v : Word)
  /-- COMMAND_FETCH (R379). -/
  | commandFetch
  /-- NOP (R382). -/
  | nop (fn : Fin 64) (sq : Fin 64) (desc : BitVec 512)
  /-- COPY (R382). -/
  | copy (fn : Fin 64) (sq : Fin 64) (desc : BitVec 512)
  /-- CQ_INTERRUPT_TIMER (R381). -/
  | cqInterruptTimer (fn : Fin 64) (q : Fin 64)
  /-- FUNCTION_LEVEL_RESET (R388). -/
  | functionLevelReset (fn : Fin 64)
  /-- HQ_CNT_CLR (R390). -/
  | hqCntClr (v : Word)
  /-- MCTP_SET_ENDPOINT_ID (R389). -/
  | mctpSetEndpointId (eid : Byte)
  /-- MCTP_GET_ENDPOINT_ID (R389). -/
  | mctpGetEndpointId
  /-- MCTP_GET_VERSION_SUPPORT (R389). -/
  | mctpGetVersionSupport
  /-- MCTP_GET_MESSAGE_TYPE_SUPPORT (R389). -/
  | mctpGetMessageTypeSupport
  /-- TELEMETRY_PART_ID (R389). -/
  | telemetryPartId
  /-- TELEMETRY_TEMPERATURES (R389). -/
  | telemetryTemperatures
  /-- TELEMETRY_POWER (R389). -/
  | telemetryPower
  /-- TELEMETRY_LINKS (R389). -/
  | telemetryLinks
  /-- TELEMETRY_ERROR_COUNTERS (R389). -/
  | telemetryErrorCounters
  /-- TELEMETRY_EVENTS_READ_CLEAR (R389). -/
  | telemetryEventsReadClear
  /-- BAR4_ACCESS (R376). -/
  | bar4Access (fn : Fin 64) (write : Bool) (off : Nat) (len : Nat) (data : List Byte)
  /-- ERG_PORT_TRAIN (R392). -/
  | ergPortTrain (n : Fin 16) (lanes : Byte)
  /-- ERG_HELLO (R394). -/
  | ergHello (n : Fin 16) (hello : Hello) (enc : Bool)
  /-- ERG_PROOF (R394). -/
  | ergProof (n : Fin 16) (proof : List Byte)
  /-- FLIT_RECEIVE (R393). -/
  | flitReceive (n : Fin 16) (crcOk : Bool) (tagOk : Bool)
  /-- LINK_HELLO (R393). -/
  | linkHello (n : Fin 16) (heard : Bool)
  /-- ERG_PORT_DOWN (R393). -/
  | ergPortDown (n : Fin 16) (cause : DownCause)
  /-- ERG_RETRAIN_TIMER (R393). -/
  | ergRetrainTimer (n : Fin 16)
  /-- ERG_REKEY (R395). -/
  | ergRekey (n : Fin 16)
  /-- ERG_JOIN (R396). -/
  | ergJoin (v : Word)
  /-- LSA_FLOOD (R396). -/
  | lsaFlood
  /-- LSA_RECEIVE (R396). -/
  | lsaReceive (n : Fin 16) (lsa : Lsa)
  /-- MEMBER_STALE (R396). -/
  | memberStale (ident : Nat)
  /-- ID_GRANT (R398). -/
  | idGrant (dev : Fin 4096)
  /-- ERG_REJOIN (R399). -/
  | ergRejoin (v : Word)
  /-- ERG_UNR_CLR (R409). -/
  | ergUnrClr (v : Word)
  /-- ERG_CNT_CLR (R414). -/
  | ergCntClr (v : Word)
  /-- REMOTE_REQUEST (R406). -/
  | remoteRequest (src : Fin 4096) (req : RemReq)
  /-- REMOTE_RESPONSE (R405). -/
  | remoteResponse (id : Nat) (status : Nat) (data : RespData)
  /-- REMOTE_REQUEST_TIMEOUT (R403). -/
  | remoteRequestTimeout (id : Nat)
  /-- SYNC_EXCHANGE (R410). -/
  | syncExchange (n : Fin 16) (t1 : Dword) (t2 : Dword) (t3 : Dword) (t4 : Dword)
  /-- FABRIC_SNAPSHOT_TRIGGER (R412). -/
  | fabricSnapshotTrigger (t : Dword) (num : Word)
  /-- SLOT_FILL (R419). -/
  | slotFill
  /-- SLOT_REVOKE (R419). -/
  | slotRevoke
  /-- SLOT_CLAIM (R419). -/
  | slotClaim
  /-- FUSE_PROGRAM_DONE (R421). -/
  | fuseProgramDone (ok : Bool)
  /-- QUOTE (R424). -/
  | quote
  /-- QUOTE_DONE (R424). -/
  | quoteDone
  /-- SEC_CNT_CLR (R427). -/
  | secCntClr (v : Word)
  /-- TALLY_MESSAGE (R433). -/
  | tallyMessage (fn : Fin 64) (q : Fin 4) (deg : Bool) (units : Fin 65536)
  /-- TALLY_RESIDUE_TIMEOUT (R433). -/
  | tallyResidueTimeout (tap : Fin 203) (fn : Fin 64) (q : Fin 4) (deg : Bool)
  /-- METER_PERIOD_END (R435). -/
  | meterPeriodEnd
  /-- METER_POWER_UP (R438). -/
  | meterPowerUp (per : Fin 8) (sealOpen : Bool)
  /-- SEAL_OPEN (R440). -/
  | sealOpen (time : Nat)
  /-- SEAL_CLOSE (R440). -/
  | sealClose (time : Nat)
  /-- MIRROR_COPY (R442). -/
  | mirrorCopy
  /-- MMR_CNT_CLR (R446). -/
  | mmrCntClr (v : Word)
  /-- INSPECTOR_IDENTITY (R443). -/
  | inspectorIdentity
  /-- INSPECTOR_STATUS (R443). -/
  | inspectorStatus
  /-- INSPECTOR_RECORD_BY_SEQ (R443). -/
  | inspectorRecordBySeq (seq : Nat)
  /-- INSPECTOR_LATEST_RECORD (R443). -/
  | inspectorLatestRecord
  /-- INSPECTOR_OPEN_COUNTS (R443). -/
  | inspectorOpenCounts
  /-- INSPECTOR_BAD_FRAME (R443). -/
  | inspectorBadFrame
  /-- ERROR_REPORT (R452). -/
  | errorReport (cls : Nat) (code : Nat) (loc : Word) (skind : Nat) (suspect : Nat)
  /-- REGION_WINDOW_CLOSE (R452). -/
  | regionWindowClose (region : Nat)
  /-- PACKAGE_WINDOW_CLOSE (R452). -/
  | packageWindowClose
  /-- ERR_TAIL_WRITE (R455). -/
  | errTailWrite (v : Word)
  /-- ERR_MOD_INTERVAL_END (R458). -/
  | errModIntervalEnd
  /-- SNAP_FIRE (R461). -/
  | snapFire
  /-- SNAP_BCAST (R461). -/
  | snapBcast
  /-- SNAP_RELEASE (R462). -/
  | snapRelease
  /-- SNAP_CANCEL (R462). -/
  | snapCancel
  /-- SNP_CNT_CLR (R467). -/
  | snpCntClr
  /-- SNAP_IN_EDGE (R461). -/
  | snapInEdge (rising : Bool)
  /-- SNAPSHOT_LATCH (R459). -/
  | snapshotLatch
  /-- SNAP_OUT_END (R464). -/
  | snapOutEnd
  /-- POWER_ESTIMATE (R474). -/
  | powerEstimate (w : Nat)
  /-- AVS_CURRENT_READ (R471). -/
  | avsCurrentRead (cur : Option Nat)
  /-- AVS_ALERT (R471). -/
  | avsAlert (status : Option Bool)
  /-- AVS_RETRY (R471). -/
  | avsRetry (ok : Bool)
  /-- THERMAL_SAMPLE (R480). -/
  | thermalSample (dies : List Nat) (oasis : Nat)
  /-- DIE_NIGHT_ENTER (R476). -/
  | dieNightEnter (d : Fin 4)
  /-- DIE_WAKE (R476). -/
  | dieWake (d : Fin 4)
  /-- DIE_WAKE_COMPLETE (R476). -/
  | dieWakeComplete (d : Fin 4)
  /-- PWR_PEAK_CLEAR (R486). -/
  | pwrPeakClear (v : Word)
  /-- OAS_CNT_CLR (R486). -/
  | oasCntClr (v : Word)
  /-- POWER_ON_RESET (R482). -/
  | powerOnReset (asserted : Bool) (strap : Straps)
  /-- HOST_RESET (R482). -/
  | hostReset (cause : HostResetCause)
  /-- WARM_RESET (R482). -/
  | warmReset (v : Word)
  /-- DIE_RESET (R483). -/
  | dieReset (v : Word)
  /-- JTAG_BYPASS (R497). -/
  | jtagBypass
  /-- JTAG_IDCODE (R497). -/
  | jtagIdcode
  /-- JTAG_SAMPLE_PRELOAD (R498). -/
  | jtagSamplePreload (cells : List (Nat × Bool))
  /-- JTAG_EXTEST (R498). -/
  | jtagExtest (cells : List (Nat × Bool))
  /-- JTAG_HIGHZ (R498). -/
  | jtagHighz
  /-- JTAG_CLAMP (R498). -/
  | jtagClamp
  /-- JTAG_EXTEST_PULSE (R497). -/
  | jtagExtestPulse
  /-- JTAG_EXTEST_TRAIN (R497). -/
  | jtagExtestTrain
  /-- PCIE_LINK_DOWN (R482). -/
  | pcieLinkDown
  /-- ATS_INVALIDATION (R374). -/
  | atsInvalidation (fn : Fin 64) (page : Nat)
  /-- SLEW_COMPLETE (R28). -/
  | slewComplete
  deriving DecidableEq, Repr

end Sys2Proof
end

