-- ==== Sys2Proof/Machine/ListenMath.lean ====
section
/-!
DEFINITION. The listening cascade's arithmetic: the pre-roll code (R315), the phrase matcher (R318), speech onset
(R319) and the calibration filter (R312).
-/

namespace Sys2Proof.Machine

def clampInt (lo hi x : Int) : Int := max lo (min hi x)

/-- `n / d` rounded to the nearest whole number, ties to even. -/
def roundDivEven (n : Int) (d : Nat) : Int :=
  let q := n / (d : Int)
  let r2 := 2 * (n - q * (d : Int))
  if r2 > (d : Int) then q + 1
  else if r2 = (d : Int) then (if q % 2 = 0 then q else q + 1)
  else q

/-- One encoder pass at shift `e` (R315): codes, last reconstruction, and whether no residual was clamped. -/
def encodePass (e : Nat) (xp : Int) (xs : List Int) : List Int × Int × Bool :=
  xs.foldl (fun (st : List Int × Int × Bool) x =>
    let q := roundDivEven (x - st.2.1) (2 ^ e)
    let c := clampInt (-8) 7 q
    (st.1 ++ [c], clampInt (-32768) 32767 (st.2.1 + c * ((2 ^ e : Nat) : Int)), st.2.2 && decide (-8 ≤ q ∧ q ≤ 7)))
    ([], xp, true)

/-- The first shift that fits, or 12 (R315); fuel counts the shifts left. -/
def encodeFrom : Nat → Nat → Int → List Int → PreBlock × Int
  | 0, e, xp, xs => let r := encodePass e xp xs; ({ x0 := xp, e := e, codes := r.1 }, r.2.1)
  | k + 1, e, xp, xs =>
    let r := encodePass e xp xs
    if r.2.2 then ({ x0 := xp, e := e, codes := r.1 }, r.2.1) else encodeFrom k (e + 1) xp xs

/-- The encoder of R315: the block and the new `xp`. -/
def encodeBlock (xp : Int) (xs : List Int) : PreBlock × Int := encodeFrom 12 0 xp xs

/-- The decoder of R315. -/
def decodeBlock (b : PreBlock) : List Int :=
  (b.codes.foldl (fun (st : List Int × Int) c =>
    let y := clampInt (-32768) 32767 (st.2 + c * ((2 ^ b.e : Nat) : Int))
    (st.1 ++ [y], y)) ([], b.x0)).1

/-- The bytes of a block: header, then codes packed under R76. -/
def packNibbles : List Int → List Byte
  | a :: b :: t => BitVec.ofInt 8 (a % 16 + 16 * (b % 16)) :: packNibbles t
  | [a] => [BitVec.ofInt 8 (a % 16)]
  | [] => []

def PreBlock.bytes (b : PreBlock) : List Byte :=
  [BitVec.ofInt 8 b.x0, BitVec.ofInt 8 (b.x0 / 256), BitVec.ofNat 8 b.e, 0] ++ packNibbles b.codes

/-- The score of unit `u` of the model's outputs. -/
def scoreAt (v : List Int) (u : Nat) : Int := v.getD u 0

/-- State `i` of a phrase after one frame, from the previous frame's states (R318). -/
def matchStateAt (v : List Int) (p : Phrase) (old : List PhrState) (i : Nat) : PhrState :=
  let o := old.getD i {}
  let prev := old.getD (i - 1) {}
  let unitV := scoreAt v (p.units.getD i 0)
  let cand : Option (Int × Nat) := if i = 0 then some (0, 0) else if prev.live then some (prev.a, prev.age) else none
  let stay : Option (Int × Nat) := if o.live then some (o.a, o.age) else none
  let best : Option (Int × Nat) := match stay, cand with
    | some s, some c => if s.1 < c.1 then some c else some s
    | some s, none => some s
    | none, c => c
  match best with
  | none => {}
  | some (sc, ag) =>
    let a := clampInt (-32768) 32767 (sc + unitV - scoreAt v 0)
    ⟨a, ag + 1, decide (0 < a) && decide (ag + 1 ≤ 200)⟩

/-- One frame of a phrase's matcher: the new states and whether the phrase matched (R318). -/
def matchFrame (v : List Int) (p : Phrase) (old : List PhrState) : List PhrState × Bool :=
  let n := p.units.length
  let last := old.getD (n - 1) {}
  let ended := last.live && decide (scoreAt v (p.units.getD (n - 1) 0) < scoreAt v 0)
  let hit := ended && decide (p.thresh ≤ last.a) && decide (p.minFrames ≤ last.age)
  ((List.range n).map (matchStateAt v p old), hit)

/-- Whether a phrase holds a partial match: some state past the first is live (R318). -/
def partialMatch (st : List PhrState) : Bool := (st.drop 1).any (·.live)

/-- One frame of onset detection (R319): the new floor and run, and whether onset occurred. -/
def onsetFrame (first : Bool) (count : Nat) (onsetDb frames : Nat) (e floor : Int) (run : Nat) : Int × Nat × Bool :=
  let fl := if first then e else if e < floor then e else if count % 8 = 0 then floor + 1 else floor
  let run' := if fl + (onsetDb : Int) ≤ e then run + 1 else 0
  (fl, run', decide (run' = max 1 frames))

/-- A tap coefficient `num / (den * 64^3)` held in Q2.22, rounded to nearest even (R312). -/
def calTap (num : Int) (den : Nat) : Int := roundDivEven (num * 2 ^ 22) (den * 262144)

/-- The calibrated sample of R312 and whether it saturated. `x i` is the path output `i` samples before the present. -/
def calibSample (gain delay : Int) (x : Nat → Int) : Int × Bool :=
  let m := delay / 64
  let f := delay - 64 * m
  let hm1 := calTap (-(f * (f - 64) * (f - 128))) 6
  let h0 := calTap ((f + 64) * (f - 64) * (f - 128)) 2
  let h1 := calTap (-((f + 64) * f * (f - 128))) 2
  let h2 := calTap ((f + 64) * f * (f - 64)) 6
  let b := 10 + m
  let t := hm1 * x (b - 1).toNat + h0 * x b.toNat + h1 * x (b + 1).toNat + h2 * x (b + 2).toNat
  let y := roundDivEven (gain * t) (2 ^ 36)
  let s := clampInt (-8388608) 8388607 y
  (s, s != y)

end Sys2Proof.Machine
end

