-- ==== Sys2Proof/Machine/Cairn.lean ====
section
/-!
DEFINITION. The cairn unit's check value (R199): width, polynomial, reflections, final XOR and running value.
-/

namespace Sys2Proof.Machine

/-- Reverses the low `w` bits. -/
def reflectBits : Nat → Nat → Nat
  | 0, _ => 0
  | w + 1, x => (x % 2) * 2 ^ w + reflectBits w (x / 2)

/-- The parameters of a slot (R199). -/
structure CairnCfg where
  w : Nat
  poly : Nat
  xorOut : Nat
  refIn : Bool
  refOut : Bool
  deriving DecidableEq, Repr

/-- One shift of the running value. -/
def cairnShift (c : CairnCfg) (v : Nat) : Nat :=
  if bitAt v (c.w - 1) then ((v * 2) ^^^ c.poly) % 2 ^ c.w else (v * 2) % 2 ^ c.w

/-- `feed(b)` of R199. -/
def cairnFeed (c : CairnCfg) (v : Nat) (b : Byte) : Nat :=
  let b := if c.refIn then reflectBits 8 b.toNat else b.toNat
  let v := v ^^^ (b <<< (c.w - 8))
  (List.range 8).foldl (fun v _ => cairnShift c v) v

/-- `result()` of R199. -/
def cairnResult (c : CairnCfg) (v : Nat) : Nat :=
  ((if c.refOut then reflectBits c.w v else v) ^^^ c.xorOut) % 2 ^ c.w

/-- CRC-32 with the parameters of row 2 of Table 09-7. -/
def crc32 (l : List Byte) : Nat :=
  let c : CairnCfg := { w := 32, poly := 0x04C11DB7, xorOut := 0xFFFFFFFF, refIn := true, refOut := true }
  cairnResult c (l.foldl (cairnFeed c) 0xFFFFFFFF)

end Sys2Proof.Machine
end

