-- ==== Sys2Proof/Machine/RegMap.lean ====
section
/-!
DEFINITION. The register map: the address of every register of BAR0 and BAR2 (R9, R10, Tables 00-3, 00-4) and the
access code, writable bits and reset value that each register's summary table gives it. Reset values the spec does
not state are 0 (DESIGN CHOICE, log 2). BAR2 of function f is keyed above BAR0, at `bar2Base f`.
-/

namespace Sys2Proof.Machine

/-- The access codes of Table 00-2; `act` marks a register whose write has a command of its own. -/
inductive Access where
  | ro | rw | wo | w1c | rs | ros | act
  deriving DecidableEq, Repr

/-- One line of a register summary table: offset in its unit, access, writable mask, W1C mask, reset value, and the
stride and count of an indexed register, and whether it is the low word of a pair. -/
structure RegRow where
  off : Nat
  acc : Access
  rw : Nat
  w1c : Nat
  reset : Nat
  stride : Nat
  count : Nat
  /-- The register is the low word of a 64-bit pair (R8). -/
  low : Bool
  deriving DecidableEq, Repr

/-- Die d's window (R9). -/
def dieBase (d : Nat) : Nat := 0x1000000 + d * 0x800000
/-- Cistern engine e = 32d + n (R10). -/
def cisBase (e : Nat) : Nat := dieBase (e / 32) + 0x100000 + (e % 32) * 0x1000
/-- Cluster i = 24d + 6r + c (R10, Table 08-2). -/
def clBase (i : Nat) : Nat :=
  dieBase (i / 24) + 0x200000 + (i % 24 / 6) * 0x100000 + 0x10000 + (i % 6) * 0x20000
/-- Nomad core n = 4i + k (Table 00-4). -/
def nmdBase (n : Nat) : Nat := clBase (n / 4) + 0x3000 + (n % 4) * 0x400
/-- Caravan engine e: of cluster e below 96, Oasis engine e - 96 above (R203). -/
def carBase (e : Nat) : Nat := if e < 96 then clBase e + 0x4000 else 0x80000 + (e - 96) * 0x2000
/-- BAR2 of function f: the model's own key range. -/
def bar2Base (f : Nat) : Nat := 0x100000000 + f * 0x10000

namespace Reg

/-! Registers of the OAS unit (R486, Table 22-10). -/
def OAS_PART_ID : Nat := 0x00000000
def OAS_STEP : Nat := 0x00000004
def OAS_RESET : Nat := 0x00000010
def OAS_RESET_CAUSE : Nat := 0x00000014
def OAS_CNT_CLR : Nat := 0x00000018
def PWR_CTRL : Nat := 0x00000020
def PWR_STATUS : Nat := 0x00000024
def PWR_CAP : Nat := 0x00000028
def PWR_NOW : Nat := 0x0000002C
def PWR_AVG1S : Nat := 0x00000030
def PWR_PEAK : Nat := 0x00000034
def PWR_INT_STATUS : Nat := 0x00000038
def PWR_INT_EN : Nat := 0x0000003C
def OAS_DIEd_CLK (i : Nat) : Nat := 0x00000040 + i * 0x4
def OAS_DIEd_TEMP (i : Nat) : Nat := 0x00000050 + i * 0x4
def OAS_OASIS_TEMP : Nat := 0x00000060
def PWR_VCORE : Nat := 0x00000064
def PWR_ICORE : Nat := 0x00000068
def PWR_NIGHT_DELAY : Nat := 0x0000006C
def PWR_CAP_EVENTS : Nat := 0x00000070
def PWR_THROTTLE : Nat := 0x00000074
def PWR_NIGHTS : Nat := 0x00000078
def MMR_CTRL : Nat := 0x000A0000
def MMR_BASE_LO : Nat := 0x000A0004
def MMR_BASE_HI : Nat := 0x000A0008
def MMR_SIZE : Nat := 0x000A000C
def MMR_HEAD : Nat := 0x000A0010
def MMR_TAIL : Nat := 0x000A0014
def MMR_LOST : Nat := 0x000A0018
def MMR_INT_STATUS : Nat := 0x000A001C
def MMR_INT_EN : Nat := 0x000A0020
/-! Registers of the PLC unit (R369, Table 16-5). -/
def PLC_STATUS : Nat := 0x00100000
def PLC_INT_STATUS : Nat := 0x00100004
def PLC_INT_EN : Nat := 0x00100008
def PLC_CNT_CLR : Nat := 0x0010000C
def PLC_POLICY0 : Nat := 0x00100010
def PLC_POLICY1 : Nat := 0x00100014
def PLC_HEADROOM : Nat := 0x00100018
def PLC_AWAKE : Nat := 0x0010001C
def PLC_WAITc (i : Nat) : Nat := 0x00100020 + i * 0x4
def PLC_ADMIT : Nat := 0x00100040
def PLC_NOROOM : Nat := 0x00100044
def PLC_PREEMPT : Nat := 0x00100048
def PLC_AGED : Nat := 0x0010004C
def PLC_URGENT : Nat := 0x00100050
def PLC_URGENT_MISS : Nat := 0x00100054
def PLC_WAKE : Nat := 0x00100058
def PLC_GATE : Nat := 0x0010005C
def PLC_WAKE_DENIED : Nat := 0x00100060
def PLC_CL_SEL : Nat := 0x00100080
def PLC_CL_INFO : Nat := 0x00100084
/-! Registers of the KVC unit (R258, Table 11-6). -/
def KVC_STATUS : Nat := 0x00180000
def KVC_INT_STATUS : Nat := 0x00180004
def KVC_INT_EN : Nat := 0x00180008
def KVC_CNT_CLR : Nat := 0x0018000C
def KVC_PFX_BASE_LO : Nat := 0x00180010
def KVC_PFX_BASE_HI : Nat := 0x00180014
def KVC_PFX_SIZE : Nat := 0x00180018
def KVC_REC_BASE_LO : Nat := 0x00180020
def KVC_REC_BASE_HI : Nat := 0x00180024
def KVC_REC_COUNT : Nat := 0x00180028
def KVC_REC_FREE : Nat := 0x0018002C
def KVC_RING_TIMEOUT : Nat := 0x00180030
def KVC_SWAP_OUT_LO : Nat := 0x00180040
def KVC_SWAP_OUT_HI : Nat := 0x00180044
def KVC_SWAP_IN_LO : Nat := 0x00180048
def KVC_SWAP_IN_HI : Nat := 0x0018004C
def KVC_CACHE_FULL : Nat := 0x00180050
def KVC_PFX_HIT : Nat := 0x00180054
def KVC_PFX_MISS : Nat := 0x00180058
def KVC_PFX_COLL : Nat := 0x0018005C
def KVC_PFX_BFULL : Nat := 0x00180060
def KVC_COW : Nat := 0x00180064
def KVC_SWAP_FAIL : Nat := 0x00180068
def KVC_RING_TMO : Nat := 0x0018006C
def KVC_Q_HANDLE : Nat := 0x00180080
def KVC_Q_STATE : Nat := 0x00180084
def KVC_Q_CTX : Nat := 0x00180088
def KVC_Q_PAGES : Nat := 0x0018008C
def KVC_Q_LAST_LO : Nat := 0x00180090
def KVC_Q_LAST_HI : Nat := 0x00180094
def KVC_SWAPf_BASE_LO (i : Nat) : Nat := 0x00180100 + i * 0x10
def KVC_SWAPf_BASE_HI (i : Nat) : Nat := 0x00180104 + i * 0x10
def KVC_SWAPf_SIZE (i : Nat) : Nat := 0x00180108 + i * 0x10
def KVC_SWAPf_USED (i : Nat) : Nat := 0x0018010C + i * 0x10
/-! Registers of the STRM unit (R285, Table 12-11). -/
def STRM_INT_STATUS : Nat := 0x00190000
def STRM_INT_EN : Nat := 0x00190004
def STRM_CNT_CLR : Nat := 0x00190008
def STRM_OPEN_NOW : Nat := 0x00190010
def STRM_SWAPPED_NOW : Nat := 0x00190014
def STRM_OPENS : Nat := 0x00190020
def STRM_CLOSES : Nat := 0x00190024
def STRM_EXPORTS : Nat := 0x00190028
def STRM_EXPORT_FAIL : Nat := 0x0019002C
def STRM_IMPORTS : Nat := 0x00190030
def STRM_IMPORT_REJ : Nat := 0x00190034
def STRM_MARKS : Nat := 0x00190038
def STRM_STARVE : Nat := 0x0019003C
def STRM_PREEMPT : Nat := 0x00190040
def STRM_RESTORE : Nat := 0x00190044
def STRM_DROPPED : Nat := 0x00190048
def STRM_Q_HANDLE : Nat := 0x00190080
def STRM_Q_STATE : Nat := 0x00190084
def STRM_Q_POS_LO : Nat := 0x00190088
def STRM_Q_POS_HI : Nat := 0x0019008C
def STRM_Q_STEPS_LO : Nat := 0x00190090
def STRM_Q_STEPS_HI : Nat := 0x00190094
def STRM_Q_QUEUE : Nat := 0x00190098
def STRM_Q_CLUSTER : Nat := 0x0019009C
def STRM_Q_ZEROED : Nat := 0x001900A0
/-! Registers of the TCK unit (R51, Table 02-3). -/
def TCK_CTRL : Nat := 0x00200000
def TCK_STATUS : Nat := 0x00200004
def TCK_INT_STATUS : Nat := 0x00200008
def TCK_INT_EN : Nat := 0x0020000C
def TCK_TB_LO : Nat := 0x00200010
def TCK_TB_HI : Nat := 0x00200014
def TCK_TB_SET_LO : Nat := 0x00200018
def TCK_TB_SET_HI : Nat := 0x0020001C
def TCK_PPS_EPOCH_LO : Nat := 0x00200020
def TCK_PPS_EPOCH_HI : Nat := 0x00200024
def TCK_OFFSET : Nat := 0x00200028
def TCK_SLEW : Nat := 0x0020002C
def TCK_PPS_LAST_LO : Nat := 0x00200030
def TCK_PPS_LAST_HI : Nat := 0x00200034
def TCK_PLp_CFG (i : Nat) : Nat := 0x00200040 + i * 0x40
def TCK_PLp_GRAIN_LO (i : Nat) : Nat := 0x00200048 + i * 0x40
def TCK_PLp_GRAIN_HI (i : Nat) : Nat := 0x0020004C + i * 0x40
def TCK_PLp_FRAME_LO (i : Nat) : Nat := 0x00200050 + i * 0x40
def TCK_PLp_FRAME_HI (i : Nat) : Nat := 0x00200054 + i * 0x40
def TCK_PLp_MISS_LO (i : Nat) : Nat := 0x00200058 + i * 0x40
def TCK_PLp_MISS_HI (i : Nat) : Nat := 0x0020005C + i * 0x40
def TCK_PLp_RESYNC (i : Nat) : Nat := 0x00200060 + i * 0x40
def TCK_PLp_SKIP_LO (i : Nat) : Nat := 0x00200064 + i * 0x40
def TCK_PLp_SKIP_HI (i : Nat) : Nat := 0x00200068 + i * 0x40
def TCK_MISS_BASE_LO : Nat := 0x00200200
def TCK_MISS_BASE_HI : Nat := 0x00200204
def TCK_MISS_SIZE : Nat := 0x00200208
def TCK_MISS_HEAD : Nat := 0x0020020C
def TCK_MISS_TAIL : Nat := 0x00200210
def TCK_MISS_DROP : Nat := 0x00200214
def TCK_MISS_MOD : Nat := 0x00200218
/-! Registers of the SPL unit (R72, Table 03-7). -/
def SPL_CTRL : Nat := 0x00300000
def SPL_STATUS : Nat := 0x00300004
def SPL_INT_STATUS : Nat := 0x00300008
def SPL_INT_EN : Nat := 0x0030000C
def SPL_SRC_LO : Nat := 0x00300010
def SPL_SRC_HI : Nat := 0x00300014
def SPL_LEN : Nat := 0x00300018
def SPL_DRAIN_LIMIT : Nat := 0x0030001C
def SPL_SWITCH_PLANE : Nat := 0x00300020
def SPL_POOL_STATE : Nat := 0x00300024
def SPL_SERIAL_LO : Nat := 0x00300028
def SPL_SERIAL_HI : Nat := 0x0030002C
def SPL_POOL_LOADS : Nat := 0x00300030
def SPL_WEIGHT_CNT : Nat := 0x00300034
def SPL_DIGESTi (i : Nat) : Nat := 0x00300040 + i * 0x4
/-! Registers of the SEC unit (R427, Table 19-8). -/
def SEC_CTRL : Nat := 0x00400000
def SEC_STATUS : Nat := 0x00400004
def SEC_INT_STATUS : Nat := 0x00400008
def SEC_INT_EN : Nat := 0x0040000C
def SEC_REQ_ADDR_LO : Nat := 0x00400010
def SEC_REQ_ADDR_HI : Nat := 0x00400014
def SEC_PARCEL_CFG : Nat := 0x00400018
def SEC_CNT_CLR : Nat := 0x0040001C
def SEC_VERIFY_OK : Nat := 0x00400020
def SEC_VERIFY_FAIL : Nat := 0x00400024
def SEC_SIGNS : Nat := 0x00400028
def SEC_REQS : Nat := 0x0040002C
def SEC_NONCEi (i : Nat) : Nat := 0x00400040 + i * 0x4
def SEC_QNONCEi (i : Nat) : Nat := 0x00400080 + i * 0x4
def SEC_SLOTs_STATE (i : Nat) : Nat := 0x00400100 + i * 0x40
def SEC_SLOTs_KEY0 (i : Nat) : Nat := 0x00400120 + i * 0x40
def SEC_SLOTs_KEY1 (i : Nat) : Nat := 0x00400124 + i * 0x40
def SEC_SLOTs_KEY2 (i : Nat) : Nat := 0x00400128 + i * 0x40
def SEC_SLOTs_KEY3 (i : Nat) : Nat := 0x0040012C + i * 0x40
def SEC_SLOTs_KEY4 (i : Nat) : Nat := 0x00400130 + i * 0x40
def SEC_SLOTs_KEY5 (i : Nat) : Nat := 0x00400134 + i * 0x40
def SEC_SLOTs_KEY6 (i : Nat) : Nat := 0x00400138 + i * 0x40
def SEC_SLOTs_KEY7 (i : Nat) : Nat := 0x0040013C + i * 0x40
def SEC_IDRECi (i : Nat) : Nat := 0x00400300 + i * 0x4
def SEC_QOUTi (i : Nat) : Nat := 0x00400400 + i * 0x4
def SEC_SLOT_DIGESTi (i : Nat) : Nat := 0x00400600 + i * 0x4
def SEC_MFGKEYm_i (i : Nat) : Nat := 0x00400700 + i * 0x4
/-! Registers of the SGL unit (R445, Table 20-7). -/
def SGL_STATUS : Nat := 0x00500000
def SGL_LEGAL_VER : Nat := 0x00500004
def SGL_PERIOD : Nat := 0x00500008
def SGL_DIV_PPM : Nat := 0x0050000C
def SGL_SEQ_LO : Nat := 0x00500010
def SGL_SEQ_HI : Nat := 0x00500014
def SGL_TIME_LO : Nat := 0x00500018
def SGL_TIME_HI : Nat := 0x0050001C
def SGL_HEAD : Nat := 0x00500020
def SGL_OLDEST : Nat := 0x00500024
def SGL_KEYi (i : Nat) : Nat := 0x00500040 + i * 0x4
def SGL_IDRECi (i : Nat) : Nat := 0x00500100 + i * 0x4
def SGL_OPENf_k_LO (i : Nat) : Nat := 0x00501000 + i * 0x8
def SGL_OPENf_k_HI (i : Nat) : Nat := 0x00501004 + i * 0x8
def SGL_RING (i : Nat) : Nat := 0x00540000 + i * 0x4
/-! Registers of the ERR unit (R467, Table 21-10). -/
def ERR_CFG : Nat := 0x00600000
def ERR_STATUS : Nat := 0x00600004
def ERR_INT_STATUS : Nat := 0x00600008
def ERR_INT_EN : Nat := 0x0060000C
def ERR_CLASS_INT : Nat := 0x00600010
def ERR_MOD : Nat := 0x00600014
def ERR_BASE_LO : Nat := 0x00600018
def ERR_BASE_HI : Nat := 0x0060001C
def ERR_MIRROR_LO : Nat := 0x00600020
def ERR_MIRROR_HI : Nat := 0x00600024
def ERR_HEAD : Nat := 0x00600028
def ERR_TAIL : Nat := 0x0060002C
def ERR_OVERFLOW_LO : Nat := 0x00600030
def ERR_OVERFLOW_HI : Nat := 0x00600034
def ERR_EVTc_LO (i : Nat) : Nat := 0x00600100 + i * 0x8
def ERR_EVTc_HI (i : Nat) : Nat := 0x00600104 + i * 0x8
def ERR_REPc_LO (i : Nat) : Nat := 0x00600180 + i * 0x8
def ERR_REPc_HI (i : Nat) : Nat := 0x00600184 + i * 0x8
def SNP_CTRL : Nat := 0x00601000
def SNP_CFG : Nat := 0x00601004
def SNP_STATUS : Nat := 0x00601008
def SNP_INT_STATUS : Nat := 0x0060100C
def SNP_INT_EN : Nat := 0x00601010
def SNP_LEAD : Nat := 0x00601014
def SNP_TARGET_LO : Nat := 0x00601018
def SNP_TARGET_HI : Nat := 0x0060101C
def SNP_TB_LO : Nat := 0x00601020
def SNP_TB_HI : Nat := 0x00601024
def SNP_NUM : Nat := 0x00601028
def SNP_NUM_NEXT : Nat := 0x0060102C
def SNP_VALID : Nat := 0x00601030
def SNP_MISSED : Nat := 0x00601034
def SNP_FIRED : Nat := 0x00601038
/-! Registers of the RPL unit (R330, Table 14-11). -/
def RPL_STATUS : Nat := 0x00700000
def RPL_INT_STATUS : Nat := 0x00700004
def RPL_INT_EN : Nat := 0x00700008
def RPL_CNT_CLR : Nat := 0x0070000C
def RPL_EVT_BASE_LO : Nat := 0x00700010
def RPL_EVT_BASE_HI : Nat := 0x00700014
def RPL_EVT_SIZE : Nat := 0x00700018
def RPL_EVT_HEAD : Nat := 0x0070001C
def RPL_EVT_TAIL : Nat := 0x00700020
def RPL_EVT_DROP : Nat := 0x00700024
def RPL_EVT_MOD : Nat := 0x00700028
def RPL_HIN_BASE_LO : Nat := 0x00700030
def RPL_HIN_BASE_HI : Nat := 0x00700034
def RPL_ENR_ADDR_LO : Nat := 0x00700038
def RPL_ENR_ADDR_HI : Nat := 0x0070003C
def RPL_FRAMES_LO : Nat := 0x00700040
def RPL_FRAMES_HI : Nat := 0x00700044
def RPL_MATCH : Nat := 0x00700048
def RPL_ONSET : Nat := 0x0070004C
def RPL_CONFIRM : Nat := 0x00700050
def RPL_REJECT : Nat := 0x00700054
def RPL_TIMEOUT : Nat := 0x00700058
def RPL_NOROOM : Nat := 0x0070005C
def RPL_ABANDON : Nat := 0x00700060
def RPL_RESET : Nat := 0x00700064
def RPL_LOAD : Nat := 0x00700068
def RPL_AON_UE : Nat := 0x0070006C
def RPL_ENR_CTL : Nat := 0x00700070
def RPL_CH_SEL : Nat := 0x00700080
def RPL_CH_CFG : Nat := 0x00700084
def RPL_CH_SRC : Nat := 0x00700088
def RPL_CH_STATE : Nat := 0x0070008C
def RPL_CH_CMD : Nat := 0x00700090
def RPL_Gg_CFG (i : Nat) : Nat := 0x00700400 + i * 0x20
def RPL_Gg_TIMING (i : Nat) : Nat := 0x00700404 + i * 0x20
def RPL_Gg_ONSET (i : Nat) : Nat := 0x00700408 + i * 0x20
def RPL_Gg_CREST (i : Nat) : Nat := 0x0070040C + i * 0x20
def RPL_Gg_PHR (i : Nat) : Nat := 0x00700410 + i * 0x20
/-! Registers of the ACF unit (R331, Table 14-15). -/
def ACF_MODE : Nat := 0x00780000
def ACF_STATUS : Nat := 0x00780004
def ACF_INT_STATUS : Nat := 0x00780008
def ACF_INT_EN : Nat := 0x0078000C
def ACF_CNT_CLR : Nat := 0x00780010
def ACF_Aa_CFG (i : Nat) : Nat := 0x00780040 + i * 0x20
def ACF_Aa_RING_BASE_LO (i : Nat) : Nat := 0x00780044 + i * 0x20
def ACF_Aa_RING_BASE_HI (i : Nat) : Nat := 0x00780048 + i * 0x20
def ACF_Aa_RING_SIZE (i : Nat) : Nat := 0x0078004C + i * 0x20
def ACF_Aa_HEAD (i : Nat) : Nat := 0x00780050 + i * 0x20
def ACF_Aa_TAIL (i : Nat) : Nat := 0x00780054 + i * 0x20
def ACF_Aa_DROP (i : Nat) : Nat := 0x00780058 + i * 0x20
def ACF_Aa_DEFER (i : Nat) : Nat := 0x0078005C + i * 0x20
def ACF_CALm (i : Nat) : Nat := 0x00780100 + i * 0x4
def ACF_CLIPm (i : Nat) : Nat := 0x00780140 + i * 0x4
/-! Registers of the SAP unit (R352, Table 15-5). -/
def SAP_SUMMARY : Nat := 0x00800000
def SAP_CNT_CLR : Nat := 0x00800004
def SAP_AUD_CFG : Nat := 0x00800008
def SAP_Pn_CFG (i : Nat) : Nat := 0x00801000 + i * 0x100
def SAP_Pn_CLK (i : Nat) : Nat := 0x00801004 + i * 0x100
def SAP_Pn_TIMING (i : Nat) : Nat := 0x00801008 + i * 0x100
def SAP_Pn_STEER (i : Nat) : Nat := 0x0080100C + i * 0x100
def SAP_Pn_CTRL (i : Nat) : Nat := 0x00801010 + i * 0x100
def SAP_Pn_STATUS (i : Nat) : Nat := 0x00801014 + i * 0x100
def SAP_Pn_INT_STATUS (i : Nat) : Nat := 0x00801018 + i * 0x100
def SAP_Pn_INT_EN (i : Nat) : Nat := 0x0080101C + i * 0x100
def SAP_Pn_TXMASK (i : Nat) : Nat := 0x00801020 + i * 0x100
def SAP_Pn_RXMASK (i : Nat) : Nat := 0x00801024 + i * 0x100
def SAP_Pn_BOUND (i : Nat) : Nat := 0x00801028 + i * 0x100
def SAP_Pn_TRIM (i : Nat) : Nat := 0x0080102C + i * 0x100
def SAP_Pn_FRAME_LO (i : Nat) : Nat := 0x00801030 + i * 0x100
def SAP_Pn_FRAME_HI (i : Nat) : Nat := 0x00801034 + i * 0x100
def SAP_Pn_RATE (i : Nat) : Nat := 0x00801038 + i * 0x100
def SAP_Pn_EPOCH (i : Nat) : Nat := 0x0080103C + i * 0x100
def SAP_Pn_RING0_BASE_LO (i : Nat) : Nat := 0x00801040 + i * 0x100
def SAP_Pn_RING0_BASE_HI (i : Nat) : Nat := 0x00801044 + i * 0x100
def SAP_Pn_RING0_SIZE (i : Nat) : Nat := 0x00801048 + i * 0x100
def SAP_Pn_RING0_SW (i : Nat) : Nat := 0x0080104C + i * 0x100
def SAP_Pn_RING0_HW (i : Nat) : Nat := 0x00801050 + i * 0x100
def SAP_Pn_RING1_BASE_LO (i : Nat) : Nat := 0x00801060 + i * 0x100
def SAP_Pn_RING1_BASE_HI (i : Nat) : Nat := 0x00801064 + i * 0x100
def SAP_Pn_RING1_SIZE (i : Nat) : Nat := 0x00801068 + i * 0x100
def SAP_Pn_RING1_SW (i : Nat) : Nat := 0x0080106C + i * 0x100
def SAP_Pn_RING1_HW (i : Nat) : Nat := 0x00801070 + i * 0x100
def SAP_Pn_RING2_BASE_LO (i : Nat) : Nat := 0x00801080 + i * 0x100
def SAP_Pn_RING2_BASE_HI (i : Nat) : Nat := 0x00801084 + i * 0x100
def SAP_Pn_RING2_SIZE (i : Nat) : Nat := 0x00801088 + i * 0x100
def SAP_Pn_RING2_SW (i : Nat) : Nat := 0x0080108C + i * 0x100
def SAP_Pn_RING2_HW (i : Nat) : Nat := 0x00801090 + i * 0x100
def SAP_Pn_RING3_BASE_LO (i : Nat) : Nat := 0x008010A0 + i * 0x100
def SAP_Pn_RING3_BASE_HI (i : Nat) : Nat := 0x008010A4 + i * 0x100
def SAP_Pn_RING3_SIZE (i : Nat) : Nat := 0x008010A8 + i * 0x100
def SAP_Pn_RING3_SW (i : Nat) : Nat := 0x008010AC + i * 0x100
def SAP_Pn_RING3_HW (i : Nat) : Nat := 0x008010B0 + i * 0x100
def SAP_Pn_UNDERRUN_LO (i : Nat) : Nat := 0x008010C0 + i * 0x100
def SAP_Pn_UNDERRUN_HI (i : Nat) : Nat := 0x008010C4 + i * 0x100
def SAP_Pn_STARVE (i : Nat) : Nat := 0x008010C8 + i * 0x100
def SAP_Pn_LATE_DISC (i : Nat) : Nat := 0x008010CC + i * 0x100
def SAP_Pn_TX_DROP (i : Nat) : Nat := 0x008010D0 + i * 0x100
def SAP_Pn_RX_DROP (i : Nat) : Nat := 0x008010D4 + i * 0x100
def SAP_Pn_MASKED (i : Nat) : Nat := 0x008010D8 + i * 0x100
def SAP_Pn_RATE_CHG (i : Nat) : Nat := 0x008010DC + i * 0x100
def SAP_Pn_MASK_HELD (i : Nat) : Nat := 0x008010E0 + i * 0x100
/-! Registers of the ERG unit (R414, Table 18-6). -/
def ERG_CTRL : Nat := 0x00900000
def ERG_STATUS : Nat := 0x00900004
def ERG_INT_STATUS : Nat := 0x00900008
def ERG_INT_EN : Nat := 0x0090000C
def ERG_ID_REQ : Nat := 0x00900010
def ERG_MEMBERS : Nat := 0x00900014
def ERG_ANCHOR : Nat := 0x00900018
def ERG_GM : Nat := 0x0090001C
def ERG_UNR_WINDOW : Nat := 0x00900020
def ERG_REQ_TIMEOUT : Nat := 0x00900024
def ERG_CLASS_WT : Nat := 0x00900028
def ERG_CONVERGE_LAST : Nat := 0x0090002C
def ERG_ALLOW_BASE_LO : Nat := 0x00900030
def ERG_ALLOW_BASE_HI : Nat := 0x00900034
def ERG_ALLOW_COUNT : Nat := 0x00900038
def ERG_DST_SEL : Nat := 0x00900040
def ERG_DST_UNR : Nat := 0x00900044
def ERG_DST_ROUTE : Nat := 0x00900048
def ERG_UNR_TOTAL_LO : Nat := 0x00900050
def ERG_UNR_TOTAL_HI : Nat := 0x00900054
def ERG_REM_REJ : Nat := 0x00900058
def ERG_RETRY_END : Nat := 0x0090005C
def ERG_MEMB_DIGESTi (i : Nat) : Nat := 0x00900080 + i * 0x4
def ERG_WINw_BASE_LO (i : Nat) : Nat := 0x00900100 + i * 0x10
def ERG_WINw_BASE_HI (i : Nat) : Nat := 0x00900104 + i * 0x10
def ERG_WINw_SIZE (i : Nat) : Nat := 0x00900108 + i * 0x10
def ERG_WINw_CFG (i : Nat) : Nat := 0x0090010C + i * 0x10
def ERG_Pn_CFG (i : Nat) : Nat := 0x00900200 + i * 0x40
def ERG_Pn_STATUS (i : Nat) : Nat := 0x00900204 + i * 0x40
def ERG_Pn_PEER (i : Nat) : Nat := 0x00900208 + i * 0x40
def ERG_Pn_RETRY (i : Nat) : Nat := 0x0090020C + i * 0x40
def ERG_Pn_FEC_CE_LO (i : Nat) : Nat := 0x00900210 + i * 0x40
def ERG_Pn_FEC_CE_HI (i : Nat) : Nat := 0x00900214 + i * 0x40
def ERG_Pn_FEC_UE (i : Nat) : Nat := 0x00900218 + i * 0x40
def ERG_Pn_DOWN (i : Nat) : Nat := 0x0090021C + i * 0x40
def ERG_Pn_SYNC_OFS (i : Nat) : Nat := 0x00900220 + i * 0x40
/-! Registers of the HQ unit (R390, Table 17-10). -/
def HQ_LINK : Nat := 0x00A00000
def HQ_INT_STATUS : Nat := 0x00A00004
def HQ_INT_EN : Nat := 0x00A00008
def HQ_CNT_CLR : Nat := 0x00A0000C
def HQ_MGT_ALERT : Nat := 0x00A00010
def HQ_MGT_EVENTS : Nat := 0x00A00014
def HQ_FNf_LIMIT (i : Nat) : Nat := 0x00A01000 + i * 0x40
def HQ_FNf_PAGES (i : Nat) : Nat := 0x00A01004 + i * 0x40
def HQ_FNf_VEC (i : Nat) : Nat := 0x00A01008 + i * 0x40
def HQ_FNf_DMEM_LO (i : Nat) : Nat := 0x00A0100C + i * 0x40
def HQ_FNf_DMEM_HI (i : Nat) : Nat := 0x00A01010 + i * 0x40
def HQ_FNf_DMEM_SIZE (i : Nat) : Nat := 0x00A01014 + i * 0x40
def HQ_FNf_STATE (i : Nat) : Nat := 0x00A01018 + i * 0x40
def HQ_FNf_CMDS (i : Nat) : Nat := 0x00A0101C + i * 0x40
def HQ_FNf_REJ (i : Nat) : Nat := 0x00A01020 + i * 0x40
def HQ_FNf_OUT_DROP (i : Nat) : Nat := 0x00A01024 + i * 0x40
/-! Registers of the BAR2 unit (R390, Table 17-9). -/
def HQ_SQq_TAIL (f : Nat) (i : Nat) : Nat := bar2Base f + 0x0 + i * 0x8
def HQ_CQq_HEAD (f : Nat) (i : Nat) : Nat := bar2Base f + 0x4 + i * 0x8
def HQ_SQq_BASE_LO (f : Nat) (i : Nat) : Nat := bar2Base f + 0x1000 + i * 0x40
def HQ_SQq_BASE_HI (f : Nat) (i : Nat) : Nat := bar2Base f + 0x1004 + i * 0x40
def HQ_SQq_CFG (f : Nat) (i : Nat) : Nat := bar2Base f + 0x1008 + i * 0x40
def HQ_SQq_PASID (f : Nat) (i : Nat) : Nat := bar2Base f + 0x100C + i * 0x40
def HQ_SQq_STATUS (f : Nat) (i : Nat) : Nat := bar2Base f + 0x1010 + i * 0x40
def HQ_CQq_BASE_LO (f : Nat) (i : Nat) : Nat := bar2Base f + 0x1020 + i * 0x40
def HQ_CQq_BASE_HI (f : Nat) (i : Nat) : Nat := bar2Base f + 0x1024 + i * 0x40
def HQ_CQq_CFG (f : Nat) (i : Nat) : Nat := bar2Base f + 0x1028 + i * 0x40
def HQ_CQq_MOD (f : Nat) (i : Nat) : Nat := bar2Base f + 0x102C + i * 0x40
def HQ_CQq_STATUS (f : Nat) (i : Nat) : Nat := bar2Base f + 0x1030 + i * 0x40
def HQ_CQq_EVT_DROP (f : Nat) (i : Nat) : Nat := bar2Base f + 0x1034 + i * 0x40
def HQ_FN_INFO (f : Nat) : Nat := bar2Base f + 0x4000
def HQ_FN_INT (f : Nat) : Nat := bar2Base f + 0x4004
/-! Registers of the DMEM unit (R178, Table 08-8). -/
def DMEM_STATUS (d : Nat) : Nat := dieBase d + 0x0 + 0x0
def DMEM_CH_OK (d : Nat) : Nat := dieBase d + 0x0 + 0x4
def DMEM_TEMP (d : Nat) : Nat := dieBase d + 0x0 + 0x8
def DMEM_INT_STATUS (d : Nat) : Nat := dieBase d + 0x0 + 0xC
def DMEM_INT_EN (d : Nat) : Nat := dieBase d + 0x0 + 0x10
def DMEM_CNT_CLR (d : Nat) : Nat := dieBase d + 0x0 + 0x14
def DMEM_CE_LO (d : Nat) : Nat := dieBase d + 0x0 + 0x18
def DMEM_CE_HI (d : Nat) : Nat := dieBase d + 0x0 + 0x1C
def DMEM_UE_LO (d : Nat) : Nat := dieBase d + 0x0 + 0x20
def DMEM_UE_HI (d : Nat) : Nat := dieBase d + 0x0 + 0x24
def DMEM_UE_READ_LO (d : Nat) : Nat := dieBase d + 0x0 + 0x28
def DMEM_UE_READ_HI (d : Nat) : Nat := dieBase d + 0x0 + 0x2C
def DMEM_SRAM_UE (d : Nat) : Nat := dieBase d + 0x0 + 0x30
def DMEM_SRAM_CE (d : Nat) : Nat := dieBase d + 0x0 + 0x34
def DMEM_RET_FRAMES (d : Nat) : Nat := dieBase d + 0x0 + 0x38
def DMEM_RET_BANKS (d : Nat) : Nat := dieBase d + 0x0 + 0x3C
def DMEM_BANK_THRESH (d : Nat) : Nat := dieBase d + 0x0 + 0x40
def DMEM_SCRUB (d : Nat) : Nat := dieBase d + 0x0 + 0x44
def DMEM_RETIRE (d : Nat) : Nat := dieBase d + 0x0 + 0x48
def DMEM_LAST_UE_LO (d : Nat) : Nat := dieBase d + 0x0 + 0x50
def DMEM_LAST_UE_HI (d : Nat) : Nat := dieBase d + 0x0 + 0x54
def DMEM_HOST_BASE_LO (d : Nat) : Nat := dieBase d + 0x0 + 0x58
def DMEM_HOST_BASE_HI (d : Nat) : Nat := dieBase d + 0x0 + 0x5C
def DMEM_HOST_SIZE_LO (d : Nat) : Nat := dieBase d + 0x0 + 0x60
def DMEM_HOST_SIZE_HI (d : Nat) : Nat := dieBase d + 0x0 + 0x64
def DMEM_BANKRETi (d : Nat) (i : Nat) : Nat := dieBase d + 0x0 + 0x4000 + i * 0x4
/-! Registers of the QEV unit (R118, Table 05-6). -/
def QEV_BASE_LO (d : Nat) : Nat := dieBase d + 0x8000 + 0x0
def QEV_BASE_HI (d : Nat) : Nat := dieBase d + 0x8000 + 0x4
def QEV_SIZE (d : Nat) : Nat := dieBase d + 0x8000 + 0x8
def QEV_HEAD (d : Nat) : Nat := dieBase d + 0x8000 + 0xC
def QEV_TAIL (d : Nat) : Nat := dieBase d + 0x8000 + 0x10
def QEV_DROP (d : Nat) : Nat := dieBase d + 0x8000 + 0x14
def QEV_MOD (d : Nat) : Nat := dieBase d + 0x8000 + 0x18
def QEV_INT_STATUS (d : Nat) : Nat := dieBase d + 0x8000 + 0x1C
def QEV_INT_EN (d : Nat) : Nat := dieBase d + 0x8000 + 0x20
/-! Registers of the KVP unit (R259, Table 11-9). -/
def KVP_TOTALi (d : Nat) (i : Nat) : Nat := dieBase d + 0x9000 + 0x0 + i * 0x10
def KVP_FREEi (d : Nat) (i : Nat) : Nat := dieBase d + 0x9000 + 0x4 + i * 0x10
def KVP_SHAREDi (d : Nat) (i : Nat) : Nat := dieBase d + 0x9000 + 0x8 + i * 0x10
def KVP_LOWi (d : Nat) (i : Nat) : Nat := dieBase d + 0x9000 + 0xC + i * 0x10
/-! Registers of the CIS unit (R179, Table 08-12). -/
def CIS_STATUS (e : Nat) : Nat := cisBase e + 0x0
def CIS_QDEPTH (e : Nat) : Nat := cisBase e + 0x4
def CIS_KNOWN_BAD (e : Nat) : Nat := cisBase e + 0x8
def CIS_BUSY_LO (e : Nat) : Nat := cisBase e + 0x10
def CIS_BUSY_HI (e : Nat) : Nat := cisBase e + 0x14
def CIS_ITEMS_LO (e : Nat) : Nat := cisBase e + 0x18
def CIS_ITEMS_HI (e : Nat) : Nat := cisBase e + 0x1C
def CIS_BYTES_LO (e : Nat) : Nat := cisBase e + 0x20
def CIS_BYTES_HI (e : Nat) : Nat := cisBase e + 0x24
def CIS_CE (e : Nat) : Nat := cisBase e + 0x28
def CIS_UE (e : Nat) : Nat := cisBase e + 0x2C
def CIS_REJECT (e : Nat) : Nat := cisBase e + 0x30
def CIS_INT_STATUS (e : Nat) : Nat := cisBase e + 0x40
def CIS_INT_EN (e : Nat) : Nat := cisBase e + 0x44
def CIS_CNT_CLR (e : Nat) : Nat := cisBase e + 0x48
/-! Registers of the ME unit (R98, Table 04-8). -/
def ME_STATUS (cl m : Nat) : Nat := clBase cl + m * 0x1000 + 0x0
def ME_MODE (cl m : Nat) : Nat := clBase cl + m * 0x1000 + 0x4
def ME_GRAPH (cl m : Nat) : Nat := clBase cl + m * 0x1000 + 0x8
def ME_BUSY_LO (cl m : Nat) : Nat := clBase cl + m * 0x1000 + 0x10
def ME_BUSY_HI (cl m : Nat) : Nat := clBase cl + m * 0x1000 + 0x14
def ME_MAC_LO (cl m : Nat) : Nat := clBase cl + m * 0x1000 + 0x18
def ME_MAC_HI (cl m : Nat) : Nat := clBase cl + m * 0x1000 + 0x1C
def ME_SR_LO (cl m : Nat) : Nat := clBase cl + m * 0x1000 + 0x20
def ME_SR_HI (cl m : Nat) : Nat := clBase cl + m * 0x1000 + 0x24
def ME_NAN (cl m : Nat) : Nat := clBase cl + m * 0x1000 + 0x28
def ME_SAT (cl m : Nat) : Nat := clBase cl + m * 0x1000 + 0x2C
def ME_INFGEN (cl m : Nat) : Nat := clBase cl + m * 0x1000 + 0x30
def ME_PREEMPT (cl m : Nat) : Nat := clBase cl + m * 0x1000 + 0x34
def ME_INT_STATUS (cl m : Nat) : Nat := clBase cl + m * 0x1000 + 0x40
def ME_INT_EN (cl m : Nat) : Nat := clBase cl + m * 0x1000 + 0x44
def ME_CNT_CLR (cl m : Nat) : Nat := clBase cl + m * 0x1000 + 0x48
/-! Registers of the VEC unit (R100, Table 04-11). -/
def VEC_STATUS (cl : Nat) : Nat := clBase cl + 0x2000 + 0x0
def VEC_MODE (cl : Nat) : Nat := clBase cl + 0x2000 + 0x4
def VEC_GRAPH (cl : Nat) : Nat := clBase cl + 0x2000 + 0x8
def VEC_BUSY_LO (cl : Nat) : Nat := clBase cl + 0x2000 + 0x10
def VEC_BUSY_HI (cl : Nat) : Nat := clBase cl + 0x2000 + 0x14
def VEC_ELEM_LO (cl : Nat) : Nat := clBase cl + 0x2000 + 0x18
def VEC_ELEM_HI (cl : Nat) : Nat := clBase cl + 0x2000 + 0x1C
def VEC_SR_LO (cl : Nat) : Nat := clBase cl + 0x2000 + 0x20
def VEC_SR_HI (cl : Nat) : Nat := clBase cl + 0x2000 + 0x24
def VEC_NAN (cl : Nat) : Nat := clBase cl + 0x2000 + 0x28
def VEC_SAT (cl : Nat) : Nat := clBase cl + 0x2000 + 0x2C
def VEC_INFGEN (cl : Nat) : Nat := clBase cl + 0x2000 + 0x30
def VEC_PREEMPT (cl : Nat) : Nat := clBase cl + 0x2000 + 0x34
def VEC_INT_STATUS (cl : Nat) : Nat := clBase cl + 0x2000 + 0x40
def VEC_INT_EN (cl : Nat) : Nat := clBase cl + 0x2000 + 0x44
def VEC_CNT_CLR (cl : Nat) : Nat := clBase cl + 0x2000 + 0x48
def VEC_LANES (cl : Nat) : Nat := clBase cl + 0x2000 + 0x50
/-! Registers of the NMD unit (R153, Table 07-5). -/
def NMD_STATUS (n : Nat) : Nat := nmdBase n + 0x0
def NMD_KERNEL (n : Nat) : Nat := nmdBase n + 0x4
def NMD_PC_LO (n : Nat) : Nat := nmdBase n + 0x8
def NMD_PC_HI (n : Nat) : Nat := nmdBase n + 0xC
def NMD_BUSY_LO (n : Nat) : Nat := nmdBase n + 0x10
def NMD_BUSY_HI (n : Nat) : Nat := nmdBase n + 0x14
def NMD_INSTRET_LO (n : Nat) : Nat := nmdBase n + 0x18
def NMD_INSTRET_HI (n : Nat) : Nat := nmdBase n + 0x1C
def NMD_WAITCYC (n : Nat) : Nat := nmdBase n + 0x20
def NMD_PREEMPT (n : Nat) : Nat := nmdBase n + 0x24
def NMD_FAULTS (n : Nat) : Nat := nmdBase n + 0x28
def NMD_MARK (n : Nat) : Nat := nmdBase n + 0x2C
def NMD_MARK_TB_LO (n : Nat) : Nat := nmdBase n + 0x30
def NMD_MARK_TB_HI (n : Nat) : Nat := nmdBase n + 0x34
def NMD_FCAUSE (n : Nat) : Nat := nmdBase n + 0x38
def NMD_FADDR_LO (n : Nat) : Nat := nmdBase n + 0x40
def NMD_FADDR_HI (n : Nat) : Nat := nmdBase n + 0x44
def NMD_WDOG (n : Nat) : Nat := nmdBase n + 0x48
def NMD_INT_STATUS (n : Nat) : Nat := nmdBase n + 0x50
def NMD_INT_EN (n : Nat) : Nat := nmdBase n + 0x54
def NMD_CNT_CLR (n : Nat) : Nat := nmdBase n + 0x58
/-! Registers of the CAR unit (R203, Table 09-8). -/
def CAR_STATUS (e : Nat) : Nat := carBase e + 0x0
def CAR_CTX (e : Nat) : Nat := carBase e + 0x4
def CAR_SPLIT (e : Nat) : Nat := carBase e + 0x8
def CAR_TAG_CFG (e : Nat) : Nat := carBase e + 0xC
def CAR_PRI_TIMEOUT (e : Nat) : Nat := carBase e + 0x10
def CAR_TAGS (e : Nat) : Nat := carBase e + 0x14
def CAR_RD_LO (e : Nat) : Nat := carBase e + 0x18
def CAR_RD_HI (e : Nat) : Nat := carBase e + 0x1C
def CAR_WR_LO (e : Nat) : Nat := carBase e + 0x20
def CAR_WR_HI (e : Nat) : Nat := carBase e + 0x24
def CAR_RMT_LO (e : Nat) : Nat := carBase e + 0x28
def CAR_RMT_HI (e : Nat) : Nat := carBase e + 0x2C
def CAR_XFERS (e : Nat) : Nat := carBase e + 0x30
def CAR_PRI_REQ (e : Nat) : Nat := carBase e + 0x34
def CAR_SWAP_WAIT (e : Nat) : Nat := carBase e + 0x38
def CAR_TAG_STALL (e : Nat) : Nat := carBase e + 0x3C
def CAR_BORROW (e : Nat) : Nat := carBase e + 0x40
def CAR_SHORT (e : Nat) : Nat := carBase e + 0x44
def CAR_REJECT (e : Nat) : Nat := carBase e + 0x48
def CAR_FAULTED (e : Nat) : Nat := carBase e + 0x4C
def CAR_INT_STATUS (e : Nat) : Nat := carBase e + 0x50
def CAR_INT_EN (e : Nat) : Nat := carBase e + 0x54
def CAR_CNT_CLR (e : Nat) : Nat := carBase e + 0x58
/-! Registers of the CRN unit (R204, Table 09-12). -/
def CRN_STATUS (e : Nat) : Nat := carBase e + 0x1000 + 0x0
def CRN_CTRL (e : Nat) : Nat := carBase e + 0x1000 + 0x4
def CRN_INT_STATUS (e : Nat) : Nat := carBase e + 0x1000 + 0x8
def CRN_INT_EN (e : Nat) : Nat := carBase e + 0x1000 + 0xC
def CRN_CFGs (e : Nat) (i : Nat) : Nat := carBase e + 0x1000 + 0x40 + i * 0x40
def CRN_POLYs_LO (e : Nat) (i : Nat) : Nat := carBase e + 0x1000 + 0x48 + i * 0x40
def CRN_POLYs_HI (e : Nat) (i : Nat) : Nat := carBase e + 0x1000 + 0x4C + i * 0x40
def CRN_INITs_LO (e : Nat) (i : Nat) : Nat := carBase e + 0x1000 + 0x50 + i * 0x40
def CRN_INITs_HI (e : Nat) (i : Nat) : Nat := carBase e + 0x1000 + 0x54 + i * 0x40
def CRN_XORs_LO (e : Nat) (i : Nat) : Nat := carBase e + 0x1000 + 0x58 + i * 0x40
def CRN_XORs_HI (e : Nat) (i : Nat) : Nat := carBase e + 0x1000 + 0x5C + i * 0x40
def CRN_VALUEs_LO (e : Nat) (i : Nat) : Nat := carBase e + 0x1000 + 0x60 + i * 0x40
def CRN_VALUEs_HI (e : Nat) (i : Nat) : Nat := carBase e + 0x1000 + 0x64 + i * 0x40
def CRN_RESULTs_LO (e : Nat) (i : Nat) : Nat := carBase e + 0x1000 + 0x68 + i * 0x40
def CRN_RESULTs_HI (e : Nat) (i : Nat) : Nat := carBase e + 0x1000 + 0x6C + i * 0x40
def CRN_BYTESs_LO (e : Nat) (i : Nat) : Nat := carBase e + 0x1000 + 0x70 + i * 0x40
def CRN_BYTESs_HI (e : Nat) (i : Nat) : Nat := carBase e + 0x1000 + 0x74 + i * 0x40
/-! Registers of the DRF unit (R136, Table 06-7). -/
def DRF_STATUS (cl : Nat) : Nat := clBase cl + 0x6000 + 0x0
def DRF_EVAL_LO (cl : Nat) : Nat := clBase cl + 0x6000 + 0x10
def DRF_EVAL_HI (cl : Nat) : Nat := clBase cl + 0x6000 + 0x14
def DRF_DROP_LO (cl : Nat) : Nat := clBase cl + 0x6000 + 0x18
def DRF_DROP_HI (cl : Nat) : Nat := clBase cl + 0x6000 + 0x1C
def DRF_STALL (cl : Nat) : Nat := clBase cl + 0x6000 + 0x20
def DRF_CNT_CLR (cl : Nat) : Nat := clBase cl + 0x6000 + 0x30
def DRF_TKEYi (cl : Nat) (i : Nat) : Nat := clBase cl + 0x6000 + 0x40 + i * 0x4
def DRF_TCTRi (cl : Nat) (i : Nat) : Nat := clBase cl + 0x6000 + 0x50 + i * 0x4
def DRF_TCTRL (cl : Nat) : Nat := clBase cl + 0x6000 + 0x60
def DRF_TOUTi (cl : Nat) (i : Nat) : Nat := clBase cl + 0x6000 + 0x70 + i * 0x4
/-! Registers of the SMP unit (R138, Table 06-9). -/
def SMP_STATUS (cl : Nat) : Nat := clBase cl + 0x7000 + 0x0
def SMP_ROWS_LO (cl : Nat) : Nat := clBase cl + 0x7000 + 0x10
def SMP_ROWS_HI (cl : Nat) : Nat := clBase cl + 0x7000 + 0x14
def SMP_DRAWS_LO (cl : Nat) : Nat := clBase cl + 0x7000 + 0x18
def SMP_DRAWS_HI (cl : Nat) : Nat := clBase cl + 0x7000 + 0x1C
def SMP_GREEDY (cl : Nat) : Nat := clBase cl + 0x7000 + 0x20
def SMP_EMPTY (cl : Nat) : Nat := clBase cl + 0x7000 + 0x24
def SMP_BADPARAM (cl : Nat) : Nat := clBase cl + 0x7000 + 0x28
def SMP_NAN (cl : Nat) : Nat := clBase cl + 0x7000 + 0x2C
def SMP_INT_STATUS (cl : Nat) : Nat := clBase cl + 0x7000 + 0x40
def SMP_INT_EN (cl : Nat) : Nat := clBase cl + 0x7000 + 0x44
def SMP_CNT_CLR (cl : Nat) : Nat := clBase cl + 0x7000 + 0x48
/-! Registers of the QST unit (R117, Table 05-4). -/
def QST_ROWS_LO (cl : Nat) : Nat := clBase cl + 0x8000 + 0x0
def QST_ROWS_HI (cl : Nat) : Nat := clBase cl + 0x8000 + 0x4
def QST_FLAT (cl : Nat) : Nat := clBase cl + 0x8000 + 0x8
def QST_NOFIN (cl : Nat) : Nat := clBase cl + 0x8000 + 0xC
def QST_EVENTS (cl : Nat) : Nat := clBase cl + 0x8000 + 0x10
def QST_CEIL (cl : Nat) : Nat := clBase cl + 0x8000 + 0x14
def QST_WSELn (cl : Nat) (i : Nat) : Nat := clBase cl + 0x8000 + 0x20 + i * 0x10
def QST_WCLIPn (cl : Nat) (i : Nat) : Nat := clBase cl + 0x8000 + 0x24 + i * 0x10
def QST_WTOTn (cl : Nat) (i : Nat) : Nat := clBase cl + 0x8000 + 0x28 + i * 0x10
def QST_WMAXn (cl : Nat) (i : Nat) : Nat := clBase cl + 0x8000 + 0x2C + i * 0x10
def QST_INT_STATUS (cl : Nat) : Nat := clBase cl + 0x8000 + 0xA0
def QST_INT_EN (cl : Nat) : Nat := clBase cl + 0x8000 + 0xA4
def QST_CNT_CLR (cl : Nat) : Nat := clBase cl + 0x8000 + 0xA8
/-! Registers of the SNPC unit (R460, Table 21-6). -/
def SNP_COPY (cl : Nat) (i : Nat) : Nat := clBase cl + 0x9000 + 0x0 + i * 0x4
def SNP_HDR_TB_LO (cl : Nat) : Nat := clBase cl + 0x9000 + 0xF00
def SNP_HDR_TB_HI (cl : Nat) : Nat := clBase cl + 0x9000 + 0xF04
def SNP_HDR_NUM (cl : Nat) : Nat := clBase cl + 0x9000 + 0xF08
def SNP_HDR_VALID (cl : Nat) : Nat := clBase cl + 0x9000 + 0xF0C
/-! Registers of the TBG unit (R52, Table 02-8). -/
def TBG_CAP (cl : Nat) (i : Nat) : Nat := clBase cl + 0xA000 + 0x0 + i * 0x10
def TBG_RES (cl : Nat) (i : Nat) : Nat := clBase cl + 0xA000 + 0x4 + i * 0x10
def TBG_USED (cl : Nat) (i : Nat) : Nat := clBase cl + 0xA000 + 0x8 + i * 0x10
def TBG_PEAK (cl : Nat) (i : Nat) : Nat := clBase cl + 0xA000 + 0xC + i * 0x10
def TBG_SHARE0 (cl : Nat) : Nat := clBase cl + 0xA000 + 0x80
def TBG_SHARE1 (cl : Nat) : Nat := clBase cl + 0xA000 + 0x84

end Reg

def regsOAS0 : List RegRow :=
  [⟨0x0, .ro, 0x0, 0x0, 0x48582448, 0x4, 1, false⟩,
   ⟨0x4, .ro, 0x0, 0x0, 0xA1, 0x4, 1, false⟩,
   ⟨0x10, .wo, 0x0, 0x0, 0x0, 0x4, 1, false⟩,
   ⟨0x14, .ro, 0x0, 0x0, 0x0, 0x4, 1, false⟩,
   ⟨0x18, .wo, 0x0, 0x0, 0x0, 0x4, 1, false⟩,
   ⟨0x20, .rw, 0x1, 0x0, 0x1, 0x4, 1, false⟩,
   ⟨0x24, .ro, 0x0, 0x0, 0x0, 0x4, 1, false⟩,
   ⟨0x28, .rw, 0xFFFF, 0x0, 0x1194, 0x4, 1, false⟩,
   ⟨0x2C, .ro, 0x0, 0x0, 0x0, 0x4, 1, false⟩,
   ⟨0x30, .ro, 0x0, 0x0, 0x0, 0x4, 1, false⟩,
   ⟨0x34, .act, 0x0, 0x0, 0x0, 0x4, 1, false⟩,
   ⟨0x38, .w1c, 0x0, 0x7F, 0x0, 0x4, 1, false⟩,
   ⟨0x3C, .rw, 0x7F, 0x0, 0x0, 0x4, 1, false⟩,
   ⟨0x40, .ro, 0x0, 0x0, 0x5DC, 0x4, 4, false⟩,
   ⟨0x50, .ro, 0x0, 0x0, 0x0, 0x4, 4, false⟩,
   ⟨0x60, .ro, 0x0, 0x0, 0x0, 0x4, 1, false⟩,
   ⟨0x64, .ro, 0x0, 0x0, 0x2EE, 0x4, 1, false⟩,
   ⟨0x68, .ro, 0x0, 0x0, 0x0, 0x4, 1, false⟩,
   ⟨0x6C, .rw, 0xFFFF, 0x0, 0x64, 0x4, 1, false⟩,
   ⟨0x70, .ro, 0x0, 0x0, 0x0, 0x4, 1, false⟩,
   ⟨0x74, .ro, 0x0, 0x0, 0x0, 0x4, 1, false⟩,
   ⟨0x78, .ro, 0x0, 0x0, 0x0, 0x4, 1, false⟩,
   ⟨0xA0000, .rw, 0x1, 0x0, 0x0, 0x4, 1, false⟩,
   ⟨0xA0004, .rw, 0xFFFFF000, 0x0, 0x0, 0x4, 1, true⟩]
def regsOAS1 : List RegRow :=
  [⟨0xA0008, .rw, 0xFFFFFFFF, 0x0, 0x0, 0x4, 1, false⟩,
   ⟨0xA000C, .rw, 0x1F, 0x0, 0x12, 0x4, 1, false⟩,
   ⟨0xA0010, .ro, 0x0, 0x0, 0x0, 0x4, 1, false⟩,
   ⟨0xA0014, .rw, 0xFFFFFFFF, 0x0, 0x0, 0x4, 1, false⟩,
   ⟨0xA0018, .ro, 0x0, 0x0, 0x0, 0x4, 1, false⟩,
   ⟨0xA001C, .w1c, 0x0, 0xF, 0x0, 0x4, 1, false⟩,
   ⟨0xA0020, .rw, 0xF, 0x0, 0x0, 0x4, 1, false⟩]
/-- Table 22-10 (R486). -/
def regsOAS : List RegRow := regsOAS0 ++ regsOAS1

/-- Table 16-5 (R369). -/
def regsPLC : List RegRow :=
  [⟨0x0, .ro, 0x0, 0x0, 0x0, 0x4, 1, false⟩,
   ⟨0x4, .w1c, 0x0, 0x3F, 0x0, 0x4, 1, false⟩,
   ⟨0x8, .rw, 0x3F, 0x0, 0x0, 0x4, 1, false⟩,
   ⟨0xC, .wo, 0x0, 0x0, 0x0, 0x4, 1, false⟩,
   ⟨0x10, .ro, 0x0, 0x0, 0x46010040, 0x4, 1, false⟩,
   ⟨0x14, .ro, 0x0, 0x0, 0x408, 0x4, 1, false⟩,
   ⟨0x18, .ro, 0x0, 0x0, 0x1194, 0x4, 1, false⟩,
   ⟨0x1C, .ro, 0x0, 0x0, 0x0, 0x4, 1, false⟩,
   ⟨0x20, .ro, 0x0, 0x0, 0x0, 0x4, 7, false⟩,
   ⟨0x40, .ro, 0x0, 0x0, 0x0, 0x4, 1, false⟩,
   ⟨0x44, .ro, 0x0, 0x0, 0x0, 0x4, 1, false⟩,
   ⟨0x48, .ro, 0x0, 0x0, 0x0, 0x4, 1, false⟩,
   ⟨0x4C, .ro, 0x0, 0x0, 0x0, 0x4, 1, false⟩,
   ⟨0x50, .ro, 0x0, 0x0, 0x0, 0x4, 1, false⟩,
   ⟨0x54, .ro, 0x0, 0x0, 0x0, 0x4, 1, false⟩,
   ⟨0x58, .ro, 0x0, 0x0, 0x0, 0x4, 1, false⟩,
   ⟨0x5C, .ro, 0x0, 0x0, 0x0, 0x4, 1, false⟩,
   ⟨0x60, .ro, 0x0, 0x0, 0x0, 0x4, 1, false⟩,
   ⟨0x80, .rw, 0x7F, 0x0, 0x0, 0x4, 1, false⟩,
   ⟨0x84, .ro, 0x0, 0x0, 0x7, 0x4, 1, false⟩]

def regsKVC0 : List RegRow :=
  [⟨0x0, .ro, 0x0, 0x0, 0x0, 0x4, 1, false⟩,
   ⟨0x4, .w1c, 0x0, 0x3F, 0x0, 0x4, 1, false⟩,
   ⟨0x8, .rw, 0x3F, 0x0, 0x0, 0x4, 1, false⟩,
   ⟨0xC, .wo, 0x0, 0x0, 0x0, 0x4, 1, false⟩,
   ⟨0x10, .rw, 0xFFFFF000, 0x0, 0x0, 0x4, 1, true⟩,
   ⟨0x14, .rw, 0xFFFFFFFF, 0x0, 0x0, 0x4, 1, false⟩,
   ⟨0x18, .rw, 0x1F, 0x0, 0x0, 0x4, 1, false⟩,
   ⟨0x20, .rw, 0xFFFFFC00, 0x0, 0x0, 0x4, 1, true⟩,
   ⟨0x24, .rw, 0xFFFFFFFF, 0x0, 0x0, 0x4, 1, false⟩,
   ⟨0x28, .rw, 0x7FFFFF, 0x0, 0x0, 0x4, 1, false⟩,
   ⟨0x2C, .ro, 0x0, 0x0, 0x0, 0x4, 1, false⟩,
   ⟨0x30, .rw, 0xFFFF, 0x0, 0x3E8, 0x4, 1, false⟩,
   ⟨0x40, .ro, 0x0, 0x0, 0x0, 0x4, 1, true⟩,
   ⟨0x44, .ro, 0x0, 0x0, 0x0, 0x4, 1, false⟩,
   ⟨0x48, .ro, 0x0, 0x0, 0x0, 0x4, 1, true⟩,
   ⟨0x4C, .ro, 0x0, 0x0, 0x0, 0x4, 1, false⟩,
   ⟨0x50, .ro, 0x0, 0x0, 0x0, 0x4, 1, false⟩,
   ⟨0x54, .ro, 0x0, 0x0, 0x0, 0x4, 1, false⟩,
   ⟨0x58, .ro, 0x0, 0x0, 0x0, 0x4, 1, false⟩,
   ⟨0x5C, .ro, 0x0, 0x0, 0x0, 0x4, 1, false⟩,
   ⟨0x60, .ro, 0x0, 0x0, 0x0, 0x4, 1, false⟩,
   ⟨0x64, .ro, 0x0, 0x0, 0x0, 0x4, 1, false⟩,
   ⟨0x68, .ro, 0x0, 0x0, 0x0, 0x4, 1, false⟩,
   ⟨0x6C, .ro, 0x0, 0x0, 0x0, 0x4, 1, false⟩]
def regsKVC1 : List RegRow :=
  [⟨0x80, .rw, 0xFFFFFFFF, 0x0, 0x0, 0x4, 1, false⟩,
   ⟨0x84, .ro, 0x0, 0x0, 0x0, 0x4, 1, false⟩,
   ⟨0x88, .ro, 0x0, 0x0, 0x0, 0x4, 1, false⟩,
   ⟨0x8C, .ro, 0x0, 0x0, 0x0, 0x4, 1, false⟩,
   ⟨0x90, .ro, 0x0, 0x0, 0x0, 0x4, 1, true⟩,
   ⟨0x94, .ro, 0x0, 0x0, 0x0, 0x4, 1, false⟩,
   ⟨0x100, .rw, 0xFFFFC000, 0x0, 0x0, 0x10, 64, true⟩,
   ⟨0x104, .rw, 0xFFFFFFFF, 0x0, 0x0, 0x10, 64, false⟩,
   ⟨0x108, .rw, 0x1FFFFFFF, 0x0, 0x0, 0x10, 64, false⟩,
   ⟨0x10C, .ro, 0x0, 0x0, 0x0, 0x10, 64, false⟩]
/-- Table 11-6 (R258). -/
def regsKVC : List RegRow := regsKVC0 ++ regsKVC1

def regsSTRM0 : List RegRow :=
  [⟨0x0, .w1c, 0x0, 0x1F, 0x0, 0x4, 1, false⟩,
   ⟨0x4, .rw, 0x1F, 0x0, 0x0, 0x4, 1, false⟩,
   ⟨0x8, .wo, 0x0, 0x0, 0x0, 0x4, 1, false⟩,
   ⟨0x10, .ro, 0x0, 0x0, 0x0, 0x4, 1, false⟩,
   ⟨0x14, .ro, 0x0, 0x0, 0x0, 0x4, 1, false⟩,
   ⟨0x20, .ro, 0x0, 0x0, 0x0, 0x4, 1, false⟩,
   ⟨0x24, .ro, 0x0, 0x0, 0x0, 0x4, 1, false⟩,
   ⟨0x28, .ro, 0x0, 0x0, 0x0, 0x4, 1, false⟩,
   ⟨0x2C, .ro, 0x0, 0x0, 0x0, 0x4, 1, false⟩,
   ⟨0x30, .ro, 0x0, 0x0, 0x0, 0x4, 1, false⟩,
   ⟨0x34, .ro, 0x0, 0x0, 0x0, 0x4, 1, false⟩,
   ⟨0x38, .ro, 0x0, 0x0, 0x0, 0x4, 1, false⟩,
   ⟨0x3C, .ro, 0x0, 0x0, 0x0, 0x4, 1, false⟩,
   ⟨0x40, .ro, 0x0, 0x0, 0x0, 0x4, 1, false⟩,
   ⟨0x44, .ro, 0x0, 0x0, 0x0, 0x4, 1, false⟩,
   ⟨0x48, .ro, 0x0, 0x0, 0x0, 0x4, 1, false⟩,
   ⟨0x80, .rw, 0xFFFFFFFF, 0x0, 0x0, 0x4, 1, false⟩,
   ⟨0x84, .ro, 0x0, 0x0, 0x0, 0x4, 1, false⟩,
   ⟨0x88, .ro, 0x0, 0x0, 0x0, 0x4, 1, true⟩,
   ⟨0x8C, .ro, 0x0, 0x0, 0x0, 0x4, 1, false⟩,
   ⟨0x90, .ro, 0x0, 0x0, 0x0, 0x4, 1, true⟩,
   ⟨0x94, .ro, 0x0, 0x0, 0x0, 0x4, 1, false⟩,
   ⟨0x98, .ro, 0x0, 0x0, 0x0, 0x4, 1, false⟩,
   ⟨0x9C, .ro, 0x0, 0x0, 0x0, 0x4, 1, false⟩]
def regsSTRM1 : List RegRow :=
  [⟨0xA0, .ro, 0x0, 0x0, 0x0, 0x4, 1, false⟩]
/-- Table 12-11 (R285). -/
def regsSTRM : List RegRow := regsSTRM0 ++ regsSTRM1

def regsTCK0 : List RegRow :=
  [⟨0x0, .rw, 0x103, 0x0, 0x0, 0x4, 1, false⟩,
   ⟨0x4, .ro, 0x0, 0x0, 0x0, 0x4, 1, false⟩,
   ⟨0x8, .w1c, 0x0, 0x3F, 0x0, 0x4, 1, false⟩,
   ⟨0xC, .rw, 0x3F, 0x0, 0x0, 0x4, 1, false⟩,
   ⟨0x10, .ro, 0x0, 0x0, 0x0, 0x4, 1, true⟩,
   ⟨0x14, .ro, 0x0, 0x0, 0x0, 0x4, 1, false⟩,
   ⟨0x18, .rw, 0xFFFFFFFF, 0x0, 0x0, 0x4, 1, true⟩,
   ⟨0x1C, .rw, 0xFFFFFFFF, 0x0, 0x0, 0x4, 1, false⟩,
   ⟨0x20, .act, 0x0, 0x0, 0x0, 0x4, 1, true⟩,
   ⟨0x24, .act, 0x0, 0x0, 0x0, 0x4, 1, false⟩,
   ⟨0x28, .ro, 0x0, 0x0, 0x0, 0x4, 1, false⟩,
   ⟨0x2C, .rw, 0xFF, 0x0, 0x32, 0x4, 1, false⟩,
   ⟨0x30, .ro, 0x0, 0x0, 0x0, 0x4, 1, true⟩,
   ⟨0x34, .ro, 0x0, 0x0, 0x0, 0x4, 1, false⟩,
   ⟨0x40, .ro, 0x0, 0x0, 0x100, 0x40, 4, false⟩,
   ⟨0x48, .ro, 0x0, 0x0, 0x0, 0x40, 4, true⟩,
   ⟨0x4C, .ro, 0x0, 0x0, 0x0, 0x40, 4, false⟩,
   ⟨0x50, .ro, 0x0, 0x0, 0x0, 0x40, 4, true⟩,
   ⟨0x54, .ro, 0x0, 0x0, 0x0, 0x40, 4, false⟩,
   ⟨0x58, .ro, 0x0, 0x0, 0x0, 0x40, 4, true⟩,
   ⟨0x5C, .ro, 0x0, 0x0, 0x0, 0x40, 4, false⟩,
   ⟨0x60, .ro, 0x0, 0x0, 0x0, 0x40, 4, false⟩,
   ⟨0x64, .ro, 0x0, 0x0, 0x0, 0x40, 4, true⟩,
   ⟨0x68, .ro, 0x0, 0x0, 0x0, 0x40, 4, false⟩]
def regsTCK1 : List RegRow :=
  [⟨0x200, .rw, 0xFFFFF000, 0x0, 0x0, 0x4, 1, true⟩,
   ⟨0x204, .rw, 0xFFFFFFFF, 0x0, 0x0, 0x4, 1, false⟩,
   ⟨0x208, .rw, 0x1F, 0x0, 0xA, 0x4, 1, false⟩,
   ⟨0x20C, .ro, 0x0, 0x0, 0x0, 0x4, 1, false⟩,
   ⟨0x210, .act, 0x0, 0x0, 0x0, 0x4, 1, false⟩,
   ⟨0x214, .ro, 0x0, 0x0, 0x0, 0x4, 1, false⟩,
   ⟨0x218, .rw, 0xFFFF, 0x0, 0x3E8, 0x4, 1, false⟩]
/-- Table 02-3 (R51). -/
def regsTCK : List RegRow := regsTCK0 ++ regsTCK1

/-- Table 03-7 (R72). -/
def regsSPL : List RegRow :=
  [⟨0x0, .rw, 0x6, 0x0, 0x0, 0x4, 1, false⟩,
   ⟨0x4, .ro, 0x0, 0x0, 0x0, 0x4, 1, false⟩,
   ⟨0x8, .w1c, 0x0, 0xF, 0x0, 0x4, 1, false⟩,
   ⟨0xC, .rw, 0xF, 0x0, 0x0, 0x4, 1, false⟩,
   ⟨0x10, .rw, 0xFFFFFFC0, 0x0, 0x0, 0x4, 1, true⟩,
   ⟨0x14, .rw, 0xFFFFFFFF, 0x0, 0x0, 0x4, 1, false⟩,
   ⟨0x18, .rw, 0x1FFFFFFF, 0x0, 0x0, 0x4, 1, false⟩,
   ⟨0x1C, .rw, 0xFFFF, 0x0, 0x1F4, 0x4, 1, false⟩,
   ⟨0x20, .rw, 0x3, 0x0, 0x0, 0x4, 1, false⟩,
   ⟨0x24, .ro, 0x0, 0x0, 0x0, 0x4, 1, false⟩,
   ⟨0x28, .ro, 0x0, 0x0, 0x0, 0x4, 1, true⟩,
   ⟨0x2C, .ro, 0x0, 0x0, 0x0, 0x4, 1, false⟩,
   ⟨0x30, .ro, 0x0, 0x0, 0x0, 0x4, 1, false⟩,
   ⟨0x34, .ro, 0x0, 0x0, 0x0, 0x4, 1, false⟩,
   ⟨0x40, .ro, 0x0, 0x0, 0x0, 0x4, 16, false⟩]

def regsSEC0 : List RegRow :=
  [⟨0x0, .wo, 0x0, 0x0, 0x0, 0x4, 1, false⟩,
   ⟨0x4, .ro, 0x0, 0x0, 0x0, 0x4, 1, false⟩,
   ⟨0x8, .w1c, 0x0, 0xF, 0x0, 0x4, 1, false⟩,
   ⟨0xC, .rw, 0xF, 0x0, 0x0, 0x4, 1, false⟩,
   ⟨0x10, .rw, 0xFFFFFFC0, 0x0, 0x0, 0x4, 1, true⟩,
   ⟨0x14, .rw, 0xFFFFFFFF, 0x0, 0x0, 0x4, 1, false⟩,
   ⟨0x18, .rw, 0x3, 0x0, 0x1, 0x4, 1, false⟩,
   ⟨0x1C, .wo, 0x0, 0x0, 0x0, 0x4, 1, false⟩,
   ⟨0x20, .ro, 0x0, 0x0, 0x0, 0x4, 1, false⟩,
   ⟨0x24, .ro, 0x0, 0x0, 0x0, 0x4, 1, false⟩,
   ⟨0x28, .ro, 0x0, 0x0, 0x0, 0x4, 1, false⟩,
   ⟨0x2C, .ro, 0x0, 0x0, 0x0, 0x4, 1, false⟩,
   ⟨0x40, .ro, 0x0, 0x0, 0x0, 0x4, 8, false⟩,
   ⟨0x80, .rw, 0xFFFFFFFF, 0x0, 0x0, 0x4, 16, false⟩,
   ⟨0x100, .ro, 0x0, 0x0, 0x0, 0x40, 8, false⟩,
   ⟨0x120, .ro, 0x0, 0x0, 0x0, 0x40, 8, false⟩,
   ⟨0x124, .ro, 0x0, 0x0, 0x0, 0x40, 8, false⟩,
   ⟨0x128, .ro, 0x0, 0x0, 0x0, 0x40, 8, false⟩,
   ⟨0x12C, .ro, 0x0, 0x0, 0x0, 0x40, 8, false⟩,
   ⟨0x130, .ro, 0x0, 0x0, 0x0, 0x40, 8, false⟩,
   ⟨0x134, .ro, 0x0, 0x0, 0x0, 0x40, 8, false⟩,
   ⟨0x138, .ro, 0x0, 0x0, 0x0, 0x40, 8, false⟩,
   ⟨0x13C, .ro, 0x0, 0x0, 0x0, 0x40, 8, false⟩,
   ⟨0x300, .ro, 0x0, 0x0, 0x0, 0x4, 48, false⟩]
def regsSEC1 : List RegRow :=
  [⟨0x400, .ro, 0x0, 0x0, 0x0, 0x4, 112, false⟩,
   ⟨0x600, .ro, 0x0, 0x0, 0x0, 0x4, 16, false⟩,
   ⟨0x700, .ro, 0x0, 0x0, 0x0, 0x4, 32, false⟩]
/-- Table 19-8 (R427). -/
def regsSEC : List RegRow := regsSEC0 ++ regsSEC1

/-- Table 20-7 (R445). -/
def regsSGL : List RegRow :=
  [⟨0x0, .ro, 0x0, 0x0, 0x0, 0x4, 1, false⟩,
   ⟨0x4, .ro, 0x0, 0x0, 0x0, 0x4, 1, false⟩,
   ⟨0x8, .ro, 0x0, 0x0, 0x0, 0x4, 1, false⟩,
   ⟨0xC, .ro, 0x0, 0x0, 0x0, 0x4, 1, false⟩,
   ⟨0x10, .ro, 0x0, 0x0, 0x0, 0x4, 1, true⟩,
   ⟨0x14, .ro, 0x0, 0x0, 0x0, 0x4, 1, false⟩,
   ⟨0x18, .ro, 0x0, 0x0, 0x0, 0x4, 1, true⟩,
   ⟨0x1C, .ro, 0x0, 0x0, 0x0, 0x4, 1, false⟩,
   ⟨0x20, .ro, 0x0, 0x0, 0x0, 0x4, 1, false⟩,
   ⟨0x24, .ro, 0x0, 0x0, 0x0, 0x4, 1, false⟩,
   ⟨0x40, .ro, 0x0, 0x0, 0x0, 0x4, 8, false⟩,
   ⟨0x100, .ro, 0x0, 0x0, 0x0, 0x4, 48, false⟩,
   ⟨0x1000, .ro, 0x0, 0x0, 0x0, 0x8, 512, true⟩,
   ⟨0x1004, .ro, 0x0, 0x0, 0x0, 0x8, 512, false⟩,
   ⟨0x40000, .ro, 0x0, 0x0, 0x0, 0x4, 65536, false⟩]

def regsERR0 : List RegRow :=
  [⟨0x0, .rw, 0x3, 0x0, 0x0, 0x4, 1, false⟩,
   ⟨0x4, .ro, 0x0, 0x0, 0x0, 0x4, 1, false⟩,
   ⟨0x8, .w1c, 0x0, 0x7, 0x0, 0x4, 1, false⟩,
   ⟨0xC, .rw, 0x7, 0x0, 0x0, 0x4, 1, false⟩,
   ⟨0x10, .rw, 0xFFFF, 0x0, 0xFE, 0x4, 1, false⟩,
   ⟨0x14, .rw, 0xFFFF, 0x0, 0x64, 0x4, 1, false⟩,
   ⟨0x18, .rw, 0xFFFF8000, 0x0, 0x0, 0x4, 1, true⟩,
   ⟨0x1C, .rw, 0xFFFFFFFF, 0x0, 0x0, 0x4, 1, false⟩,
   ⟨0x20, .rw, 0xFFFF8000, 0x0, 0x0, 0x4, 1, true⟩,
   ⟨0x24, .rw, 0xFFFFFFFF, 0x0, 0x0, 0x4, 1, false⟩,
   ⟨0x28, .ro, 0x0, 0x0, 0x0, 0x4, 1, false⟩,
   ⟨0x2C, .act, 0x0, 0x0, 0x0, 0x4, 1, false⟩,
   ⟨0x30, .ro, 0x0, 0x0, 0x0, 0x4, 1, true⟩,
   ⟨0x34, .ro, 0x0, 0x0, 0x0, 0x4, 1, false⟩,
   ⟨0x100, .ro, 0x0, 0x0, 0x0, 0x8, 16, true⟩,
   ⟨0x104, .ro, 0x0, 0x0, 0x0, 0x8, 16, false⟩,
   ⟨0x180, .ro, 0x0, 0x0, 0x0, 0x8, 16, true⟩,
   ⟨0x184, .ro, 0x0, 0x0, 0x0, 0x8, 16, false⟩,
   ⟨0x1000, .wo, 0x0, 0x0, 0x0, 0x4, 1, false⟩,
   ⟨0x1004, .rw, 0xFF7CFFFF, 0x0, 0x1000000, 0x4, 1, false⟩,
   ⟨0x1008, .ro, 0x0, 0x0, 0x0, 0x4, 1, false⟩,
   ⟨0x100C, .w1c, 0x0, 0x7, 0x0, 0x4, 1, false⟩,
   ⟨0x1010, .rw, 0x7, 0x0, 0x0, 0x4, 1, false⟩,
   ⟨0x1014, .rw, 0xFFFFFFFF, 0x0, 0x7D0, 0x4, 1, false⟩]
def regsERR1 : List RegRow :=
  [⟨0x1018, .rw, 0xFFFFFFFF, 0x0, 0x0, 0x4, 1, true⟩,
   ⟨0x101C, .rw, 0xFFFFFFFF, 0x0, 0x0, 0x4, 1, false⟩,
   ⟨0x1020, .ro, 0x0, 0x0, 0x0, 0x4, 1, true⟩,
   ⟨0x1024, .ro, 0x0, 0x0, 0x0, 0x4, 1, false⟩,
   ⟨0x1028, .ro, 0x0, 0x0, 0x0, 0x4, 1, false⟩,
   ⟨0x102C, .ro, 0x0, 0x0, 0x0, 0x4, 1, false⟩,
   ⟨0x1030, .ro, 0x0, 0x0, 0x0, 0x4, 1, false⟩,
   ⟨0x1034, .ro, 0x0, 0x0, 0x0, 0x4, 1, false⟩,
   ⟨0x1038, .ro, 0x0, 0x0, 0x0, 0x4, 1, false⟩]
/-- Table 21-10 (R467). -/
def regsERR : List RegRow := regsERR0 ++ regsERR1

def regsRPL0 : List RegRow :=
  [⟨0x0, .ro, 0x0, 0x0, 0x0, 0x4, 1, false⟩,
   ⟨0x4, .w1c, 0x0, 0x1F, 0x0, 0x4, 1, false⟩,
   ⟨0x8, .rw, 0x1F, 0x0, 0x0, 0x4, 1, false⟩,
   ⟨0xC, .wo, 0x0, 0x0, 0x0, 0x4, 1, false⟩,
   ⟨0x10, .rw, 0xFFFFF000, 0x0, 0x0, 0x4, 1, true⟩,
   ⟨0x14, .rw, 0xFFFFFFFF, 0x0, 0x0, 0x4, 1, false⟩,
   ⟨0x18, .rw, 0x1F, 0x0, 0xA, 0x4, 1, false⟩,
   ⟨0x1C, .ro, 0x0, 0x0, 0x0, 0x4, 1, false⟩,
   ⟨0x20, .act, 0x0, 0x0, 0x0, 0x4, 1, false⟩,
   ⟨0x24, .ro, 0x0, 0x0, 0x0, 0x4, 1, false⟩,
   ⟨0x28, .rw, 0xFFFF, 0x0, 0x3E8, 0x4, 1, false⟩,
   ⟨0x30, .rw, 0xFFFFF000, 0x0, 0x0, 0x4, 1, true⟩,
   ⟨0x34, .rw, 0xFFFFFFFF, 0x0, 0x0, 0x4, 1, false⟩,
   ⟨0x38, .rw, 0xFFFFFFE0, 0x0, 0x0, 0x4, 1, true⟩,
   ⟨0x3C, .rw, 0xFFFFFFFF, 0x0, 0x0, 0x4, 1, false⟩,
   ⟨0x40, .ro, 0x0, 0x0, 0x0, 0x4, 1, true⟩,
   ⟨0x44, .ro, 0x0, 0x0, 0x0, 0x4, 1, false⟩,
   ⟨0x48, .ro, 0x0, 0x0, 0x0, 0x4, 1, false⟩,
   ⟨0x4C, .ro, 0x0, 0x0, 0x0, 0x4, 1, false⟩,
   ⟨0x50, .ro, 0x0, 0x0, 0x0, 0x4, 1, false⟩,
   ⟨0x54, .ro, 0x0, 0x0, 0x0, 0x4, 1, false⟩,
   ⟨0x58, .ro, 0x0, 0x0, 0x0, 0x4, 1, false⟩,
   ⟨0x5C, .ro, 0x0, 0x0, 0x0, 0x4, 1, false⟩,
   ⟨0x60, .ro, 0x0, 0x0, 0x0, 0x4, 1, false⟩]
def regsRPL1 : List RegRow :=
  [⟨0x64, .ro, 0x0, 0x0, 0x0, 0x4, 1, false⟩,
   ⟨0x68, .ro, 0x0, 0x0, 0x0, 0x4, 1, false⟩,
   ⟨0x6C, .ro, 0x0, 0x0, 0x0, 0x4, 1, false⟩,
   ⟨0x70, .wo, 0x0, 0x0, 0x0, 0x4, 1, false⟩,
   ⟨0x80, .rw, 0x7FFF, 0x0, 0x0, 0x4, 1, false⟩,
   ⟨0x84, .act, 0x0, 0x0, 0x0, 0x4, 1, false⟩,
   ⟨0x88, .act, 0x0, 0x0, 0x0, 0x4, 1, false⟩,
   ⟨0x8C, .ro, 0x0, 0x0, 0x0, 0x4, 1, false⟩,
   ⟨0x90, .wo, 0x0, 0x0, 0x0, 0x4, 1, false⟩,
   ⟨0x400, .rw, 0xFFFFFFFF, 0x0, 0x80000000, 0x20, 64, false⟩,
   ⟨0x404, .rw, 0xFFF1FF, 0x0, 0x325064, 0x20, 64, false⟩,
   ⟨0x408, .rw, 0xFFF, 0x0, 0x318, 0x20, 64, false⟩,
   ⟨0x40C, .rw, 0xFFFF, 0x0, 0x0, 0x20, 64, false⟩,
   ⟨0x410, .ro, 0x0, 0x0, 0x0, 0x20, 64, false⟩]
/-- Table 14-11 (R330). -/
def regsRPL : List RegRow := regsRPL0 ++ regsRPL1

/-- Table 14-15 (R331). -/
def regsACF : List RegRow :=
  [⟨0x0, .act, 0x0, 0x0, 0x0, 0x4, 1, false⟩,
   ⟨0x4, .ro, 0x0, 0x0, 0x0, 0x4, 1, false⟩,
   ⟨0x8, .w1c, 0x0, 0x3FFF, 0x0, 0x4, 1, false⟩,
   ⟨0xC, .rw, 0x3FFF, 0x0, 0x0, 0x4, 1, false⟩,
   ⟨0x10, .wo, 0x0, 0x0, 0x0, 0x4, 1, false⟩,
   ⟨0x40, .ro, 0x0, 0x0, 0x0, 0x20, 4, false⟩,
   ⟨0x44, .rw, 0xFFFFF000, 0x0, 0x0, 0x20, 4, true⟩,
   ⟨0x48, .rw, 0xFFFFFFFF, 0x0, 0x0, 0x20, 4, false⟩,
   ⟨0x4C, .rw, 0xF, 0x0, 0x6, 0x20, 4, false⟩,
   ⟨0x50, .ro, 0x0, 0x0, 0x0, 0x20, 4, false⟩,
   ⟨0x54, .act, 0x0, 0x0, 0x0, 0x20, 4, false⟩,
   ⟨0x58, .ro, 0x0, 0x0, 0x0, 0x20, 4, false⟩,
   ⟨0x5C, .ro, 0x0, 0x0, 0x0, 0x20, 4, false⟩,
   ⟨0x100, .ro, 0x0, 0x0, 0x4000, 0x4, 16, false⟩,
   ⟨0x140, .ro, 0x0, 0x0, 0x0, 0x4, 16, false⟩]

def regsSAP0 : List RegRow :=
  [⟨0x0, .ro, 0x0, 0x0, 0x0, 0x4, 1, false⟩,
   ⟨0x4, .wo, 0x0, 0x0, 0x0, 0x4, 1, false⟩,
   ⟨0x8, .ro, 0x0, 0x0, 0x0, 0x4, 1, false⟩,
   ⟨0x1000, .ro, 0x0, 0x0, 0x0, 0x100, 8, false⟩,
   ⟨0x1004, .ro, 0x0, 0x0, 0x0, 0x100, 8, false⟩,
   ⟨0x1008, .ro, 0x0, 0x0, 0x0, 0x100, 8, false⟩,
   ⟨0x100C, .ro, 0x0, 0x0, 0x0, 0x100, 8, false⟩,
   ⟨0x1010, .rw, 0x2, 0x0, 0x0, 0x100, 8, false⟩,
   ⟨0x1014, .ro, 0x0, 0x0, 0x0, 0x100, 8, false⟩,
   ⟨0x1018, .w1c, 0x0, 0x3FF, 0x0, 0x100, 8, false⟩,
   ⟨0x101C, .rw, 0x3FF, 0x0, 0x0, 0x100, 8, false⟩,
   ⟨0x1020, .act, 0x0, 0x0, 0x0, 0x100, 8, false⟩,
   ⟨0x1024, .act, 0x0, 0x0, 0x0, 0x100, 8, false⟩,
   ⟨0x1028, .ro, 0x0, 0x0, 0x0, 0x100, 8, false⟩,
   ⟨0x102C, .ro, 0x0, 0x0, 0x0, 0x100, 8, false⟩,
   ⟨0x1030, .ro, 0x0, 0x0, 0x0, 0x100, 8, true⟩,
   ⟨0x1034, .ro, 0x0, 0x0, 0x0, 0x100, 8, false⟩,
   ⟨0x1038, .ro, 0x0, 0x0, 0x0, 0x100, 8, false⟩,
   ⟨0x103C, .ro, 0x0, 0x0, 0x0, 0x100, 8, false⟩,
   ⟨0x1040, .rw, 0xFFFFF000, 0x0, 0x0, 0x100, 8, true⟩,
   ⟨0x1044, .rw, 0xFFFFFFFF, 0x0, 0x0, 0x100, 8, false⟩,
   ⟨0x1048, .rw, 0x1F, 0x0, 0xC, 0x100, 8, false⟩,
   ⟨0x104C, .rw, 0xFFFFFFFF, 0x0, 0x0, 0x100, 8, false⟩,
   ⟨0x1050, .ro, 0x0, 0x0, 0x0, 0x100, 8, false⟩]
def regsSAP1 : List RegRow :=
  [⟨0x1060, .rw, 0xFFFFF000, 0x0, 0x0, 0x100, 8, true⟩,
   ⟨0x1064, .rw, 0xFFFFFFFF, 0x0, 0x0, 0x100, 8, false⟩,
   ⟨0x1068, .rw, 0x1F, 0x0, 0xC, 0x100, 8, false⟩,
   ⟨0x106C, .rw, 0xFFFFFFFF, 0x0, 0x0, 0x100, 8, false⟩,
   ⟨0x1070, .ro, 0x0, 0x0, 0x0, 0x100, 8, false⟩,
   ⟨0x1080, .rw, 0xFFFFF000, 0x0, 0x0, 0x100, 8, true⟩,
   ⟨0x1084, .rw, 0xFFFFFFFF, 0x0, 0x0, 0x100, 8, false⟩,
   ⟨0x1088, .rw, 0x1F, 0x0, 0xC, 0x100, 8, false⟩,
   ⟨0x108C, .rw, 0xFFFFFFFF, 0x0, 0x0, 0x100, 8, false⟩,
   ⟨0x1090, .ro, 0x0, 0x0, 0x0, 0x100, 8, false⟩,
   ⟨0x10A0, .rw, 0xFFFFF000, 0x0, 0x0, 0x100, 8, true⟩,
   ⟨0x10A4, .rw, 0xFFFFFFFF, 0x0, 0x0, 0x100, 8, false⟩,
   ⟨0x10A8, .rw, 0x1F, 0x0, 0xC, 0x100, 8, false⟩,
   ⟨0x10AC, .rw, 0xFFFFFFFF, 0x0, 0x0, 0x100, 8, false⟩,
   ⟨0x10B0, .ro, 0x0, 0x0, 0x0, 0x100, 8, false⟩,
   ⟨0x10C0, .ro, 0x0, 0x0, 0x0, 0x100, 8, true⟩,
   ⟨0x10C4, .ro, 0x0, 0x0, 0x0, 0x100, 8, false⟩,
   ⟨0x10C8, .ro, 0x0, 0x0, 0x0, 0x100, 8, false⟩,
   ⟨0x10CC, .ro, 0x0, 0x0, 0x0, 0x100, 8, false⟩,
   ⟨0x10D0, .ro, 0x0, 0x0, 0x0, 0x100, 8, false⟩,
   ⟨0x10D4, .ro, 0x0, 0x0, 0x0, 0x100, 8, false⟩,
   ⟨0x10D8, .ro, 0x0, 0x0, 0x0, 0x100, 8, false⟩,
   ⟨0x10DC, .ro, 0x0, 0x0, 0x0, 0x100, 8, false⟩,
   ⟨0x10E0, .ro, 0x0, 0x0, 0x0, 0x100, 8, false⟩]
/-- Table 15-5 (R352). -/
def regsSAP : List RegRow := regsSAP0 ++ regsSAP1

def regsERG0 : List RegRow :=
  [⟨0x0, .rw, 0xC, 0x0, 0x4, 0x4, 1, false⟩,
   ⟨0x4, .ro, 0x0, 0x0, 0x0, 0x4, 1, false⟩,
   ⟨0x8, .w1c, 0x0, 0x1FF, 0x0, 0x4, 1, false⟩,
   ⟨0xC, .rw, 0x1FF, 0x0, 0x0, 0x4, 1, false⟩,
   ⟨0x10, .rs, 0xFFF, 0x0, 0x0, 0x4, 1, false⟩,
   ⟨0x14, .ro, 0x0, 0x0, 0x1, 0x4, 1, false⟩,
   ⟨0x18, .ro, 0x0, 0x0, 0x0, 0x4, 1, false⟩,
   ⟨0x1C, .ro, 0x0, 0x0, 0x0, 0x4, 1, false⟩,
   ⟨0x20, .rw, 0xFFFF, 0x0, 0x3E8, 0x4, 1, false⟩,
   ⟨0x24, .rw, 0xFFFF, 0x0, 0x64, 0x4, 1, false⟩,
   ⟨0x28, .rw, 0xFFF, 0x0, 0x448, 0x4, 1, false⟩,
   ⟨0x2C, .ro, 0x0, 0x0, 0x0, 0x4, 1, false⟩,
   ⟨0x30, .rw, 0xFFFFFFC0, 0x0, 0x0, 0x4, 1, true⟩,
   ⟨0x34, .rw, 0xFFFFFFFF, 0x0, 0x0, 0x4, 1, false⟩,
   ⟨0x38, .rw, 0x1FFF, 0x0, 0x0, 0x4, 1, false⟩,
   ⟨0x40, .rw, 0xFFF, 0x0, 0x0, 0x4, 1, false⟩,
   ⟨0x44, .ro, 0x0, 0x0, 0x0, 0x4, 1, false⟩,
   ⟨0x48, .ro, 0x0, 0x0, 0xFF, 0x4, 1, false⟩,
   ⟨0x50, .ro, 0x0, 0x0, 0x0, 0x4, 1, true⟩,
   ⟨0x54, .ro, 0x0, 0x0, 0x0, 0x4, 1, false⟩,
   ⟨0x58, .ro, 0x0, 0x0, 0x0, 0x4, 1, false⟩,
   ⟨0x5C, .ro, 0x0, 0x0, 0x0, 0x4, 1, false⟩,
   ⟨0x80, .ro, 0x0, 0x0, 0x0, 0x4, 16, false⟩,
   ⟨0x100, .rw, 0xFFFFF000, 0x0, 0x0, 0x10, 16, true⟩]
def regsERG1 : List RegRow :=
  [⟨0x104, .rw, 0xFFFFFFFF, 0x0, 0x0, 0x10, 16, false⟩,
   ⟨0x108, .rw, 0xFFFFF, 0x0, 0x0, 0x10, 16, false⟩,
   ⟨0x10C, .rw, 0x3FF, 0x0, 0x0, 0x10, 16, false⟩,
   ⟨0x200, .rw, 0xF, 0x0, 0x1, 0x40, 16, false⟩,
   ⟨0x204, .ro, 0x0, 0x0, 0x0, 0x40, 16, false⟩,
   ⟨0x208, .ro, 0x0, 0x0, 0x0, 0x40, 16, false⟩,
   ⟨0x20C, .ro, 0x0, 0x0, 0x0, 0x40, 16, false⟩,
   ⟨0x210, .ro, 0x0, 0x0, 0x0, 0x40, 16, true⟩,
   ⟨0x214, .ro, 0x0, 0x0, 0x0, 0x40, 16, false⟩,
   ⟨0x218, .ro, 0x0, 0x0, 0x0, 0x40, 16, false⟩,
   ⟨0x21C, .ro, 0x0, 0x0, 0x0, 0x40, 16, false⟩,
   ⟨0x220, .ro, 0x0, 0x0, 0x0, 0x40, 16, false⟩]
/-- Table 18-6 (R414). -/
def regsERG : List RegRow := regsERG0 ++ regsERG1

/-- Table 17-10 (R390). -/
def regsHQ : List RegRow :=
  [⟨0x0, .ro, 0x0, 0x0, 0x0, 0x4, 1, false⟩,
   ⟨0x4, .w1c, 0x0, 0xF, 0x0, 0x4, 1, false⟩,
   ⟨0x8, .rw, 0xF, 0x0, 0x0, 0x4, 1, false⟩,
   ⟨0xC, .wo, 0x0, 0x0, 0x0, 0x4, 1, false⟩,
   ⟨0x10, .rw, 0xF, 0x0, 0x0, 0x4, 1, false⟩,
   ⟨0x14, .ro, 0x0, 0x0, 0x0, 0x4, 1, false⟩,
   ⟨0x1000, .rw, 0xFFFFF7, 0x0, 0x0, 0x40, 64, false⟩,
   ⟨0x1004, .rw, 0xFFFFF, 0x0, 0x0, 0x40, 64, false⟩,
   ⟨0x1008, .rw, 0xFFF7FF, 0x0, 0x0, 0x40, 64, false⟩,
   ⟨0x100C, .rw, 0xFF000000, 0x0, 0x0, 0x40, 64, true⟩,
   ⟨0x1010, .rw, 0xFFFFFFFF, 0x0, 0x0, 0x40, 64, false⟩,
   ⟨0x1014, .rw, 0xFFFF, 0x0, 0x0, 0x40, 64, false⟩,
   ⟨0x1018, .ro, 0x0, 0x0, 0x0, 0x40, 64, false⟩,
   ⟨0x101C, .ro, 0x0, 0x0, 0x0, 0x40, 64, false⟩,
   ⟨0x1020, .ro, 0x0, 0x0, 0x0, 0x40, 64, false⟩,
   ⟨0x1024, .ro, 0x0, 0x0, 0x0, 0x40, 64, false⟩]

/-- Table 17-9 (R390). -/
def regsBAR2 : List RegRow :=
  [⟨0x0, .wo, 0x0, 0x0, 0x0, 0x8, 64, false⟩,
   ⟨0x4, .wo, 0x0, 0x0, 0x0, 0x8, 64, false⟩,
   ⟨0x1000, .rw, 0xFFFFFFC0, 0x0, 0x0, 0x40, 64, true⟩,
   ⟨0x1004, .rw, 0xFFFFFFFF, 0x0, 0x0, 0x40, 64, false⟩,
   ⟨0x1008, .rw, 0xFFF, 0x0, 0x0, 0x40, 64, false⟩,
   ⟨0x100C, .rw, 0x1FFFFF, 0x0, 0x0, 0x40, 64, false⟩,
   ⟨0x1010, .ro, 0x0, 0x0, 0x0, 0x40, 64, false⟩,
   ⟨0x1020, .rw, 0xFFFFFFE0, 0x0, 0x0, 0x40, 64, true⟩,
   ⟨0x1024, .rw, 0xFFFFFFFF, 0x0, 0x0, 0x40, 64, false⟩,
   ⟨0x1028, .rw, 0xFFFF, 0x0, 0x0, 0x40, 64, false⟩,
   ⟨0x102C, .rw, 0xFFFF00FF, 0x0, 0x0, 0x40, 64, false⟩,
   ⟨0x1030, .ro, 0x0, 0x0, 0x0, 0x40, 64, false⟩,
   ⟨0x1034, .ro, 0x0, 0x0, 0x0, 0x40, 64, false⟩,
   ⟨0x4000, .ro, 0x0, 0x0, 0x0, 0x4, 1, false⟩,
   ⟨0x4004, .w1c, 0x0, 0x3, 0x0, 0x4, 1, false⟩]

def regsDMEM0 : List RegRow :=
  [⟨0x0, .ro, 0x0, 0x0, 0x0, 0x4, 1, false⟩,
   ⟨0x4, .ro, 0x0, 0x0, 0x0, 0x4, 1, false⟩,
   ⟨0x8, .ro, 0x0, 0x0, 0x20000, 0x4, 1, false⟩,
   ⟨0xC, .w1c, 0x0, 0x1F, 0x0, 0x4, 1, false⟩,
   ⟨0x10, .rw, 0x1F, 0x0, 0x0, 0x4, 1, false⟩,
   ⟨0x14, .wo, 0x0, 0x0, 0x0, 0x4, 1, false⟩,
   ⟨0x18, .ro, 0x0, 0x0, 0x0, 0x4, 1, true⟩,
   ⟨0x1C, .ro, 0x0, 0x0, 0x0, 0x4, 1, false⟩,
   ⟨0x20, .ro, 0x0, 0x0, 0x0, 0x4, 1, true⟩,
   ⟨0x24, .ro, 0x0, 0x0, 0x0, 0x4, 1, false⟩,
   ⟨0x28, .ro, 0x0, 0x0, 0x0, 0x4, 1, true⟩,
   ⟨0x2C, .ro, 0x0, 0x0, 0x0, 0x4, 1, false⟩,
   ⟨0x30, .ro, 0x0, 0x0, 0x0, 0x4, 1, false⟩,
   ⟨0x34, .ro, 0x0, 0x0, 0x0, 0x4, 1, false⟩,
   ⟨0x38, .ros, 0x0, 0x0, 0x0, 0x4, 1, false⟩,
   ⟨0x3C, .ros, 0x0, 0x0, 0x0, 0x4, 1, false⟩,
   ⟨0x40, .rw, 0xFF, 0x0, 0x8, 0x4, 1, false⟩,
   ⟨0x44, .rw, 0xFF, 0x0, 0x18, 0x4, 1, false⟩,
   ⟨0x48, .wo, 0x0, 0x0, 0x0, 0x4, 1, false⟩,
   ⟨0x50, .ro, 0x0, 0x0, 0x0, 0x4, 1, true⟩,
   ⟨0x54, .ro, 0x0, 0x0, 0x0, 0x4, 1, false⟩,
   ⟨0x58, .ro, 0x0, 0x0, 0x0, 0x4, 1, true⟩,
   ⟨0x5C, .ro, 0x0, 0x0, 0x0, 0x4, 1, false⟩,
   ⟨0x60, .ro, 0x0, 0x0, 0x0, 0x4, 1, true⟩]
def regsDMEM1 : List RegRow :=
  [⟨0x64, .ro, 0x0, 0x0, 0x0, 0x4, 1, false⟩,
   ⟨0x4000, .ros, 0x0, 0x0, 0x0, 0x4, 64, false⟩]
/-- Table 08-8 (R178). -/
def regsDMEM : List RegRow := regsDMEM0 ++ regsDMEM1

/-- Table 05-6 (R118). -/
def regsQEV : List RegRow :=
  [⟨0x0, .rw, 0xFFFFF000, 0x0, 0x0, 0x4, 1, true⟩,
   ⟨0x4, .rw, 0xFFFFFFFF, 0x0, 0x0, 0x4, 1, false⟩,
   ⟨0x8, .rw, 0x1F, 0x0, 0xA, 0x4, 1, false⟩,
   ⟨0xC, .ro, 0x0, 0x0, 0x0, 0x4, 1, false⟩,
   ⟨0x10, .act, 0x0, 0x0, 0x0, 0x4, 1, false⟩,
   ⟨0x14, .ro, 0x0, 0x0, 0x0, 0x4, 1, false⟩,
   ⟨0x18, .rw, 0xFFFF, 0x0, 0x3E8, 0x4, 1, false⟩,
   ⟨0x1C, .w1c, 0x0, 0x3, 0x0, 0x4, 1, false⟩,
   ⟨0x20, .rw, 0x3, 0x0, 0x0, 0x4, 1, false⟩]

/-- Table 11-9 (R259). -/
def regsKVP : List RegRow :=
  [⟨0x0, .ro, 0x0, 0x0, 0x0, 0x10, 5, false⟩,
   ⟨0x4, .ro, 0x0, 0x0, 0x0, 0x10, 5, false⟩,
   ⟨0x8, .ro, 0x0, 0x0, 0x0, 0x10, 5, false⟩,
   ⟨0xC, .act, 0x0, 0x0, 0x0, 0x10, 5, false⟩]

/-- Table 08-12 (R179). -/
def regsCIS : List RegRow :=
  [⟨0x0, .ro, 0x0, 0x0, 0x4, 0x4, 1, false⟩,
   ⟨0x4, .ro, 0x0, 0x0, 0x0, 0x4, 1, false⟩,
   ⟨0x8, .ro, 0x0, 0x0, 0x0, 0x4, 1, false⟩,
   ⟨0x10, .ro, 0x0, 0x0, 0x0, 0x4, 1, true⟩,
   ⟨0x14, .ro, 0x0, 0x0, 0x0, 0x4, 1, false⟩,
   ⟨0x18, .ro, 0x0, 0x0, 0x0, 0x4, 1, true⟩,
   ⟨0x1C, .ro, 0x0, 0x0, 0x0, 0x4, 1, false⟩,
   ⟨0x20, .ro, 0x0, 0x0, 0x0, 0x4, 1, true⟩,
   ⟨0x24, .ro, 0x0, 0x0, 0x0, 0x4, 1, false⟩,
   ⟨0x28, .ro, 0x0, 0x0, 0x0, 0x4, 1, false⟩,
   ⟨0x2C, .ro, 0x0, 0x0, 0x0, 0x4, 1, false⟩,
   ⟨0x30, .ro, 0x0, 0x0, 0x0, 0x4, 1, false⟩,
   ⟨0x40, .w1c, 0x0, 0x7, 0x0, 0x4, 1, false⟩,
   ⟨0x44, .rw, 0x7, 0x0, 0x0, 0x4, 1, false⟩,
   ⟨0x48, .wo, 0x0, 0x0, 0x0, 0x4, 1, false⟩]

/-- Table 04-8 (R98). -/
def regsME : List RegRow :=
  [⟨0x0, .ro, 0x0, 0x0, 0x4, 0x4, 1, false⟩,
   ⟨0x4, .ro, 0x0, 0x0, 0x0, 0x4, 1, false⟩,
   ⟨0x8, .ro, 0x0, 0x0, 0x0, 0x4, 1, false⟩,
   ⟨0x10, .ro, 0x0, 0x0, 0x0, 0x4, 1, true⟩,
   ⟨0x14, .ro, 0x0, 0x0, 0x0, 0x4, 1, false⟩,
   ⟨0x18, .ro, 0x0, 0x0, 0x0, 0x4, 1, true⟩,
   ⟨0x1C, .ro, 0x0, 0x0, 0x0, 0x4, 1, false⟩,
   ⟨0x20, .ro, 0x0, 0x0, 0x0, 0x4, 1, true⟩,
   ⟨0x24, .ro, 0x0, 0x0, 0x0, 0x4, 1, false⟩,
   ⟨0x28, .ro, 0x0, 0x0, 0x0, 0x4, 1, false⟩,
   ⟨0x2C, .ro, 0x0, 0x0, 0x0, 0x4, 1, false⟩,
   ⟨0x30, .ro, 0x0, 0x0, 0x0, 0x4, 1, false⟩,
   ⟨0x34, .ro, 0x0, 0x0, 0x0, 0x4, 1, false⟩,
   ⟨0x40, .w1c, 0x0, 0x7, 0x0, 0x4, 1, false⟩,
   ⟨0x44, .rw, 0x7, 0x0, 0x0, 0x4, 1, false⟩,
   ⟨0x48, .wo, 0x0, 0x0, 0x0, 0x4, 1, false⟩]

/-- Table 04-11 (R100). -/
def regsVEC : List RegRow :=
  [⟨0x0, .ro, 0x0, 0x0, 0x4, 0x4, 1, false⟩,
   ⟨0x4, .ro, 0x0, 0x0, 0x0, 0x4, 1, false⟩,
   ⟨0x8, .ro, 0x0, 0x0, 0x0, 0x4, 1, false⟩,
   ⟨0x10, .ro, 0x0, 0x0, 0x0, 0x4, 1, true⟩,
   ⟨0x14, .ro, 0x0, 0x0, 0x0, 0x4, 1, false⟩,
   ⟨0x18, .ro, 0x0, 0x0, 0x0, 0x4, 1, true⟩,
   ⟨0x1C, .ro, 0x0, 0x0, 0x0, 0x4, 1, false⟩,
   ⟨0x20, .ro, 0x0, 0x0, 0x0, 0x4, 1, true⟩,
   ⟨0x24, .ro, 0x0, 0x0, 0x0, 0x4, 1, false⟩,
   ⟨0x28, .ro, 0x0, 0x0, 0x0, 0x4, 1, false⟩,
   ⟨0x2C, .ro, 0x0, 0x0, 0x0, 0x4, 1, false⟩,
   ⟨0x30, .ro, 0x0, 0x0, 0x0, 0x4, 1, false⟩,
   ⟨0x34, .ro, 0x0, 0x0, 0x0, 0x4, 1, false⟩,
   ⟨0x40, .w1c, 0x0, 0x7, 0x0, 0x4, 1, false⟩,
   ⟨0x44, .rw, 0x7, 0x0, 0x0, 0x4, 1, false⟩,
   ⟨0x48, .wo, 0x0, 0x0, 0x0, 0x4, 1, false⟩,
   ⟨0x50, .ro, 0x0, 0x0, 0x100, 0x4, 1, false⟩]

/-- Table 07-5 (R153). -/
def regsNMD : List RegRow :=
  [⟨0x0, .ro, 0x0, 0x0, 0x4, 0x4, 1, false⟩,
   ⟨0x4, .ro, 0x0, 0x0, 0x0, 0x4, 1, false⟩,
   ⟨0x8, .ro, 0x0, 0x0, 0x0, 0x4, 1, true⟩,
   ⟨0xC, .ro, 0x0, 0x0, 0x0, 0x4, 1, false⟩,
   ⟨0x10, .ro, 0x0, 0x0, 0x0, 0x4, 1, true⟩,
   ⟨0x14, .ro, 0x0, 0x0, 0x0, 0x4, 1, false⟩,
   ⟨0x18, .ro, 0x0, 0x0, 0x0, 0x4, 1, true⟩,
   ⟨0x1C, .ro, 0x0, 0x0, 0x0, 0x4, 1, false⟩,
   ⟨0x20, .ro, 0x0, 0x0, 0x0, 0x4, 1, false⟩,
   ⟨0x24, .ro, 0x0, 0x0, 0x0, 0x4, 1, false⟩,
   ⟨0x28, .ro, 0x0, 0x0, 0x0, 0x4, 1, false⟩,
   ⟨0x2C, .ro, 0x0, 0x0, 0x0, 0x4, 1, false⟩,
   ⟨0x30, .ro, 0x0, 0x0, 0x0, 0x4, 1, true⟩,
   ⟨0x34, .ro, 0x0, 0x0, 0x0, 0x4, 1, false⟩,
   ⟨0x38, .ro, 0x0, 0x0, 0x0, 0x4, 1, false⟩,
   ⟨0x40, .ro, 0x0, 0x0, 0x0, 0x4, 1, true⟩,
   ⟨0x44, .ro, 0x0, 0x0, 0x0, 0x4, 1, false⟩,
   ⟨0x48, .rw, 0xFFFFFFFF, 0x0, 0x100000, 0x4, 1, false⟩,
   ⟨0x50, .w1c, 0x0, 0x3, 0x0, 0x4, 1, false⟩,
   ⟨0x54, .rw, 0x3, 0x0, 0x0, 0x4, 1, false⟩,
   ⟨0x58, .wo, 0x0, 0x0, 0x0, 0x4, 1, false⟩]

/-- Table 09-8 (R203). -/
def regsCAR : List RegRow :=
  [⟨0x0, .ro, 0x0, 0x0, 0x4, 0x4, 1, false⟩,
   ⟨0x4, .ro, 0x0, 0x0, 0x0, 0x4, 1, false⟩,
   ⟨0x8, .ro, 0x0, 0x0, 0x0, 0x4, 1, false⟩,
   ⟨0xC, .rw, 0x3FF07FF, 0x0, 0x800100, 0x4, 1, false⟩,
   ⟨0x10, .rw, 0xFFFF, 0x0, 0x3E8, 0x4, 1, false⟩,
   ⟨0x14, .ro, 0x0, 0x0, 0x0, 0x4, 1, false⟩,
   ⟨0x18, .ro, 0x0, 0x0, 0x0, 0x4, 1, true⟩,
   ⟨0x1C, .ro, 0x0, 0x0, 0x0, 0x4, 1, false⟩,
   ⟨0x20, .ro, 0x0, 0x0, 0x0, 0x4, 1, true⟩,
   ⟨0x24, .ro, 0x0, 0x0, 0x0, 0x4, 1, false⟩,
   ⟨0x28, .ro, 0x0, 0x0, 0x0, 0x4, 1, true⟩,
   ⟨0x2C, .ro, 0x0, 0x0, 0x0, 0x4, 1, false⟩,
   ⟨0x30, .ro, 0x0, 0x0, 0x0, 0x4, 1, false⟩,
   ⟨0x34, .ro, 0x0, 0x0, 0x0, 0x4, 1, false⟩,
   ⟨0x38, .ro, 0x0, 0x0, 0x0, 0x4, 1, false⟩,
   ⟨0x3C, .ro, 0x0, 0x0, 0x0, 0x4, 1, false⟩,
   ⟨0x40, .ro, 0x0, 0x0, 0x0, 0x4, 1, false⟩,
   ⟨0x44, .ro, 0x0, 0x0, 0x0, 0x4, 1, false⟩,
   ⟨0x48, .ro, 0x0, 0x0, 0x0, 0x4, 1, false⟩,
   ⟨0x4C, .ro, 0x0, 0x0, 0x0, 0x4, 1, false⟩,
   ⟨0x50, .w1c, 0x0, 0x1F, 0x0, 0x4, 1, false⟩,
   ⟨0x54, .rw, 0x1F, 0x0, 0x0, 0x4, 1, false⟩,
   ⟨0x58, .wo, 0x0, 0x0, 0x0, 0x4, 1, false⟩]

/-- Table 09-12 (R204). -/
def regsCRN : List RegRow :=
  [⟨0x0, .ro, 0x0, 0x0, 0x0, 0x4, 1, false⟩,
   ⟨0x4, .wo, 0x0, 0x0, 0x0, 0x4, 1, false⟩,
   ⟨0x8, .w1c, 0x0, 0xF1, 0x0, 0x4, 1, false⟩,
   ⟨0xC, .rw, 0xF1, 0x0, 0x0, 0x4, 1, false⟩,
   ⟨0x40, .rw, 0x37F, 0x0, 0x320, 0x40, 4, false⟩,
   ⟨0x48, .rw, 0xFFFFFFFF, 0x0, 0x4C11DB7, 0x40, 4, true⟩,
   ⟨0x4C, .rw, 0xFFFFFFFF, 0x0, 0x0, 0x40, 4, false⟩,
   ⟨0x50, .rw, 0xFFFFFFFF, 0x0, 0xFFFFFFFF, 0x40, 4, true⟩,
   ⟨0x54, .rw, 0xFFFFFFFF, 0x0, 0x0, 0x40, 4, false⟩,
   ⟨0x58, .rw, 0xFFFFFFFF, 0x0, 0xFFFFFFFF, 0x40, 4, true⟩,
   ⟨0x5C, .rw, 0xFFFFFFFF, 0x0, 0x0, 0x40, 4, false⟩,
   ⟨0x60, .rw, 0xFFFFFFFF, 0x0, 0xFFFFFFFF, 0x40, 4, true⟩,
   ⟨0x64, .rw, 0xFFFFFFFF, 0x0, 0x0, 0x40, 4, false⟩,
   ⟨0x68, .ro, 0x0, 0x0, 0x0, 0x40, 4, true⟩,
   ⟨0x6C, .ro, 0x0, 0x0, 0x0, 0x40, 4, false⟩,
   ⟨0x70, .ro, 0x0, 0x0, 0x0, 0x40, 4, true⟩,
   ⟨0x74, .ro, 0x0, 0x0, 0x0, 0x40, 4, false⟩]

/-- Table 06-7 (R136). -/
def regsDRF : List RegRow :=
  [⟨0x0, .ro, 0x0, 0x0, 0x4, 0x4, 1, false⟩,
   ⟨0x10, .ro, 0x0, 0x0, 0x0, 0x4, 1, true⟩,
   ⟨0x14, .ro, 0x0, 0x0, 0x0, 0x4, 1, false⟩,
   ⟨0x18, .ro, 0x0, 0x0, 0x0, 0x4, 1, true⟩,
   ⟨0x1C, .ro, 0x0, 0x0, 0x0, 0x4, 1, false⟩,
   ⟨0x20, .ro, 0x0, 0x0, 0x0, 0x4, 1, false⟩,
   ⟨0x30, .wo, 0x0, 0x0, 0x0, 0x4, 1, false⟩,
   ⟨0x40, .rw, 0xFFFFFFFF, 0x0, 0x0, 0x4, 4, false⟩,
   ⟨0x50, .rw, 0xFFFFFFFF, 0x0, 0x0, 0x4, 4, false⟩,
   ⟨0x60, .act, 0x0, 0x0, 0x0, 0x4, 1, false⟩,
   ⟨0x70, .ro, 0x0, 0x0, 0x0, 0x4, 4, false⟩]

/-- Table 06-9 (R138). -/
def regsSMP : List RegRow :=
  [⟨0x0, .ro, 0x0, 0x0, 0x4, 0x4, 1, false⟩,
   ⟨0x10, .ro, 0x0, 0x0, 0x0, 0x4, 1, true⟩,
   ⟨0x14, .ro, 0x0, 0x0, 0x0, 0x4, 1, false⟩,
   ⟨0x18, .ro, 0x0, 0x0, 0x0, 0x4, 1, true⟩,
   ⟨0x1C, .ro, 0x0, 0x0, 0x0, 0x4, 1, false⟩,
   ⟨0x20, .ro, 0x0, 0x0, 0x0, 0x4, 1, false⟩,
   ⟨0x24, .ro, 0x0, 0x0, 0x0, 0x4, 1, false⟩,
   ⟨0x28, .ro, 0x0, 0x0, 0x0, 0x4, 1, false⟩,
   ⟨0x2C, .ro, 0x0, 0x0, 0x0, 0x4, 1, false⟩,
   ⟨0x40, .w1c, 0x0, 0xF, 0x0, 0x4, 1, false⟩,
   ⟨0x44, .rw, 0xF, 0x0, 0x0, 0x4, 1, false⟩,
   ⟨0x48, .wo, 0x0, 0x0, 0x0, 0x4, 1, false⟩]

/-- Table 05-4 (R117). -/
def regsQST : List RegRow :=
  [⟨0x0, .ro, 0x0, 0x0, 0x0, 0x4, 1, true⟩,
   ⟨0x4, .ro, 0x0, 0x0, 0x0, 0x4, 1, false⟩,
   ⟨0x8, .ro, 0x0, 0x0, 0x0, 0x4, 1, false⟩,
   ⟨0xC, .ro, 0x0, 0x0, 0x0, 0x4, 1, false⟩,
   ⟨0x10, .ro, 0x0, 0x0, 0x0, 0x4, 1, false⟩,
   ⟨0x14, .ro, 0x0, 0x0, 0x0, 0x4, 1, false⟩,
   ⟨0x20, .act, 0x0, 0x0, 0x0, 0x10, 8, false⟩,
   ⟨0x24, .ro, 0x0, 0x0, 0x0, 0x10, 8, false⟩,
   ⟨0x28, .ro, 0x0, 0x0, 0x0, 0x10, 8, false⟩,
   ⟨0x2C, .ro, 0x0, 0x0, 0x0, 0x10, 8, false⟩,
   ⟨0xA0, .w1c, 0x0, 0x7, 0x0, 0x4, 1, false⟩,
   ⟨0xA4, .rw, 0x7, 0x0, 0x0, 0x4, 1, false⟩,
   ⟨0xA8, .wo, 0x0, 0x0, 0x0, 0x4, 1, false⟩]

/-- Table 21-6 (R460). -/
def regsSNPC : List RegRow :=
  [⟨0x0, .ro, 0x0, 0x0, 0x0, 0x4, 960, false⟩,
   ⟨0xF00, .ro, 0x0, 0x0, 0x0, 0x4, 1, true⟩,
   ⟨0xF04, .ro, 0x0, 0x0, 0x0, 0x4, 1, false⟩,
   ⟨0xF08, .ro, 0x0, 0x0, 0x0, 0x4, 1, false⟩,
   ⟨0xF0C, .ro, 0x0, 0x0, 0x0, 0x4, 1, false⟩]

/-- Table 02-8 (R52). -/
def regsTBG : List RegRow :=
  [⟨0x0, .ro, 0x0, 0x0, 0x0, 0x10, 8, false⟩,
   ⟨0x4, .ro, 0x0, 0x0, 0x0, 0x10, 8, false⟩,
   ⟨0x8, .ro, 0x0, 0x0, 0x0, 0x10, 8, false⟩,
   ⟨0xC, .act, 0x0, 0x0, 0x0, 0x10, 8, false⟩,
   ⟨0x80, .ro, 0x0, 0x0, 0x0, 0x4, 1, false⟩,
   ⟨0x84, .ro, 0x0, 0x0, 0x0, 0x4, 1, false⟩]

/-- The row that holds an offset of a unit. -/
def findRow : List RegRow → Nat → Option RegRow
  | [], _ => none
  | r :: t, o =>
    if r.off ≤ o ∧ (o - r.off) % r.stride = 0 ∧ (o - r.off) / r.stride < r.count then some r else findRow t o

/-- Offset `o` of a cluster (Table 00-4). -/
def clusterRow (o : Nat) : Option RegRow :=
  if o < 0x2000 then findRow regsME (o % 0x1000)
  else if o < 0x3000 then findRow regsVEC (o - 0x2000)
  else if o < 0x4000 then findRow regsNMD ((o - 0x3000) % 0x400)
  else if o < 0x5000 then findRow regsCAR (o - 0x4000)
  else if o < 0x6000 then (findRow regsCRN (o - 0x5000)).map (fun r => if r.off = 0 then { r with reset := 0x40 } else r)
  else if o < 0x7000 then findRow regsDRF (o - 0x6000)
  else if o < 0x8000 then findRow regsSMP (o - 0x7000)
  else if o < 0x9000 then findRow regsQST (o - 0x8000)
  else if o < 0xA000 then findRow regsSNPC (o - 0x9000)
  else if o < 0xB000 then findRow regsTBG (o - 0xA000)
  else none

/-- Offset `o` of a die window (R10). -/
def dieRow (o : Nat) : Option RegRow :=
  if o < 0x8000 then findRow regsDMEM o
  else if o < 0x9000 then findRow regsQEV (o - 0x8000)
  else if o < 0xA000 then findRow regsKVP (o - 0x9000)
  else if o < 0x100000 then none
  else if o < 0x120000 then findRow regsCIS (o % 0x1000)
  else if o < 0x200000 then none
  else if 0x600000 ≤ o then none
  else
    let q := o % 0x100000
    if q < 0x10000 ∨ 0xD0000 ≤ q then none else clusterRow ((q - 0x10000) % 0x20000)

/-- An Oasis Caravan engine's registers: idle at reset, with the Oasis tag limits (Tables 09-9, 09-10). -/
def oasisCarRow (o : Nat) : Option RegRow :=
  (findRow regsCAR o).map (fun r =>
    if r.off = 0 then { r with reset := 0 }
    else if r.off = 0xC then { r with reset := 0x02000400 } else r)

/-- The row of a BAR0 offset (Table 00-3), or none in reserved space (R11). -/
def bar0Row (a : Nat) : Option RegRow :=
  if a < 0x80000 then findRow regsOAS a
  else if a < 0x90000 then
    (if a % 0x2000 < 0x1000 then oasisCarRow (a % 0x2000) else findRow regsCRN (a % 0x1000))
  else if a < 0x100000 then findRow regsOAS a
  else if a < 0x180000 then findRow regsPLC (a - 0x100000)
  else if a < 0x190000 then findRow regsKVC (a - 0x180000)
  else if a < 0x1A0000 then findRow regsSTRM (a - 0x190000)
  else if a < 0x200000 then none
  else if a < 0x300000 then findRow regsTCK (a - 0x200000)
  else if a < 0x400000 then findRow regsSPL (a - 0x300000)
  else if a < 0x500000 then findRow regsSEC (a - 0x400000)
  else if a < 0x600000 then findRow regsSGL (a - 0x500000)
  else if a < 0x700000 then findRow regsERR (a - 0x600000)
  else if a < 0x780000 then findRow regsRPL (a - 0x700000)
  else if a < 0x800000 then findRow regsACF (a - 0x780000)
  else if a < 0x900000 then findRow regsSAP (a - 0x800000)
  else if a < 0xA00000 then findRow regsERG (a - 0x900000)
  else if a < 0xB00000 then findRow regsHQ (a - 0xA00000)
  else if a < 0x1000000 then none
  else if a < 0x3000000 then dieRow ((a - 0x1000000) % 0x800000)
  else none

/-- The row of a register key: BAR0 below 64 MiB, BAR2 of each function above. -/
def regRow (a : Nat) : Option RegRow :=
  if a < 0x4000000 then bar0Row a
  else if bar2Base 0 ≤ a ∧ a < bar2Base 64 then findRow regsBAR2 ((a - bar2Base 0) % 0x10000)
  else none

/-- The reset value of a register key; reserved space reads zero (R11). -/
def regReset (a : Nat) : Word :=
  match regRow a with
  | some r => BitVec.ofNat 32 r.reset
  | none => 0

end Sys2Proof.Machine
end

