-- ==== Sys2Proof/Machine/State.lean ====
section
/-!
DEFINITION. The state of the part as plain data, the stop reasons and the state right after reset. Registers that no
structured field holds live in `regs`, keyed by BAR0 offset (and `bar2Base f` plus offset for BAR2 of function f).
-/

namespace Sys2Proof.Machine

/-- Why a run stops with a fault. No command of the part stops the model (R447: an error never stops the part as a
whole), so the type has no constructor. -/
inductive Fault where
  deriving DecidableEq, Repr

/-- Why a command is refused. -/
inductive Refusal where
  /-- The command has no meaning in the model yet; raised by its arm of `exec`. Safe: nothing is claimed of it. -/
  | notModelled (mnemonic : String)
  deriving DecidableEq, Repr

/-- The state of the part. -/
structure State where
  /-- The timebase in ns (R24). -/
  tb : Dword := 0
  tck : Tck := {}
  /-- Moderated interrupts by key: 0 miss, 1 cascade, 2 error record, 4 + d saturation ring of die d (R46, R47, R458). -/
  mods : AMap Moderation := []
  /-- Registers that no other field holds. -/
  regs : AMap Word := []
  /-- Memory by device-local address, the host window included (Table 08-2). -/
  mem : AMap Byte := []
  cond : Condition := {}
  /-- What the last command answered; the model's own field (log 3). -/
  resp : Answer := {}
  load : Option Load := none
  /-- The composite digest D (R63). -/
  digest : List Byte := List.replicate 64 0
  structure_ : Structure := {}
  weights : List Weight := []
  pools : List PagePool := []
  /-- Retired frames in the order retired (R173, R175). -/
  retired : List Nat := []
  /-- Frames named by DMEM_RETIRE while held: they retire when they become free (R173, R175). -/
  retireDue : List Nat := []
  streams : AMap Stream := []
  /-- Units in use of each function's swap pool, as runs of first unit and length (R251). -/
  swaps : AMap (List (Nat × Nat)) := []
  objs : AMap ClusterObj := []
  work : AMap ClusterWork := []
  cores : AMap Core := []
  /-- Nomad invocations saved, each with its save number and cluster (R150). -/
  savedCores : List (Nat × Nat × Core) := []
  cisterns : AMap Cistern := []
  caravans : AMap Caravan := []
  /-- Clusters with a drift test running (R137). -/
  drfTests : List Nat := []
  casc : Cascade := {}
  ports : AMap Port := []
  place : Place := {}
  host : HostQ := {}
  /-- Host pages whose translation the part holds, by function (R374). -/
  ats : List (Nat × Nat) := []
  /-- The sideband endpoint ID (R389). -/
  endpoint : Byte := 0
  fab : Fabric := {}
  sec : Security := {}
  meter : Meter := {}
  errs : Errors := {}
  snap : Snap := {}
  pwr : Power := {}
  pins : Pins := {}
  /-- How many free values have been drawn; the model's own field (log 4). -/
  freeCtr : Nat := 0
  /-- Commands waiting, first in, first out; the model's own field. -/
  pending : List Instr := []
  deriving DecidableEq, Repr

/-- The part right after a cold reset, before training (R24, R482). Fields without a stated reset value: log 2, 6, 8,
9, 10. -/
def State.reset : State := {}

end Sys2Proof.Machine
end

