-- ==== Sys2Proof/Machine/Codes.lean ====
section
/-!
DEFINITION. The codes that registers and records give to states and kinds, and the fields of descriptors and drift words.
-/

namespace Sys2Proof.Machine

/-- The kind of a state item (Table 12-7). -/
def ItemKind.code : ItemKind → Nat
  | .hidden => 0 | .convCache => 1 | .scan => 2

/-- STATE of a channel (Table 14-13). -/
def ChanState.code : ChanState → Nat
  | .off => 0 | .ripple => 1 | .crest => 2 | .dune => 3

/-- STATE of a stream (Table 12-12). -/
def StrmState.code : StrmState → Nat
  | .closed => 0 | .active => 1 | .idle => 2 | .paused => 3 | .swapped => 4 | .exporting => 5

/-- STATE of a sequence (Table 11-8). -/
def KvState.code : KvState → Nat
  | .none => 0 | .resident => 1 | .swapOut => 2 | .swapped => 3 | .restore => 4 | .parked => 5

/-- The status a piece of work completes with: the first of its conditions in the order of R13. -/
def stepStatus (l : List Nat) : Nat := ([8, 6, 5, 3, 4, 1, 2, 7].find? (fun c => l.contains c)).getD 0
/-- A condition ends a transfer at the tile it has reached; one that ended it already stays if R13 puts it first (R186). -/
def Xfer.endWith (x : Xfer) (code : Nat) : Xfer :=
  { x with
    ended := some (stepStatus (code :: x.ended.toList))
    wait := none }

/-- Field `len` bits at bit `lo` of the little-endian word that starts at byte `at_` of a descriptor. -/
def dfield (d : BitVec 512) (at_ lo len : Nat) : Nat := bitsAt d.toNat (at_ * 8 + lo) len

/-- Where a drift word keeps its word, its offset and the tensor it drifts (Table 06-4). -/
def DriftWord.keep (d : DriftWord) : Nat := bitsAt d.raw.toNat 24 8
def DriftWord.ofs (d : DriftWord) : Nat := bitsAt d.raw.toNat 16 8
def DriftWord.tensor (d : DriftWord) : Nat := bitsAt d.raw.toNat 0 16

end Sys2Proof.Machine
end

