-- ==== Sys2Proof/Machine/Ops.lean ====
section
/-!
DEFINITION. The named operations that every meaning is written from: registers, counters and interrupts, bytes of
memory, moderated rings, error reports and snapshot triggers.
-/

namespace Sys2Proof.Machine

/-! Registers. -/

/-- The value a register holds. -/
def State.reg (s : State) (a : Nat) : Word := AMap.read regReset s.regs a
/-- The value as a number. -/
def State.rn (s : State) (a : Nat) : Nat := (s.reg a).toNat
/-- Sets a register, whatever its access code. -/
def State.setReg (s : State) (a : Nat) (v : Word) : State := { s with regs := AMap.write regReset s.regs a v }
/-- Sets a register from a number, modulo 2^32. -/
def State.setN (s : State) (a v : Nat) : State := s.setReg a (BitVec.ofNat 32 v)
/-- Bit i of a register. -/
def State.rbit (s : State) (a i : Nat) : Bool := bitAt (s.rn a) i
/-- A field of a register. -/
def State.fld (s : State) (a lo len : Nat) : Nat := bitsAt (s.rn a) lo len
/-- Sets a field of a register. -/
def State.setFld (s : State) (a lo len v : Nat) : State := s.setN a (putBits (s.rn a) lo len v)
/-- Sets or clears one bit of a register. -/
def State.setBit (s : State) (a i : Nat) (b : Bool) : State := s.setFld a i 1 (b2n b)
/-- A 64-bit pair with its low word at `a` (R8). -/
def State.pair (s : State) (a : Nat) : Nat := s.rn a + s.rn (a + 4) * 2 ^ 32
/-- Sets a 64-bit pair. -/
def State.setPair (s : State) (a v : Nat) : State := (s.setN a v).setN (a + 4) (v / 2 ^ 32)
/-- Sets every register of a list to zero: what a counter clear does. -/
def State.zeroRegs (s : State) : List Nat → State
  | [] => s
  | a :: t => (s.setReg a 0).zeroRegs t
/-- The registers from `lo` to `hi`, a word apart. -/
def wordsFrom (lo hi : Nat) : List Nat := (List.range ((hi - lo) / 4 + 1)).map (fun i => lo + 4 * i)

/-- Every clock but Sandglass's is stopped (R480), or POR_N is asserted (R482, R496): nothing of the part acts. -/
def State.halted (s : State) : Bool := s.pwr.trip || s.pins.por
/-- Acts unless the part is halted. -/
def State.live (s : State) (f : State → State) : State := if s.halted then s else f s

/-- The timebase has come to `t`: an event that takes place then says so (log 13). -/
def State.reach (s : State) (t : Nat) : State := { s with tb := if s.tb.toNat < t then BitVec.ofNat 64 t else s.tb }

/-! Interrupts and counters. -/

/-- Records an MSI-X vector as raised (R381). -/
def State.raiseVector (s : State) (v : Nat) : State :=
  if s.host.vectors.contains v then s else { s with host := { s.host with vectors := s.host.vectors ++ [v] } }
/-- Vector 0 of the physical function carries the summary of every BAR0 cause (R381). -/
def State.summaryVector (s : State) : Nat := s.fld (Reg.HQ_FNf_VEC 0) 0 11
/-- Sets cause `i` of the interrupt register at `a`; its enable register is the next word. -/
def State.raise (s : State) (a i : Nat) : State :=
  let t := s.setBit a i true
  if t.rbit (a + 4) i then t.raiseVector t.summaryVector else t
/-- Adds to a 32-bit counter that saturates. -/
def State.bump (s : State) (a n : Nat) : State := s.setN a (min (s.rn a + n) 0xFFFFFFFF)
/-- Adds to a 32-bit counter that saturates, and raises CNT_FULL when it reaches 0xFFFF_FFFF. -/
def State.count (s : State) (a n st bit : Nat) : State :=
  let t := s.bump a n
  if s.rn a < 0xFFFFFFFF ∧ t.rn a = 0xFFFFFFFF then t.raise st bit else t
/-- Adds to a 64-bit counter. -/
def State.bump64 (s : State) (a n : Nat) : State := s.setPair a ((s.pair a + n) % 2 ^ 64)
/-- Sets a management event, which asserts ALERT_N where HQ_MGT_ALERT enables it (R389). -/
def State.mgtEvent (s : State) (i : Nat) : State :=
  let t := s.setBit Reg.HQ_MGT_EVENTS i true
  if t.rbit Reg.HQ_MGT_ALERT i then { t with pins := { t.pins with alert := true } } else t

/-- A free value: the next draw of the opaque stream (log 4). -/
def State.free (s : State) : Dword × State := (Config.freeValue s.freeCtr, { s with freeCtr := s.freeCtr + 1 })

/-- Answers bytes to the sender of the command. -/
def State.answer (s : State) (l : List Byte) : State := { s with resp := { bytes := l, abort := false } }
/-- The `n` low bytes of a number, least significant first. -/
def leBytes : Nat → Nat → List Byte
  | 0, _ => []
  | n + 1, v => BitVec.ofNat 8 v :: leBytes n (v / 256)
/-- The number that bytes spell, least significant first. -/
def leVal : List Byte → Nat
  | [] => 0
  | b :: t => b.toNat + 256 * leVal t

/-! Bytes of memory. -/

/-- What a byte that nothing has written reads as (R177). -/
def memReset (_ : Nat) : Byte := 0
/-- The canonical form of memory: addresses strictly rising, no entry equal to what an unlisted address reads as. -/
def Memory.wf (m : AMap Byte) : Bool := AMap.wf memReset m
/-- The byte at a device-local address. -/
def State.byte (s : State) (a : Nat) : Byte := AMap.read memReset s.mem a
/-- Stores one byte. -/
def State.setByte (s : State) (a : Nat) (b : Byte) : State := { s with mem := AMap.write memReset s.mem a b }
/-- The bytes from `a`, as they lie in memory. -/
def State.bytes (s : State) (a : Nat) : Nat → List Byte
  | 0 => []
  | n + 1 => s.byte a :: s.bytes (a + 1) n
/-- Stores bytes from `a` upward. -/
def State.setBytes (s : State) (a : Nat) : List Byte → State
  | [] => s
  | b :: t => (s.setByte a b).setBytes (a + 1) t
/-- The little-endian number of `n` bytes at `a`. -/
def State.num (s : State) (a n : Nat) : Nat := leVal (s.bytes a n)
/-- Stores a number as `n` bytes, little-endian. -/
def State.setNum (s : State) (a n v : Nat) : State := s.setBytes a (leBytes n v)

/-- The kinds of place a device-local address names (Table 08-2). -/
inductive Place8 where
  | dram (d : Nat) | cluster (i : Nat) | region (j : Nat) | aon | regs | host | none
  deriving DecidableEq, Repr

/-- The place of a device-local address (Table 08-2). -/
def placeOf (a : Nat) : Place8 :=
  if a < 0x4000000000 then (if a % 0x1000000000 < 0xC00000000 then .dram (a / 0x1000000000) else .none)
  else if 0x10000000000 ≤ a ∧ a < 0x10000000000 + 96 * 0x800000 then .cluster ((a - 0x10000000000) / 0x800000)
  else if 0x10100000000 ≤ a ∧ a < 0x10100000000 + 16 * 0x1000000 then .region ((a - 0x10100000000) / 0x1000000)
  else if 0x10200000000 ≤ a ∧ a < 0x10200000000 + 0x5000000 then .aon
  else if 0x20000000000 ≤ a ∧ a < 0x20000000000 + 0x4000000 then .regs
  else if 0x8000000000000 ≤ a ∧ a < 0x10000000000000 then .host
  else .none

/-- The first address of cluster i's store and of region j's store. -/
def clusterStore (i : Nat) : Nat := 0x10000000000 + i * 0x800000
def regionStore (j : Nat) : Nat := 0x10100000000 + j * 0x1000000
def hostWindow : Nat := 0x8000000000000
def dramBase (d : Nat) : Nat := d * 0x1000000000

/-- The bytes from `a` to `a + n - 1` lie inside one range of Table 08-2. -/
def inOnePlace (a n : Nat) : Bool :=
  placeOf a ≠ .none && (n = 0 || (placeOf (a + n - 1) = placeOf a))

/-- The channel of a DRAM address (R155). -/
def channelOf (a : Nat) : Nat := bitsAt a 14 5
/-- The cistern engine of a DRAM address. -/
def cisternOf (a : Nat) : Nat := (a / 0x1000000000) * 32 + channelOf a
/-- The frame number of a DRAM address (R155). -/
def frameOf (a : Nat) : Nat :=
  (a / 0x1000000000) * 2 ^ 22 + channelOf a * 2 ^ 17 + (a % 0x1000000000) / 2 ^ 19
/-- The first address of a frame. -/
def frameAddr (f : Nat) : Nat :=
  dramBase (bitsAt f 22 2) + bitsAt f 0 17 * 2 ^ 19 + bitsAt f 17 5 * 2 ^ 14
/-- The bank in its channel of a frame (R155). -/
def bankOf (f : Nat) : Nat := (bitsAt f 0 17 / 24576) * 16 + bitsAt f 0 17 % 16

/-- The cluster's die, region in the die and cluster in the region. -/
def clDie (i : Nat) : Nat := i / 24
def clRegion (i : Nat) : Nat := i % 24 / 6
def clInRegion (i : Nat) : Nat := i % 6
/-- The package-wide region of a cluster. -/
def clRegion16 (i : Nat) : Nat := i / 6

/-- STATUS of a matrix engine (0, 1) or the vector unit (2) of a cluster. -/
def unitStatus (cl u : Nat) : Nat := if u < 2 then Reg.ME_STATUS cl u else Reg.VEC_STATUS cl
def unitMode (cl u : Nat) : Nat := if u < 2 then Reg.ME_MODE cl u else Reg.VEC_MODE cl
def unitGraph (cl u : Nat) : Nat := if u < 2 then Reg.ME_GRAPH cl u else Reg.VEC_GRAPH cl
/-- MODE as a unit shows it: the vector unit's has no EXP_A, EXP_B and ACC_C (Table 04-11). -/
def shownMode (u : Nat) (m : Word) : Word := if u < 2 then m else m &&& 0xFFB0FFFF

/-! Structured state by number. -/

def State.strm (s : State) (h : Nat) : Stream := AMap.read (fun _ => {}) s.streams h
def State.setStrm (s : State) (h : Nat) (x : Stream) : State :=
  { s with streams := AMap.write (fun _ => {}) s.streams h x }
def State.modStrm (s : State) (h : Nat) (f : Stream → Stream) : State := s.setStrm h (f (s.strm h))
def State.core (s : State) (n : Nat) : Core := AMap.read (fun _ => {}) s.cores n
def State.setCore (s : State) (n : Nat) (x : Core) : State := { s with cores := AMap.write (fun _ => {}) s.cores n x }
/-- A core is left without an invocation; it keeps the words of its last drift evaluation (R147). -/
def State.clearCore (s : State) (n : Nat) : State :=
  s.setCore n { lastKey := (s.core n).lastKey, lastOut := (s.core n).lastOut }
/-- A core takes an invocation's registers and memory; the words of its last drift evaluation are its own. -/
def State.giveCore (s : State) (n : Nat) (c : Core) : State :=
  s.setCore n { c with lastKey := (s.core n).lastKey, lastOut := (s.core n).lastOut }
def State.cis (s : State) (e : Nat) : Cistern := AMap.read (fun _ => {}) s.cisterns e
def State.setCis (s : State) (e : Nat) (x : Cistern) : State :=
  { s with cisterns := AMap.write (fun _ => {}) s.cisterns e x }
def State.car (s : State) (e : Nat) : Caravan := AMap.read (fun _ => {}) s.caravans e
def State.setCar (s : State) (e : Nat) (x : Caravan) : State :=
  { s with caravans := AMap.write (fun _ => {}) s.caravans e x }
def State.cl (s : State) (i : Nat) : ClusterObj := AMap.read (fun _ => {}) s.objs i
def State.setCl (s : State) (i : Nat) (x : ClusterObj) : State := { s with objs := AMap.write (fun _ => {}) s.objs i x }
def State.wk (s : State) (i : Nat) : ClusterWork := AMap.read (fun _ => {}) s.work i
def State.setWk (s : State) (i : Nat) (x : ClusterWork) : State := { s with work := AMap.write (fun _ => {}) s.work i x }
def State.chan (s : State) (c : Nat) : Channel := AMap.read (fun _ => {}) s.casc.chans c
def State.setChan (s : State) (c : Nat) (x : Channel) : State :=
  { s with casc := { s.casc with chans := AMap.write (fun _ => {}) s.casc.chans c x } }
def State.arr (s : State) (a : Nat) : MicArray := AMap.read (fun _ => {}) s.casc.arrays a
def State.setArr (s : State) (a : Nat) (x : MicArray) : State :=
  { s with casc := { s.casc with arrays := AMap.write (fun _ => {}) s.casc.arrays a x } }
def State.port (s : State) (n : Nat) : Port := AMap.read (fun _ => {}) s.ports n
def State.setPort (s : State) (n : Nat) (x : Port) : State := { s with ports := AMap.write (fun _ => {}) s.ports n x }
def State.die (s : State) (d : Nat) : DiePower := AMap.read (fun _ => {}) s.pwr.dies d
def State.setDie (s : State) (d : Nat) (x : DiePower) : State :=
  { s with pwr := { s.pwr with dies := AMap.write (fun _ => {}) s.pwr.dies d x } }
/-- Work of a die: it starts the wake of a die in Night, and PWR_NIGHT_DELAY counts from it anew for one that is awake
(R476). -/
def State.dieBusy (s : State) (d : Nat) : State :=
  let x := s.die d
  s.setDie d (if x.night then { x with waking := true } else { x with busyTb := s.tb.toNat })
/-- An access to a device-local address is work of the die whose DRAM it reaches (R476). -/
def State.touchDie (s : State) (a : Nat) : State :=
  match placeOf a with
  | .dram d => s.dieBusy d
  | _ => s
def State.plane (s : State) (p : Nat) : Option Plane := AMap.read (fun _ => none) s.tck.planes p
def State.setPlane (s : State) (p : Nat) (x : Option Plane) : State :=
  { s with tck := { s.tck with planes := AMap.write (fun _ => none) s.tck.planes p x } }
def State.eport (s : State) (n : Nat) : ErgPort := AMap.read (fun _ => {}) s.fab.ports n
def State.setEport (s : State) (n : Nat) (x : ErgPort) : State :=
  { s with fab := { s.fab with ports := AMap.write (fun _ => {}) s.fab.ports n x } }
def State.mod (s : State) (k : Nat) : Moderation := AMap.read (fun _ => {}) s.mods k
def State.setMod (s : State) (k : Nat) (x : Moderation) : State := { s with mods := AMap.write (fun _ => {}) s.mods k x }

/-- Some tick plane is enabled. -/
def State.anyPlane (s : State) : Bool := (List.range 4).any (fun p => (s.plane p).isSome)
/-- The package's device ID: the granted one, or ERG_ID_REQ while the package holds no grant (R398). -/
def State.deviceId (s : State) : Nat :=
  if s.fab.granted then s.fld Reg.ERG_STATUS 16 12 else s.fld Reg.ERG_ID_REQ 0 12
/-- The global handle of a stream ID (R398, Table 12-2), and the stream a handle of this package names. -/
def State.handleOf (s : State) (id : Nat) : Nat := if id = 0xFFFFFFFF then id else s.deviceId * 2 ^ 20 + id % 2 ^ 20
def State.sidOf (s : State) (h : Nat) : Option Nat := if h / 2 ^ 20 = s.deviceId then some (h % 2 ^ 20) else none

/-! Fabric sends and snapshot triggers. -/

/-- A fabric port is up (Table 18-12). -/
def State.portUp (s : State) (n : Nat) : Bool := s.fld (Reg.ERG_Pn_STATUS n) 0 3 == 3
/-- Sends a message on a port. -/
def State.send (s : State) (n : Nat) (m : FabMsg) : State := { s with fab := { s.fab with sent := (n, m) :: s.fab.sent } }
/-- Sends a message on every port of a list that is up. -/
def State.sendAll (s : State) (m : FabMsg) : List Nat → State
  | [] => s
  | n :: t => (if s.portUp n then s.send n m else s).sendAll m t

/-- Shows the pending or held trigger in the SNP registers (Table 21-10). -/
def State.showTrigger (s : State) (t : Trigger) : State :=
  ((s.setPair Reg.SNP_TB_LO t.t).setN Reg.SNP_NUM t.num).setFld Reg.SNP_STATUS 3 3 t.source
/-- A discarded trigger counts (R462). -/
def State.missTrigger (s : State) : State := (s.bump Reg.SNP_MISSED 1).raise Reg.SNP_INT_STATUS 1
/-- A trigger becomes the pending one. -/
def State.pendTrigger (s : State) (t : Trigger) : State :=
  let s1 := { s with snap := { s.snap with pending := some t } }
  (s1.showTrigger t).setBit Reg.SNP_STATUS 0 true
/-- Offers a trigger under R462; the flag says whether it became the pending one. -/
def State.offerTrigger (s : State) (t : Trigger) : Bool × State :=
  if s.snap.held.isSome then (false, s.missTrigger)
  else match s.snap.pending with
    | none => (true, s.pendTrigger t)
    | some p => if t.t < p.t then (true, s.missTrigger.pendTrigger t) else (false, s.missTrigger)
/-- The number of a local trigger, which advances (R461). -/
def State.takeNumber (s : State) : Nat × State :=
  let c := s.fld Reg.SNP_NUM_NEXT 0 20
  let num := s.deviceId * 2 ^ 20 + c
  let s1 := { s with snap := { s.snap with seen := num :: s.snap.seen } }
  (num, s1.setN Reg.SNP_NUM_NEXT (s.deviceId * 2 ^ 20 + (c + 1) % 2 ^ 20))
/-- A locally originated trigger from a source (Table 21-8), flooded under R412 where `flood` says so. -/
def State.originate (s : State) (t source : Nat) (flood : Bool) : Bool × State :=
  let (num, s1) := s.takeNumber
  let s2 := if flood then s1.sendAll (.snap t num) (List.range 16) else s1
  s2.offerTrigger { t := t, num := num, source := source, late := decide (t < s.tb.toNat) }
/-- SNP_LEAD in force (Table 21-10). -/
def State.snapLead (s : State) : Nat := max 200 (min 10000000 (s.rn Reg.SNP_LEAD))

/-! Error reports (R452). -/

/-- A location path (Table 21-2, bytes 16 to 19). -/
def State.locPath (s : State) (die region cluster kind index : Nat) : Nat :=
  s.deviceId * 2 ^ 20 + (die % 8) * 2 ^ 17 + (region % 4) * 2 ^ 15 + (cluster % 8) * 2 ^ 12 + (kind % 64) * 2 ^ 6
    + index % 64
/-- The location path of a unit of cluster i. -/
def State.clLoc (s : State) (i kind index : Nat) : Nat := s.locPath (clDie i) (clRegion i) (clInRegion i) kind index
/-- The location path of a unit of the Oasis die. -/
def State.oasLoc (s : State) (kind index : Nat) : Nat := s.locPath 4 0 0 kind index

/-- Two windows are of the same event (R452). -/
def ErrWin.same (a b : ErrWin) : Bool :=
  a.cls == b.cls && a.code == b.code && a.skind == b.skind && a.suspect == b.suspect && (a.skind != 0 || a.loc == b.loc)
/-- The earlier of two reports, the lower location path between equals (R452). -/
def ErrWin.first (a b : ErrWin) : ErrWin := if b.tb < a.tb || (b.tb == a.tb && b.loc < a.loc) then b else a
/-- Adds a report to the first window it joins; none joins gives none. -/
def joinRegion (r : ErrWin) : List ErrWin → Option (List ErrWin)
  | [] => none
  | w :: t =>
    if w.same r && w.region == r.region && decide (r.tb ≤ w.tb + 1000) then
      some ({ w with count := w.count + r.count, loc := (w.first r).loc, snap := w.snap || r.snap } :: t)
    else (joinRegion r t).map (fun l => w :: l)
/-- A merged report fits a package window: every member within 1,000 ns after the earliest (R452). -/
def ErrWin.fits (w r : ErrWin) : Bool :=
  let lo := (r.tb :: w.members).foldl min r.tb
  w.same r && (r.tb :: w.members).all (fun m => decide (m ≤ lo + 1000))
/-- Windows in order of their instant. -/
def insertWin (r : ErrWin) : List ErrWin → List ErrWin
  | [] => [r]
  | w :: t => if r.tb < w.tb then r :: w :: t else w :: insertWin r t
/-- Adds a merged report to the package collector: to the window with the earliest instant it can join, or to a new one. -/
def joinPackage (r : ErrWin) : List ErrWin → Option (List ErrWin)
  | [] => none
  | w :: t =>
    if w.fits r then
      let f := w.first r
      some (insertWin { w with
        tb := f.tb
        loc := f.loc
        snap := f.snap
        count := w.count + r.count
        members := r.tb :: w.members } t)
    else (joinPackage r t).map (fun l => insertWin w l)
/-- A merged report reaches the package collector. -/
def State.toPackage (s : State) (r : ErrWin) : State :=
  let r' := { r with members := [r.tb] }
  let l := (joinPackage r' s.errs.packageWins).getD (insertWin r' s.errs.packageWins)
  { s with errs := { s.errs with packageWins := l } }
/-- A report that opens no window of its event: some collector already holds one it belongs to (DEDUCED, log 15). -/
def State.knownEvent (s : State) (r : ErrWin) : Bool :=
  (s.errs.regionWins ++ s.errs.packageWins).any (fun w => w.same r && decide (r.tb ≤ w.tb + 1000))
/-- The snapshot trigger of a report (Table 21-8): the first report of a selected class. -/
def State.errorTrigger (s : State) (r : ErrWin) : Bool × State :=
  if s.rbit Reg.SNP_CFG (r.cls % 16) && !s.knownEvent r then
    s.originate (r.tb + s.snapLead) 3 (s.rbit Reg.SNP_CFG 22)
  else (false, s)
/-- A report reaches the collector of its region, or from the Oasis die the package collector (R452). -/
def State.collect (s : State) (die : Nat) (r : ErrWin) : State :=
  if 4 ≤ die then s.toPackage r
  else
    let l := (joinRegion r s.errs.regionWins).getD (s.errs.regionWins ++ [r])
    { s with errs := { s.errs with regionWins := l } }
/-- A report as a unit makes it now. -/
def State.reportNow (s : State) (cls code loc skind suspect : Nat) : ErrWin :=
  { cls := cls, code := code, skind := skind, suspect := suspect % 2 ^ 60, loc := loc, tb := s.tb.toNat,
    region := bitsAt loc 17 3 * 4 + bitsAt loc 15 2 }
/-- A unit reports an error (R452), with the snapshot trigger of a selected class. -/
def State.report (s : State) (cls code loc skind suspect : Nat) : State :=
  let x := s.errorTrigger (s.reportNow cls code loc skind suspect)
  x.2.collect (bitsAt loc 17 3) { s.reportNow cls code loc skind suspect with snap := x.1 }

/-! Moderated record rings (R46, R47). -/

/-- The registers of a record ring: base, size, head, tail, drop, moderation, interrupt register, its record bit and
drop bit, the bytes of a record and the key of its moderation. -/
structure RingRegs where
  base : Nat
  size : Nat
  head : Nat
  tail : Nat
  drop : Nat
  modr : Nat
  int : Nat
  recBit : Nat
  dropBit : Nat
  recBytes : Nat
  key : Nat
  deriving DecidableEq, Repr

def ringRegs : RingId → RingRegs
  | .miss => ⟨Reg.TCK_MISS_BASE_LO, Reg.TCK_MISS_SIZE, Reg.TCK_MISS_HEAD, Reg.TCK_MISS_TAIL, Reg.TCK_MISS_DROP,
      Reg.TCK_MISS_MOD, Reg.TCK_INT_STATUS, 2, 4, 16, 0⟩
  | .cascade => ⟨Reg.RPL_EVT_BASE_LO, Reg.RPL_EVT_SIZE, Reg.RPL_EVT_HEAD, Reg.RPL_EVT_TAIL, Reg.RPL_EVT_DROP,
      Reg.RPL_EVT_MOD, Reg.RPL_INT_STATUS, 0, 1, 32, 1⟩
  | .qev d => ⟨Reg.QEV_BASE_LO d, Reg.QEV_SIZE d, Reg.QEV_HEAD d, Reg.QEV_TAIL d, Reg.QEV_DROP d,
      Reg.QEV_MOD d, Reg.QEV_INT_STATUS d, 0, 1, 16, 4 + d⟩
  | .attend a => ⟨Reg.ACF_Aa_RING_BASE_LO a, Reg.ACF_Aa_RING_SIZE a, Reg.ACF_Aa_HEAD a, Reg.ACF_Aa_TAIL a,
      Reg.ACF_Aa_DROP a, 0, Reg.ACF_INT_STATUS, 31, 8 + a, 0, 8 + a⟩

/-- The log2 size of a ring, within the range its table gives (R500). -/
def State.ringLog (s : State) : RingId → Nat
  | .attend a => max 4 (min 12 (s.fld (Reg.ACF_Aa_RING_SIZE a) 0 4))
  | r => max 8 (min 16 (s.fld (ringRegs r).size 0 5))
/-- Records in the ring: HEAD minus TAIL modulo 2^32. -/
def State.ringFill (s : State) (r : RingId) : Nat :=
  (s.rn (ringRegs r).head + 2 ^ 32 - s.rn (ringRegs r).tail) % 2 ^ 32
/-- The ring is full (R46). -/
def State.ringFull (s : State) (r : RingId) : Bool := decide (2 ^ s.ringLog r ≤ s.ringFill r)
/-- Raises a moderated cause: at once, or when the running interval ends (R46). -/
def State.raiseModerated (s : State) (int bit key interval : Nat) : State :=
  if (s.mod key).running then s.setMod key { s.mod key with due := true }
  else (s.raise int bit).setMod key (if interval = 0 then {} else { running := true, since := s.tb.toNat, span := 1000 * interval })
/-- A ring has a base and room for a record (R46, R47). -/
def State.ringTakes (s : State) (r : RingId) : Bool := s.pair (ringRegs r).base != 0 && !s.ringFull r
/-- A record that finds no room or no ring is dropped and counted (R46, R47). -/
def State.ringDrop (s : State) (r : RingId) : State := (s.bump (ringRegs r).drop 1).raise (ringRegs r).int (ringRegs r).dropBit

end Sys2Proof.Machine
end

