-- ==== Sys2Proof/Machine/Memory.lean ====
section
/-!
DEFINITION. Reading and writing memory with its error correction (R166 to R172), and the retirement of frames and
banks (R173 to R175).
-/

namespace Sys2Proof.Machine

/-- The 64-byte granules that `n` bytes at `a` touch. -/
def granulesOf (a n : Nat) : List Nat :=
  if n = 0 then [] else (List.range ((a % 64 + n + 63) / 64)).map (fun i => (a / 64 + i) * 64)
/-- Drops the oldest entries so that at most `n` remain. -/
def keepLast {α : Type} (n : Nat) (l : List α) : List α := l.drop (l.length - n)

/-! Retirement. -/

/-- The bank of a frame is retired (DMEM_BANKRETi). -/
def State.bankRetired (s : State) (f : Nat) : Bool :=
  let i := bitsAt f 17 5 * 64 + bankOf f
  s.rbit (Reg.DMEM_BANKRETi (bitsAt f 22 2) (i / 32)) (i % 32)
/-- A frame is out of use: retired, or in a retired bank. -/
def State.frameGone (s : State) (f : Nat) : Bool := s.retired.contains f || s.bankRetired f
/-- The page pool that holds a frame, and the run in use that covers it. -/
def PagePool.holds (p : PagePool) (f : Nat) : Bool :=
  p.die == bitsAt f 22 2 && decide (p.row0 ≤ bitsAt f 0 17) && decide (bitsAt f 0 17 < p.row0 + p.rows)
def PagePool.uses (p : PagePool) (f : Nat) : Bool := p.used.any (fun r => decide (r.1 ≤ f) && decide (f < r.1 + r.2))
/-- The enabled channels of a die, in order (R177). -/
def State.liveChannels (s : State) (d : Nat) : List Nat := (List.range 32).filter (fun ch => s.rbit (Reg.DMEM_CH_OK d) ch)
/-- How many channels of a die are enabled (R177). -/
def State.channels (s : State) (d : Nat) : Nat := (s.liveChannels d).length
/-- Rows that a number of 2 MiB units takes in each of `n` enabled channels (R159, R177). -/
def carveRows (n units : Nat) : Nat := 4 * ((units * 32 + n - 1) / max 1 n)
/-- A frame lies in its die's weight carve-out (R159). -/
def State.inCarve (s : State) (f : Nat) : Bool :=
  let d := bitsAt f 22 2
  s.structure_.carves.any (fun c => c.die == d && decide (bitsAt f 0 17 < carveRows (s.channels d) c.weights))
/-- The frame at place i of a die in address order, counting those of enabled channels only (R155, R177). -/
def State.liveFrame (s : State) (d i : Nat) : Nat :=
  let l := s.liveChannels d
  d * 2 ^ 22 + l.getD (i % max 1 l.length) 0 * 2 ^ 17 + i / max 1 l.length
/-- The place of a frame among those of its die's enabled channels. -/
def State.livePlace (s : State) (f : Nat) : Nat :=
  let l := s.liveChannels (bitsAt f 22 2)
  bitsAt f 0 17 * l.length + l.idxOf (bitsAt f 17 5)
/-- The pieces, as address and length, of `n` bytes from byte `off` of a weight that lies at `addr`: its bytes fill the
frames of the enabled channels in address order (DESIGN CHOICE, log 39). -/
def State.weightPieces (s : State) (addr off n : Nat) : List (Nat × Nat) :=
  let d := addr / 0x1000000000
  if (s.liveChannels d).length = 32 then [(addr + off, n)]
  else (List.range ((off % 16384 + n + 16383) / 16384)).map (fun j =>
    let lo := if j = 0 then off else (off / 16384 + j) * 16384
    (frameAddr (s.liveFrame d (s.livePlace (frameOf addr) + lo / 16384)) + lo % 16384,
      min (off + n) ((off / 16384 + j + 1) * 16384) - lo))
/-- A present weight has bytes in a range. -/
def State.weightMeets (s : State) (w : Weight) (a n : Nat) : Bool :=
  w.present && w.ref.size != 0 &&
    (s.weightPieces w.addr 0 w.ref.size).any (fun r => decide (r.1 < a + n) && decide (a < r.1 + r.2))
/-- A frame is held by a page, a weight or a host area, so that its retirement waits (R173). -/
def State.frameHeld (s : State) (f : Nat) : Bool :=
  s.structure_.pools.length != 0 &&
    (s.pools.any (fun p => p.holds f && p.uses f) || s.weights.any (fun w => s.weightMeets w (frameAddr f) 0x4000) ||
     !s.pools.any (fun p => p.holds f) && !s.inCarve f)

/-- The number of a bank among those of its die (DMEM_BANKRETi). -/
def bankNo (ch b : Nat) : Nat := ch * 64 + b
/-- A bank is lost: its bit, its count and one record (R173). -/
def State.loseBank (s : State) (d ch b : Nat) : State :=
  (((s.setBit (Reg.DMEM_BANKRETi d (bankNo ch b / 32)) (bankNo ch b % 32) true).bump (Reg.DMEM_RET_BANKS d) 1).raise
    (Reg.DMEM_INT_STATUS d) 2).report 1 5 (s.locPath d 0 0 10 0) 5 (ch + b * 32)
/-- Retires a bank that is not retired yet (R173). -/
def State.retireBank (s : State) (d ch b : Nat) : State :=
  if s.rbit (Reg.DMEM_BANKRETi d (bankNo ch b / 32)) (bankNo ch b % 32) then s else s.loseBank d ch b
/-- Takes the granules of a frame off the known-bad list of its channel (R169). -/
def State.forgetFrame (s : State) (f : Nat) : State :=
  let e := bitsAt f 17 7
  s.setCis e { s.cis e with bad := (s.cis e).bad.filter (fun a => frameOf a != f) }
/-- Frames retired of one die. -/
def State.retiredOf (s : State) (d : Nat) : List Nat := s.retired.filter (fun f => bitsAt f 22 2 == d)
/-- A frame joins the retired list; the list of a die holds 4,096. -/
def State.listRetired (s : State) (f : Nat) : State :=
  { s.forgetFrame f with retired := s.retired ++ [f], retireDue := s.retireDue.filter (fun g => g != f) }
/-- DMEM_RET_FRAMES shows how many are retired, and the list's end is flagged. -/
def State.showRetired (s : State) (d : Nat) : State :=
  let s1 := s.setN (Reg.DMEM_RET_FRAMES d) (s.retiredOf d).length
  if (s.retiredOf d).length = 4096 then (s1.setBit (Reg.DMEM_STATUS d) 1 true).raise (Reg.DMEM_INT_STATUS d) 3 else s1
/-- Retired frames of a frame's bank. -/
def State.bankLosses (s : State) (f : Nat) : Nat :=
  (s.retired.filter (fun g => bitsAt g 17 7 == bitsAt f 17 7 && bankOf g == bankOf f)).length
/-- A bank that has lost as many frames as its threshold retires. -/
def State.checkBank (s : State) (f : Nat) : State :=
  if max 1 (s.fld (Reg.DMEM_BANK_THRESH (bitsAt f 22 2)) 0 8) ≤ s.bankLosses f then
    s.retireBank (bitsAt f 22 2) (bitsAt f 17 5) (bankOf f) else s
/-- Retires a free frame (R173, R175). -/
def State.retireFrame (s : State) (f : Nat) : State :=
  if s.frameGone f then s.forgetFrame f
  else if 4096 ≤ (s.retiredOf (bitsAt f 22 2)).length then
    (s.forgetFrame f).retireBank (bitsAt f 22 2) (bitsAt f 17 5) (bankOf f)
  else ((s.listRetired f).showRetired (bitsAt f 22 2)).checkBank f
/-- A frame that has just become free retires if it is due (R173). -/
def State.retireIfDue (s : State) (f : Nat) : State :=
  if s.retireDue.contains f || (s.cis (bitsAt f 17 7)).bad.any (fun a => frameOf a == f) then s.retireFrame f else s
def State.retireRun (s : State) (f : Nat) : Nat → State
  | 0 => s
  | n + 1 => (s.retireIfDue f).retireRun (f + 1) n

/-! Blocks in the index of full blocks (R241, R246, R247). -/

/-- The buckets of the index, and the bucket of a hash. -/
def State.pfxBuckets (s : State) : Nat := 2 ^ max 10 (min 24 (s.fld Reg.KVC_PFX_SIZE 0 5))
def State.bucket (s : State) (h : Nat) : Nat := s.pair Reg.KVC_PFX_BASE_LO + (h % s.pfxBuckets) * 64
/-- Addresses of a bucket's four entries. -/
def State.bucketEntries (s : State) (h : Nat) : List Nat := (List.range 4).map (fun i => s.bucket h + 16 * i)
def State.entryValid (s : State) (a : Nat) : Bool := bitAt (s.num (a + 14) 1) 7
/-- The record address of an entry: bits 51:6. -/
def State.entryRec (s : State) (a : Nat) : Nat := s.num (a + 8) 6 * 64
def State.recIndexed (s : State) (r : Nat) : Bool := bitAt (s.num (r + 24) 1) 6
/-- Pages a record names. -/
def State.recPages (s : State) (r : Nat) : List Nat := (List.range (s.num (r + 26) 2)).map (fun g => s.num (r + 576 + 4 * g) 4)
/-- The indexed records, among those that sequences hold, whose pages hold a frame. -/
def State.recsNaming (s : State) (f : Nat) : List Nat :=
  let page := (s.pools.findSome? (fun p => p.used.find? (fun r => decide (r.1 ≤ f) && decide (f < r.1 + r.2)))).map (fun r => r.1)
  ((s.streams.flatMap (fun e => e.2.kv.recs.map (fun r => r.2))).eraseDups).filter (fun r =>
    s.recIndexed r && (match page with | some p => (s.recPages r).contains p | none => false))
/-- Takes blocks out of the index: INDEXED of the record is cleared, and its entry is zero. The part reads and checks
nothing to do so (DESIGN CHOICE, log 38). -/
def dropIndex (l : List Nat) (s : State) : State :=
  l.foldl (fun u r =>
    let v := u.setBytes (r + 24) (leBytes 1 (putBits (u.num (r + 24) 1) 6 1 0))
    match (v.bucketEntries (v.num r 8)).find? (fun a => v.entryValid a && v.entryRec a == r) with
    | some a => v.setBytes a (List.replicate 16 0)
    | none => v) s

/-! Detection. -/

/-- The 16-bit symbols of the DRAM granule at `a` that are in error (R166). -/
def State.faulty (s : State) (a : Nat) : List Nat := (s.cond.symbols.filter (fun c => c / 64 * 64 == a)).eraseDups
/-- The granule is on the known-bad list of its channel (R169). -/
def State.listed (s : State) (a : Nat) : Bool := (s.cis (cisternOf a)).bad.contains a
/-- The symbol code corrects an error in one symbol and detects one in two; one in more may go undetected, and the bytes
then read as they lie (R166, log 6). -/
def State.granSeen (s : State) (a : Nat) : Bool :=
  (s.faulty a).length == 2 || (decide (2 < (s.faulty a).length) && Config.codeSees (s.faulty a))
/-- A DRAM granule reads as uncorrectable: its code sees an error that it cannot correct, or it is on the known-bad list
(R169, R171). -/
def State.granBad (s : State) (a : Nat) : Bool := s.granSeen a || s.listed a
/-- A DRAM granule holds a correctable error. -/
def State.granWeak (s : State) (a : Nat) : Bool := (s.faulty a).length == 1 && !s.listed a
/-- The bits in error of the 64-bit SRAM word at `w`, and what its code makes of them (R166). -/
def State.badBits (s : State) (w : Nat) : List Nat := ((s.cond.bits.filter (fun b => b.1 == w)).map (fun b => b.2)).eraseDups
def State.wordWeak (s : State) (w : Nat) : Bool := (s.badBits w).length == 1
def State.wordBad (s : State) (w : Nat) : Bool :=
  (s.badBits w).length == 2 || (decide (2 < (s.badBits w).length) && Config.codeSees (w :: s.badBits w))
/-- The 64-bit words of the granule at `a`, and those that are uncorrectable. -/
def granWords (a : Nat) : List Nat := (List.range 8).map (fun i => a + 8 * i)
def State.badWords (s : State) (a : Nat) : List Nat := (granWords a).filter s.wordBad
/-- The counts of a first detection in die d at engine e. -/
def State.countUe (s : State) (d e a : Nat) : State :=
  let s1 := ((s.bump64 (Reg.DMEM_UE_LO d) 1).setPair (Reg.DMEM_LAST_UE_LO d) a).raise (Reg.DMEM_INT_STATUS d) 1
  (s1.count (Reg.CIS_UE e) 1 (Reg.CIS_INT_STATUS e) 2).raise (Reg.CIS_INT_STATUS e) 0
/-- The frames of granules that leave a full known-bad list stay due for retirement (R173). -/
def State.keepDue (s : State) (l : List Nat) : List Nat :=
  s.retireDue ++ ((l.map frameOf).eraseDups).filter (fun f => !s.retireDue.contains f && !s.frameGone f)
/-- The granule joins its channel's list, whose oldest entry leaves a full one, and marks what it meets. -/
def State.putBad (s : State) (a : Nat) : State :=
  let l := (s.cis (cisternOf a)).bad ++ [a]
  { s.setCis (cisternOf a) { s.cis (cisternOf a) with bad := keepLast 32 l } with
    retireDue := s.keepDue (l.take (l.length - 32))
    weights := s.weights.map (fun w => if s.weightMeets w a 64 then { w with damaged := true } else w) }
/-- A granule enters the known-bad list of its channel, whose oldest entry leaves a full list; a weight that holds it is
DAMAGED, and a block whose page holds it leaves the index (R169, R174, R247). -/
def State.listBad (s : State) (a : Nat) : State := dropIndex (s.recsNaming (frameOf a)) (s.putBad a)
/-- A first detection: it enters the list, counts and is recorded (R169, R170). -/
def State.noteUe (s : State) (a : Nat) (ctl : Bool) : State :=
  ((s.listBad a).countUe (a / 0x1000000000) (cisternOf a) a).report 1 (if ctl then 2 else 1)
    (s.locPath (a / 0x1000000000) 0 0 9 (cisternOf a % 32)) 1 a
/-- An uncorrectable DRAM granule is found: a listed one does nothing more (R169), and the frame of another retires unless
it is held (R173). -/
def State.detectDram (s : State) (a : Nat) (ctl : Bool) : State :=
  if (s.cis (cisternOf a)).bad.contains a then s
  else if (s.noteUe a ctl).frameHeld (frameOf a) then s.noteUe a ctl
  else (s.noteUe a ctl).retireFrame (frameOf a)
/-- The count of an uncorrectable SRAM word: at the die that holds the store, or in RPL_AON_UE (R172). -/
def State.countSramUe (s : State) (a : Nat) : State :=
  match placeOf a with
  | .cluster i => (s.bump (Reg.DMEM_SRAM_UE (i / 24)) 1).raise (Reg.DMEM_INT_STATUS (i / 24)) 1
  | .region j => (s.bump (Reg.DMEM_SRAM_UE (j / 4)) 1).raise (Reg.DMEM_INT_STATUS (j / 4)) 1
  | _ => s.count Reg.RPL_AON_UE 1 Reg.RPL_INT_STATUS 2
/-- An uncorrectable SRAM word at `w` is counted, and recorded for the unit that read it (R172). -/
def State.detectSram (s : State) (w loc : Nat) : State := (s.countSramUe w).report 1 3 loc 1 w
/-- Every uncorrectable word of a granule that a read finds (R172). -/
def detectWords (loc : Nat) (s : State) : List Nat → State
  | [] => s
  | w :: t => detectWords loc (s.detectSram w loc) t
/-- The count of a correctable error (R167). -/
def State.countCe (s : State) (a : Nat) : State :=
  match placeOf a with
  | .dram d => (s.bump64 (Reg.DMEM_CE_LO d) 1).count (Reg.CIS_CE (cisternOf a)) 1 (Reg.CIS_INT_STATUS (cisternOf a)) 2
  | .cluster i => s.bump (Reg.DMEM_SRAM_CE (i / 24)) 1
  | .region j => s.bump (Reg.DMEM_SRAM_CE (j / 4)) 1
  | _ => s
/-- The corrected granule is written back, so that its cells hold no error. -/
def State.heal (s : State) (a : Nat) : State :=
  { s with cond := { s.cond with symbols := s.cond.symbols.filter (fun c => c / 64 * 64 != a) } }
/-- A corrected SRAM word is written back. -/
def State.healWord (s : State) (w : Nat) : State :=
  { s with cond := { s.cond with bits := s.cond.bits.filter (fun b => b.1 != w) } }
/-- The correctable words of a list are corrected, written back and counted (R167). -/
def correctWords (s : State) : List Nat → State
  | [] => s
  | w :: t => correctWords (if s.wordWeak w then (s.healWord w).countCe w else s) t
/-- The correctable errors of a granule are corrected, written back and counted (R167). -/
def State.correct (s : State) (a : Nat) : State :=
  match placeOf a with
  | .dram _ => if s.granWeak a then (s.heal a).countCe a else s
  | .cluster _ | .region _ | .aon => correctWords s (granWords a)
  | _ => s

/-! Reads. -/

/-- What a read gives: the bytes, how many granules were delivered as zeros, whether it failed (an address in no
range, or a host page whose translation fails), and the state after. -/
structure Rd where
  bytes : List Byte
  zeroed : Nat
  failed : Bool
  st : State

/-- Reads one granule as data: an uncorrectable one is delivered as zeros (R168, R172). -/
def State.readGran (s : State) (a loc : Nat) : List Byte × Bool × State :=
  let s := s.correct a
  match placeOf a with
  | .dram d =>
    if s.granBad a then (List.replicate 64 0, true, (s.detectDram a false).bump64 (Reg.DMEM_UE_READ_LO d) 1)
    else (s.bytes a 64, false, s)
  | .cluster _ | .region _ | .aon =>
    if (s.badWords a).isEmpty then (s.bytes a 64, false, s)
    else (List.replicate 64 0, true, detectWords loc s (s.badWords a))
  | _ => (s.bytes a 64, false, s)
def State.readGrans (s : State) (loc : Nat) : List Nat → List Byte × Nat × State
  | [] => ([], 0, s)
  | a :: t =>
    let (b, z, s1) := s.readGran a loc
    let (bs, n, s2) := s1.readGrans loc t
    (b ++ bs, b2n z + n, s2)
/-- Every host page of a range translates. -/
def State.hostOk (s : State) (a n : Nat) : Bool :=
  s.cond.hostFail.all (fun p => decide (p * 4096 + 4096 ≤ a % hostWindow) || decide (a % hostWindow + n ≤ p * 4096))
/-- Reads `n` bytes at `a` as data for the unit at `loc`. -/
def State.readData (s : State) (loc a n : Nat) : Rd :=
  if n = 0 then ⟨[], 0, false, s⟩
  else if !inOnePlace a n then ⟨[], 0, true, s⟩
  else if hostWindow ≤ a then
    (if s.hostOk a n then ⟨s.bytes a n, 0, false, s⟩ else ⟨[], 0, true, s⟩)
  else
    let (b, z, s1) := s.readGrans loc (granulesOf a n)
    ⟨(b.drop (a % 64)).take n, z, false, s1⟩
/-- Reads a control structure: an uncorrectable granule fails the work and is recorded as metadata (R170, R172). -/
def State.readCtl (s : State) (loc a n : Nat) : Rd :=
  if !inOnePlace a n then ⟨[], 0, true, s⟩
  else if hostWindow ≤ a then
    (if s.hostOk a n then ⟨s.bytes a n, 0, false, s⟩ else ⟨[], 0, true, s⟩)
  else
    let g := granulesOf a n
    let s1 := g.foldl State.correct s
    match g.find? (fun x => match placeOf x with | .dram _ => s1.granBad x | _ => !(s1.badWords x).isEmpty) with
    | some x => ⟨[], 0, true, match placeOf x with
      | .dram _ => s1.detectDram x true
      | _ => detectWords loc s1 (s1.badWords x)⟩
    | none => ⟨s1.bytes a n, 0, false, s1⟩

/-- Granules of a range that are delivered as zeros. -/
def State.badIn (s : State) (a n : Nat) : List Nat :=
  if !inOnePlace a n then [] else (granulesOf a n).filter (fun g => match placeOf g with
    | .dram _ => s.granBad g
    | .cluster _ | .region _ | .aon => !(s.badWords g).isEmpty
    | _ => false)

/-! Pages: n frames with consecutive fic values in one channel (R233). -/

/-- The address of byte `b` of the page whose first frame is `f`. -/
def pageByte (f b : Nat) : Nat := frameAddr (f + b / 16384) + b % 16384
/-- The pieces of a range of a page, as (address, bytes). -/
def pageRuns (f off n : Nat) : List (Nat × Nat) :=
  (List.range ((off % 16384 + n + 16383) / 16384)).map (fun i =>
    let lo := if i = 0 then off else (off / 16384 + i) * 16384
    (pageByte f lo, min (off + n) ((off / 16384 + i + 1) * 16384) - lo))
/-- Reads pieces as data for the unit at `loc`. -/
def State.readRuns (s : State) (loc : Nat) : List (Nat × Nat) → Rd
  | [] => ⟨[], 0, false, s⟩
  | (a, n) :: t =>
    let r := s.readData loc a n
    let u := r.st.readRuns loc t
    ⟨r.bytes ++ u.bytes, r.zeroed + u.zeroed, r.failed || u.failed, u.st⟩

/-! Writes. -/

/-- Before a partial write of a granule the unit at `loc` reads it; unwritten bytes of an uncorrectable one become zero
(R171, R172). -/
def State.prepareGran (s : State) (loc a : Nat) : State :=
  let s := s.correct a
  match placeOf a with
  | .dram _ => if s.granBad a then (s.detectDram a false).setBytes a (List.replicate 64 0) else s
  | .cluster _ | .region _ | .aon =>
    if (s.badWords a).isEmpty then s else (detectWords loc s (s.badWords a)).setBytes a (List.replicate 64 0)
  | _ => s
/-- A symbol or word lies in one of the granules from `lo` to `hi`. -/
def inGranules (lo hi c : Nat) : Bool := decide (lo ≤ c) && decide (c < hi + 64)
/-- Whole granules are written: new check symbols, over cells that hold the new data or do not, each as a free value says
(R171, log 6). A write that meets no cell in error draws none. -/
def State.freshCells (s : State) (lo hi : Nat) : State :=
  if s.cond.symbols.any (inGranules lo hi) || s.cond.bits.any (fun b => inGranules lo hi b.1) then
    let (z, s1) := s.free
    { s1 with cond := { s1.cond with
      symbols := s1.cond.symbols.filter (fun c => !inGranules lo hi c || bitAt z.toNat (c / 2 % 32))
      bits := s1.cond.bits.filter (fun b => !inGranules lo hi b.1 || bitAt z.toNat (32 + (b.1 / 8 + b.2) % 32)) } }
  else s
/-- The unit at `loc` stores bytes under R171; a range outside Table 08-2 stores nothing, nor do bytes reach register
space (R157). -/
def State.writeData (s : State) (loc a : Nat) (l : List Byte) : State :=
  if l = [] then s
  else if !inOnePlace a l.length || placeOf a == .regs then s
  else
    let first := a / 64 * 64
    let last := (a + l.length - 1) / 64 * 64
    let s1 := if a % 64 ≠ 0 then s.prepareGran loc first else s
    let s2 := if (a + l.length) % 64 ≠ 0 ∧ (last ≠ first ∨ a % 64 = 0) then s1.prepareGran loc last else s1
    (s2.setBytes a l).freshCells first last
/-- Stores bytes over pieces. -/
def State.writeRuns (s : State) (loc : Nat) : List (Nat × Nat) → List Byte → State
  | [], _ => s
  | (a, n) :: t, l => (s.writeData loc a (l.take n)).writeRuns loc t (l.drop n)
/-- Stores bytes at byte `off` of a page. -/
def State.writePage (s : State) (loc f off : Nat) (l : List Byte) : State := s.writeRuns loc (pageRuns f off l.length) l

/-! Records in moderated rings (R46, R47). -/

/-- The unit that writes a record ring (Table 21-3). -/
def State.ringLoc (s : State) : RingId → Nat
  | .miss => s.oasLoc 20 0
  | .cascade => s.oasLoc 21 0
  | .qev d => s.locPath d 0 0 7 0
  | .attend _ => s.oasLoc 23 0
/-- The record with count HEAD is written, and HEAD advances (R46). -/
def State.ringWrite (s : State) (r : RingId) (b : List Byte) : State :=
  let g := ringRegs r
  let h := s.rn g.head
  (s.writeData (s.ringLoc r) (s.pair g.base + h % 2 ^ s.ringLog r * g.recBytes) b).setN g.head (h + 1)
/-- A record goes to its ring, or is dropped and counted while the ring is full or has no base (R46, R47). -/
def State.ringPut (s : State) (r : RingId) (b : List Byte) : State :=
  let g := ringRegs r
  if s.ringTakes r then (s.ringWrite r b).raiseModerated g.int g.recBit g.key (s.fld g.modr 0 16) else s.ringDrop r

end Sys2Proof.Machine
end

