-- ==== Sys2Proof/Machine/CmdTime.lean ====
section
/-!
DEFINITION. Meanings of the timebase, tick and record-ring commands (chapter 02).
-/

namespace Sys2Proof.Machine

/-! Planes. -/

/-- The grain rate a GRAIN code stands for (Table 02-7). -/
def grainRate (c : Nat) : Nat := [8000, 16000, 24000, 32000, 44100, 48000].getD c 8000
/-- Frames per ten seconds by FRAME code: 2.5, 5, 10, 20 ms. -/
def framesPer10s (c : Nat) : Nat := [4000, 2000, 1000, 500].getD c 4000
/-- G, the grain ticks of a frame tick (R32). -/
def grainsPerFrame (grain frame : Nat) : Nat := grainRate grain * 10 / framesPer10s frame
/-- A plane record keeps R32: a known rate, and a whole number of grains per frame. -/
def PlaneRec.legal (r : PlaneRec) : Bool :=
  decide (r.plane < 4) && decide (r.grain < 6) && decide (r.frame < 4) && decide (1 ≤ r.late) && decide (r.late < 16) &&
  (r.grain != 4 || (r.frame == 2 || r.frame == 3))
/-- A plane as R33 positions it when it is enabled at timebase t. -/
def planeAt (r : PlaneRec) (t : Nat) : Plane :=
  let f := grainRate r.grain
  let n := t * f / 1000000000 + 1
  { f := f, g := grainsPerFrame r.grain r.frame, late := r.late, n := n, acc := (n * 1000000000) % f,
    next := n * 1000000000 / f, run := false, given := [] }
/-- A plane after its grain tick n (R33, R34). -/
def Plane.tick (x : Plane) : Plane :=
  let acc := x.acc + 1000000000 % x.f
  let next := x.next + 1000000000 / x.f
  { x with
    n := x.n + 1
    acc := if x.f ≤ acc then acc - x.f else acc
    next := if x.f ≤ acc then next + 1 else next
    run := x.run || x.n % x.g == 0 }
/-- The count of the last tick of a kind (Table 02-3): grain n, or floor(n / G). -/
def Plane.count (x : Plane) (frame : Bool) : Nat := if frame then (x.n - 1) / x.g else x.n - 1
/-- The edge of a tick (R33). -/
def Plane.edge (x : Plane) (frame : Bool) (n : Nat) : Nat := (if frame then n * x.g else n) * 1000000000 / x.f
/-- The current tick count of a plane and kind; 0 for a plane that is not enabled. -/
def State.tickCount (s : State) (p : Nat) (frame : Bool) : Nat :=
  match s.plane p with
  | some x => x.count frame
  | none => 0

/-! The timebase source. -/

/-- SRC as it acts: 3 acts as 0 (Table 02-4). -/
def State.tckSrc (s : State) : Nat := if s.fld Reg.TCK_CTRL 0 2 = 3 then 0 else s.fld Reg.TCK_CTRL 0 2
/-- TCK_SLEW in force: values above 200 act as 200. -/
def State.slewLimit (s : State) : Nat := min 200 (s.fld Reg.TCK_SLEW 0 8)
/-- A write of TCK_CTRL's stored fields: SRC and PPS_EDGE. A new source has compared no edge (R27) and is not yet locked
to; where it is 1 and no holdover is in progress, REF_TB toggles, since its loss would be one (DEDUCED, log 33). HOLDOVER,
SLEWING and a slew in progress stay as they are, which the spec leaves open (DESIGN CHOICE, log 33). -/
def State.setTckCtrl (s : State) (v : Word) : State :=
  let s1 := s.setN Reg.TCK_CTRL (bitsAt v.toNat 0 2 + bitsAt v.toNat 8 1 * 256)
  let s2 := s1.setFld Reg.TCK_STATUS 0 2 s1.tckSrc
  if s1.tckSrc = s.tckSrc then s2
  else
    let s3 := s2.setBit Reg.TCK_STATUS 2 false
    let s4 := if s1.tckSrc = 1 && !s.rbit Reg.TCK_STATUS 3 then s3.setBit Reg.TCK_STATUS 12 true else s3
    { s4 with tck := { s4.tck with expected := none } }
/-- LOCKED follows the measured offset; a rise raises LOCK_GAIN (Tables 02-5, 02-6). -/
def State.setLocked (s : State) (b : Bool) : State :=
  let s1 := s.setBit Reg.TCK_STATUS 2 b
  if b && !s.rbit Reg.TCK_STATUS 2 then s1.raise Reg.TCK_INT_STATUS 1 else s1
/-- Corrects an offset (timebase minus expected value) under R28: one forward step while no plane is enabled,
otherwise a slew, which takes the place of one in progress; an offset of 0 or one that is stepped leaves a slew in
progress as it is. What a new offset does to a slew in progress the spec leaves open (DESIGN CHOICE, log 33). -/
def State.correctTb (s : State) (off : Int) : State :=
  if off = 0 then s
  else if !s.anyPlane && decide (off < 0) then { s with tb := s.tb + BitVec.ofNat 64 off.natAbs }
  else ({ s with tck := { s.tck with slew := -off } }).setBit Reg.TCK_STATUS 4 true
/-- A signed value saturated to +-(2^31 - 1), as a register word. -/
def satOffset (x : Int) : Word := BitVec.ofInt 32 (max (-2147483647) (min 2147483647 x))
/-- Compares an edge with the value it was expected at (R26, R27). -/
def State.comparePps (s : State) (e : Dword) : State :=
  let off : Int := (s.tb.toNat : Int) - e.toNat
  let s1 := (s.setReg Reg.TCK_OFFSET (satOffset off)).setBit Reg.TCK_STATUS 14 false
  let s2 := { s1 with tck := { s1.tck with expected := some (e + 1000000000#64) } }
  (s2.setLocked (decide (off.natAbs ≤ Config.lockTolerance))).correctTb off

/-- PPS_EPOCH_WRITE (R27). A write of either word arms the epoch, so that an edge between the two writes consumes the
value as it then stands; the spec does not say which write arms it (DESIGN CHOICE, log 33). -/
def doPpsEpochWrite (hi : Bool) (v : Word) (s : State) : State :=
  (s.setReg (if hi then Reg.TCK_PPS_EPOCH_HI else Reg.TCK_PPS_EPOCH_LO) v).setBit Reg.TCK_STATUS 14 true
def execPpsEpochWrite (hi : Bool) (v : Word) (s : State) : Host.Outcome State Fault Refusal :=
  .next (s.live (doPpsEpochWrite hi v))

/-- PPS_EDGE (R26, R27): the edge that TCK_CTRL.PPS_EDGE selects is recorded, and consumes an armed epoch; it is compared
where SRC is 1 and an epoch is armed or an earlier edge was compared. -/
def doPpsEdge (rising : Bool) (s : State) : State :=
  if s.rbit Reg.TCK_CTRL 8 = rising then s
  else
    let s1 := (s.setPair Reg.TCK_PPS_LAST_LO s.tb.toNat).setBit Reg.TCK_STATUS 13 true
    if s.tckSrc ≠ 1 then s1.setBit Reg.TCK_STATUS 14 false
    else if s.rbit Reg.TCK_STATUS 14 then s1.comparePps (BitVec.ofNat 64 (s.pair Reg.TCK_PPS_EPOCH_LO))
    else match s.tck.expected with
      | some e => s1.comparePps e
      | none => s1
def execPpsEdge (rising : Bool) (s : State) : Host.Outcome State Fault Refusal := .next (s.live (doPpsEdge rising))

/-- HOLDOVER_ENTER (R29): for the selected source, holdover begins once; the presence bits fall. -/
def doHoldoverEnter (c : HoldCause) (s : State) : State :=
  let s1 := match c with
    | .pps => s.setBit Reg.TCK_STATUS 13 false
    | .refTb => s.setBit Reg.TCK_STATUS 12 false
    | .fabric => s
  let applies := match c with
    | .pps => s.tckSrc == 1
    | .refTb => s.tckSrc == 1
    | .fabric => s.tckSrc == 2
  if !applies || s.rbit Reg.TCK_STATUS 3 then s1
  else ((s1.setBit Reg.TCK_STATUS 3 true).setLocked false).raise Reg.TCK_INT_STATUS 0
def execHoldoverEnter (c : HoldCause) (s : State) : Host.Outcome State Fault Refusal := .next (s.live (doHoldoverEnter c))

/-- HOLDOVER_EXIT (R29): the source is back and the accumulated offset is corrected under R28. -/
def doHoldoverExit (off : Int) (s : State) : State :=
  if !s.rbit Reg.TCK_STATUS 3 then s
  else
    let s1 := (s.setBit Reg.TCK_STATUS 3 false).setReg Reg.TCK_OFFSET (satOffset off)
    let s2 := if s.tckSrc = 1 then s1.setBit Reg.TCK_STATUS 12 true else s1
    (s2.setLocked (decide (off.natAbs ≤ Config.lockTolerance))).correctTb off
def execHoldoverExit (off : Int) (s : State) : Host.Outcome State Fault Refusal := .next (s.live (doHoldoverExit off))

/-- The time in ns that the slew in progress takes at the rate of TCK_SLEW, in parts per million (R28). -/
def State.slewTime (s : State) : Nat := (s.tck.slew.natAbs * 1000000 + s.slewLimit - 1) / max 1 s.slewLimit
/-- SLEW_COMPLETE (R28): the offset is absorbed at the rate of TCK_SLEW. The command stands for the time that this
takes: the timebase advances by that time and by the offset. At a rate of 0 ppm nothing is ever absorbed (DEDUCED,
log 33). -/
def doSlewComplete (s : State) : State :=
  if s.rbit Reg.TCK_STATUS 4 && (s.tck.slew == 0 || s.slewLimit != 0) then
    ({ s with
      tb := s.tb + BitVec.ofInt 64 (s.slewTime + s.tck.slew)
      tck := { s.tck with slew := 0 } }).setBit Reg.TCK_STATUS 4 false
  else s
def execSlewComplete (s : State) : Host.Outcome State Fault Refusal := .next (s.live doSlewComplete)

/-- TB_LOAD (R31): a write of TCK_CTRL; with TB_LOAD set it loads the timebase, or is refused while a plane is enabled.
A slew in progress and the value expected of the next PPS edge stay as they are, which the spec leaves open (DESIGN
CHOICE, log 33). -/
def doTbLoad (v : Word) (s : State) : State :=
  let s1 := s.setTckCtrl v
  if !bitAt v.toNat 4 then s1
  else if s.anyPlane then s1.raise Reg.TCK_INT_STATUS 5
  else { s1 with tb := BitVec.ofNat 64 (s.pair Reg.TCK_TB_SET_LO) }
def execTbLoad (v : Word) (s : State) : Host.Outcome State Fault Refusal := .next (s.live (doTbLoad v))

/-! Ticks. -/

/-- A frame tick of the switch plane counts toward the drain limit (R68); after the drain's end it is the switch's (R67). -/
def State.countDrain (s : State) (p : Nat) : State :=
  match s.load with
  | some l => if s.fld Reg.SPL_STATUS 8 3 = 4 ∧ s.fld Reg.SPL_SWITCH_PLANE 0 2 = p then
      { s with load := some { l with
        drainTicks := l.drainTicks + 1
        due := l.drained } } else s
  | none => s
/-- The timebase reaches the plane's next edge (R33, R34). -/
def tickPlane (p : Fin 4) (s : State) : State :=
  match s.plane p with
  | none => s
  | some x =>
    let s1 := { s with tb := if s.tb.toNat < x.next then BitVec.ofNat 64 x.next else s.tb }
    let s2 := (s1.setPlane p (some x.tick)).setBit Reg.TCK_STATUS (8 + p) x.tick.run
    if x.n % x.g = 0 then s2.countDrain p else s2

/-- What a unit saves of its operation as it yields: what its registers show, and the place it stopped at and its tree
nodes not yet combined, which are free values (R95, R96, log 35). -/
def State.saveOp (s : State) (cl u : Nat) (o : SavedOp) : SavedOp × State :=
  let (a, s1) := s.free
  let (b, s2) := s1.free
  ({ o with
    mode := s.reg (unitMode cl u)
    graph := s.rn (unitGraph cl u)
    status := s.rn (unitStatus cl u)
    position := a.toNat % 2 ^ 16
    weightTile := a.toNat / 2 ^ 16 % 2 ^ 16
    pass := a.toNat / 2 ^ 32
    nodes := [(b.toNat / 2 ^ 32, [BitVec.ofNat 32 b.toNat])] }, s2)
/-- The item of a stream waits again (R355, R359). -/
def State.itemWaits (s : State) (h : Nat) : State :=
  { s with place := { s.place with items := s.place.items.map (fun i => if i.handle = h then { i with running := false } else i) } }
/-- Work of the cluster that is not grain-bound and is running yields (R38, R96): its place is saved, its unit is idle, its
step waits and so does its item. STATE shows SAVE only within the command (log 35). -/
def yieldOp (cl : Nat) (s : State) (u : Nat) (o : SavedOp) : State :=
  let (o1, s') := s.saveOp cl u o
  let w := s'.wk cl
  let s0 := s'.setWk cl { w with running := AMap.write (fun _ => none) w.running u none, saved := w.saved ++ [o1] }
  let s1 := (s0.setN (unitStatus cl u) 0).setN (unitMode cl u) 0
  let s2 := (s1.modStrm o.handle (fun x => { x with step := x.step.map (fun r => { r with yielded := true }) })).itemWaits o.handle
  if u < 2 then s2.count (Reg.ME_PREEMPT cl u) 1 (Reg.ME_INT_STATUS cl u) 2
  else s2.count (Reg.VEC_PREEMPT cl) 1 (Reg.VEC_INT_STATUS cl) 2
/-- The graph of a stream. -/
def State.graphOf (s : State) (id : Nat) : Option Graph := s.structure_.graphs.find? (fun g => g.id == id)
/-- A stream's steps are bound to grain ticks. -/
def State.grainBound (s : State) (h : Nat) : Bool :=
  match s.graphOf (s.strm h).graph with
  | some g => g.ticked && !g.frame
  | none => false
def yieldAll (cl : Nat) (s : State) : List Nat → State
  | [] => s
  | u :: t =>
    match AMap.read (fun _ => none) (s.wk cl).running u with
    | some o => yieldAll cl (if s.grainBound o.handle then s else yieldOp cl s u o) t
    | none => yieldAll cl s t
/-- The tick reaches the cluster (R35, R52), and the budget's cycles of the tick that ended are shown. -/
def deliverTick (cl : Fin 96) (p : Fin 4) (frame : Bool) (used : Nat) (s : State) : State :=
  match s.plane p with
  | none => s
  | some x =>
    let b := 2 * p.val + b2n frame
    let s1 := s.setPlane p (some { x with given := AMap.write (fun _ => 0) x.given (2 * cl.val + b2n frame) (x.count frame) })
    let s2 := s1.setN (Reg.TBG_USED cl b) (min used 0xFFFFFFFF)
    if s2.rn (Reg.TBG_PEAK cl b) < s2.rn (Reg.TBG_USED cl b) then
      s2.setReg (Reg.TBG_PEAK cl b) (s2.reg (Reg.TBG_USED cl b)) else s2

/-- TBG_PEAK_CLEAR (R52). -/
def doTbgPeakClear (cl : Fin 96) (b : Fin 8) (s : State) : State := s.setReg (Reg.TBG_PEAK cl b) 0
def execTbgPeakClear (cl : Fin 96) (b : Fin 8) (s : State) : Host.Outcome State Fault Refusal :=
  .next (s.live (doTbgPeakClear cl b))

/-! Record rings. -/

/-- A new TAIL lies between HEAD and HEAD minus the ring's size (R46). -/
def State.tailOk (s : State) (r : RingId) (v : Word) : Bool :=
  decide ((s.reg (ringRegs r).head - v).toNat ≤ 2 ^ s.ringLog r)
/-- RING_TAIL_WRITE (R46, R47). -/
def doRingTailWrite (r : RingId) (v : Word) (s : State) : State :=
  if s.tailOk r v then s.setReg (ringRegs r).tail v else s
def execRingTailWrite (r : RingId) (v : Word) (s : State) : Host.Outcome State Fault Refusal :=
  .next (s.live (doRingTailWrite r v))

/-- The end of a moderation interval: records written during it raise one interrupt, which starts the next interval. -/
def State.endInterval (s : State) (int bit key : Nat) : State :=
  let m := s.mod key
  if !m.running then s
  else
    let t := s.reach (m.since + m.span)
    if m.due then (t.raise int bit).setMod key { m with
      due := false
      since := t.tb.toNat }
    else t.setMod key {}
/-- EVENT_MOD_INTERVAL_END (R46, R47). The ATTEND rings have no moderation. -/
def doEventModIntervalEnd (r : RingId) (s : State) : State :=
  match r with
  | .attend _ => s
  | _ => s.endInterval (ringRegs r).int (ringRegs r).recBit (ringRegs r).key
def execEventModIntervalEnd (r : RingId) (s : State) : Host.Outcome State Fault Refusal :=
  .next (s.live (doEventModIntervalEnd r))

end Sys2Proof.Machine
end

