-- ==== Sys2Proof/Machine/HostOps.lean ====
section
/-!
DEFINITION. Operations of the host queues (chapter 17) that the commands share: rings and their entries, interrupts,
descriptors and their checks, the end of a command, and host output rings.
-/

namespace Sys2Proof.Machine

/-! Rings. -/

def State.cqState (s : State) (f q : Nat) : CqState := AMap.read (fun _ => {}) s.host.cqs (f * 64 + q)
def State.setCqState (s : State) (f q : Nat) (x : CqState) : State :=
  { s with host := { s.host with cqs := AMap.write (fun _ => {}) s.host.cqs (f * 64 + q) x } }
def State.sqTail (s : State) (f q : Nat) : Nat := AMap.read (fun _ => 0) s.host.tails (f * 64 + q)
def State.setSqTail (s : State) (f q v : Nat) : State :=
  { s with host := { s.host with tails := AMap.write (fun _ => 0) s.host.tails (f * 64 + q) v } }
def State.strmHost (s : State) (h : Nat) : StrmHost := AMap.read (fun _ => {}) s.host.strm h
def State.setStrmHost (s : State) (h : Nat) (x : StrmHost) : State :=
  { s with host := { s.host with strm := AMap.write (fun _ => {}) s.host.strm h x } }

/-- SIZE of a submission ring as it acts (R377, R500). -/
def State.sqLog (s : State) (f q : Nat) : Nat := max 4 (s.fld (Reg.HQ_SQq_CFG f q) 0 4)
/-- A submission ring is in state RUN. -/
def State.sqRuns (s : State) (f q : Nat) : Bool := s.fld (Reg.HQ_SQq_STATUS f q) 16 2 == 1
/-- The completion ring a submission ring names. -/
def State.sqCq (s : State) (f q : Nat) : Nat := s.fld (Reg.HQ_SQq_CFG f q) 6 6
def State.fmt1 (s : State) (f q : Nat) : Bool := s.rbit (Reg.HQ_SQq_CFG f q) 4
/-- Entries of a completion ring, whether it is enabled and working. -/
def State.cqSize (s : State) (f q : Nat) : Nat := 2 ^ s.fld (Reg.HQ_CQq_CFG f q) 0 4
def State.cqRuns (s : State) (f q : Nat) : Bool :=
  s.rbit (Reg.HQ_CQq_CFG f q) 4 && !s.rbit (Reg.HQ_CQq_STATUS f q) 18
/-- Writing one entry more would reach the head (R380). -/
def State.cqFull (s : State) (f q : Nat) : Bool :=
  (s.fld (Reg.HQ_CQq_STATUS f q) 0 16 + 1) % s.cqSize f q == (s.cqState f q).head % s.cqSize f q
/-- A ring access that fails translation puts the ring in ERROR (R375). -/
def State.sqError (s : State) (f q : Nat) : State :=
  (s.setFld (Reg.HQ_SQq_STATUS f q) 16 2 2).setBit (Reg.HQ_FN_INT f) 0 true
def State.cqError (s : State) (f q : Nat) : State :=
  (s.setBit (Reg.HQ_CQq_STATUS f q) 18 true).setBit (Reg.HQ_FN_INT f) 0 true

/-- Raises vector `i` of a function's range (R373, R381). -/
def State.raiseFnVector (s : State) (f i : Nat) : State :=
  if i < s.fld (Reg.HQ_FNf_VEC f) 12 12 then s.raiseVector (s.fld (Reg.HQ_FNf_VEC f) 0 11 + i) else s
/-- The bytes of a completion entry (Table 17-5). -/
def CplEntry.bytes (e : CplEntry) (phase : Nat) (sqHead : Nat) : List Byte :=
  leBytes 8 e.result.toNat ++ leBytes 2 e.cid ++ leBytes 1 (e.sq % 64)
    ++ leBytes 1 (phase % 2 * 128 + e.type % 8 * 16 + e.status % 16) ++ leBytes 2 sqHead ++ leBytes 2 0
    ++ leBytes 4 e.handle ++ leBytes 4 e.aux ++ leBytes 8 e.tb.toNat
/-- Signals a completion ring's vector when THRESH entries are written since its last interrupt (R381). -/
def State.cqSignal (s : State) (f q : Nat) : State :=
  let c := s.cqState f q
  let n := c.unsignalled + 1
  if s.fld (Reg.HQ_CQq_MOD f q) 0 8 ≤ n then
    (s.setCqState f q { c with unsignalled := 0 }).raiseFnVector f (s.fld (Reg.HQ_CQq_CFG f q) 5 11)
  else s.setCqState f q { c with
    unsignalled := n
    firstTb := if n = 1 then s.tb.toNat else c.firstTb }
/-- Writes one entry into a ring that has room (R380). -/
def State.cqWrite (s : State) (f q : Nat) (e : CplEntry) : State :=
  let t := s.fld (Reg.HQ_CQq_STATUS f q) 0 16
  let a := hostWindow + s.pair (Reg.HQ_CQq_BASE_LO f q) + t * 32
  if !s.hostOk a 32 then s.cqError f q
  else
    let phase := s.fld (Reg.HQ_CQq_STATUS f q) 16 1
    let b := { e with tb := s.tb }.bytes phase (s.fld (Reg.HQ_SQq_STATUS f e.sq) 0 16)
    let t' := (t + 1) % s.cqSize f q
    let s1 := (s.setBytes a b).setFld (Reg.HQ_CQq_STATUS f q) 0 16 t'
    let s2 := if t' = 0 then s1.setFld (Reg.HQ_CQq_STATUS f q) 16 1 (1 - phase) else s1
    (s2.setBit (Reg.HQ_CQq_STATUS f q) 17 (s2.cqFull f q)).cqSignal f q
/-- Posts an entry: completions and releases wait for room, step and output-drop events are discarded and counted
(R380). Nothing is written to a ring that is not enabled. -/
def State.post (s : State) (f q : Nat) (e : CplEntry) : State :=
  if !s.cqRuns f q then s
  else if s.cqFull f q then
    (if 2 ≤ e.type then s.count (Reg.HQ_CQq_EVT_DROP f q) 1 Reg.HQ_INT_STATUS 3
     else
       let c := s.cqState f q
       s.setCqState f q { c with waiting := c.waiting ++ [e] })
  else s.cqWrite f q e
/-- Writes waiting entries while there is room. -/
def drainWaiting (f q : Nat) (s : State) : List CplEntry → State
  | [] => s
  | e :: t =>
    if s.cqFull f q || !s.cqRuns f q then
      let c := s.cqState f q
      s.setCqState f q { c with waiting := e :: t }
    else drainWaiting f q (s.cqWrite f q e) t
/-- The waiting entries of a ring go out, after its head moved (R380). -/
def State.drainCq (s : State) (f q : Nat) : State :=
  let c := s.cqState f q
  drainWaiting f q (s.setCqState f q { c with waiting := [] }) c.waiting

/-! Descriptors. -/

/-- A field of a descriptor: `n` bytes at byte `b`. -/
def db (d : BitVec 512) (b n : Nat) : Nat := dfield d b 0 (8 * n)
/-- OPCODE, FENCE, NOCPL, CID and HANDLE (Table 17-3). -/
def dOp (d : BitVec 512) : Nat := db d 0 1
def dFence (d : BitVec 512) : Bool := dfield d 1 0 1 == 1
def dNocpl (d : BitVec 512) : Bool := dfield d 1 1 1 == 1
def dCid (d : BitVec 512) : Nat := db d 2 2
def dHandle (d : BitVec 512) : Nat := db d 4 4
/-- Zeroes fields given as (bit, bits). -/
def clearFields (x : Nat) : List (Nat × Nat) → Nat
  | [] => x
  | (lo, n) :: t => clearFields (putBits x lo n 0) t
/-- The header's fields, and those of each payload (Tables 17-3, 17-4, 17-6), as (bit, bits). -/
def headerFields : List (Nat × Nat) := [(0, 8), (8, 2), (16, 16), (32, 32)]
def payloadFields (fmt1 : Bool) (op : Nat) : Option (List (Nat × Nat)) :=
  match op with
  | 0x01 => some (if fmt1 then [(64, 16), (80, 3), (88, 1), (90, 6), (96, 32), (128, 64), (192, 64)]
      else [(64, 16), (80, 3), (88, 1), (90, 6), (96, 32), (128, 64), (192, 64), (256, 64), (320, 32), (352, 32),
        (384, 64)])
  | 0x02 => some (if fmt1 then [(64, 64), (128, 32), (160, 2), (192, 32)]
      else [(64, 64), (128, 32), (160, 2), (192, 32), (256, 64)])
  | 0x03 => some [(64, 64)]
  | 0x04 => some []
  | 0x05 => some (if fmt1 then [] else [(64, 64), (128, 1)])
  | 0x06 => some [(64, 64), (128, 32), (160, 2)]
  | 0x08 => some []
  | 0x20 => some [(64, 64), (128, 64), (192, 32)]
  | 0x00 => if fmt1 then none else some []
  | 0x07 => if fmt1 then none else
      some [(64, 64), (128, 32), (160, 3), (168, 1), (170, 6), (192, 64), (256, 64), (320, 32), (384, 64)]
  | 0x10 => if fmt1 then none else some [(64, 32), (128, 64)]
  | 0x18 => if fmt1 then none else some [(64, 64), (128, 32)]
  | 0x19 => if fmt1 then none else some [(64, 32)]
  | 0x1A => if fmt1 then none else some [(64, 64)]
  | 0x1B => if fmt1 then none else some [(64, 1)]
  | _ => none
/-- The opcode is known and every reserved bit is zero (R382, R387). -/
def descOk (fmt1 : Bool) (d : BitVec 512) : Bool :=
  match payloadFields fmt1 (dOp d) with
  | none => false
  | some l => clearFields (clearFields d.toNat headerFields) l == 0

/-- A device-local range that a command of a function may name (R373): anything for the physical function, the host
window or the DMEM window for a virtual one. -/
def State.mayName (s : State) (f a n : Nat) : Bool :=
  f == 0 || decide (hostWindow ≤ a) ||
    (decide (s.pair (Reg.HQ_FNf_DMEM_LO f) ≤ a) &&
     decide (a + n ≤ s.pair (Reg.HQ_FNf_DMEM_LO f) + s.fld (Reg.HQ_FNf_DMEM_SIZE f) 0 16 * 2 ^ 24))

/-! Commands. -/

/-- Commands of a ring that are fetched and not completed. -/
def State.ringCmds (s : State) (f q : Nat) : List Fetched := s.host.fetched.filter (fun x => x.fn == f && x.sq == q)
/-- The command may start now (R379): it is the ring's next in order, and with FENCE nothing of the ring is unfinished. A
descriptor that no fetch has brought is taken as fetched now (log 19). -/
def State.mayStart (s : State) (f q : Nat) (d : BitVec 512) : Bool :=
  let l := s.ringCmds f q
  (match l.filter (fun x => !x.started) with
   | [] => true
   | x :: _ => x.desc == d) &&
  !(dFence d && l.any (fun x => x.started))
/-- Marks the ring's next command as started. -/
def markStarted (f q : Nat) (d : BitVec 512) : List Fetched → List Fetched
  | [] => [{ fn := f, sq := q, desc := d, started := true }]
  | x :: t => if x.fn = f ∧ x.sq = q ∧ x.desc = d ∧ x.started = false then { x with started := true } :: t
    else x :: markStarted f q d t
def State.startCmd (s : State) (f q : Nat) (d : BitVec 512) : State :=
  { s with host := { s.host with fetched := markStarted f q d s.host.fetched } }
/-- Takes a completed command off the list. -/
def dropDone (f q : Nat) (d : BitVec 512) : List Fetched → List Fetched
  | [] => []
  | x :: t => if x.fn = f ∧ x.sq = q ∧ x.desc = d ∧ x.started = true then t else x :: dropDone f q d t
/-- Ends a command: its counts, and its one COMMAND entry unless NOCPL suppresses it (R384, R390). -/
def State.endCmd (s : State) (f q : Nat) (d : BitVec 512) (status result : Nat) : State :=
  let s1 : State := { s with host := { s.host with fetched := dropDone f q d s.host.fetched } }
  let s2 := s1.count (Reg.HQ_FNf_CMDS f) 1 Reg.HQ_INT_STATUS 3
  let s3 := if status = 8 then s2.count (Reg.HQ_FNf_REJ f) 1 Reg.HQ_INT_STATUS 3 else s2
  if dNocpl d && status == 0 then s3
  else
    let e : CplEntry := { result := BitVec.ofNat 64 result, cid := dCid d, sq := q, status := status, handle := dHandle d }
    s3.post f (s3.sqCq f q) e
/-- Runs a command: it starts in ring order, an ill-formed descriptor completes REJECTED, and `go` does the rest. -/
def State.command (s : State) (op f q : Nat) (d : BitVec 512) (go : State → State) : State :=
  if dOp d ≠ op ∨ !s.mayStart f q d then s
  else
    let s1 := s.startCmd f q d
    if descOk (s1.fmt1 f q) d then go s1 else s1.endCmd f q d 8 0

/-- The sink a SINK field codes (R383); none for a value that is REJECTED. -/
def decodeSink (v : Nat) : Option Sink :=
  match bitsAt v 62 2 with
  | 0 => if v = 0 then some .none else none
  | 1 => if clearFields v [(62, 2), (8, 3), (0, 5)] = 0 then some (.port (bitsAt v 8 3) (bitsAt v 0 5)) else none
  | 2 => if clearFields v [(62, 2), (6, 46)] = 0 then some (.ring (bitsAt v 6 46 * 64)) else none
  | _ => none

/-! Releases, step entries and host output rings. -/

/-- Releases a chunk with its one RELEASE entry (R265, R384). -/
def State.releaseChunk (s : State) (h : Nat) (c : Chunk) : State :=
  if c.noRelease then s
  else
    let x := s.strm h
    s.post x.fn (s.sqCq x.fn c.sq) { result := c.tag, sq := c.sq, type := 1, handle := s.handleOf h }
def State.releaseAll (s : State) (h : Nat) : List Chunk → State
  | [] => s
  | c :: t => (s.releaseChunk h c).releaseAll h t
/-- The STEP entry of a stream with STEP_EVT (R383, R384). -/
def State.stepEntry (s : State) (h status elems : Nat) : State :=
  let x := s.strm h
  match (s.strmHost h).stepCq with
  | none => s
  | some q =>
    let e : CplEntry := { result := BitVec.ofNat 64 (x.steps - 1), sq := (s.strmHost h).relSq, type := 2, status := status,
                          handle := s.handleOf h, aux := elems }
    s.post x.fn q e

/-- The bytes of an output record (R385): header and elements, padded to 16 bytes. -/
def outRecord (pos count : Nat) (gap drop : Bool) (esize : Nat) (data : List Byte) : List Byte :=
  leBytes 8 pos ++ leBytes 4 count ++ leBytes 1 (b2n gap + 2 * b2n drop) ++ leBytes 1 esize ++ leBytes 2 0 ++ data
    ++ List.replicate ((16 - data.length % 16) % 16) 0
/-- Writes bytes into a ring of `size` bytes from count `w`. -/
def State.ringStore (s : State) (base size : Nat) : Nat → List Byte → State
  | _, [] => s
  | w, b :: t => (s.writeData (s.oasLoc 13 0) (base + w % size) [b]).ringStore base size (w + 1) t
/-- A step's outputs go to a host output ring (R385, R386): whole, or dropped whole. The flag says whether the ring's
descriptor was read, and the number how many elements were delivered. -/
def State.ringOutput (s : State) (h addr pos count esize : Nat) (data : List Byte) : Bool × Nat × State :=
  let r := s.readCtl (s.oasLoc 13 0) addr 32
  if r.failed then (false, 0, r.st)
  else
    let s := r.st
    let f := (s.strm h).fn
    let hs := s.strmHost h
    let base := leVal (r.bytes.take 8)
    let size := 2 ^ max 12 (min 24 ((r.bytes.getD 8 0).toNat))
    let rd := leVal ((r.bytes.drop 12).take 4)
    let wr := leVal ((r.bytes.drop 16).take 4)
    let b := outRecord pos count hs.outGap hs.outDrop esize data
    if size < (wr + 2 ^ 32 - rd) % 2 ^ 32 + b.length then
      let s1 := s.setStrmHost h { hs with outDrop := true }
      let s2 := s1.count (Reg.HQ_FNf_OUT_DROP f) count Reg.HQ_INT_STATUS 3
      let e : CplEntry := { result := BitVec.ofNat 64 pos, sq := hs.relSq, type := 3, handle := s2.handleOf h, aux := count }
      (true, 0, s2.post f (match hs.stepCq with | some q => q | none => s2.sqCq f hs.relSq) e)
    else
      let s1 := s.ringStore base size wr b
      let s2 := s1.writeData (s.oasLoc 13 0) (addr + 16) (leBytes 4 ((wr + b.length) % 2 ^ 32))
      (true, count, s2.setStrmHost h { hs with outGap := false, outDrop := false, outSeen := true })

/-! The step in progress, and granules delivered to its work as zeros. -/

def State.run (s : State) (h : Nat) : StepRun := ((s.strm h).step).getD {}
def State.setRun (s : State) (h : Nat) (r : StepRun) : State := s.modStrm h (fun x => { x with step := some r })
/-- Granules delivered as zeros to a step count once each in the stream's error counter (R168, R286). -/
def State.zeroSeen (s : State) (h : Nat) (l : List Nat) : State :=
  if l = [] then s
  else
    let r := s.run h
    let new := l.filter (fun g => !r.zgrans.contains g)
    s.modStrm h (fun x => { x with
      zeroed := min (x.zeroed + new.length) 0xFFFFFFFF
      step := some { r with
        zgrans := r.zgrans ++ new
        zgiven := r.zgiven + l.length } })
/-- Granules delivered as zeros to a stream's work: once each in a step, else each time (R286). -/
def State.zeroHandle (s : State) (hdl : Nat) (bad : List Nat) : State :=
  match if hdl = 0xFFFFFFFF then none else s.sidOf hdl with
  | none => s
  | some h =>
    if (s.strm h).step.isSome then s.zeroSeen h bad
    else if (s.strm h).st = .closed then s
    else s.modStrm h (fun x => { x with zeroed := min (x.zeroed + bad.length) 0xFFFFFFFF })

end Sys2Proof.Machine
end

