-- ==== Sys2Proof/Machine/KvOps.lean ====
section
/-!
DEFINITION. Operations of the key-value cache (chapter 11): page pools, page lists, block records, the index of full
blocks, staging sets, and the choice and swap-out of victims.
-/

namespace Sys2Proof.Machine

/-- The sum of a figure over a list. -/
def sumMap {α : Type} (f : α → Nat) (l : List α) : Nat := l.foldl (fun a x => a + f x) 0

/-! The cache declaration (R232). -/

structure KvDecl where
  indexed : Bool
  positional : Bool
  runLog : Nat
  model : Nat
  layers : Nat
  lpg : Nat
  e : Nat
  pageKib : Nat
  sets : Nat
  maxCtx : Nat
  span : Nat
  rangeLog : Nat
  sTok : Nat
  sLen : Nat
  deriving DecidableEq, Repr

def kvDecl (d : BitVec 512) : KvDecl :=
  { indexed := dfield d 0 23 1 == 1, positional := dfield d 0 22 1 == 1, runLog := dfield d 0 19 3, model := db d 4 4,
    layers := db d 8 2, lpg := db d 10 2, e := db d 12 4, pageKib := db d 16 2, sets := db d 18 2, maxCtx := db d 20 4,
    span := db d 24 1, rangeLog := db d 25 1, sTok := db d 26 1, sLen := db d 27 1 }
/-- G, the page groups of a block. -/
def KvDecl.groups (k : KvDecl) : Nat := (k.layers + k.lpg - 1) / k.lpg
/-- Frames and bytes of a page (R233). -/
def KvDecl.frames (k : KvDecl) : Nat := k.pageKib / 16
def KvDecl.pageBytes (k : KvDecl) : Nat := k.pageKib * 1024
/-- Bytes that a graph's staging sets take of a cluster store (R238). -/
def KvDecl.stageBytes (k : KvDecl) : Nat := k.sets * (k.groups * k.pageBytes + 512)
/-- The declaration keeps the ranges of R232 (the attention nodes' part is checked with them). -/
def kvDeclOk (d : BitVec 512) : Bool :=
  let k := kvDecl d
  dfield d 0 0 19 == 0 && dfield d 28 0 288 == 0 && decide (k.runLog ≤ 5) && decide (1 ≤ k.layers ∧ k.layers ≤ 1024) &&
  decide (1 ≤ k.lpg ∧ k.lpg ≤ k.layers) && decide (16 ≤ k.e ∧ k.e ≤ 65536) && k.e % 16 == 0 &&
  decide (16 ≤ k.pageKib ∧ k.pageKib ≤ 1024) && k.pageKib % 16 == 0 && decide (1 ≤ k.sets ∧ k.sets ≤ 64) &&
  decide (1 ≤ k.span ∧ k.span ≤ 64) && (if k.positional then decide (k.rangeLog ≤ 15) else k.rangeLog == 0) &&
  decide (128 * k.e * k.lpg ≤ k.pageBytes) && decide (k.groups ≤ 112) && decide (k.stageBytes ≤ 6 * 2 ^ 20)
/-- The cache declaration of a graph. -/
def Graph.kv (g : Graph) : Option KvDecl :=
  g.nodes.findSome? (fun r => match r.node with | .cache d => some (kvDecl d) | _ => none)
def State.kvOf (s : State) (h : Nat) : Option KvDecl := (s.graphOf (s.strm h).graph).bind Graph.kv
def State.setKv (s : State) (h : Nat) (k : KvSeq) : State := s.modStrm h (fun x => { x with kv := k })
def State.poolOf (s : State) (h : Nat) : Nat := ((s.graphOf (s.strm h).graph).map (fun g => g.pool)).getD 0
/-- The cache is spread by position over several packages (R254). -/
def KvDecl.spread (k : KvDecl) : Bool := k.positional && decide (1 < k.span)
/-- The member a block belongs to, its place in that member's list, and the block at a place of a member's list. -/
def KvDecl.memberOf (k : KvDecl) (j : Nat) : Nat := if k.spread then j / 2 ^ k.rangeLog % k.span else 0
def KvDecl.listBlock (k : KvDecl) (j : Nat) : Nat :=
  if k.spread then j / (2 ^ k.rangeLog * k.span) * 2 ^ k.rangeLog + j % 2 ^ k.rangeLog else j
def KvDecl.blockAt (k : KvDecl) (m b : Nat) : Nat :=
  if k.spread then b / 2 ^ k.rangeLog * (2 ^ k.rangeLog * k.span) + m * 2 ^ k.rangeLog + b % 2 ^ k.rangeLog else b
/-- This package's member number of a sequence. -/
def State.meOf (s : State) (h : Nat) (k : KvDecl) : Nat :=
  if k.spread then Config.spanMember (s.handleOf h) % k.span else 0
def State.ownBlock (s : State) (h : Nat) (k : KvDecl) (j : Nat) : Bool := k.memberOf j == s.meOf h k
/-- Who is named when a command reads a control structure (log 22). -/
def State.oasisReader (s : State) : Nat := s.oasLoc 13 0

/-! Page pools (R159, R233, R234). -/

/-- The page pool that serves a graph pool on a die: its own, or the die's single shared pool (number 5). -/
def State.pagePool (s : State) (d p : Nat) : Option PagePool := s.pools.find? (fun x => x.die == d && (x.pool == p || x.pool == 5))
/-- Frame `k` of a pool in a channel. -/
def PagePool.frame (x : PagePool) (ch k : Nat) : Nat := x.die * 2 ^ 22 + ch * 2 ^ 17 + x.row0 + k
/-- A run of frames meets a run in use. -/
def PagePool.meets (x : PagePool) (f n : Nat) : Bool := x.used.any (fun r => decide (r.1 < f + n) && decide (f < r.1 + r.2))
/-- Slot k of n frames can be given: whole, within one layer, in an enabled channel, free and without a retired frame. -/
def State.slotFree (s : State) (x : PagePool) (ch n k : Nat) : Bool :=
  let f := x.frame ch (k * n)
  decide (k * n + n ≤ x.rows) && (x.row0 + k * n) / 24576 == (x.row0 + k * n + n - 1) / 24576 &&
  s.rbit (Reg.DMEM_CH_OK x.die) ch && !x.meets f n && (List.range n).all (fun i => !s.frameGone (f + i))
def slotFrom (s : State) (x : PagePool) (ch n : Nat) : Nat → Nat → Option Nat
  | 0, _ => none
  | m + 1, k => if s.slotFree x ch n k then some k else slotFrom s x ch n m (k + 1)
/-- The lowest free slot of a channel, as its first frame. -/
def State.slotIn (s : State) (x : PagePool) (n ch : Nat) : Option Nat :=
  (slotFrom s x ch n (x.rows / max 1 n) 0).map (fun k => x.frame ch (k * n))
/-- Channels from `ch` on, wrapping at 32. -/
def channelsFrom (ch : Nat) : List Nat := (List.range 32).map (fun i => (ch + i) % 32)
/-- The slot R234 chooses: on the home die, then on the other dies in ascending order, each from channel `ch`. -/
def State.pickSlot (s : State) (p home ch n : Nat) : Option Nat :=
  (home :: (List.range 4).filter (fun d => d != home)).findSome? (fun d =>
    (s.pagePool d p).bind (fun x => (channelsFrom ch).findSome? (s.slotIn x n)))
/-- Frames of a pool in a channel that can be given. -/
def State.freeIn (s : State) (x : PagePool) (ch : Nat) : Nat :=
  let lo := x.frame ch 0
  let used := (x.used.filter (fun r => decide (lo ≤ r.1) && decide (r.1 < lo + x.rows))).foldl (fun a r => a + r.2) 0
  let gone := s.retired.any (fun f => decide (lo ≤ f) && decide (f < lo + x.rows)) ||
    s.rn (Reg.DMEM_BANKRETi x.die (2 * ch)) != 0 || s.rn (Reg.DMEM_BANKRETi x.die (2 * ch + 1)) != 0
  if !s.rbit (Reg.DMEM_CH_OK x.die) ch then 0
  else if gone then ((List.range x.rows).filter (fun k => !s.frameGone (lo + k) && !x.meets (lo + k) 1)).length
  else x.rows - used
/-- Frames of a pool that can be given, on all its channels. -/
def State.poolFree (s : State) (x : PagePool) : Nat := (List.range 32).foldl (fun a ch => a + s.freeIn x ch) 0
/-- The channel with the most free frames, the lowest on a tie. -/
def State.mostFree (s : State) (x : PagePool) : Nat :=
  ((List.range 32).foldl (fun (b : Nat × Nat) ch => let n := s.freeIn x ch; if b.2 < n then (ch, n) else b) (0, 0)).1
/-- Frames of a pool's pages: the least that a graph of the pool declares, 1 where none keeps a cache. A pool whose graphs
declare several sizes has no single slot size (DESIGN CHOICE, log 39). -/
def State.pageFrames (s : State) (x : PagePool) : Nat :=
  match (s.structure_.graphs.filter (fun g => g.pool == x.pool || x.pool == 5)).filterMap (fun g => g.kv.map KvDecl.frames) with
  | [] => 1
  | a :: t => max 1 (t.foldl min a)
/-- Slots of n frames that cross a DRAM layer boundary (R233). -/
def crossSlots (x : PagePool) (n : Nat) : List Nat :=
  [24576, 49152, 73728].filterMap (fun b =>
    if x.row0 < b ∧ (b - x.row0) % n ≠ 0 then some ((b - x.row0) / n) else none)
/-- Slots of n frames of a channel that cannot be given: crossing, in use, or with a retired frame. -/
def State.lostSlots (s : State) (x : PagePool) (n ch : Nat) : List Nat :=
  let lo := x.frame ch 0
  let used := (x.used.filter (fun r => decide (lo ≤ r.1) && decide (r.1 < lo + x.rows))).flatMap (fun r =>
    (List.range ((r.1 - lo + r.2 - 1) / n - (r.1 - lo) / n + 1)).map (fun i => (r.1 - lo) / n + i))
  let gone := if s.rn (Reg.DMEM_BANKRETi x.die (2 * ch)) = 0 ∧ s.rn (Reg.DMEM_BANKRETi x.die (2 * ch + 1)) = 0 then
      (s.retired.filter (fun f => decide (lo ≤ f) && decide (f < lo + x.rows))).map (fun f => (f - lo) / n)
    else ((List.range x.rows).filter (fun k => s.frameGone (lo + k))).map (fun k => k / n)
  ((crossSlots x n ++ used ++ gone).eraseDups).filter (fun k => decide (k < x.rows / n))
/-- KVP_FREE of a die's pool: frames in free slots (R259). -/
def State.kvpFree (s : State) (d i : Nat) : Nat :=
  match s.pagePool d i with
  | none => 0
  | some x =>
    let n := s.pageFrames x
    n * sumMap (fun ch => if s.rbit (Reg.DMEM_CH_OK x.die) ch then x.rows / n - (s.lostSlots x n ch).length else 0) (List.range 32)
/-- KVP_LOWi of a die falls with KVP_FREEi. A frame that retires while free lowers the figure too: it is taken in before the
figure next rises and whenever it is read (R259). -/
def lowerLows (d : Nat) (s : State) : List Nat → State
  | [] => s
  | i :: t =>
    let n := s.kvpFree d i
    lowerLows d (if n < s.rn (Reg.KVP_LOWi d i) then s.setN (Reg.KVP_LOWi d i) n else s) t
/-- Takes a run of frames out of its pool. -/
def State.takeRun (s : State) (f n : Nat) : State :=
  let s1 : State := { s with pools := s.pools.map (fun x => if x.holds f then { x with used := x.used ++ [(f, n)] } else x) }
  lowerLows (bitsAt f 22 2) s1 (List.range 5)
/-- Gives a run of frames back; frames due for retirement retire (R173). -/
def State.freeRun (s : State) (f n : Nat) : State :=
  let s0 := lowerLows (bitsAt f 22 2) s (List.range 5)
  let s1 : State := { s0 with pools := s0.pools.map (fun x => { x with used := x.used.filter (fun r => r.1 != f) }) }
  s1.retireRun f n

/-! Page lists (R235, R236). -/

/-- An entry of a sequence's list. -/
structure KvEntry where
  kind : Nat
  shared : Bool
  loc : Nat
  deriving DecidableEq, Repr
def kvEntry (v : Nat) : KvEntry := ⟨bitsAt v 30 2, bitAt v 29, bitsAt v 0 29⟩
def KvEntry.code (e : KvEntry) : Nat := e.kind % 4 * 2 ^ 30 + b2n e.shared * 2 ^ 29 + e.loc % 2 ^ 29
def State.kvEnt (s : State) (h i : Nat) : KvEntry := kvEntry (s.num ((s.strm h).kv.list + 4 * i) 4)
def State.setKvEnt (s : State) (h i : Nat) (e : KvEntry) : State :=
  s.writeData s.oasisReader ((s.strm h).kv.list + 4 * i) (leBytes 4 e.code)
/-- A sequence's list, over its first `n` positions, can be read as a control structure by the unit at `loc` (R170, Table
11-5). -/
def State.listRead (s : State) (loc h n : Nat) : Bool × State :=
  let v := (s.strm h).kv
  match s.kvOf h with
  | none => (true, s)
  | some k =>
    let own := (List.range ((n + 127) / 128)).filter (s.ownBlock h k)
    let top := ((own.map (fun j => k.listBlock j + 1)).foldl max 0) * k.groups
    if top = 0 then (true, s)
    else
      let r := s.readCtl loc v.list (4 * top)
      (!r.failed, r.st)
/-- Blocks a sequence's list reaches. -/
def State.kvBlocks (s : State) (h : Nat) : Nat :=
  match s.kvOf h with
  | none => 0
  | some k => ((s.strm h).kv.cap / max 1 k.groups)
/-- The list entries of a sequence that are not EMPTY, in order. -/
def State.kvHeld (s : State) (h : Nat) : List Nat :=
  match s.kvOf h with
  | none => []
  | some k => (List.range (s.kvBlocks h * k.groups)).filter (fun i => (s.kvEnt h i).kind != 0)
/-- Pages a sequence holds, shared included. -/
def State.kvPages (s : State) (h : Nat) : Nat := ((s.kvHeld h).filter (fun i => (s.kvEnt h i).kind == 1)).length
/-- Page-pool frames that a function's sequences hold (R373). -/
def State.fnFrames (s : State) (f : Nat) : Nat :=
  (s.streams.filter (fun e => e.2.fn == f && e.2.kv.st != .none)).foldl
    (fun a e => a + s.kvPages e.1 * ((s.kvOf e.1).map KvDecl.frames).getD 0) 0
/-- A function already holds its page share. -/
def State.overShare (s : State) (f : Nat) : Bool :=
  let l := s.fld (Reg.HQ_FNf_PAGES f) 0 20
  l != 0 && decide (l * 128 ≤ s.fnFrames f)

/-! Block records and the index of full blocks (R241, R246). -/

def State.recBase (s : State) : Nat := s.pair Reg.KVC_REC_BASE_LO
def State.refCnt (s : State) (r : Nat) : Nat := s.num (r + 20) 4
def State.setRefCnt (s : State) (r n : Nat) : State := s.writeData s.oasisReader (r + 20) (leBytes 4 n)
/-- The record a sequence holds for a block. -/
def KvSeq.recOf (k : KvSeq) (j : Nat) : Option Nat := (k.recs.find? (fun r => r.1 == j)).map (fun r => r.2)
def freeRecFrom (s : State) : Nat → Nat → Option Nat
  | 0, _ => none
  | n + 1, i => if s.refCnt (s.recBase + i * 1024) = 0 then some (s.recBase + i * 1024) else freeRecFrom s n (i + 1)
/-- The lowest record whose REFCNT is 0, while KVC_REC_FREE says one is free. -/
def State.freeRec (s : State) : Option Nat :=
  if s.rn Reg.KVC_REC_FREE = 0 then none else freeRecFrom s (s.fld Reg.KVC_REC_COUNT 0 23) 0
/-- The index is configured (R246, R500). -/
def State.pfxEn (s : State) : Bool := s.fld Reg.KVC_PFX_SIZE 0 5 != 0
/-- Removes the index entry of a record. -/
def State.unindex (s : State) (r : Nat) : State :=
  if !s.recIndexed r then s
  else
    let s1 := s.writeData s.oasisReader (r + 24) (leBytes 1 (putBits (s.num (r + 24) 1) 6 1 0))
    match (s1.bucketEntries (s1.num r 8)).find? (fun a => s1.entryValid a && s1.entryRec a == r) with
    | some a => s1.writeData s1.oasisReader a (List.replicate 16 0)
    | none => s1
def freeAll (n : Nat) (s : State) : List Nat → State
  | [] => s
  | f :: t => freeAll n (s.freeRun f n) t
/-- Returns a record to the pool without freeing its pages. -/
def State.retireRec (s : State) (r : Nat) : State :=
  let s1 := (s.unindex r).setRefCnt r 0
  s1.setN Reg.KVC_REC_FREE (s1.rn Reg.KVC_REC_FREE + 1)
/-- A record loses one holder; the last one frees its pages (R241). -/
def State.dropHolder (s : State) (n r : Nat) : State :=
  let c := s.refCnt r
  if c ≤ 1 then (freeAll n s (s.recPages r)).retireRec r else s.setRefCnt r (c - 1)

/-- `block_hash` (R245). -/
def hashStep (model tenant : Nat) (tok : List Word) (h : Dword) (i : Nat) : Dword :=
  let k : W4 := ⟨lo32 h, hi32 h, BitVec.ofNat 32 model, BitVec.ofNat 32 (0x4B560000 + tenant)⟩
  let w := mix k ⟨tok.getD (4 * i) 0, tok.getD (4 * i + 1) 0, tok.getD (4 * i + 2) 0, tok.getD (4 * i + 3) 0⟩
  joinHiLo (w.w1 ^^^ w.w3) (w.w0 ^^^ w.w2)
def blockHash (prev : Dword) (tok : List Word) (model tenant : Nat) : Dword :=
  (List.range 32).foldl (hashStep model tenant tok) prev
/-- The words at an address. -/
def State.words (s : State) (a : Nat) : Nat → List Word
  | 0 => []
  | n + 1 => BitVec.ofNat 32 (s.num a 4) :: s.words (a + 4) n
/-- What a probe of the index gives: the record that matches, the candidates that agreed in hash alone, whether a granule of
the bucket or of a record could not be read, the ranges read, and the state after. -/
structure Probed where
  found : Option Nat := none
  coll : Nat := 0
  failed : Bool := false
  reads : List (Nat × Nat) := []
  st : State
/-- A record's head and tokens agree with a block (R246). -/
def State.recMatches (s : State) (a r tenant model parent : Nat) (tok : List Word) : Bool :=
  bitsAt (s.num (a + 14) 1) 0 6 == tenant && s.num (r + 16) 4 == model && s.num (r + 8) 8 == parent && s.words (r + 64) 128 == tok
/-- Looks a block up among a bucket's entries; each candidate's record is read as a control structure (R170, R246). -/
def matchIn (loc : Nat) (hash : Dword) (tenant model parent : Nat) (tok : List Word) (s : State) : List Nat → Probed
  | [] => { st := s }
  | a :: t =>
    if s.entryValid a ∧ s.num a 8 = hash.toNat then
      let r := s.entryRec a
      let c := s.readCtl loc r 576
      if c.failed then { failed := true, reads := [(r, 576)], st := c.st }
      else if c.st.recMatches a r tenant model parent tok then { found := some r, reads := [(r, 576)], st := c.st }
      else
        let p := matchIn loc hash tenant model parent tok c.st t
        { p with
          coll := p.coll + 1
          reads := (r, 576) :: p.reads }
    else matchIn loc hash tenant model parent tok s t
/-- The bucket of a hash and the records it names, looked up by the unit at `loc`; nothing without an index. -/
def State.lookUp (s : State) (loc : Nat) (hash : Dword) (tenant model parent : Nat) (tok : List Word) : Probed :=
  if !s.pfxEn then { st := s }
  else
    let b := s.readCtl loc (s.bucket hash.toNat) 64
    if b.failed then { failed := true, reads := [(s.bucket hash.toNat, 64)], st := b.st }
    else
      let p := matchIn loc hash tenant model parent tok b.st (b.st.bucketEntries hash.toNat)
      { p with reads := (s.bucket hash.toNat, 64) :: p.reads }
/-- A probe, counting collisions. -/
def State.probe (s : State) (loc : Nat) (hash : Dword) (tenant model parent : Nat) (tok : List Word) : Probed :=
  let p := s.lookUp loc hash tenant model parent tok
  { p with st := p.st.count Reg.KVC_PFX_COLL p.coll Reg.KVC_INT_STATUS 4 }

/-- Every granule of a page is off the known-bad list. -/
def State.pageClean (s : State) (f n : Nat) : Bool :=
  !(s.cis (bitsAt f 17 7)).bad.any (fun a => decide (f ≤ frameOf a) && decide (frameOf a < f + n))
/-- The pages of block j in a sequence's list. -/
def State.blockPages (s : State) (h j g : Nat) : List Nat := (List.range g).map (fun i => (s.kvEnt h (j * g + i)).loc)
/-- Sets or clears SHARED in a block's entries. -/
def shareEntries (h j : Nat) (b : Bool) (g : Nat) (s : State) : List Nat → State
  | [] => s
  | i :: t => shareEntries h j b g (s.setKvEnt h (j * g + i) { s.kvEnt h (j * g + i) with shared := b }) t
/-- Writes a block record (Table 11-3). -/
def State.writeRec (s : State) (r : Nat) (hash parent model tenant : Nat) (indexed : Bool) (fill : Nat) (tok : List Word)
    (pages : List Nat) : State :=
  let b := leBytes 8 hash ++ leBytes 8 parent ++ leBytes 4 model ++ leBytes 4 1 ++ leBytes 1 (tenant % 64 + 64 * b2n indexed)
    ++ leBytes 1 fill ++ leBytes 2 pages.length ++ List.replicate 36 0
    ++ ((List.range 128).flatMap (fun i => leBytes 4 (if i < fill then (tok.getD i 0).toNat else 0)))
    ++ pages.flatMap (leBytes 4)
  (s.writeData s.oasisReader r (b ++ List.replicate (1024 - b.length) 0)).setN Reg.KVC_REC_FREE (s.rn Reg.KVC_REC_FREE - 1)
/-- The insertion of R247 after a full flush of block j with hash `hash`. -/
def State.insertBlock (s : State) (h j : Nat) (k : KvDecl) (hash : Dword) (tok : List Word) : State :=
  let x := s.strm h
  let n := k.listBlock j
  let parent := if j = 0 then some 0
    else if s.ownBlock h k (j - 1) then (x.kv.recOf (k.listBlock (j - 1))).filter (fun r => s.recIndexed r) else none
  let pages := s.blockPages h n k.groups
  match parent with
  | none => s
  | some p =>
    if !s.pfxEn || !pages.all (fun f => s.pageClean f k.frames) then s
    else
      let b := s.probe s.oasisReader hash x.fn k.model p tok
      let s1 := b.st
      if b.found.isSome ∨ b.failed then s1
      else match (s1.bucketEntries hash.toNat).find? (fun a => !s1.entryValid a) with
        | none => s1.count Reg.KVC_PFX_BFULL 1 Reg.KVC_INT_STATUS 4
        | some a =>
          match s1.freeRec with
          | none => s1.raise Reg.KVC_INT_STATUS 3
          | some r =>
            let s2 := s1.writeRec r hash.toNat p k.model x.fn true 128 tok pages
            let s3 := s2.writeData s2.oasisReader a (leBytes 8 hash.toNat ++ leBytes 6 (r / 64) ++ leBytes 1 (x.fn % 64 + 128) ++ [0])
            let s4 := shareEntries h n true k.groups s3 (List.range k.groups)
            s4.setKv h { (s4.strm h).kv with recs := (n, r) :: (s4.strm h).kv.recs }

/-! Staging (R238 to R240). -/

/-- Stores bytes of the blocks' pages from a staging set: key o is byte o mod (G pages) of block j + o / (G pages). -/
def flushBytes (k : KvDecl) (page : Nat → Option Nat) (s : State) : AMap Byte → State
  | [] => s
  | (o, b) :: t => flushBytes k page
      (match page (o / k.pageBytes) with | some f => s.writePage s.oasisReader f (o % k.pageBytes) [b] | none => s) t
/-- The runs within a page of a block's positions `t0` to `t1 - 1`. -/
def spanRuns (k : KvDecl) (t0 t1 : Nat) : List (Nat × Nat) :=
  (List.range k.lpg).map (fun l => (l * 128 * k.e + t0 * k.e, (t1 - t0) * k.e))
def zeroRuns (f : Nat) (s : State) : List (Nat × Nat) → State
  | [] => s
  | (o, n) :: t => zeroRuns f (s.writePage s.oasisReader f o (List.replicate n 0)) t
/-- Writes zeros at the positions `t0` to `t1 - 1` of a block's pages. -/
def zeroSpan (k : KvDecl) (page : Nat → Option Nat) (t0 t1 : Nat) (s : State) : List Nat → State
  | [] => s
  | g :: t => zeroSpan k page t0 t1 (match page g with | some f => zeroRuns f s (spanRuns k t0 t1) | none => s) t
/-- The first frame of the page that list entry i names, where resident. -/
def State.pageAt (s : State) (h i : Nat) : Option Nat :=
  let e := s.kvEnt h i
  if e.kind = 1 then some e.loc else none
/-- The block's positions behind its pages: key `n` on of the set's bytes belongs to the blocks after its first. -/
def Staging.next (g : Staging) (n : Nat) : Staging :=
  { g with
    start := max g.start ((g.start / 128 + 1) * 128)
    bytes := (g.bytes.filter (fun x => decide (n ≤ x.1))).map (fun x => (x.1 - n, x.2)) }
/-- Rows that the step in progress has in the cache beyond the context. -/
def State.stagedRows (s : State) (h : Nat) : Nat := ((s.run h).kvRows).getD 0
/-- Writes the staged positions of the first block of a staging set into the pages of list block b, and zeros beyond the
context after a truncation or while a step has rows there; what lies beyond the block moves up (R239, R240, R243). -/
def State.flushBlock (s : State) (h b : Nat) (k : KvDecl) : State :=
  let v := (s.strm h).kv
  match v.staging with
  | none => s
  | some g =>
    let n := k.groups * k.pageBytes
    let page (i : Nat) : Option Nat := s.pageAt h (b * k.groups + i)
    let fill := min 128 (v.ctx - v.ctx / 128 * 128 + if g.start / 128 < v.ctx / 128 then 128 else 0)
    let s1 := zeroSpan k page (g.start % 128) (if v.zeroTail || s.stagedRows h != 0 then 128 else fill) s (List.range k.groups)
    let s2 := flushBytes k page s1 (g.bytes.filter (fun x => decide (x.1 < n)))
    s2.setKv h { (s2.strm h).kv with zeroTail := false, staging := some (g.next n) }
/-- Flushes the first block of a set: into its pages where this package holds it (R239, R254). -/
def State.flushFirst (s : State) (h : Nat) (k : KvDecl) : State :=
  match (s.strm h).kv.staging with
  | none => s
  | some g =>
    let j := g.start / 128
    if s.ownBlock h k j then s.flushBlock h (k.listBlock j) k
    else s.setKv h { (s.strm h).kv with staging := some (g.next (k.groups * k.pageBytes)) }
/-- Flushes the blocks of a set below block `top`, in order. -/
def flushUpTo (h top : Nat) (k : KvDecl) : Nat → State → State
  | 0, s => s
  | n + 1, s => match (s.strm h).kv.staging with
    | none => s
    | some g => if g.start / 128 < top then flushUpTo h top k n (s.flushFirst h k) else s
/-- Flushes a set, full or partial, into its blocks' pages and releases it (R240). A step that has rows in it reads them back
when it goes on (R228). -/
def State.flushSet (s : State) (h : Nat) : State :=
  match s.kvOf h, (s.strm h).kv.staging with
  | some k, some g =>
    let top := ((s.strm h).kv.ctx + s.stagedRows h + 127) / 128
    let s1 := flushUpTo h top k (top - g.start / 128) s
    s1.setKv h { (s1.strm h).kv with staging := none }
  | _, _ => s
/-- When the sequence's step last completed: its open time if none has. -/
def Stream.lastUse (x : Stream) : Nat := if x.lastDone = 0 then x.opened.toNat else x.lastDone.toNat
/-- The staging sets of a graph on a cluster whose sequence has no step in progress, longest unused first. -/
def State.idleSet (s : State) (cl graph h : Nat) : Option Nat :=
  let l := s.streams.filter (fun e => e.1 != h && e.2.graph == graph && e.2.step.isNone &&
    (e.2.kv.staging.map (fun g => g.cluster)) == some cl)
  (l.foldl (fun (b : Option (Nat × Nat)) e => match b with
    | some (u, _) => if e.2.lastUse < u then some (e.2.lastUse, e.1) else b
    | none => some (e.2.lastUse, e.1)) none).map (fun b => b.2)
/-- Bytes of one run of positions as a staging set holds them from key `o` on. -/
def stagedBytes (o : Nat) (l : List Byte) : AMap Byte := (l.zipIdx.filter (fun x => x.1 != 0)).map (fun x => (o + x.2, x.1))
/-- The written positions of the sequence's open block, and of the blocks that its step has rows in, read back from their
pages, up to position `t` (R240). -/
def loadStage (h t : Nat) (k : KvDecl) (s : State) : List (Nat × Nat × Nat) → AMap Byte × State
  | [] => ([], s)
  | (j, g, l) :: u =>
    let j0 := (s.strm h).kv.ctx / 128
    let cnt := min 128 (t - 128 * j) * k.e
    let (b, s1) := match if s.ownBlock h k j then s.pageAt h (k.listBlock j * k.groups + g) else none with
      | some f =>
        let runs := pageRuns f (l * 128 * k.e) cnt
        let r := s.readRuns s.oasisReader runs
        (r.bytes, r.st.zeroHandle (s.handleOf h) (runs.flatMap (fun p => s.badIn p.1 p.2)))
      | none => ([], s)
    let (m, s2) := loadStage h t k s1 u
    (stagedBytes ((j - j0) * (k.groups * k.pageBytes) + g * k.pageBytes + l * 128 * k.e) b ++ m, s2)
/-- Block, group and layer of every run of positions from the open block up to position `t`. -/
def KvDecl.stageRuns (k : KvDecl) (ctx t : Nat) : List (Nat × Nat × Nat) :=
  (List.range ((t + 127) / 128 - ctx / 128)).flatMap (fun i => (List.range k.groups).flatMap (fun g =>
    (List.range k.lpg).map (fun l => (ctx / 128 + i, g, l))))
/-- Gives the sequence a staging set on its cluster, releasing another's where STAGE_SETS are held; the positions of the
open block that a flush wrote are read back into it (R240). -/
def State.stage (s : State) (h : Nat) : State :=
  let x := s.strm h
  match s.kvOf h, x.cluster with
  | some k, some cl =>
    if x.kv.staging.isSome then s
    else
      let n := (s.streams.filter (fun e => e.2.graph == x.graph && (e.2.kv.staging.map (fun g => g.cluster)) == some cl)).length
      let s1 := if n < k.sets then s else match s.idleSet cl x.graph h with
        | some v => s.flushSet v
        | none => s
      let t := x.kv.ctx + s1.stagedRows h
      let (b, s2) := loadStage h t k s1 (if t % 128 = 0 ∧ t = x.kv.ctx then [] else k.stageRuns x.kv.ctx t)
      s2.setKv h { (s2.strm h).kv with
        staging := some { cluster := cl, start := x.kv.ctx / 128 * 128, tokens := x.kv.tokens, bytes := b } }
  | _, _ => s

/-! Pages for a sequence (R249). -/

/-- The channel that the page of block j for group g is sought from (R234). -/
def KvDecl.startCh (k : KvDecl) (base j g : Nat) : Nat := (base + j / 2 ^ k.runLog + g) % 32
/-- Frames of a pool, on all dies, that other streams have reserved for pages they have not taken (R59). -/
def State.othersHold (s : State) (h p : Nat) : Nat :=
  sumMap (fun e => if e.1 = h ∨ e.2.resv = 0 ∨ s.poolOf e.1 ≠ p then 0 else
    e.2.resv * ((s.kvOf e.1).map KvDecl.frames).getD 0) s.streams
/-- A stream may take a page of n frames: one of its own reservation, or one that no other stream has reserved (R59,
DEDUCED, log 39). -/
def State.mayTake (s : State) (h p n : Nat) : Bool :=
  let k := s.othersHold h p
  decide (0 < (s.strm h).resv) || k == 0 ||
  decide (k + n ≤ sumMap (fun d => ((s.pagePool d p).map s.poolFree).getD 0) (List.range 4))
/-- Gives one page for list entry i, or none where no slot is free or the function holds its share. -/
def State.givePage (s : State) (h i : Nat) : Option (Nat × State) :=
  let x := s.strm h
  match s.kvOf h with
  | none => none
  | some k =>
    let p := s.poolOf h
    if s.overShare x.fn || !s.mayTake h p k.frames then none
    else
      let base := match x.kv.baseCh with
        | some b => b
        | none => ((s.pagePool x.kv.home p).map s.mostFree).getD 0
      match s.pickSlot p x.kv.home (k.startCh base (k.blockAt (s.meOf h k) (i / k.groups)) (i % k.groups)) k.frames with
      | none => none
      | some f =>
        let s1 := s.setStrm h { x with
          resv := x.resv - 1
          kv := { x.kv with baseCh := some base } }
        some (f, s1.takeRun f k.frames)
/-- Puts a given page where it belongs: into the list, or, for a swapped entry, aside until the restore (R252). -/
def State.landPage (s : State) (h i f : Nat) : State :=
  if (s.kvEnt h i).kind = 0 then s.setKvEnt h i ⟨1, false, f⟩
  else s.setKv h { (s.strm h).kv with granted := (s.strm h).kv.granted ++ [(i, f)] }
/-- Gives pages for the entries a sequence needs, in order, as far as they go. -/
def grantList (h : Nat) (s : State) : List Nat → State
  | [] => s.setKv h { (s.strm h).kv with need := [] }
  | i :: t =>
    match s.givePage h i with
    | some (f, s1) => grantList h (s1.landPage h i f) t
    | none => s.setKv h { (s.strm h).kv with need := i :: t }
def State.grant (s : State) (h : Nat) : State := grantList h s (s.strm h).kv.need

/-- A page of a sequence is swappable (R250). -/
def State.swappable (s : State) (h i : Nat) (k : KvDecl) : Bool :=
  let e := s.kvEnt h i
  e.kind == 1 && s.pageClean e.loc k.frames &&
  (!e.shared || (match (s.strm h).kv.recOf (i / k.groups) with | some r => decide (s.refCnt r ≤ 1) | none => true))
/-- A sequence's swappable entries in descending order of block, ascending group within it. -/
def State.swapOrder (s : State) (h : Nat) (k : KvDecl) : List Nat :=
  let nb := s.kvBlocks h
  ((List.range nb).flatMap (fun j => (List.range k.groups).map (fun g => (nb - 1 - j) * k.groups + g))).filter
    (fun i => s.swappable h i k)
/-- Units in use of a function's swap pool, and whether n more can be had. -/
def State.swapRuns (s : State) (f : Nat) : List (Nat × Nat) := AMap.read (fun _ => []) s.swaps f
def State.swapUsed (s : State) (f : Nat) : Nat := (s.swapRuns f).foldl (fun a r => a + r.2) 0
def State.swapSize (s : State) (f : Nat) : Nat := s.fld (Reg.KVC_SWAPf_SIZE f) 0 29
def State.setSwapRuns (s : State) (f : Nat) (l : List (Nat × Nat)) : State :=
  let s1 : State := { s with swaps := AMap.write (fun _ => []) s.swaps f l }
  s1.setN (Reg.KVC_SWAPf_USED f) (l.foldl (fun a r => a + r.2) 0)
/-- The lowest free run of n units: candidates are unit 0 and the end of each run in use. -/
def lowestRun (l : List (Nat × Nat)) (size n : Nat) : Option Nat :=
  let c := (0 :: l.map (fun r => r.1 + r.2)).filter
    (fun u => decide (u + n ≤ size) && !l.any (fun r => decide (r.1 < u + n) && decide (u < r.1 + r.2)))
  c.foldl (fun b u => match b with | some v => some (min v u) | none => some u) none
/-- Takes n units of a function's swap pool. -/
def State.takeSwap (s : State) (f n : Nat) : Option (Nat × State) :=
  (lowestRun (s.swapRuns f) (s.swapSize f) n).map (fun u => (u, s.setSwapRuns f (s.swapRuns f ++ [(u, n)])))
def State.freeSwap (s : State) (f u : Nat) : State := s.setSwapRuns f ((s.swapRuns f).filter (fun r => r.1 != u))
/-- The host address of a swap unit. -/
def State.swapAddr (s : State) (f u : Nat) : Nat := hostWindow + s.pair (Reg.KVC_SWAPf_BASE_LO f) + u * 16384

/-- An eligible victim for the requester h (R250). -/
def State.eligible (s : State) (h : Nat) (only : Option Nat) (v : Nat) (x : Stream) : Bool :=
  match s.kvOf v with
  | none => false
  | some k =>
    v != h && (match only with | some f => x.fn == f | none => true) && s.poolOf v == s.poolOf h && !x.kv.pinned &&
    !x.kv.ring && x.st != .exporting && (x.kv.st == .resident || x.kv.st == .parked || x.kv.st == .swapped) &&
    (match x.step with | none => true | some r => r.yielded || !x.kv.need.isEmpty) &&
    !(s.swapOrder v k).isEmpty &&
    decide (s.swapUsed x.fn + (s.swapOrder v k).length * k.frames ≤ s.swapSize x.fn)
/-- The order in which victims are taken: lowest class, longest unused, lower global handle. -/
def victimBefore (a b : Nat × Stream) : Bool :=
  decide (a.2.cls < b.2.cls) || (a.2.cls == b.2.cls && (decide (a.2.lastUse < b.2.lastUse) ||
    (a.2.lastUse == b.2.lastUse && decide (a.1 < b.1))))
def bestOf (lt : Nat × Stream → Nat × Stream → Bool) : List (Nat × Stream) → Option (Nat × Stream)
  | [] => none
  | e :: t => match bestOf lt t with
    | none => some e
    | some b => if lt b e then some b else some e
/-- The victim R250 chooses. -/
def State.cacheVictim (s : State) (h : Nat) : Option Nat :=
  let only := if s.overShare (s.strm h).fn then some (s.strm h).fn else none
  (bestOf victimBefore (s.streams.filter (fun e => s.eligible h only e.1 e.2))).map (fun e => e.1)
/-- Frames of a pool that victims already swapping will free, and frames that requesters of the pool wait for (R249). -/
def State.inPool (s : State) (p : Nat) (f : Stream → List Nat) : Nat :=
  sumMap (fun e => if s.poolOf e.1 = p then (f e.2).length * ((s.kvOf e.1).map KvDecl.frames).getD 0 else 0) s.streams
def State.freesToCome (s : State) (p : Nat) : Nat := s.inPool p (fun x => x.kv.swapOut)
def State.needsWaiting (s : State) (p : Nat) : Nat := s.inPool p (fun x => x.kv.need)
/-- SWAPPING and RING of KVC_STATUS (Table 11-6). -/
def State.showSwapping (s : State) : State := s.setBit Reg.KVC_STATUS 1 (s.streams.any (fun e => !e.2.kv.swapOut.isEmpty))
def State.showRing (s : State) : State := s.setBit Reg.KVC_STATUS 2 (s.streams.any (fun e => e.2.kv.ring))
/-- Marks a victim SWAP_OUT: its set is flushed, and its swappable pages are to go, in order (R228, R240, R249). -/
def State.markVictim (s : State) (v : Nat) : State :=
  match s.kvOf v with
  | none => s
  | some k =>
    let s1 := s.flushSet v
    (s1.setKv v { (s1.strm v).kv with st := .swapOut, swapOut := s1.swapOrder v k }).showSwapping
/-- Chooses victims until the frees to come in the requester's pool cover its every need; the flag says whether they do. -/
def chooseVictims (h : Nat) : Nat → State → Bool × State
  | 0, s => (decide (s.needsWaiting (s.poolOf h) ≤ s.freesToCome (s.poolOf h)), s)
  | n + 1, s =>
    if s.needsWaiting (s.poolOf h) ≤ s.freesToCome (s.poolOf h) then (true, s)
    else match s.cacheVictim h with
      | none => (false, s)
      | some v => chooseVictims h n (s.markVictim v)
/-- The order in which requesters are served: by class, then waiting time, then handle. -/
def requesterBefore (a b : Nat × Stream) : Bool :=
  decide (b.2.cls < a.2.cls) || (a.2.cls == b.2.cls && (decide (a.2.kv.since < b.2.kv.since) ||
    (a.2.kv.since == b.2.kv.since && decide (a.1 < b.1))))
/-- The requester of a pool that is served last. -/
def State.lastRequester (s : State) (p : Nat) : Option Nat :=
  (bestOf (fun a b => requesterBefore b a) (s.streams.filter (fun e => !e.2.kv.need.isEmpty && s.poolOf e.1 == p))).map (fun e => e.1)
/-- A sequence asks for pages for list entries (R249). The flag says that no page and no victim can be had: CACHE_FULL,
and the sequence is PARKED; a sequence whose `need` is empty afterwards holds everything. Where the frees to come do not
cover every need, the requester that would be served last ends so: the one that asks, or another, later (log 24). -/
def State.wantPages (s : State) (h : Nat) (l : List Nat) : Bool × State :=
  let s1 := (s.setKv h { (s.strm h).kv with need := l, since := s.tb.toNat }).grant h
  if (s1.strm h).kv.need.isEmpty then (false, s1)
  else
    let (ok, s2) := chooseVictims h s1.streams.length s1
    if ok ∨ s2.lastRequester (s2.poolOf h) ≠ some h then (false, s2)
    else
      let s3 := s2.setKv h { (s2.strm h).kv with need := [], st := .parked }
      (true, (s3.count Reg.KVC_CACHE_FULL 1 Reg.KVC_INT_STATUS 4).raise Reg.KVC_INT_STATUS 0)
/-- Serves the waiting requesters in order. One that a pool cannot serve holds back the later ones of that pool; one whose
function holds its share holds back nobody. -/
def serveNeeds : Nat → List Nat → List Nat → State → State
  | 0, _, _, s => s
  | n + 1, pools, skip, s =>
    match bestOf requesterBefore (s.streams.filter (fun e => !e.2.kv.need.isEmpty && !skip.contains e.1 &&
        !pools.contains (s.poolOf e.1))) with
    | none => s
    | some (h, x) =>
      let s1 := s.grant h
      if (s1.strm h).kv.need.isEmpty then serveNeeds n pools skip s1
      else if s1.overShare x.fn then serveNeeds n pools (h :: skip) s1
      else serveNeeds n (s.poolOf h :: pools) skip s1

/-! Restore (R252). -/

/-- List entries that lie in the swap pool. -/
def State.swappedEntries (s : State) (h : Nat) : List Nat := (s.kvHeld h).filter (fun i => (s.kvEnt h i).kind == 2)
/-- Reads the swapped pages back into the frames given for them, as far as their host pages translate. -/
def bringBack (h : Nat) (k : KvDecl) (s : State) : List (Nat × Nat) → State
  | [] => s
  | (i, f) :: t =>
    let e := s.kvEnt h i
    let fn := (s.strm h).fn
    if e.kind ≠ 2 ∨ !s.hostOk (s.swapAddr fn e.loc) (k.frames * 16384) then bringBack h k s t
    else
      let s1 := s.writePage s.oasisReader f 0 (s.bytes (s.swapAddr fn e.loc) (k.frames * 16384))
      bringBack h k (((s1.setKvEnt h i ⟨1, false, f⟩).freeSwap fn e.loc).bump64 Reg.KVC_SWAP_IN_LO 1) t
/-- Pages set aside whose entries are still swapped are given back. -/
def dropGranted (h : Nat) (k : KvDecl) (s : State) : List (Nat × Nat) → State
  | [] => s
  | (i, f) :: t => dropGranted h k (if (s.kvEnt h i).kind = 2 then s.freeRun f k.frames else s) t
/-- A restore ends CACHE_FULL: what it holds pages for is read back and stays resident, the rest stays swapped (R252). -/
def State.cutRestore (s : State) (h : Nat) : State :=
  match s.kvOf h with
  | none => s
  | some k =>
    let l := (s.strm h).kv.granted.filter (fun x => (s.kvEnt h x.1).kind == 2)
    let s1 := dropGranted h k (bringBack h k s l) l
    s1.setKv h { (s1.strm h).kv with granted := (s.strm h).kv.granted.filter (fun x => (s.kvEnt h x.1).kind != 2) }
/-- The restore of a sequence begins (R252): it asks for the pages of its swapped entries. The flag says CACHE_FULL. -/
def State.askRestore (s : State) (h : Nat) : Bool × State :=
  let l := (s.swappedEntries h).filter (fun i => !(s.strm h).kv.granted.any (fun x => x.1 == i))
  let s1 := (s.setKv h { (s.strm h).kv with st := .restore, swapOut := [] }).showSwapping
  let (full, s2) := s1.wantPages h l
  (full, if full then s2.cutRestore h else s2)

/-! Releasing a cache (Table 11-5). -/

/-- Releases the entries of one block: private pages are freed, a record loses a holder, swap slots return. -/
def releaseEntries (h : Nat) (k : KvDecl) (f : Nat) (s : State) : List Nat → State
  | [] => s
  | i :: t =>
    let e := s.kvEnt h i
    let s1 := if e.kind = 1 ∧ !e.shared then s.freeRun e.loc k.frames
      else if e.kind = 2 then s.freeSwap f e.loc else s
    releaseEntries h k f (s1.setKvEnt h i ⟨0, false, 0⟩) t
def State.releaseBlock (s : State) (h j : Nat) (k : KvDecl) : State :=
  let v := (s.strm h).kv
  let s1 := releaseEntries h k (s.strm h).fn s ((List.range k.groups).map (fun g => j * k.groups + g))
  match v.recOf j with
  | none => s1
  | some r =>
    let s2 := s1.dropHolder k.frames r
    s2.setKv h { (s2.strm h).kv with recs := (s2.strm h).kv.recs.filter (fun x => x.1 != j) }
def releaseBlocks (h : Nat) (k : KvDecl) (s : State) : List Nat → State
  | [] => s
  | j :: t => releaseBlocks h k (s.releaseBlock h j k) t
/-- Drops a sequence's whole cache: staging is discarded, everything else released, and pages set aside for it freed. -/
def State.dropCache (s : State) (h : Nat) : State :=
  match s.kvOf h with
  | none => s
  | some k =>
    let v := (s.strm h).kv
    if v.st = .none then s
    else
      let s1 := freeAll k.frames s (v.granted.map (fun x => x.2))
      let s2 := releaseBlocks h k s1 (List.range (s.kvBlocks h))
      (s2.setKv h {}).showSwapping.showRing

end Sys2Proof.Machine
end

