-- ==== Sys2Proof/Machine/PlaceOps.lean ====
section
/-!
DEFINITION. Operations of the placement engine (chapter 16): what a cluster holds, the admission test and order,
admission with wake and pre-emption, release, and the gating of regions.
-/

namespace Sys2Proof.Machine

/-! What clusters hold. -/

/-- The number of tick budget (p, k). -/
def budgetOf (g : Graph) : Nat := 2 * g.plane + b2n g.frame
/-- Bit `cl` of a pool's cluster mask. -/
def PoolRec.has (p : PoolRec) (cl : Nat) : Bool := bitAt p.mask cl
/-- The pool a cluster belongs to: 7 for none. -/
def State.clPool (s : State) (cl : Nat) : Nat :=
  ((s.structure_.pools.find? (fun p => p.has cl)).map (fun p => p.kind)).getD 7
/-- The pool is draining (R67). -/
def State.draining (s : State) (p : Nat) : Bool := s.fld Reg.SPL_POOL_STATE (2 * p) 2 == 2
/-- The cluster's region is awake. -/
def State.awake (s : State) (cl : Nat) : Bool := s.rbit Reg.PLC_AWAKE (clRegion16 cl)
/-- Cost-table entry for a declared size (R59). -/
def Graph.cost (g : Graph) (size : Nat) : Option CostEntry := g.costs.find? (fun e => decide (size ≤ e.bound))
/-- Weight references of a graph, and those with home CLUSTER, each once. -/
def Graph.weightOps (g : Graph) : List (Nat × Home) :=
  g.nodes.flatMap (fun r => r.ops.filterMap (fun o => match o with | .weight i h => some (i, h) | _ => none))
def Graph.weightIds (g : Graph) : List Nat := (g.weightOps.map (fun x => x.1)).eraseDups
def Graph.storeIds (g : Graph) : List Nat := ((g.weightOps.filter (fun x => x.2 == .cluster)).map (fun x => x.1)).eraseDups
def State.weight (s : State) (i : Nat) : Option Weight := s.weights.find? (fun w => w.ref.id == i)
/-- Bytes a graph's first placed stream takes of a cluster store: weights with home CLUSTER and staging sets (R238, R356). -/
def State.graphStore (s : State) (g : Graph) : Nat :=
  sumMap (fun i => ((s.weight i).map (fun w => w.ref.size)).getD 0) g.storeIds + ((g.kv).map KvDecl.stageBytes).getD 0
/-- Bytes of a stream's state items. -/
def Graph.itemBytes (g : Graph) : Nat := sumMap (fun i => i.bytes) g.items
/-- Streams placed on a cluster, but for some. -/
def State.placedOn (s : State) (cl : Nat) (excl : List Nat) : List (Nat × Stream) :=
  s.streams.filter (fun e => e.2.cluster == some cl && !excl.contains e.1)
/-- Graphs with something placed on a cluster. -/
def State.graphsOn (s : State) (cl : Nat) (excl : List Nat) : List Nat :=
  ((s.placedOn cl excl).map (fun e => e.2.graph) ++ (s.place.crests.filter (fun c => c.cluster == cl)).map (fun c => c.graph)
    ++ (s.place.pend.filter (fun p => p.cluster == cl)).map (fun p => p.graph)).eraseDups
/-- Free bytes of a cluster's store. -/
def State.storeFree (s : State) (cl : Nat) (excl : List Nat) : Nat :=
  0x800000 - (sumMap (fun i => ((s.graphOf i).map s.graphStore).getD 0) (s.graphsOn cl excl)
    + sumMap (fun (e : Nat × Stream) => ((s.graphOf e.2.graph).map Graph.itemBytes).getD 0) (s.placedOn cl excl)
    + sumMap (fun (p : PendAdmit) => ((s.graphOf p.graph).map Graph.itemBytes).getD 0)
        (s.place.pend.filter (fun p => p.cluster == cl)))
/-- reserved(p, k) of a cluster without some streams. -/
def State.reserved (s : State) (cl b : Nat) (excl : List Nat) : Nat :=
  s.rn (Reg.TBG_RES cl b) - sumMap (fun (e : Nat × Stream) =>
    match s.graphOf e.2.graph with
    | some g => if g.ticked ∧ budgetOf g = b then e.2.cycles else 0
    | none => 0) (s.streams.filter (fun e => e.2.cluster == some cl && excl.contains e.1))

/-- A request for admission (R356). -/
structure Request where
  graph : Graph
  cls : Nat
  cost : CostEntry
  deriving DecidableEq, Repr

/-- The fill ceiling's limit of a budget (R37). -/
def State.budgetLimit (s : State) (cl b : Nat) : Nat := s.rn (Reg.TBG_CAP cl b) * s.structure_.prio.ceil / 100
/-- Bytes that placing the request takes of a cluster's store. -/
def State.requestStore (s : State) (r : Request) (cl : Nat) (excl : List Nat) : Nat :=
  r.graph.itemBytes + if (s.graphsOn cl excl).contains r.graph.id then 0 else s.graphStore r.graph
/-- A cluster passes for a request, without some streams (R356). -/
def State.passes (s : State) (r : Request) (cl : Nat) (excl : List Nat) : Bool :=
  s.clPool cl == r.graph.pool && !s.draining r.graph.pool &&
  (!r.graph.ticked ||
    decide (s.reserved cl (budgetOf r.graph) excl + r.cost.cycles ≤ s.budgetLimit cl (budgetOf r.graph))) &&
  decide (s.requestStore r cl excl ≤ s.storeFree cl excl)
/-- Lexicographic order of keys. -/
def keyLt : List Int → List Int → Bool
  | a :: t, b :: u => decide (a < b) || (a == b && keyLt t u)
  | _, _ => false
/-- The keys of R356 for a cluster: lower is tried first. Key 5 is taken without some streams (R358). -/
def State.placeKey (s : State) (r : Request) (cl : Nat) (excl : List Nat) : List Int :=
  let b := budgetOf r.graph
  [ if s.awake cl then 0 else 1,
    if (s.graphsOn cl []).contains r.graph.id then 0 else 1,
    if (s.die (clDie cl)).throttling then 1 else 0,
    if r.graph.kv.isSome then -(((s.pagePool (clDie cl) r.graph.pool).map s.poolFree).getD 0 : Int) else 0,
    if r.graph.ticked then -((s.reserved cl b excl + r.cost.cycles : Nat) : Int)
      else ((s.storeFree cl excl - s.requestStore r cl excl : Nat) : Int),
    cl ]
/-- The cluster of a list that comes first in the order of R356. -/
def State.firstCluster (s : State) (r : Request) : List Nat → Option Nat
  | [] => none
  | cl :: t => match s.firstCluster r t with
    | none => some cl
    | some b => if keyLt (s.placeKey r b []) (s.placeKey r cl []) then some b else some cl
def allClusters : List Nat := List.range 96

/-! Pre-emption (R358). -/

/-- A stream may be a victim for a request of a class. -/
def victimOk (cls : Nat) (x : Stream) : Bool :=
  decide (x.cls < cls) && !x.kv.pinned && x.st != .exporting && x.st != .swapped && x.st != .closed && !x.victim &&
  !x.closing && !x.kv.ring && x.kv.st != .swapOut
def insertVictim (e : Nat × Stream) : List (Nat × Stream) → List (Nat × Stream)
  | [] => [e]
  | b :: t => if victimBefore e b then e :: b :: t else b :: insertVictim e t
/-- The candidates on a cluster in the order they are taken. -/
def State.victims (s : State) (cl cls : Nat) : List (Nat × Stream) :=
  ((s.placedOn cl []).filter (fun e => victimOk cls e.2)).foldl (fun l e => insertVictim e l) []
/-- The shortest run of candidates whose release lets the cluster pass. -/
def enoughVictims (s : State) (r : Request) (cl : Nat) : List Nat → List (Nat × Stream) → Option (List Nat)
  | acc, [] => if s.passes r cl acc then some acc else none
  | acc, e :: t => if s.passes r cl acc then some acc else enoughVictims s r cl (acc ++ [e.1]) t
/-- A cluster with its victims, as a key of R358: the highest class, the count, then the order of R356. -/
def State.preemptKey (s : State) (r : Request) (cl : Nat) (v : List Nat) : List Int :=
  Int.ofNat ((v.map (fun h => (s.strm h).cls)).foldl max 0) :: Int.ofNat v.length :: s.placeKey r cl v
def State.bestPreempt (s : State) (r : Request) : List Nat → Option (Nat × List Nat)
  | [] => none
  | cl :: t =>
    match enoughVictims s r cl [] (s.victims cl r.cls), s.bestPreempt r t with
    | none, b => b
    | some v, none => some (cl, v)
    | some v, some b => if keyLt (s.preemptKey r b.1 b.2) (s.preemptKey r cl v) then some b else some (cl, v)

/-! Gating and waking (R365, R366). -/

/-- Sets the STATE field of every unit of a cluster: 4 GATED, 0 IDLE. -/
def State.setGate (s : State) (cl v : Nat) : State :=
  let l := [Reg.ME_STATUS cl 0, Reg.ME_STATUS cl 1, Reg.VEC_STATUS cl, Reg.DRF_STATUS cl, Reg.SMP_STATUS cl,
    Reg.CAR_STATUS cl] ++ (List.range 4).map (fun k => Reg.NMD_STATUS (4 * cl + k))
  (l.foldl (fun t a => t.setFld a 0 3 v) s).setFld (Reg.CRN_STATUS cl) 4 3 v
/-- The cluster is power-gated: its units read GATED (Tables 04-9, 06-7). -/
def State.gated (s : State) (cl : Nat) : Bool := s.fld (Reg.DRF_STATUS cl) 0 3 == 4
/-- The clusters of a region. -/
def regionClusters (j : Nat) : List Nat := (List.range 6).map (fun c => 6 * j + c)
/-- Zeroes a range of memory at once. -/
def State.zeroRange (s : State) (a n : Nat) : State :=
  { s with mem := s.mem.filter (fun e => decide (e.1 < a) || decide (a + n ≤ e.1)) }
/-- A cluster is gated: its units stop, a test evaluation is lost, and so are the contents of its store (R57, R137, R161). -/
def State.gateCluster (s : State) (cl : Nat) : State :=
  let s0 := if (s.cl cl).loaded = [] then s else s.setCl cl { s.cl cl with loaded := [] }
  let s1 := (s0.setGate cl 4).zeroRange (clusterStore cl) 0x800000
  { s1 with drfTests := s1.drfTests.filter (fun c => c != cl) }
def gateClusters (s : State) : List Nat → State
  | [] => s
  | cl :: t => gateClusters (s.gateCluster cl) t
/-- Power reaches the clusters of a list that are in a pool; the others stay gated as long as the structure stands (R57). -/
def wakeClusters (s : State) : List Nat → State
  | [] => s
  | cl :: t => wakeClusters (if s.clPool cl = 7 then s else s.setGate cl 0) t
/-- The stores of a region lose their contents (R161). -/
def State.loseStores (s : State) (j : Nat) : State :=
  (gateClusters s (regionClusters j)).zeroRange (regionStore j) 0x1000000
/-- Some region is waking. -/
def State.showWaking (s : State) : State := s.setBit Reg.PLC_STATUS 1 (!s.place.waking.isEmpty)
/-- The wake of a region begins (R366), unless it is awake or waking. -/
def State.wakeRegion (s : State) (j : Nat) : State :=
  if s.rbit Reg.PLC_AWAKE j || s.place.waking.contains j then s
  else
    let p := s.place
    let s1 : State := { s with place := { p with
      waking := p.waking ++ [j]
      idle := AMap.write (fun _ => 0) p.idle j 0 } }
    ((s1.count Reg.PLC_WAKE 1 Reg.PLC_INT_STATUS 5).showWaking).dieBusy (j / 4)
/-- A region is awake: its units run. -/
def State.regionUp (s : State) (j : Nat) : State :=
  let p := s.place
  let s1 : State := { s with place := { p with
    waking := p.waking.filter (fun k => k != j)
    idle := AMap.write (fun _ => 0) p.idle j 0 } }
  (wakeClusters (s1.setBit Reg.PLC_AWAKE j true) (regionClusters j)).showWaking
/-- A region is gated: its units stop and its stores are lost. -/
def State.regionDown (s : State) (j : Nat) : State :=
  let p := s.place
  let s1 : State := { s with place := { p with
    waking := p.waking.filter (fun k => k != j)
    idle := AMap.write (fun _ => 0) p.idle j 0 } }
  (((s1.setBit Reg.PLC_AWAKE j false).loseStores j).showWaking).dieBusy (j / 4)
/-- The headroom in 0.1 W (R364). -/
def State.capNow (s : State) : Nat := max 1500 (min 4500 (s.fld Reg.PWR_CAP 0 16))
def State.headroom (s : State) : Nat := s.capNow - s.fld Reg.PWR_NOW 0 16

/-! Decisions (R357). -/

/-- What the placement engine decides on a request. -/
inductive Decision where
  | on (cl : Nat)
  | wake (cl : Nat)
  | preempt (cl : Nat) (victims : List Nat)
  | noRoom
  deriving DecidableEq, Repr

/-- The decision, and the state with a refused wake counted; a region that is waking already needs none (R364). -/
def State.decide_ (s : State) (r : Request) : Decision × State :=
  match s.firstCluster r (allClusters.filter (fun cl => s.awake cl && s.passes r cl [])) with
  | some cl => (.on cl, s)
  | none =>
    let gated := s.firstCluster r (allClusters.filter (fun cl => !s.awake cl && s.passes r cl []))
    let denied := gated.any (fun cl => !s.place.waking.contains (clRegion16 cl)) && decide (r.cls < 7) && decide (s.headroom < 180)
    let s1 := if denied then (s.count Reg.PLC_WAKE_DENIED 1 Reg.PLC_INT_STATUS 5).raise Reg.PLC_INT_STATUS 4 else s
    match if denied then none else gated with
    | some cl => (.wake cl, s1)
    | none =>
      match if 1 ≤ r.cls then s1.bestPreempt r (allClusters.filter (fun cl => s1.awake cl && s1.clPool cl == r.graph.pool))
        else none with
      | some (cl, v) => (.preempt cl v, s1)
      | none => (.noRoom, (s1.count Reg.PLC_NOROOM 1 Reg.PLC_INT_STATUS 5).raise Reg.PLC_INT_STATUS 0)

/-- Adds a request's cycles to its cluster's reservation (R37). -/
def State.reserve (s : State) (r : Request) (cl : Nat) : State :=
  let b := budgetOf r.graph
  if r.graph.ticked then s.setN (Reg.TBG_RES cl b) (s.rn (Reg.TBG_RES cl b) + r.cost.cycles) else s
/-! Barriers and queues of placed streams (R146, R192). -/

/-- The cores of a cluster. -/
def coresOf (cl : Nat) : List Nat := (List.range 4).map (fun k => 4 * cl + k)
def State.bar (s : State) (cl i : Nat) : Barrier := AMap.read (fun _ => {}) (s.cl cl).bars i
def State.setBar (s : State) (cl i : Nat) (b : Barrier) : State :=
  s.setCl cl { s.cl cl with bars := AMap.write (fun _ => {}) (s.cl cl).bars i b }
def State.queueOf (s : State) (cl q : Nat) : List Dword := AMap.read (fun _ => []) (s.cl cl).queues q
def State.setQueue (s : State) (cl q : Nat) (l : List Dword) : State :=
  s.setCl cl { s.cl cl with queues := AMap.write (fun _ => []) (s.cl cl).queues q l }
def setBarriers (cl base : Nat) (s : State) : Nat → List Nat → State
  | _, [] => s
  | i, e :: t => setBarriers cl base (s.setBar cl (base + i) { expect := e }) (i + 1) t
def clearQueues (cl base : Nat) (s : State) : Nat → State
  | 0 => s
  | n + 1 => clearQueues cl base (s.setQueue cl (base + n) []) n
/-- A node's barriers and queues take their initial state: no arrivals, generation 0, the expected counts, no entries. -/
def State.initObjs (s : State) (cl : Nat) (a : ObjAlloc) (x : KernelNode) : State :=
  clearQueues cl a.qBase (setBarriers cl a.barBase s 0 x.barriers) a.qCount
/-- What node i of a stream holds on its cluster. -/
def State.objsOf (s : State) (cl h i : Nat) : Option ObjAlloc := (s.cl cl).alloc.find? (fun a => a.strm == h && a.node == i)
/-- Allocates a kernel node's barriers and queues, the lowest free runs, in their initial state; a node that cannot have them
gets nothing yet (DESIGN CHOICE, log 39). -/
def State.allocObjs (s : State) (cl h i : Nat) (x : KernelNode) : State :=
  let l := (s.cl cl).alloc
  match s.objsOf cl h i, lowestRun (l.map (fun a => (a.barBase, a.barCount))) 256 x.barriers.length,
      lowestRun (l.map (fun a => (a.qBase, a.qCount))) 16 x.queues with
  | none, some bb, some qb =>
    let a : ObjAlloc := { strm := h, node := i, barBase := bb, barCount := x.barriers.length, qBase := qb, qCount := x.queues }
    (s.setCl cl { s.cl cl with alloc := l ++ [a] }).initObjs cl a x
  | _, _, _ => s
/-- The kernel nodes of a list get their barriers and queues. -/
def placeNodes (cl h : Nat) (s : State) : Nat → List NodeRec → State
  | _, [] => s
  | i, n :: t => placeNodes cl h (match n.node with | .kernel x => s.allocObjs cl h i x | _ => s) (i + 1) t
/-! Weights in a cluster's store (R273). -/

/-- A weight that the cluster's store holds. -/
def State.stored (s : State) (cl i : Nat) : Option StoredWeight := (s.cl cl).loaded.find? (fun w => w.id == i)
/-- Copies a weight from DRAM to the store: its copy's bytes, and the granules delivered as zeros. -/
def State.copyWeight (s : State) (cl : Nat) (w : Weight) (x : StoredWeight) : State :=
  let p := s.weightPieces w.addr 0 w.ref.size
  let bad := (p.flatMap (fun r => granulesOf r.1 r.2)).filter s.granBad
  let r := s.readRuns (s.clLoc cl 5 0) p
  let s1 := r.st.writeData (s.clLoc cl 5 0) (clusterStore cl + x.ofs) r.bytes
  s1.setCl cl { s1.cl cl with loaded := (s1.cl cl).loaded.filter (fun y => y.id != x.id) ++ [{ x with zeros := bad }] }
/-- Loads one weight into a cluster's store, unless it lies there. Where in the store it lies is open: the model packs the
weights down from the store's top (DESIGN CHOICE, log 39). -/
def State.loadWeight (cl : Nat) (s : State) (i : Nat) : State :=
  match s.weight i, s.stored cl i with
  | some w, none =>
    let n := (w.ref.size + 63) / 64
    match if w.present then lowestRun ((s.cl cl).loaded.map (fun x => (x.above, x.units))) 131072 n else none with
    | some k => s.copyWeight cl w { id := i, units := n, above := k }
    | none => s
  | _, _ => s
/-- A graph's weights with home CLUSTER are in the cluster's store. -/
def State.loadWeights (s : State) (cl : Nat) (g : Graph) : State := g.storeIds.foldl (State.loadWeight cl) s
/-- Graphs with an instance on a cluster. -/
def State.instances (s : State) (cl : Nat) : List Graph :=
  (((s.placedOn cl []).map (fun e => e.2.graph) ++ (s.place.crests.filter (fun c => c.cluster == cl)).map (fun c => c.graph)).eraseDups).filterMap
    s.graphOf
/-- Weights of graphs with no instance on the cluster any more leave its store. -/
def State.dropWeights (s : State) (cl : Nat) : State :=
  let need := (s.instances cl).flatMap Graph.storeIds
  if (s.cl cl).loaded.all (fun w => need.contains w.id) then s
  else s.setCl cl { s.cl cl with loaded := (s.cl cl).loaded.filter (fun w => need.contains w.id) }
/-- The weights of the graphs with instances on a cluster return to its store (R366). -/
def State.reloadWeights (s : State) (cl : Nat) : State := (s.instances cl).foldl (fun t g => t.loadWeights cl g) s
/-- A weight's new bytes reach the stores that hold it (R174). -/
def refreshWeights (w : Weight) (s : State) : List Nat → State
  | [] => s
  | cl :: t => refreshWeights w (match s.stored cl w.ref.id with | some x => s.copyWeight cl w x | none => s) t
/-- A stream has been placed: its graph's weights are loaded (R273), and its kernel nodes get their barriers and queues
(R146, R192). -/
def State.placeObjs (s : State) (h : Nat) : State :=
  match (s.strm h).cluster, s.graphOf (s.strm h).graph with
  | some cl, some g => placeNodes cl h (s.loadWeights cl g) 0 g.nodes
  | _, _ => s
/-- A stream leaves its cluster: what its nodes held is free. -/
def State.freeObjs (s : State) (cl h : Nat) : State :=
  if (s.cl cl).alloc.any (fun a => a.strm == h) then
    s.setCl cl { s.cl cl with alloc := (s.cl cl).alloc.filter (fun a => a.strm != h) }
  else s
/-- Takes a stream off its cluster and its cycles off the reservation; its graph's weights leave with the last instance. -/
def State.unplace (s : State) (h : Nat) : State :=
  let x := s.strm h
  match x.cluster, s.graphOf x.graph with
  | some cl, some g =>
    let b := budgetOf g
    let s1 := if g.ticked then s.setN (Reg.TBG_RES cl b) (s.rn (Reg.TBG_RES cl b) - x.cycles) else s
    ((s1.freeObjs cl h).setStrm h { x with cluster := none }).dropWeights cl
  | _, _ => s
/-- The next order of admission (R38, R272). -/
def State.nextOrder (s : State) : Nat × State := (s.place.orders, { s with place := { s.place with orders := s.place.orders + 1 } })
/-- PREEMPTING of PLC_STATUS. -/
def State.showPreempting (s : State) : State :=
  s.setBit Reg.PLC_STATUS 2 (s.place.pend.any (fun p => !p.victims.isEmpty))

/-! Ready items of work that is not tick-bound (R355, R359). -/

/-- Positions queued. -/
def Stream.queued (x : Stream) : Nat := sumMap (fun c => c.pos) x.queue
/-- An END stands in the queue. -/
def Stream.hasEnd (x : Stream) : Bool := x.queue.any (fun c => c.ended)
/-- The input node of a graph: positions per step, positions per row, bytes per row and slot (Table 12-1). -/
structure InputDesc where
  posStep : Nat
  posPerRow : Nat
  rowBytes : Nat
  sOut : Nat
  deriving DecidableEq, Repr
def inputDesc (d : BitVec 512) : InputDesc := ⟨db d 4 2, db d 6 2, db d 8 4, db d 12 1⟩
def Graph.input (g : Graph) : InputDesc :=
  (g.nodes.findSome? (fun r => match r.node with | .input d => some (inputDesc d) | _ => none)).getD ⟨1, 1, 1, 255⟩
/-- Positions before the first END of a queue, and whether there is one. -/
def positionsToEnd : List Chunk → Nat × Bool
  | [] => (0, false)
  | c :: t => if c.ended then (c.pos, true) else ((positionsToEnd t).1 + c.pos, (positionsToEnd t).2)
/-- A step is ready (R267): its positions are queued, or fewer and then an END, but not none. -/
def State.stepReady (s : State) (h : Nat) : Bool :=
  match s.graphOf (s.strm h).graph with
  | none => false
  | some g =>
    let (n, e) := positionsToEnd (s.strm h).queue
    decide (g.input.posStep ≤ n) || (e && decide (0 < n))
def State.isTicked (s : State) (h : Nat) : Bool := ((s.graphOf (s.strm h).graph).map (fun g => g.ticked)).getD false
/-- The tick count of a plane that has been delivered to a cluster (R35). -/
def State.delivered (s : State) (cl p : Nat) (frame : Bool) : Nat :=
  ((s.plane p).map (fun x => AMap.read (fun _ => 0) x.given (2 * cl + b2n frame))).getD 0
/-- The tick a stream's next step is bound to has reached its cluster (R35, R39). -/
def State.tickHere (s : State) (h : Nat) : Bool :=
  let x := s.strm h
  match x.cluster, s.graphOf x.graph with
  | some cl, some g => match s.plane g.plane with
    | some p => p.run && decide (x.nextTick ≤ s.delivered cl g.plane g.frame)
    | none => false
  | _, _ => false
/-- A placed stream may run a step now, as far as it alone is concerned. -/
def State.mayStep (s : State) (h : Nat) : Bool :=
  let x := s.strm h
  x.st == .active && x.step.isNone && !x.closing && !x.victim && x.attach.isNone &&
  (match x.cluster with | some cl => s.awake cl | none => false) && x.kv.st != .swapOut && x.kv.st != .restore
/-- A stream's step that is ready at its tick and could start. -/
def State.tickReady (s : State) (h : Nat) : Bool := s.isTicked h && s.mayStep h && s.tickHere h && s.stepReady h
/-- A cluster has grain-bound work to start: a grain-bound step that is ready at its tick (R38). -/
def State.grainReady (s : State) (cl : Nat) : Bool :=
  s.streams.any (fun e => e.2.cluster == some cl && s.grainBound e.1 && s.tickReady e.1)
/-- The items that count as urgent: effective class 6 and above. -/
def Item.urgent (i : Item) : Bool := decide (6 ≤ i.cls)
/-- The class a stream's work runs at: its item's effective class, else its own (R359, R362). -/
def State.effCls (s : State) (h : Nat) : Nat := ((s.place.items.find? (fun i => i.handle == h)).map (fun i => i.cls)).getD (s.strm h).cls
/-- A ready step of a stream that is not tick-bound becomes an item (R355, R359). -/
def State.offerItem (s : State) (h : Nat) : State :=
  let x := s.strm h
  match x.cluster, s.graphOf x.graph with
  | some cl, some g =>
    if g.ticked || x.st != .active || x.step.isSome || x.victim || s.place.items.any (fun i => i.handle == h) ||
        !s.stepReady h then s
    else
      let i : Item := { handle := h, cluster := cl, cls := x.cls, since := s.tb,
                        urgentSince := if 6 ≤ x.cls then some s.place.agingTicks else none }
      let s1 : State := { s with place := { s.place with items := s.place.items ++ [i] } }
      let s2 := if i.urgent then (s1.count Reg.PLC_URGENT 1 Reg.PLC_INT_STATUS 5).raise Reg.PLC_INT_STATUS 2 else s1
      if s2.awake cl then s2 else s2.wakeRegion (clRegion16 cl)
  | _, _ => s
def State.dropItem (s : State) (h : Nat) : State :=
  { s with place := { s.place with items := s.place.items.filter (fun i => i.handle != h) } }

end Sys2Proof.Machine
end

