-- ==== Sys2Proof/Machine/CmdEngine.lean ====
section
/-!
DEFINITION. Meanings of the commands of the matrix engines, vector units, statistics, drift generators, sampling units
and cairn units (chapters 04, 05, 06, 09).
-/

namespace Sys2Proof.Machine

/-- A counter-clear register: bit 0 of the word written clears the listed registers. -/
def State.cntClr (s : State) (v : Word) (l : List Nat) : State := if bitAt v.toNat 0 then s.zeroRegs l else s

/-- The registers each clear register covers (Tables 04-8, 04-11, 05-4, 06-7, 06-9). -/
def meCounters (cl m : Nat) : List Nat := wordsFrom (Reg.ME_BUSY_LO cl m) (Reg.ME_PREEMPT cl m)
def vecCounters (cl : Nat) : List Nat := wordsFrom (Reg.VEC_BUSY_LO cl) (Reg.VEC_PREEMPT cl)
def qstCounters (cl : Nat) : List Nat := wordsFrom (Reg.QST_ROWS_LO cl) (Reg.QST_CEIL cl)
def qstSlot (cl n : Nat) : List Nat := wordsFrom (Reg.QST_WCLIPn cl n) (Reg.QST_WMAXn cl n)
def drfCounters (cl : Nat) : List Nat := wordsFrom (Reg.DRF_EVAL_LO cl) (Reg.DRF_STALL cl)
def smpCounters (cl : Nat) : List Nat := wordsFrom (Reg.SMP_ROWS_LO cl) (Reg.SMP_NAN cl)

/-- ME_CNT_CLR (R98). -/
def execMeCntClr (cl : Fin 96) (e : Fin 2) (v : Word) (s : State) : Host.Outcome State Fault Refusal :=
  .next (s.live (fun t => t.cntClr v (meCounters cl e)))
/-- VEC_CNT_CLR (R100). -/
def execVecCntClr (cl : Fin 96) (v : Word) (s : State) : Host.Outcome State Fault Refusal :=
  .next (s.live (fun t => t.cntClr v (vecCounters cl)))

/-- The watch slots that a write of QST_CNT_CLR clears: bit 1 + n. -/
def clearSlots (cl : Nat) (v : Word) (s : State) : List Nat → State
  | [] => s
  | n :: t => clearSlots cl v (if bitAt v.toNat (1 + n) then s.zeroRegs (qstSlot cl n) else s) t
/-- QST_CNT_CLR (R117). -/
def execQstCntClr (cl : Fin 96) (v : Word) (s : State) : Host.Outcome State Fault Refusal :=
  .next (s.live (fun t => clearSlots cl v (t.cntClr v (qstCounters cl)) (List.range 8)))
/-- QST_SLOT_CLEAR (R117): slot n's counts and maximum. -/
def execQstSlotClear (cl : Fin 96) (n : Fin 8) (s : State) : Host.Outcome State Fault Refusal :=
  .next (s.live (fun t => t.zeroRegs (qstSlot cl n)))
/-- The stored fields of QST_WSELn (Table 05-5). -/
def wselFields (v : Word) : Word := v &&& 0xFFFFF801#32
/-- QST_WSEL_WRITE (R114, R117): the selection, and the slot cleared. -/
def execQstWselWrite (cl : Fin 96) (n : Fin 8) (v : Word) (s : State) : Host.Outcome State Fault Refusal :=
  .next (s.live (fun t => (t.setReg (Reg.QST_WSELn cl n) (wselFields v)).zeroRegs (qstSlot cl n)))

/-! The drift test (R137). -/

/-- Four consecutive registers as words. -/
def State.four (s : State) (r : Nat → Nat) : W4 := ⟨s.reg (r 0), s.reg (r 1), s.reg (r 2), s.reg (r 3)⟩
/-- DRF_TEST_GO: ignored while gated; DONE falls and the evaluation runs. -/
def doDrfTestGo (cl : Fin 96) (s : State) : State :=
  if s.gated cl then s
  else
    let s1 := (s.setBit (Reg.DRF_TCTRL cl) 1 false).setFld (Reg.DRF_STATUS cl) 0 3 1
    { s1 with drfTests := cl.val :: s.drfTests.filter (fun c => c != cl.val) }
def execDrfTestGo (cl : Fin 96) (s : State) : Host.Outcome State Fault Refusal := .next (s.live (doDrfTestGo cl))
/-- DRF_TEST_DONE: a test that runs writes DRF_TOUT and sets DONE; gating ends it (R137). -/
def doDrfTestDone (cl : Fin 96) (s : State) : State :=
  if s.drfTests.contains cl.val && !s.gated cl then
    let w := mix (s.four (Reg.DRF_TKEYi cl)) (s.four (Reg.DRF_TCTRi cl))
    let s1 := (((s.setReg (Reg.DRF_TOUTi cl 0) w.w0).setReg (Reg.DRF_TOUTi cl 1) w.w1).setReg (Reg.DRF_TOUTi cl 2) w.w2).setReg
      (Reg.DRF_TOUTi cl 3) w.w3
    let s2 := (s1.setBit (Reg.DRF_TCTRL cl) 1 true).setFld (Reg.DRF_STATUS cl) 0 3 0
    { s2 with drfTests := s.drfTests.filter (fun c => c != cl.val) }
  else s
def execDrfTestDone (cl : Fin 96) (s : State) : Host.Outcome State Fault Refusal := .next (s.live (doDrfTestDone cl))
/-- DRF_CNT_CLR (R136). -/
def execDrfCntClr (cl : Fin 96) (v : Word) (s : State) : Host.Outcome State Fault Refusal :=
  .next (s.live (fun t => t.cntClr v (drfCounters cl)))
/-- SMP_CNT_CLR (R138). -/
def execSmpCntClr (cl : Fin 96) (v : Word) (s : State) : Host.Outcome State Fault Refusal :=
  .next (s.live (fun t => t.cntClr v (smpCounters cl)))

/-! Resumption (R96). -/

/-- The unit can take a saved operation: either matrix engine takes a matrix operation, the vector unit a vector one. -/
def SavedOp.takes (o : SavedOp) (unit : Nat) : Bool := if o.unit < 2 then decide (unit < 2) else unit == 2
/-- A saved operation goes on at a free engine of its kind in the same cluster, which shows what the first one showed. STATE
shows RESTORE only within the command (log 35). -/
def resumeOp (cl : Fin 96) (unit : Fin 3) (id : Nat) (s : State) : State :=
  let w := s.wk cl
  match w.saved.find? (fun o => o.id == id && o.takes unit) with
  | none => s
  | some o =>
    if (AMap.read (fun _ => none) w.running unit.val).isSome then s
    else
      let saved := w.saved.filter (fun x => x.id != id)
      let s0 := s.setWk cl { w with
        running := AMap.write (fun _ => none) w.running unit.val (some { o with unit := unit })
        saved := saved }
      let s1 := ((s0.setN (unitStatus cl unit) (o.status / 8 * 8 + 1)).setReg (unitMode cl unit) o.mode).setN (unitGraph cl unit) o.graph
      if saved.any (fun x => x.handle == o.handle) then s1
      else s1.modStrm o.handle (fun x => { x with step := x.step.map (fun r => { r with yielded := false }) })

/-! Cairn units (R201, R204). -/

/-- A slot is held by a scan (CRN_STATUS). -/
def State.crnHeld (s : State) (e i : Nat) : Bool := s.rbit (Reg.CRN_STATUS e) i
/-- Restarts one slot: V takes the bits of I below the slot's width, and the byte count is cleared (R199). -/
def State.crnReload (s : State) (e i : Nat) : State :=
  (s.setPair (Reg.CRN_VALUEs_LO e i) (s.pair (Reg.CRN_INITs_LO e i) % 2 ^ s.fld (Reg.CRN_CFGs e i) 0 7)).setPair (Reg.CRN_BYTESs_LO e i) 0
def restartSlots (e : Nat) (v : Word) (s : State) : List Nat → State
  | [] => s
  | i :: t => restartSlots e v (if bitAt v.toNat i then
      (if s.crnHeld e i then s.raise (Reg.CRN_INT_STATUS e) 0 else s.crnReload e i) else s) t
/-- CRN_RESTART: a write of CRN_CTRL. -/
def execCrnRestart (e : Fin 104) (v : Word) (s : State) : Host.Outcome State Fault Refusal :=
  .next (s.live (fun t => restartSlots e v t (List.range 4)))
/-- The low register of a slot's 64-bit pair: P, I, X and V. -/
def crnPairLo (e i : Nat) : Nat → Nat
  | 0 => Reg.CRN_POLYs_LO e i
  | 1 => Reg.CRN_INITs_LO e i
  | 2 => Reg.CRN_XORs_LO e i
  | _ => Reg.CRN_VALUEs_LO e i
/-- A write of a pair's low word is held until the high word is written; a held slot ignores it (R201). -/
def State.crnLow (s : State) (e i pair : Nat) (v : Word) : State :=
  if s.crnHeld e i then s.raise (Reg.CRN_INT_STATUS e) 0
  else s.setCar e { s.car e with latch := AMap.write (fun _ => none) (s.car e).latch (4 * i + pair) (some v) }
/-- CRN_PAIR_HIGH_WRITE: the held low word and the high word take effect together. -/
def doCrnPairHighWrite (e : Fin 104) (i pair : Fin 4) (v : Word) (s : State) : State :=
  if s.crnHeld e i then s.raise (Reg.CRN_INT_STATUS e) 0
  else
    let k := 4 * i.val + pair.val
    let a := crnPairLo e i pair
    let lo := (AMap.read (fun _ => none) (s.car e).latch k).getD (s.reg a)
    let s1 := s.setCar e { s.car e with latch := AMap.write (fun _ => none) (s.car e).latch k none }
    (s1.setReg a lo).setReg (a + 4) v
def execCrnPairHighWrite (e : Fin 104) (i pair : Fin 4) (v : Word) (s : State) : Host.Outcome State Fault Refusal :=
  .next (s.live (doCrnPairHighWrite e i pair v))
/-- The configuration of a slot as the unit computes with it (R199): bits at w or above are ignored. -/
def State.crnCfg (s : State) (e i : Nat) : CairnCfg :=
  let w := s.fld (Reg.CRN_CFGs e i) 0 7
  { w := w
    poly := s.pair (Reg.CRN_POLYs_LO e i) % 2 ^ w
    xorOut := s.pair (Reg.CRN_XORs_LO e i) % 2 ^ w
    refIn := s.rbit (Reg.CRN_CFGs e i) 8
    refOut := s.rbit (Reg.CRN_CFGs e i) 9 }
/-- Feeds bytes to a slot. -/
def State.crnFeed (s : State) (e i : Nat) (l : List Byte) : State :=
  let c := s.crnCfg e i
  let v := l.foldl (cairnFeed c) (s.pair (Reg.CRN_VALUEs_LO e i) % 2 ^ c.w)
  (s.setPair (Reg.CRN_VALUEs_LO e i) v).bump64 (Reg.CRN_BYTESs_LO e i) l.length

end Sys2Proof.Machine
end

