-- ==== Sys2Proof/Machine/Crypto.lean ====
section
/-!
DEFINITION. SHA-512 and Ed25519, which the spec names by their standards (R62, R415, R417). PRESUMED from FIPS 180-4
and RFC 8032 (log 17).
-/

namespace Sys2Proof.Machine

/-! SHA-512. -/

def shaK1 : List Dword :=
  [0x428a2f98d728ae22#64, 0x7137449123ef65cd#64, 0xb5c0fbcfec4d3b2f#64, 0xe9b5dba58189dbbc#64,
   0x3956c25bf348b538#64, 0x59f111f1b605d019#64, 0x923f82a4af194f9b#64, 0xab1c5ed5da6d8118#64,
   0xd807aa98a3030242#64, 0x12835b0145706fbe#64, 0x243185be4ee4b28c#64, 0x550c7dc3d5ffb4e2#64,
   0x72be5d74f27b896f#64, 0x80deb1fe3b1696b1#64, 0x9bdc06a725c71235#64, 0xc19bf174cf692694#64,
   0xe49b69c19ef14ad2#64, 0xefbe4786384f25e3#64, 0x0fc19dc68b8cd5b5#64, 0x240ca1cc77ac9c65#64,
   0x2de92c6f592b0275#64, 0x4a7484aa6ea6e483#64, 0x5cb0a9dcbd41fbd4#64, 0x76f988da831153b5#64,
   0x983e5152ee66dfab#64, 0xa831c66d2db43210#64, 0xb00327c898fb213f#64, 0xbf597fc7beef0ee4#64,
   0xc6e00bf33da88fc2#64, 0xd5a79147930aa725#64, 0x06ca6351e003826f#64, 0x142929670a0e6e70#64,
   0x27b70a8546d22ffc#64, 0x2e1b21385c26c926#64, 0x4d2c6dfc5ac42aed#64, 0x53380d139d95b3df#64,
   0x650a73548baf63de#64, 0x766a0abb3c77b2a8#64, 0x81c2c92e47edaee6#64, 0x92722c851482353b#64]
def shaK2 : List Dword :=
  [0xa2bfe8a14cf10364#64, 0xa81a664bbc423001#64, 0xc24b8b70d0f89791#64, 0xc76c51a30654be30#64,
   0xd192e819d6ef5218#64, 0xd69906245565a910#64, 0xf40e35855771202a#64, 0x106aa07032bbd1b8#64,
   0x19a4c116b8d2d0c8#64, 0x1e376c085141ab53#64, 0x2748774cdf8eeb99#64, 0x34b0bcb5e19b48a8#64,
   0x391c0cb3c5c95a63#64, 0x4ed8aa4ae3418acb#64, 0x5b9cca4f7763e373#64, 0x682e6ff3d6b2b8a3#64,
   0x748f82ee5defb2fc#64, 0x78a5636f43172f60#64, 0x84c87814a1f0ab72#64, 0x8cc702081a6439ec#64,
   0x90befffa23631e28#64, 0xa4506cebde82bde9#64, 0xbef9a3f7b2c67915#64, 0xc67178f2e372532b#64,
   0xca273eceea26619c#64, 0xd186b8c721c0c207#64, 0xeada7dd6cde0eb1e#64, 0xf57d4f7fee6ed178#64,
   0x06f067aa72176fba#64, 0x0a637dc5a2c898a6#64, 0x113f9804bef90dae#64, 0x1b710b35131c471b#64,
   0x28db77f523047d84#64, 0x32caab7b40c72493#64, 0x3c9ebe0a15c9bebc#64, 0x431d67c49c100d4c#64,
   0x4cc5d4becb3e42b6#64, 0x597f299cfc657e2a#64, 0x5fcb6fab3ad6faec#64, 0x6c44198c4a475817#64]
/-- The 80 round constants. -/
def shaK : List Dword := shaK1 ++ shaK2
/-- The initial hash value. -/
def shaInit : List Dword :=
  [0x6a09e667f3bcc908#64, 0xbb67ae8584caa73b#64, 0x3c6ef372fe94f82b#64, 0xa54ff53a5f1d36f1#64,
   0x510e527fade682d1#64, 0x9b05688c2b3e6c1f#64, 0x1f83d9abfb41bd6b#64, 0x5be0cd19137e2179#64]

/-- The eight working variables. -/
structure ShaVars where
  a : Dword
  b : Dword
  c : Dword
  d : Dword
  e : Dword
  f : Dword
  g : Dword
  h : Dword
  deriving DecidableEq, Repr

def ShaVars.ofList (l : List Dword) : ShaVars :=
  ⟨l.getD 0 0, l.getD 1 0, l.getD 2 0, l.getD 3 0, l.getD 4 0, l.getD 5 0, l.getD 6 0, l.getD 7 0⟩

/-- One round. -/
def shaRound (v : ShaVars) (kw : Dword) : ShaVars :=
  let s1 := v.e.rotateRight 14 ^^^ v.e.rotateRight 18 ^^^ v.e.rotateRight 41
  let ch := (v.e &&& v.f) ^^^ (~~~v.e &&& v.g)
  let t1 := v.h + s1 + ch + kw
  let s0 := v.a.rotateRight 28 ^^^ v.a.rotateRight 34 ^^^ v.a.rotateRight 39
  let mj := (v.a &&& v.b) ^^^ (v.a &&& v.c) ^^^ (v.b &&& v.c)
  ⟨t1 + s0 + mj, v.a, v.b, v.c, v.d + t1, v.e, v.f, v.g⟩
/-- The message schedule, newest word first. -/
def shaExtend : Nat → List Dword → List Dword
  | 0, w => w
  | n + 1, w =>
    let x := w.getD 14 0
    let y := w.getD 1 0
    let s0 := x.rotateRight 1 ^^^ x.rotateRight 8 ^^^ (x >>> 7)
    let s1 := y.rotateRight 19 ^^^ y.rotateRight 61 ^^^ (y >>> 6)
    shaExtend n ((s1 + w.getD 6 0 + s0 + w.getD 15 0) :: w)
def shaRounds : List Dword → List Dword → ShaVars → ShaVars
  | k :: ks, w :: ws, v => shaRounds ks ws (shaRound v (k + w))
  | _, _, v => v
/-- The hash value after one block of 16 words. -/
def shaBlock (h : List Dword) (blk : List Dword) : List Dword :=
  let v := shaRounds shaK (shaExtend 64 blk.reverse).reverse (ShaVars.ofList h)
  List.zipWith (· + ·) h [v.a, v.b, v.c, v.d, v.e, v.f, v.g, v.h]
/-- Big-endian words of a list of bytes. -/
def beWords (n : Nat) (l : List Byte) : List Dword :=
  (List.range n).map (fun i => ((l.drop (8 * i)).take 8).foldl (fun (x : Dword) b => x * 256 + b.setWidth 64) 0)
def shaBlocks : Nat → List Byte → List Dword → List Dword
  | 0, _, h => h
  | n + 1, l, h => shaBlocks n (l.drop 128) (shaBlock h (beWords 16 (l.take 128)))
/-- The `n` low bytes of a number, most significant first. -/
def beBytes : Nat → Nat → List Byte
  | 0, _ => []
  | n + 1, v => beBytes n (v / 256) ++ [BitVec.ofNat 8 v]
/-- The 64-byte SHA-512 of a list of bytes. -/
def sha512 (m : List Byte) : List Byte :=
  let pad := (111 + 128 - m.length % 128) % 128
  let l := m ++ [0x80#8] ++ List.replicate pad 0 ++ beBytes 16 (m.length * 8)
  ((shaBlocks (l.length / 128) l shaInit).map (fun x => beBytes 8 x.toNat)).flatten

/-! Ed25519. -/

def edP : Nat := 2 ^ 255 - 19
def edL : Nat := 2 ^ 252 + 27742317777372353535851937790883648493
def edAdd (a b : Nat) : Nat := (a + b) % edP
def edSub (a b : Nat) : Nat := (a + edP - b % edP) % edP
def edMul (a b : Nat) : Nat := a * b % edP
/-- Powers by the bits of the exponent, most significant first. -/
def powBits (a : Nat) : List Bool → Nat → Nat
  | [], r => r
  | b :: t, r => powBits a t (if b then edMul (edMul r r) a else edMul r r)
/-- The `n` low bits of a number, most significant first. -/
def bitsDown : Nat → Nat → List Bool
  | 0, _ => []
  | n + 1, x => bitAt x n :: bitsDown n x
def edExp (a e : Nat) : Nat := powBits a (bitsDown 256 e) 1
def edInv (a : Nat) : Nat := edExp a (edP - 2)
def edD : Nat := edMul (edP - 121665) (edInv 121666)
/-- A square root of -1. -/
def edI : Nat := edExp 2 ((edP - 1) / 4)

/-- A point in extended coordinates. -/
structure EdPoint where
  x : Nat
  y : Nat
  z : Nat
  t : Nat
  deriving DecidableEq, Repr

def edZero : EdPoint := ⟨0, 1, 1, 0⟩
/-- Point addition (RFC 8032, 5.1.4). -/
def EdPoint.add (d2 : Nat) (p q : EdPoint) : EdPoint :=
  let a := edMul (edSub p.y p.x) (edSub q.y q.x)
  let b := edMul (edAdd p.y p.x) (edAdd q.y q.x)
  let c := edMul (edMul p.t d2) q.t
  let d := edMul (2 * p.z) q.z
  let e := edSub b a
  let f := edSub d c
  let g := edAdd d c
  let h := edAdd b a
  ⟨edMul e f, edMul g h, edMul f g, edMul e h⟩
def edMulBits (d2 : Nat) (p : EdPoint) : List Bool → EdPoint → EdPoint
  | [], r => r
  | b :: t, r => edMulBits d2 p t (if b then (EdPoint.add d2 r r).add d2 p else EdPoint.add d2 r r)
/-- n times a point. -/
def EdPoint.smul (p : EdPoint) (n : Nat) : EdPoint := edMulBits (edMul 2 edD) p (bitsDown 256 n) edZero
def EdPoint.plus (p q : EdPoint) : EdPoint := p.add (edMul 2 edD) q
/-- Two extended points are the same point. -/
def EdPoint.same (p q : EdPoint) : Bool :=
  edMul p.x q.z == edMul q.x p.z && edMul p.y q.z == edMul q.y p.z
/-- The x of a point from its y and the sign bit. -/
def edX (y : Nat) (sign : Bool) : Option Nat :=
  if edP ≤ y then none
  else
    let y2 := edMul y y
    let x2 := edMul (edSub y2 1) (edInv (edAdd (edMul edD y2) 1))
    if x2 = 0 then (if sign then none else some 0)
    else
      let r := edExp x2 ((edP + 3) / 8)
      let x := if edMul r r = x2 then r else edMul r edI
      if edMul x x ≠ x2 then none
      else some (if (x % 2 == 1) = sign then x else edP - x)
/-- The number that bytes spell, least significant first. -/
def edVal : List Byte → Nat
  | [] => 0
  | b :: t => b.toNat + 256 * edVal t
def edBytes : Nat → Nat → List Byte
  | 0, _ => []
  | n + 1, v => BitVec.ofNat 8 v :: edBytes n (v / 256)
/-- The point that 32 bytes encode canonically (R417). -/
def edDecode (l : List Byte) : Option EdPoint :=
  let v := edVal (l.take 32)
  let y := v % 2 ^ 255
  (edX y (bitAt v 255)).map (fun x => ⟨x, y, 1, edMul x y⟩)
/-- The 32-byte encoding of a point. -/
def EdPoint.encode (p : EdPoint) : List Byte :=
  let zi := edInv p.z
  edBytes 32 (edMul p.y zi + (edMul p.x zi % 2) * 2 ^ 255)
/-- The base point. -/
def edBase : EdPoint :=
  let y := edMul 4 (edInv 5)
  let x := (edX y false).getD 0
  ⟨x, y, 1, edMul x y⟩
/-- The secret scalar and prefix of a seed (RFC 8032, 5.1.5). -/
def edSecret (seed : List Byte) : Nat × List Byte :=
  let h := sha512 seed
  let a := edVal (h.take 32) % 2 ^ 255
  (a - a % 8 - (a / 2 ^ 254) * 2 ^ 254 + 2 ^ 254, h.drop 32)
/-- The public key of a seed. -/
def edPublic (seed : List Byte) : List Byte := (edBase.smul (edSecret seed).1).encode
/-- The signature of a message under a seed. -/
def edSign (seed msg : List Byte) : List Byte :=
  let (a, pre) := edSecret seed
  let pub := (edBase.smul a).encode
  let r := edVal (sha512 (pre ++ msg)) % edL
  let rp := (edBase.smul r).encode
  let k := edVal (sha512 (rp ++ pub ++ msg)) % edL
  rp ++ edBytes 32 ((r + k * a) % edL)
/-- The check of R417: canonical points, S below L, a key not of small order, and the cofactorless equation. -/
def edVerify (pub msg sig : List Byte) : Bool :=
  if sig.length ≠ 64 ∨ pub.length ≠ 32 then false
  else
    match edDecode pub, edDecode (sig.take 32) with
    | some a, some r =>
      let sv := edVal (sig.drop 32)
      let k := edVal (sha512 (sig.take 32 ++ pub ++ msg)) % edL
      decide (sv < edL) && !(a.smul 8).same edZero && (edBase.smul sv).same (r.plus (a.smul k))
    | _, _ => false

end Sys2Proof.Machine
end

