-- ==== Sys2Proof/Machine/CmdSecurity.lean ====
section
/-!
DEFINITION. Meanings of the security commands (chapter 19): signature checks, signer slots and quotes.
-/

namespace Sys2Proof.Machine

/-- Bytes `lo` to `lo + n - 1` of a list. -/
def slice {α : Type} (l : List α) (lo n : Nat) : List α := (l.drop lo).take n
/-- The ASCII bytes of a name. -/
def ascii (t : String) : List Byte := t.toList.map (fun c => BitVec.ofNat 8 c.toNat)
/-- All bytes are zero. -/
def allZero (l : List Byte) : Bool := l.all (fun b => b == 0)
/-- Stores bytes in consecutive registers, byte 4i + j in bits [8j+7:8j] of register i. -/
def State.setWindow (s : State) (a : Nat) : Nat → List Byte → State
  | 0, _ => s
  | n + 1, l => (s.setN a (leVal (l.take 4))).setWindow (a + 4) n (l.drop 4)
/-- The bytes that `n` consecutive registers hold. -/
def State.window (s : State) (a : Nat) : Nat → List Byte
  | 0 => []
  | n + 1 => leBytes 4 (s.rn a) ++ s.window (a + 4) n

/-- The identity key of the part (Table 19-1) and of the meter (Table 20-1). -/
def State.idKey (s : State) : List Byte := slice s.sec.idRecord 32 32
def State.meterKey (s : State) : List Byte := slice s.meter.idRecord 32 32
/-- A counter of the security engine. -/
def State.secCount (s : State) (a : Nat) : State := s.count a 1 Reg.SEC_INT_STATUS 3
/-- Checks a signature under R417 and counts the outcome. -/
def State.checkSig (s : State) (pub msg sig : List Byte) : Bool × State :=
  let ok := edVerify pub msg sig
  (ok, s.secCount (if ok then Reg.SEC_VERIFY_OK else Reg.SEC_VERIFY_FAIL))
/-- Signs a 64-byte digest with the identity key and counts it (R415). -/
def State.sign (s : State) (msg : List Byte) : List Byte × State := (edSign s.sec.seed msg, s.secCount Reg.SEC_SIGNS)
/-- An identity record names a key: the signature of a manufacturing key, and the key itself (R416). Key
number `MFG_KEY_ID` names the fuse it was made with. -/
def State.recordVerifies (s : State) (r key : List Byte) : Bool × State :=
  let mfg := s.sec.mfgKeys.getD (leVal (slice r 64 4)) (List.replicate 32 0)
  let (ok, s1) := s.checkSig mfg (sha512 (slice r 0 128)) (slice r 128 64)
  (ok && slice r 32 32 == key, s1)

/-! Signer slots. -/

/-- The generations of a slot before any request: slot 0 is filled at manufacture (R418; its key: log 8). -/
def slotFuses (i : Nat) : List SlotGen := if i = 0 then [{ key := List.replicate 32 0, complete := true }] else []
def State.slot (s : State) (i : Nat) : List SlotGen := AMap.read slotFuses s.sec.slots i
def State.setSlot (s : State) (i : Nat) (l : List SlotGen) : State :=
  { s with sec := { s.sec with slots := AMap.write slotFuses s.sec.slots i l } }
/-- The generation that gives a slot its state: the highest complete one (R418). -/
def currentGen (l : List SlotGen) : Option SlotGen := (l.filter (fun g => g.complete)).getLast?
/-- 0 EMPTY, 1 VALID, 2 REVOKED. -/
def State.slotState (s : State) (i : Nat) : Nat :=
  match currentGen (s.slot i) with
  | none => 0
  | some g => if g.revoked then 2 else 1
def State.slotKey (s : State) (i : Nat) : List Byte :=
  match currentGen (s.slot i) with
  | none => List.replicate 32 0
  | some g => g.key
/-- Sets the REVOKED bit of the highest complete generation. -/
def revokeCurrent (l : List SlotGen) : List SlotGen :=
  match takeFirstRev l with
  | some (hi, g, lo) => lo ++ [{ g with revoked := true }] ++ hi
  | none => l
where
  /-- The highest complete generation between those above and below it. -/
  takeFirstRev (l : List SlotGen) : Option (List SlotGen × SlotGen × List SlotGen) :=
    let hi := (l.reverse.takeWhile (fun g => !g.complete)).reverse
    match l.reverse.dropWhile (fun g => !g.complete) with
    | g :: lo => some (hi, g, lo.reverse)
    | [] => none
/-- The owner slots that are VALID. -/
def State.validOwners (s : State) : List Nat := [1, 2, 3, 4, 5, 6, 7].filter (fun i => s.slotState i == 1)
/-- The digest of the slots as they stand (R425). -/
def State.slotsDigest (s : State) : List Byte :=
  sha512 (((List.range 8).map (fun i => leBytes 1 i ++ leBytes 1 (s.slotState i) ++ leBytes 1 (s.slot i).length ++
    List.replicate 5 0 ++ s.slotKey i)).flatten)

/-- The slot digest, which changes only when a request completes OK (R425). -/
def State.slotDigest (s : State) : List Byte := s.sec.heldDigest.getD s.slotsDigest

/-- SEC_NONCE takes a new random value (R420). -/
def State.renewNonce (s : State) : State :=
  let (a, s1) := s.free
  let (b, s2) := s1.free
  let (c, s3) := s2.free
  let (d, s4) := s3.free
  s4.setWindow (Reg.SEC_NONCEi 0) 8 (leBytes 8 a.toNat ++ leBytes 8 b.toNat ++ leBytes 8 c.toNat ++ leBytes 8 d.toNat)
/-- A slot request completes (Table 19-10). -/
def State.endRequest (s : State) (result reason : Nat) : State :=
  let st := s.rn Reg.SEC_STATUS
  let s1 := s.setN Reg.SEC_STATUS (bitsAt st 1 2 * 2 + reason * 2 ^ 16 + result * 2 ^ 28)
  (s1.secCount Reg.SEC_REQS).raise Reg.SEC_INT_STATUS 0

/-- The first reason of Table 19-3 up to the nonce check that refuses a request, if any. -/
def State.requestFormat (s : State) (r : List Byte) : Option Nat :=
  let op := leVal (slice r 64 1)
  if s.load.isSome then some 8
  else if slice r 0 8 ≠ ascii "SLOTCHNG" ∨ leVal (slice r 8 4) ≠ 0x48582448 ∨ !allZero (slice r 12 4) ∨
      slice r 16 16 ≠ slice s.sec.idRecord 16 16 ∨ !allZero (slice r 67 1) ∨ !allZero (slice r 100 28) ∨
      op = 0 ∨ 3 < op then some 1
  else if slice r 32 32 ≠ s.window (Reg.SEC_NONCEi 0) 8 then some 2
  else none
/-- Checks 4 to 8 of Table 19-3, with the counts of the signature check. -/
def State.requestRules (s : State) (r : List Byte) : Option Nat × State :=
  let op := leVal (slice r 64 1)
  let target := leVal (slice r 65 1)
  let signer := leVal (slice r 66 1)
  if op ≠ 3 ∧ !s.validOwners.contains signer then (some 3, s)
  else
    let key := if op = 3 then slice r 68 32 else s.slotKey signer
    let (ok, s1) := s.checkSig key (sha512 (slice r 0 128)) (slice r 128 64)
    let rule := if op = 1 then decide (1 ≤ target ∧ target ≤ 7)
      else if op = 2 then decide (target ≤ 7) && s.slotState target == 1
      else decide (1 ≤ target ∧ target ≤ 7) && [1, 2, 3, 4, 5, 6, 7].all (fun i => (s.slot i).length == 0)
    if !ok then (some 4, s1)
    else if !rule then (some 5, s1)
    else if op = 2 ∧ (s.validOwners.filter (fun i => i != target)).length = 0 then (some 6, s1)
    else if op = 1 ∧ 4 ≤ (s.slot target).length then (some 7, s1)
    else (none, s1)
/-- A write of SEC_CTRL.REQ: the request at SEC_REQ_ADDR is checked, and its programming begins (R419 to R421). -/
def State.slotRequest (s : State) (r : List Byte) : State :=
  match s.requestFormat r with
  | some 2 => (s.endRequest 8 2).renewNonce
  | some e => s.endRequest 8 e
  | none =>
    match s.requestRules r with
    | (some e, s1) => (s1.endRequest 8 e).renewNonce
    | (none, s1) =>
      let s2 := s1.setBit Reg.SEC_STATUS 0 true
      let p : SlotProg := { op := leVal (slice r 64 1), target := leVal (slice r 65 1), key := slice r 68 32 }
      { s2 with sec := { s2.sec with prog := some p } }
/-- Reads the request; the command acts where it is not BUSY and the request's OP is one the command stands for. -/
def doSlotCommand (mine : Nat → Bool) (s : State) : State :=
  if s.rbit Reg.SEC_STATUS 0 then s
  else
    let rd := s.readData (s.oasLoc 18 0) (s.pair Reg.SEC_REQ_ADDR_LO) 192
    if mine (leVal (slice rd.bytes 64 1)) then rd.st.slotRequest rd.bytes else s
/-- SLOT_FILL (R419), which also stands for a request whose OP is none of the three. -/
def execSlotFill (s : State) : Host.Outcome State Fault Refusal :=
  .next (s.live (doSlotCommand (fun op => op != 2 && op != 3)))
/-- SLOT_REVOKE (R419). -/
def execSlotRevoke (s : State) : Host.Outcome State Fault Refusal := .next (s.live (doSlotCommand (fun op => op == 2)))
/-- SLOT_CLAIM (R419). -/
def execSlotClaim (s : State) : Host.Outcome State Fault Refusal := .next (s.live (doSlotCommand (fun op => op == 3)))

/-- The generations of a slot after a request was programmed; whether a REVOKED bit that did not verify is set is a
free value (log 4). -/
def programSlot (l : List SlotGen) (p : SlotProg) (ok freeBit : Bool) : List SlotGen :=
  if p.op = 2 then (if ok || freeBit then revokeCurrent l else l)
  else
    let l1 := match currentGen l with
      | some g => if g.revoked then l else revokeCurrent l
      | none => l
    (if p.op = 1 then l1 else l) ++ [{ key := p.key, complete := ok }]
/-- The end of programming: fuses, status, nonce, and a record where they do not verify (R418 to R421). -/
def State.programDone (s : State) (p : SlotProg) (ok : Bool) : State :=
  let (v, s1) := s.free
  let s2 := s1.setSlot p.target (programSlot (s1.slot p.target) p ok (v.toNat % 2 == 1))
  let s3 := ({ s2 with sec := { s2.sec with prog := none, heldDigest := if ok then none else some s.slotDigest } }).endRequest (if ok then 0 else 6) (if ok then 0 else 9)
  let s4 := if ok then s3 else (s3.raise Reg.SEC_INT_STATUS 2).report 5 0x30 (s3.oasLoc 18 0) 0 0
  s4.renewNonce

/-! Quotes. -/

/-- QUOTE (R424): ignored while a quote is being built. -/
def doQuote (s : State) : State :=
  if s.rbit Reg.SEC_STATUS 2 then s else (s.setBit Reg.SEC_STATUS 2 true).setBit Reg.SEC_STATUS 1 false
def execQuote (s : State) : Host.Outcome State Fault Refusal := .next (s.live doQuote)
/-- The fabric membership digest, or the package's own entry alone when the fabric is off (R400, Table 19-5). -/
def State.membersDigest (s : State) : List Byte :=
  if s.fld Reg.ERG_STATUS 0 3 = 0 then sha512 (leBytes 2 s.deviceId ++ s.idKey)
  else s.window (Reg.ERG_MEMB_DIGESTi 0) 16
/-- The quote body (Table 19-5). -/
def State.quoteBody (s : State) : List Byte :=
  ascii "HXPQUOTE" ++ leBytes 4 1 ++ leBytes 4 0x48582448 ++ leBytes 4 0xA1 ++ leBytes 2 s.deviceId ++
  List.replicate 2 0 ++ leBytes 8 s.tb.toNat ++ s.window (Reg.SEC_QNONCEi 0) 16 ++
  (if s.rbit Reg.SPL_STATUS 12 then s.digest else List.replicate 64 0) ++ leBytes 8 (s.pair Reg.SPL_SERIAL_LO) ++
  s.slotDigest ++ s.meterKey ++ slice s.meter.idRecord 12 2 ++
  leBytes 1 (b2n (!s.meter.sealOpen) + 2 * b2n s.meter.sealLogged) ++ List.replicate 1 0 ++ s.membersDigest ++
  List.replicate 52 0
/-- QUOTE_DONE (R424). -/
def doQuoteDone (s : State) : State :=
  if !s.rbit Reg.SEC_STATUS 2 then s
  else
    let body := s.quoteBody
    let (sig, s1) := s.sign (sha512 body)
    let s2 := (s1.setWindow (Reg.SEC_QOUTi 0) 112 (body ++ sig)).setBit Reg.SEC_STATUS 2 false
    (s2.setBit Reg.SEC_STATUS 1 true).raise Reg.SEC_INT_STATUS 1
def execQuoteDone (s : State) : Host.Outcome State Fault Refusal := .next (s.live doQuoteDone)
/-- SEC_CNT_CLR (R427). -/
def execSecCntClr (v : Word) (s : State) : Host.Outcome State Fault Refusal :=
  .next (s.live (fun t => t.cntClr v (wordsFrom Reg.SEC_VERIFY_OK Reg.SEC_REQS)))

end Sys2Proof.Machine
end

