-- ==== Sys2Proof/Machine/CmdMeter.lean ====
section
/-!
DEFINITION. Meanings of the Sandglass commands (chapter 20): tallies, periods, records, the mirror and the inspector.
The island runs on while the rest of the part is halted (R428, R480).
-/

namespace Sys2Proof.Machine

/-! Counts and taps. -/

def MeterCnt.isZero (c : MeterCnt) : Bool := c == {}
/-- Adds units to quantity q (0 VOICE, 1 CHAN, 2 TOKENS, 3 ENGINE), normal or degraded (R430). -/
def MeterCnt.add (c : MeterCnt) (q : Nat) (deg : Bool) (n : Nat) : MeterCnt :=
  match q, deg with
  | 0, false => { c with voice := (c.voice + n) % 2 ^ 64 }
  | 0, true => { c with voiceDeg := (c.voiceDeg + n) % 2 ^ 64 }
  | 1, false => { c with chan := (c.chan + n) % 2 ^ 64 }
  | 1, true => { c with chanDeg := (c.chanDeg + n) % 2 ^ 64 }
  | 2, false => { c with tokens := (c.tokens + n) % 2 ^ 64 }
  | 2, true => { c with tokensDeg := (c.tokensDeg + n) % 2 ^ 64 }
  | _, false => { c with engine := (c.engine + n) % 2 ^ 64 }
  | _, true => { c with engineDeg := (c.engineDeg + n) % 2 ^ 64 }
def MeterCnt.toList (c : MeterCnt) : List Nat :=
  [c.voice, c.voiceDeg, c.chan, c.chanDeg, c.tokens, c.tokensDeg, c.engine, c.engineDeg]
def State.meterCnt (s : State) (fn : Nat) : MeterCnt := AMap.read (fun _ => {}) s.meter.counts fn
/-- A tally message reaches the island, which adds it to the open period (R433, R434). -/
def State.acceptTally (s : State) (fn q : Nat) (deg : Bool) (n : Nat) : State :=
  if s.meter.powered then
    { s with meter := { s.meter with
      counts := AMap.write (fun _ => {}) s.meter.counts fn ((s.meterCnt fn).add q deg n) } }
  else s
/-- The key of a tap's residue: engines 0 to 191, ports 192 to 199, then Ripple, host rings and stream queues. -/
def tapKey (tap fn q : Nat) (deg : Bool) : Nat := ((tap * 64 + fn) * 4 + q) * 2 + b2n deg
def State.residue (s : State) (k : Nat) : Nat := AMap.read (fun _ => 0) s.meter.residues k
def State.setResidue (s : State) (k n : Nat) : State :=
  { s with meter := { s.meter with residues := AMap.write (fun _ => 0) s.meter.residues k n } }
/-- A tap sends its residue. -/
def State.flushTap (s : State) (tap fn q : Nat) (deg : Bool) : State :=
  let k := tapKey tap fn q deg
  if s.residue k = 0 then s else (s.acceptTally fn q deg (s.residue k)).setResidue k 0
/-- Work at a tap: the residue grows, and is sent when it reaches 2^15 (R433). -/
def State.tally (s : State) (tap fn q : Nat) (deg : Bool) (n : Nat) : State :=
  let k := tapKey tap fn q deg
  let r := s.residue k + n
  if 2 ^ 15 ≤ r then (s.acceptTally fn q deg r).setResidue k 0 else s.setResidue k r
/-- Flushes every residue whose tap satisfies a test (R433). -/
def State.flushTaps (s : State) (p : Nat → Bool) : State :=
  (s.meter.residues.filter (fun r => p (r.1 / 512))).foldl
    (fun (t : State) r => t.flushTap (r.1 / 512) (r.1 / 8 % 64) (r.1 / 2 % 4) (r.1 % 2 == 1)) s
/-- Drops every residue whose tap satisfies a test: an unflushed residue is never billed. -/
def State.dropTaps (s : State) (p : Nat → Bool) : State :=
  { s with meter := { s.meter with residues := s.meter.residues.filter (fun r => !p (r.1 / 512)) } }

/-- TALLY_MESSAGE (R433, R434). -/
def execTallyMessage (fn : Fin 64) (q : Fin 4) (deg : Bool) (units : Fin 65536) (s : State) :
    Host.Outcome State Fault Refusal := .next (s.acceptTally fn q deg units)
/-- TALLY_RESIDUE_TIMEOUT (R433): 100 us after the residue became non-zero. -/
def execTallyResidueTimeout (tap : Fin 203) (fn : Fin 64) (q : Fin 4) (deg : Bool) (s : State) :
    Host.Outcome State Fault Refusal := .next (s.live (fun t => t.flushTap tap fn q deg))

/-! Records. -/

/-- record_period in seconds by strap code (R435). -/
def recordPeriod (c : Nat) : Nat := [60, 1, 10, 30, 300, 900, 1800, 3600].getD c 60
/-- A function entry (Table 20-4). -/
def meterEntry (fn : Nat) (c : MeterCnt) : List Byte :=
  leBytes 1 fn ++ List.replicate 7 0 ++ (c.toList.map (leBytes 8)).flatten
/-- FLAGS of Table 20-3. -/
def meterFlags (m : Meter) (diverged : Bool) : Nat := 4 * b2n diverged + 2 * b2n m.sealLogged + b2n m.sealOpen
/-- The timebase's advance against the meter's over a period, in ns times 32: the excess, and the meter's own advance. -/
def Meter.drift (m : Meter) (tb : Dword) : Int × Int :=
  let cyc : Int := (m.time : Int) - m.tStart
  (((tb.toNat : Int) - m.tbStart.toNat) * 32 - cyc * 1000, cyc * 1000)
/-- DIV_PPM in 1/16 ppm; 0 over an empty period. -/
def divPpmOf (d : Int × Int) : Int :=
  if d.2 = 0 then 0
  else
    let q := d.1 * 16000000 / d.2
    if q * d.2 = d.1 * 16000000 then q else if Config.roundsUp (d.1 * 16000000) d.2 then q + 1 else q
/-- DIVERGED: the two differ by more than 100 ppm (R439). -/
def divergedOf (d : Int × Int) : Bool := decide ((100 : Int) * d.2 < (d.1.natAbs : Int) * 1000000)
/-- Drops the oldest records until the ring's bytes fit 256 KiB (R441). -/
def fitRing (n : Nat) : List MeterRec → List MeterRec
  | [] => []
  | r :: t => if n + ((r :: t).map (fun x => x.bytes.length)).foldl (· + ·) 0 ≤ 262144 then r :: t else fitRing n t
/-- Ends the period: the record of a type is formed, signed, chained and written, and the next period opens
(R435 to R440). -/
def State.meterRecord (s : State) (type : Nat) : State :=
  let m := s.meter
  let d := if type = 0 then (0, 0) else m.drift s.tb
  let ents := ((List.range 64).filter (fun f => !(s.meterCnt f).isZero)).map (fun f => meterEntry f (s.meterCnt f))
  let body := ascii "SGLASREC" ++ leBytes 4 (128 + 72 * ents.length + 64) ++ leBytes 1 type ++
    leBytes 1 (meterFlags m (divergedOf d)) ++ leBytes 2 ents.length ++ leBytes 8 m.nextSeq ++ leBytes 8 m.tStart ++
    leBytes 8 m.time ++ leBytes 8 s.tb.toNat ++ leBytes 4 (BitVec.ofInt 32 (divPpmOf d)).toNat ++
    slice m.idRecord 12 2 ++ leBytes 2 (recordPeriod m.per) ++ List.replicate 8 0 ++ m.prev ++ ents.flatten
  let rec_ := body ++ edSign m.seed (sha512 body)
  { s with meter := { m with
    counts := []
    nextSeq := m.nextSeq + 1
    tStart := m.time
    tbStart := s.tb
    diverged := divergedOf d
    divPpm := divPpmOf d
    prev := sha512 rec_
    ring := fitRing rec_.length m.ring ++ [{ seq := m.nextSeq, ofs := m.head, bytes := rec_ }]
    head := (m.head + rec_.length) % 262144 } }

/-- METER_PERIOD_END (R435): the next regular boundary, a whole number of periods after START. -/
def doMeterPeriodEnd (s : State) : State :=
  if !s.meter.powered then s
  else
    let k := s.meter.periods + 1
    let t := max s.meter.time (k * recordPeriod s.meter.per * 32000000)
    ({ s with meter := { s.meter with time := t, periods := k } }).meterRecord 1
def execMeterPeriodEnd (s : State) : Host.Outcome State Fault Refusal := .next (doMeterPeriodEnd s)
/-- METER_POWER_UP (R438): a new chain with a START record at meter time 0; the SEAL_LOGGED fuse stays. -/
def doMeterPowerUp (per : Fin 8) (sealOpen : Bool) (s : State) : State :=
  let m : Meter := { powered := true, seed := s.meter.seed, idRecord := s.meter.idRecord, per := per,
                     sealOpen := sealOpen, sealLogged := s.meter.sealLogged }
  ({ s with meter := m }).meterRecord 0
def execMeterPowerUp (per : Fin 8) (sealOpen : Bool) (s : State) : Host.Outcome State Fault Refusal :=
  .next (doMeterPowerUp per sealOpen s)
/-- Ends so many periods at their regular boundaries. -/
def endPeriods : Nat → State → State
  | 0, s => s
  | n + 1, s => endPeriods n (doMeterPeriodEnd s)
/-- The regular boundaries that lie at or before a meter time and have not been taken. -/
def State.duePeriods (s : State) (time : Nat) : Nat := time / (recordPeriod s.meter.per * 32000000) - s.meter.periods
/-- SEAL_OPEN (R440) at a meter time, after the 10 ms filter; a boundary at or before it ends its period first
(Table 20-6). -/
def doSealOpen (time : Nat) (s : State) : State :=
  if !s.meter.powered || s.meter.sealOpen then s
  else
    let u := endPeriods (s.duePeriods (max s.meter.time time)) s
    ({ u with meter := { u.meter with
      time := max u.meter.time time
      sealOpen := true
      sealLogged := true } }).meterRecord 2
def execSealOpen (time : Nat) (s : State) : Host.Outcome State Fault Refusal := .next (doSealOpen time s)
/-- SEAL_CLOSE (R440). -/
def doSealClose (time : Nat) (s : State) : State :=
  if !s.meter.powered || !s.meter.sealOpen then s
  else
    let u := endPeriods (s.duePeriods (max s.meter.time time)) s
    ({ u with meter := { u.meter with
      time := max u.meter.time time
      sealOpen := false } }).meterRecord 3
def execSealClose (time : Nat) (s : State) : Host.Outcome State Fault Refusal := .next (doSealClose time s)

/-! The mirror (R442, R446). -/

/-- Stores bytes in a ring of 2^log bytes at `base` from byte count `pos`, wrapping round its end. -/
def State.ringBytes (s : State) (base log pos : Nat) : List Byte → State
  | [] => s
  | b :: t => (s.setByte (base + pos % 2 ^ log) b).ringBytes base log (pos + 1) t
def State.mmrLog (s : State) : Nat := max 16 (min 24 (s.fld Reg.MMR_SIZE 0 5))
/-- MIRROR_COPY: the next record is copied, or skipped where the island has overwritten it; the engine waits while a
record does not fit before MMR_TAIL or its host pages do not translate. -/
def doMirrorCopy (s : State) : State :=
  let n := s.meter.mirrorNext
  let bump (t : State) : State := { t with meter := { t.meter with mirrorNext := n + 1 } }
  if !s.rbit Reg.MMR_CTRL 0 || decide (s.meter.nextSeq ≤ n) then s
  else match s.meter.ring.find? (fun r => r.seq == n) with
    | none => (bump (s.bump Reg.MMR_LOST 1)).raise Reg.MMR_INT_STATUS 3
    | some r =>
      let base := hostWindow + s.pair Reg.MMR_BASE_LO
      let used := (s.reg Reg.MMR_HEAD - s.reg Reg.MMR_TAIL).toNat
      if 2 ^ s.mmrLog < used + r.bytes.length ∨ !s.hostOk base (2 ^ s.mmrLog) then s
      else
        let s1 := s.ringBytes base s.mmrLog (s.rn Reg.MMR_HEAD) r.bytes
        let s2 := (bump (s1.setN Reg.MMR_HEAD (s.rn Reg.MMR_HEAD + r.bytes.length))).raise Reg.MMR_INT_STATUS 0
        let type := leVal (slice r.bytes 12 1)
        let s3 := if type = 2 ∨ type = 3 then s2.raise Reg.MMR_INT_STATUS 1 else s2
        if bitAt (leVal (slice r.bytes 13 1)) 2 then s3.raise Reg.MMR_INT_STATUS 2 else s3
def execMirrorCopy (s : State) : Host.Outcome State Fault Refusal := .next (s.live doMirrorCopy)
/-- MMR_CNT_CLR (R446): a write of MMR_CTRL; CNT_CLR clears MMR_LOST. -/
def doMmrCntClr (v : Word) (s : State) : State :=
  let s1 := s.setN Reg.MMR_CTRL (bitsAt v.toNat 0 1)
  if bitAt v.toNat 1 then s1.setReg Reg.MMR_LOST 0 else s1
def execMmrCntClr (v : Word) (s : State) : Host.Outcome State Fault Refusal := .next (s.live (doMmrCntClr v))

/-! The inspector (R443). -/

/-- A reply frame. -/
def replyFrame (code : Nat) (payload : List Byte) : List Byte :=
  let body := leBytes 1 code ++ leBytes 4 payload.length ++ payload
  0xA5#8 :: body ++ leBytes 4 (crc32 body)
/-- The island replies while it is powered. -/
def State.inspect (s : State) (code : Nat) (payload : List Byte) : State :=
  if s.meter.powered then s.answer (replyFrame code payload) else s.answer []
/-- The latest record; power-up wrote the first. -/
def Meter.latest (m : Meter) : MeterRec := (m.ring.getLast?).getD {}
/-- INSPECTOR_IDENTITY. -/
def execInspectorIdentity (s : State) : Host.Outcome State Fault Refusal := .next (s.inspect 1 s.meter.idRecord)
/-- INSPECTOR_STATUS: the widths of SEQ, time and period as Table 20-3 gives them, padded to 32 bytes (log 18). -/
def execInspectorStatus (s : State) : Host.Outcome State Fault Refusal :=
  .next (s.inspect 2 (leBytes 8 s.meter.latest.seq ++ leBytes 8 s.meter.time ++
    leBytes 1 (meterFlags s.meter s.meter.diverged) ++ leBytes 2 (recordPeriod s.meter.per) ++ List.replicate 13 0))
/-- INSPECTOR_RECORD_BY_SEQ. -/
def execInspectorRecordBySeq (seq : Nat) (s : State) : Host.Outcome State Fault Refusal :=
  match s.meter.ring.find? (fun r => r.seq == seq) with
  | some r => .next (s.inspect 3 r.bytes)
  | none => .next (s.inspect 0xFF [2])
/-- INSPECTOR_LATEST_RECORD. -/
def execInspectorLatestRecord (s : State) : Host.Outcome State Fault Refusal := .next (s.inspect 4 s.meter.latest.bytes)
/-- INSPECTOR_OPEN_COUNTS: 64 entries. -/
def execInspectorOpenCounts (s : State) : Host.Outcome State Fault Refusal :=
  .next (s.inspect 5 (((List.range 64).map (fun f => meterEntry f (s.meterCnt f))).flatten))
/-- INSPECTOR_BAD_FRAME: code 0xFF, reason 1. -/
def execInspectorBadFrame (s : State) : Host.Outcome State Fault Refusal := .next (s.inspect 0xFF [1])

end Sys2Proof.Machine
end

