-- ==== Sys2Proof/Machine/G711.lean ====
section
/-!
DEFINITION. ITU-T G.711 expansion and compression as R334 applies them: A-law with even-bit inversion to a 13-bit
value times 8, and mu-law to a 14-bit value times 4. PRESUMED (the standard's decision levels), log 12.
-/

namespace Sys2Proof.Machine

/-- The 13-bit magnitude grid of A-law: the positive value of a 7-bit code after the even bits are restored. -/
def alawMag (c : Nat) : Nat :=
  let seg := c / 16
  let m := c % 16
  if seg = 0 then 2 * m + 1 else (2 * m + 33) * 2 ^ (seg - 1)

/-- Expands an A-law byte to a 16-bit linear value: the 13-bit value times 8. -/
def alawExpand (b : Nat) : Int :=
  let c := b ^^^ 0x55
  let v : Int := (alawMag (c % 128) : Nat)
  if 128 ≤ c then 8 * v else -(8 * v)

/-- The positive value of a 7-bit mu-law code on the 14-bit grid. -/
def ulawMag (c : Nat) : Nat := (2 * (c % 16) + 33) * 2 ^ (c / 16) - 33

/-- Expands a mu-law byte to a 16-bit linear value: the 14-bit value times 4. -/
def ulawExpand (b : Nat) : Int :=
  let c := b ^^^ 0xFF
  let v : Int := (ulawMag (c % 128) : Nat)
  if c < 128 then 4 * v else -(4 * v)

/-- Compresses a linear value to an A-law byte from its top 13 bits. -/
def alawCompress (x : Int) : Nat :=
  let v := x / 8
  let neg := decide (v < 0)
  let m : Nat := if neg then (-v - 1).toNat else v.toNat
  let m := min m 4095
  let seg := if m < 64 then (if m < 32 then 0 else 1) else m.log2 - 4
  let code := seg * 16 + (if seg = 0 then m / 2 else (m >>> seg) % 16)
  ((if neg then 0 else 128) + code) ^^^ 0x55

/-- Compresses a linear value to a mu-law byte from its top 14 bits. -/
def ulawCompress (x : Int) : Nat :=
  let v := x / 4
  let neg := decide (v < 0)
  let m : Nat := if neg then (-v).toNat else v.toNat
  let m := min m 8158 + 33
  let seg := m.log2 - 5
  let code := seg * 16 + (m >>> (seg + 1)) % 16
  ((if neg then 128 else 0) + code) ^^^ 0xFF

end Sys2Proof.Machine
end

