-- ==== Sys2Proof/Machine/AudioOps.lean ====
section
/-!
DEFINITION. Operations of the serial audio ports (chapter 15): settings, samples and words, memory and side rings, held
masks and bindings, the state of a TX slot, and the samples that streams and channels exchange with a port.
-/

namespace Sys2Proof.Machine

/-! Settings (Tables 15-5 and 15-6). -/

def State.sapSlots (s : State) (n : Nat) : Nat := s.fld (Reg.SAP_Pn_CFG n) 10 5 + 1
def State.sapSlotBits (s : State) (n : Nat) : Nat := 8 * (s.fld (Reg.SAP_Pn_CFG n) 8 2 + 1)
def State.sapWord (s : State) (n : Nat) : Nat := s.fld (Reg.SAP_Pn_CFG n) 3 5 + 1
def State.sapCompand (s : State) (n : Nat) : Nat := s.fld (Reg.SAP_Pn_CFG n) 21 2
def State.sapMaster (s : State) (n : Nat) : Bool := s.rbit (Reg.SAP_Pn_CFG n) 28
def State.sapLeader (s : State) (n : Nat) : Nat := s.fld (Reg.SAP_Pn_CFG n) 24 3
/-- The port has an AUDIO record. -/
def State.sapUsed (s : State) (n : Nat) : Bool := s.structure_.audio.any (fun r => r.port == n)
/-- The ports of the group that port n leads, n among them (R350). -/
def State.sapGroup (s : State) (n : Nat) : List Nat := 
  (List.range 8).filter (fun m => (s.sapUsed m || (s.port m).running) && s.sapLeader m == n)
def State.sapLead (s : State) (n : Nat) : Nat := s.fld (Reg.SAP_Pn_TIMING n) 0 8
def State.sapTail (s : State) (n : Nat) : Nat := s.fld (Reg.SAP_Pn_TIMING n) 8 8
def State.sapHold (s : State) (n : Nat) : Nat := s.fld (Reg.SAP_Pn_TIMING n) 16 8
def State.sapSetpoint (s : State) (n : Nat) : Nat := s.fld (Reg.SAP_Pn_TIMING n) 24 8
def State.sapFrame (s : State) (n : Nat) : Nat := s.pair (Reg.SAP_Pn_FRAME_LO n)
/-- The nominal rate of the port's class (R338); 0 for NONE and OTHER. -/
def State.sapRate (s : State) (n : Nat) : Nat := [0, 8000, 16000, 24000, 32000, 44100, 48000].getD (s.fld (Reg.SAP_Pn_RATE n) 20 4) 0
def State.sapState (s : State) (n v : Nat) : State := s.setFld (Reg.SAP_Pn_STATUS n) 0 3 v
/-- Adds to a counter of a port and raises its cause where it advances (Table 15-9). -/
def State.sapCount (s : State) (n reg k bit : Nat) : State :=
  if k = 0 then s else (s.count reg k (Reg.SAP_Pn_INT_STATUS n) 9).raise (Reg.SAP_Pn_INT_STATUS n) bit
/-- Adds to a counter of a port that has no cause of its own. -/
def State.sapBump (s : State) (n reg k : Nat) : State := if k = 0 then s else s.count reg k (Reg.SAP_Pn_INT_STATUS n) 9

/-! Samples and words (R334, R335). Linear values have 16 bits under companding and the word's length otherwise. -/

/-- An integer's low bits as a number, and the signed value of low bits. -/
def toBits (w : Nat) (x : Int) : Nat := (x % (2 : Int) ^ w).toNat
def ofBits (w v : Nat) : Int := if bitAt v (w - 1) then (v % 2 ^ w : Nat) - (2 : Int) ^ w else (v % 2 ^ w : Nat)
/-- Bits of the linear domain of a port. -/
def State.linBits (s : State) (n : Nat) : Nat := if s.sapCompand n = 0 then s.sapWord n else 16
/-- A value of `b` bits in the linear domain. -/
def State.toLin (s : State) (n b : Nat) (x : Int) : Int :=
  if b ≤ s.linBits n then x * (2 : Int) ^ (s.linBits n - b) else x / (2 : Int) ^ (b - s.linBits n)
/-- The wire word of a linear value, and the linear value of a wire word. -/
def State.wireOf (s : State) (n : Nat) (x : Int) : Nat :=
  match s.sapCompand n with
  | 1 => alawCompress x
  | 2 => ulawCompress x
  | _ => toBits (s.sapWord n) x
def State.linOf (s : State) (n w : Nat) : Int :=
  match s.sapCompand n with
  | 1 => alawExpand (w % 256)
  | 2 => ulawExpand (w % 256)
  | _ => ofBits (s.sapWord n) w
/-- Bytes of a sample in the memory rings, and a sample's bytes and value. -/
def State.memSize (s : State) (n : Nat) : Nat := [1, 2, 4].getD (s.fld (Reg.SAP_Pn_CFG n) 19 2) 4
def State.memOf (s : State) (n w : Nat) : List Byte :=
  match s.memSize n with
  | 1 => leBytes 1 w
  | 2 => leBytes 2 (toBits 16 (let l := s.linOf n w
      if s.linBits n ≤ 16 then l * (2 : Int) ^ (16 - s.linBits n) else l / (2 : Int) ^ (s.linBits n - 16)))
  | _ => leBytes 4 (w * 2 ^ (32 - s.sapWord n))
def State.ofMem (s : State) (n : Nat) (b : List Byte) : Int :=
  match s.memSize n with
  | 1 => s.linOf n (leVal b)
  | 2 => s.toLin n 16 (ofBits 16 (leVal b))
  | _ => s.linOf n (leVal b / 2 ^ (32 - s.sapWord n))
/-- An element that a stream writes: 1 byte a wire byte, 2 bytes INT16, 4 bytes INT32 left-justified (R335). -/
def State.ofElem (s : State) (n : Nat) (b : List Byte) : Int :=
  if b.length = 1 then s.linOf n (leVal b) else s.toLin n (8 * b.length) (ofBits (8 * b.length) (leVal b))
/-- Ramp sample k of 1 to 32, truncated toward zero (R347). -/
def rampOf (last : Int) (k : Nat) : Int := (last * ((32 - k : Nat) : Int)).tdiv 32

/-! Rings (R340 to R343). -/

/-- Base and size of ring r: 0 TX data, 1 TX side, 2 RX data, 3 RX side. -/
def State.sapRing (s : State) (n r : Nat) : Nat × Nat :=
  (s.pair (Reg.SAP_Pn_RING0_BASE_LO n + r * 0x20), 2 ^ max 12 (min 24 (s.fld (Reg.SAP_Pn_RING0_SIZE n + r * 0x20) 0 5)))
def State.sapSw (s : State) (n r : Nat) : Nat := s.rn (Reg.SAP_Pn_RING0_SW n + r * 0x20)
def State.sapHw (s : State) (n r : Nat) : Nat := s.rn (Reg.SAP_Pn_RING0_HW n + r * 0x20)
def State.setSapHw (s : State) (n r v : Nat) : State := s.setN (Reg.SAP_Pn_RING0_HW n + r * 0x20) v
/-- The pieces of `k` bytes at count `w` of a ring. -/
def ringPieces (base size w k : Nat) : List (Nat × Nat) :=
  if w % size + k ≤ size then [(base + w % size, k)] else [(base + w % size, size - w % size), (base, w % size + k - size)]
/-- Free bytes of a ring that the part writes. -/
def State.sapRoom (s : State) (n r : Nat) : Nat := (s.sapRing n r).2 - (s.sapHw n r + 2 ^ 32 - s.sapSw n r) % 2 ^ 32
/-- The part writes bytes at its pointer. -/
def State.sapPut (s : State) (n r : Nat) (b : List Byte) : State :=
  let (base, size) := s.sapRing n r
  let w := s.sapHw n r
  (s.writeRuns (s.oasLoc 16 n) (ringPieces base size w b.length) b).setSapHw n r (w + b.length)
/-- A side record has room; a side ring with BASE 0 is no ring (DEDUCED). -/
def State.sideRoom (s : State) (n d : Nat) : Bool := (s.sapRing n (2 * d + 1)).1 == 0 || decide (32 ≤ s.sapRoom n (2 * d + 1))
/-- Writes a side record of direction d (0 TX, 1 RX), where its ring is set and has room (Table 15-2). -/
def State.sideRecord (s : State) (n d frame flags : Nat) : State :=
  if (s.sapRing n (2 * d + 1)).1 = 0 ∨ !s.sideRoom n d then s
  else
    let p := s.port n
    let b := leBytes 8 frame ++ leBytes 8 (if d = 0 then p.txBytes else p.rxBytes)
      ++ leBytes 4 (s.rn (if d = 0 then Reg.SAP_Pn_TXMASK n else Reg.SAP_Pn_RXMASK n))
      ++ leBytes 4 (if d = 0 then p.txEpoch else p.rxEpoch)
      ++ leBytes 4 (if d = 0 then s.rn (Reg.SAP_Pn_BOUND n) else 0) ++ leBytes 4 (flags + d)
    (s.sapPut n (2 * d + 1) b).raise (Reg.SAP_Pn_INT_STATUS n) 6

/-! Slots. -/

def Port.slot (p : Port) (i : Nat) : PortSlot := AMap.read (fun _ => {}) p.slots i
def Port.setSlot (p : Port) (i : Nat) (x : PortSlot) : Port := { p with slots := AMap.write (fun _ => {}) p.slots i x }
/-- The stream a slot will be bound to once held changes apply. -/
def Port.boundTo (p : Port) (i : Nat) : Option Nat :=
  match p.bindShadow.find? (fun b => b.1 == i) with
  | some b => b.2
  | none => (p.slot i).bound
/-- TX_PENDING and RX_PENDING. -/
def State.showHeld (s : State) (n : Nat) : State :=
  let p := s.port n
  (s.setBit (Reg.SAP_Pn_STATUS n) 4 (p.txShadow.isSome || !p.bindShadow.isEmpty)).setBit (Reg.SAP_Pn_STATUS n) 5 p.rxShadow.isSome
/-- A slot in IDLE, with what is bound to it. -/
def PortSlot.idled (x : PortSlot) : PortSlot := 
  { x with st := .idle, last := 0, gap := 0, ramp := 0, quietRun := false, starved := false }
/-- A stream of the rate may bind a slot (R345). -/
def State.mayBind (s : State) (n slot rate : Nat) : Bool :=
  s.sapUsed n && decide (slot < s.sapSlots n) && ((s.port n).boundTo slot).isNone && rate != 0 && s.sapRate n == rate
/-- A binding is held until the next frame sync (R341). -/
def State.bindSlot (s : State) (n slot h : Nat) : State :=
  let p := s.port n
  let p1 : Port := { p with bindShadow := p.bindShadow.filter (fun b => b.1 != slot) ++ [(slot, some h)] }
  let y := p1.slot slot
  ((s.setPort n (p1.setSlot slot { y with fifo := [], next := none })).sapCount n (Reg.SAP_Pn_TX_DROP n) y.fifo.length 4).showHeld n
/-- A bound stream has gone quiet (R348). -/
def State.quietSlot (s : State) (n slot : Nat) : State :=
  let p := s.port n
  s.setPort n (p.setSlot slot { p.slot slot with quiet := true })
/-- An unbinding is held until the next frame sync, and the slot goes quiet. -/
def State.unbindSlot (s : State) (n slot : Nat) : State :=
  let p := s.port n
  let held := p.bindShadow.filter (fun b => b.1 != slot)
  let p1 : Port := { p with bindShadow := if (p.slot slot).bound.isSome then held ++ [(slot, none)] else held }
  ((s.setPort n p1).quietSlot n slot).showHeld n
/-- A sample reaches a bound slot (R345, R349). -/
def State.arriveSample (s : State) (n slot : Nat) (deg : Bool) (x : Int) : State :=
  let p := s.port n
  let y := p.slot slot
  if !p.running || p.tail.isSome then s.sapCount n (Reg.SAP_Pn_TX_DROP n) 1 4
  else
    let f := s.sapFrame n
    let at_ := y.next.getD (max (f + s.sapSetpoint n) (s.sapLead (s.sapLeader n)))
    let y1 : PortSlot := { y with next := some (at_ + 1), quiet := y.quiet && y.next.isNone }
    let s1 := s.setPort n (p.setSlot slot y1)
    if at_ ≤ f ∧ !p.fresh then s1.sapCount n (Reg.SAP_Pn_LATE_DISC n) 1 3
    else if f + 256 ≤ at_ then s1.sapCount n (Reg.SAP_Pn_TX_DROP n) 1 4
    else s1.setPort n (p.setSlot slot { y1 with fifo := y1.fifo ++ [(at_, x, deg)] })
/-- Skipped samples leave holes in a slot's frames (R345). -/
def State.skipSamples (s : State) (n slot k : Nat) : State :=
  let p := s.port n
  let y := p.slot slot
  s.setPort n (p.setSlot slot { y with next := y.next.map (fun t => t + k) })
def arriveSamples (n slot : Nat) (deg : Bool) (s : State) : List Int → State
  | [] => s
  | x :: t => arriveSamples n slot deg (s.arriveSample n slot deg x) t

/-! What a slot sends (R347, R348). -/

/-- A slot's next state for a frame with or without its sample, the value sent, and what counts. -/
structure SlotOut where
  slot : PortSlot
  value : Int
  under : Nat := 0
  starve : Nat := 0
  deriving DecidableEq, Repr

/-- A slot whose quiet ramp begins now, from the last value sent. -/
def PortSlot.beginQuiet (x : PortSlot) : PortSlot :=
  if !x.quiet then x
  else if x.st = .idle then { x with quiet := false }
  else { x with
    st := .mute
    last := if x.st = .mute then rampOf x.last x.ramp else x.last
    ramp := 0
    quiet := false
    quietRun := true
    next := if x.fifo = [] then none else x.next }
/-- A slot sends a frame's sample, or what R347 gives without one; a slot that is enabled again while its stream is starved
counts a missing sample as a repeat of zero (R351). -/
def PortSlot.send (hold : Nat) (y : PortSlot) (smp : Option Int) : SlotOut :=
  match smp with
  | some v => { slot := { y with st := .live, last := v, gap := 0, ramp := 0, quietRun := false, starved := false }, value := v }
  | none =>
    let x := y.beginQuiet
    if x.st = .idle ∧ !x.starved then { slot := x, value := 0 }
    else if x.quietRun then
      { slot := if 32 ≤ x.ramp + 1 then x.idled else { x with ramp := x.ramp + 1 }, value := rampOf x.last (x.ramp + 1) }
    else if x.st ≠ .mute ∧ x.gap + 1 ≤ hold then { slot := { x with st := .hold, gap := x.gap + 1 }, value := x.last, under := 1 }
    else
      let k := if x.st = .mute then min 32 (x.ramp + 1) else 1
      { slot := { x with st := .mute, gap := x.gap + 1, ramp := k, starved := x.bound.isSome }, value := rampOf x.last k, under := 1
        starve := if x.st = .mute then 0 else 1 }

end Sys2Proof.Machine
end

