-- ==== Sys2Proof/Machine/AttnMath.lean ====
section
/-!
DEFINITION. The arithmetic of attention (R205 to R226): bias distance, masks, block partials, merging, the output
row, and the recomputing backward pass.
-/

namespace Sys2Proof.Machine

/-- `b(x)` of R213. -/
def biasBucket (x : Nat) : Nat :=
  if x ≤ 64 then x
  else
    let e := x.log2
    min 127 (65 + (e - 6) * 8 + (x >>> (e - 3)) % 8)

/-- The entry index for a distance (R213). -/
def biasIndex (signed : Bool) (delta : Int) : Nat :=
  if 0 ≤ delta then biasBucket delta.toNat
  else if signed then 128 + biasBucket ((-delta).toNat - 1)
  else biasBucket (-delta).toNat

/-- The score of R206 from the exact dot product's tree result, and 1 where a step towards it overflowed (R99). -/
def attnScore (mode : RMode) (scale dot bias : Word) : Word × Nat :=
  let p := roundVO .fp32 mode (mulV (val32 dot) (val32 scale))
  let s := addFO .fp32 mode (val32 (BitVec.ofNat 32 p.1)) (val32 bias)
  (BitVec.ofNat 32 s.1, b2n (p.2 || s.2))

/-- One key of a block as a row sees it: masked or not, its score, its value row, and the overflows of its score, on
the matrix engine and on the vector unit. -/
structure KeyView where
  masked : Bool
  s : Word
  v : List Word
  mat : Nat := 0
  vec : Nat := 0
  deriving DecidableEq, Repr

def emptyPart (dv : Nat) : AttnPart := { m := inf32 true, l := 0, o := List.replicate dv 0, bad := false }

/-- Column `d` of a list of rows. -/
def column (d : Nat) (rows : List (List Word)) : List Word := rows.map (fun r => r.getD d 0)

/-- The partial of one key block (R208): 128 keys, `pfmt` the probabilities' format code. The value of a masked key counts as
+0, as R211 requires: the same rows give the same bits whatever keys lie beyond those they see (DEDUCED, log 39). -/
def blockPartial (mode : RMode) (pfmt dv : Nat) (keys : List KeyView) : AttnPart :=
  let live := keys.filter (fun k => !(k.masked || k.s == inf32 true))
  let bad := live.any (fun k => isNan32 k.s || k.s == inf32 false)
  let m := (live.filter (fun k => !(isNan32 k.s || k.s == inf32 false))).foldl (fun m k => fmax m k.s) (inf32 true)
  let pc := keys.map (fun k =>
    if k.masked || k.s == inf32 true || bad || m == inf32 true then (0 : Word)
    else toFp32 pfmt (convertRne pfmt (fexp mode (fsub mode k.s m))))
  let vs := keys.map (fun k => if k.masked || k.s == inf32 true then [] else k.v)
  let seen := keys.filter (fun k => !k.masked)
  let os := (List.range dv).map (fun d => dot32 mode pc (column d vs))
  { m := m
    l := (sum32 mode pc).1
    o := os.map (·.1)
    bad := bad
    mat := seen.foldl (fun n k => n + k.mat) (os.foldl (fun n o => n + o.2) 0)
    vec := seen.foldl (fun n k => n + k.vec) 0 }

/-- `a * f + b * g` of a merge, and 1 where a step overflowed. -/
def mergeElem (mode : RMode) (a f b g : Word) : Word × Nat :=
  let x := roundVO .fp32 mode (mulV (val32 a) (val32 f))
  let y := roundVO .fp32 mode (mulV (val32 b) (val32 g))
  let z := addFO .fp32 mode (val32 (BitVec.ofNat 32 x.1)) (val32 (BitVec.ofNat 32 y.1))
  (BitVec.ofNat 32 z.1, b2n (x.2 || y.2 || z.2))
/-- `merge` of R209; `a` covers lower block indices than `b`. Overflows add up. -/
def mergePart (mode : RMode) (a b : AttnPart) : AttnPart :=
  if b.m == inf32 true && !b.bad then { a with mat := a.mat + b.mat, vec := a.vec + b.vec }
  else if a.m == inf32 true && !a.bad then { b with mat := a.mat + b.mat, vec := a.vec + b.vec }
  else
    let m := fmax a.m b.m
    let fa := fexp mode (fsub mode a.m m)
    let fb := fexp mode (fsub mode b.m m)
    let os := List.zipWith (fun x y => mergeElem mode x fa y fb) a.o b.o
    { m := m
      l := (mergeElem mode a.l fa b.l fb).1
      o := os.map (·.1)
      bad := a.bad || b.bad
      mat := a.mat + b.mat
      vec := os.foldl (fun n o => n + o.2) (a.vec + b.vec) }

def mergeLevel (mode : RMode) : List AttnPart → List AttnPart
  | a :: b :: t => mergePart mode a b :: mergeLevel mode t
  | l => l

def mergeGo (mode : RMode) : Nat → List AttnPart → List AttnPart
  | 0, l => l
  | k + 1, l => if l.length ≤ 1 then l else mergeGo mode k (mergeLevel mode l)

/-- The tree of R209 over block partials. -/
def mergeTree (mode : RMode) (dv : Nat) (ps : List AttnPart) : AttnPart :=
  (mergeGo mode ps.length ps).headD (emptyPart dv)

/-- The row of R210 before output conversion: the normalised elements with their overflows, or canonical NaNs, or
zeros. -/
def attnRow (mode : RMode) (p : AttnPart) : List (Word × Nat) :=
  if p.bad then p.o.map (fun _ => (nan32, 0))
  else if p.m == inf32 true then p.o.map (fun _ => (0, 0))
  else p.o.map (fun x =>
    let r := divFO .fp32 mode (val32 x) (val32 p.l) (Config.unstated 0 x p.l).toNat
    (BitVec.ofNat 32 r.1, b2n r.2))

/-- The LSE of R210. -/
def attnLse (mode : RMode) (p : AttnPart) : Word :=
  if p.bad then nan32
  else if p.m == inf32 true then inf32 true
  else ffma mode (flog2 mode p.l) 0x3F317218#32 p.m

/-- The format code of PFMT (Table 10-6). -/
def pfmtCode : Nat → Nat
  | 0 => 1 | 1 => 3 | _ => 0

/-- Cycles of one page of an ATTN item, in hundredths (R218 with E / 426.7 taken as E * 10 / 4267). -/
def attnRate (fa fb : Nat) : Nat :=
  if fa = 0 ∨ fb = 0 then 128 else if fmtBits fa = 16 ∨ fmtBits fb = 16 then 2048 else 4096

/-- `p` and `ds` of the backward pass for one unmasked key (R225), each with 1 where a step overflowed. -/
def backP (mode : RMode) (s lse : Word) : Word × Nat :=
  let d := addFO .fp32 mode (val32 s) (val32 lse).neg
  let t := roundVO .fp32 mode (mulV (val32 (BitVec.ofNat 32 d.1)) (val32 0x3FB8AA3B#32))
  let e := exp2FO .fp32 mode (val32 (BitVec.ofNat 32 t.1))
  (BitVec.ofNat 32 e.1, b2n (d.2 || t.2 || e.2))
def backDs (mode : RMode) (pfmt : Nat) (scale p dp dd : Word) : Word × Nat :=
  let u := addFO .fp32 mode (val32 dp) (val32 dd).neg
  let v := roundVO .fp32 mode (mulV (val32 p) (val32 (BitVec.ofNat 32 u.1)))
  let w := roundVO .fp32 mode (mulV (val32 (BitVec.ofNat 32 v.1)) (val32 scale))
  (toFp32 pfmt (convertRne pfmt (BitVec.ofNat 32 w.1)), b2n (u.2 || v.2 || w.2))

end Sys2Proof.Machine
end

