-- ==== Sys2Proof/Machine/Sampling.lean ====
section
/-!
DEFINITION. Token sampling (R132 to R134): one row of logits to one sample record.
-/

namespace Sys2Proof.Machine

/-- The 16-byte sampling block (Table 06-5). -/
structure SampBlock where
  temp : Word := 0
  topP : Word := 0
  w2 : Word := 0
  w3 : Word := 0
  deriving DecidableEq, Repr

namespace SampBlock
def k (b : SampBlock) : Nat := bitsAt b.w2.toNat 0 11
def v (b : SampBlock) : Nat := bitsAt b.w3.toNat 0 19
/-- The ranges of Table 06-5. -/
def ok (b : SampBlock) : Bool :=
  isFin32 b.temp && fleNum 0 b.temp && isFin32 b.topP && fltNum 0 b.topP && fleNum b.topP one32
    && decide (1 ≤ b.k ∧ b.k ≤ 1024) && decide (1 ≤ b.v ∧ b.v ≤ 262144)
def greedy (b : SampBlock) : Bool := feqNum b.temp 0
end SampBlock

/-- The class of a row (Table 06-6). -/
inductive SampClass where
  | drawn | greedy | empty | badparam
  deriving DecidableEq, Repr

def SampClass.code : SampClass → Nat
  | .drawn => 0 | .greedy => 1 | .empty => 2 | .badparam => 3

/-- A sample record (Table 06-6) and what the row counts. -/
structure Sample where
  token : Nat := 0xFFFFFFFF
  prob : Word := 0
  u : Nat := 0
  kept : Nat := 0
  nans : Nat := 0
  cls : SampClass := .empty
  deriving DecidableEq, Repr

/-- The four words of a record (Table 06-6). -/
def Sample.words (r : Sample) : List Word :=
  [BitVec.ofNat 32 r.token, r.prob, BitVec.ofNat 32 (r.u * 256),
   BitVec.ofNat 32 (r.kept * 2 ^ 21 + (if 0 < r.nans then 8 else 0) + r.cls.code)]

/-- Places a candidate by value descending, equal values by lower token (later tokens come after). -/
def placeCand (zc : Word × Nat) : List (Word × Nat) → List (Word × Nat)
  | [] => [zc]
  | h :: t => if fltNum h.1 zc.1 then zc :: h :: t else h :: placeCand zc t

/-- The best `k` candidates in order (R133). -/
def topCands (k : Nat) (zs : List (Word × Nat)) : List (Word × Nat) :=
  zs.foldl (fun l z => (placeCand z l).take k) []

/-- Running sums of the weights. -/
def cumSums : Word → List Word → List Word
  | _, [] => []
  | c, e :: t => fadd .rne c e :: cumSums (fadd .rne c e) t

/-- The place, counted from 1, of the first element that meets a test, or `d`. -/
def firstPlace (p : Word → Bool) (d : Nat) : Nat → List Word → Nat
  | _, [] => d
  | i, a :: t => if p a then i else firstPlace p d (i + 1) t

/-- The z of R133 for a logit: divided by the temperature, +infinity replaced by the largest finite value. -/
def sampZ (b : SampBlock) (l : Word) : Word :=
  let z := if b.greedy then l else fdiv .rne l b.temp
  if z = inf32 false then 0x7F7FFFFF#32 else z

/-- One valid row (R133); `word0` is word 0 of the row's drift evaluation, used only by a drawn row. -/
def sampleRow (b : SampBlock) (logits : List Word) (word0 : Word) : Sample :=
  let nans := (logits.filter isNan32).length
  let zs := (logits.zipIdx.filter (fun x => !isNan32 x.1)).map (fun x => (sampZ b x.1, x.2))
  let cands := topCands (if b.greedy then 1 else b.k) (zs.filter (fun z => !isNan32 z.1 && z.1 != inf32 true))
  match cands with
  | [] => { nans := nans, cls := .empty }
  | best :: _ =>
    if b.greedy then { token := best.2, prob := one32, kept := 1, nans := nans, cls := .greedy }
    else
      let es := cands.map (fun c => fexp .rne (fsub .rne c.1 best.1))
      let cum := cumSums 0 es
      let n := cum.length
      let h := fmul .rne b.topP (cum.getD (n - 1) 0)
      let bigJ := firstPlace (fun c => fleNum h c) n 1 cum
      let u := bitsAt word0.toNat 8 24
      let t := fmul .rne (round32O .rne false u (-24) false).1 (cum.getD (bigJ - 1) 0)
      let j := firstPlace (fun c => fltNum t c) bigJ 1 (cum.take bigJ)
      { token := (cands.getD (j - 1) best).2, prob := fdiv .rne (es.getD (j - 1) 0) (cum.getD (bigJ - 1) 0),
        u := u, kept := bigJ, nans := nans, cls := .drawn }

/-- Whether a valid row takes its evaluation (R125, R133): a drawn row only. -/
def sampleDraws (b : SampBlock) (logits : List Word) : Bool :=
  decide ((sampleRow b logits 0).cls = .drawn)

/-- Core cycles of a row (R135). -/
def sampleCost (b : SampBlock) (cands : Nat) : Nat :=
  if b.ok then (b.v + 63) / 64 + 4 * min b.k cands + 150 else 150

end Sys2Proof.Machine
end

