-- ==== Sys2Proof/Machine/Scan.lean ====
section
/-!
DEFINITION. The scanned recurrence (R270) and the nomad cores' exact reduction accumulator (R148).
-/

namespace Sys2Proof.Machine

def zipW3 (f : Word → Word → Word → Word) (a b c : List Word) : List Word :=
  List.zipWith (fun x yz => f x yz.1 yz.2) a (List.zip b c)

/-- Where an fp32 multiplication or fma of three vectors overflows, element by element. -/
def mulOver (mode : RMode) (a b : List Word) : List Bool :=
  List.zipWith (fun x y => (roundVO .fp32 mode (mulV (val32 x) (val32 y))).2) a b
def fmaOver (mode : RMode) (a b c : List Word) : List Bool :=
  List.zipWith (fun x yz => (fmaFO .fp32 mode (val32 x) (val32 yz.1) (val32 yz.2)).2) a (List.zip b c)
def orL (a b : List Bool) : List Bool := List.zipWith (fun x y => x || y) a b

/-- A combination of two runs, `n2` after `n1`: the products of their factors and the fma of their sums (R270), and
where a step of it overflowed. -/
def scanJoin (mode : RMode) (n2 n1 : List Word × List Word) : (List Word × List Word) × List Bool :=
  ((List.zipWith (fmul mode) n2.1 n1.1, zipW3 (ffma mode) n2.1 n1.2 n2.2),
    orL (mulOver mode n2.1 n1.1) (fmaOver mode n2.1 n1.2 n2.2))

/-- Combines the two top nodes while they cover equally many positions (R270); fuel is the stack's depth. -/
def scanFold (mode : RMode) : Nat → List ScanNode → List Bool → List ScanNode × List Bool
  | 0, st, o => (st, o)
  | k + 1, n2 :: n1 :: t, o =>
    if n2.len = n1.len then
      let p := scanJoin mode (n2.a, n2.b) (n1.a, n1.b)
      scanFold mode k (⟨2 * n2.len, p.1.1, p.1.2⟩ :: t) (orL o p.2)
    else (n2 :: n1 :: t, o)
  | _, st, o => (st, o)

/-- `position(a, b, reset)` of R270 for the whole vector: the new state, and y with 1 where a step of the position
overflowed (R99). -/
def scanPosition (mode : RMode) (spanLog : Nat) (hInit a b : List Word) (reset : Bool) (s : ScanState) :
    ScanState × List (Word × Nat) :=
  let s : ScanState := if reset then ⟨0, hInit, []⟩ else s
  let f := scanFold mode (s.stack.length + 1) (⟨1, a, b⟩ :: s.stack) (a.map (fun _ => false))
  let st := f.1
  let p : (List Word × List Word) × List Bool := match st.reverse with
    | [] => ((a, b), f.2)
    | n :: t => t.foldl (fun p (k : ScanNode) =>
        let r := scanJoin mode (k.a, k.b) p.1
        (r.1, orL p.2 r.2)) ((n.a, n.b), f.2)
  let y := zipW3 (ffma mode) p.1.1 s.anchor p.1.2
  let ys := List.zip y ((orL p.2 (fmaOver mode p.1.1 s.anchor p.1.2)).map b2n)
  if s.u + 1 = 2 ^ spanLog then (⟨0, y, []⟩, ys) else (⟨s.u + 1, s.anchor, st⟩, ys)

/-! The reduction accumulator of a nomad core. -/

/-- `0` sum, `1` dot, `2` sum of squares, `3` max, `4` min (Table 07-3). -/
def redAdd (op : Nat) (mode : RMode) (a b : Word) : Word :=
  if op = 3 then fmax a b else if op = 4 then fmin a b else fadd mode a b

/-- Combines the two top nodes while they cover equally many blocks (R148). -/
def redFold (op : Nat) (mode : RMode) : Nat → List RedNode → List RedNode
  | 0, st => st
  | k + 1, n2 :: n1 :: t =>
    if n2.blocks = n1.blocks ∧ n2.blocks ≠ 0 then
      redFold op mode k (⟨redAdd op mode n1.value n2.value, 2 * n2.blocks⟩ :: t)
    else n2 :: n1 :: t
  | _, st => st

/-- The open block's value. -/
def RedAcc.openValue (r : RedAcc) (mode : RMode) : Word :=
  if r.op = 3 ∨ r.op = 4 then r.ext.getD 0
  else (Window.result ⟨r.winSum, r.winNan, r.winPos, r.winNeg, r.winNegZero, r.winTerms⟩ mode).1

def RedAcc.clearWindow (r : RedAcc) : RedAcc :=
  { r with winSum := 0, winNan := false, winPos := false, winNeg := false, winNegZero := true, winTerms := 0, ext := none }

/-- Closes the open block and pushes it. -/
def RedAcc.closeBlock (r : RedAcc) (mode : RMode) : RedAcc :=
  { r.clearWindow with
    stack := redFold r.op mode (r.stack.length + 1) (⟨r.openValue mode, 1⟩ :: r.stack) }

/-- One element (or product) enters; the block closes after logical index 32b + 31. -/
def RedAcc.feed (r : RedAcc) (mode : RMode) (x y : Word) : RedAcc :=
  let p := match r.op with
    | 1 => mulV (val32 x) (val32 y)
    | 2 => mulV (val32 x) (val32 x)
    | _ => val32 x
  let w := Window.feed ⟨r.winSum, r.winNan, r.winPos, r.winNeg, r.winNegZero, r.winTerms⟩ p
  let e := match r.ext with
    | none => if isNan32 x then nan32 else x
    | some m => if r.op = 3 then fmax m x else fmin m x
  let r' : RedAcc :=
    { r with
      started := true
      nextElem := r.nextElem + 1
      winSum := w.sum
      winNan := w.nan
      winPos := w.posInf
      winNeg := w.negInf
      winNegZero := w.allNegZero
      winTerms := w.terms
      ext := some e }
  if r.nextElem % 32 = 31 then r'.closeBlock mode else r'

/-- NMD.RFEED: `none` is the REDUCE_ORDER fault. -/
def RedAcc.rfeed (r : RedAcc) (mode : RMode) (start : Nat) (xs ys : List Word) : Option RedAcc :=
  if r.lastFed then none
  else if r.started ∧ start ≠ r.nextElem then none
  else
    let r0 : RedAcc := { r with nextElem := start }
    let r' := (List.zip xs ys).foldl (fun a p => a.feed mode p.1 p.2) r0
    if 20 < r'.stack.length then none else some r'

/-- NMD.RNODE: a finished node of 2^j blocks from block `b`; `none` is the REDUCE_ORDER fault. -/
def RedAcc.rnode (r : RedAcc) (mode : RMode) (b j : Nat) (last : Bool) (v : Word) : Option RedAcc :=
  if r.lastFed ∨ b % 2 ^ j ≠ 0 ∨ r.nextElem % 32 ≠ 0 ∨ (r.started ∧ b * 32 ≠ r.nextElem) then none
  else
    let st := if last then ⟨v, 0⟩ :: r.stack
      else redFold r.op mode (r.stack.length + 1) (⟨v, 2 ^ j⟩ :: r.stack)
    if 20 < st.length then none
    else some { r with started := true, nextElem := (b + 2 ^ j) * 32, stack := st, lastFed := last }

/-- NMD.REND: the result of the stack, combined from the top down (R148); +0 when nothing was fed. -/
def RedAcc.rend (r : RedAcc) (mode : RMode) : Word :=
  let r' := if 0 < r.winTerms then r.closeBlock mode else r
  match r'.stack with
  | [] => 0
  | t :: rest => rest.foldl (fun acc n => redAdd r.op mode n.value acc) t.value

end Sys2Proof.Machine
end

