-- ==== Sys2Proof/Machine/VisionMath.lean ====
section
/-!
DEFINITION. The arithmetic of convolution, pooling and regrouping (R287 to R299): output sizes, borders, one
output element of a convolution or pooling node, and the regrouping maps.
-/

namespace Sys2Proof.Machine

/-- The output size of one axis (R289). -/
def outSize (n k s d pa pb : Nat) : Nat :=
  let span := d * (k - 1) + 1
  if n = 0 ∨ n + pa + pb < span then 0 else (n + pa + pb - span) / s + 1

/-- Where a tap reads (R290): 0 ZERO, 1 EDGE, 2 REFLECT. -/
def srcCoord (pad : Nat) (i : Int) (n : Nat) : Option Nat :=
  if 0 ≤ i ∧ i < (n : Int) then some i.toNat
  else if pad = 0 then none
  else if pad = 1 then some (min (max i 0) ((n : Int) - 1)).toNat
  else if n = 1 then some 0
  else
    let p : Int := 2 * ((n : Int) - 1)
    let j := i % p
    some (if (n : Int) ≤ j then p - j else j).toNat

/-- One axis of a windowed operator. -/
structure Axis where
  n : Nat
  k : Nat
  s : Nat
  d : Nat
  pa : Nat
  pb : Nat
  deriving DecidableEq, Repr

def Axis.out (a : Axis) : Nat := outSize a.n a.k a.s a.d a.pa a.pb

/-- The input coordinate of tap `t` of output `o`. -/
def Axis.tap (a : Axis) (pad o t : Nat) : Option Nat :=
  srcCoord pad ((o * a.s : Nat) - (a.pa : Int) + ((t * a.d : Nat) : Int)) a.n

/-- The taps (ky, kx) of a window in index order with the coordinates they read. -/
def windowTaps (pad : Nat) (ay ax : Axis) (oy ox : Nat) : List (Option (Nat × Nat)) :=
  (List.range (ay.k * ax.k)).map (fun r =>
    match ay.tap pad oy (r / ax.k), ax.tap pad ox (r % ax.k) with
    | some y, some x => some (y, x)
    | _, _ => none)

/-- The taps of a convolution output of group g over the reduction index r (R292): the pixel and channel that each reads. -/
def convTaps (pad cg g : Nat) (ay ax : Axis) (oy ox : Nat) : List (Option (Nat × Nat × Nat)) :=
  (windowTaps pad ay ax oy ox).flatMap (fun t => (List.range cg).map (fun c => t.map (fun p => (p.1, p.2, g * cg + c))))

/-- One pooling output (R296) and its overflows: 0 MAX, 1 AVG_EXCL, 2 AVG_INCL. -/
def poolElem (mode : RMode) (kind pad : Nat) (ay ax : Axis) (oy ox : Nat) (px : Nat → Nat → Word) : Word × Nat :=
  let real := (windowTaps pad ay ax oy ox).filterMap (fun t => t.map (fun p => px p.1 p.2))
  if real = [] then (0, 0)
  else if kind = 0 then (extreme true real, 0)
  else
    let y := sum32 mode real
    (fdiv mode y.1 (ofNat32 mode (if kind = 1 then real.length else ay.k * ax.k)), y.2)

/-- SPACE_TO_DEPTH (R297): where output element (oy, ox, oc) of factor `f` reads, for C input channels. -/
def spaceToDepth (f c oy ox oc : Nat) : Nat × Nat × Nat :=
  (oy * f + oc / (f * c), ox * f + oc % (f * c) / c, oc % c)

/-- DEPTH_TO_SPACE (R297), its inverse: `c` is the output's channel count. -/
def depthToSpace (f c oy ox oc : Nat) : Nat × Nat × Nat :=
  (oy / f, ox / f, (oy % f) * f * c + (ox % f) * c + oc)

end Sys2Proof.Machine
end

