-- ==== Sys2Proof/Machine/NodeMath.lean ====
section
/-!
DEFINITION. What operator nodes compute, as functions of the values they read (chapters 04, 05, 06, 10): packed rows,
output conversion, products, vector operations, reductions and attention rows.
-/

namespace Sys2Proof.Machine

/-! Packed rows (R76). -/

def unpackFrom (w : Nat) (v : Nat) : Nat → List Nat
  | 0 => []
  | n + 1 => v % 2 ^ w :: unpackFrom w (v / 2 ^ w) n
/-- The `n` codes of a row. -/
def unpackRow (fmt n : Nat) (b : List Byte) : List Nat := unpackFrom (fmtBits fmt) (leVal b) n
def packVal (w : Nat) : List Nat → Nat
  | [] => 0
  | c :: t => c % 2 ^ w + 2 ^ w * packVal w t
/-- A row of codes as bytes, pad bits zero. -/
def packRow (fmt : Nat) (cs : List Nat) : List Byte := leBytes (rowBytes fmt cs.length) (packVal (fmtBits fmt) cs)
/-- A code as an FP32 word: floats exactly, integers rounded under the internal mode (chapter 04). -/
def codeVal (m : RMode) (fmt c : Nat) : Word := if fmtIsInt fmt then ofInt32 m (sext (fmtBits fmt) c) else toFp32 fmt c
/-- A row of FP32 words. -/
def rowVals (m : RMode) (fmt n : Nat) (b : List Byte) : List Word := (unpackRow fmt n b).map (codeVal m fmt)
/-- A matrix operand's element after the expander (R81): affine, or a table entry in E4M3 or BF16. -/
def expandVal (fmt mode : Nat) (bf : Bool) (tab : List Word) (c : Nat) : Word :=
  if !fmtIsU fmt then toFp32 fmt c
  else if mode = 2 then toFp32 (if bf then 1 else 3) ((tab.getD c 0).toNat)
  else expandAffine c

/-! Output elements (R87 to R89, R127). -/

/-- A converted element: its code, what it counts, and whether it took an evaluation (R125). -/
structure OutElem where
  code : Nat
  cnt : Cnts
  eval : Bool
  deriving DecidableEq, Repr
/-- Converts one FP32 result at a logical index, after dropout. -/
def outElem (mw : ModeWord) (dc : DrawCtx) (keep idx : Nat) (y : Word) : OutElem :=
  let w := dc.eval idx
  let (x, dropped, ovf) := dropout mw.internal keep w.w1 y
  let (c, k) := convertOut mw w.w0 x
  ⟨c, { k with drop := dropped, infgen := b2n ovf }, keep != 255 || decide (0 < k.sr)⟩
/-- A converted row and what it counts. -/
structure OutRow where
  codes : List Nat := []
  cnt : Cnts := {}
  evals : Nat := 0
  deriving DecidableEq, Repr
def OutRow.addElem (r : OutRow) (e : OutElem) : OutRow := ⟨r.codes ++ [e.code], r.cnt.add e.cnt, r.evals + b2n e.eval⟩
/-- Converts results that carry the overflows counted on the way to them; a scaling of dropout counts only where none
came before it (R99). Indices rise from `base`. -/
def outRowFrom (mw : ModeWord) (dc : DrawCtx) (keep : Nat) : Nat → List (Word × Nat) → OutRow → OutRow
  | _, [], r => r
  | i, (y, inf) :: t, r =>
    let e := outElem mw dc keep i y
    outRowFrom mw dc keep (i + 1) t (r.addElem { e with cnt := { e.cnt with infgen := if inf = 0 then e.cnt.infgen else inf } })
def outRow (mw : ModeWord) (dc : DrawCtx) (keep base : Nat) (ys : List (Word × Nat)) : OutRow :=
  outRowFrom mw dc keep base ys {}
/-- A row of INT32 results at logical indices from `base`. Dropout evaluates each element unless KEEP is 255 (R125): a
dropped one is 0; the spec scales a kept one only in FP32 (R127) and states no INT32 result (log 11). -/
def intRow (dc : DrawCtx) (keep base : Nat) (codes : List Nat) : OutRow :=
  if keep = 255 then { codes := codes }
  else codes.zipIdx.foldl (fun r x =>
    let kept : Bool := decide (bitsAt (dc.eval (base + x.2)).w1.toNat 0 8 ≤ keep)
    r.addElem ⟨if kept then (Config.unstated 5 (BitVec.ofNat 32 x.1) (BitVec.ofNat 32 keep)).toNat else 0,
      { drop := b2n (!kept) }, true⟩) {}
/-- The row's values as FP32 words, as the gatherer and the quantiser see them. -/
def OutRow.vals (r : OutRow) (fmt : Nat) : List Word := r.codes.map (codeVal .rne fmt)

/-! Matrix products (R82 to R86, R116). -/

/-- One row of A times the columns of B: FP32 results with their overflow counts. `cols` gives each column's elements
and its weight groups' scales and zero points by block. -/
def matRow (mw : ModeWord) (q : QBlock) (a : List Word) (sa za : Word)
    (cols : List (List Word × List Word × List Word)) (c : List Word) : List (Word × Nat) :=
  (cols.zipIdx).map (fun x =>
    let y : Traced := if q.qa || q.qb then dequantProduct mw.internal sa za a x.1.1 x.1.2.1 x.1.2.2
      else reduceT mw.internal (products a x.1.1)
    let r := if mw.accC then addT mw.internal y ⟨c.getD x.2 0, false, 0⟩ else y
    (r.v, r.n))
/-- The same for integer operands with FMT_OUT FP32. -/
def matRowInt (mw : ModeWord) (a : List Int) (cols : List (List Int)) (c : List Word) : List (Word × Nat) :=
  (cols.zipIdx).map (fun x =>
    let y : Traced := ⟨intTotalFp32 mw.internal a x.1, false, 0⟩
    let r := if mw.accC then addT mw.internal y ⟨c.getD x.2 0, false, 0⟩ else y
    (r.v, r.n))

/-! Vector operations (Table 04-7). -/

/-- The steps of a float operation in order: each result with its overflow flag; the last is the value. -/
def vecSteps (op : VecOp) (m : RMode) (a b c : Word) : List (Nat × Bool) :=
  let f := FFmt.fp32
  let v (w : Word) : FVal := val32 w
  let w (x : Nat × Bool) : FVal := f.decode x.1
  let u (k : Nat) : Nat := (Config.unstated k a b).toNat
  let expS (x : FVal) : List (Nat × Bool) :=
    let p := roundVO f m (mulV x (val32 0x3FB8AA3B#32))
    [p, exp2FO f m (w p)]
  let sigS (x : FVal) : List (Nat × Bool) :=
    let e := expS x.neg
    let d := addFO f m (val32 one32) (w (e.getD 1 (0, false)))
    e ++ [d, divFO f m (val32 one32) (w d) (u 1)]
  match op with
  | .add => [addFO f m (v a) (v b)]
  | .sub => [addFO f m (v a) (v b).neg]
  | .mul => [roundVO f m (mulV (v a) (v b))]
  | .fma => [fmaFO f m (v a) (v b) (v c)]
  | .vmin => [((fmin a b).toNat, false)]
  | .vmax => [((fmax a b).toNat, false)]
  | .cmpLt => [(if !isNan32 a && !isNan32 b && fltNum a b then one32.toNat else 0, false)]
  | .cmpEq => [(if !isNan32 a && !isNan32 b && feqNum a b then one32.toNat else 0, false)]
  | .select => [(if feqNum a 0 then c.toNat else b.toNat, false)]
  | .recip => [divFO f m (val32 one32) (v a) (u 1)]
  | .sqrt => [sqrtFO f m (v a) (u 2)]
  | .rsqrt => [rsqrtFO f m (v a) (u 3)]
  | .exp2 => [exp2FO f m (v a)]
  | .log2 => [log2FO f m (v a) (u 4)]
  | .div => [divFO f m (v a) (v b) (u 0)]
  | .exp => expS (v a)
  | .sigmoid => sigS (v a)
  | .tanh =>
    let d := roundVO f m (mulV (val32 0x40000000#32) (v a))
    let s := sigS (w d)
    d :: s ++ [fmaFO f m (val32 0x40000000#32) (w (s.getD 3 (0, false))) (val32 0xBF800000#32)]
  | _ => [(a.toNat, false)]
/-- The value of a float operation, and 1 where a step overflowed (R99). -/
def vecElem (op : VecOp) (m : RMode) (a b c : Word) : Word × Nat :=
  let l := vecSteps op m a b c
  (BitVec.ofNat 32 ((l.getLast?.map (·.1)).getD 0), b2n (l.any (·.2)))
/-- The integer operations of Table 04-7, on 32-bit words. -/
def vecInt (op : VecOp) (a b : Word) : Option Word :=
  match op with
  | .iadd => some (a + b) | .isub => some (a - b) | .imul => some (a * b)
  | .ishl => some (a <<< (b.toNat % 32)) | .ishr => some (a >>> (b.toNat % 32)) | .isar => some (a.sshiftRight (b.toNat % 32))
  | .iand => some (a &&& b) | .ior => some (a ||| b) | .ixor => some (a ^^^ b)
  | _ => none
/-- A vector reduction of one row (R92). -/
def redRow (op : RedOp) (m : RMode) (a b : List Word) : Word × Nat :=
  match op with
  | .sum => sum32 m a
  | .dot => dot32 m a b
  | .sumsq => dot32 m a a
  | .max => (extreme true a, 0)
  | .min => (extreme false a, 0)

/-! Attention (chapter 10). -/

/-- The fields of an attention descriptor (Table 10-6). -/
structure AttnDesc where
  back : Bool
  mask : Nat
  causal : Bool
  exp : Nat
  pf : Nat
  saveLse : Bool
  bucketed : Bool
  paged : Bool
  place : Nat
  signed : Bool
  mode : ModeWord
  drift : Word
  group : Nat
  kvh : Nat
  dk : Nat
  dv : Nat
  latent : Nat
  slice : Nat
  scale : Word
  slots : List Nat
  /-- Query heads given to a cluster at a time, as 2^hpc (R219). -/
  hpc : Nat
  maxRows : Nat
  maxSeqs : Nat
  bmStride : Nat
  pageKib : Nat
  lpg : Nat
  maxCtx : Nat
  deriving DecidableEq, Repr
def attnDesc (d : BitVec 512) : AttnDesc :=
  { back := dfield d 0 24 8 == 0x41, mask := dfield d 0 22 2, causal := dfield d 0 21 1 == 1, exp := dfield d 0 19 2,
    pf := dfield d 0 17 2, saveLse := dfield d 0 16 1 == 1, bucketed := dfield d 0 15 1 == 1, paged := dfield d 0 14 1 == 1,
    place := dfield d 0 10 2, signed := dfield d 0 9 1 == 1, mode := ⟨BitVec.ofNat 32 (db d 4 4)⟩,
    drift := BitVec.ofNat 32 (db d 8 4), group := db d 12 1, kvh := db d 13 1, dk := db d 16 2, dv := db d 18 2,
    latent := db d 20 2, slice := db d 22 2, scale := BitVec.ofNat 32 (db d 24 4),
    slots := (List.range 12).map (fun i => db d (28 + i) 1), hpc := dfield d 0 12 2, maxRows := db d 40 4,
    maxSeqs := db d 44 2, bmStride := db d 46 2,
    pageKib := db d 48 2, lpg := db d 50 2, maxCtx := db d 52 4 }
def AttnDesc.heads (d : AttnDesc) : Nat := d.group * d.kvh
def AttnDesc.slot (d : AttnDesc) (i : Nat) : Nat := d.slots.getD i 255
def AttnDesc.fa (d : AttnDesc) : Nat := d.mode.fmtA
def AttnDesc.fb (d : AttnDesc) : Nat := d.mode.fmtB
/-- E of Table 10-2. -/
def AttnDesc.entryBytes (d : AttnDesc) : Nat :=
  match d.exp with
  | 1 => rowBytes d.fb d.latent
  | 2 => rowBytes d.fb d.dk
  | _ => d.kvh * (rowBytes d.fb d.dk + rowBytes d.fb d.dv)
/-- A length-table entry (Table 10-4). -/
structure LenEntry where
  handle : Nat := 0
  qLen : Nat := 0
  kLen : Nat := 0
  qPos : Nat := 0
  qOfs : Nat := 0
  bmOfs : Nat := 0
  kv : Nat := 0
  deriving DecidableEq, Repr
def lenEntry (b : List Byte) : LenEntry :=
  let v := leVal b
  ⟨bitsAt v 0 32, bitsAt v 32 32, bitsAt v 64 32, bitsAt v 96 32, bitsAt v 128 32, bitsAt v 160 32, bitsAt v 192 64⟩
/-- Key and value of key-value head `c` from a page entry (Table 10-2). `up` holds the up-projection rows of DIRECT, by
key-value head, keys before values. -/
def entryKv (d : AttnDesc) (up : List (List Word)) (c : Nat) (e : List Byte) : List Word × List Word :=
  let m := d.mode.internal
  match d.exp with
  | 1 =>
    let x := rowVals m d.fb d.latent e
    let o (r : List Word) : Word := toFp32 d.fb (convertRne d.fb (dot32 m x r).1)
    let rs := (up.drop (c * (d.dk + d.dv))).take (d.dk + d.dv)
    ((rs.take d.dk).map o, (rs.drop d.dk).map o)
  | 2 => let x := rowVals m d.fb d.dk e; (x, x)
  | _ =>
    let kb := rowBytes d.fb d.dk
    let vb := rowBytes d.fb d.dv
    (rowVals m d.fb d.dk ((e.drop (c * kb)).take kb), rowVals m d.fb d.dv ((e.drop (d.kvh * kb + c * vb)).take vb))
/-- What a row sees besides keys: its position, its bias entries for the head and its bitmap. -/
structure RowCtx where
  pos : Nat
  kLen : Nat
  bias : List Word := []
  bitmap : List Byte := []
  deriving DecidableEq, Repr
/-- The bias of a row and key, or +0 (R206, R213). -/
def AttnDesc.biasOf (d : AttnDesc) (r : RowCtx) (k : Nat) : Word :=
  if d.mask = 1 ∨ d.mask = 3 then r.bias.getD (biasIndex d.signed ((r.pos : Int) - k)) 0 else 0
/-- Masking before the score is known (R207). -/
def AttnDesc.masked (d : AttnDesc) (r : RowCtx) (k : Nat) : Bool :=
  (d.causal && decide (r.pos < k)) || decide (r.kLen ≤ k) ||
  ((d.mask == 2 || d.mask == 3) && !bitAt ((r.bitmap.getD (k / 8) 0).toNat) (k % 8)) ||
  ((d.mask == 1 || d.mask == 3) && d.biasOf r k == inf32 true)
/-- The partial of block j for one row and head; `kv` gives key and value rows of the block's positions. -/
def blockOf (d : AttnDesc) (r : RowCtx) (j : Nat) (q : List Word) (kv : List (List Word × List Word)) : AttnPart :=
  blockPartial d.mode.internal (pfmtCode d.pf) d.dv ((kv.zipIdx).map (fun x =>
    let k := 128 * j + x.2
    let y := dot32 d.mode.internal q x.1.1
    let s := attnScore d.mode.internal d.scale y.1 (d.biasOf r k)
    { masked := d.masked r k
      s := s.1
      v := x.1.2
      mat := y.2
      vec := s.2 }))
/-- Combines the two latest nodes while they cover equally many blocks. -/
def foldNodes (m : RMode) : Nat → List (Nat × AttnPart) → List (Nat × AttnPart)
  | 0, l => l
  | n + 1, (c2, p2) :: (c1, p1) :: t =>
    if c1 = c2 then foldNodes m n ((2 * c1, mergePart m p1 p2) :: t) else (c2, p2) :: (c1, p1) :: t
  | _, l => l
def pushNodes (m : RMode) : List (Nat × AttnPart) → List (Nat × AttnPart) → List (Nat × AttnPart)
  | st, [] => st
  | st, x :: t => pushNodes m (foldNodes m (st.length + 1) (x :: st)) t
/-- The tree of R209 over nodes of aligned runs in ascending order (R211, R219). -/
def joinNodes (m : RMode) (dv : Nat) (l : List (Nat × AttnPart)) : AttnPart :=
  match pushNodes m [] l with
  | [] => emptyPart dv
  | x :: t => t.foldl (fun a n => mergePart m n.2 a) x.2
/-- A node's bytes, row and head by row and head: m, l and o (R216), and back. -/
def partBytes (p : AttnPart) : List Byte :=
  (( if p.bad then nan32 else p.m) :: p.l :: p.o).flatMap (fun w => leBytes 4 w.toNat)
def partOf (dv : Nat) (b : List Byte) : AttnPart :=
  let w := (unpackRow 0 (dv + 2) b).map (BitVec.ofNat 32)
  { m := w.getD 0 0, l := w.getD 1 0, o := w.drop 2, bad := isNan32 (w.getD 0 0) }
def partsOf (dv : Nat) : Nat → List Byte → List AttnPart
  | 0, _ => []
  | n + 1, b => partOf dv (b.take (4 * dv + 8)) :: partsOf dv n (b.drop (4 * dv + 8))
/-- The largest aligned run of blocks from `j`, below `n`, for which a test holds of every block (R216). -/
def growRun (ok : Nat → Bool) (j n : Nat) : Nat → Nat → Nat
  | 0, c => c
  | f + 1, c => if j % (2 * c) = 0 ∧ j + 2 * c ≤ n ∧ (List.range (2 * c)).all (fun i => ok (j + i)) then
      growRun ok j n f (2 * c) else c
/-- Cuts blocks `j` to `n - 1` into runs whose pages lie in one channel: (first, count). -/
def cutRuns (ch : Nat → Nat) (n : Nat) : Nat → Nat → List (Nat × Nat)
  | 0, _ => []
  | f + 1, j =>
    if n ≤ j then []
    else
      let c := growRun (fun i => ch i == ch j) j n n 1
      (j, c) :: cutRuns ch n f (j + c)

end Sys2Proof.Machine
end

