-- ==== Sys2Proof/Machine/CmdFabric.lean ====
section
/-!
DEFINITION. Meanings of the fabric commands (chapter 18): ports, membership, routes and remote memory.
-/

namespace Sys2Proof.Machine

/-- The identity of this package as an unsigned integer (R394). -/
def State.ident (s : State) : Nat := leVal s.idKey
/-- STATE of ERG_STATUS and of a port. -/
def State.ergState (s : State) : Nat := s.fld Reg.ERG_STATUS 0 3
def State.portState (s : State) (n : Nat) : Nat := s.fld (Reg.ERG_Pn_STATUS n) 0 3
def State.setPortState (s : State) (n v : Nat) : State := s.setFld (Reg.ERG_Pn_STATUS n) 0 3 v
/-- A counter of the fabric block. -/
def State.ergCount (s : State) (a : Nat) : State := s.count a 1 Reg.ERG_INT_STATUS 8
/-- A port's cost (R401). -/
def State.portCost (s : State) (n : Nat) : Nat :=
  2 ^ s.fld (Reg.ERG_Pn_STATUS n) 4 2 * (if s.rbit (Reg.ERG_Pn_STATUS n) 6 then 2 else 1)
/-- This package's link-state advertisement (R396). -/
def State.ownLsa (s : State) : Lsa :=
  { ident := s.ident, devId := s.deviceId, assigned := s.fab.granted, seq := s.fab.seq
    gmOk := s.tckSrc == 1 && s.rbit Reg.TCK_STATUS 2
    links := ((List.range 16).filter (fun n => s.portUp n)).map (fun n =>
      (n, (match (s.eport n).peer with | some h => h.ident.toNat | none => 0), s.portCost n)) }

/-! Routes (R401). -/

/-- Costs to a destination, by identity; none where it is not reached. -/
abbrev Costs := List (Nat × Nat)
def costOf (c : Costs) (i : Nat) : Option Nat := (c.find? (fun e => e.1 == i)).map (fun e => e.2)
/-- One member's least cost through its links, given its peers' costs. -/
def relaxOne (c : Costs) (l : Lsa) : Option Nat :=
  l.links.foldl (fun (b : Option Nat) k => match costOf c k.2.1 with
    | none => b
    | some x => match b with
      | none => some (x + k.2.2)
      | some y => some (min y (x + k.2.2))) none
/-- One round over every member. -/
def relaxAll (dst : Nat) (db : List Lsa) (c : Costs) : Costs :=
  (dst, 0) :: db.filterMap (fun l => if l.ident = dst then none else (relaxOne c l).map (fun x => (l.ident, x)))
def relaxN (dst : Nat) (db : List Lsa) : Nat → Costs → Costs
  | 0, c => c
  | n + 1, c => relaxN dst db n (relaxAll dst db c)
/-- Least costs of every member to a destination. -/
def costsTo (dst : Nat) (db : List Lsa) : Costs := relaxN dst db db.length [(dst, 0)]
/-- The database with this package's own advertisement in front. -/
def State.lsas (s : State) : List Lsa :=
  s.ownLsa :: (s.fab.db.map (fun m => m.lsa)).filter (fun l => l.ident != s.ident)
/-- The least cost to an identity and the next-hop ports that begin a least-cost path, in ascending order. -/
def State.routeTo (s : State) (dst : Nat) : Option (Nat × List Nat) :=
  let c := costsTo dst s.lsas
  match costOf c s.ident with
  | none => none
  | some d => some (d, (s.ownLsa.links.filter (fun k => match costOf c k.2.1 with
      | some x => x + k.2.2 == d && dst != s.ident
      | none => false)).map (fun k => k.1))
/-- Hops along first next hops from a member to the destination. -/
def hopsTo (dst : Nat) (db : List Lsa) (c : Costs) : Nat → Nat → Option Nat
  | 0, _ => none
  | n + 1, i =>
    if i = dst then some 0
    else match db.find? (fun l => l.ident == i), costOf c i with
      | some l, some d =>
        match l.links.find? (fun k => match costOf c k.2.1 with | some x => x + k.2.2 == d | none => false) with
        | some k => (hopsTo dst db c n k.2.1).map (fun h => h + 1)
        | none => none
      | _, _ => none

/-! Convergence (R396 to R400, R410). -/

/-- Members with the same assigned ID: those that lose it to a lower identity (R399). -/
def losers (l : List Lsa) : List Nat :=
  (l.filter (fun a => a.assigned && l.any (fun b => b.assigned && b.devId == a.devId && decide (b.ident < a.ident)))).map
    (fun a => a.ident)
/-- The members: whose advertisements are held, that a route reaches, and that hold no clashing ID. -/
def State.memberLsas (s : State) : List Lsa :=
  let l := s.lsas.filter (fun x => (s.routeTo x.ident).isSome)
  l.filter (fun x => x.ident == s.ident || !(losers l).contains x.ident)
/-- The member of least identity. -/
def leastIdent (l : List Lsa) : Nat := (l.map (fun x => x.ident)).foldl (fun a b => if b < a then b else a)
  ((l.map (fun x => x.ident)).headD 0)
/-- Inserts in ascending device ID order. -/
def insertDev (x : Lsa) : List Lsa → List Lsa
  | [] => [x]
  | y :: t => if x.devId ≤ y.devId then x :: y :: t else y :: insertDev x t
/-- The membership digest (R400). -/
def membershipDigest (l : List Lsa) : List Byte :=
  sha512 ((((l.foldl (fun a x => insertDev x a) [])).map (fun x => leBytes 2 (x.devId % 4096) ++ leBytes 32 x.ident)).flatten)
/-- The grandmaster: the least identity among those on a locked PPS source, else the anchor (R410). -/
def grandmaster (l : List Lsa) : Nat :=
  let c := l.filter (fun x => x.gmOk)
  if c = [] then leastIdent l else leastIdent c
/-- The ID the anchor grants to a member (R398): the one asked for if free, else the lowest free. -/
def grantId (l : List Lsa) (want : Nat) : Nat :=
  let used := (l.filter (fun x => x.assigned)).map (fun x => x.devId)
  if used.contains want then ((List.range 4096).find? (fun d => !used.contains d)).getD want else want
/-- Sends a message toward an identity: on its first next hop. -/
def State.sendTo (s : State) (dst : Nat) (m : FabMsg) : State :=
  match s.routeTo dst with
  | some (_, p :: _) => s.send p m
  | _ => s
/-- The member with a device ID (R398). -/
def State.memberOf (s : State) (dev : Nat) : Option Nat :=
  ((s.lsas.find? (fun l => l.assigned && l.devId == dev)).map (fun l => l.ident)).filter (fun i =>
    i != s.ident && s.fab.members.contains i && (s.routeTo i).isSome)
/-- The next hop that a flow to a device takes (R401); none where the destination is no member. -/
def State.flowPort (s : State) (cls flow dev : Nat) : Option Nat :=
  match (s.memberOf dev).bind s.routeTo with
  | some (_, p :: ps) =>
    let c := crc32 (leBytes 2 s.deviceId ++ leBytes 2 dev ++ leBytes 1 cls ++ [0] ++ leBytes 2 (Config.flowLabel cls flow))
    some ((p :: ps).getD (c % (p :: ps).length) p)
  | _ => none
/-- Sends a message of a flow; false where the destination is no member. -/
def State.sendFlow (s : State) (cls flow dev : Nat) (m : FabMsg) : Bool × State :=
  match s.flowPort cls flow dev with
  | some p => (true, s.send p m)
  | none => (false, s)
/-- The anchor's grants to the members that hold no ID yet. -/
def grantAll (l : List Lsa) (s : State) : List Lsa → State
  | [] => s
  | x :: t =>
    if x.assigned || x.ident == s.ident then grantAll l s t
    else
      let d := grantId l x.devId
      grantAll ({ x with devId := d, assigned := true } :: l.filter (fun y => y.ident != x.ident))
        (s.sendTo x.ident (.grant x.ident d)) t
/-- This package takes a device ID (R398). -/
def State.takeId (s : State) (d : Nat) : State :=
  let s1 : State := { s with fab := { s.fab with granted := true } }
  let s2 := (s1.setFld Reg.ERG_STATUS 16 12 d).setFld Reg.ERG_STATUS 0 3 2
  if d = s.deviceId then s2 else s2.raise Reg.ERG_INT_STATUS 2
/-- Clears the UNREACHABLE counters of device IDs granted again (R409). -/
def State.regranted (s : State) (l : List Lsa) : State :=
  let fresh := (l.filter (fun x => x.assigned && !s.fab.members.contains x.ident)).map (fun x => x.devId)
  { s with fab := { s.fab with unr := s.fab.unr.filter (fun e => !fresh.contains e.1) } }
/-- Shows anchor, grandmaster and membership in the registers. -/
def State.showMembers (s : State) (l : List Lsa) : State :=
  let dev (i : Nat) := ((l.find? (fun x => x.ident == i)).map (fun x => x.devId)).getD 0
  let a := leastIdent l
  let g := grandmaster l
  let h := hopsTo g l (costsTo g l) (l.length + 1) s.ident
  let dg := membershipDigest l
  let changed := s.rn Reg.ERG_MEMBERS ≠ l.length ∨ s.window (Reg.ERG_MEMB_DIGESTi 0) 16 ≠ dg
  let s1 := (s.setN Reg.ERG_MEMBERS l.length).setN Reg.ERG_ANCHOR (dev a)
  let s2 := (s1.setN Reg.ERG_GM (dev g + min (h.getD 15) 15 * 2 ^ 16)).setWindow (Reg.ERG_MEMB_DIGESTi 0) 16 dg
  let s3 := ((s2.setBit Reg.ERG_STATUS 4 (a == s.ident)).setBit Reg.ERG_STATUS 5 (g == s.ident)).setBit Reg.ERG_STATUS 6
    (match h with | some k => decide (8 < k) | none => false)
  let s4 := if changed then s3.raise Reg.ERG_INT_STATUS 0 else s3
  let s5 := if s.fab.anchor ≠ a then s4.raise Reg.ERG_INT_STATUS 1 else s4
  { s5 with fab := { s5.fab with members := l.map (fun x => x.ident), anchor := a } }

/-- A package more than 8 hops from the grandmaster enters holdover (R411). -/
def State.checkDepth (s : State) : State := if s.rbit Reg.ERG_STATUS 6 then doHoldoverEnter .fabric s else s
/-- The location of a Caravan engine (Table 21-3). -/
def State.carLoc (s : State) (e : Nat) : Nat := if e < 96 then s.clLoc e 5 0 else s.oasLoc 13 (if e < 104 then e - 96 else 0)
/-- A request completes UNREACHABLE: counters, and one record per destination and window (R408, R409). -/
def State.unreachable (s : State) (r : RemReq) : State :=
  let s1 : State := { s with fab := { s.fab with
    reqs := s.fab.reqs.filter (fun q => q.id != r.id)
    unr := AMap.write (fun _ => 0) s.fab.unr r.dst (AMap.read (fun _ => 0) s.fab.unr r.dst + 1) } }
  let s2 := s1.bump64 Reg.ERG_UNR_TOTAL_LO 1
  let e := r.engine / 8
  let c := s2.car e
  let x := AMap.read (fun _ => none) c.ctxs (r.engine % 8)
  let x' := x.map (fun x => x.endWith 5)
  let s3 := s2.setCar e { c with ctxs := AMap.write (fun _ => none) c.ctxs (r.engine % 8) x' }
  let w := max 1 (s3.fld Reg.ERG_UNR_WINDOW 0 16) * 1000000
  let due := match AMap.read (fun _ => none) s3.fab.unrRec r.dst with
    | some t => decide (t.toNat + w ≤ s3.tb.toNat)
    | none => true
  if due then
    let s4 : State := { s3 with fab := { s3.fab with
      unrRec := AMap.write (fun _ => none) s3.fab.unrRec r.dst (some s3.tb) } }
    (s4.report 4 0x20 (s4.carLoc e) 2 r.dst).raise Reg.ERG_INT_STATUS 6
  else s3
/-- Outstanding requests to destinations that are no members complete UNREACHABLE (R408). -/
def dropUnreachable (ids : List Nat) (s : State) : List RemReq → State
  | [] => s
  | r :: t => dropUnreachable ids (if ids.contains r.dst then s else s.unreachable r) t
/-- The database has changed: conflict, grants, registers and outstanding requests follow (R396 to R400). -/
def State.converge (s : State) : State :=
  if s.ergState = 0 then s
  else
    let (v, s0) := s.free
    let all := s0.lsas.filter (fun x => (s0.routeTo x.ident).isSome)
    let s1 := s0.setN Reg.ERG_CONVERGE_LAST (v.toNat % 201)
    if s1.ergState ≠ 3 ∧ (losers all).contains s1.ident then
      (((s1.setFld Reg.ERG_STATUS 0 3 3).raise Reg.ERG_INT_STATUS 3).report 4 0x23 (s1.oasLoc 15 0) 2 s1.deviceId)
    else
      let l := s1.memberLsas
      let s2 := if leastIdent l = s1.ident then
          (let s3 := grantAll l s1 l
           if s3.fab.granted || s3.ergState == 3 then s3 else s3.takeId (grantId l s3.deviceId))
        else s1
      let l2 := s2.memberLsas
      let s4 := ((s2.regranted l2).showMembers l2).checkDepth
      dropUnreachable (l2.map (fun x => x.devId)) s4 s4.fab.reqs
/-- Floods this package's advertisement with its next sequence number. -/
def State.floodLsa (s : State) : State :=
  if s.ergState = 0 then s
  else
    let s1 : State := { s with fab := { s.fab with seq := (s.fab.seq + 1) % 2 ^ 32 } }
    s1.sendAll (.lsa s1.ownLsa) (List.range 16)

/-! Ports (R391 to R395). -/

/-- The rate a port tries (R392): RATE_MAX (3 acts as 2), lowered by failed attempts. -/
def State.tryRate (s : State) (n : Nat) : Nat := max (min 2 (s.fld (Reg.ERG_Pn_CFG n) 1 2)) (s.eport n).rateTry
/-- A fresh HELLO: random nonce and ephemeral key, identity key and record (R394, R420). -/
def State.newHello (s : State) : Hello × State :=
  let (a, s1) := s.free
  let (b, s2) := s1.free
  let (c, s3) := s2.free
  let (d, s4) := s3.free
  let (e, s5) := s4.free
  let (f, s6) := s5.free
  let (g, s7) := s6.free
  let (h, s8) := s7.free
  ({ nonce := a ++ b ++ c ++ d, eph := e ++ f ++ g ++ h, ident := BitVec.ofNat 256 s.ident, record := s.sec.idRecord }, s8)
/-- The bytes of a HELLO, in the order R394 names its parts. -/
def Hello.bytes (h : Hello) : List Byte :=
  leBytes 32 h.nonce.toNat ++ leBytes 32 h.eph.toNat ++ leBytes 32 h.ident.toNat ++ h.record
/-- The digest both ends sign: the two HELLOs, the lower identity's first. -/
def helloDigest (a b : Hello) : List Byte :=
  sha512 (if a.ident.toNat ≤ b.ident.toNat then a.bytes ++ b.bytes else b.bytes ++ a.bytes)
/-- ERG_PORT_TRAIN (R391, R392): an attempt in which the lanes of the mask trained. -/
def doErgPortTrain (n : Fin 16) (lanes : Byte) (s : State) : State :=
  if s.portState n ≠ 1 then s
  else
    let p := s.eport n
    if bitsAt lanes.toNat 0 4 ≠ 15 then
      (if p.fails + 1 < 3 then s.setEport n { p with fails := p.fails + 1 }
       else s.setEport n { p with fails := 0, rateTry := min 2 (s.tryRate n + 1) })
    else
      let (h, s1) := s.newHello
      let s2 := ((s1.setFld (Reg.ERG_Pn_STATUS n) 4 2 (s.tryRate n)).setBit (Reg.ERG_Pn_STATUS n) 6
        (lanes != 0xFF#8)).setPortState n 2
      (s2.setEport n { p with fails := 0, own := some h, peer := none, missed := 0, badReplays := 0 }).send n (.hello h)
def execErgPortTrain (n : Fin 16) (lanes : Byte) (s : State) : Host.Outcome State Fault Refusal :=
  .next (s.live (doErgPortTrain n lanes))
/-- The port is up and encrypted. -/
def State.secureUp (s : State) (n : Nat) : Bool := s.portState n == 3 && s.rbit (Reg.ERG_Pn_STATUS n) 7
/-- The handshake of an encrypted port is run again with a fresh HELLO; the port stays up and loses no flit (R395). -/
def State.rekeyPort (s : State) (n : Nat) : State :=
  let (h, s1) := s.newHello
  (s1.setEport n { s1.eport n with own := some h, txFlits := 0, rxFlits := 0, keys := (s1.eport n).keys + 1, rekey := true }).send n
    (.hello h)
/-- ERG_HELLO (R394, R395): the peer's HELLO is answered with a PROOF; one that comes on an encrypted port that is up is
first answered with a HELLO of this end, where it has sent none. -/
def doErgHello (n : Fin 16) (h : Hello) (enc : Bool) (s0 : State) : State :=
  let s := if s0.secureUp n && !(s0.eport n).rekey then s0.rekeyPort n else s0
  let p := s.eport n
  match p.own with
  | some o =>
    if s.portState n ≠ 2 && !s.secureUp n then s
    else
      let (sig, s1) := s.sign (helloDigest o h)
      (s1.setEport n { p with peer := some h, peerEnc := enc }).send n (.proof sig)
  | none => s
def execErgHello (n : Fin 16) (hello : Hello) (enc : Bool) (s : State) : Host.Outcome State Fault Refusal :=
  .next (s.live (doErgHello n hello enc))
/-- The owner's allow list holds a key (R394). -/
def State.allowed (s : State) (key : List Byte) : Bool × State :=
  let n := min 4096 (s.fld Reg.ERG_ALLOW_COUNT 0 13)
  let r := s.readData (s.oasLoc 15 0) (s.pair Reg.ERG_ALLOW_BASE_LO) (32 * n)
  ((List.range n).any (fun i => slice r.bytes (32 * i) 32 == key), r.st)
/-- AUTH as it acts: 3 acts as 2 (Table 18-7). -/
def State.auth (s : State) : Nat := min 2 (s.fld Reg.ERG_CTRL 2 2)
/-- The check of a peer under AUTH. -/
def State.checkPeer (s : State) (o h : Hello) (proof : List Byte) : Bool × State :=
  if s.auth = 0 then (true, s)
  else
    let key := leBytes 32 h.ident.toNat
    let (a, s1) := s.checkSig key (helloDigest o h) proof
    let (b, s2) := s1.recordVerifies h.record key
    let (c, s3) := if s.auth = 2 then s2.allowed key else (true, s2)
    (a && b && c, s3)
/-- The port stays down for a peer that fails its check (R394). -/
def State.authFailed (s : State) (n : Nat) : State :=
  ((s.setPortState n 4).raise Reg.ERG_INT_STATUS 5).report 4 0x22 (s.oasLoc 15 n) 0 0
/-- A port falls: its handshake and peer are gone (R393). -/
def State.dropPort (s : State) (n : Nat) : State :=
  (((s.setN (Reg.ERG_Pn_STATUS n) 0).setN (Reg.ERG_Pn_PEER n) 0).setEport n { keys := (s.eport n).keys }).raise
    Reg.ERG_INT_STATUS 4
/-- The PROOF of a handshake that was run again (R395): the port goes on, or goes down. -/
def State.reproved (s : State) (n : Nat) (o h : Hello) (proof : List Byte) : State :=
  match s.checkPeer o h proof with
  | (true, s1) => s1.setEport n { s1.eport n with rekey := false }
  | (false, s1) => (((s1.dropPort n).authFailed n).floodLsa).converge
/-- ERG_PROOF (R394): the peer passes and the port comes up, or it fails and the port stays down. -/
def doErgProof (n : Fin 16) (proof : List Byte) (s : State) : State :=
  match (s.eport n).own, (s.eport n).peer with
  | some o, some h =>
    if s.secureUp n && (s.eport n).rekey then s.reproved n o h proof
    else if s.portState n ≠ 2 then s
    else match s.checkPeer o h proof with
      | (false, s1) => s1.authFailed n
      | (true, s1) =>
        let p := s1.eport n
        let enc := s1.rbit (Reg.ERG_Pn_CFG n) 3 || p.peerEnc
        let s2 := ((s1.setPortState n 3).setBit (Reg.ERG_Pn_STATUS n) 7 enc).setEport n
          { p with keys := p.keys + b2n enc, rateTry := 0 }
        ((s2.raise Reg.ERG_INT_STATUS 4).floodLsa).converge
  | _, _ => s
def execErgProof (n : Fin 16) (proof : List Byte) (s : State) : Host.Outcome State Fault Refusal :=
  .next (s.live (doErgProof n proof))
/-- FLIT_RECEIVE (R393, R395): an intact flit counts; one that fails its CRC or its tag is dropped and a replay asked for. -/
def doFlitReceive (n : Fin 16) (crcOk tagOk : Bool) (s : State) : State :=
  let p := s.eport n
  if s.portState n ≠ 3 then s
  else if crcOk && (tagOk || !s.rbit (Reg.ERG_Pn_STATUS n) 7) then
    s.setEport n { p with rxFlits := p.rxFlits + 1, badReplays := 0 }
  else ((s.setEport n { p with badReplays := p.badReplays + 1 }).ergCount (Reg.ERG_Pn_RETRY n)).send n (.replay p.rxFlits)
def execFlitReceive (n : Fin 16) (crcOk tagOk : Bool) (s : State) : Host.Outcome State Fault Refusal :=
  .next (s.live (doFlitReceive n crcOk tagOk))
/-- LINK_HELLO (R393): sent every 100 us; the peer's was heard or missed. -/
def doLinkHello (n : Fin 16) (heard : Bool) (s : State) : State :=
  if s.portState n ≠ 3 then s
  else (s.setEport n { s.eport n with missed := if heard then 0 else (s.eport n).missed + 1 }).send n .linkHello
def execLinkHello (n : Fin 16) (heard : Bool) (s : State) : Host.Outcome State Fault Refusal :=
  .next (s.live (doLinkHello n heard))
/-- The cause of a fall holds (R393): 8 failed replays, lost alignment, or 3 missed hellos. -/
def State.downDue (s : State) (n : Nat) : DownCause → Bool
  | .replay => decide (8 < (s.eport n).badReplays)
  | .align => true
  | .hello => decide (3 ≤ (s.eport n).missed)
/-- ERG_PORT_DOWN (R393): counted, recorded, and the fabric converges again. -/
def doErgPortDown (n : Fin 16) (c : DownCause) (s : State) : State :=
  if s.portState n ≠ 3 || !s.downDue n c then s
  else
    let s1 := (s.dropPort n).ergCount (Reg.ERG_Pn_DOWN n)
    ((s1.report 4 0x21 (s1.oasLoc 15 n) 0 0).floodLsa).converge
def execErgPortDown (n : Fin 16) (cause : DownCause) (s : State) : Host.Outcome State Fault Refusal :=
  .next (s.live (doErgPortDown n cause))
/-- ERG_RETRAIN_TIMER (R393): a port that is down and enabled trains again. -/
def doErgRetrainTimer (n : Fin 16) (s : State) : State :=
  if s.portState n = 0 ∧ s.rbit (Reg.ERG_Pn_CFG n) 0 ∧ s.rbit Reg.ERG_CTRL 0 then s.setPortState n 1 else s
def execErgRetrainTimer (n : Fin 16) (s : State) : Host.Outcome State Fault Refusal := .next (s.live (doErgRetrainTimer n))
/-- ERG_REKEY (R395): the ends of an encrypted port run the handshake again; the port stays up and loses no flit. -/
def doErgRekey (n : Fin 16) (s : State) : State :=
  if !s.secureUp n then s else s.rekeyPort n
def execErgRekey (n : Fin 16) (s : State) : Host.Outcome State Fault Refusal := .next (s.live (doErgRekey n))

/-! Membership. -/

def ergCounters : List Nat :=
  [Reg.ERG_UNR_TOTAL_LO, Reg.ERG_UNR_TOTAL_HI, Reg.ERG_REM_REJ, Reg.ERG_RETRY_END] ++
  ((List.range 16).map (fun n => [Reg.ERG_Pn_RETRY n, Reg.ERG_Pn_FEC_CE_LO n, Reg.ERG_Pn_FEC_CE_HI n, Reg.ERG_Pn_FEC_UE n,
    Reg.ERG_Pn_DOWN n])).flatten
/-- Joins (R396): advertises and converges; the package alone is its own anchor. -/
def State.ergJoin (s : State) : State :=
  let s1 := (s.setFld Reg.ERG_STATUS 0 3 1)
  ({ s1 with fab := { s1.fab with granted := false } }).floodLsa.converge
/-- Leaves: EN is cleared. -/
def State.ergLeave (s : State) : State :=
  let s1 := s.setN Reg.ERG_STATUS 0
  { s1 with fab := { s1.fab with granted := false, db := [], members := [], anchor := 0 } }
/-- A write of ERG_CTRL (Table 18-7). -/
def State.ergCtrl (s : State) (v : Word) : State :=
  let s1 := s.setN Reg.ERG_CTRL (bitsAt v.toNat 0 1 + bitsAt v.toNat 2 2 * 4)
  let s2 := if bitAt v.toNat 5 then s1.zeroRegs ergCounters else s1
  let s3 := if bitAt v.toNat 4 || bitAt v.toNat 5 then { s2 with fab := { s2.fab with unr := [] } } else s2
  if !bitAt v.toNat 0 then (if s3.ergState = 0 then s3 else s3.ergLeave)
  else if s3.ergState = 0 then s3.ergJoin
  else if bitAt v.toNat 1 && s3.ergState == 3 then s3.ergJoin
  else s3
/-- ERG_JOIN (R396). -/
def execErgJoin (v : Word) (s : State) : Host.Outcome State Fault Refusal := .next (s.live (fun t => t.ergCtrl v))
/-- ERG_REJOIN (R399). -/
def execErgRejoin (v : Word) (s : State) : Host.Outcome State Fault Refusal := .next (s.live (fun t => t.ergCtrl v))
/-- ERG_UNR_CLR (R409). -/
def execErgUnrClr (v : Word) (s : State) : Host.Outcome State Fault Refusal := .next (s.live (fun t => t.ergCtrl v))
/-- ERG_CNT_CLR (R414). -/
def execErgCntClr (v : Word) (s : State) : Host.Outcome State Fault Refusal := .next (s.live (fun t => t.ergCtrl v))
/-- LSA_FLOOD (R396). -/
def execLsaFlood (s : State) : Host.Outcome State Fault Refusal := .next (s.live State.floodLsa)
/-- A sequence number is newer, modulo 2^32. -/
def seqNewer (a b : Nat) : Bool := decide (0 < (a + 2 ^ 32 - b) % 2 ^ 32 ∧ (a + 2 ^ 32 - b) % 2 ^ 32 < 2 ^ 31)
/-- Shows the device ID of each peer whose advertisement is held (Table 18-6). -/
def State.showPeers (s : State) : List Nat → State
  | [] => s
  | n :: t =>
    let peer := match (s.eport n).peer with | some h => h.ident.toNat | none => 0
    let s1 := match s.fab.db.find? (fun m => m.lsa.ident == peer) with
      | some m => if s.portUp n then s.setN (Reg.ERG_Pn_PEER n) (2 ^ 31 + m.lsa.devId % 4096) else s
      | none => s
    s1.showPeers t
/-- LSA_RECEIVE (R396): a newer advertisement replaces the one held, is flooded on, and the fabric converges. -/
def doLsaReceive (n : Fin 16) (l : Lsa) (s : State) : State :=
  let old := s.fab.db.find? (fun m => m.lsa.ident == l.ident)
  let newer := match old with
    | some m => seqNewer l.seq m.lsa.seq
    | none => true
  if s.ergState = 0 || !s.portUp n || !newer || l.ident == s.ident then s
  else
    let s1 : State := { s with fab := { s.fab with
      db := s.fab.db.filter (fun m => m.lsa.ident != l.ident) ++ [{ lsa := l, at_ := s.tb }] } }
    ((s1.sendAll (.lsa l) ((List.range 16).filter (fun k => k != n.val))).converge).showPeers (List.range 16)
def execLsaReceive (n : Fin 16) (lsa : Lsa) (s : State) : Host.Outcome State Fault Refusal :=
  .next (s.live (doLsaReceive n lsa))
/-- MEMBER_STALE (R396): an advertisement not refreshed within 4 ms is dropped. -/
def doMemberStale (ident : Nat) (s : State) : State :=
  match s.fab.db.find? (fun m => m.lsa.ident == ident) with
  | none => s
  | some m =>
    if s.tb.toNat < m.at_.toNat + 4000000 then s
    else ({ s with fab := { s.fab with db := s.fab.db.filter (fun x => x.lsa.ident != ident) } }).converge
def execMemberStale (ident : Nat) (s : State) : Host.Outcome State Fault Refusal := .next (s.live (doMemberStale ident))
/-- ID_GRANT (R398). -/
def doIdGrant (dev : Fin 4096) (s : State) : State :=
  if s.ergState = 1 then ((s.takeId dev).floodLsa).converge else s
def execIdGrant (dev : Fin 4096) (s : State) : Host.Outcome State Fault Refusal := .next (s.live (doIdGrant dev))

/-! Remote memory (R405 to R409). -/

/-- A window of ERG_WINw grants an access (R406). -/
def State.winGrants (s : State) (w : Nat) (r : RemReq) : Bool :=
  let base := s.pair (Reg.ERG_WINw_BASE_LO w)
  let c := Reg.ERG_WINw_CFG w
  s.rbit c 0 && decide (base ≤ r.addr) && decide (r.addr + r.len ≤ base + s.fld (Reg.ERG_WINw_SIZE w) 0 20 * 4096) &&
  (if r.write then s.rbit c 2 else s.rbit c 1) && (s.rbit c 3 || s.fld c 4 6 == r.fn)
/-- A range that the fabric reaches (R158). -/
def fabricRange (a n : Nat) : Bool :=
  inOnePlace a n && (match placeOf a with
    | .dram _ => true | .cluster _ => true | .region _ => true | _ => false)
/-- The location named for an uncorrectable word that a remote requester reads (R172). -/
def State.storeLoc (s : State) (a : Nat) : Nat :=
  match placeOf a with
  | .cluster i => s.clLoc i 11 0
  | .region j => s.locPath (j / 4) (j % 4) 0 12 0
  | .aon => s.oasLoc 22 0
  | .dram d => s.locPath d 0 0 10 0
  | _ => s.oasLoc 24 0
/-- REMOTE_REQUEST (R406, R407): served through a window, or refused. -/
def doRemoteRequest (src : Fin 4096) (r : RemReq) (s : State) : State :=
  let back := ((s.lsas.find? (fun l => l.devId == src.val)).map (fun l => l.ident)).getD 0
  if s.ergState ≠ 2 then s
  else if !fabricRange r.addr r.len || !(List.range 16).any (fun w => s.winGrants w r) then
    (((s.ergCount Reg.ERG_REM_REJ).raise Reg.ERG_INT_STATUS 7)).sendTo back (.response r.id 8 {})
  else if r.write then ((s.touchDie r.addr).writeData (s.storeLoc r.addr) r.addr (r.data.take r.len)).sendTo back (.response r.id 0 {})
  else
    let t := s.touchDie r.addr
    let rd := t.readData (s.storeLoc r.addr) r.addr r.len
    let zeros := (t.badIn r.addr r.len).map (fun g => g - r.addr)
    rd.st.sendTo back (.response r.id (if rd.zeroed = 0 then 0 else 1) { bytes := rd.bytes, zeros := zeros })
def execRemoteRequest (src : Fin 4096) (req : RemReq) (s : State) : Host.Outcome State Fault Refusal :=
  .next (s.live (doRemoteRequest src req))
/-- The granules of a request's range, by global address (R158), that a response marks as delivered as zeros: each by its
distance from the request's address. -/
def RemReq.marked (r : RemReq) (zeros : List Nat) : List Nat :=
  ((zeros.filter (fun z => decide (z < r.len))).map (fun z => r.dst * 2 ^ 52 + (r.addr + z) / 64 * 64)).eraseDups
/-- REMOTE_RESPONSE (R405, R407): the data of a read goes to the transfer that issued the request, at its place in the tile;
each granule that the response marks counts in the transfer and in its stream, and a refusal stays with the transfer. -/
def doRemoteResponse (id status : Nat) (data : RespData) (s : State) : State :=
  match s.fab.reqs.find? (fun r => r.id == id) with
  | none => s
  | some r =>
    let s1 : State := { s with fab := { s.fab with reqs := s.fab.reqs.filter (fun q => q.id != id) } }
    let e := r.engine / 8
    let c := s1.car e
    let got : List (Nat × List Byte) := if r.write then [] else [(r.local_, data.bytes.take r.len)]
    let bad := if r.write ∨ status = 8 then [] else r.marked data.zeros
    let upd (x : Xfer) : Xfer := if status = 8 then x.endWith 8
      else { x with
        zeroed := x.zeroed + bad.length
        got := x.got ++ got }
    let x := (AMap.read (fun _ => none) c.ctxs (r.engine % 8)).map upd
    (s1.setCar e { c with ctxs := AMap.write (fun _ => none) c.ctxs (r.engine % 8) x }).zeroHandle r.handle bad
def execRemoteResponse (id status : Nat) (data : RespData) (s : State) : Host.Outcome State Fault Refusal :=
  .next (s.live (doRemoteResponse id status data))
/-- REMOTE_REQUEST_TIMEOUT (R403, R408): one retry on the current route, then UNREACHABLE. -/
def doRemoteRequestTimeout (id : Nat) (s : State) : State :=
  match s.fab.reqs.find? (fun r => r.id == id) with
  | none => s
  | some r =>
    if r.retried then s.unreachable r
    else
      let q := { r with retried := true, port := (s.flowPort 3 r.engine r.dst).getD r.port }
      let s1 : State := { s with fab := { s.fab with reqs := s.fab.reqs.map (fun x => if x.id = id then q else x) } }
      ((s1.ergCount Reg.ERG_RETRY_END).sendFlow 3 r.engine r.dst (.request q)).2
def execRemoteRequestTimeout (id : Nat) (s : State) : Host.Outcome State Fault Refusal :=
  .next (s.live (doRemoteRequestTimeout id))

/-- The port of the sync parent: the first next hop toward the grandmaster (R410). -/
def State.syncPort (s : State) : Option Nat := ((s.routeTo (grandmaster s.memberLsas)).map (fun r => r.2)).bind List.head?
/-- SYNC_EXCHANGE (R410, R411): the four timestamps of an exchange with the sync parent on port n give the offset. -/
def doSyncExchange (n : Fin 16) (t1 t2 t3 t4 : Dword) (s : State) : State :=
  if s.tckSrc ≠ 2 || s.ergState != 2 || s.syncPort != some n.val || s.rbit Reg.ERG_STATUS 5 || s.rbit Reg.ERG_STATUS 6 then s
  else
    let d : Int := ((t2.toNat : Int) - t1.toNat) - ((t4.toNat : Int) - t3.toNat)
    let q := if d % 2 = 0 then d / 2 else if Config.roundsUp d 2 then d / 2 + 1 else d / 2
    let s1 := (s.setReg (Reg.ERG_Pn_SYNC_OFS n) (BitVec.ofInt 32 (d * 8))).setReg Reg.TCK_OFFSET (satOffset (-q))
    (s1.setLocked (decide (q.natAbs ≤ 20))).correctTb (-q)
def execSyncExchange (n : Fin 16) (t1 t2 t3 t4 : Dword) (s : State) : Host.Outcome State Fault Refusal :=
  .next (s.live (doSyncExchange n t1 t2 t3 t4))

end Sys2Proof.Machine
end

