-- ==== Sys2Proof/Machine/UnitOps.lean ====
section
/-!
DEFINITION. Operations that units share: barriers and queues of a cluster and the cores that wait on them (R146, R192),
work items handed to cistern engines (R162 to R164), and transfer requests handed to Caravan engines (R180 to R182).
-/

namespace Sys2Proof.Machine

/-! Cores that wait. -/

/-- The value of an integer register: x0 reads zero. -/
def Core.xr (c : Core) (i : Nat) : Dword := if i = 0 then 0 else AMap.read (fun _ => 0) c.x i
def Core.setX (c : Core) (i : Nat) (v : Dword) : Core :=
  if i = 0 then c else { c with x := AMap.write (fun _ => 0) c.x i v }
/-- STATE of NMD_STATUS (Table 07-7). -/
def State.nmdState (s : State) (n v : Nat) : State := s.setFld (Reg.NMD_STATUS n) 0 3 v
/-- An instruction retires: the next pc, the counts and NMD_PC (R141, Table 07-5). The core cycles it took are a free
value (log 4). -/
def State.retireTo (s : State) (n : Nat) (pc : Dword) (c : Core) : State :=
  let (z, s0) := s.free
  let c1 : Core := { c with
    pc := pc
    wait := none
    inv := c.inv.map (fun v => { v with
      instret := v.instret + 1
      cycles := (v.cycles + z.toNat) % 2 ^ 64 }) }
  (((s0.setCore n c1).setPair (Reg.NMD_PC_LO n) c.pc.toNat).bump64 (Reg.NMD_INSTRET_LO n) 1).bump64 (Reg.NMD_BUSY_LO n) z.toNat
/-- A waiting instruction completes and writes its register; the cycles it waited are a free value (log 4). -/
def State.releaseCore (s : State) (n rd : Nat) (v : Dword) : State :=
  let (z, s0) := s.free
  let c := s0.core n
  ((s0.retireTo n (c.pc + 4) (c.setX rd v)).nmdState n 1).count (Reg.NMD_WAITCYC n) (z.toNat % 2 ^ 32) (Reg.NMD_INT_STATUS n) 1

/-! Barriers (R192). -/

/-- Releases the cores of a list that wait for a generation that has passed. -/
def releaseBar (cl i : Nat) (s : State) : List Nat → State
  | [] => s
  | n :: t =>
    match (s.core n).wait with
    | some (.barrier j g rd) =>
      releaseBar cl i (if j = i ∧ (s.bar cl i).gen ≠ g then s.releaseCore n rd (BitVec.ofNat 64 g) else s) t
    | _ => releaseBar cl i s t
/-- One arrival at a barrier: the last one advances the generation and clears the count at once. -/
def State.arriveBar (s : State) (cl i : Nat) : State :=
  let b := s.bar cl i
  if b.count + 1 = b.expect then
    releaseBar cl i (s.setBar cl i { b with count := 0, gen := (b.gen + 1) % 2 ^ 32 }) (coresOf cl)
  else s.setBar cl i { b with count := b.count + 1 }

/-! Work items (R162 to R164). -/

/-- A work item from its 48 bytes (Table 08-5). -/
def parseItem (b : List Byte) : WorkItem :=
  let v := leVal b
  { op := bitsAt v 28 4, barEn := bitAt v 27, barrier := bitsAt v 19 8, cluster := bitsAt v 12 7, prio := bitsAt v 9 3,
    ticked := bitAt v 8, handle := bitsAt v 32 32, src := bitsAt v 64 64, dst := bitsAt v 128 64,
    length := bitsAt v 192 32, param := bitsAt v 224 32, compl := bitsAt v 256 64, param2 := bitsAt v 320 64 }
/-- The engine of the channel that holds an item's data; for data in no channel, the first engine of the requester's die. -/
def WorkItem.engine (i : WorkItem) : Nat :=
  let a := if i.op = 4 ∨ i.op = 5 then i.dst else i.src
  match placeOf a with
  | .dram _ => cisternOf a
  | _ => if i.cluster < 96 then 32 * clDie i.cluster else 0
/-- Hands an item to an engine; a requester that finds 64 items queued waits (R164). -/
def State.giveItem (s : State) (e : Nat) (i : WorkItem) : State :=
  let c := s.cis e
  (s.setCis e (if c.queue.length < 64 then { c with queue := c.queue ++ [i] } else { c with waiting := c.waiting ++ [i] })).dieBusy (e / 32)
/-- An item that the part does not accept completes REJECTED at the engine (R162, Table 08-12). -/
def State.rejectItem (s : State) (e : Nat) : State :=
  ((s.count (Reg.CIS_REJECT e) 1 (Reg.CIS_INT_STATUS e) 2).raise (Reg.CIS_INT_STATUS e) 1).bump64 (Reg.CIS_ITEMS_LO e) 1
/-- The completion record of an item (R163). -/
def itemRecord (status zeroed handle : Nat) (tb : Dword) : List Byte :=
  leBytes 2 (status % 16) ++ leBytes 2 (min zeroed 65535) ++ leBytes 4 handle ++ leBytes 8 tb.toNat
/-- An item's arrival at its barrier. -/
def State.itemArrival (s : State) (i : WorkItem) : State :=
  if i.barEn ∧ i.cluster < 96 then s.arriveBar i.cluster i.barrier else s
/-- Writes an item's record and then makes its arrival (R164). -/
def State.endItem (s : State) (i : WorkItem) (status zeroed : Nat) : State :=
  (if i.compl % 16 = 0 then s.writeData (s.locPath (i.engine / 32) 0 0 9 (i.engine % 32)) i.compl (itemRecord status zeroed i.handle s.tb) else s).itemArrival i

/-! Transfer requests (R180 to R182). -/

/-- A transfer's completion record (Table 09-3). -/
def xferRecord (x : Xfer) (status : Nat) (tb : Dword) (t1 i2 i3 : Nat) : List Byte :=
  leBytes 2 (status % 16) ++ leBytes 2 (min x.zeroed 65535) ++ leBytes 4 x.handle ++ leBytes 8 tb.toNat
    ++ leBytes 2 x.blk ++ leBytes 2 t1 ++ leBytes 2 i2 ++ leBytes 2 i3 ++ leBytes 8 x.bytes
/-- The counts of a transfer's end (Table 09-8). -/
def State.countXfer (s : State) (e status : Nat) : State :=
  let i := Reg.CAR_INT_STATUS e
  let s1 := s.count (Reg.CAR_XFERS e) 1 i 4
  if status = 8 then (s1.count (Reg.CAR_REJECT e) 1 i 4).raise i 2
  else if status = 6 then (s1.count (Reg.CAR_FAULTED e) 1 i 4).raise i 0
  else if status = 5 then s1.raise i 3
  else s1
/-- A page request of an engine (R194). -/
def State.priRequest (s : State) (e : Nat) : State :=
  (s.count (Reg.CAR_PRI_REQ e) 1 (Reg.CAR_INT_STATUS e) 4).raise (Reg.CAR_INT_STATUS e) 1
/-- Every byte of a run lies in the granted ranges (R142, R181). -/
def covered (l : List (Nat × Nat)) : Nat → Nat → Nat → Bool
  | _, _, 0 => true
  | 0, _, _ => false
  | f + 1, a, n => match l.find? (fun r => decide (r.1 ≤ a) && decide (a < r.1 + r.2)) with
    | none => false
    | some r => let k := r.1 + r.2 - a; decide (n ≤ k) || covered l f (a + k) (n - k)
def inRanges (l : List (Nat × Nat)) (a n : Nat) : Bool := covered l l.length a n
/-- A kernel's range lies in the ranges granted to it; any other work names what it owns. -/
def Xfer.mayUse (x : Xfer) (a n : Nat) : Bool := x.src != .kernel || inRanges x.ranges a n
/-- The ranges that a forwarded item names are its owner's (R181). -/
def WorkItem.within (i : WorkItem) (own : Xfer) : Bool :=
  let r := rowBytes (bitsAt i.param 0 4) (bitsAt i.param 8 24)
  (i.op == 4 || own.mayUse i.src i.length) && own.mayUse i.compl 16 &&
  own.mayUse i.dst (if i.op = 2 then 8 * (i.length / max 1 r) else i.length)
/-- The COMPL of the items that the part makes itself: their records lie where the spec does not say, and the model writes
them nowhere (DESIGN CHOICE, log 38). -/
def noRecord : Nat := 0xFFFFFFFFFFFFFFF0
/-- TYPE 1: the item goes to the cistern engine of its channel with the owner's priority and handle; one that is not FILL,
COPY or QSCAN, or leaves the ranges that the owner may use, completes REJECTED there in its turn (R162, R164, R182): none
if the item was taken, else the status. -/
def State.forwardItem (s : State) (e : Nat) (own : Xfer) (addr : Nat) : Option Nat × State :=
  let r := s.readCtl (s.carLoc e) addr 48
  if r.failed then (some 6, r.st.countXfer e 6)
  else
    let i : WorkItem := { parseItem r.bytes with prio := own.prio, ticked := own.ticked, handle := own.handle }
    let ok : Bool := (i.op == 2 || i.op == 4 || i.op == 5) && i.within own
    (if ok then none else some 8, r.st.giveItem i.engine { i with
      denied := !ok
      compl := if own.mayUse i.compl 16 then i.compl else noRecord })
/-- The request at an address becomes a waiting transfer of engine e with an owner's source, priority and ranges: none. One
that breaks Table 09-1 or R181 completes REJECTED and one that cannot be read FAULTED: the status (Table 09-5). -/
def State.submitReq (s : State) (e : Nat) (own : Xfer) (addr : Nat) : Option Nat × State :=
  let r := s.readCtl (s.carLoc e) addr 32
  if !own.mayUse addr 32 then (some 8, s.countXfer e 8)
  else if r.failed then (some 6, r.st.countXfer e 6)
  else
    let v := leVal r.bytes
    let pref := bitsAt v 82 3
    let x : Xfer := { own with
      list := bitsAt v 0 64
      nblk := bitsAt v 64 16
      pref := if pref = 0 then 2 else pref
      handle := if own.src = .kernel then own.handle else bitsAt v 96 32
      compl := bitsAt v 128 64
      blk := bitsAt v 192 16
      tile := bitsAt v 224 32
      order := (r.st.car e).arrivals }
    let ok := pref ≤ 4 ∧ bitsAt v 80 2 ≤ 1 ∧ bitsAt v 85 11 = 0 ∧ bitsAt v 208 16 = 0
    if bitsAt v 80 2 = 1 ∧ ok then
      (if own.mayUse x.list 48 then r.st.forwardItem e x x.list else (some 8, r.st.countXfer e 8))
    else if ok ∧ 1 ≤ x.nblk ∧ x.list % 64 = 0 ∧ x.compl % 32 = 0 ∧ own.mayUse x.list (64 * x.nblk) ∧ own.mayUse x.compl 32 then
      let c := r.st.car e
      (none, r.st.setCar e { c with waiting := c.waiting ++ [x], arrivals := c.arrivals + 1 })
    else
      let s1 := r.st.countXfer e 8
      (some 8, if x.compl % 32 = 0 ∧ own.mayUse x.compl 32 then s1.writeData (s1.carLoc e) x.compl (xferRecord x 8 s1.tb x.tile 0 0) else s1)

/-! Queues (R146). -/

/-- The lowest core of a list that waits to pop queue q, and to push it. -/
def popWaiter (s : State) (q : Nat) : List Nat → Option (Nat × Nat)
  | [] => none
  | n :: t => match (s.core n).wait with
    | some (.pop p rd) => if p = q then some (n, rd) else popWaiter s q t
    | _ => popWaiter s q t
def pushWaiter (s : State) (q : Nat) : List Nat → Option (Nat × Dword × Nat)
  | [] => none
  | n :: t => match (s.core n).wait with
    | some (.push p v rd) => if p = q then some (n, v, rd) else pushWaiter s q t
    | _ => pushWaiter s q t
/-- Serves cores that wait on a queue while one can go on. -/
def serveQueue (cl q : Nat) : Nat → State → State
  | 0, s => s
  | k + 1, s =>
    match s.queueOf cl q, popWaiter s q (coresOf cl), pushWaiter s q (coresOf cl) with
    | v :: t, some (n, rd), _ => serveQueue cl q k ((s.setQueue cl q t).releaseCore n rd v)
    | l, _, some (n, v, rd) =>
      if l.length < 64 then serveQueue cl q k ((s.setQueue cl q (l ++ [v])).releaseCore n rd 0) else s
    | _, _, _ => s
/-- The owner of the requests that an invocation pushes (R181, R182). -/
def Invocation.owner (v : Invocation) (fn : Nat) : Xfer :=
  { src := .kernel, fn := fn, prio := v.cls, ticked := v.ticked && !v.frame, handle := v.handle, ranges := v.ranges,
    barBase := v.barBase, barCount := v.barCount }
/-- The queue's entries go to the Caravan engine it is bound to. -/
def drainQueue (cl : Nat) (own : Xfer) (s : State) : List Dword → State
  | [] => s
  | a :: t => drainQueue cl own (s.submitReq cl own a.toNat).2 t

/-! Tick waits (R146). -/

/-- Releases cores whose tick count is reached; the register takes the count that released it. -/
def releaseTicks (p : Nat) (frame : Bool) (c : Nat) (s : State) : List Nat → State
  | [] => s
  | n :: t =>
    match (s.core n).wait with
    | some (.tick p' f k rd) =>
      releaseTicks p frame c (if p' = p ∧ f = frame ∧ k ≤ c then s.releaseCore n rd (BitVec.ofNat 64 c) else s) t
    | _ => releaseTicks p frame c s t

end Sys2Proof.Machine
end

