-- ==== Sys2Proof/Machine/NodeOps.lean ====
section
/-!
DEFINITION. How a step in progress reads and writes the operands of its nodes (R142, R230, R238, R261, R273, R298), and
what its engines count.
-/

namespace Sys2Proof.Machine

/-! The step in progress. -/

/-- A condition of the step's status (R13). -/
def State.note (s : State) (h code : Nat) : State :=
  let r := s.run h
  s.setRun h { r with status := code :: r.status }
/-- A condition that stops the step at its node. -/
def State.fail (s : State) (h code : Nat) : State :=
  let r := s.run h
  s.setRun h { r with status := code :: r.status, stop := true }
def State.stopped (s : State) (h : Nat) : Bool := (s.run h).stop
/-- The cluster a stream is placed on. -/
def State.clOf (s : State) (h : Nat) : Nat := ((s.strm h).cluster).getD 0
/-- A read of the step over pieces; none where it fails, which faults the step. -/
def State.stepRead (s : State) (h loc : Nat) (l : List (Nat × Nat)) : Option (List Byte) × State :=
  let bad := l.flatMap (fun p => s.badIn p.1 p.2)
  let r := s.readRuns loc l
  if r.failed then (none, r.st.fail h 6) else (some r.bytes, r.st.zeroSeen h bad)

/-! Operands. -/

/-- Address and length of a tensor or weight. -/
def State.opRange (s : State) (cl : Nat) : Operand → Option (Nat × Nat)
  | .tensor .cluster o n => some (clusterStore cl + o, n)
  | .tensor .region o n => some (regionStore (clRegion16 cl) + o, n)
  | .tensor .dram o n => some (o, n)
  | .weight i d => (s.weight i).bind (fun w =>
      if !w.present then none
      else match if d = .cluster then s.stored cl i else none with
        | some x => some (clusterStore cl + x.ofs, w.ref.size)
        | none => some (w.addr, w.ref.size))
  | _ => none
/-- Bytes `o` to `o + n - 1` of a tensor or weight, as pieces; none beyond its end. -/
def State.opPieces (s : State) (cl : Nat) (op : Operand) (o n : Nat) : Option (List (Nat × Nat)) :=
  match s.opRange cl op with
  | none => none
  | some (a, len) =>
    if len < o + n then none
    else match op with
      | .weight i d => some (if d = .cluster ∧ (s.stored cl i).isSome then [(a + o, n)] else s.weightPieces a o n)
      | _ => some [(a + o, n)]
/-- Where position t of layer λ lies in the staging set (R238): blocks beyond the open one follow it. -/
def stageOfs (k : KvDecl) (ctx layer t : Nat) : Nat :=
  (t / 128 - ctx / 128) * (k.groups * k.pageBytes) + layer / k.lpg * k.pageBytes + layer % k.lpg * 128 * k.e + t % 128 * k.e
/-- Bytes of a staging set. -/
def Staging.read (g : Staging) (o : Nat) : Nat → List Byte
  | 0 => []
  | n + 1 => AMap.read (fun _ => 0) g.bytes o :: g.read (o + 1) n
def Staging.write (g : Staging) : Nat → List Byte → Staging
  | _, [] => g
  | o, b :: t => Staging.write { g with bytes := AMap.write (fun _ => 0) g.bytes o b } (o + 1) t
/-- Bytes `o` to `o + n - 1` of an item's data. -/
def ItemVal.read : ItemVal → Nat → Nat → List Byte
  | .bytes l, o, n => let t := (l.drop o).take n; t ++ List.replicate (n - t.length) 0
  | .scan _, _, n => List.replicate n 0
def ItemVal.write : ItemVal → Nat → List Byte → ItemVal
  | .bytes l, o, b =>
    let l' := l ++ List.replicate (o - l.length) 0
    .bytes (l'.take o ++ b ++ l'.drop (o + b.length))
  | .scan st, _, _ => .scan st
/-- Row `row` of `rb` bytes of an operand. -/
def State.rowRead (s : State) (h loc : Nat) (o : Operand) (rb row : Nat) : Option (List Byte) × State :=
  match o with
  | .state i => (some (((s.run h).items.getD i (.bytes [])).read (row * rb) rb), s)
  | .stage l =>
    match s.kvOf h, (s.strm h).kv.staging with
    | some k, some g => (some (g.read (stageOfs k (s.strm h).kv.ctx l ((s.strm h).kv.ctx + (row - (s.run h).kvRow0))) rb), s)
    | _, _ => (none, s.fail h 6)
  | o =>
    match s.opPieces (s.clOf h) o (row * rb) rb with
    | some l => s.stepRead h loc l
    | none => (none, s.fail h 6)
/-- Stores a row; a range outside the operand faults the step. Rows of a STAGE operand that belong to other sequences of the
step's table are stored by those sequences' steps (R238, log 39). -/
def State.rowWrite (s : State) (h : Nat) (o : Operand) (rb row : Nat) (b : List Byte) : State :=
  match o with
  | .state i =>
    let r := s.run h
    s.setRun h { r with items := r.items.set i ((r.items.getD i (.bytes [])).write (row * rb) b) }
  | .stage l =>
    let v := (s.strm h).kv
    let q := s.run h
    match s.kvOf h, v.staging with
    | some k, some g =>
      if row < q.kvRow0 ∨ q.kvRow0 + q.kvRows.getD 0 ≤ row then s
      else s.setKv h { v with staging := some (g.write (stageOfs k v.ctx l (v.ctx + (row - q.kvRow0))) (b.take k.e)) }
    | _, _ => s.fail h 6
  | o =>
    match s.opPieces (s.clOf h) o (row * rb) b.length with
    | some l => s.writeRuns (s.clLoc (s.clOf h) 0 0) l b
    | none => s.fail h 6
/-- Reads rows `i` on of an operand; a read that fails ends the list and faults the step. -/
def State.rowsRead (s : State) (h loc : Nat) (o : Operand) (rb : Nat) : Nat → Nat → List (List Byte) × State
  | 0, _ => ([], s)
  | n + 1, i =>
    match s.rowRead h loc o rb i with
    | (some b, s1) => let (l, s2) := s1.rowsRead h loc o rb n (i + 1); (b :: l, s2)
    | (none, s1) => ([], s1)
/-- Bytes `o` to `o + n - 1` of an operand. -/
def State.opRead (s : State) (h loc : Nat) (op : Operand) (o n : Nat) : Option (List Byte) × State :=
  match op with
  | .state i => (some (((s.run h).items.getD i (.bytes [])).read o n), s)
  | op =>
    match s.opPieces (s.clOf h) op o n with
    | some l => s.stepRead h loc l
    | none => (none, s.fail h 6)
def State.rowsWrite (s : State) (h : Nat) (o : Operand) (rb : Nat) : Nat → List (List Byte) → State
  | _, [] => s
  | i, b :: t => (s.rowWrite h o rb i b).rowsWrite h o rb (i + 1) t
/-- The operand in a slot; a slot that names none faults the step where it is needed. -/
def NodeRec.op (n : NodeRec) (slot : Nat) : Option Operand := n.ops[slot]?
/-- The tensors a node reads, weights apart, and those it writes. -/
def NodeRec.slots : NodeRec → List Nat × List Nat
  | ⟨.mat x, _⟩ => ([x.sA, x.sB, x.sC], [x.sOut])
  | ⟨.vec x, _⟩ => ([x.sA, x.sB, x.sC], [x.sOut])
  | ⟨.red x, _⟩ => ([x.sA, x.sB], [x.sOut])
  | ⟨.sample x, _⟩ => ([x.sLogits], [x.sRec])
  | ⟨.scan d, _⟩ => ([db d 16 1, db d 17 1], [db d 18 1])
  | ⟨.vision d, _⟩ => ([db d 36 1], [db d 39 1])
  | ⟨.output x, _⟩ => ([x.slot], [])
  | _ => ([], [])
def NodeRec.tensorsIn (n : NodeRec) (l : List Nat) : List Operand :=
  (l.filterMap n.op).filter (fun o => match o with | .tensor _ _ _ => true | _ => false)
def NodeRec.reads (n : NodeRec) : List Operand := n.tensorsIn n.slots.1
def NodeRec.writes (n : NodeRec) : List Operand := n.tensorsIn n.slots.2
/-- The node's only input is a tensor that an EMPTY node of the step was to write (R291). -/
def State.emptyIn (s : State) (h : Nat) (n : NodeRec) : Bool :=
  match n.reads with
  | [o] => (s.run h).empties.contains o
  | _ => false
/-- A node is EMPTY: it does no work, and what it was to write is empty (R291). -/
def State.emptyNode (s : State) (h : Nat) (n : NodeRec) : State :=
  let r := (s.note h 7).run h
  s.setRun h { r with empties := r.empties ++ n.writes }
/-- A node writes its tensors: they are empty no longer. -/
def State.wroteNode (s : State) (h : Nat) (n : NodeRec) : State :=
  let r := s.run h
  if r.empties = [] then s else s.setRun h { r with empties := r.empties.filter (fun o => !n.writes.contains o) }
def State.slotRead (s : State) (h loc : Nat) (n : NodeRec) (slot rb rows : Nat) : List (List Byte) × State :=
  match n.op slot with
  | some o => s.rowsRead h loc o rb rows 0
  | none => ([], s.fail h 6)
def State.slotWrite (s : State) (h : Nat) (n : NodeRec) (slot rb : Nat) (l : List (List Byte)) : State :=
  match n.op slot with
  | some o => s.rowsWrite h o rb 0 l
  | none => s.fail h 6
/-- A slot that is used only where it is given. -/
def State.slotWriteIf (s : State) (h : Nat) (n : NodeRec) (slot rb : Nat) (l : List (List Byte)) : State :=
  if slot = 255 then s else s.slotWrite h n slot rb l

/-! What the engines count. -/

/-- The stream that a row with this handle belongs to, in a step of stream h (R108): none for work of no stream. A handle
that names no open stream counts as none (DESIGN CHOICE, log 35). -/
def State.rowStream (s : State) (h own : Nat) : Option Nat :=
  if own = s.handleOf h then some h
  else if own = 0xFFFFFFFF then none
  else match s.sidOf own with
    | some k => if (s.strm k).st = .closed then none else some k
    | none => none
/-- The draw context of a row (R88, R120, R124): the key and draw position of the stream it belongs to; work of no stream
draws as the step does, whose open command opened the operator instance. -/
def State.drawCtxOf (s : State) (h own : Nat) (d : DriftWord) : DrawCtx :=
  let x := s.strm ((s.rowStream h own).getD h)
  let p := match x.step with
    | some r => r.p
    | none => x.p
  { seed := x.seed, drift := x.drift, tensor := d.tensor, pos := (p + d.ofs) % 2 ^ 48 }
/-- The draw context of a node of the step. -/
def State.drawCtx (s : State) (h : Nat) (d : DriftWord) : DrawCtx := s.drawCtxOf h (s.handleOf h) d
/-- The windows that a row with this handle goes by (R107, R108). -/
def State.windowOf (s : State) (h own point : Nat) : QWindow :=
  AMap.read (fun _ => {}) (match s.rowStream h own with
    | some k => (s.strm k).windows
    | none => (s.strm h).noWindows) point
def State.setRowWindow (s : State) (h own point : Nat) (w : QWindow) : State :=
  match s.rowStream h own with
  | some k => s.modStrm k (fun x => { x with windows := AMap.write (fun _ => {}) x.windows point w })
  | none => s.modStrm h (fun x => { x with noWindows := AMap.write (fun _ => {}) x.noWindows point w })
/-- The handles of an operation's rows: those of its row table, else the step's own (R108; the table's layout is a DESIGN
CHOICE, log 7). It is read like a length table (R170). -/
def State.rowOwners (s : State) (h loc : Nat) (n : NodeRec) (slot rows : Nat) : List Nat × State :=
  if slot = 255 then (List.replicate rows (s.handleOf h), s)
  else match (n.op slot).bind (s.opRange (s.clOf h)) with
    | none => ([], s.fail h 6)
    | some (a, len) =>
      let r := s.readCtl loc a (4 * rows)
      if r.failed ∨ len < 4 * rows then ([], r.st.fail h 6)
      else ((List.range rows).map (fun i => leVal ((r.bytes.drop (4 * i)).take 4)), r.st)
/-- Evaluations count, and the cycles that requesters waited for them, which are a free value (R125, Table 06-7, log 4). -/
def State.countEvals (s : State) (cl evals : Nat) : State :=
  if evals = 0 then s
  else
    let (z, s1) := s.free
    (s1.bump64 (Reg.DRF_EVAL_LO cl) evals).bump (Reg.DRF_STALL cl) (z.toNat % 2 ^ 32)
/-- DRF counts of evaluations and dropped elements (R125, R127). -/
def State.countDrift (s : State) (cl evals drops : Nat) : State :=
  (s.countEvals cl evals).bump64 (Reg.DRF_DROP_LO cl) drops
/-- The matrix engine that holds the step's operation, ME0 where none does (log 35). -/
def State.engineOf (s : State) (h : Nat) : Nat :=
  if (AMap.read (fun _ => none) (s.wk (s.clOf h)).running 1).map (fun o => o.handle) = some h then 1 else 0
/-- The counts of a node of the step on its matrix engine (R98, R99). -/
def State.countMat (s : State) (h macs : Nat) (c : Cnts) : State :=
  let cl := s.clOf h
  let e := s.engineOf h
  let i := Reg.ME_INT_STATUS cl e
  let s1 := (s.bump64 (Reg.ME_MAC_LO cl e) macs).bump64 (Reg.ME_SR_LO cl e) c.sr
  let s2 := if c.nan = 0 then s1 else (s1.count (Reg.ME_NAN cl e) c.nan i 2).raise i 0
  let s3 := if c.sat = 0 then s2 else (s2.count (Reg.ME_SAT cl e) c.sat i 2).raise i 1
  s3.count (Reg.ME_INFGEN cl e) c.infgen i 2
/-- The vector unit's counts of a node (R99, R100). -/
def State.countVec (s : State) (cl elems : Nat) (c : Cnts) : State :=
  let i := Reg.VEC_INT_STATUS cl
  let s1 := (s.bump64 (Reg.VEC_ELEM_LO cl) elems).bump64 (Reg.VEC_SR_LO cl) c.sr
  let s2 := if c.nan = 0 then s1 else (s1.count (Reg.VEC_NAN cl) c.nan i 2).raise i 0
  let s3 := if c.sat = 0 then s2 else (s2.count (Reg.VEC_SAT cl) c.sat i 2).raise i 1
  s3.count (Reg.VEC_INFGEN cl) c.infgen i 2

/-! The quantiser and the gatherer (R102 to R114). -/

/-- A watch slot's counts for a row of its point (R114): when either count saturates both stop. -/
def State.watchSlot (s : State) (cl n : Nat) (q : QRow) (mx : Nat) : State :=
  let c := Reg.QST_WCLIPn cl n
  let t := Reg.QST_WTOTn cl n
  let s1 := if s.rn (Reg.QST_WMAXn cl n) < mx then s.setN (Reg.QST_WMAXn cl n) mx else s
  if s.rn c = 0xFFFFFFFF ∨ s.rn t = 0xFFFFFFFF then s1
  else
    let s2 := (s1.bump c q.clipped).bump t q.total
    if s2.rn c = 0xFFFFFFFF ∨ s2.rn t = 0xFFFFFFFF then s2.raise (Reg.QST_INT_STATUS cl) 1 else s2
def watchSlots (cl graph point : Nat) (q : QRow) (mx : Nat) (s : State) : List Nat → State
  | [] => s
  | n :: t =>
    let a := Reg.QST_WSELn cl n
    watchSlots cl graph point q mx
      (if s.rbit a 0 ∧ s.fld a 16 16 = graph ∧ s.fld a 11 5 = point then s.watchSlot cl n q mx else s) t
/-- QST counts of one quantised row (R110, R114); a flat row adds nothing to a watch slot. -/
def State.countRow (s : State) (cl graph : Nat) (q : QBlock) (r : QRow) (vals : List Word) : State :=
  let i := Reg.QST_INT_STATUS cl
  let s1 := s.bump64 (Reg.QST_ROWS_LO cl) 1
  match r.kind with
  | .flat => s1.count (Reg.QST_FLAT cl) 1 i 2
  | .nofin => s1.count (Reg.QST_NOFIN cl) 1 i 2
  | .plain => watchSlots cl graph q.point r (maxAbs vals) s1 (List.range 8)
/-- A row's side record (R105). -/
def quantRecord (r : QRow) : List Byte := leBytes 4 r.scale.s.toNat ++ leBytes 2 r.scale.z ++ leBytes 2 r.flags
/-- The quantiser's row of values that belong to a stream joins the step and is counted (R108 to R114). -/
def State.keepRow (s : State) (h own : Nat) (q : QBlock) (r : QRow) (vals : List Word) : State :=
  let run := s.run h
  (s.setRun h { run with rows := run.rows ++ [⟨own, q.point, r⟩] }).countRow (s.clOf h) (s.strm h).graph q r vals
/-- Delivers output row `i` of a node, which belongs to `own`: codes, or codes and side record under an active quantiser,
and the gatherer's record where STATS asks for it. -/
def State.deliverRow (s : State) (h own : Nat) (n : NodeRec) (q : QBlock) (fmt sOut sSide sStats i : Nat) (o : OutRow) : State :=
  let vals := o.vals fmt
  let g := gatherRow vals
  let s1 := if q.stats ∧ sStats ≠ 255 then
      match n.op sStats with
      | some op => s.rowWrite h op 8 i (leBytes 4 g.1.toNat ++ leBytes 4 g.2.toNat)
      | none => s.fail h 6
    else s
  match n.op sOut with
  | none => s1.fail h 6
  | some op =>
    if !q.active then s1.rowWrite h op (rowBytes fmt o.codes.length) i (packRow fmt o.codes)
    else
      let r := quantRow q (s1.windowOf h own q.point) vals
      let s2 := s1.rowWrite h op (rowBytes q.fmtQ r.codes.length) i (packRow q.fmtQ r.codes)
      let s3 := match n.op sSide with
        | some sd => s2.rowWrite h sd 8 i (quantRecord r)
        | none => s2
      s3.keepRow h own q r vals

end Sys2Proof.Machine
end

