-- ==== Sys2Proof/Machine/NodeExec.lean ====
section
/-!
DEFINITION. Operator nodes of a step on the engines of its cluster: matrix, vector, reduction, sampling, initialisation,
scan, input and output nodes (chapters 04, 05, 06, 12).
-/

namespace Sys2Proof.Machine

/-! Matrix nodes. -/

/-- The weight-group scales and zero points of column `j`, by block of 32 (R106, R116). -/
def groupRows (groupB blocks groups : Nat) (tab : List Byte) (j : Nat) : List Word × List Word :=
  let at_ (b : Nat) : Nat := leVal ((tab.drop ((j * groups + b * 32 / max 32 groupB) * 4)).take 4)
  ((List.range blocks).map (fun b => toFp32 1 (bitsAt (at_ b) 0 16)),
   (List.range blocks).map (fun b => toFp32 1 (bitsAt (at_ b) 16 16)))
/-- An input row of an operation: the handle it belongs to and the bytes of up to three operands. -/
structure InRow where
  own : Nat
  a : List Byte
  b : List Byte
  c : List Byte
  deriving DecidableEq, Repr
def inRows : List Nat → List (List Byte) → List (List Byte) → List (List Byte) → List InRow
  | o :: os, a :: as, bs, cs => ⟨o, a, bs.headD [], cs.headD []⟩ :: inRows os as bs.tail cs.tail
  | _, _, _, _ => []
/-- Output row `i` of a matrix node: its format and elements. -/
def MatNode.row (x : MatNode) (dc : DrawCtx) (ta : List Word) (cols : List (List Word × List Word × List Word))
    (icols : List (List Int)) (i : Nat) (r : InRow) : Nat × OutRow :=
  let mw : ModeWord := ⟨x.mode⟩
  let keep := (DriftWord.mk x.drift).keep
  let acodes := unpackRow mw.fmtA x.k r.a
  if fmtIsInt mw.fmtA then
    let a := acodes.map (sext (fmtBits mw.fmtA))
    if mw.fmtOut = 15 then
      let c := (unpackRow 15 x.n r.c).map (sext 32)
      (15, intRow dc keep (i * x.n) (icols.zipIdx.map (fun y => intTotal a y.1 (if mw.accC then c.getD y.2 0 else 0))))
    else
      let c := (unpackRow 0 x.n r.c).map (BitVec.ofNat 32)
      (mw.fmtOut, outRow mw dc keep (i * x.n) (matRowInt mw a icols c))
  else
    let a := acodes.map (expandVal mw.fmtA mw.expA mw.tgtA ta)
    let c := (unpackRow 0 x.n r.c).map (BitVec.ofNat 32)
    let sa : Word := if x.q.qa then BitVec.ofNat 32 (leVal (r.b.take 4)) else one32
    let za : Word := if x.q.qa then toFp32 1 (leVal ((r.b.drop 4).take 2)) else 0
    (mw.fmtOut, outRow mw dc keep (i * x.n) (matRow mw x.q a sa za cols c))
/-- Writes the rows of a matrix product. -/
def matRows (h : Nat) (n : NodeRec) (x : MatNode) (ta : List Word) (cols : List (List Word × List Word × List Word))
    (icols : List (List Int)) (s : State) : Nat → List InRow → Cnts × Nat → State × Cnts × Nat
  | _, [], acc => (s, acc)
  | i, r :: t, acc =>
    let (fmt, o) := x.row (s.drawCtxOf h r.own ⟨x.drift⟩) ta cols icols i r
    matRows h n x ta cols icols (s.deliverRow h r.own n x.q fmt x.sOut x.sSideOut x.sStats i o) (i + 1) t
      (acc.1.add o.cnt, acc.2 + o.evals)
def State.slotReadIf (s : State) (b : Bool) (h loc : Nat) (n : NodeRec) (slot rb rows : Nat) : List (List Byte) × State :=
  if b then s.slotRead h loc n slot rb rows else ([], s)
/-- An expander table of 2^w entries in E4M3 or BF16, held in the cluster store (R81). -/
def State.readTable (s : State) (h loc fmt mode : Nat) (bf : Bool) (ofs : Nat) : List Word × State :=
  if mode ≠ 2 then ([], s)
  else
    let f := if bf then 1 else 3
    let n := 2 ^ fmtBits fmt
    match s.stepRead h loc [(clusterStore (s.clOf h) + ofs, rowBytes f n)] with
    | (some b, s1) => ((unpackRow f n b).map (BitVec.ofNat 32), s1)
    | (none, s1) => ([], s1)
/-- A matrix node: `m` rows of A times `n` columns of B over a reduction of length `k`. -/
def State.nodeMat (s : State) (h : Nat) (n : NodeRec) (x : MatNode) : State :=
  let mw : ModeWord := ⟨x.mode⟩
  let cl := s.clOf h
  let loc := s.clLoc cl 0 0
  let rbB := rowBytes mw.fmtB x.k
  let (ra, s1) := s.slotRead h loc n x.sA (rowBytes mw.fmtA x.k) x.m
  let (rs, s2) := s1.slotReadIf x.q.qa h loc n x.sSideA 8 x.m
  let (rb, s3) := s2.slotRead h loc n x.sB rbB x.n
  let (rc, s4) := s3.slotReadIf mw.accC h loc n x.sC (4 * x.n) x.m
  let blocks := (x.k + 31) / 32
  let groups := (x.k + x.q.groupB - 1) / max 1 x.q.groupB
  let (tab, s5) := if x.q.qb then
      match n.op x.sB with
      | some o => s4.opRead h loc o ((rbB * x.n + 63) / 64 * 64) (x.n * groups * 4)
      | none => (some [], s4)
    else (some [], s4)
  let (ta, s6) := s5.readTable h loc mw.fmtA mw.expA mw.tgtA x.tabA
  let (tb, s7) := s6.readTable h loc mw.fmtB mw.expB mw.tgtB x.tabB
  let (own, s8) := s7.rowOwners h loc n x.sRows x.m
  if s8.stopped h then s8
  else
    let isInt := fmtIsInt mw.fmtA
    let cols := if isInt then [] else rb.zipIdx.map (fun y =>
      let g := if x.q.qb then groupRows x.q.groupB blocks groups (tab.getD []) y.2 else ([], [])
      ((unpackRow mw.fmtB x.k y.1).map (expandVal mw.fmtB mw.expB mw.tgtB tb), g.1, g.2))
    let icols := if isInt then rb.map (fun b => (unpackRow mw.fmtB x.k b).map (sext (fmtBits mw.fmtB))) else []
    let (s9, c, e) := matRows h n x ta cols icols s8 0 (inRows own ra rs rc) ({}, 0)
    (s9.countMat h (x.m * x.n * x.k) c).countDrift cl e c.drop

/-! Vector nodes. -/

/-- Output row `i` of an element-wise node: its format and elements. An integer operation of Table 04-7 takes its counts of
shifts modulo 32 and writes INT32 whatever FMT_OUT says, and a third operand is read in FMT_A: the spec leaves all three open
(DESIGN CHOICE, log 11). -/
def VecNode.row (x : VecNode) (dc : DrawCtx) (i : Nat) (r : InRow) : Nat × OutRow :=
  let mw : ModeWord := ⟨x.mode⟩
  let keep := (DriftWord.mk x.drift).keep
  let m := mw.internal
  let w (fmt : Nat) (b : List Byte) : List Word := (unpackRow fmt x.n b).map (fun c => BitVec.ofInt 32 (sext (fmtBits fmt) c))
  -- an integer that is converted to INT32 is loaded as INT32 and stays as it is (DEDUCED, log 35)
  if x.op = .convert ∧ fmtIsInt mw.fmtA ∧ mw.fmtOut = 15 then
    (15, intRow dc keep (i * x.n) ((w mw.fmtA r.a).map (fun v => v.toNat)))
  else match vecInt x.op 0 0 with
  | some _ =>
    (15, intRow dc keep (i * x.n) (List.zipWith (fun a b => ((vecInt x.op a b).getD 0).toNat) (w mw.fmtA r.a) (w mw.fmtB r.b)))
  | none =>
    let a := rowVals m mw.fmtA x.n r.a
    let b := rowVals m mw.fmtB x.n r.b
    let c := rowVals m mw.fmtA x.n r.c
    let ys := (List.range x.n).map (fun j => vecElem x.op m (a.getD j 0) (b.getD j 0) (c.getD j 0))
    (mw.fmtOut, outRow mw dc keep (i * x.n) ys)
/-- Writes the rows of an element-wise node. -/
def vecRows (h : Nat) (n : NodeRec) (x : VecNode) (s : State) : Nat → List InRow → Cnts × Nat → State × Cnts × Nat
  | _, [], acc => (s, acc)
  | i, r :: t, acc =>
    let (fmt, o) := x.row (s.drawCtxOf h r.own ⟨x.drift⟩) i r
    vecRows h n x (s.deliverRow h r.own n x.q fmt x.sOut x.sSideOut x.sStats i o) (i + 1) t (acc.1.add o.cnt, acc.2 + o.evals)
/-- An element-wise vector node. -/
def State.nodeVec (s : State) (h : Nat) (n : NodeRec) (x : VecNode) : State :=
  let mw : ModeWord := ⟨x.mode⟩
  let cl := s.clOf h
  let loc := s.clLoc cl 1 0
  let (ra, s1) := s.slotRead h loc n x.sA (rowBytes mw.fmtA x.n) x.rows
  let (rb, s2) := s1.slotReadIf (x.sB != 255) h loc n x.sB (rowBytes mw.fmtB x.n) x.rows
  let (rc, s3) := s2.slotReadIf (x.sC != 255) h loc n x.sC (rowBytes mw.fmtA x.n) x.rows
  let (own, s4) := s3.rowOwners h loc n x.sRows x.rows
  if s4.stopped h then s4
  else
    let (s5, c, e) := vecRows h n x s4 0 (inRows own ra rb rc) ({}, 0)
    (s5.countVec cl (x.rows * x.n) c).countDrift cl e c.drop
/-- Writes the results of a reduction node, one element per row. -/
def redRows (h : Nat) (n : NodeRec) (x : RedNodeDesc) (s : State) : Nat → List InRow → Cnts × Nat → State × Cnts × Nat
  | _, [], acc => (s, acc)
  | i, r :: t, acc =>
    let mw : ModeWord := ⟨x.mode⟩
    let dw : DriftWord := ⟨x.drift⟩
    let y := redRow x.op mw.internal (rowVals mw.internal mw.fmtA x.n r.a) (rowVals mw.internal mw.fmtB x.n r.b)
    let o := outRow mw (s.drawCtxOf h r.own dw) dw.keep i [y]
    redRows h n x (s.deliverRow h r.own n {} mw.fmtOut x.sOut 255 255 i o) (i + 1) t (acc.1.add o.cnt, acc.2 + o.evals)
def State.nodeRed (s : State) (h : Nat) (n : NodeRec) (x : RedNodeDesc) : State :=
  let mw : ModeWord := ⟨x.mode⟩
  let cl := s.clOf h
  let loc := s.clLoc cl 1 0
  let (ra, s1) := s.slotRead h loc n x.sA (rowBytes mw.fmtA x.n) x.rows
  let (rb, s2) := s1.slotReadIf (x.sB != 255) h loc n x.sB (rowBytes mw.fmtB x.n) x.rows
  let (own, s3) := s2.rowOwners h loc n x.sRows x.rows
  if s3.stopped h then s3
  else
    let (s4, c, e) := redRows h n x s3 0 (inRows own ra rb []) ({}, 0)
    (s4.countVec cl x.rows c).countDrift cl e c.drop

/-! Sampling nodes (R132 to R134). -/

/-- SMP counts of one row. -/
def State.countSample (s : State) (cl : Nat) (r : Sample) : State :=
  let i := Reg.SMP_INT_STATUS cl
  let s1 := s.bump64 (Reg.SMP_ROWS_LO cl) 1
  let s2 := if r.nans = 0 then s1 else (s1.count (Reg.SMP_NAN cl) r.nans i 3).raise i 0
  match r.cls with
  | .drawn => s2.bump64 (Reg.SMP_DRAWS_LO cl) 1
  | .greedy => s2.count (Reg.SMP_GREEDY cl) 1 i 3
  | .empty => (s2.count (Reg.SMP_EMPTY cl) 1 i 3).raise i 1
  | .badparam => (s2.count (Reg.SMP_BADPARAM cl) 1 i 3).raise i 2
/-- Writes row `i` of the record operand. -/
def State.putRecord (s : State) (h : Nat) (n : NodeRec) (slot i : Nat) (b : List Byte) : State :=
  match n.op slot with
  | some o => s.rowWrite h o 16 i b
  | none => s.fail h 6
/-- The index of the next row of a stream in the step's sampling node, counted over all of its rows (R133). -/
def State.rowIndex (s : State) (h own : Nat) : Nat × State :=
  let r := s.run h
  let k := ((r.sampled.find? (fun x => x.1 == r.node && x.2.1 == own)).map (fun x => x.2.2)).getD 0
  (k, s.setRun h { r with sampled := (r.node, own, k + 1) :: r.sampled.filter (fun x => !(x.1 == r.node && x.2.1 == own)) })
/-- Samples rows: the block, then the logits of a valid row, which follow those of the row before. -/
def sampRows (h : Nat) (n : NodeRec) (x : SampNode) (lo : Operand) (s : State) : Nat → Nat → List (Nat × List Byte) → State
  | _, _, [] => s
  | i, ofs, (own, b) :: t =>
    let w (k : Nat) : Word := BitVec.ofNat 32 (leVal ((b.drop (4 * k)).take 4))
    let blk : SampBlock := ⟨w 0, w 1, w 2, w 3⟩
    let cl := s.clOf h
    let put (s : State) (r : Sample) : State :=
      (s.countSample cl r).putRecord h n x.sRec i (r.words.flatMap (fun w => leBytes 4 w.toNat))
    let (k, s0) := s.rowIndex h own
    if !blk.ok then sampRows h n x lo ((put s0 { cls := .badparam }).note h 8) (i + 1) ofs t
    else
      let nb := rowBytes x.fmt blk.v
      match s0.opRead h (s0.clLoc cl 3 0) lo ofs nb with
      | (none, s1) => s1
      | (some lb, s1) =>
        let logits := rowVals .rne x.fmt blk.v lb
        let draws := sampleDraws blk logits
        let dc := s1.drawCtxOf h own { raw := x.drift ||| 0xFFFF#32 }
        let r := sampleRow blk logits (dc.eval k).w0
        let s2 := put (if draws then s1.countDrift cl 1 0 else s1) r
        sampRows h n x lo (if r.cls = .empty then s2.note h 7 else s2) (i + 1) (ofs + nb) t
def State.nodeSample (s : State) (h : Nat) (n : NodeRec) (x : SampNode) : State :=
  let loc := s.clLoc (s.clOf h) 3 0
  let (bs, s1) := s.slotRead h loc n x.sBlocks 16 x.rows
  let (own, s2) := s1.rowOwners h loc n x.sRows x.rows
  match n.op x.sLogits with
  | some o => if s2.stopped h then s2 else sampRows h n x o s2 0 0 (List.zip own bs)
  | none => s2.fail h 6

/-! Initialisation nodes (R128, R129). -/

/-- One element before conversion, and 1 where a step towards it overflowed (R99). -/
def initElem (x : InitNode) (tab : List Word) (w2 : Word) : Word × Nat :=
  let m := (ModeWord.mk x.mode).internal
  let fma (a b c : Word) : Word × Bool := let r := fmaFO .fp32 m (val32 a) (val32 b) (val32 c); (BitVec.ofNat 32 r.1, r.2)
  let diff (a b : Word) : Word × Bool := let r := addFO .fp32 .rne (val32 a) (val32 b).neg; (BitVec.ofNat 32 r.1, r.2)
  if x.normal then
    let i := bitsAt w2.toNat 22 10
    let f := (round32O .rne false (bitsAt w2.toNat 6 16) (-16) false).1
    let d := diff (tab.getD (i + 1) 0) (tab.getD i 0)
    let v := fma d.1 f (tab.getD i 0)
    let y := fma x.p1 v.1 x.p0
    (y.1, b2n (d.2 || v.2 || y.2))
  else
    let u := (round32O .rne false (bitsAt w2.toNat 8 24) (-24) false).1
    let d := diff x.p1 x.p0
    let y := fma d.1 u x.p0
    (y.1, b2n (d.2 || y.2))
def State.nodeInit (s : State) (h : Nat) (n : NodeRec) (x : InitNode) : State :=
  let cl := s.clOf h
  let mw : ModeWord := ⟨x.mode⟩
  let dw : DriftWord := ⟨x.drift⟩
  let (tb, s1) := s.slotReadIf x.normal h (s.clLoc cl 1 0) n x.sTable 4100 1
  if s1.stopped h then s1
  else
    let tab := (unpackRow 0 1025 (tb.headD [])).map (BitVec.ofNat 32)
    let dc := s1.drawCtx h dw
    let ys := (List.range x.n).map (fun i => initElem x tab (dc.eval i).w2)
    let o := outRow mw dc dw.keep 0 ys
    ((s1.deliverRow h (s1.handleOf h) n {} mw.fmtOut x.sOut 255 255 0 o).countVec cl x.n o.cnt).countDrift cl x.n o.cnt.drop

/-! Scan nodes (R270, Table 12-5). -/

def scanRows (mode : RMode) (span : Nat) (hi : List Word) (reset : Bool) :
    ScanState → List (List Word × List Word) → ScanState × List (List (Word × Nat))
  | st, [] => (st, [])
  | st, (a, b) :: t =>
    let (st1, y) := scanPosition mode span hi a b reset st
    let (st2, ys) := scanRows mode span hi false st1 t
    (st2, y :: ys)
/-- The draw context of a scan node's conversions: the key of its stream, and a tensor and draw position that its descriptor
does not give (log 11). -/
def State.scanCtx (s : State) (h : Nat) : DrawCtx :=
  let x := s.strm h
  let i := (s.run h).node
  { seed := x.seed, drift := x.drift, tensor := Config.scanTensor x.graph i, pos := Config.scanDraw x.graph i }
/-- Writes the rows of y: row i of the node is position `base + i` of the stream, by which its elements draw (R271). -/
def scanOut (h : Nat) (n : NodeRec) (mw : ModeWord) (slot w base : Nat) (s : State) :
    Nat → List (List (Word × Nat)) → Cnts × Nat → State × Cnts × Nat
  | _, [], acc => (s, acc)
  | i, y :: t, acc =>
    let o := outRow mw (s.scanCtx h) 255 ((base + i) * w) y
    scanOut h n mw slot w base (s.deliverRow h (s.handleOf h) n {} mw.fmtOut slot 255 255 i o) (i + 1) t
      (acc.1.add o.cnt, acc.2 + o.evals)
/-- A scan node over the positions of the segment in progress. -/
def State.nodeScan (s : State) (h : Nat) (n : NodeRec) (d : BitVec 512) (seg : StepSeg) : State :=
  let mw : ModeWord := ⟨BitVec.ofNat 32 (db d 4 4)⟩
  let w := db d 8 4
  let item := db d 12 4
  let cl := s.clOf h
  let loc := s.clLoc cl 1 0
  let init := dfield d 0 23 1 == 1
  let (hb, s1) := s.slotReadIf init h loc n (db d 19 1) (4 * w) 1
  let (ra, s2) := s1.slotRead h loc n (db d 16 1) (rowBytes mw.fmtA w) seg.count
  let (rb, s3) := s2.slotRead h loc n (db d 17 1) (rowBytes mw.fmtB w) seg.count
  if s3.stopped h then s3
  else
    let hi := if init then (unpackRow 0 w (hb.headD [])).map (BitVec.ofNat 32) else List.replicate w 0
    let r := s3.run h
    let st0 := match r.items.getD item (.scan {}) with
      | .scan st => st
      | .bytes _ => {}
    let ab := List.zip (ra.map (rowVals mw.internal mw.fmtA w)) (rb.map (rowVals mw.internal mw.fmtB w))
    let st0 : ScanState := if st0.anchor = [] then { st0 with anchor := hi } else st0
    let (st, ys) := scanRows mw.internal (dfield d 0 18 5) hi (seg.mark != 0) st0 ab
    let s4 := s3.setRun h { r with items := r.items.set item (.scan st) }
    let base := (s4.strm h).pos - r.positions + seg.first
    let (s5, c, e) := scanOut h n mw (db d 18 1) w base s4 0 ys ({}, 0)
    (s5.countVec cl (seg.count * w) c).countDrift cl e 0

/-! Input and output nodes (R260, R263). -/

/-- The input node's slot receives the rows of the segment. -/
def State.nodeInput (s : State) (h : Nat) (n : NodeRec) (d : BitVec 512) (seg : StepSeg) : State :=
  let i := inputDesc d
  s.slotWrite h n i.sOut i.rowBytes seg.rows
/-- The output node's rows join what the step will deliver; a step made short or cut by a mark delivers its share. -/
def State.nodeOutput (s : State) (h : Nat) (n : NodeRec) (o : OutNode) (posStep : Nat) (seg : StepSeg) : State :=
  let k := if posStep = 0 then o.rows else o.rows * (seg.first + seg.count) / posStep - o.rows * seg.first / posStep
  let (rows, s1) := s.slotRead h (s.clLoc (s.clOf h) 5 0) n o.slot o.rowBytes k
  if s1.stopped h then s1
  else
    let r := s1.run h
    s1.setRun h { r with
      outputs := r.outputs ++ rows.flatten
      outCount := r.outCount + k * (o.rowBytes / max 1 o.esize)
      outSize := o.esize
      outTokens := o.tokens
      outRate := o.rate }

end Sys2Proof.Machine
end

