-- ==== Sys2Proof/Machine/VisionExec.lean ====
section
/-!
DEFINITION. Vision nodes of a step (chapter 13): shape tables, images, the pixels of convolution, pooling and regrouping
nodes, and fused chains.
-/

namespace Sys2Proof.Machine

/-! Vision nodes (chapter 13). -/

/-- The fields of a vision descriptor (Table 13-5). -/
structure VisDesc where
  op : Nat
  pad : Nat
  kind : Nat
  bias : Bool
  mode : ModeWord
  drift : DriftWord
  cin : Nat
  cout : Nat
  groups : Nat
  kh : Nat
  kw : Nat
  sh : Nat
  sw : Nat
  dh : Nat
  dw : Nat
  pt : Nat
  pb : Nat
  pl : Nat
  pr : Nat
  maxH : Nat
  maxW : Nat
  maxImages : Nat
  slots : List Nat
  q : QBlock
  desc : BitVec 512
  deriving DecidableEq, Repr
def visDesc (d : BitVec 512) : VisDesc :=
  let w (i : Nat) : Word := BitVec.ofNat 32 (db d i 4)
  { op := dfield d 0 24 8, pad := dfield d 0 22 2, kind := dfield d 0 20 2, bias := dfield d 0 14 1 == 1, mode := ⟨w 4⟩,
    drift := ⟨w 8⟩, cin := db d 12 2, cout := db d 14 2, groups := max 1 (db d 16 2), kh := db d 18 1, kw := db d 19 1,
    sh := db d 20 1, sw := db d 21 1, dh := db d 22 1, dw := db d 23 1, pt := db d 24 1, pb := db d 25 1, pl := db d 26 1,
    pr := db d 27 1, maxH := db d 28 2, maxW := db d 30 2, maxImages := db d 32 2,
    slots := (List.range 6).map (fun i => db d (36 + i) 1), q := ⟨w 44, w 48, w 52, w 56⟩, desc := d }
/-- A shape-table entry (Table 13-1). -/
structure Shape where
  h : Nat
  w : Nat
  inOfs : Nat
  outOfs : Nat
  handle : Nat
  deriving DecidableEq, Repr
def shapeOf (b : List Byte) : Shape :=
  let v := leVal b
  ⟨bitsAt v 0 16, bitsAt v 16 16, bitsAt v 32 32, bitsAt v 64 32, bitsAt v 96 32⟩
def VisDesc.axes (v : VisDesc) (e : Shape) : Axis × Axis :=
  (⟨e.h, v.kh, v.sh, v.dh, v.pt, v.pb⟩, ⟨e.w, v.kw, v.sw, v.dw, v.pl, v.pr⟩)
/-- Output rows, columns and channels of an image. -/
def VisDesc.outShape (v : VisDesc) (e : Shape) : Nat × Nat × Nat :=
  match v.op with
  | 0x62 => ((e.h + v.kh - 1) / max 1 v.kh, (e.w + v.kh - 1) / max 1 v.kh, v.kh * v.kh * v.cin)
  | 0x63 => (e.h * v.kh, e.w * v.kh, v.cin / max 1 (v.kh * v.kh))
  | _ => let (ay, ax) := v.axes e; (ay.out, ax.out, v.cout)
def VisDesc.inBytes (v : VisDesc) (e : Shape) : Nat := e.h * e.w * rowBytes v.mode.fmtA v.cin
/-- Where the side records of an image begin, one for each pixel: on the next 8-byte boundary after its codes (DEDUCED,
log 39). -/
def sideAt (n : Nat) : Nat := (n + 7) / 8 * 8
/-- All that an image takes of the input operand. -/
def VisDesc.inSize (v : VisDesc) (e : Shape) : Nat := if v.q.qa then sideAt (v.inBytes e) + 8 * e.h * e.w else v.inBytes e
/-- Bytes of one output pixel. -/
def VisDesc.outPix (v : VisDesc) (e : Shape) : Nat :=
  rowBytes (if v.q.active then v.q.fmtQ else v.mode.fmtOut) (v.outShape e).2.2
def VisDesc.outBytes (v : VisDesc) (e : Shape) : Nat := (v.outShape e).1 * (v.outShape e).2.1 * v.outPix e
def VisDesc.outSize (v : VisDesc) (e : Shape) : Nat :=
  if v.q.active then sideAt (v.outBytes e) + 8 * (v.outShape e).1 * (v.outShape e).2.1 else v.outBytes e
/-- Input channels of a group, and the taps of an output (R292). -/
def VisDesc.cg (v : VisDesc) : Nat := v.cin / v.groups
def VisDesc.redLen (v : VisDesc) : Nat := v.kh * v.kw * v.cg
/-- The table of an operand in the expander's table mode. -/
def VisDesc.table (v : VisDesc) (side fmt : Nat) : List Word := (List.range (2 ^ fmtBits fmt)).map (Config.visTable v.desc side)
/-- What a vision node computes on: the weight codes and group table of a convolution, the bias words, and the codes and side
records of an image by row, column and channel. -/
structure VisData where
  wts : List Nat := []
  groups : List Byte := []
  bias : List Word := []
  raw : Nat → Nat → Nat → Nat := fun _ _ _ => 0
  side : Nat → Nat → Word × Word := fun _ _ => (one32, 0)
/-- The FP32 value of a pixel's channel and of a weight. -/
def VisDesc.pixel (v : VisDesc) (x : VisData) (y c ch : Nat) : Word :=
  let q := x.raw y c ch
  if fmtIsU v.mode.fmtA then expandVal v.mode.fmtA v.mode.expA v.mode.tgtA (v.table 0 v.mode.fmtA) q
  else codeVal v.mode.internal v.mode.fmtA q
def VisDesc.weight (v : VisDesc) (x : VisData) (i : Nat) : Word :=
  let q := x.wts.getD i 0
  if fmtIsU v.mode.fmtB then expandVal v.mode.fmtB v.mode.expB v.mode.tgtB (v.table 1 v.mode.fmtB) q
  else codeVal v.mode.internal v.mode.fmtB q
/-- The taps of output (oy, ox, co) over r: the pixel and channel each reads, or none, with the weight's index. -/
def VisDesc.taps (v : VisDesc) (e : Shape) (oy ox co : Nat) : List (Option (Nat × Nat × Nat) × Nat) :=
  let (ay, ax) := v.axes e
  (convTaps v.pad v.cg (co / max 1 (v.cout / v.groups)) ay ax oy ox).zipIdx.map (fun t => (t.1, co * v.redLen + t.2))
/-- An integer convolution's total (R82), C being the bias word read as INT32 (R82, R287). -/
def VisDesc.intElem (v : VisDesc) (e : Shape) (x : VisData) (c : Int) (oy ox co : Nat) : List Int × List Int × Int :=
  let l := v.taps e oy ox co
  (l.map (fun t => match t.1 with | some (y, c, ch) => sext (fmtBits v.mode.fmtA) (x.raw y c ch) | none => 0),
    l.map (fun t => sext (fmtBits v.mode.fmtB) (x.wts.getD t.2 0)), c)
/-- A convolution's product before its bias: exact blocks and tree (R292), one rounding of an integer total (R82), or the
dequantised product (R116), whose one scale and zero point of A the taps' pixels must share (log 11). -/
def VisDesc.product (v : VisDesc) (e : Shape) (x : VisData) (oy ox co : Nat) : Traced :=
  let m := v.mode.internal
  let l := v.taps e oy ox co
  let terms := l.map (fun t => (t.1.map (fun p => v.pixel x p.1 p.2.1 p.2.2), v.weight x t.2))
  if fmtIsInt v.mode.fmtA then
    let t := v.intElem e x 0 oy ox co
    ⟨intTotalFp32 m t.1 t.2.1, false, 0⟩
  else if v.q.qa || v.q.qb then
    let recs := l.filterMap (fun t => t.1.map (fun p => x.side p.1 p.2.1))
    let sc := recs.headD (one32, 0)
    let blocks := (v.redLen + 31) / 32
    let g := if v.q.qb then groupRows v.q.groupB blocks ((v.redLen + v.q.groupB - 1) / max 1 v.q.groupB) x.groups co else ([], [])
    if recs.all (fun r => r == sc) then dequantT m sc.1 sc.2 terms g.1 g.2
    else ⟨Config.mixedScales recs terms, false, 0⟩
  else reduceT m (terms.map (fun t => match t.1 with
    | some a => mulV (val32 a) (val32 t.2)
    | none => .fin false 0 0))
/-- One output element of a convolution or pooling node before conversion, and its overflows. -/
def VisDesc.elem (v : VisDesc) (e : Shape) (x : VisData) (oy ox co : Nat) : Word × Nat :=
  let (ay, ax) := v.axes e
  let m := v.mode.internal
  if v.op = 0x61 then poolElem m v.kind v.pad ay ax oy ox (fun r c => v.pixel x r c co)
  else
    let y := v.product e x oy ox co
    let r := if v.bias then addT m y ⟨x.bias.getD co 0, false, 0⟩ else y
    (r.v, r.n)
/-- The pixel at place `i` of the output: its format and elements. -/
def VisDesc.row (v : VisDesc) (e : Shape) (x : VisData) (dc : DrawCtx) (i : Nat) : Nat × OutRow :=
  let (_, ow, oc) := v.outShape e
  let oy := i / max 1 ow
  let ox := i % max 1 ow
  if v.op = 0x62 ∨ v.op = 0x63 then
    (v.mode.fmtA, { codes := (List.range oc).map (fun co =>
      let (y, c, ch) := if v.op = 0x62 then spaceToDepth v.kh v.cin oy ox co else depthToSpace v.kh oc oy ox co
      x.raw y c ch) })
  else if v.op = 0x60 ∧ fmtIsInt v.mode.fmtA ∧ v.mode.fmtOut = 15 then
    (15, intRow dc v.drift.keep (i * oc) ((List.range oc).map (fun co =>
      let t := v.intElem e x (if v.bias then (x.bias.getD co 0).toInt else 0) oy ox co
      intTotal t.1 t.2.1 t.2.2)))
  else (v.mode.fmtOut, outRow v.mode dc v.drift.keep (i * oc) ((List.range oc).map (fun co => v.elem e x oy ox co)))
/-! Fused chains (R299). A chain has one shape table, whose entries give the input of its first layer and the place of its
last layer's output; what passes between its layers stays in the cluster store. A node that is not fused is a chain of one. -/

/-- The vector unit runs a node: pooling, and a convolution of thin groups (Table 13-2). -/
def VisDesc.onVec (v : VisDesc) : Bool :=
  v.op == 0x61 || (v.op == 0x60 && decide (1 < v.groups) && decide (v.redLen ≤ 32) && decide (v.cout / v.groups ≤ 4))
def VisDesc.onMat (v : VisDesc) : Bool := v.op == 0x60 && !v.onVec
/-- The nodes that follow a node in its chain (Table 13-5 FUSE). -/
def visFuse (d : BitVec 512) : Nat := dfield d 0 17 3
/-- A layer of a chain: its node, and its weights. -/
structure VisLayer where
  node : NodeRec
  v : VisDesc
  x : VisData
/-- The image that a layer makes of an image. -/
def VisDesc.next (v : VisDesc) (e : Shape) : Shape := { e with h := (v.outShape e).1, w := (v.outShape e).2.1 }
/-- The image that leaves a chain. -/
def chainOut (vs : List VisDesc) (e : Shape) : Shape := vs.foldl (fun e v => v.next e) e
/-- The tiles of one axis, each by first output and end. -/
def axisTiles (n t : Nat) : List (Nat × Nat) :=
  if t = 0 then [(0, n)] else (List.range ((n + t - 1) / t)).map (fun i => (t * i, min n (t * (i + 1))))
/-- The inputs that a run of outputs of one axis needs, clipped to the input's extent (R299). -/
def Axis.need (a : Axis) (r : Nat × Nat) : Nat × Nat :=
  let span := a.d * (a.k - 1) + 1
  (r.1 * a.s - a.pa, min a.n ((r.2 - 1) * a.s + span - a.pa))
/-- The runs of each layer's outputs that the tiles of a chain's last layer need, first layer first: by rows and columns. -/
def chainRuns (th tw : Nat) : Shape → List VisDesc → List (List (Nat × Nat) × List (Nat × Nat))
  | _, [] => []
  | e, v :: t =>
    let o := v.next e
    (match t, chainRuns th tw o t with
     | w :: _, r :: rest =>
       let (ay, ax) := w.axes o
       (r.1.map ay.need, r.2.map ax.need) :: r :: rest
     | _, _ => [(axisTiles o.h th, axisTiles o.w tw)])
/-- In how many runs a number lies. -/
def runsWith (l : List (Nat × Nat)) (i : Nat) : Nat := (l.filter (fun r => decide (r.1 ≤ i ∧ i < r.2))).length
/-- How often a pixel of a layer is computed: once for each tile that needs it (R299). -/
def timesRun (r : List (Nat × Nat) × List (Nat × Nat)) (w i : Nat) : Nat := runsWith r.1 (i / max 1 w) * runsWith r.2 (i % max 1 w)
/-- What a layer makes of an image: codes, side records, and what it counts. -/
structure VisOut where
  codes : List Byte := []
  recs : List Byte := []
  cnt : Cnts := {}
  evals : Nat := 0
  pixels : Nat := 0
def Cnts.times (n : Nat) (c : Cnts) : Cnts := ⟨n * c.infgen, n * c.nan, n * c.sat, n * c.sr, n * c.drop⟩
/-- Computes the pixels of one image of a layer; its windows and draws are those of the stream its entry names (Table
13-1). A pixel that no tile needs is not delivered to gatherer and quantiser statistics. -/
def visPixels (h : Nat) (y : VisLayer) (e : Shape) (x : VisData) (side0 : Nat) (mult : Nat → Nat) (s : State) :
    List Nat → State × VisOut
  | [] => (s, {})
  | i :: t =>
    let v := y.v
    let (fmt, o) := v.row e x (s.drawCtxOf h e.handle v.drift) i
    let vals := o.vals fmt
    let g := gatherRow vals
    let s1 := if v.q.stats ∧ mult i ≠ 0 then
        match y.node.op (v.slots.getD 5 255) with
        | some op => s.rowWrite h op 8 (side0 + i) (leBytes 4 g.1.toNat ++ leBytes 4 g.2.toNat)
        | none => s
      else s
    let r := quantRow v.q (s1.windowOf h e.handle v.q.point) vals
    let s2 := if v.q.active ∧ mult i ≠ 0 then s1.keepRow h e.handle v.q r vals else s1
    let (s3, u) := visPixels h y e x side0 mult s2 t
    (s3, { codes := (if v.q.active then packRow v.q.fmtQ r.codes else packRow fmt o.codes) ++ u.codes
           recs := (if v.q.active then quantRecord r else []) ++ u.recs
           cnt := (o.cnt.times (mult i)).add u.cnt
           evals := mult i * o.evals + u.evals
           pixels := mult i + u.pixels })
/-- The codes and side records of an image's bytes. -/
def VisDesc.image (v : VisDesc) (e : Shape) (b : List Byte) (x : VisData) : VisData :=
  let px := rowBytes v.mode.fmtA v.cin
  { x with
    raw := fun y c ch => if e.h ≤ y ∨ e.w ≤ c then 0
      else (unpackRow v.mode.fmtA v.cin ((b.drop ((y * e.w + c) * px)).take px)).getD ch 0
    side := fun y c => if !v.q.qa then (one32, 0)
      else
        let r := (b.drop (sideAt (v.inBytes e) + 8 * (y * e.w + c))).take 8
        (BitVec.ofNat 32 (leVal (r.take 4)), toFp32 1 (leVal ((r.drop 4).take 2))) }
/-- The counts of a layer's pixels (R98 to R100, R125). -/
def State.countVision (s : State) (h : Nat) (v : VisDesc) (u : VisOut) : State :=
  let cl := s.clOf h
  let s1 := if v.onVec then s.countVec cl (u.pixels * v.cout) u.cnt
    else if v.onMat then s.countMat h (u.pixels * v.cout * v.redLen) u.cnt else s
  s1.countDrift cl u.evals u.cnt.drop
/-- Runs an image through the layers of a chain; `sides` holds how many pixels each layer has made before. Answers the
last layer's codes and records. -/
def visLayers (h : Nat) : Shape → List Byte → List (VisLayer × List (Nat × Nat) × List (Nat × Nat)) → List Nat → State →
    VisOut × State
  | _, b, [], _, s => ({ codes := b }, s)
  | e, b, (y, runs) :: t, sides, s =>
    let o := y.v.next e
    let (s1, u) := visPixels h y e (y.v.image e b y.x) (sides.headD 0) (timesRun runs o.w) s (List.range (o.h * o.w))
    let s2 := s1.countVision h y.v u
    if t.isEmpty then (u, s2)
    else
      let pad := if u.recs = [] then [] else List.replicate (sideAt u.codes.length - u.codes.length) 0 ++ u.recs
      visLayers h o (u.codes ++ pad) t (sides.drop 1) s2
/-- Pixels that each layer makes of an image. -/
def chainPixels : Shape → List VisDesc → List Nat
  | _, [] => []
  | e, v :: t => (v.next e).h * (v.next e).w :: chainPixels (v.next e) t
/-- Bytes that a regrouping node moves on its cluster's Caravan engine (R297, Table 09-8). -/
def State.countRegroup (s : State) (cl : Nat) (v : VisDesc) (n m : Nat) : State :=
  if v.op = 0x62 ∨ v.op = 0x63 then (s.bump64 (Reg.CAR_RD_LO cl) n).bump64 (Reg.CAR_WR_LO cl) m else s
/-- Runs the images of a shape table through a chain: from the first layer's input to the last layer's output at `out`. -/
def visImages (h th tw : Nat) (ls : List VisLayer) (inp : Operand) (last : VisDesc) (out : Nat) : List Nat → List Shape →
    State → State
  | _, [], s => s
  | sides, e :: t, s =>
    let loc := s.clLoc (s.clOf h) 0 0
    let vs := ls.map (fun y => y.v)
    let n := ((vs.head?).map (fun v => v.inSize e)).getD 0
    match s.opRead h loc inp e.inOfs n with
    | (none, s1) => s1
    | (some b, s1) =>
      let (u, s2) := visLayers h e b (ls.zip (chainRuns th tw e vs)) sides s1
      let a := out + e.outOfs
      let s3 := (s2.writeData loc a u.codes).countRegroup (s2.clOf h) last n u.codes.length
      let s4 := if u.recs = [] then s3 else s3.writeData loc (a + sideAt u.codes.length) u.recs
      visImages h th tw ls inp last out (List.zipWith (fun a b => a + b) sides (chainPixels e vs)) t s4
/-- The weight codes of a convolution, row by row of a tap's channels (R76, R287), its group table on the next 64-byte
boundary (R106), and its bias. -/
def State.visWeights (s : State) (h loc : Nat) (n : NodeRec) (v : VisDesc) : VisData × State :=
  if v.op ≠ 0x60 then ({}, s)
  else
    let rb := rowBytes v.mode.fmtB v.cg
    let rows := v.cout * v.kh * v.kw
    let groups := (v.redLen + v.q.groupB - 1) / max 1 v.q.groupB
    let (wb, s1) := s.slotRead h loc n (v.slots.getD 1 255) rb rows
    let (tab, s2) := if v.q.qb then
        match n.op (v.slots.getD 1 255) with
        | some o => s1.opRead h loc o ((rb * rows + 63) / 64 * 64) (v.cout * groups * 4)
        | none => (none, s1)
      else (none, s1)
    let (bb, s3) := s2.slotReadIf v.bias h loc n (v.slots.getD 2 255) (4 * v.cout) 1
    ({ wts := wb.flatMap (unpackRow v.mode.fmtB v.cg)
       groups := tab.getD []
       bias := (unpackRow 0 v.cout (bb.headD [])).map (BitVec.ofNat 32) }, s3)
/-- The weights of every layer of a chain. -/
def chainWeights (h loc : Nat) (s : State) : List NodeRec → List VisLayer × State
  | [] => ([], s)
  | n :: t =>
    match n.node with
    | .vision d =>
      let (x, s1) := s.visWeights h loc n (visDesc d)
      let (l, s2) := chainWeights h loc s1 t
      (⟨n, visDesc d, x⟩ :: l, s2)
    | _ => chainWeights h loc s t
/-- The descriptors of a chain's nodes. -/
def chainDescs (l : List NodeRec) : List VisDesc := l.filterMap (fun n => match n.node with | .vision d => some (visDesc d) | _ => none)
/-- A vision node, or the chain of fused nodes that it begins (R288 to R299). -/
def State.nodeVision (s : State) (h : Nat) (l : List NodeRec) : State :=
  let cl := s.clOf h
  let loc := s.clLoc cl 0 0
  let vs := chainDescs l
  match vs.head?, vs.getLast?, l.head?, l.getLast? with
  | some v, some w, some n, some m =>
    match n.op (v.slots.getD 0 255), m.op (w.slots.getD 3 255), n.op (v.slots.getD 4 255) with
    | some inp, some out, some tab =>
      match s.opRange cl inp, s.opRange cl out, s.opRange cl tab with
      | some (_, inLen), some (oa, outLen), some (ta, tl) =>
        let r := s.readCtl loc ta tl
        if r.failed then r.st.fail h 6
        else
          let es := (List.range (tl / 16)).map (fun i => shapeOf ((r.bytes.drop (16 * i)).take 16))
          let ok := decide (es.length ≤ v.maxImages) && es.all (fun e => decide (e.h ≤ v.maxH ∧ e.w ≤ v.maxW ∧
            e.inOfs + v.inSize e ≤ inLen ∧ e.outOfs + w.outSize (chainOut vs.dropLast e) ≤ outLen))
          if !ok then r.st.fail h 8
          else
            let live := es.filter (fun e => (chainOut vs e).h != 0 && (chainOut vs e).w != 0)
            if live.isEmpty then r.st.emptyNode h m
            else
              let (ls, s2) := chainWeights h loc r.st l
              if s2.stopped h then s2
              else visImages h (8 * db v.desc 34 1) (8 * db v.desc 35 1) ls inp w oa (vs.map (fun _ => 0)) live s2
      | _, _, _ => s.fail h 6
    | _, _, _ => s.fail h 6
  | _, _, _, _ => s.fail h 6
/-- A node is a later layer of a fused chain, which its first layer has run. -/
def Graph.fusedAt (g : Graph) (i : Nat) : Bool :=
  (List.range i).any (fun j => match (g.nodes[j]?).map NodeRec.node with
    | some (Node.vision d) => decide (i ≤ j + visFuse d)
    | _ => false)

end Sys2Proof.Machine
end

