-- ==== Sys2Proof/Machine/AttnExec.lean ====
section
/-!
DEFINITION. Attention nodes of a step (chapter 10): the length table, blocks of keys and values from dense operands, pages
and the staging set, work sent to cistern engines, merging, output rows, and the backward pass.
-/

namespace Sys2Proof.Machine

/-! Layers and members. -/

def isPagedForward (d : BitVec 512) : Bool := dfield d 0 24 8 == 0x40 && dfield d 0 14 1 == 1
/-- The layer of node i: its place among the paged forward attention nodes (DEDUCED, log 24). -/
def Graph.layerOf (g : Graph) (i : Nat) : Nat :=
  ((g.nodes.take i).filter (fun r => match r.node with | .attention d => isPagedForward d | _ => false)).length
/-! What a node needs. -/

/-- An attention node of a step: its record, its settings, its layer, the length-table entry of the step's sequence with the
first row of its queries, and the rows and keys that are worked on (R223). -/
structure AttnJob where
  n : NodeRec
  d : AttnDesc
  layer : Nat
  e : LenEntry
  row0 : Nat
  rows : Nat
  keys : Nat
  deriving DecidableEq, Repr

/-- Reads pieces as data of the step. -/
def stepPieces (h loc : Nat) (s : State) : List (Nat × Nat) → List Byte × State
  | [] => ([], s)
  | (a, n) :: t =>
    match s.stepRead h loc [(a, n)] with
    | (some b, s1) => let (l, s2) := stepPieces h loc s1 t; (b ++ l, s2)
    | (none, s1) => ([], s1)
/-- An EMPTY entry below K_LEN: FAULTED, with a KV_LIST record (R237). -/
def State.kvListError (s : State) (h loc a : Nat) : State := ((s.report 2 0x10 loc 1 a).raise Reg.KVC_INT_STATUS 5).fail h 6
/-- The positions that the staging set holds replace what their page holds. -/
def State.overlay (s : State) (h : Nat) (k : KvDecl) (layer j : Nat) (b : List Byte) : List Byte :=
  let v := (s.strm h).kv
  match v.staging with
  | none => b
  | some g =>
    if j < v.ctx / 128 then b
    else (List.range 128).flatMap (fun t =>
      if g.start ≤ 128 * j + t then g.read (stageOfs k v.ctx layer (128 * j + t)) k.e else (b.drop (t * k.e)).take k.e)
/-- The 128 entries of block j of a layer, from a page and the staging set, or from the block a member has sent. -/
def State.pagedBlock (s : State) (h loc : Nat) (x : AttnJob) (k : KvDecl) (j : Nat) : List Byte × State :=
  if !s.ownBlock h k j then
    ((((s.strm h).kv.ringBlocks.find? (fun b => b.1 == x.layer && b.2.1 == j)).map (fun b => b.2.2)).getD [], s)
  else
    let a := x.e.kv + 4 * (k.listBlock j * k.groups + x.layer / k.lpg)
    let r := s.readCtl loc a 4
    if r.failed then ([], r.st.fail h 6)
    else
      let en := kvEntry (leVal r.bytes)
      if en.kind ≠ 1 then ([], r.st.kvListError h loc a)
      else
        let (b, s1) := stepPieces h loc r.st (pageRuns en.loc (x.d.slice * 128 * k.e) (128 * k.e))
        (s1.overlay h k x.layer j b, s1)
/-- Rows of a dense operand from row `r0`, of `rb` bytes. -/
def State.denseRows (s : State) (h loc : Nat) (n : NodeRec) (slot rb r0 cnt : Nat) : List (List Byte) × State :=
  match n.op slot with
  | some o => s.rowsRead h loc o rb cnt r0
  | none => ([], s.fail h 6)
/-- Up-projection rows of DIRECT (R217). -/
def State.upRows (s : State) (h loc : Nat) (x : AttnJob) : List (List Word) × State :=
  if x.d.exp ≠ 1 then ([], s)
  else match x.n.op (x.d.slot 2) with
    | some (.weight i hm) =>
      let fmt := ((s.weight i).map (fun w => w.ref.fmt)).getD 0
      let (l, s1) := s.rowsRead h loc (.weight i hm) (rowBytes fmt x.d.latent) (x.d.kvh * (x.d.dk + x.d.dv)) 0
      (l.map (rowVals x.d.mode.internal fmt x.d.latent), s1)
    | _ => ([], s.fail h 6)
/-- Keys and values of one block: for each of its 128 positions, key and value by key-value head. Positions beyond K_LEN of a
dense operand are masked and read nothing. -/
def State.blockRows (s : State) (h loc : Nat) (x : AttnJob) (up : List (List Word)) (j : Nat) :
    List (List (List Word × List Word)) × State :=
  let d := x.d
  let m := d.mode.internal
  if d.paged then
    match s.kvOf h with
    | none => ([], s.fail h 6)
    | some k =>
      match (s.run h).expanded.find? (fun b => b.1 == j) with
      | some b =>
        let d0 := { d with exp := 0 }
        let eb := d0.entryBytes
        ((List.range 128).map (fun t => (List.range d.kvh).map (fun c => entryKv d0 [] c ((b.2.drop (t * eb)).take eb))), s)
      | none =>
        let (b, s1) := s.pagedBlock h loc x k j
        ((List.range 128).map (fun t => (List.range d.kvh).map (fun c => entryKv d up c ((b.drop (t * k.e)).take k.e))), s1)
  else
    let cnt := min 128 (x.e.kLen - 128 * j)
    let kb := rowBytes d.fb d.dk
    let vb := rowBytes d.fb d.dv
    let (kr, s1) := s.denseRows h loc x.n (d.slot 1) (d.kvh * kb) (x.e.kv % 2 ^ 32 + 128 * j) cnt
    let (vr, s2) := s1.denseRows h loc x.n (d.slot 8) (d.kvh * vb) (x.e.kv % 2 ^ 32 + 128 * j) cnt
    ((List.zip kr vr).map (fun y => (List.range d.kvh).map (fun c =>
      (rowVals m d.fb d.dk ((y.1.drop (c * kb)).take kb), rowVals m d.fb d.dv ((y.2.drop (c * vb)).take vb)))) ++
      List.replicate (128 - cnt) [], s2)
/-- Keys and values of several blocks. -/
def blocksRows (h loc : Nat) (x : AttnJob) (up : List (List Word)) (s : State) :
    List Nat → List (Nat × List (List (List Word × List Word))) × State
  | [] => ([], s)
  | j :: t =>
    let (b, s1) := s.blockRows h loc x up j
    if s1.stopped h then ([], s1)
    else let (l, s2) := blocksRows h loc x up s1 t; ((j, b) :: l, s2)
/-- Query rows as heads of FP32 words. -/
def State.queryRows (s : State) (h loc : Nat) (x : AttnJob) (slot width : Nat) : List (List (List Word)) × State :=
  let rb := rowBytes x.d.fa width
  let (l, s1) := s.denseRows h loc x.n slot (x.d.heads * rb) x.row0 x.rows
  (l.map (fun b => (List.range x.d.heads).map (fun c => rowVals x.d.mode.internal x.d.fa width ((b.drop (c * rb)).take rb))), s1)
/-- The first `n` bytes of each head's part of a bias table; entries of negative distances are read only where the table has
them (R213). -/
def State.biasRows (s : State) (h loc : Nat) (o : Operand) (n : Nat) : Nat → Nat → List (List Byte) × State
  | _, 0 => ([], s)
  | i, m + 1 =>
    match s.opRead h loc o (512 * i) n with
    | (some b, s1) => let (l, s2) := s1.biasRows h loc o n (i + 1) m; (b :: l, s2)
    | (none, s1) => ([], s1)
/-- Bias entries of every head, and the bitmap rows. -/
def State.maskRows (s : State) (h loc : Nat) (x : AttnJob) : List (List Word) × List (List Byte) × State :=
  let (bt, s1) := if x.d.mask = 1 ∨ x.d.mask = 3 then
      match x.n.op (x.d.slot 6) with
      | some o => s.biasRows h loc o (if x.d.signed then 512 else 256) 0 x.d.heads
      | none => ([], s.fail h 6)
    else ([], s)
  let (bm, s2) := if x.d.mask = 2 ∨ x.d.mask = 3 then
      match x.n.op (x.d.slot 7) with
      | some o => (List.range x.e.qLen).foldl (fun (a : List (List Byte) × State) i =>
          match a.2.opRead h loc o (x.e.bmOfs + i * x.d.bmStride) x.d.bmStride with
          | (some b, s') => (a.1 ++ [b], s')
          | (none, s') => (a.1, s')) ([], s1)
      | none => ([], s1.fail h 6)
    else ([], s1)
  (bt.map (fun b => (unpackRow 1 256 b).map (toFp32 1)), bm, s2)
/-- The context of row i and head. -/
def AttnJob.rowCtx (x : AttnJob) (bt : List (List Word)) (bm : List (List Byte)) (i hd : Nat) : RowCtx :=
  ⟨x.e.qPos + i, x.e.kLen, bt.getD hd [], bm.getD i []⟩
/-- The partials of one block for rows and key-value heads `c0` to `c0 + nc - 1`, as a node of one block. -/
def AttnJob.blockNode (x : AttnJob) (q : List (List (List Word))) (bt : List (List Word)) (bm : List (List Byte))
    (c0 nc : Nat) (b : Nat × List (List (List Word × List Word))) : AttnNode :=
  { first := b.1, count := 1, kvh := c0, heads := nc
    parts := q.zipIdx.flatMap (fun r => (List.range nc).flatMap (fun c => (List.range x.d.group).map (fun g =>
      let hd := (c0 + c) * x.d.group + g
      blockOf x.d (x.rowCtx bt bm r.2 hd) b.1 (r.1.getD hd []) (b.2.map (fun kv => kv.getD (c0 + c) ([], [])))))) }
/-- The partial of row i and head of a node. -/
def AttnNode.at_ (a : AttnNode) (group i c g : Nat) : AttnPart :=
  a.parts.getD ((i * a.heads + (c - a.kvh)) * group + g) (emptyPart 0)
/-- Inserts a node by its first block. -/
def insertNode (a : AttnNode) : List AttnNode → List AttnNode
  | [] => [a]
  | b :: t => if a.first < b.first then a :: b :: t else b :: insertNode a t
/-- The tree's result for a row and head over nodes in order (R209). -/
def AttnJob.result (x : AttnJob) (l : List AttnNode) (i hd : Nat) : AttnPart :=
  let c := hd / max 1 x.d.group
  joinNodes x.d.mode.internal x.d.dv
    ((l.filter (fun a => decide (a.kvh ≤ c ∧ c < a.kvh + a.heads))).map (fun a =>
      (a.count, a.at_ x.d.group i c (hd % max 1 x.d.group))))
/-- Writes the output rows and the LSE (R210). -/
def attnOut (h : Nat) (x : AttnJob) (l : List AttnNode) (s : State) : Nat → Nat → Cnts × Nat → State × Cnts × Nat
  | 0, _, acc => (s, acc)
  | k + 1, i, acc =>
    let d := x.d
    let ps := (List.range d.heads).map (x.result l i)
    let dw : DriftWord := ⟨d.drift⟩
    let o := outRow d.mode (s.drawCtx h dw) 255 (i * d.heads * d.dv)
      (ps.flatMap (attnRow d.mode.internal))
    let c0 : Cnts := { o.cnt with infgen := o.cnt.infgen + sumMap (fun p => p.vec) ps }
    let w (s : State) (slot rb : Nat) (b : List Byte) : State :=
      match x.n.op slot with
      | some op => s.rowWrite h op rb (x.row0 + i) b
      | none => s.fail h 6
    let s1 := w s (d.slot 3) (rowBytes d.mode.fmtOut (d.heads * d.dv)) (packRow d.mode.fmtOut o.codes)
    let s2 := if d.saveLse then
        w s1 (d.slot 4) (4 * d.heads) (packRow 0 (ps.map (fun p => (attnLse d.mode.internal p).toNat))) else s1
    attnOut h x l (s2.countMat h 0 { infgen := sumMap (fun p => p.mat) ps }) k (i + 1) (acc.1.add c0, acc.2 + o.evals)

/-! Work for cistern engines (R215 to R217). -/

/-- The sequence runs on cistern engines (R215). -/
def AttnDesc.onCistern (d : AttnDesc) (qLen : Nat) : Bool :=
  d.paged && ((d.place == 2 && decide (qLen ≤ 16)) || (d.place == 0 && decide (qLen ≤ 4)))
/-- Blocks whose positions are all committed to pages. -/
def State.committed (s : State) (h : Nat) (kLen : Nat) : Nat :=
  let v := (s.strm h).kv
  match v.staging with
  | some _ => min (v.ctx / 128) ((kLen + 127) / 128)
  | none => (kLen + 127) / 128
/-- The page of block j for a job's layer. -/
def State.jobPage (s : State) (x : AttnJob) (k : KvDecl) (j : Nat) : Nat :=
  (kvEntry (s.num (x.e.kv + 4 * (k.listBlock j * k.groups + x.layer / k.lpg)) 4)).loc
/-- The runs of the committed blocks that this package holds, each in one channel (R216). -/
def State.jobRuns (s : State) (h : Nat) (x : AttnJob) (k : KvDecl) : List (Nat × Nat) :=
  let n := s.committed h x.e.kLen
  (cutRuns (fun j => if s.ownBlock h k j then s.jobPage x k j / 2 ^ 17 else 2 ^ 32 + j) n (n + 1) 0).filter
    (fun r => s.ownBlock h k r.1)
/-- The items of a node: one for each run and set of up to 4 key-value heads for ATTN, one for each run for EXPAND. -/
def State.jobItems (s : State) (h : Nat) (x : AttnJob) (k : KvDecl) (op : Nat) : List WorkItem :=
  (s.jobRuns h x k).flatMap (fun r => (List.range (if op = 0 then (x.d.kvh + 3) / 4 else 1)).map (fun c =>
    let i : WorkItem :=
      { op := op, cluster := s.clOf h, prio := s.effCls h, ticked := s.grainBound h, handle := s.handleOf h,
        src := frameAddr (s.jobPage x k r.1), compl := noRecord, length := r.2 * 128 * k.e, param := r.1,
        param2 := r.2 + 2 ^ 32 * (4 * c) + 2 ^ 48 * (if op = 0 then min 4 (x.d.kvh - 4 * c) else x.d.kvh) }
    i))
def giveItems (s : State) : List WorkItem → State
  | [] => s
  | i :: t => giveItems (s.giveItem i.engine i) t

/-! The forward pass. -/

/-- The smallest power of two at least n. -/
def pow2From : Nat → Nat → Nat → Nat
  | 0, p, _ => p
  | f + 1, p, n => if n ≤ p then p else pow2From f (2 * p) n
/-- Bytes of a sequence's page list that its blocks below K_LEN reach. -/
def State.listBytes (s : State) (h kLen : Nat) : Nat :=
  match s.kvOf h with
  | none => 0
  | some k => 4 * k.groups * (((List.range ((kLen + 127) / 128)).filter (s.ownBlock h k)).map (fun j => k.listBlock j + 1)).foldl max 0
/-- The checks of R222 on one entry. An entry without rows has none that lie anywhere; in a bucketed step every sequence has
`bk` rows. -/
def State.entryOk (s : State) (h : Nat) (n : NodeRec) (d : AttnDesc) (bk : Nat) (i : Nat) (e : LenEntry) : Bool :=
  let cl := s.clOf h
  let len (slot : Nat) : Nat := (((n.op slot).bind (s.opRange cl)).map (fun r => r.2)).getD 0
  let r1 := if d.bucketed then (i + 1) * bk else e.qOfs + e.qLen
  let rows (slot rb : Nat) : Bool := decide (r1 * rb ≤ len (d.slot slot))
  let keys (slot rb : Nat) : Bool := decide ((e.kv % 2 ^ 32 + e.kLen) * rb ≤ len (d.slot slot))
  let q := d.heads * rowBytes d.fa d.dk
  let v := d.heads * rowBytes d.fa d.dv
  decide (e.qLen ≤ 65535) && decide (e.kLen ≤ d.maxCtx) &&
  (e.qLen == 0 || (decide (r1 ≤ d.maxRows) && rows 0 q &&
    (if d.back then rows 3 v && rows 9 v && rows 4 (4 * d.heads) && rows 10 (rowBytes d.mode.fmtOut (d.heads * d.dk))
     else rows 3 (rowBytes d.mode.fmtOut (d.heads * d.dv)) && (!d.saveLse || rows 4 (4 * d.heads))) &&
    (d.mask < 2 || (decide (e.bmOfs + e.qLen * d.bmStride ≤ len (d.slot 7)) && decide ((e.kLen + 7) / 8 ≤ d.bmStride))))) &&
  (d.paged || e.kLen == 0 || (keys 1 (d.kvh * rowBytes d.fb d.dk) && keys 8 (d.kvh * rowBytes d.fb d.dv) &&
    (!d.back || (keys 11 (rowBytes d.mode.fmtOut (d.kvh * d.dk)) && keys 2 (rowBytes d.mode.fmtOut (d.kvh * d.dv)))))) &&
  (!d.paged || d.place == 1 || (inOnePlace e.kv (s.listBytes h e.kLen) && (match placeOf e.kv with | .dram _ => true | _ => false)))
/-- The length table of a node; none where it cannot be read. -/
def State.lenTable (s : State) (h loc : Nat) (n : NodeRec) (slot : Nat) : Option (List LenEntry) × State :=
  match (n.op slot).bind (s.opRange (s.clOf h)) with
  | none => (none, s.fail h 6)
  | some (a, len) =>
    let r := s.readCtl loc a (len / 32 * 32)
    if r.failed then (none, r.st.fail h 6)
    else (some ((List.range (len / 32)).map (fun i => lenEntry ((r.bytes.drop (32 * i)).take 32))), r.st)
/-- The job of a stream's own sequence in a table, if it has rows. -/
def State.attnJob (s : State) (h : Nat) (n : NodeRec) (d : AttnDesc) (layer : Nat) (es : List LenEntry) : Option AttnJob :=
  let bk := pow2From 32 1 ((es.map (fun e => e.qLen)).foldl max 1)
  (es.zipIdx.find? (fun y => y.1.handle == s.handleOf h && y.1.qLen != 0)).map (fun y =>
    { n := n, d := d, layer := layer, e := y.1, row0 := if d.bucketed then y.2 * bk else y.1.qOfs,
      rows := if d.bucketed then bk else y.1.qLen,
      keys := if d.bucketed then pow2From 32 1 ((es.map (fun e => e.kLen)).foldl max 1) else y.1.kLen })
/-- Waits for others. -/
def State.waitFor (s : State) (h : Nat) (w : StepWait) : State :=
  let r := s.run h
  s.setRun h { r with
    wait := w
    waitTb := if w = .done then r.waitTb else s.tb.toNat }
/-- Blocks of a job that other members hold and that have not come: for one row no node covers them, for more no ring
block has brought them (R254, R255; the split by Q_LEN is a DESIGN CHOICE, log 23). -/
def State.membersMissing (s : State) (h : Nat) (x : AttnJob) (k : KvDecl) : Bool :=
  (List.range ((x.e.kLen + 127) / 128)).any (fun j => !s.ownBlock h k j &&
    !(if x.e.qLen ≤ 1 then (s.run h).parts.any (fun a => decide (a.first ≤ j ∧ j < a.first + a.count))
      else (s.strm h).kv.ringBlocks.any (fun b => b.1 == x.layer && b.2.1 == j)))
/-- A ring node begins to wait: its member has sent its own blocks of the layer (R255). -/
def State.beginRing (s : State) (h : Nat) (x : AttnJob) (k : KvDecl) : State :=
  if x.e.qLen ≤ 1 then s
  else
    let v := (s.strm h).kv
    let mine := ((List.range ((x.e.kLen + 127) / 128)).filter (s.ownBlock h k)).map (fun j => (x.layer, j))
    (s.setKv h { v with ring := true, ringSent := v.ringSent ++ mine.filter (fun b => !v.ringSent.contains b) }).showRing
/-- A step that ends leaves its ring. -/
def State.endRing (s : State) (h : Nat) : State :=
  let v := (s.strm h).kv
  if v.st = .none then s
  else (s.setKv h { v with ring := false, ringBlocks := [], ringSent := [], ready := [], ringLost := false }).showRing
/-- Row and key pairs that a cluster works on (R219): for each query block of 64 rows, the keys of the blocks among `mine`
that are not wholly masked for all of its rows by causality or by the keys there are. -/
def AttnJob.pairs (x : AttnJob) (mine : Nat → Bool) : Nat :=
  sumMap (fun b =>
    let n := min 64 (x.rows - 64 * b)
    let last := x.e.qPos + 64 * b + n - 1
    n * sumMap (fun j => if mine j && (!x.d.causal || decide (128 * j ≤ last)) then min 128 (x.keys - 128 * j) else 0)
      (List.range ((x.keys + 127) / 128))) (List.range ((x.rows + 63) / 64))
/-- Overflows of the pad rows of a bucketed step, which are computed and not written (R223). -/
def AttnJob.padVec (x : AttnJob) (l : List AttnNode) (f : AttnPart → Nat) : Nat :=
  sumMap (fun i => sumMap (fun hd => f (x.result l (x.e.qLen + i) hd)) (List.range x.d.heads)) (List.range (x.rows - x.e.qLen))
/-- Computes a job on its cluster, with what items and members have given, and writes its rows. -/
def State.attnFinish (s : State) (h : Nat) (x : AttnJob) : State :=
  let cl := s.clOf h
  let loc := s.clLoc cl 1 0
  let nb := (x.e.kLen + 127) / 128
  let given := (s.run h).parts
  let mine := (List.range nb).filter (fun j => !given.any (fun a => decide (a.first ≤ j ∧ j < a.first + a.count)) &&
    (!x.d.causal || decide (128 * j < x.e.qPos + x.rows)))
  let (q, s1) := s.queryRows h loc x (x.d.slot 0) x.d.dk
  let (bt, bm, s2) := s1.maskRows h loc x
  let (up, s3) := s2.upRows h loc x
  let (bs, s4) := blocksRows h loc x up s3 mine
  if s4.stopped h then s4
  else
    let nodes := (bs.map (x.blockNode q bt bm 0 x.d.kvh)).foldl (fun l a => insertNode a l) (given.foldl (fun l a => insertNode a l) [])
    let pairs := x.pairs (fun j => !given.any (fun a => decide (a.first ≤ j ∧ j < a.first + a.count)))
    let raw := sumMap (fun b => if (s4.run h).expanded.any (fun y => y.1 == b.1) then 0 else b.2.length) bs
    let up := if x.d.exp = 1 then raw * x.d.kvh * (x.d.dk + x.d.dv) * x.d.latent else 0
    let pad : Cnts := { infgen := x.padVec nodes (fun p => p.mat) }
    let padv : Cnts := { infgen := x.padVec nodes (fun p => p.vec) }
    let s4 := s4.countMat h (pairs * x.d.heads * (x.d.dk + x.d.dv) + up) pad
    let (s5, c, e) := attnOut h x nodes s4 x.e.qLen 0 ({}, 0)
    let r := s5.run h
    ((s5.setRun h { r with parts := [], expanded := [], sent := false }).countVec cl (x.e.qLen * x.d.heads * x.d.dv) (c.add padv)).countDrift cl e 0
/-- An entry of the job's list, for one of its blocks `a` to `a + n - 1`, lies in the swap pool (R227). -/
def State.jobSwapped (s : State) (h : Nat) (x : AttnJob) (k : KvDecl) (a n : Nat) : Bool :=
  (List.range n).any (fun i => s.ownBlock h k (a + i) &&
    (kvEntry (s.num (x.e.kv + 4 * (k.listBlock (a + i) * k.groups + x.layer / k.lpg)) 4)).kind == 2)
/-- A step that meets a swapped page waits for the restore, or ends CACHE_FULL (R227, R252). -/
def State.awaitRestore (s : State) (h : Nat) : State :=
  if (s.strm h).kv.st = .restore then s.waitFor h .pages
  else
    let (full, s1) := s.askRestore h
    if full then s1.fail h 3 else s1.waitFor h .pages
/-- A forward attention node: its table is checked, cistern engines are given their items, members are waited for, and
then the cluster computes the rest. -/
def State.nodeAttn (s : State) (h : Nat) (n : NodeRec) (dsc : BitVec 512) (layer : Nat) : State :=
  let d := attnDesc dsc
  let loc := s.clLoc (s.clOf h) 1 0
  match s.lenTable h loc n (d.slot 5) with
  | (none, s1) => s1
  | (some es, s1) =>
    let bk := pow2From 32 1 ((es.map (fun e => e.qLen)).foldl max 1)
    if d.maxSeqs < es.length ∨ !(es.zipIdx.all (fun y => s1.entryOk h n d bk y.2 y.1)) then s1.fail h 8
    else if es.all (fun e => e.qLen == 0) then s1.note h 7
    else match s1.attnJob h n d layer es with
      | none => s1
      | some x =>
        let r := s1.run h
        if d.paged ∧ (s1.strm h).kv.ctx + r.kvRows.getD 0 < x.e.kLen then s1.fail h 8
        else
          match if d.paged then s1.kvOf h else none with
          | none => s1.attnFinish h x
          | some k =>
            let c := s1.readCtl loc x.e.kv (s1.listBytes h x.e.kLen)
            if s1.listBytes h x.e.kLen ≠ 0 ∧ c.failed then c.st.fail h 6
            else if s1.jobSwapped h x k 0 ((x.e.kLen + 127) / 128) then s1.awaitRestore h
            else
            let op := if d.onCistern x.e.qLen then some 0 else if d.exp = 1 then some 1 else none
            let items := match op with | some o => if r.sent then [] else s1.jobItems h x k o | none => []
            if !items.isEmpty then
              ((giveItems s1 items).setRun h { r with sent := true, jobs := items.length }).waitFor h .items
            else if k.spread ∧ s1.membersMissing h x k then (s1.beginRing h x k).waitFor h .members
            else
              let s2 := s1.attnFinish h x
              s2.setKv h { (s2.strm h).kv with ready := [] }

/-! What ATTN and EXPAND items do (R216, R217). -/

/-- The attention node that a stream's step is at. -/
def State.jobOf (s : State) (h : Nat) : Option AttnJob :=
  (s.graphOf (s.strm h).graph).bind (fun g =>
    (g.nodes[(s.run h).node]?).bind (fun n => match n.node with
      | .attention dsc =>
        let d := attnDesc dsc
        ((s.lenTable h 0 n (d.slot 5)).1).bind (fun es => s.attnJob h n d (g.layerOf (s.run h).node) es)
      | _ => none))
/-- An ATTN item: reads its pages, forms and merges the partials, and delivers the run's node. -/
def State.attnItem (s : State) (h loc : Nat) (i : WorkItem) : State :=
  match s.jobOf h with
  | none => s
  | some x =>
    let cnt := bitsAt i.param2 0 32
    let c0 := bitsAt i.param2 32 16
    let nc := bitsAt i.param2 48 16
    let (q, s1) := s.queryRows h loc x (x.d.slot 0) x.d.dk
    let (bt, bm, s2) := s1.maskRows h loc x
    let (up, s3) := s2.upRows h loc x
    let (bs, s4) := blocksRows h loc x up s3 ((List.range cnt).map (fun j => i.param + j))
    if s4.stopped h then s4
    else
      let nodes := bs.map (x.blockNode q bt bm c0 nc)
      let parts := (List.range (q.length * nc * x.d.group)).map (fun p =>
        joinNodes x.d.mode.internal x.d.dv (nodes.map (fun a => (1, a.parts.getD p (emptyPart x.d.dv)))))
      let r := s4.run h
      -- a cistern engine has no counter of overflows
      let node : AttnNode :=
        { first := i.param
          count := cnt
          kvh := c0
          heads := nc
          parts := parts.map (fun p => { p with mat := 0, vec := 0 }) }
      s4.setRun h { r with parts := r.parts ++ [node] }
/-- An EXPAND item: expanded keys and values of its pages, entry by entry, in the layout of EXP 0. -/
def State.expandItem (s : State) (h loc : Nat) (i : WorkItem) : State :=
  match s.jobOf h with
  | none => s
  | some x =>
    let (up, s1) := s.upRows h loc x
    let (bs, s2) := blocksRows h loc x up s1 ((List.range (bitsAt i.param2 0 32)).map (fun j => i.param + j))
    if s2.stopped h then s2
    else
      let enc (l : List Word) : List Byte := packRow x.d.fb (l.map (convertRne x.d.fb))
      let new := bs.map (fun b => (b.1, b.2.flatMap (fun kv => kv.flatMap (fun y => enc y.1) ++ kv.flatMap (fun y => enc y.2))))
      let r := s2.run h
      s2.setRun h { r with expanded := r.expanded ++ new }

/-! The backward pass (R224 to R226). -/

/-- One row and head of the backward pass: for every key its probability and score gradient; none where the key is masked or
the row contributes nothing (R225). -/
def backRow (d : AttnDesc) (r : RowCtx) (lse : Word) (q o dO : List Word) (kv : List (List Word × List Word)) :
    List (Option (Word × Word)) × Cnts × Cnts :=
  let m := d.mode.internal
  let dd := dot32 m dO o
  let es := kv.zipIdx.map (fun x =>
    let y := dot32 m q x.1.1
    let sc := attnScore m d.scale y.1 (d.biasOf r x.2)
    if d.masked r x.2 || sc.1 == inf32 true || isNan32 lse || lse == inf32 true then (none, 0, 0)
    else
      let p := backP m sc.1 lse
      let dp := dot32 m dO x.1.2
      let ds := backDs m (pfmtCode d.pf) d.scale p.1 dp.1 dd.1
      (some (toFp32 (pfmtCode d.pf) (convertRne (pfmtCode d.pf) p.1), ds.1), y.2 + dp.2, sc.2 + p.2 + ds.2))
  (es.map (·.1), { infgen := sumMap (fun e => e.2.1) es }, { infgen := dd.2 + sumMap (fun e => e.2.2) es })
/-- Writes gradient rows: `w` elements a row, converted under the node's draws with its tensor advanced by `k`. -/
def gradRows (h : Nat) (x : AttnJob) (slot k row0 : Nat) (s : State) : Nat → List (List (Word × Nat)) → State
  | _, [] => s
  | i, ys :: t =>
    let dw : DriftWord := ⟨x.d.drift⟩
    let dc := { s.drawCtx h dw with tensor := (dw.tensor + k) % 2 ^ 16 }
    let o := outRow x.d.mode dc 255 (i * ys.length) (ys.map (fun y => (y.1, 0)))
    let s1 := match x.n.op slot with
      | some op => s.rowWrite h op (rowBytes x.d.mode.fmtOut ys.length) (row0 + i) (packRow x.d.mode.fmtOut o.codes)
      | none => s.fail h 6
    let s2 := s1.countMat h 0 { infgen := sumMap (fun y => y.2) ys }
    gradRows h x slot k row0 ((s2.countVec (s.clOf h) ys.length o.cnt).countDrift (s.clOf h) o.evals 0) (i + 1) t
/-- The gradients of one sequence. -/
def State.attnBack (s : State) (h : Nat) (x : AttnJob) : State :=
  let d := x.d
  let m := d.mode.internal
  let loc := s.clLoc (s.clOf h) 1 0
  let (q, s1) := s.queryRows h loc x (d.slot 0) d.dk
  let (o, s2) := s1.queryRows h loc x (d.slot 3) d.dv
  let (dO, s3) := s2.queryRows h loc x (d.slot 9) d.dv
  let (lb, s4) := s3.denseRows h loc x.n (d.slot 4) (4 * d.heads) x.row0 x.e.qLen
  let (bt, bm, s5) := s4.maskRows h loc x
  let nb := (x.e.kLen + 127) / 128
  let (bs, s6) := blocksRows h loc x [] s5 ((List.range nb).filter (fun j => !d.causal || decide (128 * j < x.e.qPos + x.e.qLen)))
  if s6.stopped h then s6
  else
    let keys := ((List.range nb).flatMap (fun j =>
      ((bs.find? (fun b => b.1 == j)).map (fun b => b.2)).getD (List.replicate 128 []))).take x.e.kLen
    let kvs (c : Nat) : List (List Word × List Word) := keys.map (fun kv => kv.getD c ([], []))
    let lse (i hd : Nat) : Word := BitVec.ofNat 32 ((unpackRow 0 d.heads (lb.getD i [])).getD hd 0)
    let g (l : List (List (List Word))) (i hd : Nat) : List Word := (l.getD i []).getD hd []
    let ps := (List.range x.e.qLen).map (fun i => (List.range d.heads).map (fun hd =>
      backRow d (x.rowCtx bt bm i hd) (lse i hd) (g q i hd) (g o i hd) (g dO i hd) (kvs (hd / max 1 d.group))))
    let pd (i hd k : Nat) : Option (Word × Word) := (((ps.getD i []).getD hd ([], {}, {})).1).getD k none
    -- a masked key contributes +0 to every sum, whatever the other factor
    let fac (o : Option (Word × Word)) (sel : Word × Word → Word) (w : Word) : Word × Word :=
      match o with | some p => (sel p, w) | none => (0, 0)
    let dots (l : List (Word × Word)) : Word × Nat := dot32 m (l.map (·.1)) (l.map (·.2))
    let mat : Cnts := ps.flatten.foldl (fun c r => c.add r.2.1) {}
    let vec : Cnts := ps.flatten.foldl (fun c r => c.add r.2.2) {}
    -- five products for each row, head and key (R226)
    let macs := x.pairs (fun _ => true) * d.heads * (3 * d.dk + 2 * d.dv)
    let s7 := (s6.countMat h macs mat).countVec (s.clOf h) 0 vec
    let dq := (List.range x.e.qLen).map (fun i => (List.range d.heads).flatMap (fun hd => (List.range d.dk).map (fun e =>
      (dots ((kvs (hd / max 1 d.group)).zipIdx.map (fun k => fac (pd i hd k.2) (fun p => p.2) (k.1.1.getD e 0)))))))
    let gi := (List.range d.group).flatMap (fun gm => (List.range x.e.qLen).map (fun i => (gm, i)))
    let acc (k c w : Nat) (sel : Word × Word → Word) (src : List (List (List Word))) : List (Word × Nat) :=
      (List.range w).map (fun e => dots (gi.map (fun y =>
        fac (pd y.2 (c * d.group + y.1) k) sel ((g src y.2 (c * d.group + y.1)).getD e 0))))
    let dk := (List.range keys.length).map (fun k => (List.range d.kvh).flatMap (fun c => acc k c d.dk (fun p => p.2) q))
    let dv := (List.range keys.length).map (fun k => (List.range d.kvh).flatMap (fun c => acc k c d.dv (fun p => p.1) dO))
    let k0 := x.e.kv % 2 ^ 32
    gradRows h x (d.slot 2) 2 k0 (gradRows h x (d.slot 11) 1 k0 (gradRows h x (d.slot 10) 0 x.row0 s7 0 dq) 0 dk) 0 dv
/-- A backward attention node. -/
def State.nodeBack (s : State) (h : Nat) (n : NodeRec) (dsc : BitVec 512) : State :=
  let d := attnDesc dsc
  match s.lenTable h (s.clLoc (s.clOf h) 1 0) n (d.slot 5) with
  | (none, s1) => s1
  | (some es, s1) =>
    let bk := pow2From 32 1 ((es.map (fun e => e.qLen)).foldl max 1)
    if d.maxSeqs < es.length ∨ !(es.zipIdx.all (fun y => s1.entryOk h n d bk y.2 y.1)) then s1.fail h 8
    else if es.all (fun e => e.qLen == 0) then s1.note h 7
    else match s1.attnJob h n d 0 es with
      | none => s1
      | some x => s1.attnBack h x

end Sys2Proof.Machine
end

