-- ==== Sys2Proof/Machine/Exec.lean ====
section
/-!
DEFINITION. The execution of a step: its cache's pages and restore (R244, R249, R252), kernel and Caravan nodes (R143, R181),
and the run through its nodes, which stops where the step waits and goes on from there.
-/

namespace Sys2Proof.Machine

/-! The cache of a step. -/

/-- Copies the first `fill` positions of a page into another: COPY items of the new page's engine on one die, an Oasis
transfer between dies, whose engine is a free value (R244, log 4). Both take no time here (DESIGN CHOICE, log 39). -/
def State.copyPage (s : State) (k : KvDecl) (fill src dst : Nat) : State :=
  let e := bitsAt dst 17 7
  let runs := spanRuns k 0 fill
  let s1 := runs.foldl (fun u x =>
    let r := u.readRuns u.oasisReader (pageRuns src x.1 x.2)
    r.st.writePage u.oasisReader dst x.1 r.bytes) s
  let n := sumMap (fun x => x.2) runs
  if src / 2 ^ 22 = dst / 2 ^ 22 then
    (s1.bump64 (Reg.CIS_ITEMS_LO e) (sumMap (fun x => (pageRuns dst x.1 x.2).length) runs)).bump64 (Reg.CIS_BYTES_LO e)
      (if bitsAt src 17 7 = e then n else 0)
  else
    let (z, s2) := s1.free
    let o := 96 + z.toNat % 8
    (s2.bump64 (Reg.CAR_RD_LO o) n).bump64 (Reg.CAR_WR_LO o) n
/-- Puts copies of a shared block's pages in the list: the pages set aside replace the shared ones (R244). -/
def copyBack (h : Nat) (k : KvDecl) (s : State) : List (Nat × Nat) → State
  | [] => s
  | (i, f) :: t =>
    let fill := match (s.strm h).kv.recOf (i / k.groups) with | some r => s.num (r + 25) 1 | none => 128
    let s1 := s.copyPage k fill (s.kvEnt h i).loc f
    copyBack h k ((s1.setKvEnt h i ⟨1, false, f⟩).count Reg.KVC_COW 1 Reg.KVC_INT_STATUS 4) t
/-- Drops a block's record from what a sequence holds. -/
def State.forgetRec (s : State) (h j : Nat) : State :=
  let v := (s.strm h).kv
  s.setKv h { v with recs := v.recs.filter (fun x => x.1 != j) }
/-- Entries that the positions `ctx` to `ctx + q - 1` need: those of EMPTY pages, and those of a shared block that is
appended to (R244, R249). -/
def State.stepEntries (s : State) (h q : Nat) (k : KvDecl) : List Nat :=
  let v := (s.strm h).kv
  let blocks := (List.range ((v.ctx + q + 127) / 128 - v.ctx / 128)).map (fun i => v.ctx / 128 + i)
  (blocks.filter (s.ownBlock h k)).flatMap (fun j => (List.range k.groups).filterMap (fun g =>
    let i := k.listBlock j * k.groups + g
    if (s.kvEnt h i).kind = 0 then some i
    else if (s.kvEnt h i).shared && (match v.recOf (k.listBlock j) with | some r => decide (1 < s.refCnt r) | none => false) then some i
    else none))
/-- What appending to a block whose record this sequence alone holds does: the pages become private (R244). -/
def State.takeBack (s : State) (h : Nat) (k : KvDecl) : State :=
  let j := k.listBlock ((s.strm h).kv.ctx / 128)
  match (s.strm h).kv.recOf j with
  | some r => if s.refCnt r ≤ 1 then
      (shareEntries h j false k.groups (s.retireRec r) (List.range k.groups)).forgetRec h j else s
  | none => s
/-- Once its pages are had, copies of a shared block take their place. -/
def State.useGranted (s : State) (h : Nat) (k : KvDecl) : State :=
  let v := (s.strm h).kv
  if v.granted = [] then s
  else
    let j := k.listBlock (v.ctx / 128)
    let s1 := copyBack h k s v.granted
    let s2 := match v.recOf j with | some r => s1.dropHolder k.frames r | none => s1
    let s3 := s2.setKv h { (s2.strm h).kv with granted := [] }
    s3.forgetRec h j
/-- The cache declaration's node. -/
def Graph.cacheRec (g : Graph) : Option NodeRec := g.nodes.find? (fun r => match r.node with | .cache _ => true | _ => false)
/-- The rows of the step's length table that belong to the sequence, and the rows before them (R238). -/
def State.stepRows (s : State) (h : Nat) (g : Graph) (k : KvDecl) : Option (Nat × Nat) × State :=
  match g.cacheRec with
  | none => (none, s.fail h 6)
  | some n =>
    match s.lenTable h (s.clLoc (s.clOf h) 1 0) n k.sLen with
    | (none, s1) => (none, s1)
    | (some es, s1) => (some (((es.find? (fun e => e.handle == s.handleOf h)).map (fun e => e.qLen)).getD 0,
        sumMap (fun e => e.qLen) (es.takeWhile (fun e => e.handle != s.handleOf h))), s1)
/-- Before a node that touches the cache: a staging set and the pages of the step's new positions. A step that cannot have
them waits, or ends CACHE_FULL; one whose set was flushed at a yield gets it back (R228). The list and the record of the
block it appends to are read as control structures (R170). -/
def State.readyCache (s : State) (h : Nat) (g : Graph) (k : KvDecl) : State :=
  let r := s.run h
  if r.kvRows.isSome then (if (s.strm h).kv.staging.isNone then s.stage h else s)
  else match s.stepRows h g k with
    | (none, s1) => s1
    | (some (q, r0), s1) =>
      let v := (s1.strm h).kv
      let (ok, s2) := s1.listRead (s.clLoc (s.clOf h) 5 0) h (v.ctx + q)
      let c := match v.recOf (k.listBlock (v.ctx / 128)) with
        | some r => s2.readCtl s2.oasisReader r 1024
        | none => ⟨[], 0, false, s2⟩
      if k.maxCtx < v.ctx + q then s1.fail h 8
      else if !ok then s2.fail h 6
      else if c.failed then c.st.fail h 6
      else
        let s3 := c.st.stage h
        let s2 := if q = 0 then s3 else s3.takeBack h k
        let go (s : State) : State :=
          let s' := s.useGranted h k
          let r' := s'.run h
          s'.setRun h { r' with kvRows := some q, kvRow0 := r0, wait := .run, sent := false }
        if (s2.run h).sent then (if (s2.strm h).kv.need.isEmpty then go s2 else s2.waitFor h .pages)
        else
          let l := s2.stepEntries h q k
          if l.isEmpty ∨ q = 0 then go s2
          else
            let (full, s3) := s2.wantPages h l
            if full then s3.fail h 3
            else if (s3.strm h).kv.need.isEmpty then go s3
            else
              let r' := s3.run h
              (s3.setRun h { r' with sent := true }).waitFor h .pages
/-! Kernel nodes (R142, R143, R146). -/

/-- Ranges that an operand table grants, as device-local addresses. -/
def State.grants (s : State) (cl : Nat) (n : NodeRec) : List (Nat × Nat) := 
  n.ops.flatMap (fun o => match s.opRange cl o with | some (_, n) => (s.opPieces cl o 0 n).getD [] | none => [])
/-- Bytes from an address as a canonical map. -/
def memFrom (a : Nat) (l : List Byte) : AMap Byte :=
  (l.zipIdx.filter (fun x => x.1 != 0)).map (fun x => (a + x.2, x.1))
/-- Invocations of a cluster, running or saved. -/
def State.invsOf (s : State) (cl : Nat) : List Invocation :=
  (coresOf cl).filterMap (fun n => (s.core n).inv) ++
    (s.savedCores.filter (fun x => x.2.1 == cl)).filterMap (fun x => x.2.2.inv)
/-- The first row and the rows of core i of c (R143): contiguous runs, the earlier ones at most one row longer. -/
def rowShare (rows c i : Nat) : Nat × Nat :=
  let q := rows / max 1 c
  let m := rows % max 1 c
  (i * q + min i m, q + if i < m then 1 else 0)
/-- Where the initial data and the argument block lie in local memory, and the top of the stack (log 25). -/
def dataBase (k : Kernel) : Nat := (k.text.length + 7) / 8 * 8
def argBase (k : Kernel) (args : Nat) : Nat := (0x10000 - k.stack - args) / 16 * 16
/-- A core at the start of an invocation. -/
def startCore (k : Kernel) (x : KernelNode) (v : Invocation) (tick row rows : Nat) : Core :=
  let a0 := argBase k x.args.length
  { pc := BitVec.ofNat 64 k.entry
    x := (((AMap.write (fun _ => 0) [] 2 0x10000#64 |>.write (fun _ => 0) 10 (BitVec.ofNat 64 a0)) |>.write (fun _ => 0) 11
      (BitVec.ofNat 64 tick)) |>.write (fun _ => 0) 12 (BitVec.ofNat 64 row)) |>.write (fun _ => 0) 13 (BitVec.ofNat 64 rows)
    mem := memFrom 0 k.text ++ memFrom (dataBase k) k.data ++ memFrom a0 x.args
    inv := some v }
def startCores (k : Kernel) (x : KernelNode) (v : Invocation) (tick cnt : Nat) (s : State) : Nat → List Nat → State
  | _, [] => s
  | i, n :: t =>
    let (row, rows) := rowShare x.rows cnt i
    let s1 := s.giveCore n (startCore k x v tick row rows)
    let st := 1 + 16 * b2n v.ticked + 32 * b2n v.frame + 64 * v.plane
    startCores k x v tick cnt ((s1.setN (Reg.NMD_STATUS n) st).setN (Reg.NMD_KERNEL n) (v.graph * 2 ^ 16 + v.kernel)) (i + 1) t
/-- Grain-bound kernels wait for cores of a cluster, or will need them for a step that is ready (R38, R150). -/
def State.coreWanted (s : State) (cl : Nat) : Bool :=
  s.streams.any (fun e => e.2.cluster == some cl && s.grainBound e.1 &&
    (match e.2.step with
     | some r => r.wait == .kernel && !r.sent
     | none => s.tickReady e.1 && (match s.graphOf e.2.graph with
         | some g => g.nodes.any (fun n => match n.node with | .kernel _ => true | _ => false)
         | none => false)))
/-- A kernel node starts on the cores it declares, with the barriers and queues it got when its stream was placed, or waits
for free ones: for cores that grain-bound work does not want first. -/
def State.nodeKernel (s : State) (h : Nat) (g : Graph) (n : NodeRec) (x : KernelNode) : State :=
  let cl := s.clOf h
  let i := (s.run h).node
  let s0 := s.allocObjs cl h i x
  let free := (coresOf cl).filter (fun c => (s0.core c).inv.isNone)
  let c := max 1 (min 4 x.cores)
  match s0.structure_.kernels.find? (fun k => k.id == x.kernel), s0.objsOf cl h i with
  | some k, some a =>
    if free.length < c ∨ (!s0.grainBound h && s0.coreWanted cl) then s0.waitFor h .kernel
    else
      let y := s0.strm h
      let r := s0.run h
      let dw : DriftWord := ⟨x.drift⟩
      let v : Invocation :=
        { graph := g.id, kernel := x.kernel, handle := s0.handleOf h, node := r.node, textLen := k.text.length,
          ranges := s0.grants cl n, barBase := a.barBase, barCount := a.barCount, qBase := a.qBase, qCount := a.qCount,
          carQ := x.carQueue.map (fun q => a.qBase + q), seed := y.seed, drift := y.drift, tensor := dw.tensor,
          drawPos := (r.p + dw.ofs) % 2 ^ 48, ticked := g.ticked, plane := g.plane, frame := g.frame, cls := s0.effCls h,
          started := s0.tb }
      let s1 := startCores k x v (if g.ticked then r.tick else y.steps - 1) c s0 0 (free.take c)
      (s1.setRun h { r with sent := true, jobs := c }).waitFor h .kernel
  | some _, none => s0.waitFor h .kernel
  | none, _ => s.fail h 6

/-! Running the nodes. -/

/-- The initial value of a state item (R261): zeros, or a weight reference's bytes. -/
def State.initItem (s : State) (d : ItemDecl) : ItemVal :=
  let w : Option Weight := d.init.bind s.weight
  let b := match w with | some w => (s.weightPieces w.addr 0 (min w.ref.size d.bytes)).flatMap (fun r => s.bytes r.1 r.2) | none => []
  match d.kind with
  | .scan => .scan { anchor := if w.isSome then (unpackRow 0 d.width b).map (BitVec.ofNat 32) else List.replicate d.width 0 }
  | _ => .bytes (b ++ List.replicate (d.bytes - b.length) 0)
def State.initItems (s : State) (g : Graph) : List ItemVal := g.items.map s.initItem
/-- Reset marks at one position apply: every state item takes its initial value, and each mark counts (R266). -/
def State.applyMark (s : State) (h : Nat) (g : Graph) (marks : Nat) : State :=
  if marks = 0 then s
  else
    let r := s.run h
    (s.setRun h { r with items := s.initItems g }).count Reg.STRM_MARKS marks Reg.STRM_INT_STATUS 4
/-- A node touches the cache. -/
def NodeRec.usesCache (n : NodeRec) : Bool :=
  n.ops.any (fun o => match o with | .stage _ => true | _ => false) ||
  (match n.node with | .attention d => dfield d 0 14 1 == 1 | _ => false)
/-- A Caravan node submits its request to the cluster's engine and waits for the transfer (R181). -/
def State.nodeCaravan (s : State) (h : Nat) (x : CarNode) : State :=
  let y := s.strm h
  let cl := s.clOf h
  let own : Xfer := { src := .part, fn := y.fn, prio := s.effCls h, ticked := s.grainBound h, handle := s.handleOf h, step := some h }
  let n := (s.car cl).waiting.length
  let (end_, s1) := s.submitReq cl own x.request
  if end_.isSome then s1.fail h (end_.getD 8)
  else if n < (s1.car cl).waiting.length then s1.waitFor h .transfer
  else s1
/-- Runs one node whose inputs are there. -/
def State.runKind (s1 : State) (h : Nat) (g : Graph) (i : Nat) (n : NodeRec) (seg : StepSeg) : State :=
  let s0 := s1.wroteNode h n
  match n.node with
  | .mat x => s0.nodeMat h n x
  | .vec x => s0.nodeVec h n x
  | .red x => s0.nodeRed h n x
  | .sample x => s0.nodeSample h n x
  | .init x => s0.nodeInit h n x
  | .attention d => if dfield d 0 24 8 = 0x41 then s0.nodeBack h n d else s0.nodeAttn h n d (g.layerOf i)
  | .cache _ => s0
  | .scan d => s0.nodeScan h n d seg
  | .input d => s0.nodeInput h n d seg
  | .vision d => s0.nodeVision h ((g.nodes.drop i).take (visFuse d + 1))
  | .kernel x => s0.nodeKernel h g n x
  | .caravan x => s0.nodeCaravan h x
  | .output o => s0.nodeOutput h n o g.input.posStep seg
/-- Runs one node; a later layer of a fused chain has run with its first (R299). -/
def State.runNode (s : State) (h : Nat) (g : Graph) (i : Nat) (n : NodeRec) (seg : StepSeg) : State :=
  let s0 := match g.kv with
    | some k => if n.usesCache then s.readyCache h g k else s
    | none => s
  if s0.stopped h ∨ (s0.run h).wait ≠ .run then s0
  else if g.fusedAt i then s0
  else if s0.emptyIn h n then s0.emptyNode h n
  else s0.runKind h g i n seg
/-- The mode word of a node that runs on a matrix engine (R98), and of one that runs on the vector unit (R100). -/
def Node.matMode : Node → Option Word
  | .mat x => some x.mode
  | .attention d => some (BitVec.ofNat 32 (dfield d 4 0 32))
  | .vision d => if (visDesc d).onMat then some (BitVec.ofNat 32 (dfield d 4 0 32)) else none
  | _ => none
def Node.vecMode : Node → Option Word
  | .vec x => some x.mode
  | .red x => some x.mode
  | .init x => some x.mode
  | .scan d => some (BitVec.ofNat 32 (dfield d 4 0 32))
  | .attention d => some (BitVec.ofNat 32 (dfield d 4 0 32))
  | .vision d => if (visDesc d).onVec then some (BitVec.ofNat 32 (dfield d 4 0 32)) else none
  | _ => none
/-- MODE and GRAPH of a unit name the node in progress (R98, R100). -/
def State.showUnit (s : State) (cl u : Nat) (mode : Word) (graph : Nat) : State :=
  (s.setReg (unitMode cl u) (shownMode u mode)).setN (unitGraph cl u) graph
/-- The units that hold the step's operations show the node that runs on them. -/
def State.showNode (s : State) (h : Nat) (g : Graph) (i : Nat) (n : Node) : State :=
  let cl := s.clOf h
  let holds (u : Nat) : Bool := (AMap.read (fun _ => none) (s.wk cl).running u).map (fun o => o.handle) == some h
  let show1 (m : Option Word) (u : Nat) (s : State) : State :=
    match m with
    | some w => if holds u then s.showUnit cl u w (g.id * 2 ^ 16 + i) else s
    | none => s
  show1 n.vecMode 2 (show1 n.matMode 1 (show1 n.matMode 0 s))
/-- Runs nodes until the step waits or every node of every segment has run. -/
def stepLoop (h : Nat) (g : Graph) : Nat → State → State
  | 0, s => s
  | k + 1, s =>
    let r := s.run h
    if r.stop then s.waitFor h .done
    else match r.segs with
      | [] => s.waitFor h .done
      | seg :: rest =>
        match g.nodes[r.node]? with
        | none =>
          let s1 := s.setRun h { r with segs := rest, node := 0 }
          let s2 := match rest with
            | nxt :: _ => s1.applyMark h g nxt.mark
            | [] => s1
          stepLoop h g k s2
        | some n =>
          let s1 := (s.showNode h g r.node n.node).runNode h g r.node n seg
          let r1 := s1.run h
          if r1.wait ≠ .run ∨ r1.stop then (if r1.stop then s1.waitFor h .done else s1)
          else stepLoop h g k (s1.setRun h { r1 with node := r.node + 1 })
/-- The step goes on from where it waited: past its node, or with the node again. -/
def State.goOn (s : State) (h : Nat) (past : Bool) : State :=
  match s.graphOf (s.strm h).graph with
  | none => s
  | some g =>
    let r := s.run h
    if (s.strm h).step.isNone then s
    else
      let s1 := s.setRun h { r with wait := .run, node := if past then r.node + 1 else r.node, sent := if past then false else r.sent }
      stepLoop h g ((g.nodes.length + 2) * (r.segs.length + 1)) s1
/-- Steps of a cluster that wait for free cores try again. -/
def retryKernels (cl : Nat) (s : State) : List Nat → State
  | [] => s
  | h :: t =>
    let x := s.strm h
    retryKernels cl (match x.step with
      | some r => if x.cluster = some cl ∧ r.wait = .kernel ∧ !r.sent then s.goOn h false else s
      | none => s) t
/-- Step a of a cluster gets cores before step b (R38): grain-bound work first, then in order of admission. -/
def State.coresFirst (s : State) (a b : Nat) : Bool :=
  (s.grainBound a && !s.grainBound b) || (s.grainBound a == s.grainBound b && decide ((s.strm a).order ≤ (s.strm b).order))
def State.insertStep (s : State) (h : Nat) : List Nat → List Nat
  | [] => [h]
  | b :: t => if s.coresFirst h b then h :: b :: t else b :: s.insertStep h t
/-- Cores of a cluster are free: the steps that wait for them try again. -/
def State.coresFreed (s : State) (cl : Nat) : State :=
  retryKernels cl s ((s.placedOn cl []).foldl (fun l e => s.insertStep e.1 l) [])
/-- Steps that wait for pages and hold them now go on; one that was a victim meanwhile is restored first (R252). -/
def retryPages (s : State) : List Nat → State
  | [] => s
  | h :: t =>
    let x := s.strm h
    retryPages (match x.step with
      | some r =>
        if r.wait ≠ .pages ∨ !x.kv.need.isEmpty ∨ x.kv.st = .swapOut ∨ x.kv.st = .restore then s
        else if (s.swappedEntries h).isEmpty then s.goOn h false
        else
          let (full, s1) := s.askRestore h
          if full then (s1.fail h 3).waitFor h .done else s1
      | none => s) t
/-- Pages have become free: requesters are served and steps that hold theirs go on (R249). -/
def State.pagesFreed (s : State) : State :=
  let s1 := serveNeeds (2 * s.streams.length) [] [] s
  retryPages s1 (s1.streams.map (fun e => e.1))

end Sys2Proof.Machine
end

