-- ==== Sys2Proof/Machine/Parcel.lean ====
section
/-!
DEFINITION. State parcels (R276 to R284): their bytes from a stream, and a stream from their bytes.
-/

namespace Sys2Proof.Machine

/-! What a graph declares. -/

/-- The quantiser blocks of a node. -/
def NodeRec.points (n : NodeRec) : List QBlock :=
  (match n.node with
   | .mat x => [x.q]
   | .vec x => [x.q]
   | .vision d => [(visDesc d).q]
   | _ => []).filter QBlock.active
def Graph.points (g : Graph) : List QBlock := g.nodes.flatMap NodeRec.points
def Graph.point (g : Graph) (p : Nat) : Option QBlock := g.points.find? (fun q => q.point == p)
/-- The windows of a stream that is opened: empty, with k = MARGIN_INIT (R107). -/
def Graph.openWindows (g : Graph) : AMap QWindow :=
  g.points.foldl (fun m q => AMap.write (fun _ => {}) m q.point { k := q.marginInit }) []
/-- The drift word of a node that draws (R125, R126). -/
def NodeRec.draws (n : NodeRec) : Option DriftWord :=
  let f (mode drift : Word) : Option DriftWord :=
    let dw : DriftWord := ⟨drift⟩
    if dw.keep ≠ 255 ∨ (ModeWord.mk mode).rnd = 2 then some dw else none
  match n.node with
  | .mat x => f x.mode x.drift
  | .vec x => f x.mode x.drift
  | .red x => f x.mode x.drift
  | .sample x => some ⟨x.drift⟩
  | .init x => some ⟨x.drift⟩
  | .attention d => f (attnDesc d).mode.raw (attnDesc d).drift
  | .vision d => f (visDesc d).mode.raw (visDesc d).drift.raw
  | .kernel x => some ⟨x.drift⟩
  | _ => none
/-- The tensor IDs that a node draws with: a backward attention node has three outputs (R126, R224). -/
def NodeRec.tensors (n : NodeRec) : List Nat :=
  match n.draws, n.node with
  | some w, .attention d => if (attnDesc d).back then [0, 1, 2].map (fun i => (w.tensor + i) % 2 ^ 16) else [w.tensor]
  | some w, _ => [w.tensor]
  | none, _ => []
/-- The draw stride (R124). -/
def Graph.stride (g : Graph) : Nat := ((g.nodes.filterMap NodeRec.draws).map DriftWord.ofs).foldl max 0 + 1

/-! The bytes of a parcel. -/

/-- Pads bytes to a multiple of `n`. -/
def padTo (n : Nat) (l : List Byte) : List Byte := l ++ List.replicate ((n - l.length % n) % n) 0
/-- The bytes of a state item: of a scan item, u, the depth, the anchor and its nodes (Table 12-7). -/
def ItemVal.data : ItemDecl → ItemVal → List Byte
  | d, .bytes l => (l ++ List.replicate (d.bytes - l.length) 0).take d.bytes
  | _, .scan s => leBytes 4 s.u ++ leBytes 4 s.stack.length ++ s.anchor.flatMap (fun w => leBytes 4 w.toNat) ++
      s.stack.flatMap (fun n => leBytes 4 n.len ++ (n.a ++ n.b).flatMap (fun w => leBytes 4 w.toNat))
/-- The bytes of a stream's state items as a copy outside the cluster store holds them: each item's data in its declared
size, one after another (R274, log 39). -/
def itemsBytes (g : Graph) (l : List ItemVal) : List Byte :=
  g.items.zipIdx.flatMap (fun x =>
    let b := (l.getD x.2 (.bytes [])).data x.1
    (b ++ List.replicate (x.1.bytes - b.length) 0).take x.1.bytes)
def parcelItems (g : Graph) (l : List ItemVal) : List Byte :=
  (g.items.zipIdx.flatMap (fun x =>
    let b := (l.getD x.2 (.bytes [])).data x.1
    padTo 64 (leBytes 4 x.2 ++ leBytes 1 x.1.kind.code ++ leBytes 1 x.1.fmt ++ leBytes 2 0 ++ leBytes 4 b.length ++ leBytes 4 0 ++ b)))
def slcN (b : List Byte) (o n : Nat) : Nat := leVal ((b.drop o).take n)
/-- The words of bytes. -/
def wordsOf (b : List Byte) (n : Nat) : List Word := (List.range n).map (fun i => BitVec.ofNat 32 (slcN b (4 * i) 4))
/-- A scan state from its data. -/
def scanOf (w : Nat) (b : List Byte) : ScanState :=
  let d := slcN b 4 4
  { u := slcN b 0 4
    anchor := wordsOf (b.drop 8) w
    stack := (List.range d).map (fun i =>
      let o := 8 + 4 * w + i * (4 + 8 * w)
      ⟨slcN b o 4, wordsOf (b.drop (o + 4)) w, wordsOf (b.drop (o + 4 + 4 * w)) w⟩) }
/-- The state items that such a copy holds. -/
def itemsFrom : List ItemDecl → List Byte → List ItemVal
  | [], _ => []
  | d :: t, b =>
    (match d.kind with
     | .scan => ItemVal.scan (scanOf d.width b)
     | _ => ItemVal.bytes (b.take d.bytes)) :: itemsFrom t (b.drop d.bytes)
/-- Where a stream's saved items lie: its frames, or its units of the swap pool. -/
def State.savedPieces (s : State) (h n : Nat) : List (Nat × Nat) :=
  let x := s.strm h
  match x.savedUnit with
  | some u => if n = 0 then [] else [(s.swapAddr x.fn u, n)]
  | none => x.savedFrames.zipIdx.flatMap (fun y => pageRuns y.1 0 (min 16384 (n - 16384 * y.2)))
/-- The state items of a stream: those of the copy outside the cluster store, where there is one that can be read, with the
granules that it gave as zeros (R168, R274, R278). -/
def State.itemsOf (s : State) (h : Nat) (g : Graph) : List ItemVal × Nat × State :=
  let x := s.strm h
  if x.savedFrames = [] ∧ x.savedUnit = none then (x.items, 0, s)
  else
    let n := sumMap (fun d => d.bytes) g.items
    let r := s.readRuns s.oasisReader (s.savedPieces h n)
    (if r.failed then x.items else itemsFrom g.items r.bytes, r.zeroed, r.st)
/-- A window record (R107). -/
def QWindow.bytes (w : QWindow) : List Byte :=
  let e := w.entries.flatMap (fun e => leBytes 4 e.lo.toNat ++ leBytes 4 e.hi.toNat ++ leBytes 4 e.clipped ++ leBytes 4 e.total)
  leBytes 1 w.entries.length ++ leBytes 1 w.k ++ List.replicate 14 0 ++ e ++ List.replicate (256 - e.length) 0
def parcelWindows (g : Graph) (m : AMap QWindow) : List Byte :=
  ((List.range 32).filter (fun p => (g.point p).isSome)).flatMap (fun p =>
    leBytes 1 p ++ List.replicate 15 0 ++ (AMap.read (fun _ => {}) m p).bytes)
/-- The STREAM section (Table 12-8). -/
def parcelStream (g : Graph) (x : Stream) : List Byte :=
  leBytes 8 x.pos ++ leBytes 8 x.steps ++ leBytes 8 x.seed.toNat ++ leBytes 8 x.drift.toNat ++ leBytes 6 x.p
    ++ leBytes 2 g.stride ++ leBytes 1 x.cls
    ++ leBytes 1 (b2n (x.prev == .idle) + 2 * b2n (x.prev == .paused) + 4 * b2n (x.prev == .swapped))
    ++ leBytes 2 (g.plane + 4 * b2n g.frame + 8 * b2n g.ticked) ++ leBytes 4 0
    ++ leBytes 8 (x.lastTick.getD (2 ^ 64 - 1)) ++ leBytes 8 0
/-- The records of the QUEUE section: marks that the stream still owes its next position stand before it, each as a record
without positions, or, where that makes more than 64 records, as the MARK of the first (R269, R283, log 26). -/
def Stream.records (x : Stream) : List Chunk :=
  if x.queue.length + x.markDue ≤ 64 then List.replicate x.markDue { mark := true } ++ x.queue
  else match x.queue with
    | c :: t => { c with mark := true } :: t
    | [] => [{ mark := true }]
/-- The payload of a queued chunk. -/
def State.chunkBytes (s : State) (c : Chunk) : Option (List Byte) × Nat × State :=
  if c.own ≠ [] then (some (c.own.take c.bytes), 0, s)
  else
    let r := s.readData s.oasisReader c.src c.bytes
    (if r.failed then none else some r.bytes, r.zeroed, r.st)
def chunkPayloads (s : State) : List Chunk → Option (List (List Byte)) × Nat × State
  | [] => (some [], 0, s)
  | c :: t =>
    let (b, z, s1) := s.chunkBytes c
    let (l, y, s2) := chunkPayloads s1 t
    ((match b, l with | some b, some l => some (b :: l) | _, _ => none), z + y, s2)
/-- The QUEUE section: records, then payloads, SRC holding each payload's offset (Table 12-7). -/
def queueBytes : Nat → List (Chunk × List Byte) → List Byte × List Byte
  | _, [] => ([], [])
  | o, (c, b) :: t =>
    let p := padTo 64 b
    let u := queueBytes (o + p.length) t
    (leBytes 8 o ++ leBytes 4 c.pos ++ leBytes 4 (b2n c.ended + 2 * b2n c.mark) ++ leBytes 4 b.length ++ leBytes 4 0
      ++ leBytes 8 c.tag.toNat ++ u.1, p ++ u.2)
def parcelQueue (l : List (Chunk × List Byte)) : List Byte :=
  let r := queueBytes (32 * l.length) l
  r.1 ++ r.2
/-- A page of the sequence, from its frames or its swap units. -/
def State.entryBytes (s : State) (h i : Nat) (k : KvDecl) : Option (List Byte) × Nat × State :=
  let e := s.kvEnt h i
  let runs := if e.kind = 2 then [(s.swapAddr (s.strm h).fn e.loc, k.pageBytes)] else pageRuns e.loc 0 k.pageBytes
  let r := s.readRuns s.oasisReader runs
  (if r.failed then none else some r.bytes, r.zeroed, r.st)
def entriesBytes (h : Nat) (k : KvDecl) (s : State) : List Nat → Option (List Byte) × Nat × State
  | [] => (some [], 0, s)
  | i :: t =>
    let (b, z, s1) := s.entryBytes h i k
    let (l, y, s2) := entriesBytes h k s1 t
    ((match b, l with | some b, some l => some (b ++ l) | _, _ => none), z + y, s2)
def cacheBlocks (h : Nat) (k : KvDecl) (s : State) : List Nat → Option (List Byte) × Nat × State
  | [] => (some [], 0, s)
  | j :: t =>
    let v := (s.strm h).kv
    let tok := ((List.range 128).map (fun i => (v.allTokens.getD (128 * j + i) 0).toNat)).flatMap (leBytes 4)
    let (b, z, s1) := entriesBytes h k s ((List.range k.groups).map (fun g => j * k.groups + g))
    let (l, y, s2) := cacheBlocks h k s1 t
    ((match b, l with
      | some b, some l => some (padTo 64 (leBytes 4 (min 128 (v.ctx - 128 * j))) ++ tok ++ b ++ l)
      | _, _ => none), z + y, s2)
/-- The CACHE section. -/
def State.parcelCache (s : State) (h : Nat) (k : KvDecl) : Option (List Byte) × Nat × State :=
  let c := (s.strm h).kv.ctx
  let n := (c + 127) / 128
  let (b, z, s1) := cacheBlocks h k s (List.range n)
  (b.map (fun l => leBytes 8 c ++ leBytes 2 k.groups ++ leBytes 2 k.pageKib ++ leBytes 4 n ++ l), z, s1)
/-- Lays sections out from offset `o`, each on a 64-byte boundary: table entries and bytes. -/
def laySections : Nat → List (Nat × List Byte) → List Byte × List Byte
  | _, [] => ([], [])
  | o, (t, b) :: u =>
    let p := if u = [] then b else padTo 64 b
    let r := laySections (o + p.length) u
    (leBytes 4 t ++ leBytes 4 o ++ leBytes 4 b.length ++ leBytes 4 0 ++ r.1, p ++ r.2)
/-- The parcel before its signature block (Table 12-6). -/
def parcelBody (fmt1 : Bool) (dev tb handle : Nat) (digest : List Byte) (secs : List (Nat × List Byte)) : List Byte :=
  let top := (128 + 16 * secs.length + 63) / 64 * 64
  let (tab, body) := laySections top secs
  let head := ascii "DUNEPRCL" ++ leBytes 4 (if fmt1 then 1 else 2) ++ leBytes 4 (top + body.length + 128)
    ++ leBytes 4 secs.length ++ leBytes 4 0x48582448 ++ leBytes 4 0xA1 ++ leBytes 4 dev ++ leBytes 8 tb ++ leBytes 4 handle
    ++ leBytes 4 0 ++ digest ++ List.replicate 16 0
  padTo 64 (head ++ tab) ++ body
/-- The sections of a stream; none where something cannot be read. QWIN stands last (log 26). -/
def State.parcelSections (s : State) (h : Nat) (g : Graph) : Option (List (Nat × List Byte)) × Nat × State :=
  let x := s.strm h
  let (items, w, s0) := s.itemsOf h g
  let (q, z, s1) := chunkPayloads s0 x.records
  let (c, y, s2) := match g.kv with
    | some k => (match s1.parcelCache h k with | (b, z, t) => (b.map some, z, t))
    | none => (some none, 0, s1)
  ((match q, c with
    | some q, some c => some (([(1, parcelStream g x), (2, parcelItems g items), (4, parcelQueue (List.zip x.records q)),
        (5, c.getD []), (3, parcelWindows g x.windows)] : List (Nat × List Byte)).filter (fun y => y.2 != []))
    | _, _ => none), w + z + y, s2)
/-- The whole parcel, signed with the package identity key (R278). -/
def State.parcel (s : State) (h : Nat) (g : Graph) (fmt1 : Bool) : Option (List Byte) × Nat × State :=
  match s.parcelSections h g with
  | (none, z, s1) => (none, z, s1)
  | (some l, z, s1) =>
    let b := parcelBody fmt1 s.deviceId s.tb.toNat (s.handleOf h) (sha512 g.descBytes) l
    let (sig, s2) := s1.sign (sha512 b)
    (some (b ++ List.replicate 32 0 ++ s1.idKey ++ sig), z, s2)
/-- The length of the parcel that a stream would make now. -/
def State.parcelLength (s : State) (h : Nat) (g : Graph) : Nat :=
  let x := s.strm h
  let up (n : Nat) : Nat := (n + 63) / 64 * 64
  let lens := ([64, (parcelItems g x.items).length,
    32 * x.records.length + sumMap (fun c => up (if c.own = [] then c.bytes else min c.bytes c.own.length)) x.records,
    (match g.kv with
     | some k => 16 + (x.kv.ctx + 127) / 128 * (576 + k.groups * k.pageBytes)
     | none => 0),
    (parcelWindows g x.windows).length]).filter (fun n => n != 0)
  up (128 + 16 * lens.length) + sumMap up lens.dropLast + (lens.getLast?.getD 0) + 128

/-! A stream from a parcel (R282, R283). -/

/-- A section of a parcel. -/
structure PSection where
  type : Nat
  ofs : Nat
  bytes : List Byte
  deriving DecidableEq, Repr
def parcelTable (b : List Byte) (n : Nat) : List PSection :=
  (List.range n).map (fun i => ⟨slcN b (128 + 16 * i) 4, slcN b (132 + 16 * i) 4,
    (b.drop (slcN b (132 + 16 * i) 4)).take (slcN b (136 + 16 * i) 4)⟩)
def sectionsApart : List PSection → Bool
  | [] => true
  | a :: t => t.all (fun c => decide (a.ofs + a.bytes.length ≤ c.ofs) || decide (c.ofs + c.bytes.length ≤ a.ofs)) && sectionsApart t
/-- MAGIC, FORMAT, LENGTH, section table and reserved bytes are valid. -/
def parcelHeadOk (b : List Byte) : Bool :=
  let n := slcN b 16 4
  let l := parcelTable b n
  decide (272 ≤ b.length) && b.take 8 == ascii "DUNEPRCL" && (slcN b 8 4 == 1 || slcN b 8 4 == 2) && slcN b 12 4 == b.length &&
  decide (1 ≤ n ∧ n ≤ 16) && slcN b 44 4 == 0 && slcN b 112 16 == 0 && slcN b 28 4 < 4096 &&
  decide (128 + 16 * n + 128 ≤ b.length) &&
  (List.range n).all (fun i => slcN b (140 + 16 * i) 4 == 0 && decide (slcN b (132 + 16 * i) 4 + slcN b (136 + 16 * i) 4 + 128 ≤ b.length)) &&
  l.all (fun x => decide (1 ≤ x.type ∧ x.type ≤ 5) && x.ofs % 64 == 0 && decide (128 + 16 * n ≤ x.ofs)) &&
  decide ((l.map (fun x => x.type)).Nodup) && sectionsApart l && l.any (fun x => x.type == 1 && x.bytes.length == 64) &&
  slcN b (b.length - 128) 32 == 0 && (slcN b 8 4 == 2 || !l.any (fun x => x.type == 5))
def parcelSection (b : List Byte) (t : Nat) : List Byte :=
  (((parcelTable b (slcN b 16 4)).find? (fun x => x.type == t)).map (fun x => x.bytes)).getD []
/-- Reads the STATE section against what the graph declares; none where something does not match. -/
def readItems : Nat → List ItemDecl → List Byte → Option (List ItemVal)
  | _, [], b => if b = [] then some [] else none
  | i, d :: t, b =>
    let n := slcN b 8 4
    let data := (b.drop 16).take n
    let ok := decide (16 + n ≤ b.length) && slcN b 0 4 == i && slcN b 4 1 == d.kind.code && slcN b 5 1 == d.fmt && slcN b 6 2 == 0 &&
      slcN b 12 4 == 0 && (match d.kind with
        | .scan => n == 8 + 4 * d.width + slcN data 4 4 * (4 + 8 * d.width)
        | _ => n == d.bytes)
    if !ok then none
    else (readItems (i + 1) t (b.drop ((16 + n + 63) / 64 * 64))).map (fun l =>
      (match d.kind with | .scan => ItemVal.scan (scanOf d.width data) | _ => ItemVal.bytes data) :: l)
/-- The QWIN section: each declared point once. -/
def readWindows (g : Graph) : Nat → List Byte → Option (AMap QWindow)
  | 0, b => if b = [] then some g.openWindows else none
  | n + 1, b =>
    if b = [] then some g.openWindows
    else
      let p := slcN b 0 1
      let f := slcN b 16 1
      if b.length < 288 ∨ (g.point p).isNone ∨ slcN b 1 15 ≠ 0 ∨ 16 < f then none
      else (readWindows g n (b.drop 288)).map (fun m => AMap.write (fun _ => {}) m p
        { k := slcN b 17 1
          entries := (List.range f).map (fun i =>
            ⟨BitVec.ofNat 32 (slcN b (32 + 16 * i) 4), BitVec.ofNat 32 (slcN b (36 + 16 * i) 4), slcN b (40 + 16 * i) 4,
              slcN b (44 + 16 * i) 4⟩) })
/-- The QUEUE section; `pos` is the position of the next record's first (log 26). -/
def readQueue (i : InputDesc) (b : List Byte) : Nat → Nat → Nat → Nat → Option (List Chunk)
  | 0, _, _, _ => some []
  | n + 1, o, stop, pos =>
    if stop ≤ o then some []
    else
      let src := slcN b o 8
      let bytes := slcN b (o + 16) 4
      let fl := slcN b (o + 12) 4
      if b.length < o + 32 ∨ src % 32 ≠ 0 ∨ src < o + 32 ∨ b.length < src + bytes ∨ 4 ≤ fl ∨ slcN b (o + 20) 4 ≠ 0 ∨
          16777216 < slcN b (o + 8) 4 then none
      else
        let c : Chunk := { pos := slcN b (o + 8) 4, ended := bitAt fl 0, mark := bitAt fl 1, bytes := bytes,
                           tag := BitVec.ofNat 64 (slcN b (o + 24) 8), skip := pos % max 1 i.posPerRow, noRelease := true,
                           own := (b.drop src).take bytes }
        (readQueue i b n (o + 32) (min stop src) (pos + c.pos)).map (fun l => c :: l)
/-- The CACHE section's blocks; none where it does not match the declaration. -/
def readBlocks (k : KvDecl) : Nat → List Byte → List (Nat × List Word × List (List Byte))
  | 0, _ => []
  | n + 1, b =>
    (slcN b 0 4, wordsOf (b.drop 64) 128, (List.range k.groups).map (fun g => (b.drop (576 + g * k.pageBytes)).take k.pageBytes))
      :: readBlocks k n (b.drop (576 + k.groups * k.pageBytes))
def readCache (k : KvDecl) (b : List Byte) : Option (Nat × List (Nat × List Word × List (List Byte))) :=
  let c := slcN b 0 8
  let n := slcN b 12 4
  if b = [] then none
  else if slcN b 8 2 ≠ k.groups ∨ slcN b 10 2 ≠ k.pageKib ∨ n ≠ (c + 127) / 128 ∨ k.maxCtx < c ∨
      b.length ≠ 16 + n * (576 + k.groups * k.pageBytes) then none
  else some (c, readBlocks k n (b.drop 16))
/-- The stream that a parcel of a graph makes, in the state its FLAGS give. -/
def parcelStrm (g : Graph) (b : List Byte) : Option Stream :=
  let st := parcelSection b 1
  let fl := slcN st 41 1
  let cache : Option (Option (Nat × List (Nat × List Word × List (List Byte)))) :=
    match g.kv with
    | some k => (readCache k (parcelSection b 5)).map some
    | none => if parcelSection b 5 = [] then some none else none
  match readItems 0 g.items (parcelSection b 2), readWindows g 33 (parcelSection b 3),
      readQueue g.input (parcelSection b 4) 65 0 (parcelSection b 4).length (slcN st 0 8), cache with
  | some items, some wins, some q, some c =>
    if slcN st 38 2 ≠ g.stride ∨ 8 ≤ slcN st 40 1 ∨ 8 ≤ fl ∨ 16 ≤ slcN st 42 2 ∨ 64 < q.length then none
    else some
      { graph := g.id, pos := slcN st 0 8, steps := slcN st 8 8, seed := BitVec.ofNat 64 (slcN st 16 8),
        drift := BitVec.ofNat 64 (slcN st 24 8), p := slcN st 32 6, cls := slcN st 40 1,
        prev := if bitAt fl 0 then .idle else if bitAt fl 1 then .paused else .active,
        lastTick := if slcN st 48 8 = 2 ^ 64 - 1 then none else some (slcN st 48 8),
        items := items, windows := wins, noWindows := g.openWindows, queue := q,
        kv := { ctx := (c.map (fun y => y.1)).getD 0, incoming := (c.map (fun y => y.2)).getD [] } }
  | _, _, _, _ => none
/-- The key is that of a neighbour whose identity the fabric has verified, while it authenticates its members (R423). -/
def State.memberKey (s : State) (key : List Byte) : Bool :=
  s.auth != 0 && (List.range 16).any (fun n => match (s.eport n).peer with
    | some h => s.portUp n && leBytes 32 h.ident.toNat == key && s.fab.members.contains h.ident.toNat
    | none => false)
/-- The key of a parcel's signature block is accepted: MODE 3 takes what MODE 1 or MODE 2 takes (R423). -/
def State.parcelKeyOk (s : State) (key : List Byte) : Bool × State :=
  let mode := s.fld Reg.SEC_PARCEL_CFG 0 2
  if mode == 0 || key == s.idKey || (mode % 2 == 1 && s.memberKey key) then (true, s)
  else if mode / 2 = 1 then s.allowed key
  else (false, s)
/-- The signature of a parcel and its key (R278, R417, R423). -/
def State.parcelSigned (s : State) (b : List Byte) : Bool × State :=
  let n := b.length - 128
  let key := slice b (n + 32) 32
  let (ok, s1) := s.checkSig key (sha512 (b.take n)) (slice b (n + 64) 64)
  if ok then s1.parcelKeyOk key else (false, s1)

end Sys2Proof.Machine
end

