-- ==== Sys2Proof/Machine/StreamOps.lean ====
section
/-!
DEFINITION. Operations of streams (chapter 12): positions taken from the queue, IDLE and quiet sinks, saved state items,
swap-out and restore, admission and placement, and the close.
-/

namespace Sys2Proof.Machine

/-- Counts in a STRM counter. -/
def State.strmCount (s : State) (a n : Nat) : State := s.count a n Reg.STRM_INT_STATUS 4
/-- The graph's node settings that a stream's queue goes by. -/
def State.inputOf (s : State) (h : Nat) : InputDesc := ((s.graphOf (s.strm h).graph).map Graph.input).getD ⟨1, 1, 1, 255⟩

/-! Positions (R265, R266). -/

/-- A chunk after `n` of its positions. -/
def Chunk.after (i : InputDesc) (c : Chunk) (n : Nat) : Chunk :=
  let adv := (c.skip + n) / max 1 i.posPerRow
  { c with
    src := c.src + adv * i.rowBytes
    pos := c.pos - n
    bytes := c.bytes - adv * i.rowBytes
    skip := (c.skip + n) % max 1 i.posPerRow
    mark := false
    own := c.own.drop (adv * i.rowBytes) }
/-- Where the rows that serve a chunk's first `n` positions lie. -/
def Chunk.rowsFor (i : InputDesc) (c : Chunk) (n : Nat) : List (Nat × List Byte) :=
  (List.range ((c.skip + n + max 1 i.posPerRow - 1) / max 1 i.posPerRow)).map (fun r =>
    (c.src + r * i.rowBytes, (c.own.drop (r * i.rowBytes)).take i.rowBytes))
/-- Positions taken from a queue: the segments they form, the chunks they end, what remains, whether an END was reached, and
the marks without a position after them. -/
structure Taken where
  segs : List StepSeg := []
  spent : List Chunk := []
  rest : List Chunk := []
  ended : Bool := false
  mark : Nat := 0
  deriving DecidableEq, Repr
def takePositions (i : InputDesc) : Nat → Nat → Nat → List Chunk → Taken
  | _, mk, _, [] => { mark := mk }
  | first, mk, k, c :: t =>
    if k = 0 then { rest := c :: t, mark := mk }
    else if c.pos = 0 then
      (if c.ended then { spent := [c], rest := t, ended := true, mark := mk + b2n c.mark }
       else
         let u := takePositions i first (mk + b2n c.mark) k t
         { u with spent := c :: u.spent })
    else
      let n := min k c.pos
      let g : StepSeg := { mark := mk + b2n c.mark, first := first, count := n, src := c.rowsFor i n }
      if n < c.pos then { segs := [g], rest := c.after i n :: t }
      else if c.ended then { segs := [g], spent := [c], rest := t, ended := true }
      else
        let u := takePositions i (first + n) 0 (k - n) t
        { u with
          segs := g :: u.segs
          spent := c :: u.spent }
/-- Pieces without a mark before them join the piece before. -/
def joinSegs : List StepSeg → List StepSeg
  | [] => []
  | a :: t => match joinSegs t with
    | b :: u => if b.mark ≠ 0 then a :: b :: u else { a with count := a.count + b.count, src := a.src ++ b.src } :: u
    | [] => [a]
/-- An END that leaves no position is consumed at once (R267). -/
def leadingEnd : Nat → List Chunk → Option Taken
  | mk, c :: t =>
    if c.pos ≠ 0 then none
    else if c.ended then some { spent := [c], rest := t, ended := true, mark := mk + b2n c.mark }
    else (leadingEnd (mk + b2n c.mark) t).map (fun u => { u with spent := c :: u.spent })
  | _, [] => none
/-- Total positions of segments. -/
def segPositions (l : List StepSeg) : Nat := sumMap (fun g => g.count) l

/-! IDLE and quiet sinks (R267, R268, R348). -/

/-- The slot of a stream whose outputs stop goes quiet. -/
def State.quietSink (s : State) (h : Nat) : State :=
  match (s.strm h).sink with
  | .port p k => s.quietSlot p k
  | _ => s
/-- The stream goes IDLE, unless chunks stand behind the END: then it goes on at the current tick (Table 12-3, R268). -/
def State.goIdle (s : State) (h : Nat) : State :=
  if (s.strm h).st = .paused then s.modStrm h (fun x => { x with wasIdle := x.queue == [], starved := false })
  else if (s.strm h).queue = [] then (s.modStrm h (fun x => { x with st := .idle, starved := false })).quietSink h
  else s.modStrm h (fun x => { x with atCurrent := true, starved := false })
/-- Consumes ENDs without positions at the front of a placed stream's queue. -/
def eatEnds (h : Nat) : Nat → State → State
  | 0, s => s
  | n + 1, s =>
    let x := s.strm h
    if x.st != .active || x.step.isSome then s
    else match leadingEnd 0 x.queue with
      | none => s
      | some u =>
        let s1 := s.setStrm h { x with queue := u.rest, markDue := x.markDue + u.mark }
        eatEnds h n ((s1.releaseAll h u.spent).goIdle h)
def State.eatEnd (s : State) (h : Nat) : State := eatEnds h ((s.strm h).queue.length) s
/-- A stream whose next step is to be at the current tick takes that tick's count, once its plane runs (R34, R45). -/
def State.fixTick (s : State) (h : Nat) : State :=
  let x := s.strm h
  match s.graphOf x.graph with
  | some g =>
    let runs := match s.plane g.plane with | some p => p.run | none => false
    if g.ticked && x.atCurrent && x.cluster.isSome && runs then
      s.setStrm h { x with nextTick := s.tickCount g.plane g.frame, atCurrent := false } else s
  | none => s
/-- A tick-bound ACTIVE stream whose step is not ready at its tick starves (R267). -/
def State.checkStarve (s : State) (h : Nat) : State :=
  let x := s.strm h
  if x.st != .active || x.step.isSome || x.starved || !s.isTicked h || s.stepReady h || !s.tickHere h then s
  else ((s.modStrm h (fun y => { y with starved := true })).strmCount Reg.STRM_STARVE 1).raise Reg.STRM_INT_STATUS 0
/-- An ACTIVE stream's queue has changed, or it has just become ACTIVE. -/
def State.lookAt (s : State) (h : Nat) : State :=
  let s1 := s.eatEnd h
  if (s1.strm h).st != .active || (s1.strm h).step.isSome then s1
  else ((s1.fixTick h).checkStarve h).offerItem h

/-! Saved state items (R274, R365). -/

/-- Takes frames one by one for saved items; none where the pool runs out. -/
def takeFrames (p home : Nat) : Nat → State → List Nat → Option (List Nat × State)
  | 0, s, acc => some (acc, s)
  | n + 1, s, acc =>
    match s.pickSlot p home 0 1 with
    | some f => takeFrames p home n (s.takeRun f 1) (acc ++ [f])
    | none => none
/-- Saves a stream's state items to frames of its graph's pool, else to its function's swap pool. Where neither has room, or
the swap pool cannot be written, which the spec does not treat, the items stay with the stream (DESIGN CHOICE, log 39). -/
def State.saveItems (s : State) (h : Nat) : State :=
  let x := s.strm h
  match s.graphOf x.graph with
  | none => s
  | some g =>
    if x.savedFrames ≠ [] ∨ x.savedUnit ≠ none then s
    else
      let n := (g.itemBytes + 16383) / 16384
      let put (t : State) : State := t.writeRuns t.oasisReader (t.savedPieces h g.itemBytes) (itemsBytes g x.items)
      match takeFrames g.pool (clDie (x.cluster.getD 0)) n s [] with
      | some (l, s1) => put (s1.modStrm h (fun y => { y with savedFrames := l }))
      | none =>
        match s.takeSwap x.fn n with
        | some (u, s1) =>
          if s.hostOk (s.swapAddr x.fn u) (n * 16384) then put (s1.modStrm h (fun y => { y with savedUnit := some u })) else s
        | none => s
/-- Frees what holds a stream's saved items. -/
def State.freeSaved (s : State) (h : Nat) : State :=
  let x := s.strm h
  let s1 := freeAll 1 s x.savedFrames
  let s2 := match x.savedUnit with | some u => s1.freeSwap x.fn u | none => s1
  s2.modStrm h (fun y => { y with savedFrames := [], savedUnit := none })
/-- A stream's saved items are back in its cluster's store; granules that were given as zeros count for it (R168, R275). -/
def State.loadItems (s : State) (h : Nat) : State :=
  match s.graphOf (s.strm h).graph with
  | none => s.freeSaved h
  | some g =>
    let (l, z, s1) := s.itemsOf h g
    (s1.modStrm h (fun y => { y with items := l, zeroed := min (y.zeroed + z) 0xFFFFFFFF })).freeSaved h

/-! Placement (R357, R358, R366). -/

/-- A stream ID that no stream holds, beginning from an open value: the spec does not say which is given (log 4). -/
def freeId (s : State) (c : Nat) : Nat → Nat
  | 0 => c
  | n + 1 => if s.streams.any (fun e => e.1 == c) then freeId s ((c + 1) % 2 ^ 20) n else c
def State.newId (s : State) : Nat × State :=
  let (v, s1) := s.free
  (freeId s (v.toNat % 2 ^ 20) s.streams.length, s1)
/-- Counts an admission placed. -/
def State.countAdmit (s : State) : State := s.count Reg.PLC_ADMIT 1 Reg.PLC_INT_STATUS 5
/-- No unit of its cluster works on a stream's step: no operation runs and no core, and none lies saved. -/
def State.coresIdle (s : State) (h : Nat) : Bool :=
  !(s.invsOf (s.clOf h)).any (fun v => v.handle == s.handleOf h)
def State.unitsIdle (s : State) (h : Nat) : Bool :=
  s.coresIdle h && !(s.wk (s.clOf h)).running.any (fun e => (e.2.map (fun o => o.handle)) == some h)
/-- A victim may leave its cluster: no step is in progress, or one whose nodes have run has yielded and holds no cache
staging (R273, R274). -/
def State.mayLeave (s : State) (h : Nat) : Bool :=
  let x := s.strm h
  match x.step with
  | none => true
  | some r => r.yielded && r.wait == .done && x.kv.staging.isNone && s.unitsIdle h
/-- A step that yielded goes on once nothing of it lies saved any more. -/
def State.unyield (s : State) (h : Nat) : State :=
  let x := s.strm h
  match x.step with
  | some r =>
    if r.yielded ∧ x.cluster.isSome ∧ !(s.wk (s.clOf h)).saved.any (fun o => o.handle == h) ∧ s.coresIdle h then
      s.setStrm h { x with step := some { r with yielded := false } }
    else s
  | none => s
/-- Takes a placed victim out (R274): its items are saved, its reservation subtracted, and it becomes SWAPPED, or stays
PAUSED where it was (Table 12-3). What a step that yielded has saved goes with it. -/
def State.swapOutStream (s : State) (h : Nat) : State :=
  let w := s.wk (s.clOf h)
  let ops := w.saved.filter (fun o => o.handle == h)
  let s0 := if ops = [] then s else s.setWk (s.clOf h) { w with saved := w.saved.filter (fun o => o.handle != h) }
  let s1 := ((s0.flushSet h).saveItems h).unplace h
  let s2 := (s1.dropItem h).modStrm h (fun x => { x with
    st := if x.st = .paused then .paused else .swapped
    atCurrent := x.atCurrent || x.st == .idle
    starved := false
    victim := false
    savedOps := ops
    asks := true })
  s2.strmCount Reg.STRM_PREEMPT 1
/-- The saved operations of a yielded step lie in the store of its new cluster. -/
def State.landOps (s : State) (h : Nat) : State :=
  let x := s.strm h
  let w := s.wk (s.clOf h)
  (if x.savedOps = [] then s
   else (s.setWk (s.clOf h) { w with saved := w.saved ++ x.savedOps }).setStrm h { x with savedOps := [] }).unyield h
/-- A restored stream is placed: its state returns (R275). One that was paused is only to finish its step. -/
def State.landRestore (s : State) (h cl : Nat) : State :=
  let (o, s1) := s.nextOrder
  let s2 := (s1.loadItems h).modStrm h (fun x => { x with
    st := if x.st = .paused then .paused else .active
    cluster := some cl
    order := o })
  ((((s2.placeObjs h).landOps h).strmCount Reg.STRM_RESTORE 1).countAdmit).lookAt h
/-- A Crest instance is placed (R324). -/
def State.landCrest (s : State) (ch graph cl size : Nat) : State :=
  let c := s.chan ch
  let cycles := (((s.graphOf graph).bind (fun g => g.cost size)).map (fun e => e.cycles)).getD 0
  let s1 := s.setChan ch { c with crest := c.crest.map (fun r => { r with placed := some cl }) }
  let i : CrestInst := { channel := ch, graph := graph, cluster := cl, cycles := cycles }
  let s2 : State := { s1 with place := { s1.place with crests := s1.place.crests ++ [i] } }
  (match s2.graphOf graph with | some g => s2.loadWeights cl g | none => s2).countAdmit
/-- The output node of a graph. -/
def Graph.output (g : Graph) : Option OutNode := g.nodes.findSome? (fun r => match r.node with | .output o => some o | _ => none)
/-- A stream of the graph may use the sink now (R345). -/
def State.sinkFree (s : State) (g : Graph) : Sink → Bool
  | .port p k => s.mayBind p k ((g.output.map (fun o => o.rate)).getD 0)
  | _ => true
/-- A request's cycles leave the reservation: it is not placed after all. -/
def State.unreserve (s : State) (p : PendAdmit) : State :=
  match s.graphOf p.graph with
  | none => s
  | some g => match g.cost p.size with
    | none => s
    | some c =>
      let b := budgetOf g
      if g.ticked then s.setN (Reg.TBG_RES p.cluster b) (s.rn (Reg.TBG_RES p.cluster b) - c.cycles) else s
/-- Every entry of a new sequence's list reads EMPTY (R235, R236). -/
def State.clearList (s : State) (h : Nat) : State :=
  let v := (s.strm h).kv
  if v.st = .none then s else s.zeroRange v.list (4 * v.cap)
/-- A new stream takes its place under a new handle (R263). -/
def State.landOpen (s : State) (p : PendAdmit) : Nat × State :=
  let (h, s1) := s.newId
  let (o, s2) := s1.nextOrder
  let x := p.strm
  let s3 := s2.setStrm h { x with
    cluster := some p.cluster
    order := o
    opened := s.tb
    resv := if x.kv.st = .none then 0 else x.pages
    kv := { x.kv with home := clDie p.cluster } }
  let s4 := match x.source with
    | some q => s3.modStrm q (fun y => { y with feeds := y.st != StrmState.closed })
    | none => s3
  (h, ((s4.clearList h).placeObjs h).countAdmit)
/-- The stream's host side: its ring and step event ring. -/
def State.openHost (s : State) (h sq : Nat) (flags : Nat) : State :=
  s.setStrmHost h { relSq := sq, stepCq := if bitAt flags 0 then some (bitsAt flags 2 6) else none }
/-- Binds a new stream's port slot. -/
def State.bindSink (s : State) (h : Nat) : State :=
  match (s.strm h).sink with
  | .port p k => s.bindSlot p k h
  | _ => s
/-- An open completes with its new handle; a port slot that another stream has taken meanwhile refuses it. -/
def State.finishOpen (s : State) (p : PendAdmit) (f q : Nat) (d : BitVec 512) : State :=
  if !((s.graphOf p.graph).map (fun g => s.sinkFree g p.strm.sink)).getD false then (s.unreserve p).endCmd f q d 8 0
  else
    let (h, s1) := s.landOpen p
    let s2 := if s1.fmt1 f q then s1.modStrm h (fun x => { x with drift := BitVec.ofNat 64 (s1.handleOf h) }) else s1
    let s3 := ((s2.openHost h q (db d 11 1)).bindSink h).strmCount Reg.STRM_OPENS 1
    (s3.endCmd f q d 0 (s3.handleOf h)).lookAt h

/-! The close (R257, R262, R264). -/

/-- Consumers fed by a stream are bound no longer. -/
def State.unsource (s : State) (h : Nat) : State :=
  { s with streams := s.streams.map (fun e => if e.2.source == some h then (e.1, { e.2 with source := none }) else e) }
/-- Nomad cores of an invocation are freed. -/
def stopCores (g : Nat) (s : State) : List Nat → State
  | [] => s
  | n :: t =>
    let c := s.core n
    stopCores g (match c.inv with
      | some v => if v.handle = g then (((s.clearCore n).nmdState n 0).setN (Reg.NMD_STATUS n) 0).setN (Reg.NMD_KERNEL n) 0 else s
      | none => s) t
/-- Work that units hold of a step that is given up: cores, saved cores and operations. -/
def State.dropWork (s : State) (h : Nat) : State :=
  let g := s.handleOf h
  let cl := s.clOf h
  let s1 := stopCores g s (coresOf cl)
  let s2 : State := { s1 with savedCores := s1.savedCores.filter (fun x => (x.2.2.inv.map (fun v => v.handle)) != some g) }
  let w := s2.wk cl
  s2.setWk cl { w with
    running := w.running.filter (fun e => (e.2.map (fun o => o.handle)) != some h)
    saved := w.saved.filter (fun o => o.handle != h) }
/-- No stream, pending export or Crest instance of the pools that drain is left: the drain ends (R67). -/
def State.checkDrain (s : State) : State :=
  match s.load with
  | none => s
  | some l =>
    if !l.pool || s.fld Reg.SPL_STATUS 8 3 ≠ 4 || l.drained then s
    else
      let of (g : Nat) : Bool := ((s.graphOf g).map (fun x => bitAt l.mask x.pool)).getD false
      if s.streams.any (fun e => e.2.st != .closed && of e.2.graph) || s.place.crests.any (fun c => of c.graph) then s
      else { s with load := some { l with drained := true } }
/-- Commands that wait on a stream that is gone complete REJECTED (R262, Table 12-9). -/
def rejectDue (s : State) : List (Nat × Nat × BitVec 512) → State
  | [] => s
  | (f, q, d) :: t => rejectDue (s.endCmd f q d 8 0) t
/-- A restore that still waits to be placed is given up. -/
def cancelRestores (h : Nat) (s : State) : List PendAdmit → State
  | [] => { s with place := { s.place with pend := s.place.pend.filter (fun p => !(p.src == .restore && p.handle == h)) } }
  | p :: t => cancelRestores h (if p.src = .restore ∧ p.handle = h then s.unreserve p else s) t
def State.cancelRestore (s : State) (h : Nat) : State := (cancelRestores h s s.place.pend).showPreempting
/-- The stream is gone: everything it holds is released, and its handle is free. A step in progress is given up. -/
def State.removeStream (s : State) (h : Nat) : State :=
  let x := s.strm h
  let s0 := (if x.step.isSome then s.dropWork h else s).cancelRestore h
  let s1 := (s0.releaseAll h ((x.step.map (fun r => r.spent)).getD [])).releaseAll h x.queue
  let s2 := ((s1.dropCache h).freeSaved h).unplace h
  let s3 := match x.sink with | .port p k => s2.unbindSlot p k | _ => s2
  let s4 := rejectDue s3 (x.due ++ (x.attach.map (fun a => (a.1, a.2.1, a.2.2.1))).toList)
  let s5 := ((s4.dropItem h).unsource h).setStrm h {}
  (s5.setStrmHost h {}).strmCount Reg.STRM_CLOSES 1

/-! Imports (R249, R282, R283). -/

/-- A refused import counts (R282). -/
def State.importRej (s : State) (f q : Nat) (d : BitVec 512) (status : Nat) : State :=
  ((s.strmCount Reg.STRM_IMPORT_REJ 1).raise Reg.STRM_INT_STATUS 1).endCmd f q d status 0
/-- The pages of imported blocks are written, and full blocks of a PREFIX sequence enter the index in order. -/
def fillBlocks (h : Nat) (k : KvDecl) (s : State) : Nat → List (Nat × List Word × List (List Byte)) → State
  | _, [] => s
  | j, (n, tok, pages) :: t =>
    let put (s : State) (x : List Byte × Nat) : State :=
      match s.pageAt h (j * k.groups + x.2) with
      | some f => s.writePage s.oasisReader f 0 x.1
      | none => s
    let s1 := pages.zipIdx.foldl put s
    let v := (s1.strm h).kv
    let v1 : KvSeq := { v with
      allTokens := v.allTokens ++ tok.take n
      tokens := if n < 128 then tok.take n else [] }
    let s2 := s1.setKv h v1
    if n < 128 then s2
    else
      let hash := blockHash v.lastHash tok k.model (s.strm h).fn
      let s3 := if k.indexed then
          (s2.setKv h { v1 with lastHash := hash }).insertBlock h j k hash tok else s2
      fillBlocks h k s3 (j + 1) t
/-- The state an import gives the stream (R283): that of the parcel's FLAGS, or PAUSED until its resume tick. -/
def State.importState (s : State) (h : Nat) (at_ : Nat) : State :=
  let x := s.strm h
  let due := at_ != 2 ^ 64 - 1
  let later := due && s.isTicked h && (match s.graphOf x.graph with
    | some g => decide (s.tickCount g.plane g.frame < at_)
    | none => false)
  s.setStrm h { x with
    st := if later then .paused else if x.prev = .paused ∧ due then .active else x.prev
    wasIdle := x.prev == .idle
    resumeTick := if later then some at_ else none
    prev := .closed
    atCurrent := true
    import_ := none
    kv := { x.kv with incoming := [] } }
/-- An import that holds its pages completes with its new handle. -/
def State.finishImport (s : State) (h : Nat) : State :=
  let x := s.strm h
  match x.import_ with
  | none => s
  | some (f, q, d) =>
    let s1 := match s.kvOf h with | some k => fillBlocks h k s 0 x.kv.incoming | none => s
    let s2 := (s1.importState h (db d 48 8)).bindSink h
    let s3 := (s2.strmCount Reg.STRM_OPENS 1).strmCount Reg.STRM_IMPORTS 1
    (s3.endCmd f q d 0 (s3.handleOf h)).lookAt h
/-- An import gives everything back: nothing is opened. -/
def State.undoImport (s : State) (h f q : Nat) (d : BitVec 512) (status : Nat) : State :=
  let s1 := (s.dropCache h).unplace h
  ((s1.setStrm h {}).setStrmHost h {}).importRej f q d status
/-- A placed import asks for the pages of its cache (R249). -/
def State.landImport (s : State) (p : PendAdmit) (f q : Nat) (d : BitVec 512) : State :=
  if !((s.graphOf p.graph).map (fun g => s.sinkFree g p.strm.sink)).getD false then (s.unreserve p).importRej f q d 8
  else
    let (h, s1) := s.landOpen p
    let s2 := (s1.modStrm h (fun x => { x with import_ := some (f, q, d) })).openHost h q (db d 21 1)
    match s2.kvOf h with
    | none => s2.finishImport h
    | some k =>
      let (full, s3) := s2.wantPages h (List.range ((s2.strm h).kv.incoming.length * k.groups))
      if full then s3.undoImport h f q d 3
      else if (s3.strm h).kv.need.isEmpty then s3.finishImport h
      else s3
/-- Imports that have got their pages complete. -/
def finishImports (s : State) : List Nat → State
  | [] => s
  | h :: t => finishImports (if (s.strm h).import_.isSome ∧ (s.strm h).kv.need.isEmpty then s.finishImport h else s) t

/-! Admission (R356 to R358). -/

/-- Placements whose victims are out and whose region is awake take effect. -/
def landOne (s : State) (p : PendAdmit) : State :=
  match p.src with
  | .command f q d => if dOp d = 7 then s.landImport p f q d else s.finishOpen p f q d
  | .restore => s.landRestore p.handle p.cluster
  | .crest ch => s.landCrest ch p.graph p.cluster p.size
def landReady (s : State) : List PendAdmit → State
  | [] => s
  | p :: t =>
    if !p.waking && p.victims.all (fun v => (s.strm v).cluster != some p.cluster) then
      let s1 : State := { s with place := { s.place with pend := s.place.pend.filter (fun y => y != p) } }
      landReady (landOne s1 p) t
    else landReady s t
def State.settle (s : State) : State := (landReady s s.place.pend).showPreempting
/-- Marks victims; those whose step does not keep them go at once. -/
def takeVictims (s : State) : List Nat → State
  | [] => s
  | v :: t =>
    let s1 := s.modStrm v (fun x => { x with victim := true })
    takeVictims (if s1.mayLeave v then s1.swapOutStream v else s1) t
/-- Asks for admission. False: no room, and nothing is held. -/
def State.takeIn (s : State) (p : PendAdmit) (r : Request) : Bool × State :=
  let (dec, s1) := s.decide_ r
  let hold (q : PendAdmit) (t : State) : State := { t with place := { t.place with pend := t.place.pend ++ [q] } }
  match dec with
  | .noRoom => (false, s1)
  | .on cl => (true, landOne (s1.reserve r cl) { p with cluster := cl })
  | .wake cl => (true, (hold { p with cluster := cl, waking := true } (s1.reserve r cl)).wakeRegion (clRegion16 cl))
  | .preempt cl v =>
    let s2 := hold { p with cluster := cl, victims := v } (s1.reserve r cl)
    let s3 := (s2.count Reg.PLC_PREEMPT 1 Reg.PLC_INT_STATUS 5).raise Reg.PLC_INT_STATUS 1
    (true, (takeVictims s3 v).settle)
/-- A step that yielded is to be finished first, though its stream may be paused: a close or an export waits for it (R262,
R278). -/
def State.mustFinish (s : State) (h : Nat) : Bool :=
  let x := s.strm h
  x.step.isSome && (x.closing || x.due.any (fun c => dOp c.2.2 == 0x06))
/-- A SWAPPED stream with a ready step, or one that yielded, asks to be restored (R275). -/
def State.restoreOne (s : State) (h : Nat) : State :=
  let x := s.strm h
  if !(x.st == .swapped || (x.st == .paused && x.cluster.isNone && s.mustFinish h)) || (x.closing && x.step.isNone) || !(s.stepReady h || x.step.isSome) || s.place.pend.any (fun p => p.src == .restore && p.handle == h) then s
  else match s.graphOf x.graph with
    | none => s
    | some g =>
      match g.cost x.size with
      | none => s
      | some c =>
        let p : PendAdmit := { handle := h, cls := x.cls, graph := x.graph, size := x.size }
        (s.takeIn p ⟨g, x.cls, c⟩).2
/-- Streams that have just been swapped out with a ready step ask at once, in order; what their admission swaps out asks
too (R275). -/
def askers : Nat → State → State
  | 0, s => s
  | n + 1, s =>
    match s.streams.find? (fun e => e.2.asks) with
    | none => s
    | some e => askers n ((s.modStrm e.1 (fun x => { x with asks := false })).restoreOne e.1)
def State.asked (s : State) : State := askers (2 * s.streams.length) s
/-- A SWAPPED stream asks to be restored, and so do those that its admission swaps out. -/
def State.tryRestore (s : State) (h : Nat) : State := (s.restoreOne h).asked
def tryRestores (s : State) : List Nat → State
  | [] => s
  | h :: t => tryRestores (s.tryRestore h) t
/-- Victims of a list that have yielded leave (R274). -/
def leaveAll (s : State) : List Nat → State
  | [] => s
  | h :: t => leaveAll (if (s.strm h).victim && s.mayLeave h then ((s.swapOutStream h).settle).asked else s) t
/-- Requests that wait to be placed, those that the flag picks, end with a status. -/
def endPends (st : Nat) (pick : PendAdmit → Bool) (s : State) : List PendAdmit → State
  | [] => s
  | p :: t =>
    if !pick p then endPends st pick s t
    else
      let s1 : State := { s.unreserve p with place := { s.place with pend := s.place.pend.filter (fun y => y != p) } }
      let s2 := match p.src with
        | .command f q d => if dOp d = 7 then s1.importRej f q d st else s1.endCmd f q d st 0
        | _ => s1
      endPends st pick s2.showPreempting t
/-- They end NO_ROOM (R66, R368). -/
def failPends (pick : PendAdmit → Bool) (s : State) (l : List PendAdmit) : State := endPends 4 pick s l

/-! What follows a change: pages, drains, admissions. -/

/-- After streams have gone: pages are served, imports that have theirs complete, the drain may end and admissions may land. -/
def State.afterGone (s : State) : State :=
  let s1 := s.pagesFreed
  (finishImports s1 (s1.streams.map (fun e => e.1))).checkDrain.settle
/-- Closes a stream that has no step in progress. -/
def State.closeNow (s : State) (h : Nat) : State := (s.removeStream h).afterGone

end Sys2Proof.Machine
end

