-- ==== Sys2Proof/Machine/CmdAudio.lean ====
section
/-!
DEFINITION. Meanings of the serial audio port commands (chapter 15): starts and stops, frames, steering, rate measurement,
masks and counters, and the samples that the ports give to Ripple (R304).
-/

namespace Sys2Proof.Machine

/-! Ripple's samples (R304). -/

/-- KIND, PORT and SLOT of a channel's source (Table 14-12). -/
def Channel.kind (c : Channel) : Nat := bitsAt c.src.toNat 30 2
def Channel.portOf (c : Channel) : Nat := bitsAt c.src.toNat 24 3
def Channel.slotOf (c : Channel) : Nat := bitsAt c.src.toNat 16 5
/-- A sample joins a channel's input; each 80th ends a frame (R303). -/
def Channel.sample (c : Channel) (tb : Dword) (x : Int) : Channel :=
  { c with
    inbuf := c.inbuf ++ [x]
    ends := if (c.inbuf.length + 1) % 80 = 0 then c.ends ++ [tb] else c.ends }
/-- A linear value of a port as 16-bit linear. -/
def State.lin16 (s : State) (n : Nat) (x : Int) : Int :=
  let l := s.linBits n
  if l ≤ 16 then x * (2 : Int) ^ (16 - l) else x / (2 : Int) ^ (l - 16)
/-- Gives a slot's sample of frame f to the channels of a list that listen to it: directly at 8 kHz; at 16 kHz through the
half-band decimator, whose coefficients the spec does not give, one open value for two frames (log 4). -/
def feedSlot (n slot f : Nat) (x : Int) (s : State) : List Nat → State
  | [] => s
  | k :: t =>
    let c := s.chan k
    if c.st = ChanState.off ∨ c.kind ≠ 1 ∨ c.portOf ≠ n ∨ c.slotOf ≠ slot then feedSlot n slot f x s t
    else match s.fld (Reg.SAP_Pn_RATE n) 20 4 with
      | 1 => feedSlot n slot f x (s.setChan k (c.sample s.tb x)) t
      | 2 =>
        if f % 2 = 0 then feedSlot n slot f x s t
        else
          let (v, s1) := s.free
          feedSlot n slot f x (s1.setChan k (c.sample s.tb (ofBits 16 v.toNat))) t
      | _ => feedSlot n slot f x s t
def State.portChans (s : State) (n : Nat) : List Nat :=
  (s.casc.chans.filter (fun e => e.2.kind == 1 && e.2.portOf == n)).map (fun e => e.1)

/-! Settings and starts (R336, R349, R350). -/

/-- The registers that an AUDIO record sets (Tables 15-5, 15-6); zero without one. Bindings end with the old record. -/
def State.applyAudio (s : State) (n : Nat) : State :=
  let r : AudioRec := (s.structure_.audio.find? (fun r => r.port == n)).getD { timing := 0 }
  let s1 := (((s.setReg (Reg.SAP_Pn_CFG n) r.cfg).setReg (Reg.SAP_Pn_CLK n) r.clk).setReg (Reg.SAP_Pn_TIMING n) r.timing).setReg
    (Reg.SAP_Pn_STEER n) r.steer
  let s2 := (s1.setPort n { s1.port n with changed := false, slots := [], bindShadow := [] }).setN (Reg.SAP_Pn_BOUND n) 0
  s2.showHeld n
/-- A slot as a start leaves it: it schedules again. -/
def PortSlot.restarted (x : PortSlot) : PortSlot := { x.idled with fifo := [], next := none, quiet := false }
def State.startPort (s : State) (n : Nat) : State :=
  let p := s.port n
  let p1 : Port := { p with
    running := true
    fresh := true
    txStart := true
    rxStart := true
    tail := none
    wire := []
    noSync := false
    txBytes := 0
    rxBytes := 0
    rxGap := false
    slots := (p.slots.map (fun e => (e.1, e.2.restarted))).filter (fun e => e.2 != {})
    steerSum := 0
    steerN := 0
    steerUnder := false
    rateN := 0
    rateRun := none }
  ((s.setPort n p1).setPair (Reg.SAP_Pn_FRAME_LO n) 0).sapState n 1
def startPorts (s : State) : List Nat → State
  | [] => s
  | m :: t => startPorts (s.startPort m) t
/-- The stop begins: so many frames of zeros follow the frame in progress. -/
def beginStop (tail : Nat) (s : State) : List Nat → State
  | [] => s
  | m :: t => beginStop tail ((s.setPort m { s.port m with tail := some tail }).sapState m 3) t
/-- A write of RUN: it starts or stops the group that the port leads; a member and a port without an AUDIO record ignore
it. RUN = 1 during the tail starts again when the stop completes. -/
def State.writeRun (s : State) (n : Nat) (run : Bool) : State :=
  let p := s.port n
  if (!s.sapUsed n && !p.running) || s.sapLeader n != n then s
  else
    let s1 := s.setBit (Reg.SAP_Pn_CTRL n) 0 run
    if run && !p.running then startPorts s1 (s1.sapGroup n)
    else if !run && p.running && p.tail.isNone then beginStop (s1.sapTail n) s1 (s1.sapGroup n)
    else s1
/-- Shows the trim. -/
def State.setTrim (s : State) (n : Nat) (x : Int) : State :=
  ((s.setPort n { s.port n with trim := x }).setReg (Reg.SAP_Pn_TRIM n) (BitVec.ofInt 32 x)).setBit (Reg.SAP_Pn_STATUS n) 6
    (x.natAbs == 3200)
/-- A write of SAP_Pn_CTRL (Table 15-7). -/
def State.writeSapCtrl (s : State) (n v : Nat) : State :=
  let s1 := s.setBit (Reg.SAP_Pn_CTRL n) 1 (bitAt v 1)
  let s2 := if bitAt v 2 then s1.setTrim n 0 else s1
  s2.writeRun n (bitAt v 0)
/-- PORT_START, PORT_STOP (R349) and TRIM_CLR (R337): writes of SAP_Pn_CTRL. -/
def execPortStart (n : Fin 8) (v : Word) (s : State) : Host.Outcome State Fault Refusal :=
  .next (s.live (fun t => t.writeSapCtrl n v.toNat))
def execPortStop (n : Fin 8) (v : Word) (s : State) : Host.Outcome State Fault Refusal :=
  .next (s.live (fun t => t.writeSapCtrl n v.toNat))
def execTrimClr (n : Fin 8) (v : Word) (s : State) : Host.Outcome State Fault Refusal :=
  .next (s.live (fun t => t.writeSapCtrl n v.toNat))

/-! Held changes (R341, R342). -/

/-- A binding or unbinding of a TX slot takes effect; samples still queued for an unbound stream are dropped. -/
def applyBinds (n : Nat) (s : State) : List (Nat × Option Nat) → State
  | [] => s
  | (i, none) :: t =>
    let p := s.port n
    let y := p.slot i
    applyBinds n ((s.setPort n (p.setSlot i { y with bound := none, fifo := [], next := none })).sapCount n
      (Reg.SAP_Pn_TX_DROP n) y.fifo.length 4) t
  | (i, some h) :: t =>
    let p := s.port n
    let y := p.slot i
    let z := y.beginQuiet
    applyBinds n (s.setPort n (p.setSlot i { (if z.quietRun then z else z.idled) with
      bound := some h
      fifo := y.fifo
      next := y.next })) t
/-- Slots whose enable changes are in IDLE. -/
def idleSlots (old new : Nat) (p : Port) : List Nat → Port
  | [] => p
  | i :: t => idleSlots old new (if bitAt old i != bitAt new i then p.setSlot i { (p.slot i).idled with starved := (p.slot i).starved } else p) t
/-- Shows the slots fed by streams and the epochs. -/
def State.showBound (s : State) (n : Nat) : State :=
  let p := s.port n
  let b := (p.slots.filter (fun e => e.2.bound.isSome)).foldl (fun a e => a + 2 ^ e.1) 0
  (s.setN (Reg.SAP_Pn_BOUND n) b).setN (Reg.SAP_Pn_EPOCH n) (p.txEpoch % 65536 + p.rxEpoch % 65536 * 65536)
/-- A change, a start among them, that finds no side record stays held, and counts once. -/
def State.applyTx (s : State) (n f : Nat) : State :=
  let p := s.port n
  let start := p.txStart
  if !start && p.txShadow.isNone && p.bindShadow.isEmpty then s
  else if !s.sideRoom n 0 then
    (if p.txHeldCnt then s else (s.setPort n { p with txHeldCnt := true }).sapBump n (Reg.SAP_Pn_MASK_HELD n) 1)
  else
    let old := s.rn (Reg.SAP_Pn_TXMASK n)
    let new := (p.txShadow.map BitVec.toNat).getD old
    let s1 := applyBinds n s p.bindShadow
    let p1 := idleSlots old new (s1.port n) (List.range 32)
    let s2 := s1.setPort n { p1 with
      txShadow := none
      bindShadow := []
      txStart := false
      txHeldCnt := false
      txEpoch := (p1.txEpoch + 1) % 2 ^ 32 }
    (((s2.setN (Reg.SAP_Pn_TXMASK n) new).showBound n).sideRecord n 0 f (4 * b2n start)).showHeld n
def State.applyRx (s : State) (n f : Nat) : State :=
  let p := s.port n
  let start := p.rxStart
  if !start && p.rxShadow.isNone then s
  else if !s.sideRoom n 1 then
    (if p.rxHeldCnt then s else (s.setPort n { p with rxHeldCnt := true }).sapBump n (Reg.SAP_Pn_MASK_HELD n) 1)
  else
    let new := (p.rxShadow.map BitVec.toNat).getD (s.rn (Reg.SAP_Pn_RXMASK n))
    let s1 := s.setPort n { p with
      rxShadow := none
      rxStart := false
      rxHeldCnt := false
      rxEpoch := (p.rxEpoch + 1) % 2 ^ 32 }
    (((s1.setN (Reg.SAP_Pn_RXMASK n) new).showBound n).sideRecord n 1 f (4 * b2n start)).showHeld n

/-! One frame sync (R340 to R348). -/

/-- The slots of a mask below the port's slot count. -/
def State.sapEnabled (s : State) (n mask : Nat) : List Nat := (List.range (s.sapSlots n)).filter (fun i => bitAt mask i)
/-- A byte lies in a granule that is delivered as zeros. -/
def State.byteBad (s : State) (a : Nat) : Bool :=
  match placeOf a with
  | .dram _ => s.granBad (a / 64 * 64)
  | .host | .none | .regs => false
  | _ => !(s.badWords (a / 64 * 64)).isEmpty
/-- The value of a frame's sample i in the TX ring; a sample of an uncorrectable granule is zero. -/
def State.ringSample (s : State) (n w i : Nat) (data : List Byte) : Int :=
  let (base, size) := s.sapRing n 0
  let k := s.memSize n
  if (ringPieces base size (w + i * k) k).any (fun r => s.byteBad r.1 || s.byteBad (r.1 + r.2 - 1)) then 0
  else s.ofMem n ((data.drop (i * k)).take k)
/-- The samples of a frame's ring-fed slots, where its bytes are present; the part pointer advances in any case (R344). -/
def State.takeRing (s : State) (n : Nat) (slots : List Nat) : List (Nat × Int) × State :=
  let nb := s.memSize n * slots.length
  let (base, size) := s.sapRing n 0
  let w := s.sapHw n 0
  let d := (s.sapSw n 0 + 2 ^ 32 - w) % 2 ^ 32
  let p := s.port n
  let go (t : State) : State := (t.setSapHw n 0 (w + nb)).setPort n { p with txBytes := p.txBytes + nb }
  if nb = 0 then ([], s)
  else if base = 0 ∨ d < nb ∨ size < d then ([], go s)
  else
    let r := s.readRuns (s.oasLoc 16 n) (ringPieces base size w nb)
    (slots.zipIdx.map (fun x => (x.1, s.ringSample n w x.2 r.bytes)), go r.st)
/-- What is put on the wire for a linear value: its word, left-justified in the slot (R332). -/
def State.slotBitsOf (s : State) (n : Nat) (x : Int) : Nat := s.wireOf n x * 2 ^ (s.sapSlotBits n - s.sapWord n)
/-- The tally of a stream sample on the wire (R346): one sample period at the stream's rate. -/
def State.billSample (s : State) (n h : Nat) (deg : Bool) : State :=
  let x := s.strm h
  match (s.graphOf x.graph).bind Graph.output with
  | some o => if o.rate = 0 then s else s.tally (192 + n) x.fn 0 deg (14112000 / o.rate)
  | none => s
/-- An uncorrectable word of a slot FIFO is met: zeros go out in the sample's place, which is counted and recorded under R172
and not tallied (R351, log 6). -/
def State.fifoError (s : State) (n : Nat) : State :=
  let (v, s1) := s.free
  (s1.count Reg.RPL_AON_UE 1 Reg.RPL_INT_STATUS 2).report 1 3 (s1.oasLoc 16 n) 1 (0x10200000000 + v.toNat % 0x5000000)
/-- One TX slot of frame f: `zeros` in lead and tail frames, `driven` unless the frame is too short for the slot. -/
def State.txSlot (s : State) (n f : Nat) (zeros driven : Bool) (ring : List (Nat × Int)) (i : Nat) : State :=
  let p := s.port n
  let y := p.slot i
  let smp := y.fifo.find? (fun e => e.1 == f)
  let y1 : PortSlot := { y with
    fifo := y.fifo.filter (fun e => decide (f < e.1))
    bad := y.bad.filter (fun e => decide (f < e)) }
  let out (t : State) (q : Port) (w : Option Nat) : State :=
    t.setPort n { q with wire := q.wire ++ [if driven then w else none] }
  if !bitAt (s.rn (Reg.SAP_Pn_TXMASK n)) i then
    (out s (p.setSlot i { y1 with starved := y1.starved && smp.isNone }) (if s.rbit (Reg.SAP_Pn_CFG n) 16 then none else some 0)).sapBump n (Reg.SAP_Pn_MASKED n)
      (b2n smp.isSome)
  else if zeros then
    (out s (p.setSlot i y1) (some (s.slotBitsOf n 0))).sapCount n (Reg.SAP_Pn_TX_DROP n) (b2n smp.isSome) 4
  else
    let v := match y.bound with
      | some _ => smp.map (fun e => if y.bad.contains f then 0 else e.2.1)
      | none => (ring.find? (fun e => e.1 == i)).map (fun e => e.2)
    let o := y1.send (s.sapHold n) v
    let ref_ := s.fld (Reg.SAP_Pn_STEER n) 10 5 == i
    let p1 := p.setSlot i o.slot
    let s1 := out s { p1 with steerUnder := p1.steerUnder || (ref_ && o.under != 0) } (some (s.slotBitsOf n o.value))
    let s2 := (s1.bump64 (Reg.SAP_Pn_UNDERRUN_LO n) (if driven then o.under else 0)).sapCount n (Reg.SAP_Pn_STARVE n) o.starve 2
    match y.bound, smp with
    | some h, some (_, _, deg) => if y.bad.contains f then s2.fifoError n else if driven then s2.billSample n h deg else s2
    | _, _ => s2
def txSlots (n f : Nat) (zeros : Bool) (k : Nat) (ring : List (Nat × Int)) (s : State) : List Nat → State
  | [] => s
  | i :: t => txSlots n f zeros k ring (s.txSlot n f zeros (decide (i < k)) ring i) t
/-- The word received in slot i; none, received as zero, where the frame did not complete it (R333). -/
def State.rxWord (s : State) (n k : Nat) (rx : List Word) (i : Nat) : Option Nat :=
  if i < k then some (bitsAt (rx.getD i 0).toNat (s.sapSlotBits n - s.sapWord n) (s.sapWord n)) else none
/-- Its bytes in the RX ring and its linear value; a zero kept as a wire byte is the byte of linear zero. -/
def State.rxMem (s : State) (n : Nat) : Option Nat → List Byte
  | some w => s.memOf n w
  | none => if s.memSize n = 1 then leBytes 1 (s.wireOf n 0) else List.replicate (s.memSize n) 0
def State.rxLin (s : State) (n : Nat) : Option Nat → Int
  | some w => s.linOf n w
  | none => 0
/-- An RX frame goes to the ring whole or not at all (R343). -/
def State.rxRing (s : State) (n f : Nat) (words : List (Option Nat)) : State :=
  let en := s.sapEnabled n (s.rn (Reg.SAP_Pn_RXMASK n))
  let b := en.flatMap (fun i => s.rxMem n (words.getD i none))
  let p := s.port n
  if b = [] ∨ (s.sapRing n 2).1 = 0 then s
  else if s.sapRoom n 2 < b.length ∨ (p.rxGap ∧ !s.sideRoom n 1) then
    (s.setPort n { p with rxGap := true }).sapCount n (Reg.SAP_Pn_RX_DROP n) en.length 5
  else
    let s1 := if p.rxGap then s.sideRecord n 1 f 2 else s
    (s1.sapPut n 2 b).setPort n { p with rxGap := false, rxBytes := p.rxBytes + b.length }
/-- Ripple hears every slot, whatever the mask. -/
def feedSlots (n f : Nat) (words : List (Option Nat)) (s : State) : List Nat → State
  | [] => s
  | i :: t => feedSlots n f words (feedSlot n i f (s.lin16 n (s.rxLin n (words.getD i none))) s (s.portChans n)) t
/-- The runs of 256 frames that the rate is measured over (R338). -/
def Port.measured (p : Port) (tb : Dword) : Port :=
  if p.rateN = 0 then { p with rateN := 1, rateTb := tb }
  else if p.rateN = 256 then { p with rateN := 1, rateTb := tb, rateRun := some (tb - p.rateTb).toNat }
  else { p with rateN := p.rateN + 1 }
/-- The steering window takes the reference slot's level (R337). -/
def State.steerLevel (s : State) (n : Nat) : State :=
  if !s.sapMaster n || !s.rbit (Reg.SAP_Pn_STEER n) 15 then s
  else
    let p := s.port n
    s.setPort n { p with
      steerSum := p.steerSum + ((p.slot (s.fld (Reg.SAP_Pn_STEER n) 10 5)).fifo.length : Nat)
      steerN := p.steerN + 1 }
/-- One port's frame f, under its group's leader l, with `k` slots complete. -/
def State.portFrame (s : State) (l n f k : Nat) (rx : List Word) : State :=
  let p := s.port n
  let slots := s.sapSlots n
  let s0 := (s.setPort n ({ p with fresh := false, noSync := false, wire := [] }.measured s.tb)).setPair (Reg.SAP_Pn_FRAME_LO n) f
  let s1 := (s0.applyTx n f).applyRx n f
  let zeros := decide (f < s.sapLead l) || p.tail.isSome
  let fed := (s1.sapEnabled n (s1.rn (Reg.SAP_Pn_TXMASK n))).filter (fun i => ((s1.port n).slot i).bound.isNone)
  let (ring, s2) := s1.takeRing n fed
  let s3 := (txSlots n f zeros k ring s2 (List.range slots)).steerLevel n
  let words := (List.range slots).map (s3.rxWord n k rx)
  let s4 := feedSlots n f words (s3.rxRing n f words) (List.range slots)
  let q := s4.port n
  ((s4.setPort n { q with tail := q.tail.map (fun t => t - 1) }).sapState n
    (if p.tail.isSome then 3 else if f < s.sapLead l then 1 else 2)).setBit (Reg.SAP_Pn_STATUS n) 7 (!s.sapMaster l && decide (k < slots))
def portFrames (l f k : Nat) (master : Bool) (s : State) (rx : List Word) : List Nat → State
  | [] => s
  | m :: t =>
    portFrames l f k master (s.portFrame l m f (if master then s.sapSlots m else min k (s.sapSlots m)) (rx.take k)) (rx.drop k) t
/-- PORT_FRAME (R340): the group that port n leads has its next frame; `rx` holds the slots received, port by port. -/
def doPortFrame (n : Fin 8) (rx : List Word) (s : State) : State :=
  let p := s.port n
  if !p.running || s.sapLeader n != n || p.tail == some 0 then s
  else
    let g := s.sapGroup n
    let f := if p.fresh then 0 else (s.sapFrame n + 1) % 2 ^ 64
    portFrames n f (rx.length / max 1 g.length) (s.sapMaster n) s rx g
def execPortFrame (n : Fin 8) (rx : List Word) (s : State) : Host.Outcome State Fault Refusal :=
  .next (s.live (doPortFrame n rx))

/-! Stop, steering, rate and sync. -/

/-- One port of a group has stopped: its STOP records, and samples still queued are dropped. -/
def State.stopPort (s : State) (n : Nat) : State :=
  let f := if (s.port n).fresh then 0 else s.sapFrame n + 1
  let s1 := (s.sideRecord n 0 f 8).sideRecord n 1 f 8
  let p := s1.port n
  let left := (p.slots.map (fun e => e.2.fifo.length)).foldl (fun a b => a + b) 0
  let p1 : Port := { p with
    running := false
    tail := none
    wire := []
    slots := (p.slots.map (fun e => (e.1, { e.2 with fifo := [], next := none }))).filter (fun e => e.2 != {}) }
  let s2 := (((s1.setPort n p1).sapCount n (Reg.SAP_Pn_TX_DROP n) left 4).sapState n 0).raise (Reg.SAP_Pn_INT_STATUS n) 8
  if p.changed then s2.applyAudio n else s2
def stopPorts (s : State) : List Nat → State
  | [] => s
  | m :: t => stopPorts (s.stopPort m) t
/-- PORT_STOP_COMPLETE (R349): the tail has been sent. -/
def doPortStopComplete (n : Fin 8) (s : State) : State :=
  let p := s.port n
  if !p.running || s.sapLeader n != n || p.tail != some 0 then s
  else
    let s1 := stopPorts s (s.sapGroup n)
    if s1.rbit (Reg.SAP_Pn_CTRL n) 0 && s1.sapUsed n && s1.sapLeader n == n then startPorts s1 (s1.sapGroup n) else s1
def execPortStopComplete (n : Fin 8) (s : State) : Host.Outcome State Fault Refusal := .next (s.live (doPortStopComplete n))

/-- The reference slot is bound to a live stream (R337, R348). -/
def State.refLive (s : State) (n : Nat) : Bool :=
  match ((s.port n).slot (s.fld (Reg.SAP_Pn_STEER n) 10 5)).bound with
  | some h => let x := (s.strm h).st
    x != .closed && x != .idle && x != .paused
  | none => false
/-- STEER_UPDATE (R337): a whole window of 2^LOG frames has passed. -/
def doSteerUpdate (n : Fin 8) (s : State) : State :=
  let p := s.port n
  let w := 2 ^ max 4 (min 12 (s.fld (Reg.SAP_Pn_STEER n) 6 4))
  if !p.running || !s.sapMaster n || !s.rbit (Reg.SAP_Pn_STEER n) 15 || decide (p.steerN < w) then s
  else
    let s1 := s.setPort n { p with steerSum := 0, steerN := 0, steerUnder := false }
    if !s.refLive n || p.steerUnder || s.rbit (Reg.SAP_Pn_CTRL n) 1 then s1
    else
      let e := p.steerSum / (w : Int) - (s.sapSetpoint n : Int)
      let t := clampInt (-3200) 3200 (p.trim + (s.fld (Reg.SAP_Pn_STEER n) 0 6 : Int) * e)
      let s2 := s1.setTrim n t
      if t.natAbs = 3200 ∧ t ≠ p.trim then s2.raise (Reg.SAP_Pn_INT_STATUS n) 7 else s2
def execSteerUpdate (n : Fin 8) (s : State) : Host.Outcome State Fault Refusal := .next (s.live (doSteerUpdate n))

/-- The class of a rate whose 256 frames took d ns (R338). -/
def rateClass (d : Nat) : Nat :=
  let near (r : Nat) : Bool := decide (98 * r * d ≤ 25600000000000) && decide (25600000000000 ≤ 102 * r * d)
  (([8000, 16000, 24000, 32000, 44100, 48000].findIdx? near).map (fun i => i + 1)).getD 7
/-- RATE_MEASURE (R338): a run of 256 frames is evaluated. -/
def doRateMeasure (n : Fin 8) (s : State) : State :=
  let p := s.port n
  match p.rateRun with
  | none => s
  | some d =>
    let s1 := s.setPort n { p with rateRun := none }
    let rate : Nat := min 0xFFFFF (if d = 0 then 0xFFFFF else 256 * 16 * 10 ^ 9 / d)
    let cls := rateClass d
    let old := s.fld (Reg.SAP_Pn_RATE n) 0 20
    if cls = s.fld (Reg.SAP_Pn_RATE n) 20 4 ∧ 200 * ((rate : Int) - (old : Int)).natAbs ≤ old then s1
    else (s1.setN (Reg.SAP_Pn_RATE n) (cls * 2 ^ 20 + rate)).sapCount n (Reg.SAP_Pn_RATE_CHG n) 1 0
def execRateMeasure (n : Fin 8) (s : State) : Host.Outcome State Fault Refusal := .next (s.live (doRateMeasure n))

def loseSync (s : State) : List Nat → State
  | [] => s
  | m :: t =>
    let s1 := s.setPort m { s.port m with noSync := true, rateN := 0, rateRun := none }
    loseSync (((s1.setN (Reg.SAP_Pn_RATE m) 0).sapState m 4).raise (Reg.SAP_Pn_INT_STATUS m) 1) t
/-- SYNC_LOST (R339, R350): a slave leader has seen no frame sync for 1 ms; its whole group loses sync. -/
def doSyncLost (n : Fin 8) (s : State) : State :=
  let p := s.port n
  if !p.running || s.sapMaster n || s.sapLeader n != n || p.noSync then s else loseSync s (s.sapGroup n)
def execSyncLost (n : Fin 8) (s : State) : Host.Outcome State Fault Refusal := .next (s.live (doSyncLost n))

/-! Samples, masks and counters. -/

/-- SLOT_SAMPLE_ARRIVAL (R345): a sample in the port's linear domain, after so many skipped ones. -/
def doSlotSampleArrival (n : Fin 8) (slot : Fin 32) (skipped : Nat) (x : Int) (deg : Bool) (s : State) : State :=
  if ((s.port n).boundTo slot).isNone then s
  else
    let m := (2 : Int) ^ (s.linBits n - 1)
    (s.skipSamples n slot skipped).arriveSample n slot deg (clampInt (-m) (m - 1) x)
def execSlotSampleArrival (n : Fin 8) (slot : Fin 32) (skipped : Nat) (x : Int) (deg : Bool) (s : State) :
    Host.Outcome State Fault Refusal := .next (s.live (doSlotSampleArrival n slot skipped x deg))
/-- TXMASK_WRITE and RXMASK_WRITE (R341): writes go to the shadow. -/
def execTxmaskWrite (n : Fin 8) (v : Word) (s : State) : Host.Outcome State Fault Refusal :=
  .next (s.live (fun t => (t.setPort n { t.port n with txShadow := some v }).showHeld n))
def execRxmaskWrite (n : Fin 8) (v : Word) (s : State) : Host.Outcome State Fault Refusal :=
  .next (s.live (fun t => (t.setPort n { t.port n with rxShadow := some v }).showHeld n))
/-- The counters of a port (R352). -/
def sapCounters (n : Nat) : List Nat := wordsFrom (Reg.SAP_Pn_UNDERRUN_LO n) (Reg.SAP_Pn_MASK_HELD n)
/-- SAP_CNT_CLR (R352): bit n clears port n's counters. -/
def doSapCntClr (v : Word) (s : State) : State :=
  (List.range 8).foldl (fun t n => if bitAt v.toNat n then t.zeroRegs (sapCounters n) else t) s
def execSapCntClr (v : Word) (s : State) : Host.Outcome State Fault Refusal := .next (s.live (doSapCntClr v))

/-- An image gives a port another AUDIO record, or none (R351): it stops first if it runs. -/
def State.changePort (s : State) (n : Nat) : State :=
  let p := s.port n
  if !p.running then s.applyAudio n
  else
    let l := s.sapLeader n
    let s1 := (s.setPort n { p with changed := true }).setBit (Reg.SAP_Pn_CTRL l) 0 false
    if p.tail.isNone then beginStop (s1.sapTail l) s1 (s1.sapGroup l) else s1

end Sys2Proof.Machine
end

