-- ==== Sys2Proof/Machine/StreamCore.lean ====
section
/-!
DEFINITION. What the stream commands and the key-value commands of a host do (Tables 12-2 and 17-4, R242 to R250), and the order in
which commands that name one stream take effect (R262, R264, R281).
-/

namespace Sys2Proof.Machine

/-! Opening (R263, R282, R354, R373). -/

/-- Streams that a function has open, or is having opened. -/
def State.fnStreams (s : State) (f : Nat) : Nat :=
  (s.streams.filter (fun e => e.2.fn == f && (e.2.st != .closed || e.2.import_.isSome))).length +
    (s.place.pend.filter (fun p => match p.src with | .command f' _ _ => f' == f | _ => false)).length
/-- The stream an open names as its source; none for a handle that is not an open stream of the function. -/
def State.sourceOf (s : State) (f v : Nat) : Option (Option Nat) :=
  if v = 0xFFFFFFFF then some none
  else match s.sidOf v with
    | none => none
    | some h => let x := s.strm h
      if x.st = .closed ∨ x.closing ∨ x.fn ≠ f then none else some (some h)
/-- A sink that the function may use for a stream of the graph. -/
def State.sinkOk (s : State) (f : Nat) (g : Graph) : Sink → Bool
  | .none => true
  | .ring a => s.mayName f a 32
  | k => s.sinkFree g k
/-- LIST and LIST_CAP of a graph with a cache declaration (R235). -/
def State.listOk (s : State) (f list cap : Nat) (g : Graph) : Bool :=
  match g.kv with
  | none => true
  | some k => list % 64 == 0 && decide (k.groups * ((k.maxCtx + 127) / 128) ≤ cap) && inOnePlace list (4 * cap) &&
      (match placeOf list with | .dram _ => true | _ => false) && s.mayName f list (4 * cap)
/-- What an open or import asks for besides its stream's own state. -/
structure OpenReq where
  cls : Nat
  size : Nat
  list : Nat
  cap : Nat
  sink : Nat
  source : Nat
  deriving DecidableEq, Repr
/-- The checks that opens and imports share: the stream's place in the world, or the status that refuses it. -/
def State.vetOpen (s : State) (f : Nat) (g : Graph) (r : OpenReq) : Nat × Option (CostEntry × Sink × Option Nat) :=
  match g.cost r.size, decodeSink r.sink, s.sourceOf f r.source with
  | some c, some k, some src =>
    if s.fld (Reg.HQ_FNf_LIMIT f) 0 3 < r.cls ∨ (r.cls = 7 ∧ !g.ticked) ∨ !s.sinkOk f g k ∨ !s.listOk f r.list r.cap g ∨
        !g.weightIds.all (fun i => ((s.weight i).map (fun w => w.present)).getD false) then (8, none)
    else if s.fld (Reg.HQ_FNf_LIMIT f) 8 16 ≤ s.fnStreams f then (4, none)
    else (0, some (c, k, src))
  | _, _, _ => (8, none)
/-- STREAM_OPEN. -/
def State.actOpen (s : State) (f q : Nat) (d : BitVec 512) : State :=
  let old := s.fmt1 f q
  match s.graphOf (db d 8 2) with
  | none => s.endCmd f q d 8 0
  | some g =>
    let r : OpenReq := { cls := dfield d 10 0 3, size := db d 12 4, list := if old then 0 else db d 32 8,
                         cap := if old then 0 else db d 40 4, sink := if old then db d 24 8 else db d 48 8,
                         source := if old then 0xFFFFFFFF else db d 44 4 }
    if old && g.kv.isSome then s.endCmd f q d 8 0
    else match s.vetOpen f g r with
      | (_, some (c, k, src)) =>
        let x : Stream :=
          { st := .active, fn := f, cls := r.cls, graph := g.id, size := r.size, seed := BitVec.ofNat 64 (db d 16 8),
            drift := if old then 0 else BitVec.ofNat 64 (db d 24 8), cycles := c.cycles, pages := c.pages, sink := k,
            source := src, items := s.initItems g, windows := g.openWindows, noWindows := g.openWindows,
            kv := if g.kv.isSome then { list := r.list, cap := r.cap, st := .resident } else {} }
        let p : PendAdmit := { src := .command f q d, cls := r.cls, graph := g.id, size := r.size, strm := x }
        let (ok, s1) := s.takeIn p ⟨g, r.cls, c⟩
        if ok then s1.asked else s1.endCmd f q d 4 0
      | (st, none) => s.endCmd f q d st 0

/-- The graph of a pool that is admitting whose node descriptors have a digest. -/
def State.graphBy (s : State) (digest : List Byte) : Option Graph :=
  s.structure_.graphs.find? (fun g => !s.draining g.pool && sha512 g.descBytes == digest)
/-- STREAM_IMPORT. The parcel holds no declared size: which entry of the cost table serves it is open (log 4). -/
def State.actImport (s : State) (f q : Nat) (d : BitVec 512) : State :=
  let src := db d 8 8
  let head := s.readData s.oasisReader src 16
  let len := slcN head.bytes 12 4
  let r := head.st.readData s.oasisReader src len
  let b := r.bytes
  if head.failed ∨ r.failed ∨ !s.mayName f src len ∨ !parcelHeadOk b then r.st.importRej f q d 8
  else
    let (ok, s1) := r.st.parcelSigned b
    match s1.graphBy (slice b 48 64) with
    | none => s1.importRej f q d 8
    | some g =>
      let (v, s2) := s1.free
      let size := ((g.costs[v.toNat % max 1 g.costs.length]?).map (fun e => e.bound)).getD 0
      let o : OpenReq := { cls := dfield d 20 0 3, size := size, list := db d 24 8, cap := db d 16 4, sink := db d 32 8,
                           source := db d 40 4 }
      match ok, parcelStrm g b, s2.vetOpen f g o with
      | true, some y, (_, some (c, k, from_)) =>
        let x : Stream := { y with
          st := .closed
          fn := f
          cls := o.cls
          size := size
          cycles := c.cycles
          pages := c.pages
          sink := k
          source := from_
          queue := y.queue.map (fun z => { z with sq := q })
          kv := if g.kv.isSome then { y.kv with list := o.list, cap := o.cap, st := .resident } else {} }
        let p : PendAdmit := { src := .command f q d, cls := o.cls, graph := g.id, size := size, strm := x }
        let (ok, s3) := s2.takeIn p ⟨g, o.cls, c⟩
        if ok then s3.asked else s3.importRej f q d 4
      | true, some _, (st, none) => s2.importRej f q d st
      | _, _, _ => s2.importRej f q d 8

/-! Commands that name one stream. -/

/-- The chunk record of a feed (Table 12-4), and whether its reserved form is kept. -/
def feedChunk (fmt1 : Bool) (d : BitVec 512) (q : Nat) : Chunk :=
  { src := db d 8 8, pos := db d 16 4, ended := dfield d 20 0 1 == 1, mark := dfield d 20 1 1 == 1, bytes := db d 24 4,
    tag := if fmt1 then 0 else BitVec.ofNat 64 (db d 32 8), sq := q }
/-- A chunk that STREAM_FEED takes (R265). -/
def State.chunkOk (s : State) (f : Nat) (i : InputDesc) (c : Chunk) : Bool :=
  decide (c.pos ≤ 16777216) && (c.ended || c.pos % max 1 i.posPerRow == 0) &&
  c.bytes == (c.pos + i.posPerRow - 1) / max 1 i.posPerRow * i.rowBytes &&
  (c.bytes == 0 || (inOnePlace c.src c.bytes && (match placeOf c.src with | .dram _ => true | .host => true | _ => false) &&
    s.mayName f c.src c.bytes))
/-- STREAM_FEED. -/
def State.actFeed (s : State) (h f q : Nat) (d : BitVec 512) : State :=
  let x := s.strm h
  let c := feedChunk (s.fmt1 f q) d q
  if !s.chunkOk f (s.inputOf h) c then s.endCmd f q d 8 0
  else if 64 ≤ x.queue.length then s.endCmd f q d 4 0
  else
    let idle := x.st == .idle
    let s1 := (s.setStrm h { x with
      queue := x.queue ++ [c]
      st := if idle then .active else x.st
      atCurrent := x.atCurrent || idle }).endCmd f q d 0 0
    if x.st = .swapped then s1.tryRestore h else s1.lookAt h

/-- Splits the chunk that holds position `m`, the first of the queue being `p`, or marks it where `m` is its first
position; none where no chunk holds it (R266). -/
def markAt (i : InputDesc) (m : Nat) : Nat → List Chunk → Option (List Chunk)
  | _, [] => none
  | p, c :: t =>
    if p ≤ m ∧ m < p + c.pos then
      (if m = p then some ({ c with mark := true } :: t)
       else
         let a : Chunk := { c with
           pos := m - p
           ended := false
           bytes := (c.skip + (m - p) + max 1 i.posPerRow - 1) / max 1 i.posPerRow * i.rowBytes
           noRelease := true
           split := true }
         some (a :: { c.after i (m - p) with mark := true, split := true } :: t))
    else (markAt i m (p + c.pos) t).map (fun l => c :: l)
/-- STREAM_MARK. -/
def State.actMark (s : State) (h f q : Nat) (d : BitVec 512) : State :=
  let x := s.strm h
  let m := db d 8 8
  match markAt (s.inputOf h) m x.pos x.queue with
  | some l => (s.setStrm h { x with queue := l }).endCmd f q d 0 0
  | none =>
    if m = x.pos + x.queued then
      (s.setStrm h { x with queue := x.queue ++ [{ mark := true, noRelease := true }] }).endCmd f q d 0 0
    else s.endCmd f q d 8 0

/-- The stream stops where it is (R273, R275, R348). -/
def State.pauseNow (s : State) (h : Nat) : State :=
  let x := s.strm h
  if x.st = .swapped then (s.setStrm h { x with st := .paused }).cancelRestore h
  else if x.st = .active ∨ x.st = .idle then
    ((s.setStrm h { x with
      st := .paused
      wasIdle := x.st == .idle
      starved := false }).dropItem h).quietSink h
  else s
/-- STREAM_PAUSE. -/
def State.actPause (s : State) (h f q : Nat) (d : BitVec 512) : State := (s.pauseNow h).endCmd f q d 0 0

/-- A paused stream goes on at the current tick (R45, R275, R283). -/
def State.resumeNow (s : State) (h : Nat) : State :=
  let x := s.strm h
  if x.cluster.isNone then
    (s.setStrm h { x with st := .swapped, atCurrent := true, resumeTick := none }).tryRestore h
  else
    ((s.setStrm h { x with
      st := if x.wasIdle ∧ x.queue = [] then .idle else .active
      atCurrent := true
      wasIdle := false
      resumeTick := none }).unyield h).lookAt h
/-- STREAM_RESUME. -/
def State.actResume (s : State) (h f q : Nat) (d : BitVec 512) : State :=
  let x := s.strm h
  let at_ := db d 8 8
  let timed := !s.fmt1 f q && dfield d 16 0 1 == 1 && s.isTicked h
  if x.st ≠ .paused then s.endCmd f q d 0 0
  else match s.graphOf x.graph with
    | some g =>
      if timed && decide (s.tickCount g.plane g.frame < at_) then
        (s.setStrm h { x with resumeTick := some at_ }).endCmd f q d 0 0
      else (s.endCmd f q d 0 0).resumeNow h
    | none => s.endCmd f q d 0 0

/-- A destination of a parcel that lies on another package (R158). -/
def State.remoteDev (s : State) (a : Nat) : Option Nat :=
  let v := a / 2 ^ 52
  if v = 0 ∨ v = s.deviceId then none else some v
/-- Where a parcel may go: DRAM or the host window, in the function's reach, or DRAM of another package. -/
def State.exportOk (s : State) (f dst cap : Nat) : Bool :=
  let a := dst % 2 ^ 52
  match s.remoteDev dst with
  | some _ => fabricRange a cap
  | none => inOnePlace a cap && (match placeOf a with | .dram _ => true | .host => true | _ => false) && s.mayName f a cap
/-- STREAM_EXPORT takes effect (R278, R279). -/
def State.actExport (s : State) (h f q : Nat) (d : BitVec 512) : State :=
  let x := s.strm h
  let cap := db d 16 4
  match s.graphOf x.graph with
  | none => s.endCmd f q d 8 0
  | some g =>
    let n := s.parcelLength h g
    if !s.exportOk f (db d 8 8) (min cap n) ∨ (dfield d 20 1 1 = 1 ∧ g.kv.isSome) then s.endCmd f q d 8 0
    else if min cap (2 ^ 32 - 64) < n then s.endCmd f q d 8 n
    else (((s.setStrm h { x with
        st := .exporting
        prev := x.st
        starved := false
        export_ := some (f, q, d) }).cancelRestore h).dropItem h).flushSet h

/-- STREAM_CLOSE once no step is in progress. -/
def State.actClose (s : State) (h f q : Nat) (d : BitVec 512) : State :=
  (s.removeStream h).endCmd f q d 0 0 |>.afterGone

/-! The key-value commands (R242, R243, R248, R250). -/

/-- A sequence's list and the records it holds can be read as control structures (R170, Table 11-5). -/
def State.cacheRead (s : State) (h : Nat) : Bool × State :=
  let (ok, s1) := s.listRead s.oasisReader h (s.strm h).kv.ctx
  let read (b : Bool × State) (r : Nat × Nat) : Bool × State :=
    if b.1 then let c := b.2.readCtl b.2.oasisReader r.2 1024; (!c.failed, c.st) else b
  (s1.strm h).kv.recs.foldl read (ok, s1)
/-- The list index of a block, where this package holds it (R254). -/
def State.heldBlock (s : State) (h : Nat) (k : KvDecl) (j : Nat) : Option Nat :=
  if s.ownBlock h k j then some (k.listBlock j) else none
/-- The context moves back to `n` (R243); entries that are released are no longer waited for, held for or swapped. -/
def State.truncateTo (s : State) (h n : Nat) (k : KvDecl) : State :=
  let v := (s.strm h).kv
  let j := n / 128
  let gone := ((List.range ((v.ctx + 127) / 128 - (n + 127) / 128)).filterMap (fun i => s.heldBlock h k ((n + 127) / 128 + i)))
  let off (i : Nat) : Bool := gone.contains (i / k.groups)
  let s0 := freeAll k.frames s ((v.granted.filter (fun x => off x.1)).map (fun x => x.2))
  let s1 := releaseBlocks h k s0 gone
  let v1 := (s1.strm h).kv
  let swap := v1.swapOut.filter (fun i => !off i)
  let keep (o : Nat) : Bool := decide (o % k.pageBytes % (128 * k.e) / max 1 k.e < n % 128)
  let stg := if v.ctx / 128 = j then v1.staging.map (fun g => { g with
      start := min g.start n
      bytes := g.bytes.filter (fun x => keep x.1)
      tokens := g.tokens.take (n % 128) }) else none
  let hash := if k.indexed then (List.range j).foldl (fun x i =>
      blockHash x ((v.allTokens.drop (128 * i)).take 128) k.model (s.strm h).fn) 0 else 0
  let s2 := s1.setKv h { v1 with
    ctx := n
    need := v1.need.filter (fun i => !off i)
    granted := v1.granted.filter (fun x => !off x.1)
    swapOut := swap
    st := if v1.st == .swapOut && swap.isEmpty then (if (s1.swappedEntries h).isEmpty then .resident else .swapped) else v1.st
    staging := stg
    zeroTail := v.zeroTail || decide (n < v.ctx && n % 128 != 0)
    tokens := (v.allTokens.drop (128 * j)).take (n % 128)
    allTokens := v.allTokens.take n
    lastHash := hash }
  s2.showSwapping
/-- KV_TRUNCATE. -/
def State.actTruncate (s : State) (h f q : Nat) (d : BitVec 512) : State :=
  let n := db d 8 8
  match s.kvOf h with
  | none => s.endCmd f q d 8 0
  | some k =>
    if (s.strm h).kv.ctx < n then s.endCmd f q d 8 0
    else
      let (ok, s1) := s.cacheRead h
      if !ok then s1.endCmd f q d 6 0
      else ((if n = (s.strm h).kv.ctx then s1 else s1.truncateTo h n k).endCmd f q d 0 0).afterGone
/-- KV_PIN. -/
def State.actPin (s : State) (h f q : Nat) (d : BitVec 512) : State :=
  if (s.kvOf h).isNone then s.endCmd f q d 8 0
  else (s.setKv h { (s.strm h).kv with pinned := dfield d 8 0 1 == 1 }).endCmd f q d 0 0

/-- Makes records for a list of blocks that have none; the flag says that the pool ran out, and the list holds those made. -/
def makeRecs (h : Nat) (k : KvDecl) (s : State) (made : List Nat) : List Nat → Bool × List Nat × State
  | [] => (true, made, s)
  | j :: t =>
    let v := (s.strm h).kv
    if (v.recOf (k.listBlock j)).isSome then makeRecs h k s made t
    else match s.freeRec with
      | none => (false, made, s)
      | some r =>
        let b := k.listBlock j
        let s1 := s.writeRec r 0 0 k.model (s.strm h).fn false (min 128 (v.ctx - 128 * j))
          ((v.allTokens.drop (128 * j)).take 128) (s.blockPages h b k.groups)
        let s2 := shareEntries h b true k.groups s1 (List.range k.groups)
        makeRecs h k (s2.setKv h { (s2.strm h).kv with recs := (b, r) :: (s2.strm h).kv.recs }) (b :: made) t
/-- Undoes records that a fork made. -/
def unmakeRecs (h : Nat) (k : KvDecl) (s : State) : List Nat → State
  | [] => s
  | b :: t =>
    match (s.strm h).kv.recOf b with
    | none => unmakeRecs h k s t
    | some r => unmakeRecs h k ((shareEntries h b false k.groups (s.retireRec r) (List.range k.groups)).forgetRec h b) t
/-- Copies list entries and adds a holder to each block's record. -/
def copyList (p c : Nat) (k : KvDecl) (s : State) : List Nat → State
  | [] => s
  | j :: t =>
    let b := k.listBlock j
    let s1 := (List.range k.groups).foldl (fun u g => u.setKvEnt c (b * k.groups + g) (u.kvEnt p (b * k.groups + g))) s
    let s2 := match (s1.strm p).kv.recOf b with | some r => s1.setRefCnt r (s1.refCnt r + 1) | none => s1
    copyList p c k s2 t
/-- KV_FORK once the parent's cache is resident. -/
def State.forkNow (s : State) (p c : Nat) (k : KvDecl) (f q : Nat) (d : BitVec 512) : State :=
  let (ok, s0) := s.cacheRead p
  if !ok then s0.endCmd f q d 6 0
  else
    let s1 := s0.flushSet p
    let v := (s1.strm p).kv
    let blocks := (List.range ((v.ctx + 127) / 128)).filter (s1.ownBlock p k)
    match makeRecs p k s1 [] blocks with
    | (false, made, s2) => (unmakeRecs p k s2 made).endCmd f q d 4 0
    | (true, _, s2) =>
      let s3 := copyList p c k s2 blocks
      let w := (s3.strm p).kv
      (s3.setKv c { (s3.strm c).kv with
        ctx := w.ctx
        tokens := w.tokens
        allTokens := w.allTokens
        recs := w.recs
        lastHash := w.lastHash
        staging := none
        zeroTail := w.zeroTail }).endCmd f q d 0 0
/-- The child a fork names may take the parent's cache. -/
def State.forkOk (s : State) (p c f : Nat) : Bool :=
  let x := s.strm p
  let y := s.strm c
  p != c && y.st != .closed && !y.closing && y.fn == f && y.graph == x.graph && y.kv.ctx == 0 && (s.kvHeld c).isEmpty
/-- A command joins those that wait on a stream. -/
def State.waitOn (s : State) (h f q : Nat) (d : BitVec 512) : State :=
  s.modStrm h (fun x => { x with due := x.due ++ [(f, q, d)] })
/-- KV_FORK. A parent with swapped pages is restored first, and the command waits for it (R242, R252). -/
def State.actFork (s : State) (h f q : Nat) (d : BitVec 512) : State :=
  match s.kvOf h, s.sidOf (db d 8 4) with
  | some k, some c =>
    if !s.forkOk h c f then s.endCmd f q d 8 0
    else if (s.swappedEntries h).isEmpty && (s.strm h).kv.granted.isEmpty then s.forkNow h c k f q d
    else
      let (full, s1) := s.askRestore h
      if full then s1.endCmd f q d 3 0 else s1.waitOn h f q d
  | _, _ => s.endCmd f q d 8 0

/-- An attach ends: OK with the tokens attached, or EMPTY; `zeroed` says that tokens were delivered as zeros. -/
def State.endAttach (s : State) (h f q : Nat) (d : BitVec 512) (n status : Nat) : State :=
  (s.modStrm h (fun x => { x with attach := none })).endCmd f q d status n
/-- The hash of the next block an attach probes, from the token buffer. -/
def State.attachHash (s : State) (h : Nat) (k : KvDecl) (tok : List Byte) : Dword :=
  blockHash (s.strm h).kv.lastHash (wordsOf tok 128) k.model (s.strm h).fn
/-- The next probe of an attach becomes a PROBE item of the engine that holds its bucket, or the attach ends (R248). -/
def State.attachNext (s : State) (h : Nat) : State :=
  match (s.strm h).attach, s.kvOf h with
  | some (f, q, d, n), some k =>
    let a := db d 8 8 + 4 * n
    if n + 128 ≤ db d 16 4 ∧ (s.strm h).kv.ctx + 128 ≤ k.maxCtx then
      let r := s.readData s.oasisReader a 512
      if r.failed then r.st.endAttach h f q d n 6
      else
        let e := cisternOf (s.bucket (s.attachHash h k r.bytes).toNat)
        let i : WorkItem :=
          { op := 3, cluster := 127, prio := (s.strm h).cls, handle := s.handleOf h, src := a, length := 512, compl := noRecord }
        s.giveItem (e % 128) i
    else s.endAttach h f q d n (if n = 0 then 7 else 0)
  | _, _ => s
/-- KV_ATTACH. -/
def State.actAttach (s : State) (h f q : Nat) (d : BitVec 512) : State :=
  let x := s.strm h
  match s.kvOf h with
  | none => s.endCmd f q d 8 0
  | some k =>
    let staged : Bool := match x.kv.staging with | some g => !g.bytes.isEmpty || x.kv.ctx % 128 != 0 | none => false
    if !k.indexed ∨ x.kv.ctx % 128 ≠ 0 ∨ staged ∨ !s.mayName f (db d 8 8) (4 * db d 16 4) ∨
        !inOnePlace (db d 8 8) (4 * db d 16 4) then s.endCmd f q d 8 0
    else
      let (ok, s1) := s.cacheRead h
      if !ok then s1.endCmd f q d 6 0
      else (s1.modStrm h (fun y => { y with attach := some (f, q, d, 0) })).attachNext h
/-- The record of the block before the one that an attach has reached: 0 for the first block, none without a record. -/
def State.attachParent (s : State) (h j : Nat) (k : KvDecl) : Option Nat :=
  if j = 0 then some 0 else (s.strm h).kv.recOf (k.listBlock (j - 1))
/-- The look-up of a PROBE item, by the unit at `loc`. -/
def State.attachLook (s : State) (loc h : Nat) : Option Probed :=
  match (s.strm h).attach, s.kvOf h with
  | some (_, _, d, n), some k =>
    let j := (s.strm h).kv.ctx / 128
    let r := s.readData loc (db d 8 8 + 4 * n) 512
    (s.attachParent h j k).bind (fun p =>
      if s.ownBlock h k j then some (r.st.lookUp loc (r.st.attachHash h k r.bytes) (s.strm h).fn k.model p (wordsOf r.bytes 128))
      else none)
  | _, _ => none
/-- What a PROBE item reads of the index and its records. -/
def State.probeReads (s : State) (h : Nat) : List (Nat × Nat) := ((s.attachLook 0 h).map (fun p => p.reads)).getD []
/-- A PROBE item's work for the engine at `loc` (R245, R246, R248): the block is hashed and looked up, and its pages join the
list on a match. -/
def State.probeItem (s : State) (loc h : Nat) : Nat × State :=
  match (s.strm h).attach, s.kvOf h with
  | some (f, q, d, n), some k =>
    let v := (s.strm h).kv
    let j := v.ctx / 128
    let b := k.listBlock j
    let r := s.readData loc (db d 8 8 + 4 * n) 512
    let tok := wordsOf r.bytes 128
    let hash := r.st.attachHash h k r.bytes
    let p : Probed := match if s.ownBlock h k j then s.attachParent h j k else none with
      | some p => r.st.probe loc hash (s.strm h).fn k.model p tok
      | none => { st := r.st }
    let s1 := p.st
    if r.failed ∨ p.failed then (6, s1.endAttach h f q d n 6)
    else match p.found with
      | none =>
        let s2 := s1.count Reg.KVC_PFX_MISS 1 Reg.KVC_INT_STATUS 4
        (0, s2.endAttach h f q d n (if n = 0 then 7 else 0))
      | some a =>
        let pages := s1.recPages a
        let s2 := pages.zipIdx.foldl (fun u x => u.setKvEnt h (b * k.groups + x.2) ⟨1, true, x.1⟩) s1
        let s3 := (s2.setRefCnt a (s2.refCnt a + 1)).count Reg.KVC_PFX_HIT 1 Reg.KVC_INT_STATUS 4
        let s4 := s3.modStrm h (fun x => { x with
          attach := some (f, q, d, n + 128)
          kv := { x.kv with
            ctx := v.ctx + 128
            recs := (b, a) :: v.recs
            allTokens := v.allTokens ++ tok
            lastHash := hash
            staging := v.staging.map (fun g => { g with start := v.ctx + 128, tokens := [] })
            tokens := [] } })
        (0, s4.attachNext h)
  | _, _ => (8, s)

/-! The order of commands on one stream (R262, R264, R281). -/

/-- What a command does once it may act on its stream. -/
def State.act (s : State) (h f q : Nat) (d : BitVec 512) : State :=
  match dOp d with
  | 0x02 => s.actFeed h f q d
  | 0x03 => s.actMark h f q d
  | 0x04 => s.actPause h f q d
  | 0x05 => s.actResume h f q d
  | 0x06 => s.actExport h f q d
  | 0x08 => s.actClose h f q d
  | 0x18 => s.actAttach h f q d
  | 0x19 => s.actFork h f q d
  | 0x1A => s.actTruncate h f q d
  | 0x1B => s.actPin h f q d
  | _ => s
/-- A pause may act at a yield of the step that holds no cache staging (R273). -/
def Stream.pausable (x : Stream) : Bool := (match x.step with | some r => r.yielded | none => true) && x.kv.staging.isNone
/-- A command must wait for the step in progress, an export, a restore or an attach of its stream; an export waits for a
swap-out too (Tables 12-9 and 16-4). -/
def State.mustWait (s : State) (h : Nat) (d : BitVec 512) : Bool :=
  let x := s.strm h
  let op := dOp d
  x.st == .exporting || x.attach.isSome || (op == 0x19 && x.kv.st == .restore) || (op == 0x06 && x.kv.st == .swapOut) ||
  (x.step.isSome && ((op == 0x04 && !x.pausable) || op == 0x06 || op == 0x08 || op == 0x18 || op == 0x19 || op == 0x1A))
/-- The commands that wait on a stream act in order, as far as they may. -/
def runDueN (h : Nat) : Nat → State → State
  | 0, s => s
  | n + 1, s =>
    match (s.strm h).due with
    | [] => s
    | (f, q, d) :: t =>
      if s.mustWait h d then s else runDueN h n ((s.modStrm h (fun x => { x with due := t })).act h f q d)
def State.runDue (s : State) (h : Nat) : State := runDueN h (s.strm h).due.length s
/-- The open stream of a function that a command names (R262, R372). -/
def State.target (s : State) (f : Nat) (d : BitVec 512) : Option Nat :=
  match s.sidOf (dHandle d) with
  | none => none
  | some h => let x := s.strm h
    if dHandle d = 0xFFFFFFFF ∨ x.st = .closed ∨ x.closing ∨ x.fn ≠ f then none else some h
/-- A stream that is to close or to be exported and was paused at a yield of its step goes on with that step: where it
lies, or once it is restored (R262, R264, R278). -/
def State.finishFirst (s : State) (h : Nat) : State :=
  if (s.strm h).st ≠ .paused ∨ !s.mustFinish h then s
  else if (s.strm h).cluster.isSome then s.unyield h
  else s.tryRestore h
/-- A command that names one stream. -/
def State.named (s : State) (f q : Nat) (d : BitVec 512) : State :=
  match s.target f d with
  | none => s.endCmd f q d 8 0
  | some h =>
    let s1 := if dOp d = 0x08 then s.modStrm h (fun x => { x with closing := true }) else s
    if (s1.strm h).due ≠ [] ∨ s1.mustWait h d then (s1.waitOn h f q d).finishFirst h else s1.act h f q d

end Sys2Proof.Machine
end

