-- ==== Sys2Proof/Machine/CmdStep.lean ====
section
/-!
DEFINITION. Steps of streams (R35 to R45, R265 to R272): how a step starts, what it delivers and commits when it completes,
resynchronisation, and the commands that deliver ticks to clusters and resume what yielded.
-/

namespace Sys2Proof.Machine

/-! The payload of a step (R265). -/

/-- The host page of a range whose translation fails. -/
def State.hostBad (s : State) (a n : Nat) : Option Nat :=
  if s.hostOk a n then none
  else s.cond.hostFail.find? (fun p => decide (a % hostWindow < p * 4096 + 4096) && decide (p * 4096 < a % hostWindow + n))
/-- The first row of a step's payload that lies in such a page. -/
def State.hostMiss (s : State) (rb : Nat) (l : List StepSeg) : Option Nat :=
  (l.flatMap (fun g => g.src)).findSome? (fun r => if r.2 = [] ∧ placeOf r.1 = .host then s.hostBad r.1 rb else none)
/-- Reads rows; one that cannot be read faults the step. -/
def readRows (h loc rb : Nat) (s : State) : List (Nat × List Byte) → List (List Byte) × State
  | [] => ([], s)
  | (a, own) :: t =>
    if own ≠ [] then
      let (l, s1) := readRows h loc rb s t
      (own :: l, s1)
    else match s.stepRead h loc [(a, rb)] with
      | (some b, s1) => let (l, s2) := readRows h loc rb s1 t; (b :: l, s2)
      | (none, s1) => ([], s1)
def readSegs (h loc rb : Nat) (s : State) : List StepSeg → List StepSeg × State
  | [] => ([], s)
  | g :: t =>
    let (rows, s1) := readRows h loc rb s g.src
    let (l, s2) := readSegs h loc rb s1 t
    ({ g with rows := rows } :: l, s2)
/-- The step reads its payload and runs its nodes; a payload in a host page that fails translation waits for a PRI
response. -/
def State.startRun (s : State) (h : Nat) (g : Graph) : State :=
  let r := s.run h
  let rb := g.input.rowBytes
  match s.hostMiss rb r.segs with
  | some p => (s.priRequest (s.clOf h)).waitFor h (.host p)
  | none =>
    let (segs, s1) := readSegs h (s.clLoc (s.clOf h) 5 0) rb s r.segs
    if s1.stopped h then s1.waitFor h .done
    else
      let r1 := s1.run h
      let s2 := s1.setRun h { r1 with segs := segs, wait := .run }
      let s3 := match segs with
        | a :: _ => s2.applyMark h g a.mark
        | [] => s2
      stepLoop h g ((g.nodes.length + 2) * (segs.length + 1)) s3

/-! Engines at work (R96, R98, R431). -/

/-- The first node of a list for which `f` has a mode, with its number. -/
def firstMode (f : Node → Option Word) : Nat → List NodeRec → Option (Nat × Word)
  | _, [] => none
  | i, n :: t => match f n.node with | some w => some (i, w) | none => firstMode f (i + 1) t
/-- STATUS of a unit that runs an operation of a graph (Table 04-9). -/
def Graph.runStatus (g : Graph) : Nat := 1 + 16 * b2n g.ticked + 32 * b2n (g.ticked && g.frame) + 64 * (if g.ticked then g.plane else 0)
/-- Loads a step's operation into the first free unit of a list. -/
def State.loadUnit (s : State) (h : Nat) (g : Graph) (m : Option (Nat × Word)) (units : List Nat) : State :=
  let cl := s.clOf h
  let w := s.wk cl
  match m, units.find? (fun u => (AMap.read (fun _ => none) w.running u).isNone) with
  | some (i, mode), some u =>
    let o : SavedOp := { id := h * 4 + u, unit := u, handle := h }
    let s1 := s.setWk cl { w with running := AMap.write (fun _ => none) w.running u (some o) }
    (s1.setN (unitStatus cl u) g.runStatus).showUnit cl u mode (g.id * 2 ^ 16 + i)
  | _, _ => s
/-- Adds the cycles of a matrix engine to its function's count and settles the class (R430, R431, R433). -/
def State.billEngine (s : State) (cl u fn : Nat) (deg : Bool) (cycles : Nat) : State :=
  let w := s.wk cl
  let k := (fn * 2 + u) * 2 + b2n deg
  let c := AMap.read (fun _ => 0) w.rem k + cycles
  let s1 := s.setWk cl { w with rem := AMap.write (fun _ => 0) w.rem k (c % 1500) }
  (s1.tally (2 * cl + u) fn 3 deg (c / 1500)).flushTap (2 * cl + u) fn 3 deg
/-- The units that ran a step's operations are free again: their cycles count. -/
def freeUnits (h cycles : Nat) (deg : Bool) (s : State) : List Nat → State
  | [] => s
  | u :: t =>
    let cl := s.clOf h
    let w := s.wk cl
    let s1 :=
      if (AMap.read (fun _ => none) w.running u).map (fun o => o.handle) ≠ some h then s
      else
        let s0 := s.setWk cl { w with running := AMap.write (fun _ => none) w.running u none }
        let s1 := (s0.setFld (unitStatus cl u) 0 8 0).setReg (unitMode cl u) 0
        let s2 := s1.bump64 (if u < 2 then Reg.ME_BUSY_LO cl u else Reg.VEC_BUSY_LO cl) cycles
        if u < 2 then s2.billEngine cl u (s.strm h).fn deg cycles else s2
    freeUnits h cycles deg s1 t

/-! The start of a step (R38, R39, R42, R265, R266). -/

/-- A step takes its positions from the queue and is bound to its tick (R39, R124, R265). -/
def State.takeStep (s : State) (h : Nat) (g : Graph) (tick : Nat) : State :=
  let x := s.strm h
  let t := takePositions g.input 0 x.markDue g.input.posStep x.queue
  let n := segPositions t.segs
  let r : StepRun := { tick := tick, started := s.tb, positions := n, ended := t.ended, segs := joinSegs t.segs,
                       spent := t.spent, p := x.p, items := x.items }
  s.setStrm h { x with
    queue := t.rest
    markDue := t.mark
    pos := x.pos + n
    steps := x.steps + 1
    p := (x.p + g.stride) % 2 ^ 48
    nextTick := if g.ticked then tick + 1 else x.nextTick
    atCurrent := false
    starved := false
    step := some r
    kv := { x.kv with st := if x.kv.st = .parked then .resident else x.kv.st } }
/-- A step is given, as zeros, the granules that its weights in the cluster store were loaded from as zeros (R168, R174). -/
def State.storeZeros (s : State) (h : Nat) (g : Graph) : State :=
  g.storeIds.foldl (fun t i => match t.stored (t.clOf h) i with | some x => t.zeroSeen h x.zeros | none => t) s
/-- A step that has its positions is loaded into its engines and runs, or first waits for its cache to be restored. -/
def State.continueStep (s0 : State) (h : Nat) (g : Graph) : State :=
  let s := s0.storeZeros h g
  let s2 := (s.loadUnit h g (firstMode Node.matMode 0 g.nodes) [0, 1]).loadUnit h g (firstMode Node.vecMode 0 g.nodes) [2]
  if (s2.swappedEntries h).isEmpty then s2.startRun h g
  else
    let (full, s3) := s2.askRestore h
    if full then (s3.fail h 3).waitFor h .done else s3.waitFor h .restore
/-- A step begins. -/
def State.beginStep (s : State) (h : Nat) (g : Graph) (tick : Nat) : State := (s.takeStep h g tick).continueStep h g
/-- A step of stream `e` that must start before that of `h` (R38). -/
def State.goesFirst (s : State) (h e : Nat) : Bool :=
  e != h && (s.strm e).cluster == (s.strm h).cluster && s.tickReady e &&
  ((s.grainBound e && !s.grainBound h) || (s.grainBound e == s.grainBound h && decide ((s.strm e).order < (s.strm h).order)))
/-- A record of a late step or of a resync in the miss ring (Table 02-1). -/
def State.missRecord (s : State) (h : Nat) (g : Graph) (tick : Nat) (resync : Bool) (amount : Nat) : State :=
  let b := leBytes 8 tick ++ leBytes 4 (s.handleOf h)
    ++ leBytes 4 (g.plane % 4 * 2 ^ 30 + b2n g.frame * 2 ^ 29 + b2n resync * 2 ^ 28 + min amount 268435455)
  if !resync then s.ringPut .miss b
  else if s.ringTakes .miss then (s.ringWrite .miss b).raise Reg.TCK_INT_STATUS 3
  else s.ringDrop .miss
/-- Elements that the output node writes in a whole step. -/
def OutNode.perStep (o : OutNode) : Nat := o.rows * (o.rowBytes / max 1 o.esize)
/-- A stream that lags is brought to the current tick: the steps before it are skipped (R42, R43, R269). -/
def State.resync (s : State) (h : Nat) (g : Graph) (cur : Nat) : State :=
  let x := s.strm h
  let i := g.input
  let t := takePositions i 0 x.markDue ((cur - x.nextTick) * i.posStep) x.queue
  let n := segPositions t.segs
  let k := if t.ended then min (cur - x.nextTick) (max 1 ((n + i.posStep - 1) / max 1 i.posStep)) else cur - x.nextTick
  let s1 := s.setStrm h { x with
    queue := t.rest
    markDue := t.mark + sumMap (fun y => y.mark) t.segs
    pos := x.pos + n
    p := (x.p + k * g.stride) % 2 ^ 48
    nextTick := cur
    starved := false }
  let s2 := (s1.releaseAll h t.spent).missRecord h g x.nextTick true k
  let s3 := (s2.bump (Reg.TCK_PLp_RESYNC g.plane) 1).bump64 (Reg.TCK_PLp_SKIP_LO g.plane) k
  let s4 := match x.sink with
    | .port p sl => s3.skipSamples p sl (k * (g.output.map OutNode.perStep).getD 0)
    | .ring _ => s3.setStrmHost h { s3.strmHost h with outGap := true }
    | .none => s3
  if t.ended then s4.goIdle h else s4
/-- STEP_START (R38, R39, R42): a tick-bound stream's step starts at or after its tick, grain-bound work first and then
in order of admission; one that lags is resynchronised first. -/
def doStepStart (h : Word) (s : State) : State :=
  let k := h.toNat
  let s0 := s.fixTick k
  match s0.graphOf (s0.strm k).graph with
  | none => s
  | some g =>
    if !g.ticked || !s0.mayStep k || !s0.tickHere k then s
    else if !s0.stepReady k then s0.checkStarve k
    else if s0.streams.any (fun e => s0.goesFirst k e.1) then s
    else
      let late := ((s0.plane g.plane).map (fun p => p.late)).getD 4
      let cur := s0.tickCount g.plane g.frame
      if late < cur - (s0.strm k).nextTick then
        let s1 := (s0.resync k g cur).fixTick k
        if s1.tickReady k then s1.beginStep k g (s1.strm k).nextTick else s1.checkStarve k
      else s0.beginStep k g (s0.strm k).nextTick
def execStepStart (h : Word) (s : State) : Host.Outcome State Fault Refusal := .next (s.live (doStepStart h))

/-! What a step delivers (R263, R345, R383 to R386). -/

/-- Elements of `n` bytes. -/
def elements (n : Nat) (b : List Byte) : List (List Byte) :=
  (List.range (b.length / max 1 n)).map (fun i => (b.drop (i * n)).take n)
/-- The outputs of a step join a consumer's queue as one chunk; a full queue drops it (R263). -/
def State.feedConsumer (s : State) (fn : Nat) (deg : Bool) (r : StepRun) (c : Nat) : State :=
  let y := s.strm c
  let i := s.inputOf c
  let rows := r.outputs.length / max 1 i.rowBytes
  if rows = 0 then s
  else if 64 ≤ y.queue.length then (s.strmCount Reg.STRM_DROPPED 1).raise Reg.STRM_INT_STATUS 3
  else
    let z : Chunk := { pos := rows * i.posPerRow, bytes := rows * i.rowBytes, own := r.outputs.take (rows * i.rowBytes),
                       noRelease := true }
    let idle := y.st == .idle
    let s1 := s.setStrm c { y with
      queue := y.queue ++ [z]
      st := if idle then .active else y.st
      atCurrent := y.atCurrent || idle }
    let s2 := if r.outTokens then s1.tally 202 fn 2 deg r.outCount else s1
    if y.st = .swapped then s2.tryRestore c else s2.lookAt c
def feedConsumers (fn : Nat) (deg : Bool) (r : StepRun) (s : State) : List Nat → State
  | [] => s
  | c :: t => feedConsumers fn deg r (s.feedConsumer fn deg r c) t
/-- The streams that a stream feeds. -/
def State.consumers (s : State) (h : Nat) : List Nat :=
  (s.streams.filter (fun e => e.2.source == some h && e.2.st != .closed && !e.2.closing)).map (fun e => e.1)
/-- The tally of elements written to a host ring (R386, R432). -/
def State.billRing (s : State) (fn : Nat) (deg : Bool) (r : StepRun) (n : Nat) : State :=
  if n = 0 then s
  else if r.outTokens then s.tally 201 fn 2 deg n
  else if r.outRate ≠ 0 then s.tally 201 fn 0 deg (n * (14112000 / r.outRate)) else s
/-- A step's outputs go to its sink and to the streams it feeds. The flag says that the ring's descriptor could not be
read, the number how many elements went out. -/
def State.deliver (s : State) (h : Nat) (g : Graph) (deg : Bool) : Bool × Nat × State :=
  let r := s.run h
  if r.stop || r.outputs.isEmpty then (false, 0, s)
  else
    let x := s.strm h
    let per := (g.output.map OutNode.perStep).getD 0
    let pos := (x.pos - r.positions) * per / max 1 g.input.posStep
    let (bad, n, s1) := match x.sink with
      | .none => (false, r.outCount, s)
      | .port p sl => (false, r.outCount, arriveSamples p sl deg s ((elements r.outSize r.outputs).map (s.ofElem p)))
      | .ring a =>
        let (ok, n, s1) := s.ringOutput h a pos r.outCount r.outSize r.outputs
        (!ok, n, s1.billRing x.fn deg r n)
    let l := s1.consumers h
    let s2 := if x.feeds && l.isEmpty then (s1.strmCount Reg.STRM_DROPPED 1).raise Reg.STRM_INT_STATUS 3
      else feedConsumers x.fn deg r s1 l
    (bad, n, s2)

/-! Windows (R111, R113, R115). -/

/-- A saturation event counts and goes to its die's ring (Table 05-2), under the handle of the stream it belongs to, or
0xFFFFFFFF for work of no stream. -/
def State.qevRecord (s : State) (h own step point : Nat) (e : SatEvent) : State :=
  let cl := s.clOf h
  let i := Reg.QST_INT_STATUS cl
  let s1 := (s.count (Reg.QST_EVENTS cl) 1 i 2).raise i 0
  let s2 := if e.ceil then s1.count (Reg.QST_CEIL cl) 1 i 2 else s1
  s2.ringPut (.qev ⟨clDie cl % 4, Nat.mod_lt _ (by decide)⟩) (leBytes 8 step ++ leBytes 4 own
    ++ leBytes 4 (point % 32 * 2 ^ 27 + e.oldK % 32 * 2 ^ 22 + e.newK % 32 * 2 ^ 17 + b2n e.ceil * 2 ^ 16 + e.share % 65536))
/-- Updates one owner's windows at the end of a step. -/
def updateWindows (h own step ceiling : Nat) (rows : List PointRow) (s : State) : List QBlock → State
  | [] => s
  | q :: t =>
    let mine := (rows.filter (fun r => r.own == own && r.point == q.point)).map (fun r => r.row)
    let (w, e) := updateWindow q ceiling (s.windowOf h own q.point) mine
    let s1 := s.setRowWindow h own q.point w
    updateWindows h own step ceiling rows (match e with | some v => s1.qevRecord h own step q.point v | none => s1) t
/-- Updates the windows of the step's stream, then those of every other owner of rows of the step (R111); owners that name
no open stream share the windows of the work of no stream. -/
def State.updateOwners (s : State) (h step : Nat) (g : Graph) : State :=
  let own := s.handleOf h
  let rows := (s.run h).rows.map (fun r => { r with own := if (s.rowStream h r.own).isSome then r.own else 0xFFFFFFFF })
  let rest := ((rows.map (fun r => r.own)).filter (fun o => o != own)).eraseDups
  (own :: rest).foldl (fun s1 o => updateWindows h o step g.ceiling rows s1 g.points) s

/-! The cache's commit (R239). -/

/-- The token IDs of the step's new positions are read from S_TOK. -/
def State.readTokens (s : State) (h : Nat) (g : Graph) : State :=
  match g.kv, g.cacheRec, (s.run h).kvRows with
  | some k, some n, some q =>
    if (s.run h).stop ∨ q = 0 then s
    else match s.lenTable h (s.clLoc (s.clOf h) 1 0) n k.sLen, n.op k.sTok with
      | (some es, s1), some o =>
        let before := es.takeWhile (fun e => e.handle != s.handleOf h)
        match s1.opRead h (s.clLoc (s.clOf h) 5 0) o (4 * (before.map (fun e => e.qLen)).foldl (fun a b => a + b) 0) (4 * q) with
        | (some b, s2) =>
          let r := s2.run h
          s2.setRun h { r with kvTokens := wordsOf b q }
        | (none, s2) => s2
      | (_, s1), _ => s1.fail h 6
  | _, _, _ => s
/-- The buckets and records that the commit of full blocks, from block j on, looks at can be read as control structures. -/
def commitProbe (h : Nat) (k : KvDecl) (toks : List Word) : Nat → Nat → Dword → Nat → State → Bool × State
  | 0, _, _, _, s => (true, s)
  | n + 1, j, prev, parent, s =>
    let tok := (toks.drop (128 * j)).take 128
    let hash := blockHash prev tok k.model (s.strm h).fn
    if !s.ownBlock h k j then commitProbe h k toks n (j + 1) hash 0 s
    else
      let p := s.lookUp s.oasisReader hash (s.strm h).fn k.model parent tok
      -- the record of a block that is yet to be inserted is no candidate's parent
      if p.failed then (false, p.st) else commitProbe h k toks n (j + 1) hash (2 ^ 64) p.st
/-- Before the commit, what it reads of list, records and index is checked: an uncorrectable granule there faults the step
(R170, Table 11-5). -/
def State.commitCheck (s : State) (h : Nat) (g : Graph) : State :=
  match g.kv, (s.run h).kvRows with
  | some k, some q =>
    if (s.run h).stop ∨ q = 0 then s
    else
      let v := (s.strm h).kv
      let (ok, s1) := s.listRead s.oasisReader h (v.ctx + q)
      let j := v.ctx / 128
      let r := if j = 0 then none else v.recOf (k.listBlock (j - 1))
      let c := match r with
        | some r => s1.readCtl s1.oasisReader r 64
        | none => ⟨[], 0, false, s1⟩
      if !ok then s1.fail h 6
      else if c.failed then c.st.fail h 6
      else if !k.indexed then c.st
      else
        let (ok, s2) := commitProbe h k (v.allTokens ++ (s.run h).kvTokens) ((v.ctx + q) / 128 - j) j v.lastHash (r.getD 0) c.st
        if ok then s2 else s2.fail h 6
  | _, _ => s
/-- Flushes the full blocks of a staging set, in order, hashing and inserting them in the index. -/
def commitBlocks (h : Nat) (k : KvDecl) : Nat → State → State
  | 0, s => s
  | n + 1, s =>
    let v := (s.strm h).kv
    match v.staging with
    | none => s
    | some b =>
      let j := b.start / 128
      if v.ctx < (j + 1) * 128 then s
      else
        let s1 := s.flushFirst h k
        let tok := (v.allTokens.drop (128 * j)).take 128
        let hash := blockHash v.lastHash tok k.model (s.strm h).fn
        let s2 := if k.indexed then
            (let s' := s1.setKv h { (s1.strm h).kv with lastHash := hash }
             if s.ownBlock h k j then s'.insertBlock h j k hash tok else s')
          else s1
        commitBlocks h k n s2
/-- The context advances by the step's rows and full blocks are flushed. -/
def State.commitKv (s : State) (h : Nat) (k : KvDecl) : State :=
  let r := s.run h
  match r.kvRows with
  | none => s
  | some q =>
    let s := if q = 0 then s else s.stage h
    let v := (s.strm h).kv
    let all := v.allTokens ++ r.kvTokens
    let s1 := s.setKv h { v with ctx := v.ctx + q, allTokens := all }
    let s2 := commitBlocks h k (q / 128 + 2) s1
    let w := (s2.strm h).kv
    let tail := all.drop (w.ctx / 128 * 128)
    s2.setKv h { w with
      tokens := tail
      staging := w.staging.map (fun b => { b with tokens := tail }) }
/-- Staged entries beyond the context are discarded. -/
def State.discardKv (s : State) (h : Nat) (k : KvDecl) : State :=
  let v := (s.strm h).kv
  let keep (o : Nat) : Bool := decide (o < k.groups * k.pageBytes) &&
    decide (o % k.pageBytes % (128 * k.e) / max 1 k.e < v.ctx % 128)
  s.setKv h { v with staging := v.staging.map (fun b => { b with bytes := b.bytes.filter (fun x => keep x.1) }) }

/-! The end of a step (R13, R40, R41, R152, R269). -/

/-- By how much a tick-bound step is late now. -/
def State.lateness (s : State) (g : Graph) (tick : Nat) : Nat :=
  match s.plane g.plane with
  | some p => if g.ticked then s.tb.toNat - p.edge g.frame (tick + 1) else 0
  | none => 0
/-- A late step counts and is recorded. -/
def State.lateStep (s : State) (h : Nat) (g : Graph) (tick late : Nat) : State :=
  if late = 0 then s else (s.missRecord h g tick false late).bump64 (Reg.TCK_PLp_MISS_LO g.plane) 1
/-- What the step leaves in its stream: its items, windows and cache, as its status allows; a step that completes DEGRADED
or FAULTED changes no window (R111, R152). -/
def State.commitStep (s : State) (h : Nat) (g : Graph) (status : Nat) : State :=
  let r := s.run h
  let good := !r.stop && status != 6
  let s1 := if good then s.modStrm h (fun x => { x with items := r.items }) else s
  let step := if g.ticked then r.tick else (s.strm h).steps - 1
  let s2 := if status == 6 || status == 1 then s1 else s1.updateOwners h step g
  match g.kv with
  | none => s2
  | some k => if r.stop ∨ status = 3 ∨ status = 6 ∨ status = 8 then s2.discardKv h k else s2.commitKv h k
/-- The step is over: its stream goes on, goes IDLE, is swapped out, or does what waits for it. -/
def State.afterStep (s : State) (h : Nat) (ended : Bool) : State :=
  let s1 := (if ended then s.goIdle h else s).dropItem h
  let s2 := if (s1.strm h).victim then s1.swapOutStream h else s1
  (((s2.runDue h).lookAt h).afterGone).asked
/-- The end of a step whose nodes have run (R40, R41): it delivers and commits as its status allows, its completion is
reported, its units are free, and it is over. -/
def State.endStep (s : State) (k : Nat) (g : Graph) (r : StepRun) (cycles : Nat) : State :=
  let s1 := (s.readTokens k g).commitCheck k g
  let r1 := s1.run k
  let late := s1.lateness g r.tick
  let conds := r1.status ++ (if r1.zgrans.isEmpty ∧ r1.zeroed = 0 then [] else [1]) ++ (if late = 0 then [] else [2])
  let (bad, n, s2) := s1.deliver k g (stepStatus conds == 1)
  let status := stepStatus (conds ++ if bad then [6] else [])
  let s3 := ((s2.lateStep k g r.tick late).commitStep k g status).stepEntry k status n
  let s4 := (freeUnits k cycles (!r1.zgrans.isEmpty) s3 [0, 1, 2]).releaseAll k r.spent
  let s5 := s4.endRing k
  s5.modStrm k (fun y => { y with
    step := none
    lastTick := if g.ticked then some r.tick else y.lastTick
    lastDone := s.tb })
/-- STEP_COMPLETE (R40, R41): a step whose nodes have run completes after so many core cycles. One that is to commit to pages
that have been swapped out since asks for their restore first (R252). -/
def doStepComplete (h : Word) (cycles : Nat) (s : State) : State :=
  let k := h.toNat
  let x := s.strm k
  match x.step, s.graphOf x.graph with
  | some r, some g =>
    if r.wait ≠ .done ∨ r.yielded ∨ x.kv.st = .swapOut ∨ x.kv.st = .restore then s
    else if !r.stop && r.kvRows.getD 0 != 0 && !(s.swappedEntries k).isEmpty then
      let (full, s1) := s.askRestore k
      if full then s1.fail k 3 else s1
    else (s.endStep k g r cycles).afterStep k r.ended
  | _, _ => s
def execStepComplete (h : Word) (cycles : Nat) (s : State) : Host.Outcome State Fault Refusal :=
  .next (s.live (doStepComplete h cycles))

/-! Ticks and resumption. -/

/-- The streams of a cluster, or all, of a plane and kind. -/
def State.tickStreams (s : State) (cl : Nat) (p : Nat) (frame : Bool) : List Nat :=
  (s.streams.filter (fun e => e.2.cluster == some cl &&
    ((s.graphOf e.2.graph).map (fun g => g.ticked && g.plane == p && g.frame == frame)).getD false)).map (fun e => e.1)
def lookAll (s : State) : List Nat → State
  | [] => s
  | h :: t => lookAll (s.lookAt h) t
def runDues (s : State) : List Nat → State
  | [] => s
  | h :: t => runDues (s.runDue h) t
/-- GRAIN_TICK (R33, R34): the plane's next edge. At a frame tick, SWAPPED streams ask again to be restored (R275). -/
def doGrainTick (p : Fin 4) (s : State) : State :=
  let frame := match s.plane p with | some x => x.n % x.g == 0 | none => false
  let s1 := tickPlane p s
  if frame then tryRestores s1 ((s1.streams.filter (fun e => e.2.st != .closed && e.2.cluster.isNone &&
      ((s1.graphOf e.2.graph).map (fun g => g.plane)) == some p.val)).map (fun e => e.1)) else s1
def execGrainTick (p : Fin 4) (s : State) : Host.Outcome State Fault Refusal := .next (s.live (doGrainTick p))

/-- The core R150 takes: work that is not grain-bound of the lowest class, the invocation that started last. -/
def coreBefore (a b : Nat × Invocation) : Bool :=
  decide (a.2.cls < b.2.cls) || (a.2.cls == b.2.cls && decide (b.2.started < a.2.started))
def State.coreVictim (s : State) (cl : Nat) : Option Nat :=
  let l := (coresOf cl).filterMap (fun n => (s.core n).inv.map (fun v => (n, v)))
  ((l.filter (fun x => !(x.2.ticked && !x.2.frame))).foldl (fun (b : Option (Nat × Invocation)) x => match b with
    | some y => if coreBefore x y then some x else b
    | none => some x) none).map (fun x => x.1)
/-- Saves a core's invocation to the cluster store and frees the core (R150). -/
def State.saveCore (s : State) (cl n : Nat) : State :=
  let id := (s.savedCores.map (fun x => x.1)).foldl max 0 + 1
  let s1 : State := { s with savedCores := s.savedCores ++ [(id, cl, s.core n)] }
  let s2 := ((s1.clearCore n).setN (Reg.NMD_STATUS n) 0).setN (Reg.NMD_KERNEL n) 0
  s2.count (Reg.NMD_PREEMPT n) 1 (Reg.NMD_INT_STATUS n) 1
/-- Streams of a list whose next step is to be at the current tick take its count. -/
def fixTicks (s : State) : List Nat → State
  | [] => s
  | h :: t => fixTicks (s.fixTick h) t
/-- What a tick that has reached a cluster sets going there (R38, R96, R146, R150): work that is not grain-bound yields to a
grain-bound step that is ready, cores that wait for the tick go on, a core is taken for grain-bound kernels, victims that
have yielded leave, and streams whose step is not ready starve. -/
def State.tickWork (s1 : State) (cl : Fin 96) (p : Fin 4) (frame : Bool) : State :=
  let l := s1.tickStreams cl p frame
  let s2 := fixTicks s1 l
  let s3 := if !frame && s2.grainReady cl then yieldAll cl s2 [0, 1, 2] else s2
  let s4 := releaseTicks p frame (s3.delivered cl p frame) s3 (coresOf cl)
  let wanted := !frame && s4.coreWanted cl && !(coresOf cl).any (fun n => (s4.core n).inv.isNone)
  let s5 := match if wanted then s4.coreVictim cl else none with
    | some n => s4.saveCore cl n
    | none => s4
  let s6 := runDues (s5.coresFreed cl) ((s5.placedOn cl []).map (fun e => e.1))
  lookAll (leaveAll s6 ((s6.placedOn cl []).map (fun e => e.1))) l
/-- TICK_DELIVERY (R35): the tick reaches the cluster. -/
def doTickDelivery (cl : Fin 96) (p : Fin 4) (frame : Bool) (used : Nat) (s : State) : State :=
  if (s.plane p).isNone then s else (deliverTick cl p frame used s).tickWork cl p frame
def execTickDelivery (cl : Fin 96) (p : Fin 4) (frame : Bool) (used : Nat) (s : State) :
    Host.Outcome State Fault Refusal := .next (s.live (doTickDelivery cl p frame used))

/-! Items of work that is not tick-bound (R355, R361, R363). -/

/-- Item `a` starts before item `b`: urgent items first, in the order in which they became urgent, then by effective class,
waiting time and handle. -/
def Item.before (a b : Item) : Bool :=
  match a.urgentSince, b.urgentSince with
  | some u, some v => decide (u < v)
  | some _, none => true
  | none, some _ => false
  | none, none => decide (b.cls < a.cls) || (a.cls == b.cls && (decide (a.since < b.since) ||
      (a.since == b.since && decide (a.handle < b.handle))))
/-- The first item of a list in the order of starts. -/
def firstItem : List Item → Option Item
  | [] => none
  | i :: t => match firstItem t with
    | none => some i
    | some b => if b.before i then some b else some i
/-- An item waits and its stream could run its step now, or go on with one that yielded to urgent work; no grain-bound step
of its cluster that is ready comes first (R38). -/
def State.startable (s : State) (i : Item) : Bool :=
  !i.running && !s.grainReady i.cluster && (s.mayStep i.handle || (match (s.strm i.handle).step with | some r => r.yielded | none => false))
/-- Changes one item. -/
def State.modItem (s : State) (h : Nat) (f : Item → Item) : State :=
  { s with place := { s.place with items := s.place.items.map (fun i => if i.handle = h then f i else i) } }
/-- Items running on a cluster. -/
def State.runningOn (s : State) (cl : Nat) : List Item :=
  s.place.items.filter (fun i => i.cluster == cl && i.running &&
    (match (s.strm i.handle).step with | some r => !r.yielded | none => false))
/-- The running item that urgent work pre-empts: the lowest effective class below 6, the last started among equals. -/
def itemVictim : List Item → Option Item
  | [] => none
  | i :: t => match itemVictim t with
    | none => if i.cls < 6 then some i else none
    | some b => if i.cls < 6 ∧ (i.cls < b.cls ∨ (i.cls = b.cls ∧ b.startOrder < i.startOrder)) then some i else some b
/-- The units that run a stream's operations yield. -/
def yieldOf (cl h : Nat) (s : State) : List Nat → State
  | [] => s
  | u :: t => match AMap.read (fun _ => none) (s.wk cl).running u with
    | some o => yieldOf cl h (if o.handle = h then yieldOp cl s u o else s) t
    | none => yieldOf cl h s t
/-- The cores that run a stream's kernels are saved. -/
def saveCores (cl g : Nat) (s : State) : List Nat → State
  | [] => s
  | n :: t => saveCores cl g (match (s.core n).inv with
    | some v => if v.handle = g then s.saveCore cl n else s
    | none => s) t
/-- An item gives up its cluster to urgent work: its units yield, and it waits again (R363). -/
def State.preemptItem (s : State) (cl h : Nat) : State :=
  let s1 := yieldOf cl h s [0, 1, 2]
  let s2 := saveCores cl (s1.handleOf h) s1 (coresOf cl)
  let s3 := s2.modStrm h (fun x => { x with step := x.step.map (fun r => { r with yielded := true }) })
  leaveAll ((s3.itemWaits h).runDue h) [h]
/-- Starts an item: its step begins, or it may go on where it yielded. -/
def State.startItem (s : State) (i : Item) : State :=
  let n := s.place.starts
  let s1 := s.modItem i.handle (fun j => { j with running := true, startOrder := n })
  let s2 : State := { s1 with place := { s1.place with starts := n + 1 } }
  match (s2.strm i.handle).step, s2.graphOf (s2.strm i.handle).graph with
  | none, some g => s2.beginStep i.handle g 0
  | some r, _ =>
    if (s2.wk i.cluster).saved.any (fun o => o.handle == i.handle) then s2
    else s2.setRun i.handle { r with yielded := false }
  | none, none => s2
/-- Starts an urgent item: at once where its cluster has free cycles, else in place of the item it pre-empts. -/
def State.startUrgent (s : State) (i : Item) : State :=
  match s.runningOn i.cluster with
  | [] => s.startItem i
  | l => match itemVictim l with
    | some v => (s.preemptItem i.cluster v.handle).startItem i
    | none => s
/-- Starts the item that comes first on its cluster. -/
def State.startFirst (s : State) (i : Item) : State := if i.urgent then s.startUrgent i else s.startItem i
/-- The items of a cluster that could start. -/
def State.startables (s : State) (cl : Nat) : List Item := s.place.items.filter (fun i => i.cluster == cl && s.startable i)
/-- A stream's item that waits after a yield starts again, if it comes first (R355). -/
def State.restartItem (s : State) (h : Nat) : State :=
  match s.place.items.find? (fun i => i.handle == h && !i.running) with
  | some i => if firstItem (s.startables i.cluster) = some i then s.startFirst i else s
  | none => s
/-- A stream's item waits for its start. -/
def State.itemWaiting (s : State) (h : Nat) : Bool := s.place.items.any (fun i => i.handle == h && !i.running)
/-- What a stream's units hold of a yielded step may not go on: the stream is paused and the step need not be finished
first, or its item waits (R262, R273, R278, R355). -/
def State.heldBack (s : State) (h : Nat) : Bool := ((s.strm h).st == .paused && !s.mustFinish h) || s.itemWaiting h
/-- A step that has just ceased to be yielded, whose cache was swapped out meanwhile, first asks for its pages (R252). -/
def State.restoreFirst (s : State) (h : Nat) : State :=
  let done := match (s.strm h).step with | some r => !r.yielded | none => false
  if !done ∨ (s.swappedEntries h).isEmpty then s
  else
    let (full, s1) := s.askRestore h
    if full then (s1.fail h 3).waitFor h .done else s1
/-- ENGINE_RESUME (R96): a saved operation goes on at a free engine of its kind in its cluster, unless its stream holds it
back; its item starts again if it comes first (R355). A sequence whose pages were swapped meanwhile is restored before its
step can complete (R252). -/
def doEngineResume (cl : Fin 96) (unit : Fin 3) (id : Nat) (s : State) : State :=
  match (s.wk cl).saved.find? (fun o => o.id == id) with
  | none => s
  | some o =>
    let s1 := s.restartItem o.handle
    if s1.heldBack o.handle ∨ (s1.strm o.handle).kv.st = .swapOut then s
    else (resumeOp cl unit id s1).restoreFirst o.handle
def execEngineResume (cl : Fin 96) (unit : Fin 3) (id : Nat) (s : State) : Host.Outcome State Fault Refusal :=
  .next (s.live (doEngineResume cl unit id))

end Sys2Proof.Machine
end

