-- ==== Sys2Proof/Machine/CmdKv.lean ====
section
/-!
DEFINITION. Meanings of the commands and events of the key-value cache (chapter 11).
-/

namespace Sys2Proof.Machine

/-- KV_ATTACH (R248). -/
def execKvAttach (fn sq : Fin 64) (desc : BitVec 512) (s : State) : Host.Outcome State Fault Refusal :=
  .next (s.live (fun t => t.command 0x18 fn sq desc (fun u => u.named fn sq desc)))
/-- KV_FORK (R242). -/
def execKvFork (fn sq : Fin 64) (desc : BitVec 512) (s : State) : Host.Outcome State Fault Refusal :=
  .next (s.live (fun t => t.command 0x19 fn sq desc (fun u => u.named fn sq desc)))
/-- KV_TRUNCATE (R243). -/
def execKvTruncate (fn sq : Fin 64) (desc : BitVec 512) (s : State) : Host.Outcome State Fault Refusal :=
  .next (s.live (fun t => t.command 0x1A fn sq desc (fun u => u.named fn sq desc)))
/-- KV_PIN (R250). -/
def execKvPin (fn sq : Fin 64) (desc : BitVec 512) (s : State) : Host.Outcome State Fault Refusal :=
  .next (s.live (fun t => t.command 0x1B fn sq desc (fun u => u.named fn sq desc)))

/-! Swap-out (R249 to R251). -/

/-- A victim's swap is over: it is SWAPPED if a page of it went. -/
def State.endSwap (s : State) (v : Nat) : State :=
  let st : KvState := if (s.swappedEntries v).isEmpty then .resident else .swapped
  ((s.setKv v { (s.strm v).kv with st := st, swapOut := [] }).showSwapping).runDue v
/-- Transfer contexts that wait for a sequence's pages go on, or end CACHE_FULL (R195). -/
def resumeXfers (h : Nat) (full : Bool) (s : State) : List Nat → State
  | [] => s
  | e :: t =>
    let c := s.car e
    let go (o : Option Xfer) : Option Xfer := o.map (fun x => if x.wait = some .swap ∧ x.handle = h then
        (if full then x.endWith 3 else { x with wait := none }) else x)
    resumeXfers h full (s.setCar e { c with ctxs := c.ctxs.map (fun y => (y.1, go y.2)) }) t
/-- No page and no victim can be had for a requester: what needed the pages ends CACHE_FULL (R249, R252). -/
def State.requesterFull (s : State) (h : Nat) : State :=
  let s0 := if (s.strm h).kv.st = .restore then s.cutRestore h else s
  let s1 := s0.setKv h { (s0.strm h).kv with need := [], st := .parked }
  let s1x := resumeXfers (s1.handleOf h) true s1 (s1.caravans.map (fun e => e.1))
  let s2 := (s1x.count Reg.KVC_CACHE_FULL 1 Reg.KVC_INT_STATUS 4).raise Reg.KVC_INT_STATUS 0
  let x := s2.strm h
  match x.import_, x.step, x.due with
  | some (f, q, d), _, _ => s2.undoImport h f q d 3
  | none, some _, _ => (s2.fail h 3).waitFor h .done
  | none, none, (f, q, d) :: t => ((s2.modStrm h (fun y => { y with due := t })).endCmd f q d 3 0).runDue h
  | none, none, [] => s2
/-- A pool whose waiting needs the frees to come do not cover. -/
def State.shortPool (s : State) : Option Nat := (List.range 6).find? (fun p => decide (s.freesToCome p < s.needsWaiting p))
/-- Victims are chosen until the frees to come cover every need of every pool; a requester that none serves ends CACHE_FULL,
the one that would be served last first. -/
def fillNeeds : Nat → State → State
  | 0, s => s
  | n + 1, s =>
    match s.shortPool.bind s.lastRequester with
    | none => s
    | some h =>
      let (ok, s1) := chooseVictims h s.streams.length s
      if ok then fillNeeds n s1 else fillNeeds n (s1.requesterFull h)
/-- The units of a victim's page and the page's copy in the swap pool; none where no run is free. -/
def State.swapPage (s : State) (v i : Nat) (k : KvDecl) : Option State :=
  let f := (s.strm v).fn
  match s.takeSwap f k.frames with
  | none => none
  | some (u, s1) =>
    let e := s1.kvEnt v i
    let r := s1.readRuns s1.oasisReader (pageRuns e.loc 0 (k.frames * 16384))
    let s2 := r.st.setBytes (s1.swapAddr f u) r.bytes
    let j := i / k.groups
    let s3 := match (if e.shared then (s2.strm v).kv.recOf j else none) with
      | some rc => (shareEntries v j false k.groups (s2.retireRec rc) (List.range k.groups)).forgetRec v j
      | none => s2
    some (((s3.setKvEnt v i ⟨2, false, u⟩).freeRun e.loc k.frames).bump64 Reg.KVC_SWAP_OUT_LO 1)
/-- The host pages that the victim's next page would be written to translate. -/
def State.swapHostOk (s : State) (v : Nat) (k : KvDecl) : Bool :=
  let f := (s.strm v).fn
  match lowestRun (s.swapRuns f) (s.swapSize f) k.frames with
  | some u => s.hostOk (s.swapAddr f u) (k.frames * 16384)
  | none => true
/-- The victim's next page is done with: the swap goes on or is over. -/
def State.swapNext (s : State) (v : Nat) (rest : List Nat) : State :=
  let s1 := s.setKv v { (s.strm v).kv with swapOut := rest }
  (if rest = [] then let s2 := s1.endSwap v; fillNeeds (2 * s2.streams.length) s2 else s1).afterGone
/-- SWAP_PAGE_WRITE_DONE (R249, R251): the write of the victim's next page ends. Its page is freed and serves a requester, or
the write was FAULTED and the victim's swap is cut short. A page that has ceased to be swappable stays (R250). A write that
meets a host page which fails translation asks for it and goes on waiting (R194); a free value says which Oasis engine asks
(log 4). -/
def doSwapPageWriteDone (h : Word) (entry : Nat) (ok : Bool) (s : State) : State :=
  let v := h.toNat
  match (s.strm v).kv.swapOut, s.kvOf v with
  | i :: t, some k =>
    if i ≠ entry then s
    else if !s.swappable v i k then s.swapNext v t
    else if ok && !s.swapHostOk v k then
      let (z, s1) := s.free
      s1.priRequest (96 + z.toNat % 8)
    else match if ok then s.swapPage v i k else none with
      | some s1 => s1.swapNext v t
      | none =>
        let s1 := (s.count Reg.KVC_SWAP_FAIL 1 Reg.KVC_INT_STATUS 4).raise Reg.KVC_INT_STATUS 1
        let s2 := s1.endSwap v
        (fillNeeds (2 * s2.streams.length) s2).afterGone
  | _, _ => s
def execSwapPageWriteDone (h : Word) (entry : Nat) (ok : Bool) (s : State) : Host.Outcome State Fault Refusal :=
  .next (s.live (doSwapPageWriteDone h entry ok))

/-! Restore (R252). -/

/-- Every host page that a restore reads translates. -/
def State.restoreOk (s : State) (h : Nat) (k : KvDecl) : Bool :=
  (s.strm h).kv.granted.all (fun x => (s.kvEnt h x.1).kind != 2 ||
    s.hostOk (s.swapAddr (s.strm h).fn (s.kvEnt h x.1).loc) (k.frames * 16384))
/-- KV_RESTORE_COMPLETE (R252): the sequence holds a page for every swapped entry; they are read back, and its step, its
transfers and the commands that wait for it go on. -/
def doKvRestoreComplete (h : Word) (s : State) : State :=
  let n := h.toNat
  let v := (s.strm n).kv
  match s.kvOf n with
  | none => s
  | some k =>
    if v.st ≠ .restore ∨ !v.need.isEmpty ∨ !s.restoreOk n k then s
    else
      let s1 := bringBack n k s v.granted
      let w := (s1.strm n).kv
      let s2 := s1.setKv n { w with st := .resident, granted := w.granted.filter (fun x => (s.kvEnt n x.1).kind != 2) }
      let s3 := resumeXfers (s2.handleOf n) false s2 (s2.caravans.map (fun e => e.1))
      let s4 := match (s3.strm n).step, s3.graphOf (s3.strm n).graph with
        | some r, some g =>
          if r.wait = StepWait.restore then s3.startRun n g else if r.wait = StepWait.pages then s3.goOn n false else s3
        | _, _ => s3
      (s4.runDue n).afterGone
def execKvRestoreComplete (h : Word) (s : State) : Host.Outcome State Fault Refusal := .next (s.live (doKvRestoreComplete h))

/-! Across packages (R254 to R256). -/

/-- A stream's step waits for what other members send. -/
def State.waitsMembers (s : State) (h : Nat) : Bool := match (s.strm h).step with | some r => r.wait == .members | none => false
/-- READY_RECORD_ARRIVAL (R254): a member's node of the blocks `first` on has arrived with its partials. -/
def doReadyRecordArrival (h : Word) (member first cnt : Nat) (data : List Byte) (s : State) : State :=
  let n := h.toNat
  match s.jobOf n with
  | none => s
  | some x =>
    if !s.waitsMembers n ∨ 1 < x.e.qLen then s
    else
      let p := partsOf x.d.dv (x.e.qLen * x.d.heads) data
      let r := s.run n
      let s1 := s.setRun n { r with parts := r.parts ++ [{ first := first, count := cnt, kvh := 0, heads := x.d.kvh, parts := p }] }
      let v := (s1.strm n).kv
      (s1.setKv n { v with ready := if v.ready.contains member then v.ready else v.ready ++ [member] }).goOn n false
def execReadyRecordArrival (h : Word) (member first cnt : Nat) (data : List Byte) (s : State) :
    Host.Outcome State Fault Refusal := .next (s.live (doReadyRecordArrival h member first cnt data))

/-- RING_BLOCK_RECEIVE (R255): a block of a layer arrives, is kept for the node, and is sent on unless the successor is its
origin. -/
def doRingBlockReceive (h : Word) (layer block : Nat) (data : List Byte) (s : State) : State :=
  let n := h.toNat
  let x := s.strm n
  match s.kvOf n with
  | none => s
  | some k =>
    if !k.spread ∨ x.step.isNone ∨ s.ownBlock n k block ∨ x.kv.ringLost ∨
        x.kv.ringBlocks.any (fun b => b.1 == layer && b.2.1 == block) then s
    else
      let next := (s.meOf n k + 1) % k.span
      let s1 := s.setKv n { x.kv with
        ringBlocks := x.kv.ringBlocks ++ [(layer, block, data)]
        ringSent := if k.memberOf block = next then x.kv.ringSent else x.kv.ringSent ++ [(layer, block)] }
      if s1.waitsMembers n then s1.goOn n false else s1
def execRingBlockReceive (h : Word) (layer block : Nat) (data : List Byte) (s : State) : Host.Outcome State Fault Refusal :=
  .next (s.live (doRingBlockReceive h layer block data))

/-- RING_TIMEOUT (R256): the member's node ends UNREACHABLE, and the member forwards nothing more. -/
def doRingTimeout (h : Word) (s : State) : State :=
  let n := h.toNat
  if !s.waitsMembers n ∨ !(s.strm n).kv.ring then s
  else
    let s0 := s.reach ((s.run n).waitTb + 1000 * max 1 (s.fld Reg.KVC_RING_TIMEOUT 0 16))
    let s1 := (s0.count Reg.KVC_RING_TMO 1 Reg.KVC_INT_STATUS 4).raise Reg.KVC_INT_STATUS 2
    let s2 := (s1.setKv n { (s1.strm n).kv with ring := false, ringLost := true }).showRing
    (s2.fail n 5).waitFor n .done
def execRingTimeout (h : Word) (s : State) : Host.Outcome State Fault Refusal := .next (s.live (doRingTimeout h))

/-! Registers. -/

/-- KVC_CNT_CLR (R258). -/
def execKvcCntClr (v : Word) (s : State) : Host.Outcome State Fault Refusal :=
  .next (s.live (fun t => t.cntClr v (wordsFrom Reg.KVC_SWAP_OUT_LO Reg.KVC_RING_TMO)))
/-- KVP_LOW_WRITE (R259): any write sets KVP_LOWi to KVP_FREEi. -/
def execKvpLowWrite (d : Fin 4) (i : Fin 5) (_v : Word) (s : State) : Host.Outcome State Fault Refusal :=
  .next (s.live (fun t => t.setN (Reg.KVP_LOWi d i) (t.kvpFree d i)))

end Sys2Proof.Machine
end

