-- ==== Sys2Proof/Machine/RvFloat.lean ====
section
/-!
DEFINITION. IEEE 754 operations with exception flags, as a nomad core executes them (R140). The results and flags are
those of the RISC-V F, D and V extensions (PRESUMED, log 28). Flags: 16 invalid, 8 division by zero, 4 overflow, 2
underflow, 1 inexact.
-/

namespace Sys2Proof.Machine

/-- A result code with the flags it raises. -/
abbrev FRes := Nat × Nat

def nvIf (b : Bool) : Nat := if b then 16 else 0
/-- The rounding mode of an instruction's or frm's code. -/
def rvMode : Nat → Option RMode
  | 0 => some .rne
  | 1 => some .rtz
  | 2 => some .down
  | 3 => some .up
  | 4 => some .rmm
  | _ => none

/-- A signalling NaN. -/
def FFmt.snan (f : FFmt) (c : Nat) : Bool := (f.decode c).isNan && !bitAt c (f.fb - 1)
def FFmt.bits (f : FFmt) : Nat := 1 + f.eb + f.fb
/-- The code with its sign bit turned. -/
def FFmt.flip (f : FFmt) (c : Nat) : Nat := c ^^^ 2 ^ (f.fb + f.eb)

/-- Rounds a magnitude and says what the rounding raises; tininess is found after rounding. -/
def rvRound (f : FFmt) (mode : RMode) (neg : Bool) (m : Nat) (e : Int) (sticky : Bool) : FRes :=
  let r := roundFmtO f mode neg m e sticky
  if m = 0 ∧ !sticky then (r.1, 0)
  else
    let same := match f.decode r.1 with
      | .fin _ m' e' => !magLt m e m' e' && !magLt m' e' m e
      | _ => false
    let u := roundMag (f.fb + 1) (e - 4096) mode neg m e sticky
    let tiny := magLt u.1 u.2 1 (f.qmin + (f.fb : Int))
    (r.1, if r.2 then 5 else if same && !sticky then 0 else if tiny then 3 else 1)
/-- Rounds an exact value. -/
def rvOf (f : FFmt) (mode : RMode) : FVal → FRes
  | .nan => (f.nanCode, 0)
  | .inf s => (f.infCode s, 0)
  | .fin s m e => rvRound f mode s m e false
/-- The exact sum, and whether it is invalid. -/
def sumV (mode : RMode) (a b : FVal) : FVal × Bool :=
  match a, b with
  | .nan, _ => (.nan, false)
  | _, .nan => (.nan, false)
  | .inf s, .inf t => if s = t then (.inf s, false) else (.nan, true)
  | .inf s, _ => (.inf s, false)
  | _, .inf t => (.inf t, false)
  | .fin s m e, .fin t n g =>
    let base := min e g
    let v := scaled s m e base + scaled t n g base
    if v = 0 then (.fin (if m = 0 ∧ n = 0 ∧ s = t then s else zeroSumSign mode) 0 base, false)
    else (.fin (decide (v < 0)) v.natAbs base, false)
def rvAdd (f : FFmt) (mode : RMode) (a b : Nat) : FRes :=
  let (v, i) := sumV mode (f.decode a) (f.decode b)
  let r := rvOf f mode v
  (r.1, r.2 ||| nvIf (i || f.snan a || f.snan b))
def rvSub (f : FFmt) (mode : RMode) (a b : Nat) : FRes := rvAdd f mode a (f.flip b)
/-- A product is invalid for zero times infinity. -/
def mulInvalid (a b : FVal) : Bool := (mulV a b).isNan && !a.isNan && !b.isNan
def rvMul (f : FFmt) (mode : RMode) (a b : Nat) : FRes :=
  let x := f.decode a
  let y := f.decode b
  let r := rvOf f mode (mulV x y)
  (r.1, r.2 ||| nvIf (mulInvalid x y || f.snan a || f.snan b))
def rvFma (f : FFmt) (mode : RMode) (a b c : Nat) : FRes :=
  let x := f.decode a
  let y := f.decode b
  let (v, i) := sumV mode (mulV x y) (f.decode c)
  let r := rvOf f mode v
  (r.1, r.2 ||| nvIf (i || mulInvalid x y || f.snan a || f.snan b || f.snan c))
def rvDiv (f : FFmt) (mode : RMode) (a b : Nat) : FRes :=
  match f.decode a, f.decode b with
  | .nan, _ => (f.nanCode, nvIf (f.snan a || f.snan b))
  | _, .nan => (f.nanCode, nvIf (f.snan b))
  | .inf _, .inf _ => (f.nanCode, 16)
  | .inf s, .fin t _ _ => (f.infCode (s != t), 0)
  | .fin s _ _, .inf t => (f.signBit (s != t), 0)
  | .fin s m e, .fin t n g =>
    if n = 0 then (if m = 0 then (f.nanCode, 16) else (f.infCode (s != t), 8))
    else if m = 0 then (f.signBit (s != t), 0)
    else
      let k := f.fb + 4 + n.log2
      let num := m <<< k
      rvRound f mode (s != t) (num / n) (e - g - (k : Int)) (num % n != 0)
def rvSqrt (f : FFmt) (mode : RMode) (a : Nat) : FRes :=
  match f.decode a with
  | .nan => (f.nanCode, nvIf (f.snan a))
  | .inf s => if s then (f.nanCode, 16) else (f.infCode false, 0)
  | .fin s m e =>
    if m = 0 then (f.signBit s, 0)
    else if s then (f.nanCode, 16)
    else
      let k0 := 2 * (f.fb + 3)
      let k := if (e - (k0 : Int)) % 2 = 0 then k0 else k0 + 1
      let x := m <<< k
      let r := isqrt x
      rvRound f mode false r ((e - (k : Int)) / 2) (r * r != x)

/-- A key that rises with the value, -0 below +0. -/
def FFmt.key (f : FFmt) (c : Nat) : Int :=
  let m : Nat := c % 2 ^ (f.fb + f.eb)
  if bitAt c (f.fb + f.eb) then -(m : Int) - 1 else (m : Int)
/-- Minimum and maximum: the number where one operand is NaN. -/
def rvMinMax (f : FFmt) (max : Bool) (a b : Nat) : FRes :=
  let fl := nvIf (f.snan a || f.snan b)
  let an := (f.decode a).isNan
  let bn := (f.decode b).isNan
  (if an && bn then f.nanCode else if an then b else if bn then a
   else if decide (f.key a ≤ f.key b) != max then a else b, fl)
/-- `a < b` for numbers, the zeros equal. -/
def FFmt.lt (f : FFmt) (a b : Nat) : Bool :=
  decide (f.key a < f.key b) && !(a % 2 ^ (f.fb + f.eb) == 0 && b % 2 ^ (f.fb + f.eb) == 0)
/-- The comparisons: 0 a ≤ b, 1 a < b, 2 a = b. Only = is quiet. -/
def rvCmp (f : FFmt) (op a b : Nat) : FRes :=
  let nan := (f.decode a).isNan || (f.decode b).isNan
  if nan then (0, nvIf (op != 2 || f.snan a || f.snan b))
  else (b2n (if op = 0 then !f.lt b a else if op = 1 then f.lt a b else !f.lt a b && !f.lt b a), 0)
/-- The ten-bit class. -/
def rvClass (f : FFmt) (a : Nat) : Nat :=
  match f.decode a with
  | .nan => if f.snan a then 2 ^ 8 else 2 ^ 9
  | .inf s => if s then 1 else 2 ^ 7
  | .fin s m _ =>
    let k := if m = 0 then 3 else if m < 2 ^ f.fb then 2 else 1
    if s then 2 ^ k else 2 ^ (7 - k)
/-- Sign injection: 0 the second's sign, 1 its opposite, 2 the exclusive or. -/
def rvSgnj (f : FFmt) (op a b : Nat) : Nat :=
  let k := f.fb + f.eb
  let s := match op with
    | 0 => bitAt b k
    | 1 => !bitAt b k
    | _ => bitAt a k != bitAt b k
  a % 2 ^ k + f.signBit s

/-- The magnitude rounded to a whole number, and whether that was inexact. -/
def wholeMag (mode : RMode) (neg : Bool) (m : Nat) (e : Int) : Nat × Bool :=
  if 0 ≤ e then (m <<< e.toNat, false)
  else
    let d := (-e).toNat
    let t := m >>> d
    let rem := m % 2 ^ d
    let half := 2 ^ (d - 1)
    let up := match mode with
      | .rne => decide (half < rem) || (rem == half && t % 2 == 1)
      | .rtz => false
      | .up => !neg && rem != 0
      | .down => neg && rem != 0
      | .rmm => decide (half ≤ rem)
      | .odd => rem != 0 && t % 2 == 0
    (if up then t + 1 else t, rem != 0)
/-- The bounds of an integer of w bits. -/
def intMin (signed : Bool) (w : Nat) : Int := if signed then -((2 ^ (w - 1) : Nat) : Int) else 0
def intMax (signed : Bool) (w : Nat) : Int := if signed then ((2 ^ (w - 1) : Nat) : Int) - 1 else ((2 ^ w : Nat) : Int) - 1
/-- A whole number as w bits. -/
def wrapInt (w : Nat) (v : Int) : Nat := (v % ((2 ^ w : Nat) : Int)).toNat
/-- Conversion to an integer of w bits, with the bound where the value does not fit. -/
def rvToInt (f : FFmt) (mode : RMode) (signed : Bool) (w a : Nat) : FRes :=
  match f.decode a with
  | .nan => (wrapInt w (intMax signed w), 16)
  | .inf s => (wrapInt w (if s then intMin signed w else intMax signed w), 16)
  | .fin s m e =>
    let (n, x) := wholeMag mode s m e
    let v : Int := if s then -(n : Int) else (n : Int)
    if v < intMin signed w then (wrapInt w (intMin signed w), 16)
    else if intMax signed w < v then (wrapInt w (intMax signed w), 16)
    else (wrapInt w v, b2n x)
def rvOfInt (f : FFmt) (mode : RMode) (v : Int) : FRes := rvRound f mode (decide (v < 0)) v.natAbs 0 false
/-- Conversion from format g to format f. -/
def rvCvt (f g : FFmt) (mode : RMode) (a : Nat) : FRes :=
  let r := rvOf f mode (g.decode a)
  (r.1, r.2 ||| nvIf (g.snan a))

/-! The 7-bit estimates of the V extension: each entry is the rounded estimate at the middle of its interval. -/

def recipEntry (i : Nat) : Nat := (131072 + (257 + 2 * i)) / (2 * (257 + 2 * i)) - 128
def rsqrtEntry (i : Nat) : Nat := (isqrt (33554432 / ((129 + 2 * (i % 64)) * (if i < 64 then 2 else 1))) + 1) / 2 - 128
/-- A subnormal's exponent and fraction made normal: its leading zeros shifted out. -/
def normFrac (fb : Nat) : Nat → Int → Nat → Int × Nat
  | 0, e, m => (e, m)
  | k + 1, e, m => if bitAt m (fb - 1) then (e, (2 * m) % 2 ^ fb) else normFrac fb k (e - 1) (2 * m)
def estParts (f : FFmt) (a : Nat) : Int × Nat :=
  let ex := bitsAt a f.fb f.eb
  let fr := a % 2 ^ f.fb
  if ex = 0 then normFrac f.fb f.fb 0 fr else ((ex : Int), fr)
/-- vfrec7. -/
def rvRec7 (f : FFmt) (mode : RMode) (a : Nat) : FRes :=
  match f.decode a with
  | .nan => (f.nanCode, nvIf (f.snan a))
  | .inf s => (f.signBit s, 0)
  | .fin s m _ =>
    if m = 0 then (f.infCode s, 8)
    else
      let (ex, fr) := estParts f a
      if ex < -1 then
        let toMax := match mode with
          | .rtz => true
          | .down => !s
          | .up => s
          | _ => false
        (if toMax then f.maxCode s else f.infCode s, 5)
      else
        let sig := recipEntry (fr >>> (f.fb - 7)) <<< (f.fb - 7)
        let out : Int := 2 * (f.bias : Int) - 1 - ex
        if out = 0 then (f.signBit s + (sig / 2 + 2 ^ (f.fb - 1)), 0)
        else if out = -1 then (f.signBit s + (sig / 2 + 2 ^ (f.fb - 1)) / 2, 0)
        else (f.signBit s + out.toNat * 2 ^ f.fb + sig, 0)
/-- vfrsqrt7. -/
def rvRsqrt7 (f : FFmt) (a : Nat) : FRes :=
  match f.decode a with
  | .nan => (f.nanCode, nvIf (f.snan a))
  | .inf s => if s then (f.nanCode, 16) else (0, 0)
  | .fin s m _ =>
    if m = 0 then (f.infCode s, 8)
    else if s then (f.nanCode, 16)
    else
      let (ex, fr) := estParts f a
      let i := (ex % 2).toNat * 64 + fr >>> (f.fb - 6)
      let out : Int := (3 * (f.bias : Int) - 1 - ex) / 2
      (out.toNat * 2 ^ f.fb + rsqrtEntry i <<< (f.fb - 7), 0)

end Sys2Proof.Machine
end

