-- ==== Sys2Proof/Machine/RvBase.lean ====
section
/-!
DEFINITION. A nomad core while it executes one instruction: its windows on memory (R142), its register files and CSRs
(Table 07-1), and the expansion of compressed instructions. Encodings are RISC-V's (PRESUMED, log 28).
-/

namespace Sys2Proof.Machine

/-- A core at work: the part around it, its number, and the core itself. -/
structure Hart where
  s : State
  n : Nat
  c : Core

/-- What an instruction comes to: the next pc, or a fault with its cause and address (Table 07-6). -/
inductive Rv where
  | next (h : Hart) (pc : Dword)
  | trap (cause addr : Nat) (h : Hart)

/-- What a memory access comes to. -/
inductive Acc where
  | ok (b : List Byte) (h : Hart)
  | bad (cause addr : Nat) (h : Hart)

def Hart.cl (h : Hart) : Nat := h.n / 4
def Hart.inv (h : Hart) : Invocation := h.c.inv.getD {}
/-- The core's location path (Table 21-3). -/
def State.coreLoc (s : State) (n : Nat) : Nat := s.clLoc (n / 4) 2 (n % 4)

/-! Memory. -/

/-- The model's own key, in the condition of memory, of a granule of a core's local memory (log 6). -/
def localGran (n a : Nat) : Nat := 2 ^ 62 + n * 0x10000 + a / 64 * 64
/-- What a kernel's address names (Table 07-2): local memory, or a device-local address its node's table grants. -/
inductive Spot where
  | local_
  | dev (a : Nat)
  | none
  deriving DecidableEq, Repr
def Hart.spot (h : Hart) (a len : Nat) : Spot :=
  let grant (d : Nat) : Spot := if inRanges h.inv.ranges d len then .dev d else .none
  if a + len ≤ 0x10000 then .local_
  else if 0x10000000 ≤ a ∧ a + len ≤ 0x10800000 then grant (clusterStore h.cl + (a - 0x10000000))
  else if 0x20000000 ≤ a ∧ a + len ≤ 0x21000000 then grant (regionStore (clRegion16 h.cl) + (a - 0x20000000))
  else if 2 ^ 63 ≤ a ∧ a + len ≤ 2 ^ 64 then grant (a - 2 ^ 63)
  else .none
/-- Bytes of local memory. -/
def Core.bytes (c : Core) (a n : Nat) : List Byte := (List.range n).map (fun i => AMap.read (fun _ => 0) c.mem (a + i))
def Core.setBytes (c : Core) (a : Nat) : List Byte → Core
  | [] => c
  | b :: t => Core.setBytes { c with mem := AMap.write (fun _ => 0) c.mem a b } (a + 1) t
/-- A load of `len` bytes aligned to `al` (R142, R151). Text is fetch-only (DEDUCED, log 25). -/
def Hart.load (h : Hart) (a len al : Nat) : Acc :=
  if a % al ≠ 0 then .bad 4 a h
  else match h.spot a len with
    | .none => .bad 5 a h
    | .local_ =>
      if a < h.inv.textLen then .bad 5 a h
      else if h.s.cond.locals.contains (localGran h.n a) then .bad 30 a h
      else .ok (h.c.bytes a len) h
    | .dev d =>
      let z := h.s.badIn d len
      let r := h.s.readData (h.s.coreLoc h.n) d len
      let s1 := match h.s.sidOf h.inv.handle with
        | some k => r.st.zeroSeen k z
        | none => r.st
      if r.failed then .bad 5 a { h with s := s1 } else .ok r.bytes { h with s := s1 }
/-- A store. -/
def Hart.store (h : Hart) (a al : Nat) (b : List Byte) : Acc :=
  if a % al ≠ 0 then .bad 6 a h
  else match h.spot a b.length with
    | .none => .bad 7 a h
    | .local_ => if a < h.inv.textLen then .bad 7 a h else .ok [] { h with c := h.c.setBytes a b }
    | .dev d => .ok [] { h with s := h.s.writeData (h.s.coreLoc h.n) d b }
/-- Fetches the instruction at the pc: its word and its length. -/
def Hart.fetch (h : Hart) : Nat × Nat × Option Nat :=
  let a := h.c.pc.toNat
  let t := h.inv.textLen
  let bad (n : Nat) : Bool := (granulesOf a n).any (fun g => h.s.cond.locals.contains (localGran h.n g))
  if a % 2 = 1 then (0, 2, some 0)
  else if t < a + 2 then (0, 2, some 1)
  else
    let lo := leVal (h.c.bytes a 2)
    if lo % 4 ≠ 3 then (lo, 2, if bad 2 then some 30 else none)
    else if t < a + 4 then (0, 4, some 1)
    else (leVal (h.c.bytes a 4), 4, if bad 4 then some 30 else none)

/-! Registers. -/

def Hart.x (h : Hart) (i : Nat) : Nat := (h.c.xr i).toNat
def Hart.setX (h : Hart) (i v : Nat) : Hart := { h with c := h.c.setX i (BitVec.ofNat 64 v) }
def Hart.f (h : Hart) (i : Nat) : Nat := (AMap.read (fun _ => 0) h.c.f i).toNat
def Hart.setF (h : Hart) (i v : Nat) : Hart := { h with c := { h.c with f := AMap.write (fun _ => 0) h.c.f i (BitVec.ofNat 64 v) } }
/-- A value of format width w in a 64-bit register: narrower ones are boxed in ones, and what is not is a NaN. -/
def boxed (w v : Nat) : Nat := if w = 32 then 0xFFFFFFFF00000000 + v % 2 ^ 32 else v
def unboxed (w v : Nat) : Nat := if w = 32 then (if v / 2 ^ 32 = 0xFFFFFFFF then v % 2 ^ 32 else 0x7FC00000) else v
def Hart.flag (h : Hart) (fl : Nat) : Hart := { h with c := { h.c with fflags := h.c.fflags ||| fl } }
/-- The rounding mode an instruction's field selects: 7 is frm. -/
def Hart.mode (h : Hart) (rm : Nat) : Option RMode := rvMode (if rm = 7 then h.c.frm else rm)
def signed (w v : Nat) : Int := if bitAt v (w - 1) then (v % 2 ^ w : Nat) - ((2 ^ w : Nat) : Int) else ((v % 2 ^ w : Nat) : Int)
/-- Sign extension of the low w bits to 64. -/
def sx (w v : Nat) : Nat := wrapInt 64 (signed w v)
def mod64 (v : Nat) : Nat := v % 2 ^ 64

/-- A CSR's value (Table 07-1); none outside the table. -/
def Hart.csr (h : Hart) (a : Nat) : Option Nat :=
  let c := h.c
  match a with
  | 0x001 => some c.fflags
  | 0x002 => some c.frm
  | 0x003 => some (c.fflags + 32 * c.frm)
  | 0x008 => some c.vstart
  | 0x009 => some (c.vcsr % 2)
  | 0x00A => some (c.vcsr / 2)
  | 0x00F => some c.vcsr
  | 0xC00 => some h.inv.cycles
  | 0xB00 => some h.inv.cycles
  | 0xC01 => some h.s.tb.toNat
  | 0xC02 => some h.inv.instret
  | 0xB02 => some h.inv.instret
  | 0xC20 => some c.vl
  | 0xC21 => some c.vtype.toNat
  | 0xC22 => some 64
  | 0xF14 => some h.n
  | 0x305 => some 0
  | 0x304 => some 0
  | 0x344 => some 0
  | 0x180 => some 0
  | _ => none
/-- The effect of a CSR write: none where the CSR is read-only; mtvec, mie, mip and satp ignore it (R141). -/
def Hart.setCsr (h : Hart) (a v : Nat) : Option Hart :=
  let put (c : Core) : Option Hart := some { h with c := c }
  match a with
  | 0x001 => put { h.c with fflags := v % 32 }
  | 0x002 => put { h.c with frm := v % 8 }
  | 0x003 => put { h.c with
      fflags := v % 32
      frm := v / 32 % 8 }
  | 0x008 => put { h.c with vstart := v % 512 }
  | 0x009 => put { h.c with vcsr := h.c.vcsr / 2 * 2 + v % 2 }
  | 0x00A => put { h.c with vcsr := v % 4 * 2 + h.c.vcsr % 2 }
  | 0x00F => put { h.c with vcsr := v % 8 }
  | 0x305 => some h
  | 0x304 => some h
  | 0x344 => some h
  | 0x180 => some h
  | _ => none

/-! Compressed instructions. -/

def encR (op f3 f7 rd rs1 rs2 : Nat) : Nat := op + rd * 2 ^ 7 + f3 * 2 ^ 12 + rs1 * 2 ^ 15 + rs2 * 2 ^ 20 + f7 * 2 ^ 25
def encI (op f3 rd rs1 imm : Nat) : Nat := op + rd * 2 ^ 7 + f3 * 2 ^ 12 + rs1 * 2 ^ 15 + imm % 4096 * 2 ^ 20
def encS (op f3 rs1 rs2 imm : Nat) : Nat := encR op f3 (imm / 32 % 128) (imm % 32) rs1 rs2
def encB (f3 rs1 rs2 imm : Nat) : Nat :=
  encR 0x63 f3 (bitsAt imm 12 1 * 64 + bitsAt imm 5 6) (bitsAt imm 1 4 * 2 + bitsAt imm 11 1) rs1 rs2
def encJ (rd imm : Nat) : Nat :=
  0x6F + rd * 2 ^ 7 + bitsAt imm 12 8 * 2 ^ 12 + bitsAt imm 11 1 * 2 ^ 20 + bitsAt imm 1 10 * 2 ^ 21 + bitsAt imm 20 1 * 2 ^ 31
/-- The 32-bit instruction that a compressed one stands for; none where it is reserved. -/
def expandC (w : Nat) : Option Nat :=
  let b (lo n : Nat) : Nat := bitsAt w lo n
  let r1 := b 7 5
  let r2 := b 2 5
  let p1 := 8 + b 7 3
  let p2 := 8 + b 2 3
  let i6 := sx 6 (b 12 1 * 32 + b 2 5)
  let sh := b 12 1 * 32 + b 2 5
  let uw := b 10 3 * 8 + b 6 1 * 4 + b 5 1 * 64
  let ud := b 10 3 * 8 + b 5 2 * 64
  let lsp := b 12 1 * 32 + b 5 2 * 8 + b 2 3 * 64
  let ssp := b 10 3 * 8 + b 7 3 * 64
  let br := sx 9 (b 12 1 * 256 + b 10 2 * 8 + b 5 2 * 64 + b 3 2 * 2 + b 2 1 * 32)
  match w % 4, b 13 3 with
  | 0, 0 =>
    let imm := b 11 2 * 16 + b 7 4 * 64 + b 6 1 * 4 + b 5 1 * 8
    if imm = 0 then none else some (encI 0x13 0 p2 2 imm)
  | 0, 1 => some (encI 0x07 3 p2 p1 ud)
  | 0, 2 => some (encI 0x03 2 p2 p1 uw)
  | 0, 3 => some (encI 0x03 3 p2 p1 ud)
  | 0, 5 => some (encS 0x27 3 p1 p2 ud)
  | 0, 6 => some (encS 0x23 2 p1 p2 uw)
  | 0, 7 => some (encS 0x23 3 p1 p2 ud)
  | 1, 0 => some (encI 0x13 0 r1 r1 i6)
  | 1, 1 => if r1 = 0 then none else some (encI 0x1B 0 r1 r1 i6)
  | 1, 2 => some (encI 0x13 0 r1 0 i6)
  | 1, 3 =>
    if r1 = 2 then
      let imm := sx 10 (b 12 1 * 512 + b 6 1 * 16 + b 5 1 * 64 + b 3 2 * 128 + b 2 1 * 32)
      if imm = 0 then none else some (encI 0x13 0 2 2 imm)
    else if sh = 0 then none else some (0x37 + r1 * 2 ^ 7 + bitsAt i6 0 20 * 2 ^ 12)
  | 1, 4 =>
    match b 10 2 with
    | 0 => some (encI 0x13 5 p1 p1 sh)
    | 1 => some (encI 0x13 5 p1 p1 (0x400 + sh))
    | 2 => some (encI 0x13 7 p1 p1 i6)
    | _ => match b 12 1, b 5 2 with
      | 0, 0 => some (encR 0x33 0 0x20 p1 p1 p2)
      | 0, 1 => some (encR 0x33 4 0 p1 p1 p2)
      | 0, 2 => some (encR 0x33 6 0 p1 p1 p2)
      | 0, _ => some (encR 0x33 7 0 p1 p1 p2)
      | _, 0 => some (encR 0x3B 0 0x20 p1 p1 p2)
      | _, 1 => some (encR 0x3B 0 0 p1 p1 p2)
      | _, _ => none
  | 1, 5 => some (encJ 0 (sx 12 (b 12 1 * 2048 + b 11 1 * 16 + b 9 2 * 256 + b 8 1 * 1024 + b 7 1 * 64 + b 6 1 * 128 + b 3 3 * 2
      + b 2 1 * 32)))
  | 1, 6 => some (encB 0 p1 0 br)
  | 1, _ => some (encB 1 p1 0 br)
  | 2, 0 => some (encI 0x13 1 r1 r1 sh)
  | 2, 1 => some (encI 0x07 3 r1 2 lsp)
  | 2, 2 => if r1 = 0 then none else some (encI 0x03 2 r1 2 (b 12 1 * 32 + b 4 3 * 4 + b 2 2 * 64))
  | 2, 3 => if r1 = 0 then none else some (encI 0x03 3 r1 2 lsp)
  | 2, 4 =>
    if b 12 1 = 0 then
      (if r2 = 0 then (if r1 = 0 then none else some (encI 0x67 0 0 r1 0)) else some (encR 0x33 0 0 r1 0 r2))
    else if r2 = 0 then (if r1 = 0 then some 0x00100073 else some (encI 0x67 0 1 r1 0))
    else some (encR 0x33 0 0 r1 r1 r2)
  | 2, 5 => some (encS 0x27 3 2 r2 ssp)
  | 2, 6 => some (encS 0x23 2 2 r2 (b 9 4 * 4 + b 7 2 * 64))
  | 2, 7 => some (encS 0x23 3 2 r2 ssp)
  | _, _ => none

end Sys2Proof.Machine
end

