-- ==== Sys2Proof/Machine/RvScalar.lean ====
section
/-!
DEFINITION. The scalar instructions of a nomad core (R139, R140, R141): RV64IMAFD with Zba, Zbb, Zicsr and Zicntr. Their
semantics are RISC-V's (PRESUMED, log 28).
-/

namespace Sys2Proof.Machine

/-! Arithmetic on w-bit values. -/

def rotL (w v k : Nat) : Nat := ((v <<< (k % w)) ||| ((v % 2 ^ w) >>> (w - k % w))) % 2 ^ w
def rotR (w v k : Nat) : Nat := rotL w v (w - k % w)
def sraN (w v k : Nat) : Nat := wrapInt w (signed w v / ((2 ^ k : Nat) : Int))
/-- Leading zeros, trailing zeros and ones of the low w bits. -/
def clzN (w v : Nat) : Nat := if v % 2 ^ w = 0 then w else w - 1 - (v % 2 ^ w).log2
def ctzN (w v : Nat) : Nat := ((List.range w).find? (fun i => bitAt v i)).getD w
def popN (w v : Nat) : Nat := ((List.range w).filter (fun i => bitAt v i)).length
/-- Signed and unsigned division and remainder as RISC-V defines their corners. -/
def divS (w a b : Nat) : Nat :=
  if b % 2 ^ w = 0 then 2 ^ w - 1 else wrapInt w (Int.tdiv (signed w a) (signed w b))
def divU (w a b : Nat) : Nat := if b % 2 ^ w = 0 then 2 ^ w - 1 else a % 2 ^ w / (b % 2 ^ w)
def remS (w a b : Nat) : Nat := if b % 2 ^ w = 0 then a % 2 ^ w else wrapInt w (Int.tmod (signed w a) (signed w b))
def remU (w a b : Nat) : Nat := if b % 2 ^ w = 0 then a % 2 ^ w else a % 2 ^ w % (b % 2 ^ w)
def ltS (w a b : Nat) : Bool := decide (signed w a < signed w b)
def ltU (w a b : Nat) : Bool := decide (a % 2 ^ w < b % 2 ^ w)
/-- The high half of a product. -/
def mulH (w : Nat) (a b : Int) : Nat := wrapInt w (a * b / ((2 ^ w : Nat) : Int))
def usg (w v : Nat) : Int := ((v % 2 ^ w : Nat) : Int)
/-- orc.b: each byte that is not zero becomes ones. -/
def orcB (v : Nat) : Nat := leVal ((leBytes 8 v).map (fun b => if b = 0 then 0 else 0xFF#8))
def rev8 (v : Nat) : Nat := leVal (leBytes 8 v).reverse

/-- Register-register operations of 64 bits (M, Zba, Zbb). -/
def opRR (f7 f3 a b : Nat) : Option Nat :=
  let k := b % 64
  match f7, f3 with
  | 0x00, 0 => some (a + b)
  | 0x00, 1 => some (a <<< k)
  | 0x00, 2 => some (b2n (ltS 64 a b))
  | 0x00, 3 => some (b2n (ltU 64 a b))
  | 0x00, 4 => some (a ^^^ b)
  | 0x00, 5 => some (a >>> k)
  | 0x00, 6 => some (a ||| b)
  | 0x00, 7 => some (a &&& b)
  | 0x20, 0 => some (a + 2 ^ 64 - b)
  | 0x20, 4 => some (a ^^^ (2 ^ 64 - 1 - b))
  | 0x20, 5 => some (sraN 64 a k)
  | 0x20, 6 => some (a ||| (2 ^ 64 - 1 - b))
  | 0x20, 7 => some (a &&& (2 ^ 64 - 1 - b))
  | 0x01, 0 => some (a * b)
  | 0x01, 1 => some (mulH 64 (signed 64 a) (signed 64 b))
  | 0x01, 2 => some (mulH 64 (signed 64 a) (usg 64 b))
  | 0x01, 3 => some (mulH 64 (usg 64 a) (usg 64 b))
  | 0x01, 4 => some (divS 64 a b)
  | 0x01, 5 => some (divU 64 a b)
  | 0x01, 6 => some (remS 64 a b)
  | 0x01, 7 => some (remU 64 a b)
  | 0x10, 2 => some (2 * a + b)
  | 0x10, 4 => some (4 * a + b)
  | 0x10, 6 => some (8 * a + b)
  | 0x05, 4 => some (if ltS 64 a b then a else b)
  | 0x05, 5 => some (if ltU 64 a b then a else b)
  | 0x05, 6 => some (if ltS 64 a b then b else a)
  | 0x05, 7 => some (if ltU 64 a b then b else a)
  | 0x30, 1 => some (rotL 64 a k)
  | 0x30, 5 => some (rotR 64 a k)
  | _, _ => none
/-- Register-register operations of the word group. -/
def opRRW (f7 f3 rs2 a b : Nat) : Option Nat :=
  let k := b % 32
  let u := a % 2 ^ 32
  match f7, f3 with
  | 0x00, 0 => some (sx 32 (a + b))
  | 0x00, 1 => some (sx 32 (u <<< k))
  | 0x00, 5 => some (sx 32 (u >>> k))
  | 0x20, 0 => some (sx 32 (a + 2 ^ 64 - b))
  | 0x20, 5 => some (sx 32 (sraN 32 u k))
  | 0x01, 0 => some (sx 32 (a * b))
  | 0x01, 4 => some (sx 32 (divS 32 a b))
  | 0x01, 5 => some (sx 32 (divU 32 a b))
  | 0x01, 6 => some (sx 32 (remS 32 a b))
  | 0x01, 7 => some (sx 32 (remU 32 a b))
  | 0x04, 0 => some (u + b)
  | 0x04, 4 => if rs2 = 0 then some (a % 2 ^ 16) else none
  | 0x10, 2 => some (2 * u + b)
  | 0x10, 4 => some (4 * u + b)
  | 0x10, 6 => some (8 * u + b)
  | 0x30, 1 => some (sx 32 (rotL 32 u k))
  | 0x30, 5 => some (sx 32 (rotR 32 u k))
  | _, _ => none
/-- Register-immediate operations; imm is the 12-bit field. -/
def opRI (f3 imm a : Nat) : Option Nat :=
  let i := sx 12 imm
  let k := imm % 64
  match f3 with
  | 0 => some (a + i)
  | 2 => some (b2n (ltS 64 a i))
  | 3 => some (b2n (ltU 64 a i))
  | 4 => some (a ^^^ i)
  | 6 => some (a ||| i)
  | 7 => some (a &&& i)
  | 1 =>
    if imm / 64 = 0 then some (a <<< k)
    else match imm with
      | 0x600 => some (clzN 64 a)
      | 0x601 => some (ctzN 64 a)
      | 0x602 => some (popN 64 a)
      | 0x604 => some (sx 8 a)
      | 0x605 => some (sx 16 a)
      | _ => none
  | _ =>
    if imm / 64 = 0 then some (a >>> k)
    else if imm / 64 = 0x10 then some (sraN 64 a k)
    else if imm / 64 = 0x18 then some (rotR 64 a k)
    else if imm = 0x287 then some (orcB a)
    else if imm = 0x6B8 then some (rev8 a)
    else none
def opRIW (f3 imm a : Nat) : Option Nat :=
  let k := imm % 32
  let u := a % 2 ^ 32
  match f3, imm / 32 with
  | 0, _ => some (sx 32 (a + sx 12 imm))
  | 1, 0 => some (sx 32 (u <<< k))
  | 1, 4 => some (u <<< (imm % 64))
  | 1, 5 => some (u <<< (imm % 64))
  | 1, 0x30 => match k with
    | 0 => some (clzN 32 u)
    | 1 => some (ctzN 32 u)
    | 2 => some (popN 32 u)
    | _ => none
  | 5, 0 => some (sx 32 (u >>> k))
  | 5, 0x20 => some (sx 32 (sraN 32 u k))
  | 5, 0x30 => some (sx 32 (rotR 32 u k))
  | _, _ => none

/-! Instructions. -/

def Hart.pcPlus (h : Hart) (len : Nat) : Dword := h.c.pc + BitVec.ofNat 64 len
/-- An instruction outside the set (R139); the faulting address is the pc. -/
def Hart.illegal (h : Hart) (_ : Nat) : Rv := .trap 2 h.c.pc.toNat h
/-- Goes on to the next instruction with a register written. -/
def Hart.wr (h : Hart) (rd v len : Nat) : Rv := .next (h.setX rd (mod64 v)) (h.pcPlus len)
def Hart.wrOpt (h : Hart) (w rd : Nat) (v : Option Nat) (len : Nat) : Rv :=
  match v with
  | some v => h.wr rd v len
  | none => h.illegal w

/-- Loads and stores of the integer registers. -/
def Hart.iLoad (h : Hart) (w f3 rd a len : Nat) : Rv :=
  let go (n : Nat) (ext : Nat → Nat) : Rv := match h.load a n n with
    | .ok b h1 => h1.wr rd (ext (leVal b)) len
    | .bad c a h1 => .trap c a h1
  match f3 with
  | 0 => go 1 (sx 8)
  | 1 => go 2 (sx 16)
  | 2 => go 4 (sx 32)
  | 3 => go 8 id
  | 4 => go 1 id
  | 5 => go 2 id
  | 6 => go 4 id
  | _ => h.illegal w
def Hart.memWrite (h : Hart) (a n v len : Nat) : Rv :=
  match h.store a n (leBytes n v) with
  | .ok _ h1 => .next h1 (h1.pcPlus len)
  | .bad c a h1 => .trap c a h1
def Hart.fLoad (h : Hart) (w f3 rd a len : Nat) : Rv :=
  let n := if f3 = 2 then 4 else 8
  if f3 ≠ 2 ∧ f3 ≠ 3 then h.illegal w
  else match h.load a n n with
    | .ok b h1 => .next (h1.setF rd (boxed (8 * n) (leVal b))) (h1.pcPlus len)
    | .bad c a h1 => .trap c a h1

/-- The value an atomic operation stores. -/
def amoOp (f5 w a b : Nat) : Option Nat :=
  match f5 with
  | 0x00 => some (a + b)
  | 0x01 => some b
  | 0x04 => some (a ^^^ b)
  | 0x08 => some (a ||| b)
  | 0x0C => some (a &&& b)
  | 0x10 => some (if ltS w a b then a else b)
  | 0x14 => some (if ltS w a b then b else a)
  | 0x18 => some (if ltU w a b then a else b)
  | 0x1C => some (if ltU w a b then b else a)
  | _ => none
/-- The A extension: load-reserved, store-conditional and the read-modify-writes. -/
def Hart.amo (h : Hart) (w f3 f5 rd rs1 rs2 len : Nat) : Rv :=
  let n := if f3 = 2 then 4 else 8
  let a := h.x rs1
  if f3 ≠ 2 ∧ f3 ≠ 3 then h.illegal w
  else if f5 = 2 then
    (if rs2 ≠ 0 then h.illegal w
     else match h.load a n n with
      | .ok b h1 => { h1 with c := { h1.c with resv := some (a, n) } } |>.wr rd (sx (8 * n) (leVal b)) len
      | .bad c a h1 => .trap c a h1)
  else if f5 = 3 then
    let h0 : Hart := { h with c := { h.c with resv := none } }
    if a % n ≠ 0 then .trap 6 a h
    else if h.c.resv = some (a, n) then match h0.store a n (leBytes n (h.x rs2)) with
      | .ok _ h1 => h1.wr rd 0 len
      | .bad c a h1 => .trap c a h1
    else h0.wr rd 1 len
  else match amoOp f5 (8 * n) 0 0 with
    | none => h.illegal w
    | some _ =>
      if a % n ≠ 0 then .trap 6 a h
      else match h.load a n n with
        | .bad c a h1 => .trap (if c = 5 then 7 else c) a h1
        | .ok b h1 =>
          match h1.store a n (leBytes n ((amoOp f5 (8 * n) (leVal b) (h.x rs2)).getD 0)) with
          | .ok _ h2 => h2.wr rd (sx (8 * n) (leVal b)) len
          | .bad c a h2 => .trap c a h2

/-- Zicsr (R141). -/
def Hart.csrOp (h : Hart) (w f3 rd rs1 csr len : Nat) : Rv :=
  let v := if f3 < 4 then h.x rs1 else rs1
  match h.csr csr with
  | none => h.illegal w
  | some old =>
    let new := if f3 % 4 = 1 then v else if f3 % 4 = 2 then old ||| v else old &&& (2 ^ 64 - 1 - v)
    if f3 % 4 ≠ 1 ∧ rs1 = 0 then h.wr rd old len
    else match h.setCsr csr new with
      | none => h.illegal w
      | some h1 => h1.wr rd old len

/-! The F and D extensions. -/

def fmtOf : Nat → Option FFmt
  | 0 => some .fp32
  | 1 => some .fp64
  | _ => none
def Hart.fv (h : Hart) (f : FFmt) (i : Nat) : Nat := unboxed f.bits (h.f i)
/-- Writes a floating result with its flags. -/
def Hart.fwr (h : Hart) (f : FFmt) (rd : Nat) (r : FRes) (len : Nat) : Rv :=
  .next ((h.setF rd (boxed f.bits r.1)).flag r.2) (h.pcPlus len)
def Hart.iwr (h : Hart) (rd : Nat) (r : FRes) (len : Nat) : Rv := (h.flag r.2).wr rd r.1 len
/-- The four fused forms: 0 a b + c, 1 a b - c, 2 -(a b) + c, 3 -(a b) - c. -/
def fmaForm (f : FFmt) (m : RMode) (k a b c : Nat) : FRes :=
  rvFma f m (if 2 ≤ k then f.flip a else a) b (if k = 1 ∨ k = 3 then f.flip c else c)
/-- Width and sign of the integer side of a conversion. -/
def cvtWidth (k : Nat) : Bool × Nat := (k % 2 == 0, if k < 2 then 32 else 64)
def Hart.fpOp (h : Hart) (w f5 fmt f3 rd rs1 rs2 len : Nat) : Rv :=
  match fmtOf fmt with
  | none => h.illegal w
  | some f =>
    let a := h.fv f rs1
    let b := h.fv f rs2
    let rounded (g : RMode → Rv) : Rv := match h.mode f3 with
      | some m => g m
      | none => h.illegal w
    match f5 with
    | 0x00 => rounded (fun m => h.fwr f rd (rvAdd f m a b) len)
    | 0x01 => rounded (fun m => h.fwr f rd (rvSub f m a b) len)
    | 0x02 => rounded (fun m => h.fwr f rd (rvMul f m a b) len)
    | 0x03 => rounded (fun m => h.fwr f rd (rvDiv f m a b) len)
    | 0x0B => if rs2 ≠ 0 then h.illegal w else rounded (fun m => h.fwr f rd (rvSqrt f m a) len)
    | 0x04 => if 2 < f3 then h.illegal w else h.fwr f rd (rvSgnj f f3 a b, 0) len
    | 0x05 => if 1 < f3 then h.illegal w else h.fwr f rd (rvMinMax f (f3 == 1) a b) len
    | 0x08 =>
      (match fmtOf rs2 with
       | some g => if rs2 = fmt then h.illegal w else rounded (fun m => h.fwr f rd (rvCvt f g m (h.fv g rs1)) len)
       | none => h.illegal w)
    | 0x14 => if 2 < f3 then h.illegal w else h.iwr rd (rvCmp f f3 a b) len
    | 0x18 =>
      if 3 < rs2 then h.illegal w
      else rounded (fun m =>
        let (sg, n) := cvtWidth rs2
        let r := rvToInt f m sg n a
        h.iwr rd (sx n r.1, r.2) len)
    | 0x1A =>
      if 3 < rs2 then h.illegal w
      else rounded (fun m =>
        let (sg, n) := cvtWidth rs2
        h.fwr f rd (rvOfInt f m (if sg then signed n (h.x rs1) else usg n (h.x rs1))) len)
    | 0x1C =>
      if rs2 ≠ 0 then h.illegal w
      else if f3 = 0 then h.wr rd (sx f.bits (h.f rs1)) len
      else if f3 = 1 then h.wr rd (rvClass f a) len
      else h.illegal w
    | 0x1E => if rs2 ≠ 0 ∨ f3 ≠ 0 then h.illegal w else h.fwr f rd (h.x rs1 % 2 ^ f.bits, 0) len
    | _ => h.illegal w

/-- The fused multiply-adds. -/
def Hart.fpFma (h : Hart) (w k : Nat) : Rv :=
  match fmtOf (bitsAt w 25 2), h.mode (bitsAt w 12 3) with
  | some f, some m =>
    h.fwr f (bitsAt w 7 5) (fmaForm f m k (h.fv f (bitsAt w 15 5)) (h.fv f (bitsAt w 20 5)) (h.fv f (bitsAt w 27 5))) 4
  | _, _ => h.illegal w
/-- The branch conditions. -/
def branchTaken (f3 a b : Nat) : Option Bool :=
  match f3 with
  | 0 => some (a == b)
  | 1 => some (a != b)
  | 4 => some (ltS 64 a b)
  | 5 => some (!ltS 64 a b)
  | 6 => some (ltU 64 a b)
  | 7 => some (!ltU 64 a b)
  | _ => none
/-- Executes a scalar instruction of 32 bits (or the one a compressed instruction of 2 bytes stands for). The vector
instructions are those `vec` gives. -/
def Hart.scalar (h : Hart) (vec : Hart → Nat → Rv) (w len : Nat) : Rv :=
  let rd := bitsAt w 7 5
  let f3 := bitsAt w 12 3
  let rs1 := bitsAt w 15 5
  let rs2 := bitsAt w 20 5
  let f7 := bitsAt w 25 7
  let imm := bitsAt w 20 12
  let a := h.x rs1
  let b := h.x rs2
  let ea := mod64 (a + sx 12 imm)
  let sa := mod64 (a + sx 12 (f7 * 32 + rd))
  let pc := h.c.pc.toNat
  match w % 128 with
  | 0x37 => h.wr rd (sx 32 (bitsAt w 12 20 * 4096)) len
  | 0x17 => h.wr rd (pc + sx 32 (bitsAt w 12 20 * 4096)) len
  | 0x6F =>
    let o := sx 21 (bitsAt w 31 1 * 2 ^ 20 + bitsAt w 12 8 * 2 ^ 12 + bitsAt w 20 1 * 2 ^ 11 + bitsAt w 21 10 * 2)
    .next (h.setX rd (mod64 (pc + len))) (BitVec.ofNat 64 (pc + o))
  | 0x67 =>
    if f3 ≠ 0 then h.illegal w
    else .next (h.setX rd (mod64 (pc + len))) (BitVec.ofNat 64 (ea / 2 * 2))
  | 0x63 =>
    let o := sx 13 (bitsAt w 31 1 * 2 ^ 12 + bitsAt w 7 1 * 2 ^ 11 + bitsAt w 25 6 * 32 + bitsAt w 8 4 * 2)
    (match branchTaken f3 a b with
     | some t => .next h (if t then BitVec.ofNat 64 (pc + o) else h.pcPlus len)
     | none => h.illegal w)
  | 0x03 => h.iLoad w f3 rd ea len
  | 0x23 => if 3 < f3 then h.illegal w else h.memWrite sa (2 ^ f3) b len
  | 0x13 => h.wrOpt w rd (opRI f3 imm a) len
  | 0x1B => h.wrOpt w rd (opRIW f3 imm a) len
  | 0x33 => h.wrOpt w rd (opRR f7 f3 a b) len
  | 0x3B => h.wrOpt w rd (opRRW f7 f3 rs2 a b) len
  | 0x0F => if f3 = 0 then .next h (h.pcPlus len) else h.illegal w
  | 0x2F => h.amo w f3 (f7 / 4) rd rs1 rs2 len
  | 0x73 =>
    if w = 0x00100073 then .trap 3 pc h
    else if f3 = 0 ∨ f3 = 4 then h.illegal w
    else h.csrOp w f3 rd rs1 imm len
  | 0x07 => if f3 = 2 ∨ f3 = 3 then h.fLoad w f3 rd ea len else vec h w
  | 0x27 =>
    if f3 = 2 ∨ f3 = 3 then h.memWrite sa (2 ^ f3) (h.f rs2) len else vec h w
  | 0x43 => h.fpFma w 0
  | 0x47 => h.fpFma w 1
  | 0x4B => h.fpFma w 2
  | 0x4F => h.fpFma w 3
  | 0x53 => h.fpOp w (f7 / 4) (f7 % 4) f3 rd rs1 rs2 len
  | 0x57 => vec h w
  | _ => h.illegal w

end Sys2Proof.Machine
end

