-- ==== Sys2Proof/Machine/RvVector.lean ====
section
/-!
DEFINITION. The V extension of a nomad core, with VLEN 512 and ELEN 64 (R139, R140). Its semantics are RISC-V's
(PRESUMED, log 28). Elements that are agnostic keep their values or become ones by a free value (log 4).
-/

namespace Sys2Proof.Machine

/-! Register groups. -/

def Core.vreg (c : Core) (r : Nat) : Nat := (AMap.read (fun _ => 0) c.v r).toNat
def Core.setVreg (c : Core) (r v : Nat) : Core := { c with v := AMap.write (fun _ => 0) c.v r (BitVec.ofNat 512 v) }
/-- Element i of width e in the group from register r. -/
def Core.elem (c : Core) (e r i : Nat) : Nat := bitsAt (c.vreg (r + i * e / 512)) (i * e % 512) e
def Core.setElem (c : Core) (e r i v : Nat) : Core :=
  c.setVreg (r + i * e / 512) (putBits (c.vreg (r + i * e / 512)) (i * e % 512) e v)
def Core.vill (c : Core) : Bool := bitAt c.vtype.toNat 63
def Core.sew (c : Core) : Nat := 8 * 2 ^ bitsAt c.vtype.toNat 3 3
/-- The logarithm of LMUL. -/
def lmulOf (v : Nat) : Int := if v % 8 < 4 then ((v % 8 : Nat) : Int) else ((v % 8 : Nat) : Int) - 8
/-- Elements in a group of multiplier 2^l. -/
def groupElems (l : Int) (e : Nat) : Nat := if 0 ≤ l then 512 * 2 ^ l.toNat / e else 512 / 2 ^ (-l).toNat / e
/-- Registers of a group. -/
def groupRegs (l : Int) : Nat := if 0 ≤ l then 2 ^ l.toNat else 1
def logW (e : Nat) : Int := (e.log2 : Int)
/-- A vtype value that the core holds (VSEW up to 64, LMUL 1/8 to 8, SEW at most LMUL times ELEN). -/
def vtypeOk (v : Nat) : Bool :=
  decide (v < 256) && bitsAt v 3 3 ≤ 3 && v % 8 != 4 && (decide (0 ≤ lmulOf v) || decide ((bitsAt v 3 3 : Int) ≤ 3 + lmulOf v))

/-- A vector instruction in execution. -/
structure VIns where
  h : Hart
  w : Nat
  ones : Bool

namespace VIns

def vd (v : VIns) : Nat := bitsAt v.w 7 5
def f3 (v : VIns) : Nat := bitsAt v.w 12 3
def vs1 (v : VIns) : Nat := bitsAt v.w 15 5
def vs2 (v : VIns) : Nat := bitsAt v.w 20 5
def vm (v : VIns) : Bool := bitAt v.w 25
def f6 (v : VIns) : Nat := bitsAt v.w 26 6
def sew (v : VIns) : Nat := v.h.c.sew
def lm (v : VIns) : Int := lmulOf v.h.c.vtype.toNat
def vl (v : VIns) : Nat := v.h.c.vl
def vlmax (v : VIns) : Nat := groupElems v.lm v.sew
/-- The multiplier of a group whose elements are e wide. -/
def lmFor (v : VIns) (e : Nat) : Int := v.lm + logW e - logW v.sew
def mask (v : VIns) (i : Nat) : Bool := bitAt (v.h.c.vreg 0) i
def act (v : VIns) (i : Nat) : Bool := v.vm || v.mask i
def illegal (v : VIns) : Rv := v.h.illegal v.w
def guard (v : VIns) (ok : Bool) (r : Rv) : Rv := if ok then r else v.illegal
/-- The vectors operand form: vs1 is a vector. -/
def vv (v : VIns) : Bool := v.f3 ≤ 2
/-- The instruction completes: vstart becomes 0. -/
def done (v : VIns) (c : Core) : Rv := .next { v.h with c := { c with vstart := 0 } } (v.h.pcPlus 4)

/-- A group of e-wide elements may begin at register r. -/
def aligned (v : VIns) (e r : Nat) : Bool :=
  decide (-3 ≤ v.lmFor e) && decide (v.lmFor e ≤ 3) && r % groupRegs (v.lmFor e) == 0
/-- The groups overlap. -/
def meets (r n q m : Nat) : Bool := decide (r < q + m) && decide (q < r + n)
/-- The destination's overlap with a source is one the V extension allows. -/
def overlapOk (v : VIns) (eD eS r : Nat) : Bool :=
  let nD := groupRegs (v.lmFor eD)
  let nS := groupRegs (v.lmFor eS)
  !meets v.vd nD r nS || eD == eS || (decide (eD < eS) && v.vd == r) ||
    (decide (eS < eD) && decide (0 ≤ v.lmFor eS) && r + nS == v.vd + nD)
/-- The widths of destination and sources are legal: the destination's, then vs2's and vs1's. -/
def legal (v : VIns) (eD e2 e1 : Nat) : Bool :=
  v.aligned eD v.vd && v.aligned e2 v.vs2 && v.overlapOk eD e2 v.vs2 && (v.vm || v.vd != 0) &&
  (!v.vv || (v.aligned e1 v.vs1 && v.overlapOk eD e1 v.vs1))
/-- The sources of an instruction that writes a mask. -/
def legalMask (v : VIns) (e2 e1 : Nat) : Bool :=
  let ok (e r : Nat) : Bool := v.aligned e r && (!meets v.vd 1 r (groupRegs (v.lmFor e)) || v.vd == r)
  ok e2 v.vs2 && (!v.vv || ok e1 v.vs1)

/-- Writes the elements from `start` to vl - 1 of the group at vd, and what tail and mask policy leave open; results may
carry flags: 1 to 16 of fflags, 32 of vxsat. -/
def putTo (v : VIns) (c : Core) (vd e regs start : Nat) (ta : Bool) (act : Nat → Bool) (f : Nat → FRes) : Core :=
  if v.vl ≤ start then c
  else
    let ma := bitAt v.h.c.vtype.toNat 7
    (List.range (regs * 512 / e)).foldl (fun (c : Core) i =>
      if i < start then c
      else if i < v.vl then
        (if act i then
          let r := f i
          let c1 := c.setElem e vd i r.1
          { c1 with
            fflags := c1.fflags ||| r.2 % 32
            vcsr := c1.vcsr ||| r.2 / 32 }
         else if ma && v.ones then c.setElem e vd i (2 ^ e - 1) else c)
      else if ta && v.ones then c.setElem e vd i (2 ^ e - 1) else c) c
def ta (v : VIns) : Bool := bitAt v.h.c.vtype.toNat 6
def put (v : VIns) (e : Nat) (act : Nat → Bool) (f : Nat → FRes) : Rv :=
  v.done (v.putTo v.h.c v.vd e (groupRegs (v.lmFor e)) v.h.c.vstart v.ta act f)
/-- Writes a mask, bit by bit. -/
def putMask (v : VIns) (act : Nat → Bool) (f : Nat → FRes) : Rv :=
  v.done (v.putTo v.h.c v.vd 1 1 v.h.c.vstart true act f)
/-- Writes element 0 of vd. -/
def putFirst (v : VIns) (e : Nat) (r : FRes) : Rv :=
  if v.vl ≤ v.h.c.vstart then v.done v.h.c
  else
    let c := (List.range (512 / e)).foldl (fun (c : Core) i =>
      if i = 0 then c.setElem e v.vd 0 r.1 else if v.ta && v.ones then c.setElem e v.vd i (2 ^ e - 1) else c) v.h.c
    v.done { c with fflags := c.fflags ||| r.2 % 32 }

/-! Operands. -/

def a (v : VIns) (e i : Nat) : Nat := v.h.c.elem e v.vs2 i
/-- The first operand: a vector, a scalar register or the immediate. -/
def b (v : VIns) (e i : Nat) : Nat :=
  match v.f3 with
  | 3 => sx 5 v.vs1 % 2 ^ e
  | 4 => v.h.x v.vs1 % 2 ^ e
  | 6 => v.h.x v.vs1 % 2 ^ e
  | 5 => unboxed e (v.h.f v.vs1)
  | _ => v.h.c.elem e v.vs1 i
/-- The same with an unsigned immediate: shifts, slides and gathers. -/
def ub (v : VIns) (e i : Nat) : Nat := if v.f3 = 3 then v.vs1 else v.b e i
/-- A scalar offset of a slide or gather. -/
def off (v : VIns) : Nat := if v.f3 = 3 then v.vs1 else v.h.x v.vs1
def d (v : VIns) (e i : Nat) : Nat := v.h.c.elem e v.vd i

/-! Fixed point. -/

/-- v divided by 2^k, rounded as vxrm says. -/
def roundOff (v : VIns) (x : Int) (k : Nat) : Int :=
  let q := x / ((2 ^ k : Nat) : Int)
  let rem := x % ((2 ^ k : Nat) : Int)
  let half : Int := ((2 ^ k / 2 : Nat) : Int)
  let up := match v.h.c.vcsr / 2 with
    | 0 => k != 0 && decide (half ≤ rem)
    | 1 => k != 0 && (decide (half < rem) || (rem == half && q % 2 == 1))
    | 2 => false
    | _ => rem != 0 && q % 2 == 0
  if up then q + 1 else q
/-- Saturation to w bits. -/
def sat (sg : Bool) (w : Nat) (x : Int) : FRes :=
  if x < intMin sg w then (wrapInt w (intMin sg w), 32)
  else if intMax sg w < x then (wrapInt w (intMax sg w), 32)
  else (wrapInt w x, 0)

/-! Integer operations (OPIVV, OPIVX, OPIVI). -/

/-- Operations of one width. -/
def intOp (v : VIns) (w a b ub : Nat) : Option FRes :=
  let k := ub % w
  match v.f6 with
  | 0x00 => some (a + b, 0)
  | 0x02 => if v.f3 = 3 then none else some (a + 2 ^ w - b, 0)
  | 0x03 => if v.f3 = 0 then none else some (b + 2 ^ w - a, 0)
  | 0x04 => if v.f3 = 3 then none else some (min a b, 0)
  | 0x05 => if v.f3 = 3 then none else some (if ltS w a b then a else b, 0)
  | 0x06 => if v.f3 = 3 then none else some (max a b, 0)
  | 0x07 => if v.f3 = 3 then none else some (if ltS w a b then b else a, 0)
  | 0x09 => some (a &&& b, 0)
  | 0x0A => some (a ||| b, 0)
  | 0x0B => some (a ^^^ b, 0)
  | 0x20 => some (sat false w ((a : Int) + b))
  | 0x21 => some (sat true w (signed w a + signed w b))
  | 0x22 => if v.f3 = 3 then none else some (sat false w ((a : Int) - b))
  | 0x23 => if v.f3 = 3 then none else some (sat true w (signed w a - signed w b))
  | 0x25 => some (a <<< k, 0)
  | 0x27 => if v.f3 = 3 then none else some (sat true w (v.roundOff (signed w a * signed w b) (w - 1)))
  | 0x28 => some (a >>> k, 0)
  | 0x29 => some (sraN w a k, 0)
  | 0x2A => some (wrapInt w (v.roundOff (a : Int) k), 0)
  | 0x2B => some (wrapInt w (v.roundOff (signed w a) k), 0)
  | _ => none
/-- Narrowing operations: a is twice as wide. -/
def narrowOp (v : VIns) (w a ub : Nat) : FRes :=
  let k := ub % (2 * w)
  match v.f6 with
  | 0x2C => (a >>> k % 2 ^ w, 0)
  | 0x2D => (sraN (2 * w) a k, 0)
  | 0x2E => sat false w (v.roundOff (a : Int) k)
  | _ => sat true w (v.roundOff (signed (2 * w) a) k)
/-- Comparisons. -/
def cmpOp (v : VIns) (w a b : Nat) : Option Bool :=
  match v.f6 with
  | 0x18 => some (a == b)
  | 0x19 => some (a != b)
  | 0x1A => if v.f3 = 3 then none else some (decide (a < b))
  | 0x1B => if v.f3 = 3 then none else some (ltS w a b)
  | 0x1C => some (decide (a ≤ b))
  | 0x1D => some (!ltS w b a)
  | 0x1E => if v.f3 = 0 then none else some (decide (b < a))
  | 0x1F => if v.f3 = 0 then none else some (ltS w b a)
  | _ => none
def all (_ : VIns) (_ : Nat) : Bool := true
/-- Slides and gathers. -/
def slideUp (v : VIns) : Rv :=
  let e := v.sew
  let n := groupRegs v.lm
  let c := v.putTo v.h.c v.vd e n (max v.h.c.vstart v.off) v.ta v.act (fun i => (v.a e (i - v.off), 0))
  v.guard (v.legal e e e && !meets v.vd n v.vs2 n) (v.done c)
def slideDown (v : VIns) : Rv :=
  let e := v.sew
  v.guard (v.legal e e e) (v.put e v.act (fun i => (if i + v.off < v.vlmax then v.a e (i + v.off) else 0, 0)))
def gather (v : VIns) (e1 : Nat) : Rv :=
  let e := v.sew
  let n := groupRegs v.lm
  let idx (i : Nat) : Nat := if v.vv then v.h.c.elem e1 v.vs1 i else v.off
  v.guard (v.legal e e e1 && !meets v.vd n v.vs2 n && !(v.vv && meets v.vd n v.vs1 (groupRegs (v.lmFor e1))))
    (v.put e v.act (fun i => (if idx i < v.vlmax then v.a e (idx i) else 0, 0)))
/-- vmv<nr>r: whole registers. -/
def moveWhole (v : VIns) : Rv :=
  let n := v.vs1 + 1
  let c := (List.range (n * 512 / v.sew)).foldl (fun (c : Core) i =>
    if i < v.h.c.vstart then c else c.setElem v.sew v.vd i (v.h.c.elem v.sew v.vs2 i)) v.h.c
  v.guard (v.vm && (n == 1 || n == 2 || n == 4 || n == 8) && v.vd % n == 0 && v.vs2 % n == 0) (v.done c)
/-- The carry or borrow in. -/
def carry (v : VIns) (i : Nat) : Nat := if v.vm then 0 else b2n (v.mask i)
/-- Widening reductions and plain ones: the operation folds the active elements into vs1[0]. -/
def reduce (v : VIns) (eD : Nat) (f : FRes → Nat → FRes) : Rv :=
  let l := (List.range v.vl).filter v.act
  let r := l.foldl (fun acc i => f acc (v.a v.sew i)) (v.h.c.elem eD v.vs1 0, 0)
  v.guard (v.aligned v.sew v.vs2 && v.h.c.vstart == 0 && decide (eD ≤ 64)) (v.putFirst eD r)

def narrow (v : VIns) : Rv :=
  let w := v.sew
  v.guard (decide (w ≤ 32) && v.legal w (2 * w) w) (v.put w v.act (fun i => v.narrowOp w (v.a (2 * w) i) (v.ub w i)))

def opI (v : VIns) : Rv :=
  let w := v.sew
  match v.f6 with
  | 0x0C => v.gather w
  | 0x0E => if v.f3 = 0 then v.gather 16 else v.slideUp
  | 0x0F => if v.f3 = 0 then v.illegal else v.slideDown
  | 0x10 => v.guard (v.legal w w w && !v.vm) (v.put w v.all (fun i => (v.a w i + v.b w i + v.carry i, 0)))
  | 0x11 => v.guard (v.legalMask w w) (v.putMask v.all (fun i => (b2n (decide (2 ^ w ≤ v.a w i + v.b w i + v.carry i)), 0)))
  | 0x12 => v.guard (v.legal w w w && !v.vm && v.f3 != 3)
      (v.put w v.all (fun i => (v.a w i + 2 ^ (w + 1) - v.b w i - v.carry i, 0)))
  | 0x13 => v.guard (v.legalMask w w && v.f3 != 3) (v.putMask v.all (fun i => (b2n (decide (v.a w i < v.b w i + v.carry i)), 0)))
  | 0x17 => v.guard (v.legal w w w && (!v.vm || v.vs2 == 0))
      (v.put w v.all (fun i => (if v.vm || v.mask i then v.b w i else v.a w i, 0)))
  | 0x30 => if v.f3 = 0 then v.reduce (2 * w) (fun r x => ((r.1 + x) % 2 ^ (2 * w), 0)) else v.illegal
  | 0x31 => if v.f3 = 0 then v.reduce (2 * w) (fun r x => (wrapInt (2 * w) ((r.1 : Int) + signed w x), 0)) else v.illegal
  | 0x2C => v.narrow
  | 0x2D => v.narrow
  | 0x2E => v.narrow
  | 0x2F => v.narrow
  | f6 =>
    if f6 = 0x27 ∧ v.f3 = 3 then v.moveWhole
    else if 0x18 ≤ f6 ∧ f6 ≤ 0x1F then
      v.guard (v.legalMask w w && (v.cmpOp w 0 0).isSome)
        (v.putMask v.act (fun i => (b2n ((v.cmpOp w (v.a w i) (v.b w i)).getD false), 0)))
    else v.guard (v.legal w w w && (v.intOp w 0 0 0).isSome)
      (v.put w v.act (fun i => (v.intOp w (v.a w i) (v.b w i) (v.ub w i)).getD (0, 0)))
/-! Integer operations (OPMVV, OPMVX). -/

/-- Operations of one width; d is the destination's old element. -/
def mulOp (v : VIns) (w a b d : Nat) : Option FRes :=
  let m := 2 ^ w
  let sa := signed w a
  let sb := signed w b
  match v.f6 with
  | 0x08 => some (wrapInt w (v.roundOff ((a : Int) + b) 1), 0)
  | 0x09 => some (wrapInt w (v.roundOff (sa + sb) 1), 0)
  | 0x0A => some (wrapInt w (v.roundOff ((a : Int) - b) 1), 0)
  | 0x0B => some (wrapInt w (v.roundOff (sa - sb) 1), 0)
  | 0x20 => some (divU w a b, 0)
  | 0x21 => some (divS w a b, 0)
  | 0x22 => some (remU w a b, 0)
  | 0x23 => some (remS w a b, 0)
  | 0x24 => some (mulH w a b, 0)
  | 0x25 => some (a * b, 0)
  | 0x26 => some (mulH w sa b, 0)
  | 0x27 => some (mulH w sa sb, 0)
  | 0x29 => some (b * d + a, 0)
  | 0x2B => some (a + m * m - b * d, 0)
  | 0x2D => some (b * a + d, 0)
  | 0x2F => some (d + m * m - b * a, 0)
  | _ => none
/-- Widening operations: results 2w wide; a is 2w wide in the .w forms. -/
def wideOp (v : VIns) (w a b d : Nat) : Option Nat :=
  let r (x : Int) : Option Nat := some (wrapInt (2 * w) x)
  let sa := signed w a
  let sb := signed w b
  match v.f6 with
  | 0x30 => r ((a : Int) + b)
  | 0x31 => r (sa + sb)
  | 0x32 => r ((a : Int) - b)
  | 0x33 => r (sa - sb)
  | 0x34 => r ((a : Int) + b)
  | 0x35 => r ((a : Int) + sb)
  | 0x36 => r ((a : Int) - b)
  | 0x37 => r ((a : Int) - sb)
  | 0x38 => r ((a : Int) * b)
  | 0x3A => r (sa * b)
  | 0x3B => r (sa * sb)
  | 0x3C => r ((a : Int) * b + d)
  | 0x3D => r (sa * sb + d)
  | 0x3E => if v.f3 = 6 then r (sa * b + d) else none
  | 0x3F => r ((a : Int) * sb + d)
  | _ => none
def redOp (f6 w a b : Nat) : Nat :=
  match f6 with
  | 0 => (a + b) % 2 ^ w
  | 1 => a &&& b
  | 2 => a ||| b
  | 3 => a ^^^ b
  | 4 => min a b
  | 5 => if ltS w a b then a else b
  | 6 => max a b
  | _ => if ltS w a b then b else a
/-- vs2 as a mask. -/
def m2 (v : VIns) (i : Nat) : Bool := bitAt (v.h.c.vreg v.vs2) i
def m1 (v : VIns) (i : Nat) : Bool := bitAt (v.h.c.vreg v.vs1) i
def logicOp (f6 : Nat) (x y : Bool) : Bool :=
  match f6 with
  | 0x18 => x && !y
  | 0x19 => x && y
  | 0x1A => x || y
  | 0x1B => x != y
  | 0x1C => x || !y
  | 0x1D => !(x && y)
  | 0x1E => !(x || y)
  | _ => x == y
/-- The first active set bit of vs2. -/
def firstSet (v : VIns) : Option Nat := ((List.range v.vl).filter v.act).find? v.m2
/-- A result in an integer register. -/
def toX (v : VIns) (x : Nat) : Rv :=
  v.done (v.h.c.setX v.vd (BitVec.ofNat 64 x))
/-- VWXUNARY0 and VRXUNARY0. -/
def unaryX (v : VIns) : Rv :=
  if v.f3 = 6 then v.guard (v.vm && v.vs2 == 0) (v.putFirst v.sew (v.h.x v.vs1 % 2 ^ v.sew, 0))
  else match v.vs1 with
    | 0 => v.guard v.vm (v.toX (sx v.sew (v.a v.sew 0)))
    | 0x10 => v.guard (v.h.c.vstart == 0) (v.toX (((List.range v.vl).filter v.act).filter v.m2).length)
    | 0x11 => v.guard (v.h.c.vstart == 0) (v.toX (match v.firstSet with | some i => i | none => 2 ^ 64 - 1))
    | _ => v.illegal
/-- vzext and vsext. -/
def extend (v : VIns) : Rv :=
  let k := match v.vs1 / 2 with
    | 1 => 8
    | 2 => 4
    | _ => 2
  let e := v.sew / k
  v.guard (v.f3 == 2 && decide (2 ≤ v.vs1) && decide (v.vs1 ≤ 7) && decide (8 ≤ e) && v.aligned v.sew v.vd && v.aligned e v.vs2 &&
      v.overlapOk v.sew e v.vs2 && (v.vm || v.vd != 0))
    (v.put v.sew v.act (fun i => (if v.vs1 % 2 = 1 then wrapInt v.sew (signed e (v.a e i)) else v.a e i, 0)))
/-- VMUNARY0. -/
def unaryMask (v : VIns) : Rv :=
  let before (i : Nat) : Bool := match v.firstSet with | some k => decide (i < k) | none => true
  let at_ (i : Nat) : Bool := v.firstSet == some i
  let m (f : Nat → Bool) : Rv :=
    v.guard (v.h.c.vstart == 0 && v.vd != v.vs2 && (v.vm || v.vd != 0)) (v.putMask v.act (fun i => (b2n (f i), 0)))
  let ok : Bool := v.aligned v.sew v.vd && (v.vm || v.vd != 0)
  match v.vs1 with
  | 1 => m before
  | 2 => m at_
  | 3 => m (fun i => before i || at_ i)
  | 0x10 => v.guard (ok && v.h.c.vstart == 0 && !meets v.vd (groupRegs v.lm) v.vs2 1)
      (v.put v.sew v.act (fun i => (((List.range i).filter (fun j => v.act j && v.m2 j)).length, 0)))
  | 0x11 => v.guard (ok && v.vs2 == 0) (v.put v.sew v.act (fun i => (i, 0)))
  | _ => v.illegal
/-- vcompress: the elements that vs1 selects, packed. -/
def compress (v : VIns) : Rv :=
  let l := (List.range v.vl).filter v.m1
  let n := groupRegs v.lm
  let c := v.putTo v.h.c v.vd v.sew n 0 v.ta (fun _ => true) (fun i => match l[i]? with
    | some j => (v.a v.sew j, 0)
    | none => (if v.ta && v.ones then 2 ^ v.sew - 1 else v.d v.sew i, 0))
  v.guard (v.vm && v.h.c.vstart == 0 && v.aligned v.sew v.vd && v.aligned v.sew v.vs2 && !meets v.vd n v.vs2 n &&
    !meets v.vd n v.vs1 1) (v.done c)
def slide1 (v : VIns) (up : Bool) (x : Nat) : Rv :=
  let e := v.sew
  let n := groupRegs v.lm
  v.guard (v.legal e e e && (!up || !meets v.vd n v.vs2 n))
    (v.put e v.act (fun i =>
      (if up then (if i = 0 then x else v.a e (i - 1)) else if i + 1 = v.vl then x else v.a e (i + 1), 0)))

def opM (v : VIns) : Rv :=
  let w := v.sew
  match v.f6 with
  | 0x0E => if v.f3 = 6 then v.slide1 true (v.b w 0) else v.illegal
  | 0x0F => if v.f3 = 6 then v.slide1 false (v.b w 0) else v.illegal
  | 0x10 => v.unaryX
  | 0x12 => v.extend
  | 0x14 => if v.f3 = 2 then v.unaryMask else v.illegal
  | 0x17 => if v.f3 = 2 then v.compress else v.illegal
  | f6 =>
    if f6 < 8 then (if v.f3 = 2 then v.reduce w (fun r x => (redOp f6 w r.1 x, 0)) else v.illegal)
    else if 0x18 ≤ f6 ∧ f6 ≤ 0x1F then
      v.guard (v.vm && v.f3 == 2) (v.putMask v.all (fun i => (b2n (logicOp f6 (v.m2 i) (v.m1 i)), 0)))
    else if 0x30 ≤ f6 then
      let ea := if 0x34 ≤ f6 ∧ f6 ≤ 0x37 then 2 * w else w
      v.guard (decide (w ≤ 32) && v.legal (2 * w) ea w && (v.wideOp w 0 0 0).isSome)
        (v.put (2 * w) v.act (fun i => ((v.wideOp w (v.a ea i) (v.b w i) (v.d (2 * w) i)).getD 0, 0)))
    else v.guard (v.legal w w w && (v.mulOp w 0 0 0).isSome)
      (v.put w v.act (fun i => (v.mulOp w (v.a w i) (v.b w i) (v.d w i)).getD (0, 0)))

/-! Floating point (OPFVV, OPFVF). -/

/-- The float format of a width. -/
def ffmt : Nat → Option FFmt
  | 32 => some .fp32
  | 64 => some .fp64
  | _ => none
/-- Operations of one width. -/
def floatOp (v : VIns) (f : FFmt) (m : RMode) (a b d : Nat) : Option FRes :=
  match v.f6 with
  | 0x00 => some (rvAdd f m a b)
  | 0x02 => some (rvSub f m a b)
  | 0x04 => some (rvMinMax f false a b)
  | 0x06 => some (rvMinMax f true a b)
  | 0x08 => some (rvSgnj f 0 a b, 0)
  | 0x09 => some (rvSgnj f 1 a b, 0)
  | 0x0A => some (rvSgnj f 2 a b, 0)
  | 0x20 => some (rvDiv f m a b)
  | 0x21 => if v.vv then none else some (rvDiv f m b a)
  | 0x24 => some (rvMul f m a b)
  | 0x27 => if v.vv then none else some (rvSub f m b a)
  | 0x28 => some (fmaForm f m 0 b d a)
  | 0x29 => some (fmaForm f m 3 b d a)
  | 0x2A => some (fmaForm f m 1 b d a)
  | 0x2B => some (fmaForm f m 2 b d a)
  | 0x2C => some (fmaForm f m 0 b a d)
  | 0x2D => some (fmaForm f m 3 b a d)
  | 0x2E => some (fmaForm f m 1 b a d)
  | 0x2F => some (fmaForm f m 2 b a d)
  | _ => none
/-- Widening operations on values already of the wide format. -/
def floatWide (v : VIns) (f : FFmt) (m : RMode) (a b d : Nat) : Option FRes :=
  match v.f6 with
  | 0x30 => some (rvAdd f m a b)
  | 0x32 => some (rvSub f m a b)
  | 0x34 => some (rvAdd f m a b)
  | 0x36 => some (rvSub f m a b)
  | 0x38 => some (rvMul f m a b)
  | 0x3C => some (fmaForm f m 0 b a d)
  | 0x3D => some (fmaForm f m 3 b a d)
  | 0x3E => some (fmaForm f m 1 b a d)
  | 0x3F => some (fmaForm f m 2 b a d)
  | _ => none
def floatCmp (v : VIns) (f : FFmt) (a b : Nat) : Option FRes :=
  match v.f6 with
  | 0x18 => some (rvCmp f 2 a b)
  | 0x19 => some (rvCmp f 0 a b)
  | 0x1B => some (rvCmp f 1 a b)
  | 0x1C => let r := rvCmp f 2 a b; some (1 - r.1, r.2)
  | 0x1D => if v.vv then none else some (rvCmp f 1 b a)
  | 0x1F => if v.vv then none else some (rvCmp f 0 b a)
  | _ => none
/-- The conversions of VFUNARY0: width of the result, width of the source, and the function. -/
def convert (v : VIns) (m : RMode) : Option (Nat × Nat × (Nat → FRes)) :=
  let w := v.sew
  let k := v.vs1 % 8
  let rm := if k = 6 ∨ k = 7 then .rtz else m
  let toI (f : Option FFmt) (n : Nat) : Option (Nat → FRes) := f.map (fun f => fun a => rvToInt f rm (k % 2 == 1) n a)
  let ofI (f : Option FFmt) (n : Nat) : Option (Nat → FRes) :=
    f.map (fun f => fun a => rvOfInt f m (if k % 2 = 1 then signed n a else usg n a))
  match v.vs1 / 8, k with
  | 0, 2 => (ofI (ffmt w) w).map (fun g => (w, w, g))
  | 0, 3 => (ofI (ffmt w) w).map (fun g => (w, w, g))
  | 0, k => if k = 4 ∨ k = 5 then none else (toI (ffmt w) w).map (fun g => (w, w, g))
  | 1, 2 => (ofI (ffmt (2 * w)) w).map (fun g => (2 * w, w, g))
  | 1, 3 => (ofI (ffmt (2 * w)) w).map (fun g => (2 * w, w, g))
  | 1, 4 => if w = 32 then some (64, 32, rvCvt .fp64 .fp32 m) else none
  | 1, 5 => none
  | 1, _ => if w = 32 then (toI (ffmt w) (2 * w)).map (fun g => (2 * w, w, g)) else none
  | 2, 2 => if w = 32 then (ofI (ffmt w) (2 * w)).map (fun g => (w, 2 * w, g)) else none
  | 2, 3 => if w = 32 then (ofI (ffmt w) (2 * w)).map (fun g => (w, 2 * w, g)) else none
  | 2, 4 => if w = 32 then some (32, 64, rvCvt .fp32 .fp64 m) else none
  | 2, 5 => if w = 32 then some (32, 64, rvCvt .fp32 .fp64 .odd) else none
  | 2, _ => (toI (ffmt (2 * w)) w).map (fun g => (w, 2 * w, g))
  | _, _ => none
/-- The source group of a one-operand instruction is legal. -/
def legal1 (v : VIns) (eD e2 : Nat) : Bool :=
  v.aligned eD v.vd && v.aligned e2 v.vs2 && v.overlapOk eD e2 v.vs2 && (v.vm || v.vd != 0)

def opF (v : VIns) : Rv :=
  let w := v.sew
  match v.h.mode 7 with
  | none => v.illegal
  | some m =>
    if v.f6 = 0x12 then
      (if v.f3 ≠ 1 then v.illegal
       else match v.convert m with
        | some (eD, e2, g) => v.guard (v.legal1 eD e2) (v.put eD v.act (fun i => g (v.a e2 i)))
        | none => v.illegal)
    else match ffmt w with
    | none => v.illegal
    | some f =>
      let wide (g : FFmt → RMode → Nat → Nat → Nat → Option FRes) (ea : Nat) : Rv :=
        let up (e x : Nat) : Nat := if e = 32 then (rvCvt .fp64 .fp32 .rne x).1 else x
        let bad (e x : Nat) : Nat := if e = 32 then nvIf (FFmt.snan .fp32 x) else 0
        v.guard (w == 32 && v.legal 64 ea 32 && (g .fp64 m 0 0 0).isSome)
          (v.put 64 v.act (fun i =>
            let r := (g .fp64 m (up ea (v.a ea i)) (up 32 (v.b 32 i)) (v.d 64 i)).getD (0, 0)
            (r.1, r.2 ||| bad ea (v.a ea i) ||| bad 32 (v.b 32 i))))
      let red (g : Nat → Nat → FRes) : Rv :=
        if v.f3 = 1 then v.reduce w (fun r x => let y := g r.1 x; (y.1, r.2 ||| y.2)) else v.illegal
      let redW : Rv :=
        if v.f3 = 1 ∧ w = 32 then v.reduce 64 (fun r x =>
          let y := rvAdd .fp64 m r.1 (rvCvt .fp64 .fp32 .rne x).1
          (y.1, r.2 ||| y.2 ||| nvIf (FFmt.snan .fp32 x))) else v.illegal
      match v.f6 with
      | 0x01 => red (rvAdd f m)
      | 0x03 => red (rvAdd f m)
      | 0x05 => red (rvMinMax f false)
      | 0x07 => red (rvMinMax f true)
      | 0x31 => redW
      | 0x33 => redW
      | 0x0E => if v.f3 = 5 then v.slide1 true (v.b w 0) else v.illegal
      | 0x0F => if v.f3 = 5 then v.slide1 false (v.b w 0) else v.illegal
      | 0x10 =>
        if v.f3 = 5 then v.guard (v.vm && v.vs2 == 0) (v.putFirst w (v.b w 0, 0))
        else v.guard (v.vm && v.vs1 == 0)
          (v.done { v.h.c with f := AMap.write (fun _ => 0) v.h.c.f v.vd (BitVec.ofNat 64 (boxed w (v.a w 0))) })
      | 0x13 =>
        let un (g : Nat → FRes) : Rv := v.guard (v.legal1 w w && v.f3 == 1) (v.put w v.act (fun i => g (v.a w i)))
        (match v.vs1 with
         | 0 => un (rvSqrt f m)
         | 4 => un (rvRsqrt7 f)
         | 5 => un (rvRec7 f m)
         | 0x10 => un (fun x => (rvClass f x, 0))
         | _ => v.illegal)
      | 0x17 => v.guard (v.f3 == 5 && v.legal w w w && (!v.vm || v.vs2 == 0))
          (v.put w v.all (fun i => (if v.vm || v.mask i then v.b w i else v.a w i, 0)))
      | f6 =>
        if 0x18 ≤ f6 ∧ f6 ≤ 0x1F then
          v.guard (v.legalMask w w && (v.floatCmp f 0 0).isSome)
            (v.putMask v.act (fun i => (v.floatCmp f (v.a w i) (v.b w i)).getD (0, 0)))
        else if 0x30 ≤ f6 then wide v.floatWide (if f6 = 0x34 ∨ f6 = 0x36 then 64 else 32)
        else v.guard (v.legal w w w && (v.floatOp f m 0 0 0).isSome)
          (v.put w v.act (fun i => (v.floatOp f m (v.a w i) (v.b w i) (v.d w i)).getD (0, 0)))

/-! Loads and stores. -/

/-- The element width a width field names. -/
def widthOf : Nat → Option Nat
  | 0 => some 8
  | 5 => some 16
  | 6 => some 32
  | 7 => some 64
  | _ => none
/-- The shape of a vector access: element width, registers of a field's group, fields, elements, and addresses. -/
structure VAcc where
  e : Nat
  regs : Nat
  nf : Nat
  n : Nat
  whole : Bool
  first : Bool
  addr : Nat → Nat → Nat
def shape (v : VIns) (store : Bool) : Option VAcc :=
  let nf := bitsAt v.w 29 3 + 1
  let base := v.h.x v.vs1
  match widthOf v.f3 with
  | none => none
  | some e =>
    let seg (e i : Nat) (k : Nat) : Nat := (i * nf + k) * (e / 8)
    let fit (e : Nat) : Bool := v.aligned e v.vd && decide (nf * groupRegs (v.lmFor e) ≤ 8) &&
      decide (v.vd + nf * groupRegs (v.lmFor e) ≤ 32) && !v.h.c.vill
    let m0 : Bool := v.vm || store || v.vd != 0
    if bitAt v.w 28 then none
    else match bitsAt v.w 26 2 with
      | 0 => match v.vs2 with
        | 0 => if fit e && m0 then some ⟨e, groupRegs (v.lmFor e), nf, v.vl, false, false, fun i k => mod64 (base + seg e i k)⟩ else none
        | 8 => if v.vm && (nf == 1 || nf == 2 || nf == 4 || nf == 8) && v.vd % nf == 0 && (!store || e == 8) then
            some ⟨e, nf, 1, nf * 512 / e, true, false, fun i _ => mod64 (base + i * (e / 8))⟩ else none
        | 0xB => if v.vm && nf == 1 && e == 8 && !v.h.c.vill then
            some ⟨8, 1, 1, (v.vl + 7) / 8, true, false, fun i _ => mod64 (base + i)⟩ else none
        | 0x10 => if !store && fit e && m0 then
            some ⟨e, groupRegs (v.lmFor e), nf, v.vl, false, true, fun i k => mod64 (base + seg e i k)⟩ else none
        | _ => none
      | 2 => if fit e && m0 then
          some ⟨e, groupRegs (v.lmFor e), nf, v.vl, false, false, fun i k => mod64 (base + i * v.h.x v.vs2 + k * (e / 8))⟩ else none
      | _ =>
        let s := v.sew
        let ok : Bool := store || (v.overlapOk s e v.vs2 && (nf == 1 || !meets v.vd (nf * groupRegs v.lm) v.vs2 (groupRegs (v.lmFor e))))
        if fit s && v.aligned e v.vs2 && m0 && ok then
          some ⟨s, groupRegs v.lm, nf, v.vl, false, false, fun i k => mod64 (base + v.h.c.elem e v.vs2 i + k * (s / 8))⟩ else none
/-- What the elements of a load come to: values by element and field, and the first element that faults. -/
structure VGot where
  h : Hart
  vals : List (Nat × Nat) := []
  fault : Option (Nat × Nat × Nat) := none
def loadGo (v : VIns) (x : VAcc) : List (Nat × Nat) → VGot → VGot
  | [], g => g
  | (i, k) :: t, g =>
    match g.h.load (x.addr i k) (x.e / 8) (x.e / 8) with
    | .ok b h => loadGo v x t ⟨h, g.vals ++ [(i * x.nf + k, leVal b)], none⟩
    | .bad c a h => ⟨h, g.vals, some (i, c, a)⟩
def storeGo (v : VIns) (x : VAcc) : List (Nat × Nat) → Hart → Acc
  | [], h => .ok [] h
  | (i, k) :: t, h =>
    match h.store (x.addr i k) (x.e / 8) (leBytes (x.e / 8) (v.h.c.elem x.e (v.vd + k * x.regs) i)) with
    | .ok _ h1 => storeGo v x t h1
    | .bad c a h1 => .bad c a h1
/-- The accesses in order: active elements from vstart, each with its fields. -/
def accesses (v : VIns) (x : VAcc) : List (Nat × Nat) :=
  ((List.range x.n).filter (fun i => decide (v.h.c.vstart ≤ i) && (x.whole || v.act i))).flatMap
    (fun i => (List.range x.nf).map (fun k => (i, k)))
def vload (v : VIns) : Rv :=
  match v.shape false with
  | none => v.illegal
  | some x =>
    let g := loadGo v x (v.accesses x) ⟨v.h, [], none⟩
    let got (i k : Nat) : Nat := ((g.vals.find? (fun p => p.1 == i * x.nf + k)).map (fun p => p.2)).getD 0
    let fill (n : Nat) : Rv :=
      let u : VIns := { v with h := { v.h with c := { v.h.c with vl := n } } }
      let c := (List.range x.nf).foldl (fun c k =>
        u.putTo c (v.vd + k * x.regs) x.e x.regs v.h.c.vstart (x.whole || v.ta) (if x.whole then v.all else v.act)
          (fun i => (got i k, 0))) v.h.c
      .next { g.h with c := { c with
        vstart := 0
        vl := if x.first then n else v.vl } } (v.h.pcPlus 4)
    match g.fault with
    | none => fill x.n
    | some (i, c, a) => if x.first ∧ 0 < i then fill i else .trap c a g.h
def vstore (v : VIns) : Rv :=
  match v.shape true with
  | none => v.illegal
  | some x => match storeGo v x (v.accesses x) v.h with
    | .ok _ h => .next { h with c := { h.c with vstart := 0 } } (v.h.pcPlus 4)
    | .bad c a h => .trap c a h

/-! Configuration. -/

/-- vsetvli, vsetivli and vsetvl. An AVL above VLMAX gives VLMAX. -/
def config (v : VIns) : Rv :=
  let w := v.w
  let rs1 := v.vs1
  let rd := v.vd
  let imm := bitAt w 31 && bitAt w 30
  let reg := bitAt w 31 && !bitAt w 30
  if reg ∧ bitsAt w 25 6 ≠ 0 then v.illegal
  else
    let t := if imm then bitsAt w 20 10 else if reg then v.h.x v.vs2 else bitsAt w 20 11
    let mx := groupElems (lmulOf t) (8 * 2 ^ bitsAt t 3 3)
    let avl := if imm then rs1 else if rs1 ≠ 0 then v.h.x rs1 else if rd ≠ 0 then mx else v.h.c.vl
    let n := if vtypeOk t then min avl mx else 0
    let c : Core := { v.h.c with
      vl := n
      vtype := if vtypeOk t then BitVec.ofNat 64 t else BitVec.ofNat 64 (2 ^ 63)
      vstart := 0 }
    .next { v.h with c := c.setX rd (BitVec.ofNat 64 n) } (v.h.pcPlus 4)

end VIns

/-- Executes a vector instruction. What is agnostic is decided by one free value an instruction. -/
def Hart.vector (h : Hart) (w : Nat) : Rv :=
  let (z, s1) := h.s.free
  let v : VIns := ⟨{ h with s := s1 }, w, bitAt z.toNat 0⟩
  match w % 128 with
  | 0x07 => v.vload
  | 0x27 => v.vstore
  | _ =>
    if v.f3 = 7 then v.config
    else if h.c.vill then v.illegal
    else match v.f3 with
      | 0 => v.opI
      | 3 => v.opI
      | 4 => v.opI
      | 2 => v.opM
      | 6 => v.opM
      | _ => v.opF

end Sys2Proof.Machine
end

