-- ==== Sys2Proof/Machine/CmdNomad.lean ====
section
/-!
DEFINITION. Meanings of the commands of the nomad cores (chapter 07). A command of an instruction executes the one at the
core's pc if it is of that kind; the core does nothing where another stands there, while it waits, or with no invocation.
-/

namespace Sys2Proof.Machine

/-! Ends and faults. -/

/-- A core becomes free. -/
def State.freeCore (s : State) (n : Nat) : State :=
  ((s.clearCore n).setN (Reg.NMD_STATUS n) 0).setN (Reg.NMD_KERNEL n) 0
/-- A core's share of its node ends; with the last one the step goes on (R144). -/
def State.shareEnded (s : State) (n : Nat) (v : Invocation) (empty : Bool) : State :=
  let s1 := s.freeCore n
  let s2 := match s1.sidOf v.handle with
    | none => s1
    | some h =>
      if (s1.run h).wait ≠ StepWait.kernel then s1
      else
        let t := if empty then s1.note h 7 else s1
        let r := t.run h
        let t1 := t.setRun h { r with jobs := r.jobs - 1 }
        if r.jobs ≤ 1 then t1.goOn h true else t1
  s2.coresFreed (n / 4)
/-- Every core of an invocation stops, the saved ones too. -/
def State.stopInvocation (s : State) (n : Nat) (v : Invocation) : State :=
  let s1 := stopCores v.handle s (coresOf (n / 4))
  { s1 with savedCores := s1.savedCores.filter (fun x => (x.2.2.inv.map (fun u => u.handle)) != some v.handle) }
/-- The barriers and queues of a faulted invocation's node take their initial state (R152). -/
def State.resetObjs (s : State) (cl : Nat) (v : Invocation) : State :=
  match ((s.sidOf v.handle).bind (fun h => (s.objsOf cl h v.node).map (fun a => (h, a))) : Option (Nat × ObjAlloc)) with
  | some (h, a) => match (((s.graphOf (s.strm h).graph).bind (fun g => g.nodes[v.node]?)).map (fun n => n.node) : Option Node) with
    | some (.kernel x) => s.initObjs cl a x
    | _ => s
  | none => s
/-- A core faults (R152): its invocation stops, one record, its count and registers, and the step completes FAULTED. -/
def State.coreFault (s : State) (n cause addr : Nat) : State :=
  let c := s.core n
  match c.inv with
  | none => s
  | some v =>
    let s1 := (s.stopInvocation n v).resetObjs (n / 4) v
    let s2 := s1.report 3 cause (s1.coreLoc n) 3 c.pc.toNat
    let s3 := (s2.count (Reg.NMD_FAULTS n) 1 (Reg.NMD_INT_STATUS n) 1).raise (Reg.NMD_INT_STATUS n) 0
    let s4 := (s3.setN (Reg.NMD_FCAUSE n) cause).setPair (Reg.NMD_FADDR_LO n) addr
    let s5 := match s4.sidOf v.handle with
      | some h => if (s4.run h).wait ≠ StepWait.kernel then s4 else (s4.fail h 6).goOn h true
      | none => s4
    s5.coresFreed (n / 4)

/-! Executing. -/

/-- The kinds of instruction that have a command of their own (R144, R145). -/
inductive NmdKind where
  | rv | ecall | twait | bar | qpush | qpop | draw | mark | rbegin | rfeed | rnode | rend
  deriving DecidableEq, Repr
/-- The kind of an instruction word (Table 07-3); a funct7 bit that the table does not define makes it illegal. -/
def nmdKind (w : Nat) : NmdKind :=
  let f3 := bitsAt w 12 3
  let f7 := bitsAt w 25 7
  let z (k : NmdKind) : NmdKind := if f7 = 0 then k else .rv
  if w = 0x73 then .ecall
  else if w % 128 = 0x0B then
    match f3 with
    | 0 => z .twait
    | 1 => z .bar
    | 2 => if f7 ≤ 1 then .qpush else .rv
    | 3 => if f7 ≤ 1 then .qpop else .rv
    | 4 => z .draw
    | 5 => z .mark
    | _ => .rv
  else if w % 128 = 0x2B then
    match f3 with
    | 0 => z .rbegin
    | 1 => z .rfeed
    | 2 => if f7 < 64 then .rnode else .rv
    | 3 => z .rend
    | _ => .rv
  else .rv
/-- The core, and the word at its pc, where the instruction there is of a kind and the core may execute it. -/
def State.hartAt (s : State) (n : Nat) (k : NmdKind) : Option (Hart × Nat) :=
  let c := s.core n
  let h : Hart := ⟨s, n, c⟩
  if c.inv.isNone || c.wait.isSome then none
  else match h.fetch with
    | (w, 4, none) => if nmdKind w = k then some (h, w) else none
    | _ => none
/-- The invocation has run as long as its watchdog allows (R151). -/
def State.watchdog (s : State) (n : Nat) : Bool :=
  match (s.core n).inv with
  | some v => decide (max 1 (s.rn (Reg.NMD_WDOG n)) * 1024 ≤ v.cycles)
  | none => false
/-- Executes an instruction of a kind, unless the watchdog ends the invocation. -/
def State.onKind (s : State) (n : Nat) (k : NmdKind) (f : Hart → Nat → State) : State :=
  match s.hartAt n k with
  | some (h, w) => if s.watchdog n then s.coreFault n 25 (s.core n).pc.toNat else f h w
  | none => s
/-- What an instruction comes to: it retires, or the core faults. -/
def Rv.settle : Rv → State
  | .next h pc => h.s.retireTo h.n pc h.c
  | .trap cause addr h => h.s.coreFault h.n cause addr
/-- An instruction writes a register and retires. -/
def Hart.finish (h : Hart) (rd : Nat) (v : Dword) : State := h.s.retireTo h.n (h.c.pc + 4) (h.c.setX rd v)
def Hart.fault (h : Hart) (cause : Nat) : State := h.s.coreFault h.n cause h.c.pc.toNat
/-- The core waits (NMD_STATUS WAIT). -/
def Hart.await (h : Hart) (w : CoreWait) : State :=
  (h.s.setCore h.n { h.c with wait := some w }).nmdState h.n 5
def rdOf (w : Nat) : Nat := bitsAt w 7 5
def rs1Of (w : Nat) : Nat := bitsAt w 15 5
def rs2Of (w : Nat) : Nat := bitsAt w 20 5

/-- NMD_RV64_INSTRUCTION (R139 to R142): any other instruction, and what cannot be fetched. -/
def doRv64 (n : Nat) (s : State) : State :=
  let c := s.core n
  let h : Hart := ⟨s, n, c⟩
  if c.inv.isNone || c.wait.isSome then s
  else if s.watchdog n then s.coreFault n 25 c.pc.toNat
  else match h.fetch with
    | (_, _, some cause) => h.fault cause
    | (w, 2, none) => (match expandC w with
        | some x => h.scalar Hart.vector x 2
        | none => h.illegal w).settle
    | (w, _, none) => if nmdKind w = .rv then (h.scalar Hart.vector w 4).settle else s
def execNmdRv64Instruction (n : Fin 384) (s : State) : Host.Outcome State Fault Refusal := .next (s.live (doRv64 n))

/-- NMD_ECALL (R144): 0 ends the share OK, 7 EMPTY; another value faults BAD_END. -/
def doEcall (h : Hart) (_ : Nat) : State :=
  let a0 := h.x 10
  if a0 = 0 ∨ a0 = 7 then (h.finish 0 0).shareEnded h.n h.inv (a0 == 7)
  else h.s.coreFault h.n 24 a0
def execNmdEcall (n : Fin 384) (s : State) : Host.Outcome State Fault Refusal :=
  .next (s.live (fun t => t.onKind n .ecall doEcall))

/-- NMD_TWAIT (R145, R146): it goes by the count delivered to the core's cluster. -/
def doTwait (h : Hart) (w : Nat) : State :=
  let a := h.x (rs1Of w)
  let p := a % 4
  let frame := bitAt a 2
  let c := h.s.delivered h.cl p frame
  let k := h.x (rs2Of w)
  if (h.s.plane p).isNone then h.fault 26
  else if k = 0 then h.await (.tick p frame (c + 1) (rdOf w))
  else if k ≤ c then h.finish (rdOf w) (BitVec.ofNat 64 c)
  else h.await (.tick p frame k (rdOf w))
def execNmdTwait (n : Fin 384) (s : State) : Host.Outcome State Fault Refusal :=
  .next (s.live (fun t => t.onKind n .twait doTwait))

/-- NMD_BAR (R145, R146): arrives, and waits unless rs2[0] is set. -/
def doBar (h : Hart) (w : Nat) : State :=
  let i := h.x (rs1Of w)
  let b := h.inv.barBase + i
  if h.inv.barCount ≤ i then h.fault 27
  else if bitAt (h.x (rs2Of w)) 0 then
    let s1 := h.s.arriveBar h.cl b
    s1.retireTo h.n (h.c.pc + 4) (h.c.setX (rdOf w) (BitVec.ofNat 64 (s1.bar h.cl b).gen))
  else (h.await (.barrier b (h.s.bar h.cl b).gen (rdOf w))).arriveBar h.cl b
def execNmdBar (n : Fin 384) (s : State) : Host.Outcome State Fault Refusal :=
  .next (s.live (fun t => t.onKind n .bar doBar))

/-- NMD_QPUSH (R145, R146); an entry of the queue bound to the Caravan engine is a transfer request (R181). -/
def doQpush (h : Hart) (w : Nat) : State :=
  let i := h.x (rs1Of w)
  let q := h.inv.qBase + i
  let v := h.c.xr (rs2Of w)
  let l := h.s.queueOf h.cl q
  if h.inv.qCount ≤ i ∨ v = 0xFFFFFFFFFFFFFFFF#64 then h.fault 28
  else if h.inv.carQ = some q then
    let fn := match h.s.sidOf h.inv.handle with
      | some k => (h.s.strm k).fn
      | none => 0
    drainQueue h.cl (h.inv.owner fn) (h.finish (rdOf w) 0) [v]
  else if l.length < 64 then serveQueue h.cl q 8 ((h.finish (rdOf w) 0).setQueue h.cl q (l ++ [v]))
  else if bitAt w 25 then h.finish (rdOf w) 1
  else h.await (.push q v (rdOf w))
def execNmdQpush (n : Fin 384) (s : State) : Host.Outcome State Fault Refusal :=
  .next (s.live (fun t => t.onKind n .qpush doQpush))

/-- NMD_QPOP (R145, R146). -/
def doQpop (h : Hart) (w : Nat) : State :=
  let i := h.x (rs1Of w)
  let q := h.inv.qBase + i
  if h.inv.qCount ≤ i then h.fault 28
  else match h.s.queueOf h.cl q with
    | v :: t => serveQueue h.cl q 8 ((h.finish (rdOf w) v).setQueue h.cl q t)
    | [] => if bitAt w 25 then h.finish (rdOf w) 0xFFFFFFFFFFFFFFFF#64 else h.await (.pop q (rdOf w))
def execNmdQpop (n : Fin 384) (s : State) : Host.Outcome State Fault Refusal :=
  .next (s.live (fun t => t.onKind n .qpop doQpop))

def W4.words (x : W4) : List Word := [x.w0, x.w1, x.w2, x.w3]
/-- NMD_DRAW (R147): the words of the last evaluation are used again where key, counter and draw position are its. -/
def doDraw (h : Hart) (w : Nat) : State :=
  let v := h.inv
  let e := h.x (rs1Of w)
  let key := (driftKey v.seed v.drift).words ++ (driftCtr e v.tensor v.drawPos).words
  let same : Bool := h.c.lastKey == key
  let out := if same then h.c.lastOut else ((⟨v.seed, v.drift, v.tensor, v.drawPos⟩ : DrawCtx).eval e).words
  let s1 := if same then h.s else h.s.countEvals h.cl 1
  let c : Core := { h.c with
    lastKey := key
    lastOut := out }
  s1.retireTo h.n (h.c.pc + 4) (c.setX (rdOf w) (((out[h.x (rs2Of w) % 4]?).getD 0).setWidth 64))
def execNmdDraw (n : Fin 384) (s : State) : Host.Outcome State Fault Refusal :=
  .next (s.live (fun t => t.onKind n .draw doDraw))

/-- NMD_MARK (R145): the value and the timebase. -/
def doMark (h : Hart) (w : Nat) : State :=
  let s1 := h.finish 0 0
  (s1.setN (Reg.NMD_MARK h.n) (h.x (rs1Of w))).setPair (Reg.NMD_MARK_TB_LO h.n) s1.tb.toNat
def execNmdMark (n : Fin 384) (s : State) : Host.Outcome State Fault Refusal :=
  .next (s.live (fun t => t.onKind n .mark doMark))

/-- The internal rounding mode of the core's reductions: toward zero under frm 1, else to nearest even (DEDUCED, log 28). -/
def Hart.redMode (h : Hart) : RMode := if h.c.frm = 1 then .rtz else .rne
/-- An instruction leaves a new accumulator, or breaks the order of R148. -/
def Hart.reduced (h : Hart) : Option RedAcc → State
  | some r => h.s.retireTo h.n (h.c.pc + 4) { h.c with red := r }
  | none => h.fault 29
/-- NMD_RBEGIN (R145); after a LAST node only REND is allowed (R148). The operations 5 to 7, which Table 07-3 does not name, are a free value (log 4). -/
def doRbegin (h : Hart) (w : Nat) : State :=
  let op := h.x (rs1Of w) % 8
  let (z, s1) := h.s.free
  if h.c.red.lastFed then h.fault 29
  else if op ≤ 4 then h.reduced (some { op := op })
  else ({ h with s := s1 } : Hart).reduced (some { op := z.toNat % 5 })
def execNmdRbegin (n : Fin 384) (s : State) : Host.Outcome State Fault Refusal :=
  .next (s.live (fun t => t.onKind n .rbegin doRbegin))
/-- The first vl FP32 elements of a register group. -/
def Hart.floats (h : Hart) (r : Nat) : List Word := (List.range h.c.vl).map (fun i => BitVec.ofNat 32 (h.c.elem 32 r i))
/-- NMD_RFEED (R148). -/
def doRfeed (h : Hart) (w : Nat) : State :=
  h.reduced (h.c.red.rfeed h.redMode (h.x (rs1Of w)) (h.floats (rdOf w)) (h.floats (rs2Of w)))
def execNmdRfeed (n : Fin 384) (s : State) : Host.Outcome State Fault Refusal :=
  .next (s.live (fun t => t.onKind n .rfeed doRfeed))
/-- NMD_RNODE (R148). -/
def doRnode (h : Hart) (w : Nat) : State :=
  h.reduced (h.c.red.rnode h.redMode (h.x (rs1Of w)) (bitsAt w 25 5) (bitAt w 30)
    (BitVec.ofNat 32 (unboxed 32 (h.f (rs2Of w)))))
def execNmdRnode (n : Fin 384) (s : State) : Host.Outcome State Fault Refusal :=
  .next (s.live (fun t => t.onKind n .rnode doRnode))
/-- NMD_REND (R148): the result, and a clear accumulator. -/
def doRend (h : Hart) (w : Nat) : State :=
  let h1 := h.setF (rdOf w) (boxed 32 (h.c.red.rend h.redMode).toNat)
  h1.reduced (some {})
def execNmdRend (n : Fin 384) (s : State) : Host.Outcome State Fault Refusal :=
  .next (s.live (fun t => t.onKind n .rend doRend))

/-! The watchdog, saved invocations and the counters. -/

/-- NMD_WATCHDOG (R151): an invocation that has run its limit faults. -/
def execNmdWatchdog (n : Fin 384) (s : State) : Host.Outcome State Fault Refusal :=
  .next (s.live (fun t => t.coreFault n 25 (t.core n).pc.toNat))

/-- What a resumed core waited for may have come meanwhile. -/
def State.recheck (s : State) (n : Nat) : State :=
  match (s.core n).wait with
  | none => s.nmdState n 1
  | some (.tick p frame k rd) =>
    if k ≤ s.delivered (n / 4) p frame then s.releaseCore n rd (BitVec.ofNat 64 k) else s.nmdState n 5
  | some (.barrier b g rd) =>
    if (s.bar (n / 4) b).gen ≠ g then s.releaseCore n rd (BitVec.ofNat 64 g) else s.nmdState n 5
  | some (.push q _ _) => serveQueue (n / 4) q 8 (s.nmdState n 5)
  | some (.pop q _) => serveQueue (n / 4) q 8 (s.nmdState n 5)
/-- NMD_RESUME (R150): a saved invocation goes on at a free core of its cluster, unless its stream holds it back or
grain-bound work wants the core (R38); its item starts again if it comes first (R355). -/
def doNmdResume (n : Fin 384) (id : Nat) (s0 : State) : State :=
  match s0.savedCores.find? (fun x => x.1 == id && x.2.1 == n.val / 4) with
  | none => s0
  | some (_, _, c) =>
    let strm := c.inv.bind (fun v => s0.sidOf v.handle)
    let s := match strm with | some h => s0.restartItem h | none => s0
    let held : Bool := match strm with | some h => s.heldBack h | none => false
    let v := c.inv.getD {}
    let behind : Bool := !(v.ticked && !v.frame) && s.coreWanted (n / 4)
    if (s.core n).inv.isSome || held || behind then s0
    else
      let s1 : State := { s with savedCores := s.savedCores.filter (fun x => x.1 != id) }
      let st := 16 * b2n v.ticked + 32 * b2n v.frame + 64 * v.plane
      let s2 := ((s1.giveCore n c).setN (Reg.NMD_STATUS n) st).setN (Reg.NMD_KERNEL n) (v.graph * 2 ^ 16 + v.kernel)
      let s3 := s2.recheck n
      match s3.sidOf v.handle with | some h => s3.unyield h | none => s3
def execNmdResume (n : Fin 384) (id : Nat) (s : State) : Host.Outcome State Fault Refusal :=
  .next (s.live (doNmdResume n id))

/-- The counters of a core (0x010 to 0x028). -/
def nmdCounters (n : Nat) : List Nat := wordsFrom (Reg.NMD_BUSY_LO n) (Reg.NMD_FAULTS n)
/-- NMD_CNT_CLR (R153). -/
def execNmdCntClr (n : Fin 384) (v : Word) (s : State) : Host.Outcome State Fault Refusal :=
  .next (s.live (fun t => t.cntClr v (nmdCounters n)))

end Sys2Proof.Machine
end

