-- ==== Sys2Proof/Machine/CmdErrors.lean ====
section
/-!
DEFINITION. Meanings of the error commands (chapter 21): reports, windows, records and the error ring.
-/

namespace Sys2Proof.Machine

/-- The commands that may have read an entry of a hardware table, by ring: those whose turn it is, and those placed. -/
def State.turnCmds (s : State) : List Fetched := s.host.fetched.filter (fun x => !x.started && s.mayStart x.fn x.sq x.desc)
def PendAdmit.ofCommand (p : PendAdmit) : Bool := match p.src with | .command _ _ _ => true | _ => false
/-- The i-th command or step that may have read the entry completes FAULTED (Table 21-1, TABLE_PARITY). -/
def State.endReader (s : State) (i : Nat) : State :=
  let cmds := s.turnCmds
  let reqs := s.place.pend.filter PendAdmit.ofCommand
  match cmds[i]?, reqs[i - cmds.length]?, (s.streams.filter (fun e => e.2.step.isSome))[i - cmds.length - reqs.length]? with
  | some x, _, _ => (s.startCmd x.fn x.sq x.desc).endCmd x.fn x.sq x.desc 6 0
  | none, some p, _ => (endPends 6 (fun y => y == p) s [p]).settle
  | none, none, some e => s.fail e.1 6
  | none, none, none => s
/-- How many commands and steps may have read the entry. -/
def State.readers (s : State) : Nat :=
  s.turnCmds.length + (s.place.pend.filter PendAdmit.ofCommand).length + (s.streams.filter (fun e => e.2.step.isSome)).length
/-- A parity error in a hardware table. Which command or step read the entry, or that none in progress did, no operand
says: a free value (log 4). -/
def State.tableParity (s : State) : State :=
  let (z, s1) := s.free
  s1.endReader (z.toNat % (s1.readers + 1))
/-- ERROR_REPORT (R448, R452). -/
def doErrorReport (cls code : Nat) (loc : Word) (skind suspect : Nat) (s : State) : State :=
  let t := s.report cls code loc.toNat skind suspect
  if cls = 7 ∧ code = 1 then t.tableParity else t
def execErrorReport (cls code : Nat) (loc : Word) (skind suspect : Nat) (s : State) : Host.Outcome State Fault Refusal :=
  .next (s.live (doErrorReport cls code loc skind suspect))

/-- The first element that satisfies a test, and the list without it. -/
def takeFirst {α : Type} (p : α → Bool) : List α → Option (α × List α)
  | [] => none
  | x :: t => if p x then some (x, t) else (takeFirst p t).map (fun r => (r.1, x :: r.2))
/-- REGION_WINDOW_CLOSE: the region's oldest window that has run 1,000 ns forwards its merged report (R452). -/
def doRegionWindowClose (region : Nat) (s : State) : State :=
  match takeFirst (fun w : ErrWin => w.region == region && decide (w.tb + 1000 ≤ s.tb.toNat)) s.errs.regionWins with
  | none => s
  | some (w, rest) => ({ s with errs := { s.errs with regionWins := rest } }).toPackage w
def execRegionWindowClose (region : Nat) (s : State) : Host.Outcome State Fault Refusal :=
  .next (s.live (doRegionWindowClose region))

/-! Records. -/

/-- Open records: HEAD minus TAIL modulo 2^32 (R455). -/
def State.errOpen (s : State) : Nat := (s.reg Reg.ERR_HEAD - s.reg Reg.ERR_TAIL).toNat
/-- The place of the record with the sequence number ERR_HEAD. -/
def State.errSlot (s : State) (base : Nat) : Nat := s.pair base + s.rn Reg.ERR_HEAD % 1024 * 32
/-- The largest SEQ, counted from ERR_TAIL, among the open records of a location (R454). -/
def State.nestedOf (s : State) (loc : Nat) : Option Nat :=
  (s.errs.openRecs.filter (fun r => r.2 == loc)).foldl (fun (m : Option Nat) r => match m with
    | none => some r.1
    | some x => if (x + 2 ^ 32 - s.rn Reg.ERR_TAIL) % 2 ^ 32 < (r.1 + 2 ^ 32 - s.rn Reg.ERR_TAIL) % 2 ^ 32
        then some r.1 else some x) none
/-- The 32 bytes of an error record (Table 21-2). -/
def errRecord (w : ErrWin) (seq : Nat) (nested : Option Nat) : List Byte :=
  leBytes 8 w.tb ++ leBytes 4 seq ++ leBytes 4 (nested.getD 0) ++ leBytes 4 w.loc ++ leBytes 1 w.code ++
  leBytes 1 (w.cls % 16 * 16 + b2n nested.isSome * 8 + b2n w.snap * 4 + b2n (decide (65535 < w.count)) * 2) ++
  leBytes 2 (min w.count 65535) ++ leBytes 8 (w.skind * 2 ^ 60 + w.suspect)
/-- A dropped record counts and takes no SEQ (R456). -/
def State.dropRecord (s : State) : State := ((s.bump64 Reg.ERR_OVERFLOW_LO 1).raise Reg.ERR_INT_STATUS 1).mgtEvent 3
/-- The mirror write of a record (R457): a failed one stops mirroring. -/
def State.mirrorRecord (s : State) (rec : List Byte) : State :=
  if !s.rbit Reg.ERR_CFG 1 || s.errs.mirrorStopped then s
  else
    let a := hostWindow + s.errSlot Reg.ERR_MIRROR_LO
    if s.hostOk a 32 then s.setBytes a rec
    else ({ s with errs := { s.errs with mirrorStopped := true } }).raise Reg.ERR_INT_STATUS 2
/-- Forms the record of a package window: the counters, then the ring, the mirror and the interrupt (R453 to R458). -/
def State.formRecord (s : State) (w : ErrWin) : State :=
  let c := w.cls % 16
  let s1 := (s.bump64 (Reg.ERR_EVTc_LO c) 1).bump64 (Reg.ERR_REPc_LO c) w.count
  let a := s1.errSlot Reg.ERR_BASE_LO
  let inDram := match placeOf a with
    | .dram _ => inOnePlace a 32
    | _ => false
  if !s1.rbit Reg.ERR_CFG 0 || s1.errOpen = 1024 || !inDram then s1.dropRecord
  else
    let seq := s1.rn Reg.ERR_HEAD
    let bytes := errRecord w seq (s1.nestedOf w.loc)
    let s2 := (s1.writeData (s1.oasLoc 24 0) a bytes).mirrorRecord bytes
    let s3 : State := { s2 with errs := { s2.errs with openRecs := s2.errs.openRecs ++ [(seq, w.loc)] } }
    let s4 := s3.setN Reg.ERR_HEAD (seq + 1)
    if s4.rbit Reg.ERR_CLASS_INT c then s4.raiseModerated Reg.ERR_INT_STATUS 0 2 (max 1 (s4.fld Reg.ERR_MOD 0 16)) else s4
/-- PACKAGE_WINDOW_CLOSE: the window of the earliest instant closes 2,500 ns after it (R452). -/
def doPackageWindowClose (s : State) : State :=
  match s.errs.packageWins with
  | w :: rest =>
    if w.tb + 2500 ≤ s.tb.toNat then ({ s with errs := { s.errs with packageWins := rest } }).formRecord w else s
  | [] => s
def execPackageWindowClose (s : State) : Host.Outcome State Fault Refusal := .next (s.live doPackageWindowClose)

/-- ERR_TAIL_WRITE (R455): any SEQ from ERR_TAIL to ERR_HEAD; the records before it are no longer open. -/
def doErrTailWrite (v : Word) (s : State) : State :=
  if s.errOpen < (v - s.reg Reg.ERR_TAIL).toNat then s
  else
    let n := (s.reg Reg.ERR_HEAD - v).toNat
    let s1 := s.setReg Reg.ERR_TAIL v
    { s1 with errs := { s1.errs with
      openRecs := s1.errs.openRecs.filter (fun r => decide ((BitVec.ofNat 32 r.1 - v).toNat < n)) } }
def execErrTailWrite (v : Word) (s : State) : Host.Outcome State Fault Refusal := .next (s.live (doErrTailWrite v))
/-- ERR_MOD_INTERVAL_END (R458). -/
def execErrModIntervalEnd (s : State) : Host.Outcome State Fault Refusal :=
  .next (s.live (fun t => t.endInterval Reg.ERR_INT_STATUS 0 2))

end Sys2Proof.Machine
end

