-- ==== Sys2Proof/Machine/CmdHost.lean ====
section
/-!
DEFINITION. Meanings of the host link commands (chapter 17): doorbells, command fetch, NOP, interrupts, link
events and the management sideband.
-/

namespace Sys2Proof.Machine

/-! Doorbells (R378, R380, Table 17-7). -/

/-- A doorbell that is ignored sets DB_ERR. -/
def State.dbErr (s : State) (f : Nat) : State := s.setBit (Reg.HQ_FN_INT f) 1 true
/-- SQ_DOORBELL: the new tail of a submission ring. -/
def doSqDoorbell (f q : Fin 64) (v : Word) (s : State) : State :=
  let t := bitsAt v.toNat 0 16
  if !s.sqRuns f q || decide (2 ^ s.sqLog f q ≤ t) then (s.setBit (Reg.HQ_SQq_STATUS f q) 18 true).dbErr f
  else s.setSqTail f q t
def execSqDoorbell (fn q : Fin 64) (v : Word) (s : State) : Host.Outcome State Fault Refusal :=
  .next (s.live (doSqDoorbell fn q v))
/-- CQ_DOORBELL: the new head of a completion ring; waiting entries go out. -/
def doCqDoorbell (f q : Fin 64) (v : Word) (s : State) : State :=
  if !s.cqRuns f q then s.dbErr f
  else
    let s1 := s.setCqState f q { s.cqState f q with head := bitsAt v.toNat 0 16 % s.cqSize f q }
    (s1.setBit (Reg.HQ_CQq_STATUS f q) 17 (s1.cqFull f q)).drainCq f q
def execCqDoorbell (fn q : Fin 64) (v : Word) (s : State) : Host.Outcome State Fault Refusal :=
  .next (s.live (doCqDoorbell fn q v))

/-! Fetching (R378, R379). -/

/-- A ring that the part may fetch from: it runs, holds an entry, and its completion ring has room (R380). -/
def State.fetchable (s : State) (f q : Nat) : Bool :=
  s.rbit (Reg.HQ_SQq_CFG f q) 5 && s.sqRuns f q && s.fld (Reg.HQ_SQq_STATUS f q) 0 16 != s.sqTail f q &&
  s.cqRuns f (s.sqCq f q) && !s.cqFull f (s.sqCq f q)
/-- The numbers from `k` on, cyclically below 64. -/
def cyclic64 (k : Nat) : List Nat := (List.range 64).map (fun i => (k + i) % 64)
/-- The ring of a function whose turn it is. -/
def State.nextRing (s : State) (f : Nat) : Option Nat :=
  (cyclic64 (AMap.read (fun _ => 0) s.host.turnSq f)).find? (fun q => s.fetchable f q)
/-- WEIGHT of a function as it acts (R373). -/
def State.fnWeight (s : State) (f : Nat) : Nat := max 1 (s.fld (Reg.HQ_FNf_LIMIT f) 4 4)
/-- The function and ring that the weighted round robin takes next. -/
def State.nextTurn (s : State) : Option (Nat × Nat) :=
  let k := if s.host.turnUsed < s.fnWeight s.host.turnFn then s.host.turnFn else s.host.turnFn + 1
  (cyclic64 k).findSome? (fun f => (s.nextRing f).map (fun q => (f, q)))
/-- Bytes of a submission entry. -/
def State.sqBytes (s : State) (f q : Nat) : Nat := if s.fmt1 f q then 32 else 64
/-- COMMAND_FETCH: reads the entry at the head of the ring whose turn it is. -/
def doCommandFetch (s : State) : State :=
  match s.nextTurn with
  | none => s
  | some (f, q) =>
    let hd := s.fld (Reg.HQ_SQq_STATUS f q) 0 16
    let a := hostWindow + s.pair (Reg.HQ_SQq_BASE_LO f q) + hd * s.sqBytes f q
    let used := if f = s.host.turnFn then s.host.turnUsed + 1 else 1
    let used' := if f = s.host.turnFn ∧ s.fnWeight f ≤ s.host.turnUsed then 1 else used
    let h := s.host
    let s1 : State := { s with host := { h with
      turnFn := f
      turnUsed := used'
      turnSq := AMap.write (fun _ => 0) h.turnSq f ((q + 1) % 64) } }
    if !s1.hostOk a (s1.sqBytes f q) then s1.sqError f q
    else
      let d : Fetched := { fn := f, sq := q, desc := BitVec.ofNat 512 (s1.num a (s1.sqBytes f q)) }
      let s2 := s1.setFld (Reg.HQ_SQq_STATUS f q) 0 16 ((hd + 1) % 2 ^ s1.sqLog f q)
      { s2 with host := { s2.host with fetched := s2.host.fetched ++ [d] } }
def execCommandFetch (s : State) : Host.Outcome State Fault Refusal := .next (s.live doCommandFetch)

/-- NOP (Table 17-4). -/
def execNop (fn sq : Fin 64) (desc : BitVec 512) (s : State) : Host.Outcome State Fault Refusal :=
  .next (s.live (fun t => t.command 0x00 fn sq desc (fun u => u.endCmd fn sq desc 0 0)))

/-- CQ_INTERRUPT_TIMER (R381): TIME has passed since the first entry not yet signalled. -/
def doCqInterruptTimer (f q : Fin 64) (s : State) : State :=
  let c := s.cqState f q
  if s.cqRuns f q && c.unsignalled != 0 then
    ((s.reach (c.firstTb + 1000 * s.fld (Reg.HQ_CQq_MOD f q) 16 16)).setCqState f q { c with unsignalled := 0 }).raiseFnVector f
      (s.fld (Reg.HQ_CQq_CFG f q) 5 11)
  else s
def execCqInterruptTimer (fn q : Fin 64) (s : State) : Host.Outcome State Fault Refusal :=
  .next (s.live (doCqInterruptTimer fn q))

/-- The counters of function f, and those of every function (R390). -/
def hqCounterOf (f a : Nat) : Bool :=
  a == Reg.HQ_FNf_CMDS f || a == Reg.HQ_FNf_REJ f || a == Reg.HQ_FNf_OUT_DROP f ||
  (decide (Reg.HQ_CQq_EVT_DROP f 0 ≤ a) && decide (a ≤ Reg.HQ_CQq_EVT_DROP f 63) &&
    (a - Reg.HQ_CQq_EVT_DROP f 0) % 0x40 == 0)
def isHqCounter (a : Nat) : Bool := (List.range 64).any (fun f => hqCounterOf f a)
/-- Forgets the registers a test names: they read as after reset. -/
def State.resetRegs (s : State) (p : Nat → Bool) : State := { s with regs := s.regs.filter (fun e => !p e.1) }
/-- HQ_CNT_CLR (R390). -/
def doHqCntClr (v : Word) (s : State) : State := if bitAt v.toNat 0 then s.resetRegs isHqCounter else s
def execHqCntClr (v : Word) (s : State) : Host.Outcome State Fault Refusal := .next (s.live (doHqCntClr v))

/-! The link (R371, R374). -/

/-- The rate code of HQ_LINK for a rate in GT/s; none below 8 GT/s. -/
def linkCode : Nat → Option Nat
  | 8 => some 3 | 16 => some 4 | 32 => some 5 | 64 => some 6 | 128 => some 7 | _ => none
/-- LINK_TRAINING_COMPLETE: rate in GT/s and width. Below 8 GT/s the link is SLOW and the rate code is open. -/
def doLinkTrainingComplete (rate width : Nat) (s : State) : State :=
  let (x, s0) := match linkCode rate with
    | some c => (c, s)
    | none => let (v, t) := s.free; (v.toNat % 16, t)
  let s1 := ((s0.setFld Reg.HQ_LINK 0 4 x).setFld Reg.HQ_LINK 4 4 width).setBit Reg.HQ_LINK 8 (linkCode rate).isNone
  (s1.raise Reg.HQ_INT_STATUS 1).mgtEvent 2
def execLinkTrainingComplete (rate width : Nat) (s : State) : Host.Outcome State Fault Refusal :=
  .next (s.live (doLinkTrainingComplete rate width))
/-- The link is SLOW: memory requests to the BARs complete with Unsupported Request (R371). -/
def State.slowLink (s : State) : Bool := s.rbit Reg.HQ_LINK 8
/-- A request that is answered with Unsupported Request or Completer Abort. -/
def State.abort (s : State) : State := { s with resp := { bytes := [], abort := true } }
/-- ATS_INVALIDATION: the translation of a page is forgotten (R374). -/
def doAtsInvalidation (f : Fin 64) (page : Nat) (s : State) : State :=
  { s with ats := s.ats.filter (fun x => !(x.1 == f.val && x.2 == page)) }
def execAtsInvalidation (fn : Fin 64) (page : Nat) (s : State) : Host.Outcome State Fault Refusal :=
  .next (s.live (doAtsInvalidation fn page))

/-! The management sideband (R389). Its replies carry the items of Table 17-8 in order (DESIGN CHOICE, log 21). -/

/-- MCTP_SET_ENDPOINT_ID. -/
def doMctpSetEndpointId (eid : Byte) (s : State) : State := ({ s with endpoint := eid }).answer [0, 0, eid, 0]
def execMctpSetEndpointId (eid : Byte) (s : State) : Host.Outcome State Fault Refusal :=
  .next (s.live (doMctpSetEndpointId eid))
/-- MCTP_GET_ENDPOINT_ID. -/
def execMctpGetEndpointId (s : State) : Host.Outcome State Fault Refusal :=
  .next (s.live (fun t => t.answer [0, t.endpoint, 0, 0]))
/-- MCTP_GET_VERSION_SUPPORT: one entry, whose version number the spec does not state. -/
def doMctpGetVersionSupport (s : State) : State :=
  let (v, s1) := s.free
  s1.answer ([0, 1] ++ leBytes 4 v.toNat)
def execMctpGetVersionSupport (s : State) : Host.Outcome State Fault Refusal :=
  .next (s.live doMctpGetVersionSupport)
/-- MCTP_GET_MESSAGE_TYPE_SUPPORT: MCTP control and vendor-defined PCI messages. -/
def execMctpGetMessageTypeSupport (s : State) : Host.Outcome State Fault Refusal :=
  .next (s.live (fun t => t.answer [0, 2, 0x00, 0x7E]))

/-- Low `n` bytes of each register of a list, in order. -/
def State.regBytes (s : State) (n : Nat) (l : List Nat) : List Byte := l.flatMap (fun a => leBytes n (s.rn a))
/-- TELEMETRY_PART_ID: part ID, stepping, device ID and membership count. -/
def execTelemetryPartId (s : State) : Host.Outcome State Fault Refusal :=
  .next (s.live (fun t => t.answer
    (t.regBytes 4 [Reg.OAS_PART_ID, Reg.OAS_STEP] ++ leBytes 2 t.deviceId ++ leBytes 2 t.fab.members.length)))
/-- TELEMETRY_TEMPERATURES: the dies, the Oasis die and the stacks, in degrees C. -/
def execTelemetryTemperatures (s : State) : Host.Outcome State Fault Refusal :=
  .next (s.live (fun t => t.answer
    (t.regBytes 1 ((List.range 4).map Reg.OAS_DIEd_TEMP ++ [Reg.OAS_OASIS_TEMP] ++ (List.range 4).map Reg.DMEM_TEMP))))
/-- TELEMETRY_POWER: the averages over 1 ms and 1 s in 0.1 W, the cap and the power state. -/
def execTelemetryPower (s : State) : Host.Outcome State Fault Refusal :=
  .next (s.live (fun t => t.answer (t.regBytes 4 [Reg.PWR_NOW, Reg.PWR_AVG1S, Reg.PWR_CAP, Reg.PWR_STATUS])))
/-- TELEMETRY_LINKS: rate, width and IDE state, and the states of the fabric ports. -/
def execTelemetryLinks (s : State) : Host.Outcome State Fault Refusal :=
  .next (s.live (fun t => t.answer
    (t.regBytes 4 [Reg.HQ_LINK] ++ (List.range 16).flatMap (fun n => leBytes 1 (t.fld (Reg.ERG_Pn_STATUS n) 0 3)))))
/-- TELEMETRY_ERROR_COUNTERS: the event counter of each class. -/
def execTelemetryErrorCounters (s : State) : Host.Outcome State Fault Refusal :=
  .next (s.live (fun t => t.answer
    ((List.range 16).flatMap (fun c => leBytes 8 (t.pair (Reg.ERR_EVTc_LO c))))))
/-- TELEMETRY_EVENTS_READ_CLEAR: reads and clears HQ_MGT_EVENTS, which releases ALERT_N. -/
def doTelemetryEventsReadClear (s : State) : State :=
  let s1 := (s.setReg Reg.HQ_MGT_EVENTS 0).answer (s.regBytes 4 [Reg.HQ_MGT_EVENTS])
  { s1 with pins := { s1.pins with alert := false } }
def execTelemetryEventsReadClear (s : State) : Host.Outcome State Fault Refusal :=
  .next (s.live doTelemetryEventsReadClear)

end Sys2Proof.Machine
end

