-- ==== Sys2Proof/Machine/CmdListen.lean ====
section
/-!
DEFINITION. Meanings of the listening commands (chapter 14): host input rings, Ripple's frames, Crest requests and their
outcomes, groups and enrolment, microphone arrays and ATTEND blocks.
-/

namespace Sys2Proof.Machine

/-! Groups and channels. -/

def Channel.group (c : Channel) : Nat := bitsAt c.cfg.toNat 0 6
def State.groupFn (s : State) (g : Nat) : Nat := s.fld (Reg.RPL_Gg_CFG g) 16 6
def State.groupOn (s : State) (g : Nat) : Bool := s.rbit (Reg.RPL_Gg_CFG g) 22
/-- PREROLL as it acts (Table 14-14). -/
def State.preroll (s : State) (g : Nat) : Nat :=
  max 1 (min (if s.rbit (Reg.RPL_Gg_CFG g) 23 then 400 else 100) (s.fld (Reg.RPL_Gg_TIMING g) 0 9))
/-- The matcher and onset state cleared. -/
def Channel.cleared (c : Channel) : Channel := { c with paths := [], beat := [], floor := 0, run := 0, frames := 0 }
/-- The channel record cleared, with an empty pre-roll ring and no samples waiting (R311, R316). -/
def Channel.fresh (c : Channel) : Channel :=
  { c.cleared with model := [], ring := [], xp := 0, inbuf := [], ends := [], readCount := 0 }
/-- A return to RIPPLE starts a hold-off (R320). -/
def State.toRipple (s : State) (ch : Nat) : State :=
  let c := s.chan ch
  s.setChan ch { c.cleared with st := .ripple, hold := s.fld (Reg.RPL_Gg_TIMING c.group) 16 8, crest := none }
/-- A partial match is held (R318). -/
def Channel.partial_ (c : Channel) : Bool := c.paths.any (fun p => partialMatch p.2)
/-- A channel has a source and an enabled group: it listens. -/
def State.mayListen (s : State) (ch : Nat) : Bool :=
  let c := s.chan ch
  s.groupOn c.group &&
  (if ch < 16384 then c.kind == 1 || c.kind == 2
   else let a := s.arr (ch - 16384); a.mode != 0 && a.clkRun && c.discard == 0)

/-! Events (R329, Table 14-10). -/

/-- What an event record says besides its channel. -/
structure CascEvent where
  type : Nat
  flag : Bool := false
  degraded : Bool := false
  phrase : Nat := 0
  lang : Nat := 0
  conf : Nat := 0
  end_ : Dword := 0
  req : Dword := 0
  deriving DecidableEq, Repr
/-- The 32 bytes of an event record of a channel and a group. -/
def State.eventBytes (s : State) (ch g : Nat) (e : CascEvent) : List Byte :=
  leBytes 8 s.tb.toNat ++ leBytes 4 (s.groupFn g * 2 ^ 21 + g % 64 * 2 ^ 15 + ch % 2 ^ 15)
    ++ leBytes 1 e.type ++ leBytes 1 (b2n e.degraded * 32 + b2n e.flag * 16 + e.phrase % 16) ++ leBytes 1 e.lang
    ++ leBytes 1 e.conf ++ leBytes 8 e.end_.toNat ++ leBytes 8 e.req.toNat
def State.cascEvent (s : State) (ch g : Nat) (e : CascEvent) : State := s.ringPut .cascade (s.eventBytes ch g e)
def State.rplCount (s : State) (a : Nat) : State := s.count a 1 Reg.RPL_INT_STATUS 2

/-! Crest (R324, R325). -/

def unreserveAll (s : State) : List PendAdmit → State
  | [] => s
  | p :: t => unreserveAll (s.unreserve p) t
/-- A Crest instance, placed or waiting, is closed. -/
def State.closeCrest (s : State) (ch : Nat) : State :=
  let mine := s.place.pend.filter (fun p => p.src == AdmitSrc.crest ch)
  let run := s.place.crests.filter (fun c => c.channel == ch)
  let s2 := run.foldl (fun (t : State) c => match t.graphOf c.graph with
    | some g => t.setN (Reg.TBG_RES c.cluster (budgetOf g)) (t.rn (Reg.TBG_RES c.cluster (budgetOf g)) - c.cycles)
    | none => t) (unreserveAll s mine)
  let s3 : State := { s2 with place := { s2.place with
      pend := s2.place.pend.filter (fun p => p.src != AdmitSrc.crest ch)
      crests := s2.place.crests.filter (fun c => c.channel != ch) } }
  (run.foldl (fun (t : State) c => t.dropWeights c.cluster) s3).afterGone
/-- A request ends with an outcome (Table 14-7): 1 CONFIRM, 2 REJECT, 3 TIMEOUT, 4 NO_ROOM, 5 ABANDONED. -/
def State.crestEnd (s : State) (ch type phrase lang conf : Nat) : State :=
  let c := s.chan ch
  match c.crest with
  | none => s
  | some r =>
    let s1 := s.rplCount ([Reg.RPL_CONFIRM, Reg.RPL_REJECT, Reg.RPL_TIMEOUT, Reg.RPL_NOROOM, Reg.RPL_ABANDON].getD (type - 1)
      Reg.RPL_ABANDON)
    let e : CascEvent := { type := type, degraded := r.degraded, phrase := phrase, lang := lang, conf := conf,
                           end_ := r.phraseEnd, req := r.tb }
    let s2 := s1.cascEvent ch r.group e
    let s3 := if type = 1 then s2.setChan ch { s2.chan ch with st := .dune, crest := none } else s2.toRipple ch
    s3.closeCrest ch
/-- The request in progress, if any, ends ABANDONED. -/
def State.abandonCrest (s : State) (ch : Nat) : State :=
  match (s.chan ch).crest with
  | some r => s.crestEnd ch 5 r.phrase 0 0
  | none => s
def abandonCrests (s : State) : List Nat → State
  | [] => s
  | ch :: t => abandonCrests (s.abandonCrest ch) t
/-- The last blocks of a ring decoded; a block with an uncorrectable word decodes as zeros, and counts and is recorded
(R172, R328). -/
def decodeRing (ch : Nat) (s : State) : List PreBlock → List Int × Bool × State
  | [] => ([], false, s)
  | b :: t =>
    if b.bad then
      let (v, s1) := s.free
      let s2 := (s1.rplCount Reg.RPL_AON_UE).report 1 3 (s1.oasLoc 21 0) 1 (0x10200000000 + v.toNat % 0x5000000)
      let (l, _, s3) := decodeRing ch s2 t
      (List.replicate b.codes.length 0 ++ l, true, s3)
    else
      let (l, d, s1) := decodeRing ch s t
      (decodeBlock b ++ l, d, s1)
/-- A request is raised (R320): the channel is in CREST, and its instance asks for room. -/
def State.crestRequest (s : State) (ch : Nat) (phrase : Nat) (onset : Bool) (pend : Dword) : State :=
  let c := s.chan ch
  let g := c.group
  let (pcm, deg, s1) := decodeRing ch s (keepLast (s.preroll g) c.ring)
  let r : CrestReq := { tb := s.tb, phrase := phrase, onset := onset, phraseEnd := pend, group := g, pcm := pcm, degraded := deg }
  let s2 := (s1.setChan ch { c.cleared with st := .crest, crest := some r }).rplCount (if onset then Reg.RPL_ONSET else Reg.RPL_MATCH)
  let s3 := s2.cascEvent ch g { type := 0, flag := onset, phrase := phrase, end_ := pend, req := s.tb }
  match s3.graphOf (s3.fld (Reg.RPL_Gg_CREST g) 0 16) with
  | none => s3.crestEnd ch 4 phrase 0 0
  | some gr =>
    match if gr.pool = 0 ∧ gr.ticked ∧ gr.frame then gr.cost (s3.preroll g) else none with
    | none => s3.crestEnd ch 4 phrase 0 0
    | some k =>
      let p : PendAdmit := { src := .crest ch, cls := 7, graph := gr.id, size := s3.preroll g }
      let (ok, s4) := s3.takeIn p ⟨gr, 7, k⟩
      if ok then s4.asked else s4.crestEnd ch 4 phrase 0 0
/-- The limit of a request, 80 ms after it on the package timebase (R18, R325). -/
def CrestReq.limit (r : CrestReq) : Nat := r.tb.toNat + 80000000
/-- CREST_DECISION (R324, R325): the placed graph writes its verdict, phrase, language and confidence: open values of the
graph's computation (log 4). A decision that comes after the limit is none: the request ends TIMEOUT. -/
def doCrestDecision (ch : Nat) (s : State) : State :=
  match (s.chan ch).crest with
  | none => s
  | some r =>
    if r.placed.isNone then s
    else if r.limit < s.tb.toNat then s.crestEnd ch 3 r.phrase 0 0
    else
      let (v, s1) := s.free
      let x := v.toNat
      let conf := bitsAt x 24 8
      let ok := bitAt x 0 && decide (s.fld (Reg.RPL_Gg_CFG r.group) 24 8 ≤ conf)
      s1.crestEnd ch (if ok then 1 else 2) (bitsAt x 8 8) (bitsAt x 16 8) conf
def execCrestDecision (ch : Nat) (s : State) : Host.Outcome State Fault Refusal := .next (s.live (doCrestDecision ch))
/-- CREST_TIMEOUT (R18, R325): 80 ms after the request, measured on the package timebase, there is no decision; the event
says that the timebase has come so far. -/
def doCrestTimeout (ch : Nat) (s : State) : State :=
  match (s.chan ch).crest with
  | some r => (s.reach r.limit).crestEnd ch 3 r.phrase 0 0
  | none => s
def execCrestTimeout (ch : Nat) (s : State) : Host.Outcome State Fault Refusal := .next (s.live (doCrestTimeout ch))
/-- CHANNEL_RELEASE (R326): a channel in DUNE returns to RIPPLE. -/
def doChannelRelease (ch : Nat) (s : State) : State := if (s.chan ch).st = ChanState.dune then s.toRipple ch else s
def execChannelRelease (ch : Nat) (s : State) : Host.Outcome State Fault Refusal := .next (s.live (doChannelRelease ch))

/-! On and off, and changes that wait for a frame boundary (R313, R316, R323, R328). -/

/-- Brings a channel's state in line with its source and group. -/
def State.updateOn (s : State) (ch : Nat) : State :=
  let c := s.chan ch
  if s.mayListen ch then
    (if c.st = ChanState.off then s.setChan ch { c.fresh with st := .ripple, hold := 0 } else s)
  else if c.st = ChanState.off then s
  else
    let s1 := s.abandonCrest ch
    s1.setChan ch { (s1.chan ch).cleared with st := .off, hold := 0, inbuf := [], ends := [] }
def updateAll (s : State) : List Nat → State
  | [] => s
  | ch :: t => updateAll (s.updateOn ch) t
/-- The source of a channel changes now: a request in progress is abandoned and the ring emptied. -/
def State.applySrc (s : State) (ch : Nat) (v : Word) : State :=
  let s1 := s.abandonCrest ch
  (s1.setChan ch { (s1.chan ch).fresh with src := v, pendSrc := none }).updateOn ch
/-- The group or ONSET flag of a channel changes now. -/
def State.applyCfg (s : State) (ch : Nat) (v : Word) : State :=
  let c := s.chan ch
  if bitsAt v.toNat 0 6 = c.group then s.setChan ch { c with cfg := v, pendCfg := none }
  else
    let s1 := s.abandonCrest ch
    let c1 : Channel := { (s1.chan ch).cleared with cfg := v, pendCfg := none, model := [] }
    let s2 := s1.setChan ch c1
    (if c.st = ChanState.crest then s2.toRipple ch else s2).updateOn ch
/-- A channel whose record holds an uncorrectable word is reset, keeping its ring. -/
def State.resetDamaged (s : State) (ch : Nat) : State :=
  if !(s.chan ch).damaged then s
  else
    let s1 := s.abandonCrest ch
    let c := s1.chan ch
    let (v, s2) := (s1.setChan ch { c.cleared with model := [], damaged := false }).free
    ((s2.rplCount Reg.RPL_AON_UE).rplCount Reg.RPL_RESET).report 1 3 (s2.oasLoc 21 0) 1 (0x10200000000 + v.toNat % 0x5000000)
/-- Everything that waited for the channel's frame boundary takes effect. -/
def State.boundary (s : State) (ch : Nat) : State :=
  let s1 := match (s.chan ch).pendSrc with | some v => s.applySrc ch v | none => s
  let s2 := match (s1.chan ch).pendCfg with | some v => s1.applyCfg ch v | none => s1
  let c := s2.chan ch
  let c1 : Channel := if c.pendModel then { c.cleared with model := [], pendModel := false } else c
  let c2 : Channel := { c1 with
    paths := c1.paths.filter (fun p => !c.pendPhr.contains p.1)
    beat := c1.beat.filter (fun p => !c.pendPhr.contains p.1)
    pendPhr := [] }
  (s2.setChan ch c2).resetDamaged ch
/-- A write of RPL_CH_SRC (R316): it waits for the channel's frame boundary; a channel that is between frames is at one. -/
def State.writeChSrc (s : State) (ch : Nat) (v : Nat) : State :=
  let c := s.chan ch
  let w := BitVec.ofNat 32 (bitsAt v 30 2 * 2 ^ 30 + bitsAt v 24 3 * 2 ^ 24 + bitsAt v 16 5 * 2 ^ 16)
  if 16384 ≤ ch ∨ bitsAt v 30 2 = 3 then s
  else if w = c.src then s.setChan ch { c with pendSrc := none }
  else if c.st = ChanState.off ∨ c.inbuf = [] then s.applySrc ch w
  else s.setChan ch { c with pendSrc := some w }
/-- A write of RPL_CH_CFG. -/
def State.writeChCfg (s : State) (ch : Nat) (v : Nat) : State :=
  let c := s.chan ch
  let w := BitVec.ofNat 32 (bitsAt v 0 7)
  if 16388 ≤ ch then s
  else if c.st = ChanState.off ∨ (ch < 16384 ∧ c.inbuf = []) then s.applyCfg ch w
  else s.setChan ch { c with pendCfg := some w }
def execRplChSrcWrite (ch : Nat) (v : Word) (s : State) : Host.Outcome State Fault Refusal :=
  .next (s.live (fun t => t.writeChSrc ch v.toNat))

/-! Host input rings (R305). -/

/-- The value of a ring sample by FORMAT. -/
def hinValue (fmt : Nat) (b : List Byte) : Int :=
  match fmt with
  | 0 => alawExpand (leVal b)
  | 1 => ulawExpand (leVal b)
  | _ => ofBits 16 (leVal b)
/-- Takes so many frames out of the ring. -/
def takeFramesIn (ch base size fmt : Nat) : Nat → State → State
  | 0, s => s
  | n + 1, s =>
    let c := s.chan ch
    let k := if fmt = 2 then 2 else 1
    let r := s.readRuns (s.oasLoc 21 0) (ringPieces base (size * k) (c.readCount * k) (80 * k))
    let xs := (List.range 80).map (fun i => hinValue fmt ((r.bytes.drop (i * k)).take k))
    if r.failed then r.st
    else
      let c1 := r.st.chan ch
      takeFramesIn ch base size fmt n (r.st.setChan ch { c1 with
        inbuf := c1.inbuf ++ xs
        ends := c1.ends ++ [s.tb]
        readCount := (c1.readCount + 80) % 2 ^ 32 })
/-- HOST_INPUT_POLL (R305). -/
def doHostInputPoll (ch : Nat) (s : State) : State :=
  let c := s.chan ch
  if 16384 ≤ ch ∨ c.st = ChanState.off ∨ c.kind ≠ 2 then s
  else
    let r := s.readCtl (s.oasLoc 21 0) (s.pair Reg.RPL_HIN_BASE_LO + 16 * ch) 16
    let b := r.bytes
    let f := (b.getD 12 0).toNat
    if r.failed ∨ bitsAt f 6 2 = 3 then r.st
    else
      let s1 := r.st
      let c1 := s1.chan ch
      let size := 2 ^ max 8 (min 16 (bitsAt f 0 5))
      let wr := leVal ((b.drop 8).take 4)
      let lag := (wr + 2 ^ 32 - c1.readCount) % 2 ^ 32
      let s2 := if size < lag then s1.setChan ch { c1 with readCount := (wr + 2 ^ 32 - size) % 2 ^ 32 } else s1
      takeFramesIn ch (leVal (b.take 8)) size (bitsAt f 6 2) (min size lag / 80) s2
def execHostInputPoll (ch : Nat) (s : State) : Host.Outcome State Fault Refusal := .next (s.live (doHostInputPoll ch))

/-! Ripple's frames (R315 to R321). -/

/-- Runs the matcher of every phrase of a group: the channel after it, and the lowest phrase that matched. -/
def matchAll (ph : AMap (Option Phrase)) (g : Nat) (v : List Int) (tb : Dword) : List Nat → Channel → Channel × Option Nat
  | [], c => (c, none)
  | p :: t, c =>
    match AMap.read (fun _ => none) ph (g * 16 + p) with
    | none => matchAll ph g v tb t c
    | some x =>
      let (st, hit) := matchFrame v x (AMap.read (fun _ => []) c.paths p)
      let beats := decide (scoreAt v 0 < scoreAt v (x.units.getD (x.units.length - 1) 0))
      let (c1, m) := matchAll ph g v tb t { c with
        paths := AMap.write (fun _ => []) c.paths p st
        beat := if beats then AMap.write (fun _ => 0) c.beat p tb else c.beat }
      (c1, if hit then some p else m)
/-- INT8 scores, the filler's first. -/
def rippleScores (l : List Int) : List Int := (List.range 64).map (fun i => clampInt (-128) 127 (l.getD i 0))
/-- A frame of a channel is processed: pre-roll, model, matcher, onset and the tally. -/
def State.rippleFrame (s : State) (ch : Nat) (x : List Int) (tb : Dword) : State :=
  let c := s.chan ch
  let g := c.group
  let (blk, xp) := encodeBlock c.xp x
  let (out, model) := Config.rippleModel ((AMap.read (fun _ => none) s.casc.groupModels g).getD []) c.model (Config.bandEnergies x)
  let v := rippleScores out
  let c1 : Channel := { c with
    ring := keepLast (if ch < 16384 then 100 else 400) (c.ring ++ [blk])
    xp := xp
    model := model.take 120 }
  let s1 := (s.bump64 Reg.RPL_FRAMES_LO 1).tally 200 (s.groupFn g) 1 false 1
  match c.st with
  | .ripple =>
    let (c2, hit) := matchAll s.casc.phrases g v tb (List.range 16) c1
    let o := Reg.RPL_Gg_ONSET g
    let (fl, run, onset) := onsetFrame (c1.frames == 0) c1.frames (s.fld o 0 8) (s.fld o 8 4) (Config.frameEnergy x) c1.floor c1.run
    let on := bitAt c.cfg.toNat 6
    let c3 : Channel := if on then { c2 with floor := fl, run := run, frames := c1.frames + 1, hold := c.hold - 1 }
      else { c2 with hold := c.hold - 1 }
    let s2 := s1.setChan ch c3
    if c.hold ≠ 0 then s2
    else match hit with
      | some p => s2.crestRequest ch p false (AMap.read (fun _ => tb) c.beat p)
      | none => if on && onset then s2.crestRequest ch 0 true tb else s2
  | .crest =>
    let r := c.crest.map (fun r =>
      if r.live < min 6 (s.fld (Reg.RPL_Gg_TIMING r.group) 12 4) then { r with live := r.live + 1, pcm := r.pcm ++ x } else r)
    s1.setChan ch { c1 with crest := r }
  | _ => s1.setChan ch c1

/-! Microphone arrays (R307 to R313). -/

def State.arrMics (s : State) (a : Nat) : Nat := s.fld (Reg.ACF_Aa_CFG a) 16 16
def State.arrListen (s : State) (a : Nat) : Nat := s.fld (Reg.ACF_Aa_CFG a) 4 4
/-- Samples per block and microphone. -/
def State.arrSamples (s : State) (a : Nat) : Nat := if s.rbit (Reg.ACF_Aa_CFG a) 2 then 480 else 160
/-- The fields of ACF_STATUS. -/
def State.showArr (s : State) (a : Nat) : State :=
  let x := s.arr a
  (((s.setFld Reg.ACF_STATUS (2 * a) 2 x.mode).setBit Reg.ACF_STATUS (8 + a) x.pending.isSome).setBit Reg.ACF_STATUS (12 + a)
    x.clkRun).setBit Reg.ACF_STATUS (16 + a) (x.hqRun && decide (x.hqBlocks < 2))
def State.putArr (s : State) (a : Nat) (x : MicArray) : State := (s.setArr a x).showArr a
/-- Gain and delay of a microphone as ACF_CALm shows them. -/
def State.calGain (s : State) (m : Nat) : Int := ofBits 16 (s.fld (Reg.ACF_CALm m) 0 16)
def State.calDelay (s : State) (m : Nat) : Int := ofBits 11 (s.fld (Reg.ACF_CALm m) 16 11)
def State.setCal (s : State) (c : Calib) : State :=
  s.setFld (Reg.ACF_CALm c.mic) 0 27 (toBits 16 c.gain + toBits 11 c.delay * 2 ^ 16)
/-- The low-power path of a microphone takes the gain in force. -/
def State.takeLp (s : State) (m : Nat) : State :=
  let s1 : State := { s with casc := { s.casc with lpGain := AMap.write (fun _ => 0x4000) s.casc.lpGain m (s.calGain m) } }
  s1.setBit (Reg.ACF_CALm m) 31 false
/-- A calibration record comes into force: at once for a microphone whose array does not run, else at the array's next
frame boundary (R70, R313). -/
def State.offerCal (s : State) (c : Calib) : State :=
  match (List.range 4).find? (fun a => bitAt (s.arrMics a) c.mic && (s.arr a).clkRun) with
  | none => (s.setCal c).takeLp c.mic
  | some a =>
    let s1 : State := { s with casc := { s.casc with calibPend := s.casc.calibPend.filter (fun d => d.mic != c.mic) ++ [c] } }
    if s.arrListen a = c.mic then s1.setBit (Reg.ACF_CALm c.mic) 31 true else s1
def offerCals (s : State) : List Calib → State
  | [] => s
  | c :: t => offerCals (s.offerCal c) t
def setCals (s : State) : List Calib → State
  | [] => s
  | c :: t => setCals (s.setCal c) t
/-- An array's frame boundary: pending calibration reaches the high-quality path, and, where the array channel holds no
partial match, the low-power path (R313). -/
def State.arrBoundary (s : State) (a : Nat) : State :=
  let mine := s.casc.calibPend.filter (fun c => bitAt (s.arrMics a) c.mic)
  let s1 := setCals { s with casc := { s.casc with calibPend := s.casc.calibPend.filter (fun c => !bitAt (s.arrMics a) c.mic) } } mine
  let m := s.arrListen a
  if s1.rbit (Reg.ACF_CALm m) 31 && !(s1.chan (16384 + a)).partial_ then s1.takeLp m else s1
/-- Samples of a microphone that saturated (R312). -/
def State.clipCount (s : State) (m n : Nat) : State :=
  if n = 0 then s else (s.count (Reg.ACF_CLIPm m) n Reg.ACF_INT_STATUS 13).raise Reg.ACF_INT_STATUS 12
/-- The low-power path's calibration: the gain alone, saturating to 16 bits. -/
def lpSample (gain x : Int) : Int × Bool :=
  let y := roundDivEven (gain * x) (2 ^ 14)
  let z := clampInt (-32768) 32767 y
  (z, z != y)
/-- RIPPLE_FRAME of an array channel: `pcm` is the low-power path's output before calibration. -/
def State.arrFrame (s : State) (a : Nat) (pcm : List Int) : State :=
  let ch := 16384 + a
  let x := s.arr a
  if !x.clkRun then s
  else
    let s1 := (s.arrBoundary a).boundary ch
    let y := s1.arr a
    let s2 := if y.hqRun then s1 else s1.putArr a { y with index := y.index + s.arrSamples a }
    let c := s2.chan ch
    if c.discard ≠ 0 then (s2.setChan ch { c with discard := c.discard - 1 }).updateOn ch
    else if c.st = ChanState.off then s2
    else
      let m := s2.arrListen a
      let out := (List.range 160).map (fun i => lpSample (AMap.read (fun _ => 0x4000) s2.casc.lpGain m) (pcm.getD i 0))
      (s2.clipCount m (out.filter (fun o => o.2)).length).rippleFrame ch (out.map (fun o => o.1)) s.tb
/-- RIPPLE_FRAME (R317): the channel's next frame. A network channel's samples are those that its source gave. -/
def doRippleFrame (ch : Nat) (pcm : List Int) (s : State) : State :=
  if 16388 ≤ ch then s
  else if 16384 ≤ ch then s.arrFrame (ch - 16384) pcm
  else
    let s1 := s.boundary ch
    let c := s1.chan ch
    match c.st, c.ends with
    | .off, _ => s1
    | _, [] => s1
    | _, tb :: t =>
      (s1.setChan ch { c with inbuf := c.inbuf.drop 80, ends := t }).rippleFrame ch (c.inbuf.take 80) tb
def execRippleFrame (ch : Nat) (pcm : List Int) (s : State) : Host.Outcome State Fault Refusal :=
  .next (s.live (doRippleFrame ch pcm))

/-! Groups and enrolment (R317, R322, R323). -/

/-- Every channel that may have to change: those in the table, and the array channels. -/
def State.allChans (s : State) : List Nat :=
  (s.casc.chans.map (fun e => e.1)).filter (fun c => decide (c < 16384)) ++ [16384, 16385, 16386, 16387]
def State.groupChans (s : State) (g : Nat) : List Nat := s.allChans.filter (fun c => (s.chan c).group == g)
/-- The bytes of a Ripple model, where its weight is present and accepted. -/
def State.loadModel (s : State) (w : Nat) : Option (List Byte) × State :=
  match s.weight w with
  | none => (none, s)
  | some x =>
    if !x.present then (none, s)
    else
      let r := s.readRuns (s.oasLoc 21 0) (s.weightPieces x.addr 0 x.ref.size)
      (if !r.failed && Config.rippleAccepts r.bytes then some r.bytes else none, r.st)
def State.setModel (s : State) (g : Nat) (m : Option (List Byte)) : State :=
  { s with casc := { s.casc with groupModels := AMap.write (fun _ => none) s.casc.groupModels g m } }
def markModel (s : State) : List Nat → State
  | [] => s
  | ch :: t => markModel (s.setChan ch { s.chan ch with pendModel := true }) t
/-- A write of RPL_Gg_CFG: EN loads the model, or is refused. -/
def State.writeGroup (s : State) (g : Nat) (v : Word) : State :=
  let old := s.rn (Reg.RPL_Gg_CFG g)
  let w := bitsAt v.toNat 0 16
  let s1 := s.setReg (Reg.RPL_Gg_CFG g) v
  let s2 :=
    if !bitAt v.toNat 22 then s1.setModel g none
    else if bitAt old 22 && bitsAt old 0 16 == w then s1
    else match s1.loadModel w with
      | (some m, t) => (if bitAt old 22 then markModel t (t.groupChans g) else t).setModel g (some m)
      | (none, t) => ((t.setModel g none).setBit (Reg.RPL_Gg_CFG g) 22 false).raise Reg.RPL_INT_STATUS 4
  updateAll s2 (s2.groupChans g)
/-- GROUP_ENABLE (R317). -/
def execGroupEnable (g : Fin 64) (v : Word) (s : State) : Host.Outcome State Fault Refusal :=
  .next (s.live (fun t => t.writeGroup g v))

/-- A phrase record (Table 14-6), where it keeps its ranges. -/
def parsePhrase (b : List Byte) : Option Phrase :=
  let n := (b.getD 0 0).toNat
  let mf := (b.getD 1 0).toNat
  let th := ofBits 16 (leVal ((b.drop 2).take 2))
  let u := ((b.drop 4).take 8).map BitVec.toNat
  if 2 ≤ n ∧ n ≤ 8 ∧ 1 ≤ mf ∧ mf ≤ 200 ∧ 0 < th ∧ (u.take n).all (fun x => decide (1 ≤ x) && decide (x ≤ 63)) ∧
      (u.drop n).all (fun x => x == 0) ∧ (b.drop 12).all (fun x => x == 0) then
    some { minFrames := mf, thresh := th, units := u.take n }
  else none
def markPhrase (p : Nat) (s : State) : List Nat → State
  | [] => s
  | ch :: t => markPhrase p (s.setChan ch { s.chan ch with pendPhr := p :: (s.chan ch).pendPhr }) t
/-- A phrase slot takes a phrase or is emptied; it takes effect on each channel at its next frame boundary. -/
def State.setPhrase (s : State) (g p : Nat) (x : Option Phrase) : State :=
  let s1 : State := { s with casc := { s.casc with phrases := AMap.write (fun _ => none) s.casc.phrases (g * 16 + p) x } }
  markPhrase p (s1.setBit (Reg.RPL_Gg_PHR g) p x.isSome) (s1.groupChans g)
/-- An enrolment ends with its status. -/
def State.enrolled (s : State) (st : Nat) : State := (s.setFld Reg.RPL_STATUS 4 4 st).raise Reg.RPL_INT_STATUS 3
/-- A write of RPL_ENR_CTL (R322). -/
def State.writeEnroll (s : State) (v : Nat) : State :=
  let g := bitsAt v 0 6
  let p := bitsAt v 8 4
  if !bitAt v 31 then s
  else if !s.groupOn g then s.enrolled 8
  else if bitAt v 12 then (s.setPhrase g p none).enrolled 0
  else
    let r := s.readCtl (s.oasLoc 21 0) (s.pair Reg.RPL_ENR_ADDR_LO) 32
    if r.failed then r.st.enrolled 6
    else match parsePhrase r.bytes with
      | some x => (r.st.setPhrase g p (some x)).enrolled 0
      | none => r.st.enrolled 8
/-- ENROLL and ENROLL_DELETE (R322). -/
def execEnroll (v : Word) (s : State) : Host.Outcome State Fault Refusal := .next (s.live (fun t => t.writeEnroll v.toNat))
def execEnrollDelete (v : Word) (s : State) : Host.Outcome State Fault Refusal := .next (s.live (fun t => t.writeEnroll v.toNat))
/-- RPL_CNT_CLR (R330). -/
def rplCounters : List Nat := wordsFrom Reg.RPL_FRAMES_LO Reg.RPL_RESET ++ [Reg.RPL_AON_UE]
def execRplCntClr (v : Word) (s : State) : Host.Outcome State Fault Refusal :=
  .next (s.live (fun t => if bitAt v.toNat 0 then t.zeroRegs rplCounters else t))

/-! Array modes (R310, R311, R327). -/

/-- A mode is requested of an array. -/
def State.requestMode (s : State) (a m : Nat) : State :=
  let x := s.arr a
  if s.arrMics a = 0 ∨ m = 3 ∨ (m = 2 ∧ !s.rbit (Reg.ACF_Aa_CFG a) 3) then s
  else
    let s1 := s.setFld Reg.ACF_MODE (2 * a) 2 m
    s1.putArr a { x with pending := if m = x.mode then none else some { mode := m, tb := s.tb } }
/-- ACF_MODE_WRITE (R310): a write of ACF_MODE as it concerns array a. -/
def execAcfModeWrite (a : Fin 4) (v : Word) (s : State) : Host.Outcome State Fault Refusal :=
  .next (s.live (fun t => t.requestMode a (bitsAt v.toNat (2 * a) 2)))
/-- The mode of an array changes. -/
def State.changeMode (s : State) (a : Nat) (r : ModeReq) (tmo : Bool) : State :=
  let x := s.arr a
  let ch := 16384 + a
  let y : MicArray := { x with
    mode := r.mode
    pending := none
    clkDue := (x.mode == 0 || x.clkDue) && r.mode != 0
    clkRun := x.clkRun && r.mode != 0
    hqRun := x.hqRun || (r.mode == 2 && x.clkRun)
    hqBlocks := if x.hqRun then x.hqBlocks else 0
    hqLast := x.hqRun && r.mode != 2
    hist := if x.hqRun then x.hist else [] }
  let s1 := (s.putArr a y).raise Reg.ACF_INT_STATUS a
  let s2 := if tmo then s1.raise Reg.ACF_INT_STATUS (4 + a) else s1
  let s3 := s2.cascEvent ch (s2.chan ch).group { type := 6, flag := tmo, phrase := 4 * a + r.mode, req := r.tb }
  s3.updateOn ch
/-- ACF_MODE_CHANGE (R327): at the array's frame boundary a pending change takes effect or is deferred. -/
def doAcfModeChange (a : Fin 4) (s : State) : State :=
  let x := s.arr a
  match x.pending with
  | none => s
  | some r =>
    let c := s.chan (16384 + a)
    let down := r.mode < x.mode
    let held := c.partial_
    let due := decide (r.tb.toNat + 2000000000 ≤ s.tb.toNat)
    let waits := (down ∧ held ∧ !due) ∨ (r.mode = 0 ∧ c.crest.isSome)
    if waits then
      (if r.deferred then s
       else (s.putArr a { x with pending := some { r with deferred := true } }).count (Reg.ACF_Aa_DEFER a) 1 Reg.ACF_INT_STATUS 13)
    else s.changeMode a r (down ∧ held)
def execAcfModeChange (a : Fin 4) (s : State) : Host.Outcome State Fault Refusal := .next (s.live (doAcfModeChange a))
/-- PDM_CLOCK_START (R311): the next 1 ms after a change from OFF. -/
def doPdmClockStart (a : Fin 4) (s : State) : State :=
  let x := s.arr a
  if !x.clkDue then s
  else
    let s1 := s.putArr a { x with clkDue := false, clkRun := true, index := 0, hqRun := x.mode == 2, hqBlocks := 0, hqLast := false, hist := [] }
    let ch := 16384 + a.val
    s1.setChan ch { s1.chan ch with discard := 3 }
def execPdmClockStart (a : Fin 4) (s : State) : Host.Outcome State Fault Refusal := .next (s.live (doPdmClockStart a))

/-! ATTEND blocks (R312, R314). -/

/-- The calibrated samples of a microphone, how many saturated, and what its path remembers. -/
def calibBlock (gain delay : Int) (hist xs : List Int) : List Int × Nat × List Int :=
  let l := hist ++ xs
  let h := hist.length
  let out := (List.range xs.length).map (fun i => calibSample gain delay (fun j => if j ≤ h + i then l.getD (h + i - j) 0 else 0))
  (out.map (fun o => o.1), (out.filter (fun o => o.2)).length, keepLast 20 l)
/-- Calibrates the microphones of a list: by microphone its samples. -/
def calibMics (a k n : Nat) (pcm : List Int) (s : State) : List (Nat × Nat) → List (List Int) × State
  | [] => ([], s)
  | (m, i) :: t =>
    let xs := (List.range n).map (fun j => pcm.getD (j * k + i) 0)
    let x := s.arr a
    let (ys, c, h) := calibBlock (s.calGain m) (s.calDelay m) (AMap.read (fun _ => []) x.hist m) xs
    let s1 := (s.setArr a { x with hist := AMap.write (fun _ => []) x.hist m h }).clipCount m c
    let (l, s2) := calibMics a k n pcm s1 t
    (ys :: l, s2)
/-- ATTEND_BLOCK (R314): 10 ms of high-quality samples, in time order and within a sample time by microphone. -/
def doAttendBlock (a : Fin 4) (pcm : List Int) (s : State) : State :=
  let x := s.arr a
  if !x.hqRun then s
  else
    let mics := (List.range 16).filter (fun m => bitAt (s.arrMics a) m)
    let k := mics.length
    let n := s.arrSamples a
    let (ys, s1) := calibMics a k n pcm s mics.zipIdx
    let flags := 4 * b2n (decide (x.hqBlocks < 2)) + 2 * b2n x.hqLast + b2n (x.hqBlocks == 0)
    let head := leBytes 8 (s.tb - 10000000#64).toNat ++ leBytes 8 x.index ++ leBytes 2 (s.arrMics a) ++ leBytes 1 k
      ++ leBytes 1 flags ++ leBytes 2 n ++ List.replicate 10 0
    let body := (List.range n).flatMap (fun j => ys.flatMap (fun l => leBytes 4 (toBits 24 (l.getD j 0) * 256)))
    let r : RingId := .attend a
    let h := s1.rn (Reg.ACF_Aa_HEAD a)
    let slot := (32 + 4 * k * n + 63) / 64 * 64
    let s2 := if s1.ringTakes r then
        (s1.writeData (s1.oasLoc 23 0) (s1.pair (Reg.ACF_Aa_RING_BASE_LO a) + h % 2 ^ s1.ringLog r * slot) (head ++ body)).setN (Reg.ACF_Aa_HEAD a) (h + 1)
      else s1.ringDrop r
    let y := s2.arr a
    s2.putArr a { y with hqBlocks := y.hqBlocks + 1, index := y.index + n, hqRun := !x.hqLast, hqLast := false }
def execAttendBlock (a : Fin 4) (pcm : List Int) (s : State) : Host.Outcome State Fault Refusal :=
  .next (s.live (doAttendBlock a pcm))
/-- ACF_CNT_CLR (R331). -/
def acfCounters : List Nat :=
  (List.range 4).flatMap (fun a => [Reg.ACF_Aa_DROP a, Reg.ACF_Aa_DEFER a]) ++ (List.range 16).map Reg.ACF_CLIPm
def execAcfCntClr (v : Word) (s : State) : Host.Outcome State Fault Refusal :=
  .next (s.live (fun t => if bitAt v.toNat 0 then t.zeroRegs acfCounters else t))

end Sys2Proof.Machine
end

