-- ==== Sys2Proof/Machine/ImageCheck.lean ====
section
/-!
DEFINITION. The checks of an image's content (R53 to R60, R501, and the rules of other chapters that refuse an image with
reason STRUCT_INVALID).
-/

namespace Sys2Proof.Machine

/-- No value stands twice in a list. -/
def noDups {α : Type} [BEq α] : List α → Bool
  | [] => true
  | a :: t => !t.contains a && noDups t

/-! Mode words and quantisation blocks (R80, R102, R104). -/

/-- The rules of R80 that hold for every operation. -/
def ModeWord.wordOk (m : ModeWord) : Bool :=
  let side (fmt exp : Nat) (bf16 : Bool) : Bool :=
    if fmtIsU fmt then (exp == 1 && (bf16 || decide (fmt ≤ 12))) || exp == 2 else exp == 0
  m.rnd != 3 && side m.fmtA m.expA m.tgtA && side m.fmtB m.expB m.tgtB && !fmtIsU m.fmtOut
/-- R80's rules on integers, for an operation of one input or of two: INT8 and INT4 are paired only with integers, and give
INT32 or FP32. They hold for every node that computes; the nodes that only move bytes are exempt (DEDUCED, log 34). -/
def ModeWord.intOk (m : ModeWord) (two : Bool) : Bool :=
  let narrow (f : Nat) : Bool := f == 8 || f == 9
  (!two || ((!narrow m.fmtA || fmtIsInt m.fmtB) && (!narrow m.fmtB || fmtIsInt m.fmtA))) &&
  (!(narrow m.fmtA || (two && narrow m.fmtB)) || m.fmtOut == 15 || m.fmtOut == 0)
/-- An expander's table fits the 8 MiB cluster store (R81). -/
def tableFits (fmt exp : Nat) (bf : Bool) (ofs : Nat) : Bool :=
  exp != 2 || decide (ofs + rowBytes (if bf then 1 else 3) (2 ^ fmtBits fmt) ≤ 8 * 2 ^ 20)
/-- The rules of R80 for a matrix operation. -/
def ModeWord.matrixOk (m : ModeWord) : Bool :=
  m.wordOk && m.fmtA != 15 && m.fmtB != 15 && fmtIsInt m.fmtA == fmtIsInt m.fmtB &&
  (if fmtIsInt m.fmtA then m.fmtOut == 15 || m.fmtOut == 0 else decide (m.fmtOut ≤ 4))
/-- The reduction length of R80. -/
def redLenOk (k : Nat) : Bool := decide (k ≤ 16777216)
/-- A finite FP32 word. -/
def finite32 (w : Word) : Bool := bitsAt w.toNat 23 8 != 255
/-- R102 and R104 for one block of a node with this mode word, under the graph's margin ceiling. -/
def QBlock.ok (q : QBlock) (m : ModeWord) (ceiling : Nat) : Bool :=
  (q.fmtQ == 0 || q.active) &&
  (!q.active || (m.fmtOut == 1 && fltNum q.initLo q.initHi && finite32 q.initLo && finite32 q.initHi &&
    decide (q.marginInit ≤ min 16 ceiling) && (!q.watch || q.thresh != 0))) &&
  (!q.qa || (fmtIsU m.fmtA && m.expA == 1)) && (!q.qb || (fmtIsU m.fmtB && m.expB == 1 && q.groupB != 0))

/-! Attention, scan and input nodes (R231, Table 12-5, R260). -/

def attnOk (d : BitVec 512) : Bool :=
  let a := attnDesc d
  let has (i : Nat) : Bool := a.slot i != 255
  dfield d 0 0 9 == 0 && a.exp != 3 && a.pf != 3 && a.hpc != 3 && a.place != 3 && db d 14 2 == 0 &&
  db d 56 8 == 0 && (bitAt a.mask 1 || a.bmStride == 0) && a.bmStride % 16 == 0 &&
  a.mode.wordOk && a.mode.expA == 0 && a.mode.expB == 0 && !a.mode.accC &&
  decide (1 ≤ a.fa ∧ a.fa ≤ 4) && decide (1 ≤ a.fb ∧ a.fb ≤ 4) && decide (a.mode.fmtOut ≤ 4) &&
  (DriftWord.mk a.drift).keep == 255 &&
  decide (1 ≤ a.group ∧ a.group ≤ 16) && decide (1 ≤ a.kvh ∧ a.kvh ≤ 64) &&
  decide (16 ≤ a.dk ∧ a.dk ≤ 512) && a.dk % 16 == 0 && decide (16 ≤ a.dv ∧ a.dv ≤ 512) && a.dv % 16 == 0 &&
  (if a.exp = 1 then decide (64 ≤ a.latent ∧ a.latent ≤ 1024) && a.latent % 64 == 0 else a.latent == 0) &&
  (a.exp != 2 || a.dk == a.dv) && decide (1 ≤ a.maxSeqs ∧ a.maxSeqs ≤ 4096) &&
  (!a.back || (a.exp == 0 && !a.paged && a.place != 2 && [2, 4, 9, 10, 11].all has)) &&
  has 0 && has 3 && has 5 && (a.paged || (has 1 && has 8)) && (a.exp != 1 || has 2) && (!a.saveLse || has 4) &&
  (!bitAt a.mask 0 || has 6) && (!bitAt a.mask 1 || has 7) &&
  (!a.paged || (decide (16 ≤ a.pageKib ∧ a.pageKib ≤ 1024) && a.pageKib % 16 == 0 && decide (1 ≤ a.lpg) &&
    decide (128 * a.entryBytes * a.lpg ≤ a.pageKib * 1024) && decide (a.slice < a.lpg))) &&
  finite32 a.scale
def scanOk (d : BitVec 512) : Bool :=
  let w := db d 8 4
  dfield d 0 0 18 == 0 && decide (6 ≤ dfield d 0 18 5 ∧ dfield d 0 18 5 ≤ 16) && (ModeWord.mk (BitVec.ofNat 32 (db d 4 4))).wordOk &&
  (ModeWord.mk (BitVec.ofNat 32 (db d 4 4))).intOk true && decide (16 ≤ w ∧ w ≤ 8192) && w % 16 == 0 && (dfield d 0 23 1 == 1 || db d 19 1 == 255) && dfield d 20 0 352 == 0
def inputOk (d : BitVec 512) : Bool :=
  let i := inputDesc d
  dfield d 0 0 24 == 0 && decide (1 ≤ i.posStep ∧ i.posStep ≤ 4096) && decide (1 ≤ i.posPerRow ∧ i.posPerRow ≤ 4096) &&
  decide (1 ≤ i.rowBytes ∧ i.rowBytes ≤ 65536) && dfield d 13 0 408 == 0

/-! Vision nodes (R294, R298 to R301). -/

/-- The depth of a weight tile for an operand pair: that of the slower class of R77. -/
def tileDepth (m : ModeWord) : Nat :=
  let cls (fmt : Nat) (bf16 : Bool) : Nat :=
    if fmt = 7 ∨ fmt = 9 then 128
    else if fmtIsU fmt then (if bf16 then 32 else 64)
    else if fmt = 0 ∨ fmt = 1 ∨ fmt = 2 then 32 else 64
  min (cls m.fmtA m.tgtA) (cls m.fmtB m.tgtB)
/-- PACK's conditions (R294). -/
def packOk (d : BitVec 512) (v : VisDesc) : Bool :=
  match dfield d 0 15 2 with
  | 0 => true
  | 3 => false
  | k =>
    let f := 2 * k
    v.groups == 1 && decide (v.kh * v.kw * v.cin ≤ 32) &&
    decide ((v.sh * (f - 1) + v.dh * (v.kh - 1) + 1) * (v.sw * (f - 1) + v.dw * (v.kw - 1) + 1) * v.cin ≤ tileDepth v.mode)
/-- The largest shape of a node. -/
def VisDesc.maxShape (v : VisDesc) : Shape := ⟨v.maxH, v.maxW, 0, 0, 0⟩
/-- On-chip operands keep the sizes of R298. -/
def homeOk (v : VisDesc) : Option Operand → Nat → Bool
  | some (.tensor .cluster _ _), n => decide (v.maxImages * n ≤ 6 * 2 ^ 20)
  | some (.tensor .region _ _), n => decide (v.maxImages * n ≤ 16 * 2 ^ 20)
  | _, _ => true
/-- A vision descriptor keeps the ranges of Table 13-5 and R301, within a graph of pool `pool` and margin ceiling `ceiling`. -/
def visionOk (d : BitVec 512) (ops : List Operand) (pool ceiling : Nat) : Bool :=
  let v := visDesc d
  let grp := db d 16 2
  let re := v.op == 0x62 || v.op == 0x63
  let kern := fun x => if re then decide (2 ≤ x ∧ x ≤ 8) else decide (1 ≤ x ∧ x ≤ 31)
  v.pad != 3 && v.kind != 3 && (v.op == 0x61 || v.kind == 0) && dfield d 0 0 14 == 0 && packOk d v &&
  decide (1 ≤ v.cin ∧ v.cin ≤ 16384) && decide (1 ≤ v.cout ∧ v.cout ≤ 16384) && decide (1 ≤ grp ∧ grp ≤ v.cin) &&
  v.cin % grp == 0 && v.cout % grp == 0 && kern v.kh && kern v.kw && (!re || v.kh == v.kw) &&
  decide (1 ≤ v.sh ∧ v.sh ≤ 31) && decide (1 ≤ v.sw ∧ v.sw ≤ 31) && decide (1 ≤ v.dh ∧ v.dh ≤ 63) && decide (1 ≤ v.dw ∧ v.dw ≤ 63) &&
  decide (1 ≤ v.maxH) && decide (1 ≤ v.maxW) && decide (1 ≤ v.maxImages ∧ v.maxImages ≤ 4096) &&
  [db d 34 1, db d 35 1].all (fun t => if visFuse d = 0 then t == 0 else decide (1 ≤ t ∧ t ≤ 32)) &&
  db d 42 2 == 0 && db d 60 4 == 0 &&
  (match v.op with
   | 0x60 => v.mode.matrixOk && redLenOk (v.kh * v.kw * (v.cin / max 1 grp))
   | 0x61 => v.mode.wordOk && v.mode.intOk false && v.mode.fmtA != 15 && v.cin == v.cout && grp == 1
   | _ => v.mode.wordOk && v.mode.fmtA == v.mode.fmtOut && !v.q.active && v.drift.keep == 255) &&
  v.q.ok v.mode ceiling && (pool == 3 || pool == 4) &&
  homeOk v (ops[v.slots.getD 0 255]?) (v.inBytes v.maxShape) && homeOk v (ops[v.slots.getD 3 255]?) (v.outBytes v.maxShape)
/-- The extents of a fused chain's layers at MAX sizes: each layer's input. -/
def fuseExtents (h w : Nat) : List VisDesc → List (Nat × Nat)
  | [] => [(h, w)]
  | v :: t => let (oh, ow, _) := v.outShape ⟨h, w, 0, 0, 0⟩; (h, w) :: fuseExtents oh ow t
/-- Works a tile back through a chain, last layer first: the bytes of every layer's input tile (R299). -/
def fuseBytes : Nat → Nat → List (VisDesc × Nat × Nat) → Nat
  | _, _, [] => 0
  | th, tw, (v, eh, ew) :: t =>
    let ih := min eh ((th - 1) * v.sh + v.dh * (v.kh - 1) + 1)
    let iw := min ew ((tw - 1) * v.sw + v.dw * (v.kw - 1) + 1)
    ih * iw * rowBytes v.mode.fmtA v.cin + fuseBytes ih iw t
/-- A chain keeps R299: each node reads only the node before, all share one shape table, and the largest tile fits 4 MiB. -/
def chainOk (d : BitVec 512) (l : List NodeRec) : Bool :=
  let vs := l.filterMap (fun r => match r.node with | .vision x => some (visDesc x, r) | _ => none)
  let opOf (p : VisDesc × NodeRec) (i : Nat) : Option Operand := p.2.ops[p.1.slots.getD i 255]?
  let ext := fuseExtents (visDesc d).maxH (visDesc d).maxW (vs.map (fun p => p.1))
  let outs := ext.getLast?.getD (0, 0)
  let th := min outs.1 (8 * db d 34 1)
  let tw := min outs.2 (8 * db d 35 1)
  let last := (vs.getLast?.map (fun p => th * tw * p.1.outPix p.1.maxShape)).getD 0
  vs.length == visFuse d + 1 && vs.all (fun p => p.1.op == 0x60 || p.1.op == 0x61) &&
  (vs.zip (vs.drop 1)).all (fun p => opOf p.1 3 == opOf p.2 0 && opOf p.1 4 == opOf p.2 4) &&
  decide (fuseBytes th tw ((vs.map (fun p => p.1)).zip ext).reverse + last ≤ 4 * 2 ^ 20)
/-- Every fused chain of a node list. -/
def chainsOk : List NodeRec → Bool
  | [] => true
  | r :: t =>
    (match r.node with
     | .vision d => visFuse d == 0 || chainOk d (r :: t.take (visFuse d))
     | _ => true) && chainsOk t

/-! Graphs and kernels (R57, R59, R60, R126, R232, R273). -/

def nodeOk (g : Graph) (r : NodeRec) : Bool :=
  (match r.node with
   | .mat n =>
      let m : ModeWord := ⟨n.mode⟩
      m.matrixOk && redLenOk n.k && n.q.ok m g.ceiling && tableFits m.fmtA m.expA m.tgtA n.tabA &&
      tableFits m.fmtB m.expB m.tgtB n.tabB
   | .vec n => (ModeWord.mk n.mode).wordOk && (ModeWord.mk n.mode).intOk (n.sB != 255) && n.q.ok ⟨n.mode⟩ g.ceiling
   | .red n => (ModeWord.mk n.mode).wordOk && (ModeWord.mk n.mode).intOk (n.op == .dot) && redLenOk n.n
   | .init n => (ModeWord.mk n.mode).wordOk
   | .attention d => attnOk d &&
      (match g.kv with
       | some k => !(attnDesc d).paged || ((attnDesc d).pageKib == k.pageKib && (attnDesc d).lpg == k.lpg)
       | none => true)
   | .cache d => kvDeclOk d
   | .scan d => scanOk d
   | .input d => inputOk d
   | .vision d => visionOk d r.ops g.pool g.ceiling
   | .sample _ | .kernel _ | .caravan _ | .output _ => true) &&
  r.ops.all (fun o => match o with
    | .weight _ .region => false
    | .tensor .cluster _ n => decide (n ≤ 6 * 2 ^ 20)
    | .tensor .region _ n => decide (n ≤ 16 * 2 ^ 20)
    | _ => true)
/-- The drift word a node's descriptor carries, and whether the node samples. -/
def NodeRec.driftOf (r : NodeRec) : Option (DriftWord × Bool) :=
  match r.node with
  | .mat n => some (⟨n.drift⟩, false)
  | .vec n => some (⟨n.drift⟩, false)
  | .red n => some (⟨n.drift⟩, false)
  | .sample n => some (⟨n.drift⟩, true)
  | .init n => some (⟨n.drift⟩, false)
  | .attention d => some (⟨(attnDesc d).drift⟩, false)
  | .vision d => some ((visDesc d).drift, false)
  | .kernel n => some (⟨n.drift⟩, false)
  | _ => none
/-- A graph, against the pools and planes that it may name and the kernels there are. -/
def graphOk (pools : List PoolRec) (planes : List PlaneRec) (kernels : List Nat) (g : Graph) : Bool :=
  pools.any (fun p => p.kind == g.pool && p.mask != 0) &&
  (!g.ticked || (planes.any (fun p => p.plane == g.plane && p.en) &&
    pools.any (fun p => decide (0 < p.shares.getD (budgetOf g) 0)))) &&
  decide (1 ≤ g.costs.length ∧ g.costs.length ≤ 16) && g.kernels.all kernels.contains &&
  g.nodes.all (nodeOk g) && chainsOk g.nodes &&
  (g.nodes.filter (fun r => match r.node with | .input _ => true | _ => false)).length == 1 &&
  decide ((g.nodes.filter (fun r => match r.node with | .cache _ => true | _ => false)).length ≤ 1) &&
  noDups (g.points.map QBlock.point) && decide ((g.points.filter QBlock.watch).length ≤ 8) &&
  noDups (g.nodes.flatMap (fun n => n.tensors.map (fun t => (t, (n.draws.map DriftWord.ofs).getD 0)))) &&
  g.nodes.all (fun r => match r.driftOf with | some (d, smp) => smp || d.tensor != 0xFFFF | none => true)
/-- Text, data and stack fit the local memory (R60). -/
def kernelOk (k : Kernel) : Bool := decide (k.text.length + k.data.length + k.stack ≤ 65536)
/-- The rules of R501 for one WEIGHTS section. -/
def weightsOk (l : List WeightRef) : Bool := l.all (fun w => decide (w.fmt ≤ 15)) && noDups (l.map (fun w => w.id))
/-- Calibration records (R312, Table 03-3). -/
def calibsOk (l : List Calib) : Bool :=
  l.all (fun c => decide (c.mic < 16) && decide (-32768 ≤ c.gain) && decide (c.gain ≤ 32767) && decide (-512 ≤ c.delay) &&
    decide (c.delay ≤ 512)) && noDups (l.map (fun c => c.mic))

/-! The structure (R56, R58). -/

/-- Rows of a die's carve-outs: the weights, then each pool. -/
def CarveRec.layout (c : CarveRec) (n : Nat) : List Nat := (c.weights :: (List.range 5).map (fun i => c.pools.getD i 0)).map (carveRows n)
/-- Rows of a channel that carve-outs may take: all, but for the staging area of die 0 (R71, R158). -/
def dieRows (d : Nat) : Nat := if d = 0 then 98304 - 512 else 98304
/-- R333 to R337 for one AUDIO record. -/
def audioOk (a : AudioRec) : Bool :=
  let c := a.cfg.toNat
  let fmt := bitsAt c 29 3
  let master := bitAt c 28
  let word := bitsAt c 3 5 + 1
  let bits := 8 * (bitsAt c 8 2 + 1)
  let div := bitsAt a.clk.toNat 0 12 * 65536 + bitsAt a.clk.toNat 16 16
  let steer := a.steer.toNat
  decide (a.port < 8) && bitsAt c 0 3 == 0 && !bitAt c 15 && !bitAt c 23 && !bitAt c 27 && bitsAt a.clk.toNat 12 4 == 0 &&
  bitsAt steer 16 16 == 0 && decide (fmt ≤ 5) && (decide (2 ≤ fmt) || bitsAt c 10 5 == 1) && decide (8 ≤ word ∧ word ≤ bits) &&
  bitsAt c 21 2 != 3 && bitsAt c 19 2 != 3 && (bitsAt c 21 2 == 0 || word == 8) && (bitsAt c 19 2 != 0 || bitsAt c 21 2 != 0) &&
  decide (2 ≤ bitsAt a.clk.toNat 0 12) && decide (2 ≤ bitsAt a.timing.toNat 24 8 ∧ bitsAt a.timing.toNat 24 8 ≤ 192) &&
  decide (4 ≤ bitsAt steer 6 4 ∧ bitsAt steer 6 4 ≤ 12) && (master || !bitAt steer 15) &&
  (!master || decide ((if a.audFreq then 45158400 else 49152000) * 65536 ≤ 24576000 * div))
/-- R336 and R350 for the records together. -/
def audiosOk (l : List AudioRec) : Bool :=
  let lead (a : AudioRec) : Nat := bitsAt a.cfg.toNat 24 3
  let shape (a : AudioRec) : Nat × Nat × Nat := (bitsAt a.cfg.toNat 29 3, bitsAt a.cfg.toNat 10 5, bitsAt a.cfg.toNat 8 2)
  l.all audioOk && noDups (l.map (fun a => a.port)) && decide (l.length ≤ 8) &&
  l.all (fun a => l.all (fun b => a.audSrc == b.audSrc && a.audFreq == b.audFreq)) &&
  l.all (fun a => decide ((l.filter (fun b => lead b == lead a)).length ≤ 4) &&
    l.any (fun b => b.port == lead a && lead b == lead a && shape b == shape a))
/-- R307 and R309 for one array. -/
def arrayOk (a : ArrayCfg) : Bool :=
  decide (a.mics < 65536) && (List.range 8).all (fun i => bitAt a.mics (2 * i) == bitAt a.mics (2 * i + 1)) &&
  decide (a.pdmRate ≤ 2) && decide (a.mode ≤ 2) &&
  (a.mics == 0 || (!(a.attendOk && a.pdmRate == 2) && !(a.hq48k && a.pdmRate != 0) && decide (a.listenMic < 16) &&
    bitAt a.mics a.listenMic && (a.mode != 2 || a.attendOk)))
def arraysOk (m : AMap ArrayCfg) : Bool :=
  m.all (fun x => decide (x.1 < 4) && arrayOk x.2) &&
  (List.range 16).all (fun i => decide ((m.filter (fun x => bitAt x.2.mics i)).length ≤ 1))
/-- The ranges of Table 16-3. -/
def prioOk (p : PrioRec) : Bool :=
  decide (p.gateDelay ≤ 4095) && decide (1 ≤ p.ageStep ∧ p.ageStep ≤ 4095) && decide (10 ≤ p.ceil ∧ p.ceil ≤ 100) && decide (p.borrow ≤ 32)
/-- The XBAR record of R160. -/
def xbarOk (l : List Word) : Bool :=
  let nib (n : Nat) (w : Word) : Bool := (List.range n).all (fun i => bitsAt w.toNat (4 * i) 4 != 0) && bitsAt w.toNat (4 * n) (32 - 4 * n) == 0
  l.isEmpty || (l.length == 144 && (l.take 16).all (nib 7) && (l.drop 16).all (nib 5))
/-- R56 and R58 with the rules of the chapters, by the number of enabled channels of each die. -/
def structOk (channels : Nat → Nat) (t : Structure) : Bool :=
  let fitsPool (p : PoolRec) : Bool :=
    decide (p.kind < 5) && decide (p.mask < 2 ^ 96) && p.shares.length == 8 && decide (sumMap (fun x => x) p.shares ≤ 64) &&
    (List.range 8).all (fun b => p.shares.getD b 0 == 0 || t.planes.any (fun r => r.plane == b / 2 && r.en))
  t.pools.all fitsPool && noDups (t.pools.map (fun p => p.kind)) &&
  (List.range 96).all (fun cl => decide ((t.pools.filter (fun p => p.has cl)).length ≤ 1)) &&
  t.planes.all PlaneRec.legal && noDups (t.planes.map (fun p => p.plane)) &&
  t.split.length == 3 && t.split.all (fun x => decide (1 ≤ x)) && sumMap (fun x => x) t.split == 16 &&
  t.carves.all (fun c => decide (c.die < 4) && c.pools.length == 5 &&
    decide (sumMap (fun x => x) (c.layout (channels c.die)) ≤ dieRows c.die)) && noDups (t.carves.map (fun c => c.die)) &&
  xbarOk t.xbar && prioOk t.prio && audiosOk t.audio && arraysOk t.arrays && calibsOk t.calibs

/-! The header and the section table (R53 to R55). -/

/-- Bytes of a list as a number. -/
def le (b : List Byte) (at_ n : Nat) : Nat := leVal ((b.drop at_).take n)
/-- Step 2 of R64: the reason of the first header check that fails; 0 for none. -/
def headerReason (b : List Byte) (len : Nat) : Nat :=
  let magic : List Byte := [0x53, 0x41, 0x4E, 0x44, 0x50, 0x4C, 0x41, 0x4E]
  if b.take 8 ≠ magic ∨ le b 8 4 ≠ 0x10000 ∨ 1 < le b 12 4 ∨ le b 16 4 ≠ len ∨ 268435456 < len ∨ len % 64 ≠ 0 ∨ len < 256 then 1
  else if le b 32 4 ≠ 0x48582448 ∨ 0xA1 < le b 36 4 then 2
  else if le b 44 20 ≠ 0 ∨ 32 ≤ le b 40 4 ∨ (le b 12 4 = 0 ∧ (le b 40 4 ≠ 0 ∨ le b 64 64 ≠ 0)) then 1
  else 0
/-- A section-table entry: type, offset and length. -/
structure Section where
  type : Nat
  ofs : Nat
  len : Nat
  deriving DecidableEq, Repr
def sections (b : List Byte) : List Section :=
  (List.range (le b 20 4)).map (fun i => ⟨le b (128 + 16 * i) 4, le b (132 + 16 * i) 4, le b (136 + 16 * i) 4⟩)
/-- Two ranges, each by start and length, share a byte. -/
def overlap (a b : Nat × Nat) : Bool := a.2 != 0 && b.2 != 0 && decide (a.1 < b.1 + b.2) && decide (b.1 < a.1 + a.2)
def pairwiseApart : List (Nat × Nat) → Bool
  | [] => true
  | a :: t => !t.any (overlap a) && pairwiseApart t
/-- The section table keeps R53 and R55. The spec names no reason for an entry count outside 1 to 64, for reserved bytes of
an entry that are not zero or for a second CALIB section: each is refused with BAD_SECTIONS (DESIGN CHOICE, log 7). -/
def sectionsOk (b : List Byte) : Bool :=
  let n := le b 20 4
  let len := le b 16 4
  let count (l : List Section) (t : Nat) : Nat := (l.filter (fun x => x.type == t)).length
  decide (1 ≤ n ∧ n ≤ 64 ∧ 128 + 16 * n ≤ len - 128) &&
  (let l := sections b
   l.all (fun x => decide (1 ≤ x.type ∧ x.type ≤ 5) && x.ofs % 4096 == 0 && decide (x.ofs + x.len ≤ len)) &&
   (List.range n).all (fun i => le b (140 + 16 * i) 4 == 0) &&
   pairwiseApart ((0, 128 + 16 * n) :: (len - 128, 128) :: l.map (fun x => (x.ofs, x.len))) &&
   count l 1 == (if le b 12 4 = 0 then 1 else 0) && decide (count l 4 ≤ 1) && decide (count l 5 ≤ 1))
/-- The WEIGHTS section: entries of 80 bytes. -/
def parseRefs (b : List Byte) : List WeightRef :=
  (sections b).flatMap (fun x => if x.type ≠ 4 then [] else
    (List.range (x.len / 80)).map (fun i =>
      let o := x.ofs + 80 * i
      { id := le b o 4, fmt := le b (o + 4) 4, size := le b (o + 8) 8, digest := (b.drop (o + 16)).take 64 }))
/-- Up to 4,096 whole entries; the spec names no reason for another length, and the image is refused with STRUCT_INVALID
(DESIGN CHOICE, log 7). -/
def refsFit (b : List Byte) : Bool :=
  (sections b).all (fun x => x.type != 4 || (x.len % 80 == 0 && decide (x.len / 80 ≤ 4096)))

/-! The sections' bytes (R56, R59, R60, R160, R367). -/

/-- The bytes of the sections of a type, in table order. -/
def secBytes (b : List Byte) (type : Nat) : List (List Byte) :=
  ((sections b).filter (fun x => x.type == type)).map (fun x => (b.drop x.ofs).take x.len)
/-- The records of a section, each by type with its bytes, head included: heads whose length is a multiple of 4, at least 4
and within the section. None where a head breaks that. The first argument bounds the count. -/
def parseRecords : Nat → List Byte → Option (List (Nat × List Byte))
  | _, [] => some []
  | 0, _ :: _ => none
  | n + 1, b =>
    let len := le b 0 2
    if len < 4 ∨ len % 4 ≠ 0 ∨ b.length < len then none
    else (parseRecords n (b.drop len)).map (fun l => (le b 2 2, b.take len) :: l)
def recordsOf (b : List Byte) : Option (List (Nat × List Byte)) := parseRecords (b.length / 4 + 1) b
/-- How often each record type of Table 03-3 may stand, from type 1 on. -/
def recordLimits : List Nat := [5, 4, 1, 1, 1, 4, 8, 1, 16]
def recCount (l : List (Nat × List Byte)) (type : Nat) : Nat := (l.filter (fun r => r.1 == type)).length
/-- The one record of a type, where it stands. -/
def oneRecord (l : List (Nat × List Byte)) (type : Nat) : Option (List Byte) := (l.find? (fun r => r.1 == type)).map (fun r => r.2)
/-- The PRIORITY record of Table 16-3: its length, and its reserved bits are zero (R367). -/
def prioBytesOk (r : List Byte) : Bool :=
  r.length == 16 && bitsAt (le r 4 4) 24 8 == 0 && bitsAt (le r 8 4) 7 25 == 0 && bitsAt (le r 12 4) 6 26 == 0
def readPrio (r : List Byte) : PrioRec :=
  { gateDelay := bitsAt (le r 4 4) 12 12, ageStep := bitsAt (le r 4 4) 0 12, ceil := bitsAt (le r 8 4) 0 7, borrow := bitsAt (le r 12 4) 0 6 }
/-- The 144 words of the XBAR record (R160). -/
def readXbar (r : List Byte) : List Word := (List.range 144).map (fun i => BitVec.ofNat 32 (le r (4 + 4 * i) 4))
/-- The records of a STRUCTURE section keep R56: known types, no type too often, and the lengths that chapters give. An
unknown type or a broken head is out of range like a field (DESIGN CHOICE, log 7). -/
def recordsOk (l : List (Nat × List Byte)) : Bool :=
  l.all (fun r => decide (1 ≤ r.1 ∧ r.1 ≤ 9)) &&
  recordLimits.zipIdx.all (fun x => decide (recCount l (x.2 + 1) ≤ x.1)) &&
  (match oneRecord l 3 with | some r => r.length == 580 | none => true) &&
  (match oneRecord l 5 with | some r => prioBytesOk r | none => true)
/-- The typed structure as the records give it: what R160 and Table 16-3 lay out is read from the bytes, and a record that
is absent takes its default (R56). -/
def Structure.fromRecords (t : Structure) (l : List (Nat × List Byte)) : Structure :=
  { t with
    xbar := match oneRecord l 3 with | some r => readXbar r | none => []
    prio := match oneRecord l 5 with | some r => readPrio r | none => {}
    split := if recCount l 4 = 0 then [8, 5, 3] else t.split
    arrays := if recCount l 8 = 0 then [] else t.arrays }
/-- The typed structure has as many of each repeated record as the bytes. -/
def Structure.counts (t : Structure) (l : List (Nat × List Byte)) : Bool :=
  recCount l 1 == t.pools.length && recCount l 2 == t.planes.length && recCount l 6 == t.carves.length &&
  recCount l 7 == t.audio.length && recCount l 9 == t.calibs.length
/-- A CALIB section's records are CALIB records (Table 03-2). -/
def calibOnly (b : List Byte) : Bool :=
  (secBytes b 5).all (fun c => match recordsOf c with | some l => l.all (fun r => r.1 == 9) | none => true)
def calibsRead (b : List Byte) : Bool := (secBytes b 5).all (fun c => (recordsOf c).isSome)
/-- A graph is what a GRAPH section's bytes say, as far as the spec lays them out: identifier, pool, binding and node count
in the head's order (DEDUCED, log 7), the cost table behind the 64-byte head, and the 64-byte descriptors behind it. -/
def Graph.reads (g : Graph) (b : List Byte) : Bool :=
  let at_ := 64 + 16 * g.costs.length
  le b 0 2 == g.id && le b 2 1 == g.pool &&
  le b 3 1 == g.plane + 4 * b2n g.frame + 8 * b2n (!g.ticked) && le b 4 2 == g.nodes.length &&
  decide (at_ + 64 * g.nodes.length ≤ b.length) &&
  g.costs.zipIdx.all (fun c => le b (64 + 16 * c.2) 4 == c.1.bound && le b (68 + 16 * c.2) 4 == c.1.cycles &&
    le b (72 + 16 * c.2) 4 == c.1.pages) &&
  g.descBytes == (b.drop at_).take (64 * g.nodes.length) &&
  g.nodes.zipIdx.all (fun n =>
    let d := le b (at_ + 64 * n.2) 64
    match n.1.node with
    | .attention x => d == x.toNat
    | .cache x => d == x.toNat
    | .scan x => d == x.toNat
    | .input x => d == x.toNat
    | .vision x => d == x.toNat
    | _ => true)
/-- A kernel is what a KERNEL section's bytes say: it begins with the identifier and ends with code and data (R60). -/
def Kernel.reads (k : Kernel) (b : List Byte) : Bool :=
  let n := k.text.length + k.data.length
  le b 0 2 == k.id && decide (2 + n ≤ b.length) && (b.drop (b.length - n)) == k.text ++ k.data
/-- The typed content is a reading of the signed bytes: each graph, kernel, structure record and calibration record of one
stands in the other. -/
def Image.reads (img : Image) (b : List Byte) : Bool :=
  let gs := secBytes b 2
  let ks := secBytes b 3
  img.graphs.length == gs.length && (img.graphs.zip gs).all (fun x => x.1.reads x.2) &&
  img.kernels.length == ks.length && (img.kernels.zip ks).all (fun x => x.1.reads x.2) &&
  (match secBytes b 1, img.structureSec with
   | [], none => true
   | r :: _, some t => (match recordsOf r with | some l => t.counts l | none => true)
   | _, _ => false) &&
  ((secBytes b 5).flatMap (fun c => ((recordsOf c).getD []).filter (fun r => r.1 == 9))).length == img.calibs.length

end Sys2Proof.Machine
end

