-- ==== Sys2Proof/Machine/CmdImage.lean ====
section
/-!
DEFINITION. Loading Sandplan images (R62 to R71): the load and its checks, a full image's effect, the drain and switch of
a pool image; and weight loads (R61, R174).
-/

namespace Sys2Proof.Machine

/-! Where weights lie (R61, R159). -/

/-- The runs of frames of a weight of `n` bytes at an address, channel by channel: first frame and length. Its frames are
those of the enabled channels, in address order (R155, R177). -/
def State.weightRuns (s : State) (addr n : Nat) : List (Nat × Nat) :=
  let d := addr / 0x1000000000
  let l := s.liveChannels d
  let c := l.length
  let i := s.livePlace (frameOf addr)
  let m := (n + 16383) / 16384
  let run (x : Nat × Nat) : Nat × Nat :=
    let r0 := (i + (c - 1 - x.2)) / max 1 c
    (d * 2 ^ 22 + x.1 * 2 ^ 17 + r0, (i + m + (c - 1 - x.2)) / max 1 c - r0)
  (l.zipIdx.map run).filter (fun r => r.2 != 0)
def takeRuns (s : State) : List (Nat × Nat) → State
  | [] => s
  | (f, n) :: t => takeRuns (s.takeRun f n) t
def freeRuns (pooled : Bool) (s : State) : List (Nat × Nat) → State
  | [] => s
  | (f, n) :: t => freeRuns pooled (if pooled then s.freeRun f n else s.retireRun f n) t
/-- A weight's frames return to where they came from, or retire (R61, R173). -/
def State.freeWeight (s : State) (w : Weight) : State :=
  if w.present then freeRuns w.pooled s (s.weightRuns w.addr w.ref.size) else s
/-- No frame of a run is out of use. -/
def State.runSound (s : State) (f n : Nat) : Bool :=
  !s.retired.any (fun g => decide (f ≤ g) && decide (g < f + n)) &&
  ((s.rn (Reg.DMEM_BANKRETi (bitsAt f 22 2) (2 * bitsAt f 17 5)) == 0 && s.rn (Reg.DMEM_BANKRETi (bitsAt f 22 2) (2 * bitsAt f 17 5 + 1)) == 0) ||
   (List.range n).all (fun i => !s.bankRetired (f + i)))
/-- The places of a die, among the frames of its enabled channels, where a search for room begins: the start, and behind
each thing in the way. -/
def State.spotsOn (s : State) (d : Nat) : List Nat :=
  0 :: (s.weights.filter (fun w => w.present && w.addr / 0x1000000000 == d)).map
      (fun w => s.livePlace (frameOf w.addr) + (w.ref.size + 16383) / 16384)
    ++ (s.pools.filter (fun p => p.die == d)).flatMap (fun p => p.used.map (fun r => s.livePlace (r.1 + r.2 - 1) + 1))
    ++ (s.retired.filter (fun f => bitsAt f 22 2 == d)).map (fun f => s.livePlace f + 1)
    ++ ((List.range 64).filter (fun i => s.rn (Reg.DMEM_BANKRETi d i) != 0)).flatMap (fun i =>
        (((List.range 32).filter (fun k => s.rbit (Reg.DMEM_BANKRETi d i) k)).map (fun k => 32 * i + k)).flatMap (fun b =>
          (List.range 1536).map (fun k => s.livePlace (d * 2 ^ 22 + b / 64 * 2 ^ 17 + (b % 64 / 16 * 24576 + k * 16 + b % 16)) + 1)))
/-- Two runs of frames share one. -/
def runsMeet (a b : Nat × Nat) : Bool := decide (a.1 < b.1 + b.2) && decide (b.1 < a.1 + a.2)
/-- The first address on a die at which a weight of `n` bytes fits, and whether a page pool's frames hold it. -/
def State.weightSpot (s : State) (d n : Nat) : Option (Nat × Bool) :=
  let carve := s.structure_.carves.find? (fun c => c.die == d)
  let rows := match carve with
    | some c => carveRows (s.channels d) c.weights
    | none => dieRows d
  let m := (n + 16383) / 16384
  let held := (s.weights.filter (fun w => w.present)).flatMap (fun w => s.weightRuns w.addr w.ref.size)
  let ok (i : Nat) : Bool :=
    decide (i + m ≤ rows * s.channels d) && (s.weightRuns (frameAddr (s.liveFrame d i)) n).all (fun r =>
      !held.any (runsMeet r) && s.runSound r.1 r.2 && s.pools.all (fun p => !(p.holds r.1 && p.meets r.1 r.2)))
  let best := ((s.spotsOn d).filter ok).foldl (fun (b : Option Nat) i => match b with | some j => some (min i j) | none => some i) none
  best.map (fun i => (frameAddr (s.liveFrame d i), carve.isNone))
/-- The dies that run a graph with the weight; every die for a weight that no graph names. -/
def State.weightDies (s : State) (id : Nat) : List Nat :=
  let g := s.structure_.graphs.filter (fun g => g.weightIds.contains id)
  let on (d : Nat) : Bool := (List.range 24).any (fun c => g.any (fun x => s.clPool (24 * d + c) == x.pool))
  if g.isEmpty then List.range 4 else (List.range 4).filter on
def State.setWeight (s : State) (w : Weight) : State :=
  { s with weights := s.weights.map (fun x => if x.ref.id = w.ref.id then w else x) }
/-- A weight load's bytes are checked and placed, and an earlier copy is freed (R61, R174). -/
def State.actWeightLoad (s : State) (f q : Nat) (d : BitVec 512) : State :=
  match s.weight (db d 8 4), f with
  | some w, 0 =>
    let r := s.readData s.oasisReader (db d 16 8) w.ref.size
    if r.failed then r.st.endCmd f q d 6 0
    else if sha512 r.bytes ≠ w.ref.digest then r.st.endCmd f q d 8 0
    else match (r.st.weightDies w.ref.id).findSome? (fun e => r.st.weightSpot e w.ref.size) with
      | none => r.st.endCmd f q d 4 0
      | some (a, pooled) =>
        let s1 := if pooled then takeRuns r.st (r.st.weightRuns a w.ref.size) else r.st
        let s2 := s1.writeRuns s1.oasisReader (s1.weightPieces a 0 w.ref.size) r.bytes
        let v : Weight := { w with present := true, damaged := false, addr := a, pooled := pooled }
        let s3 := refreshWeights v (s2.setWeight v) allClusters
        (s3.freeWeight ((s2.weight w.ref.id).getD w)).endCmd f q d 0 0
  | _, _ => s.endCmd f q d 8 0
/-- WEIGHT_LOAD (R61, R174). -/
def execWeightLoad (fn sq : Fin 64) (desc : BitVec 512) (s : State) : Host.Outcome State Fault Refusal :=
  .next (s.live (fun t => t.command 0x10 fn sq desc (fun u => u.actWeightLoad fn sq desc)))

/-! The load (R64, R65, R70). -/

def State.splState (s : State) : Nat := s.fld Reg.SPL_STATUS 8 3
def State.setSplState (s : State) (v : Nat) : State := s.setFld Reg.SPL_STATUS 8 3 v
/-- SPL_POOL_STATE of a pool that does not drain. -/
def Structure.poolState (t : Structure) (p : Nat) : Nat := b2n (t.pools.any (fun r => r.kind == p && r.mask != 0))
def State.showPools (s : State) (drain : Nat) : State :=
  s.setN Reg.SPL_POOL_STATE (sumMap (fun p => (if bitAt drain p ∧ s.structure_.poolState p = 1 then 2 else s.structure_.poolState p) * 4 ^ p)
    (List.range 5))
/-- A load ends with its result and reason; DONE is raised. -/
def State.endLoad (s : State) (result reason : Nat) : State :=
  match s.load with
  | none => s
  | some l =>
    let s1 := { s with load := none }.setSplState (if result = 0 then 5 else l.before)
    (((s1.setFld Reg.SPL_STATUS 28 4 result).setFld Reg.SPL_STATUS 16 8 reason).showPools 0).raise Reg.SPL_INT_STATUS 0
/-- Where a load's image lies. -/
def Load.addr (l : Load) : Nat := if l.dev then l.src else hostWindow + l.src
/-- Reads the image's first `n` bytes; else the reason of the failure (R65). A device-local source outside every address
range ends FAULTED with FETCH_FAULT, which the spec gives for host reads only (DESIGN CHOICE, log 7). -/
def State.readImage (s : State) (l : Load) (n : Nat) : Nat × List Byte × State :=
  let r := s.readData s.oasisReader l.addr n
  if r.failed then (14, [], r.st) else if r.zeroed ≠ 0 then (15, [], r.st) else (0, r.bytes, r.st)
/-- GO: steps 1 and 2 of R64. -/
def State.startLoad (s : State) : State :=
  if s.load.isSome || s.splState == 0 then s.raise Reg.SPL_INT_STATUS 1
  else
    let l : Load := { src := s.pair Reg.SPL_SRC_LO, dev := s.rbit Reg.SPL_CTRL 2, len := s.fld Reg.SPL_LEN 0 29, before := s.splState }
    let s1 := { s with load := some l }.setSplState 2
    let (why, b, s2) := s1.readImage l 128
    if why ≠ 0 then s2.endLoad 6 why
    else if headerReason b l.len ≠ 0 then s2.endLoad 8 (headerReason b l.len)
    else { s2 with load := some { l with pool := le b 12 4 == 1, mask := le b 40 4, serial := BitVec.ofNat 64 (le b 24 8) } }
/-- A write of SPL_CTRL. -/
def State.writeSplCtrl (s : State) (v : Nat) : State :=
  let s1 := s.setN Reg.SPL_CTRL (bitsAt v 1 2 * 2)
  let s2 := if bitAt v 3 ∧ s1.splState = 4 then s1.endLoad 8 13 else s1
  if bitAt v 0 then s2.startLoad else s2
/-- SPL_GO (R64, R70). -/
def execSplGo (v : Word) (s : State) : Host.Outcome State Fault Refusal := .next (s.live (fun t => t.writeSplCtrl v.toNat))
/-- SPL_ABORT (R68). -/
def execSplAbort (v : Word) (s : State) : Host.Outcome State Fault Refusal := .next (s.live (fun t => t.writeSplCtrl v.toNat))

/-! Streams that a full image closes (R66). -/

/-- Steps that a queue still holds, in steps of `ps` positions. -/
def stepsIn (ps : Nat) : Nat → List Chunk → Nat
  | n, [] => n / max 1 ps
  | n, c :: t => if c.ended then (n + c.pos + ps - 1) / max 1 ps + stepsIn ps 0 t else stepsIn ps (n + c.pos) t
/-- Steps complete FAULTED without having run. -/
def failSteps (h : Nat) : Nat → State → State
  | 0, s => s
  | n + 1, s => failSteps h n ((s.modStrm h (fun x => { x with steps := x.steps + 1 })).stepEntry h 6 0)
/-- A stream is closed by the part: its pending and queued steps complete FAULTED, an export of it ends FAULTED, and an import
that waits for pages opens nothing. -/
def State.killStream (s : State) (h : Nat) : State :=
  let x := s.strm h
  match x.import_ with
  | some (f, q, d) => s.undoImport h f q d 4
  | none =>
    let s1 := match x.export_ with | some (f, q, d) => s.endCmd f q d 6 0 | none => s
    (failSteps h (b2n x.step.isSome + stepsIn (s.inputOf h).posStep 0 x.queue) s1).removeStream h
def killAll (s : State) : List Nat → State
  | [] => s
  | h :: t => killAll (s.killStream h) t
/-- Some stream is open, swapped out or paused. -/
def State.anyOpen (s : State) : Bool := s.streams.any (fun e => e.2.st != .closed && e.2.import_.isNone)

/-! A full image's effect (R33, R34, R36, R63, R66, R159, R331, R351, R368). -/

/-- The page pools of a die, in order (R159). -/
def diePools (n d : Nat) (c : Option CarveRec) : List PagePool :=
  match c with
  | none => [{ die := d, pool := 5, row0 := 0, rows := dieRows d }]
  | some c =>
    let l := c.layout n
    ((List.range 5).map (fun i => ({ die := d, pool := i, row0 := sumMap (fun x => x) (l.take (i + 1)), rows := l.getD (i + 1) 0 } : PagePool))).filter
      (fun p => p.rows != 0)
/-- DMEM_HOST of a die: what lies behind its carve-outs (R159). -/
def State.showHostArea (s : State) (d : Nat) : State :=
  match s.structure_.carves.find? (fun c => c.die == d) with
  | none => (s.setPair (Reg.DMEM_HOST_BASE_LO d) 0).setPair (Reg.DMEM_HOST_SIZE_LO d) 0
  | some c =>
    let n := sumMap (fun x => x) (c.layout (s.channels d))
    let size := (dieRows d - n) * s.channels d * 16384
    (s.setPair (Reg.DMEM_HOST_BASE_LO d) (if size = 0 then 0 else dramBase d + n * 0x80000)).setPair (Reg.DMEM_HOST_SIZE_LO d) size
def takeWeights (s : State) : List Weight → State
  | [] => s
  | w :: t =>
    let l := (s.weightRuns w.addr w.ref.size).filter (fun r => s.pools.any (fun p => p.holds r.1))
    let s1 := if w.present then (takeRuns s l).setWeight { w with pooled := !l.isEmpty } else s
    takeWeights s1 t
def showHostAreas (s : State) : List Nat → State
  | [] => s
  | d :: t => showHostAreas (s.showHostArea d) t
/-- KVP_LOWi takes KVP_FREEi. -/
def resetLows (s : State) : List (Nat × Nat) → State
  | [] => s
  | (d, i) :: t => resetLows (s.setN (Reg.KVP_LOWi d i) (s.kvpFree d i)) t
/-- The page pools that the structure gives; weights in them hold their frames. -/
def State.makePools (s : State) : State :=
  let s1 : State := { s with pools := (List.range 4).flatMap (fun d => diePools (s.channels d) d (s.structure_.carves.find? (fun c => c.die == d))) }
  resetLows (showHostAreas (takeWeights s1 s1.weights) (List.range 4)) ((List.range 4).flatMap (fun d => (List.range 5).map (fun i => (d, i))))
/-- The references of a full image: one whose digest has bytes in place keeps them. Gives the weights and those left over. -/
def keepWeights : List WeightRef → List Weight → List Weight × List Weight
  | [], old => ([], old)
  | r :: t, old =>
    match old.find? (fun w => w.present && w.ref.digest == r.digest && w.ref.size == r.size) with
    | some w =>
      let (l, rest) := keepWeights t (old.erase w)
      ({ w with ref := r } :: l, rest)
    | none =>
      let (l, rest) := keepWeights t old
      ({ ref := r } :: l, rest)
def freeWeights (s : State) : List Weight → State
  | [] => s
  | w :: t => freeWeights (s.freeWeight w) t
/-- Frames due for retirement that nothing holds any longer retire (R173). -/
def retireFree (s : State) : List Nat → State
  | [] => s
  | f :: t => retireFree (if s.frameHeld f then s else s.retireIfDue f) t
def State.dueFrames (s : State) : List Nat := s.retireDue ++ s.cisterns.flatMap (fun e => e.2.bad.map frameOf)
/-- Tick plane p from its record (R33, R34), with its counters cleared. -/
def State.makePlane (s : State) (p : Nat) : State :=
  let r := s.structure_.planes.find? (fun r => r.plane == p)
  let cfg := match r with
    | some r => b2n r.en + r.grain * 2 + r.frame * 16 + r.late * 64 + grainsPerFrame r.grain r.frame * 2 ^ 16
    | none => 4 * 64
  let s1 := s.setPlane p (match r with | some r => if r.en then some (planeAt r s.tb.toNat) else none | none => none)
  ((s1.setN (Reg.TCK_PLp_CFG p) cfg).setBit Reg.TCK_STATUS (8 + p) false).zeroRegs (wordsFrom (Reg.TCK_PLp_MISS_LO p) (Reg.TCK_PLp_SKIP_HI p))
def makePlanes (s : State) : List Nat → State
  | [] => s
  | p :: t => makePlanes (s.makePlane p) t
/-- The capacity of budget b with a share (R36). -/
def Structure.capacity (t : Structure) (share b : Nat) : Nat :=
  match t.planes.find? (fun r => r.plane == b / 2 && r.en) with
  | none => 0
  | some r => if b % 2 = 0 then share * 1500000000 / (64 * grainRate r.grain) else share * 15000000000 / (64 * framesPer10s r.frame)
def makeBudget (cl : Nat) (sh : List Nat) (s : State) : List Nat → State
  | [] => s
  | b :: t => makeBudget cl sh ((s.setN (Reg.TBG_CAP cl b) (s.structure_.capacity (sh.getD b 0) b)).setN (Reg.TBG_RES cl b) 0) t
/-- A cluster's budgets: its pool's shares, and nothing reserved. -/
def State.makeShares (s : State) (cl : Nat) : State :=
  let sh := ((s.structure_.pools.find? (fun p => p.has cl)).map (fun p => p.shares)).getD []
  let word (i : Nat) : Nat := sh.getD i 0 + sh.getD (i + 1) 0 * 2 ^ 8 + sh.getD (i + 2) 0 * 2 ^ 16 + sh.getD (i + 3) 0 * 2 ^ 24
  ((makeBudget cl sh s (List.range 8)).setN (Reg.TBG_SHARE0 cl) (word 0)).setN (Reg.TBG_SHARE1 cl) (word 4)
def makeAllShares (s : State) : List Nat → State
  | [] => s
  | cl :: t => makeAllShares (s.makeShares cl) t
/-- The clusters of an awake region follow the pools (R57). -/
def gateByPool (s : State) : List Nat → State
  | [] => s
  | cl :: t => gateByPool (if s.clPool cl = 7 then (if s.gated cl then s else s.gateCluster cl)
      else if s.gated cl then s.setGate cl 0 else s) t
/-- A region of the pools is awake, and any other is gated (R57, R368). A die in Night is left as it is. -/
def State.makeRegion (s : State) (j : Nat) : State :=
  let need := (regionClusters j).any (fun cl => s.clPool cl != 7)
  let up := s.rbit Reg.PLC_AWAKE j
  if (s.die (j / 4)).night then s
  else if need then (if up then gateByPool s (regionClusters j) else s.regionUp j)
  else if up || s.place.waking.contains j then s.regionDown j else s
def makeRegions (s : State) : List Nat → State
  | [] => s
  | j :: t => makeRegions (s.makeRegion j) t
/-- PLC_POLICY and READY (Tables 16-5, 16-6). -/
def State.showPolicy (s : State) : State :=
  let p := s.structure_.prio
  let pl := (List.range 4).find? (fun i => (s.plane i).isSome)
  let s1 := (s.setN Reg.PLC_POLICY0 (p.ageStep + p.gateDelay * 2 ^ 12 + p.ceil * 2 ^ 24)).setN Reg.PLC_POLICY1
    (p.borrow + (match pl with | some i => i * 2 ^ 8 | none => 2 ^ 10))
  s1.setBit Reg.PLC_STATUS 0 true
/-- CAR_SPLIT of every engine: 0 while no image stands (Table 09-8). -/
def showSplit (s : State) : List Nat → State
  | [] => s
  | e :: t =>
    let l := s.structure_.split
    showSplit (s.setN (Reg.CAR_SPLIT e) (if s.structure_.pools = [] then 0 else l.getD 0 0 + l.getD 1 0 * 2 ^ 4 + l.getD 2 0 * 2 ^ 8 + s.structure_.prio.borrow * 2 ^ 12)) t
/-- Ports whose record differs from an earlier structure's take the new one (R351). -/
def changePorts (old : List AudioRec) (s : State) : List Nat → State
  | [] => s
  | n :: t =>
    changePorts old (if old.find? (fun r => r.port == n) = s.structure_.audio.find? (fun r => r.port == n) then s else s.changePort n) t
/-- SAP_AUD_CFG, from the record with the lowest port number (R336). -/
def State.showAudCfg (s : State) : State :=
  match (List.range 8).findSome? (fun n => s.structure_.audio.find? (fun r => r.port == n)) with
  | some r => s.setN Reg.SAP_AUD_CFG (b2n r.audSrc + 2 * b2n r.audFreq)
  | none => s.setN Reg.SAP_AUD_CFG 0
/-- An array's settings; one that changes starts from OFF, and the mode of the record is requested (R331). -/
def State.makeArray (s : State) (a : Nat) : State :=
  let c := AMap.read (fun _ => {}) s.structure_.arrays a
  let cfg := if c.mics = 0 then 0 else
    c.mics * 2 ^ 16 + c.listenMic * 16 + b2n c.attendOk * 8 + b2n c.hq48k * 4 + c.pdmRate
  let s1 := if s.rn (Reg.ACF_Aa_CFG a) = cfg then s
    else (((s.putArr a {}).setFld Reg.ACF_MODE (2 * a) 2 0).setN (Reg.ACF_Aa_CFG a) cfg).updateOn (16384 + a)
  s1.requestMode a c.mode
def makeArrays (s : State) : List Nat → State
  | [] => s
  | a :: t => makeArrays (s.makeArray a) t
/-- Calibration records that change something: they differ from the change that waits for the microphone's frame boundary,
or from the values in force where none waits (R312, R313, R70). -/
def State.newCals (s : State) (l : List Calib) : List Calib :=
  l.filter (fun c => match s.casc.calibPend.find? (fun p => p.mic == c.mic) with
    | some p => p.gain != c.gain || p.delay != c.delay
    | none => s.calGain c.mic != c.gain || s.calDelay c.mic != c.delay)
/-- The calibration of a full image: gain 1.0 and delay 0 where it has no record. -/
def Structure.allCals (t : Structure) : List Calib :=
  (List.range 16).map (fun m => (t.calibs.find? (fun c => c.mic == m)).getD { mic := m })
/-- The old structure goes: streams, Crest instances, pending admissions, placement. -/
def State.clearStructure (s : State) : State :=
  let s0 := if s.anyOpen then s.flushTaps (fun _ => true) else s
  let s1 := abandonCrests s0 s0.allChans
  let s2 := failPends (fun _ => true) s1 s1.place.pend
  let s3 := (killAll s2 (s2.streams.map (fun e => e.1))).afterGone
  let p := s3.place
  let s4 : State := { s3 with place := { p with items := [], pend := [], crests := [], idle := [] } }
  s4.showPreempting.setN Reg.KVC_REC_FREE (s4.fld Reg.KVC_REC_COUNT 0 23)
/-- A full image is in force. -/
def State.applyFull (s : State) (l : Load) (t : Structure) : State :=
  let s0 := s.clearStructure
  let (ws, rest) := keepWeights l.refs s0.weights
  let s1 := freeWeights s0 rest
  let fresh := s1.pools.isEmpty || s1.structure_.carves != t.carves
  let old := s1.structure_.audio
  let s2 : State := { s1 with structure_ := t, weights := ws }
  let s3 := if fresh then s2.makePools else s2
  let s4 := retireFree s3 s3.dueFrames
  let s5 := makeRegions (makeAllShares (makePlanes s4 (List.range 4)) allClusters) (List.range 16)
  let s6 := (changePorts old (showSplit s5.showPolicy (List.range 104)) (List.range 8)).showAudCfg
  let s7 := makeArrays s6 (List.range 4)
  let s8 := offerCals s7 (s7.newCals t.allCals)
  let s9 : State := { s8 with digest := l.digest }
  (((s9.setPair Reg.SPL_SERIAL_LO l.serial.toNat).setReg Reg.SPL_POOL_LOADS 0).setBit Reg.SPL_STATUS 12 true).endLoad 0 0

/-! The checks (R64 steps 3 to 5). -/

/-- The signature checks of R62: the reason of the first that fails, 0 for none. The spec states no outcome for a signer
slot of 8 or more, which counts as not filled, or for reserved bytes 4 to 31 that are not zero, which are accepted
(DESIGN CHOICE, log 7). -/
def State.signatureReason (s : State) (b : List Byte) (digest : List Byte) : Nat × State :=
  let blk := b.drop (b.length - 128)
  let slot := le blk 0 4
  let key := slice blk 32 32
  if 8 ≤ slot then (4, s)
  else if s.slotState slot = 0 then (4, s)
  else if s.slotState slot = 2 then (5, s)
  else if s.slotKey slot ≠ key then (6, s)
  else
    let (ok, s1) := s.checkSig key digest (slice blk 64 64)
    (if ok then 0 else 7, s1)
/-- The rules that every image's graphs, kernels, references and calibration records keep. -/
def partsOk (pools : List PoolRec) (planes : List PlaneRec) (kernels : List Nat) (img : Image) (b : List Byte) : Bool :=
  !img.outOfRange && calibsRead b && refsFit b && weightsOk (parseRefs b) && img.graphs.all (graphOk pools planes kernels) &&
  noDups (img.graphs.map (fun g => g.id)) && img.kernels.all kernelOk && noDups (img.kernels.map (fun k => k.id)) && calibsOk img.calibs
/-- The structure of a full image, where R58 and the chapters' rules accept it. -/
def State.vetFull (s : State) (img : Image) (b : List Byte) : Option Structure :=
  match img.structureSec, (secBytes b 1).head?.bind recordsOf with
  | some t0, some l =>
    let t := t0.fromRecords l
    if recordsOk l && calibOnly b && structOk s.channels t && partsOk t.pools t.planes (img.kernels.map (fun k => k.id)) img b then
      some { t with
        graphs := img.graphs
        kernels := img.kernels
        calibs := t.calibs.filter (fun c => !img.calibs.any (fun d => d.mic == c.mic)) ++ img.calibs }
    else none
  | _, _ => none
/-- A graph of a pool that the image does not replace uses the kernel. -/
def Structure.keptKernel (t : Structure) (mask k : Nat) : Bool := t.graphs.any (fun g => !bitAt mask g.pool && g.kernels.contains k)
/-- The reason of a pool image's first check that fails (R64 step 5, R69, R501); 0 for none. -/
def State.poolReason (s : State) (mask : Nat) (img : Image) (b : List Byte) : Nat :=
  let t := s.structure_
  let same (r : WeightRef) : Bool := match s.weight r.id with | some w => w.ref == r | none => true
  if (b.drop 64).take 64 ≠ s.digest ∨ !s.rbit Reg.SPL_STATUS 12 then 9
  else if !calibOnly b || img.graphs.any (fun g => !bitAt mask g.pool) || img.kernels.any (fun k => t.keptKernel mask k.id) || !(parseRefs b).all same then 10
  else
    let kept := t.graphs.filter (fun g => !bitAt mask g.pool)
    if partsOk t.pools t.planes ((img.kernels ++ t.kernels).map (fun k => k.id)) img b &&
        img.graphs.all (fun g => !kept.any (fun k => k.id == g.id)) then 0 else 8
/-- The graph is one of a pool of the mask. -/
def State.graphIn (s : State) (mask g : Nat) : Bool := ((s.graphOf g).map (fun x => bitAt mask x.pool)).getD false
/-- Imports that wait for pages open nothing. -/
def refuseImports (s : State) : List Nat → State
  | [] => s
  | h :: t => refuseImports (match (s.strm h).import_ with | some (f, q, d) => s.undoImport h f q d 4 | none => s) t
/-- A draining pool admits nothing: what waits to be placed in it, or for an import's pages, ends NO_ROOM as an open that
arrives in the drain does (R67, R368; DEDUCED, log 7). -/
def State.refuseWaiting (s : State) (mask : Nat) : State :=
  let s1 := failPends (fun p => s.graphIn mask p.graph) s s.place.pend
  refuseImports s1 ((s1.streams.filter (fun e => s1.graphIn mask e.2.graph)).map (fun e => e.1))
/-- The pools of a pool image begin to drain (R67). -/
def State.beginDrain (s : State) (l : Load) : State :=
  let s1 := ((({ s with load := some { l with drainStart := s.tb.toNat } }).setSplState 4).showPools l.mask).raise Reg.SPL_INT_STATUS 2
  ((s1.refuseWaiting l.mask).pagesFreed).checkDrain
/-- The first check that fails ends the load; else the image is applied, or its pools drain. -/
def State.verifyImage (s : State) (l : Load) (img : Image) (b : List Byte) : State :=
  let digest := sha512 (b.take (l.len - 128))
  if !sectionsOk b then s.endLoad 8 3
  else
    let (why, s1) := s.signatureReason b digest
    let l1 : Load := { l with image := some img, refs := parseRefs b, digest := digest }
    if why ≠ 0 then s1.endLoad 8 why
    else if l.pool then
      (if s1.poolReason l.mask img b ≠ 0 then s1.endLoad 8 (s1.poolReason l.mask img b) else s1.beginDrain l1)
    else match s1.vetFull img b with
      | none => s1.endLoad 8 8
      | some t => if s1.anyOpen && !s1.rbit Reg.SPL_CTRL 1 then s1.endLoad 8 11 else s1.applyFull l1 t
/-- The staging area (R71). -/
def stagingBase : Nat := 0xBF0000000
/-- An image read whole is checked; content that is no reading of its bytes is no image that the part could have read, and
nothing happens (log 7). -/
def State.checkImage (s : State) (l : Load) (img : Image) (b : List Byte) : State :=
  if sectionsOk b && !img.reads b then s else s.verifyImage l img b
/-- IMAGE_COPY_DONE (R64 steps 3 to 6): the copy into the staging area ends, and the image is checked. -/
def doImageCopyDone (img : Image) (s : State) : State :=
  match s.load with
  | none => s
  | some l =>
    if s.splState ≠ 2 then s
    else
      let (why, b, s1) := s.readImage l l.len
      if why ≠ 0 then s1.endLoad 6 why
      else if l.addr = stagingBase then s1.checkImage l img b
      else
        let r := (s1.writeData s1.oasisReader stagingBase b).readData s1.oasisReader stagingBase l.len
        if r.zeroed ≠ 0 then r.st.endLoad 6 15 else r.st.checkImage l img b
def execImageCopyDone (img : Image) (s : State) : Host.Outcome State Fault Refusal := .next (s.live (doImageCopyDone img))

/-! The switch (R67, R68). -/

def zeroReserves (s : State) : List Nat → State
  | [] => s
  | cl :: t => zeroReserves (s.zeroRegs ((List.range 8).map (Reg.TBG_RES cl))) t
/-- The structure after a pool switch. -/
def Structure.switched (t : Structure) (mask : Nat) (img : Image) : Structure :=
  let gone := t.graphs.filter (fun g => bitAt mask g.pool)
  let keep (k : Kernel) : Bool := !img.kernels.any (fun x => x.id == k.id) &&
    (t.keptKernel mask k.id || !gone.any (fun g => g.kernels.contains k.id))
  { t with
    graphs := t.graphs.filter (fun g => !bitAt mask g.pool) ++ img.graphs
    kernels := t.kernels.filter keep ++ img.kernels
    calibs := t.calibs.filter (fun c => !img.calibs.any (fun d => d.mic == c.mic)) ++ img.calibs }
/-- The switch's moment has come: the drain has ended with nothing of the pools left, and a frame tick of the switch plane has
followed, or that plane is disabled (R67 step 4). -/
def State.switchDue (s : State) (l : Load) : Bool :=
  l.drained && (l.due || (s.plane (s.fld Reg.SPL_SWITCH_PLANE 0 2)).isNone) &&
  !s.streams.any (fun e => e.2.st != .closed && s.graphIn l.mask e.2.graph) &&
  !s.place.crests.any (fun c => s.graphIn l.mask c.graph)
/-- POOL_SWITCH (R67 steps 4 and 5): the frame tick after the end of the drain. -/
def doPoolSwitch (s : State) : State :=
  match s.load with
  | none => s
  | some l =>
    if s.splState ≠ 4 ∨ !s.switchDue l then s
    else
      let img := l.image.getD {}
      let new := (l.refs.filter (fun r => (s.weight r.id).isNone)).map (fun r => ({ ref := r } : Weight))
      let s1 : State := { s with
        structure_ := s.structure_.switched l.mask img
        weights := s.weights ++ new
        digest := sha512 (s.digest ++ l.digest) }
      let s2 := zeroReserves s1 (allClusters.filter (fun cl => decide (s1.clPool cl < 5) && bitAt l.mask (s1.clPool cl)))
      ((offerCals s2 (s2.newCals img.calibs)).bump Reg.SPL_POOL_LOADS 1).endLoad 0 0
def execPoolSwitch (s : State) : Host.Outcome State Fault Refusal := .next (s.live doPoolSwitch)
/-- SPL_DRAIN_LIMIT in force. -/
def State.drainLimit (s : State) : Nat := max 1 (s.fld Reg.SPL_DRAIN_LIMIT 0 16)
/-- The drain limit has passed: in frame ticks of the switch plane, or in periods of 10 ms while it is disabled (R68). -/
def State.drainLate (s : State) (l : Load) : Bool :=
  match s.plane (s.fld Reg.SPL_SWITCH_PLANE 0 2) with
  | some _ => decide (s.drainLimit ≤ l.drainTicks)
  | none => decide (l.drainStart + s.drainLimit * 10000000 ≤ s.tb.toNat)
/-- DRAIN_TIMEOUT (R68). -/
def doDrainTimeout (s : State) : State :=
  match s.load with
  | none => s
  | some l =>
    if s.splState = 4 ∧ !l.drained ∧ s.drainLate l then s.endLoad 8 12 else s
def execDrainTimeout (s : State) : Host.Outcome State Fault Refusal := .next (s.live doDrainTimeout)

end Sys2Proof.Machine
end

