-- ==== Sys2Proof/Machine/CmdMemory.lean ====
section
/-!
DEFINITION. Meanings of the bonded-memory commands that are not cistern work (chapter 08): retirement, refresh,
temperature, scrubbing and counter clears.
-/

namespace Sys2Proof.Machine

def dmemCounters (d : Nat) : List Nat := wordsFrom (Reg.DMEM_CE_LO d) (Reg.DMEM_SRAM_CE d)
def cisCounters (e : Nat) : List Nat := wordsFrom (Reg.CIS_BUSY_LO e) (Reg.CIS_REJECT e)

/-- DMEM_CNT_CLR (R178). -/
def execDmemCntClr (d : Fin 4) (v : Word) (s : State) : Host.Outcome State Fault Refusal :=
  .next (s.live (fun t => t.cntClr v (dmemCounters d)))
/-- CIS_CNT_CLR (R179). -/
def execCisCntClr (e : Fin 128) (v : Word) (s : State) : Host.Outcome State Fault Refusal :=
  .next (s.live (fun t => t.cntClr v (cisCounters e)))

/-- A frame number that DMEM_RETIRE of die d accepts (R155, Table 08-8). -/
def frameOfDie (d : Nat) (v : Word) : Bool :=
  decide (v.toNat < 2 ^ 24) && bitsAt v.toNat 22 2 == d && decide (bitsAt v.toNat 0 17 < 98304)
/-- DMEM_RETIRE (R173, R175): a free frame retires at once, a held one when it becomes free. -/
def doDmemRetire (d : Fin 4) (v : Word) (s : State) : State :=
  if !frameOfDie d v then s
  else if s.frameGone v.toNat then s
  else if s.frameHeld v.toNat then
    (if s.retireDue.contains v.toNat then s else { s with retireDue := s.retireDue ++ [v.toNat] })
  else s.retireFrame v.toNat
def execDmemRetire (d : Fin 4) (v : Word) (s : State) : Host.Outcome State Fault Refusal :=
  .next (s.live (doDmemRetire d v))

/-- DRAM_REFRESH (R176): the rows of the stack keep their contents; no register or byte changes. -/
def execDramRefresh (_d : Fin 4) (s : State) : Host.Outcome State Fault Refusal := .next (s.live (fun t => t))

/-- The refresh code that a stack temperature sets (R176, Table 08-10). -/
def refreshCode (t : Nat) : Nat := if t < 85 then 0 else if t ≤ 95 then 1 else 2
/-- A reading of the hottest stack sensor: TEMP, and REFRESH with its interrupt where it changes. -/
def State.stackTemp (s : State) (d t : Nat) : State :=
  let c := refreshCode t
  let s1 := s.setN (Reg.DMEM_TEMP d) (min t 255 + c * 2 ^ 16)
  if c = s.fld (Reg.DMEM_TEMP d) 16 2 then s1 else s1.raise (Reg.DMEM_INT_STATUS d) 0
/-- STACK_TEMP_READ (R176): no reading is taken in self-refresh or before training's first one. -/
def doStackTempRead (d : Fin 4) (t : Nat) (s : State) : State :=
  if s.rbit (Reg.DMEM_STATUS d) 2 || !s.rbit (Reg.DMEM_STATUS d) 0 then s else s.stackTemp d t
def execStackTempRead (d : Fin 4) (t : Nat) (s : State) : Host.Outcome State Fault Refusal :=
  .next (s.live (doStackTempRead d t))

/-- The last granule of a patrol pass: the highest of the die's enabled channels. -/
def State.lastScrub (s : State) (d : Nat) : Nat := 98303 * 0x80000 + ((s.liveChannels d).getLast?.getD 0) * 0x4000 + 0x3FC0
/-- PATROL_SCRUB (R176): the granule at a die offset is read, corrected or detected as a demand read does; none in
self-refresh, with HOURS 0, or in a channel that is not enabled. The pass is in progress until its last granule. -/
def doPatrolScrub (d : Fin 4) (ofs : Nat) (s : State) : State :=
  let a := dramBase d + ofs / 64 * 64
  if s.rbit (Reg.DMEM_STATUS d) 2 || s.fld (Reg.DMEM_SCRUB d) 0 8 == 0 || decide (0xC00000000 ≤ ofs) ||
      !s.rbit (Reg.DMEM_CH_OK d) (channelOf a) then s
  else
    let s1 := s.setBit (Reg.DMEM_STATUS d) 3 (decide (ofs / 64 * 64 < s.lastScrub d))
    let s2 := s1.correct a
    if s2.granBad a then s2.detectDram a false else s2
def execPatrolScrub (d : Fin 4) (ofs : Nat) (s : State) : Host.Outcome State Fault Refusal :=
  .next (s.live (doPatrolScrub d ofs))

end Sys2Proof.Machine
end

