-- ==== Sys2Proof/Machine/CmdPower.lean ====
section
/-!
DEFINITION. Meanings of the power and thermal commands (R470 to R480, R486): clocks and voltage, the cap loop, AVSBus,
thermal control and die Night.
-/

namespace Sys2Proof.Machine

/-! Clocks and voltage (R472). -/

/-- V(f) in mV, interpolated linearly in Table 22-2 and rounded to nearest, as its worked example does. -/
def voltageOf (f : Nat) : Nat :=
  let seg (f0 v0 f1 v1 : Nat) : Nat := (2 * (v0 * (f1 - f0) + (v1 - v0) * (f - f0)) + (f1 - f0)) / (2 * (f1 - f0))
  if f ≤ 1000 then seg 800 600 1000 640
  else if f ≤ 1200 then seg 1000 640 1200 680
  else if f ≤ 1500 then seg 1200 680 1500 750
  else seg 1500 750 1650 800
/-- The set point for a frequency: V(f) + TRIM within the regulator's range. -/
def State.setPoint (s : State) (f : Nat) : Nat := (max 600 (min 850 ((voltageOf f : Int) + s.pwr.trim))).toNat
/-- The frequencies of the 25 MHz steps. -/
def freqSteps : List Nat := (List.range 35).map (fun i => 800 + 25 * i)
/-- The highest frequency that a set point supports; no lower than 800 MHz. -/
def State.supported (s : State) (mv : Nat) : Nat :=
  ((freqSteps.filter (fun f => decide (s.setPoint f ≤ mv))).getLast?).getD 800
/-- A die is awake. -/
def State.dieAwake (s : State) (d : Nat) : Bool := !(s.die d).night
def dieList : List Nat := List.range 4
def State.awakeDies (s : State) : List Nat := dieList.filter s.dieAwake
/-- The target: 1,650 MHz once its conditions have held for 10 ms. -/
def State.boostTarget (s : State) (d : Nat) : Nat :=
  match (s.die d).boostSince with
  | some t => if t + 10000000 ≤ s.tb.toNat then 1650 else 1500
  | none => 1500
/-- The frequency that the target, the cap, thermal control and a lost regulator allow (R471, R472, R474, R480). -/
def State.freqLimit (s : State) (d : Nat) : Nat :=
  let x := s.die d
  let f := min (s.boostTarget d) (min x.capFreq x.thermFreq)
  if s.pwr.avsFault then min f (s.supported (s.fld Reg.PWR_VCORE 0 12)) else f
/-- A die is reduced under the cap. -/
def State.capped (s : State) (d : Nat) : Bool := decide ((s.die d).capFreq < s.boostTarget d) || decide (0 < s.pwr.capIssue)
/-- OAS_DIEd_CLK. A stopped clock reads 0 MHz and full issue, sixteen sixteenths, reads 0 (DEDUCED, log 29). -/
def State.showClk (s : State) (d : Nat) : State :=
  let x := s.die d
  s.setN (Reg.OAS_DIEd_CLK d) ((if x.night then 0 else x.freq) + (x.issue % 16) * 2 ^ 12 + b2n (s.capped d && !x.night) * 2 ^ 16
    + b2n x.throttling * 2 ^ 17 + b2n x.night * 2 ^ 18)
/-- Each awake die takes the frequency and the issue it may have. -/
def setClocks (s : State) : List Nat → State
  | [] => s
  | d :: t =>
    let x := s.die d
    setClocks ((s.setDie d (if x.night then x else { x with
      freq := s.freqLimit d
      issue := min (16 - s.pwr.capIssue) x.thermIssue })).showClk d) t
/-- Every compute die is in die Night and the package may sleep (R477). -/
def State.packageNight (s : State) : Bool := s.rbit Reg.PWR_CTRL 0 && s.awakeDies.isEmpty
/-- Some die or the issue rate is reduced under the cap (R477). -/
def State.dusk (s : State) : Bool := s.awakeDies.any s.capped
/-- The package state (Table 22-5), with what entering Dusk or Night and leaving Night counts and raises. While no die is
awake and Night is not allowed, no state is stated and the field keeps its value (log 29). -/
def State.showPower (s : State) : State :=
  let old := s.fld Reg.PWR_STATUS 0 2
  let new := if s.packageNight then 2 else if s.awakeDies.isEmpty then old else if s.dusk then 1 else 0
  let aw := (s.awakeDies.map (fun d => 2 ^ d)).sum
  let s1 := (s.setFld Reg.PWR_STATUS 4 4 aw).setFld Reg.PWR_STATUS 0 2 new
  let s2 := if old = 2 ∧ new ≠ 2 then s1.raise Reg.PWR_INT_STATUS 4 else s1
  if new = old then s2
  else if new = 1 then ((s2.count Reg.PWR_CAP_EVENTS 1 Reg.PWR_INT_STATUS 6).raise Reg.PWR_INT_STATUS 0).mgtEvent 1
  else if new = 2 then (s2.count Reg.PWR_NIGHTS 1 Reg.PWR_INT_STATUS 6).raise Reg.PWR_INT_STATUS 3
  else s2
/-- Clocks, set point and state follow the power state. A lost regulator holds the last set point (R471); in Night it is
0.600 V (R478). -/
def State.applyPower (s : State) : State :=
  let s1 := setClocks s dieList
  let f := (s1.awakeDies.map (fun d => (s1.die d).freq)).foldl max 0
  let s2 := if s1.pwr.avsFault then s1
    else if s1.packageNight then s1.setFld Reg.PWR_VCORE 0 12 600
    else if f = 0 then s1
    else s1.setFld Reg.PWR_VCORE 0 12 (s1.setPoint f)
  s2.showPower

/-! The cap (R473, R474). -/

/-- The mean of numbers; where it is not whole, the spec does not say how it is rounded (log 18). -/
def meanOf (l : List Nat) : Nat :=
  let n := l.length
  if n = 0 then 0
  else if l.sum % n = 0 then l.sum / n
  else if Config.roundsUp l.sum n then l.sum / n + 1 else l.sum / n
/-- The estimate joins the averages: PWR_NOW over 1 ms, PWR_AVG1S over 1 s, PWR_PEAK. -/
def State.addEstimate (s : State) (w : Nat) : State :=
  let now := s.tb.toNat
  let l := (s.pwr.estimates.filter (fun e => decide (now < e.1 + 1000000000))) ++ [(now, w)]
  let s1 : State := { s with pwr := { s.pwr with estimates := l } }
  let p := min 65535 (meanOf ((l.filter (fun e => decide (now < e.1 + 1000000))).map (fun e => e.2)))
  let s2 := (s1.setN Reg.PWR_NOW p).setN Reg.PWR_AVG1S (min 65535 (meanOf (l.map (fun e => e.2))))
  s2.setN Reg.PWR_PEAK (max (s2.rn Reg.PWR_PEAK) p)
/-- Since when the conditions of the higher target hold: 40 W of headroom and at most 90 °C (R472). -/
def holdBoost (s : State) : List Nat → State
  | [] => s
  | d :: t =>
    let x := s.die d
    let ok := decide (400 ≤ s.headroom) && decide (x.temp ≤ 90)
    holdBoost (s.setDie d { x with boostSince := if ok then some (x.boostSince.getD s.tb.toNat) else none }) t
def setCaps (f : DiePower → DiePower) (s : State) : List Nat → State
  | [] => s
  | d :: t => setCaps f (s.setDie d (f (s.die d))) t
/-- The package's power controller (Table 21-3). -/
def State.capLoc (s : State) : Nat := s.oasLoc 25 0
/-- One CAP_FLOOR record, at most once a second while the condition lasts. -/
def State.capFloor (s : State) : State :=
  let now := s.tb.toNat
  match s.pwr.lastFloor with
  | some t => if now < t + 1000000000 then s
      else ({ s with pwr := { s.pwr with lastFloor := some now } } : State).report 6 0x43 s.capLoc 0 0
  | none => ({ s with pwr := { s.pwr with lastFloor := some now } } : State).report 6 0x43 s.capLoc 0 0
def State.capChanged (s : State) : State := { s with pwr := { s.pwr with lastChange := some s.tb.toNat, lastFloor := none } }
/-- The estimate is over the cap: one step down, then less issue, then the record. -/
def State.capDown (s : State) : State :=
  if s.awakeDies.any (fun d => decide (800 < (s.die d).freq)) then
    (setCaps (fun x => { x with capFreq := max 800 (x.freq - 25) }) s s.awakeDies).capChanged
  else if s.pwr.capIssue < 8 then ({ s with pwr := { s.pwr with capIssue := s.pwr.capIssue + 1 } } : State).capChanged
  else s.capFloor
/-- One step is undone, issue first. -/
def undoCaps (s : State) : List Nat → State
  | [] => s
  | d :: t =>
    let x := s.die d
    undoCaps (s.setDie d { x with capFreq := if s.boostTarget d ≤ x.capFreq + 25 then 1650 else x.capFreq + 25 }) t
def State.capUp (s : State) : State :=
  let due := match s.pwr.lastChange with | some t => decide (t + 50000 ≤ s.tb.toNat) | none => true
  let s0 : State := { s with pwr := { s.pwr with lastFloor := none } }
  if !s.dusk || !due then s0
  else if 0 < s.pwr.capIssue then ({ s0 with pwr := { s0.pwr with capIssue := s.pwr.capIssue - 1 } } : State).capChanged
  else (undoCaps s0 dieList).capChanged
/-- POWER_ESTIMATE (R473, R474): the estimate in 0.1 W. -/
def doPowerEstimate (w : Nat) (s : State) : State :=
  let s1 := holdBoost (s.addEstimate w) dieList
  let cap := s1.capNow
  let s2 := if cap < w then s1.capDown else if w * 100 ≤ cap * 98 then s1.capUp
    else { s1 with pwr := { s1.pwr with lastFloor := none } }
  s2.applyPower
def execPowerEstimate (w : Nat) (s : State) : Host.Outcome State Fault Refusal := .next (s.live (doPowerEstimate w))

/-! AVSBus (R471). -/

/-- Control of the regulator is lost: one record, and the last set point is held. -/
def State.avsLost (s : State) (code : Nat) : State :=
  if s.pwr.avsFault then s
  else
    let s1 : State := { s with pwr := { s.pwr with avsFault := true } }
    (((s1.setBit Reg.PWR_STATUS 9 false).report 6 code s1.capLoc 0 0).raise Reg.PWR_INT_STATUS 5).applyPower
/-- A transaction that goes unanswered: the third in a row loses control. -/
def State.avsMiss (s : State) : State :=
  let n := s.pwr.avsFails + 1
  let s1 : State := { s with pwr := { s.pwr with avsFails := n } }
  if 3 ≤ n then s1.avsLost 0x41 else s1
def State.avsAnswered (s : State) : State := { s with pwr := { s.pwr with avsFails := 0 } }
/-- AVS_CURRENT_READ: the current in 0.1 A. The regulator's voltage reading is a free value (log 4). -/
def doAvsCurrentRead (cur : Option Nat) (s : State) : State :=
  match cur with
  | none => s.avsMiss
  | some c =>
    let (z, s1) := s.avsAnswered.free
    (s1.setN Reg.PWR_ICORE (c % 65536)).setFld Reg.PWR_VCORE 16 12 z.toNat
def execAvsCurrentRead (cur : Option Nat) (s : State) : Host.Outcome State Fault Refusal := .next (s.live (doAvsCurrentRead cur))
/-- AVS_ALERT: the status read after an alert; `some true` is a fault. -/
def doAvsAlert (status : Option Bool) (s : State) : State :=
  match status with
  | none => s.avsMiss
  | some f => if f then s.avsAnswered.avsLost 0x42 else s.avsAnswered
def execAvsAlert (status : Option Bool) (s : State) : Host.Outcome State Fault Refusal := .next (s.live (doAvsAlert status))
/-- AVS_RETRY: normal control after one transaction succeeds. -/
def doAvsRetry (ok : Bool) (s : State) : State :=
  if s.pwr.avsFault && ok then
    let s1 : State := { s with pwr := { s.pwr with
      avsFault := false
      avsFails := 0 } }
    (s1.setBit Reg.PWR_STATUS 9 true).applyPower
  else s
def execAvsRetry (ok : Bool) (s : State) : Host.Outcome State Fault Refusal := .next (s.live (doAvsRetry ok))

/-! Thermal control (R480). -/

/-- OAS_DIEd_TEMP: the junction and the highest since cold reset. -/
def State.showTemp (s : State) (a t : Nat) : State :=
  s.setN a (min 255 t + (max (s.fld a 8 8) (min 255 t)) * 2 ^ 8)
/-- A die's sensors are read: throttling, the junction limit and the steps back. How the issue that the junction limit
took comes back is not stated: a free value (log 4). -/
def State.senseDie (s : State) (d t : Nat) : State :=
  let now := s.tb.toNat
  let x := s.die d
  let (z, s0) := s.free
  let hot := decide (100 ≤ t)
  let start := hot && !x.throttling
  let limit := decide (105 ≤ t) && decide (x.temp < 105)
  let limits := decide (x.thermFreq < 1650) || decide (x.thermIssue < 16)
  let y : DiePower := { x with
    temp := t
    throttling := hot }
  let y1 : DiePower :=
    if 105 ≤ t then { y with
      thermFreq := 800
      thermIssue := 8
      thermTb := now }
    else if hot then
      (if start ∨ x.thermTb + 100000 ≤ now then { y with
        thermFreq := max 800 (x.freq - 25)
        thermTb := now } else y)
    else if t ≤ 97 ∧ limits ∧ x.thermTb + 1000000 ≤ now then { y with
      thermFreq := if min (s.boostTarget d) x.capFreq ≤ x.thermFreq + 25 then 1650 else x.thermFreq + 25
      thermIssue := if x.thermIssue < 16 then max x.thermIssue (8 + z.toNat % 9) else 16
      thermTb := now }
    else y
  let s1 := (s0.setDie d y1).showTemp (Reg.OAS_DIEd_TEMP d) t
  let s2 := if start then ((s1.count Reg.PWR_THROTTLE 1 Reg.PWR_INT_STATUS 6).raise Reg.PWR_INT_STATUS 1).mgtEvent 0 else s1
  if limit then (s2.report 6 0x40 (s2.locPath d 0 0 26 0) 0 0).raise Reg.PWR_INT_STATUS 2 else s2
def senseDies (s : State) : Nat → List Nat → State
  | _, [] => s
  | d, t :: l => senseDies (if d < 4 then s.senseDie d t else s) (d + 1) l
/-- THERMTRIP_N: every clock but Sandglass's stops. -/
def State.thermTrip (s : State) : State :=
  let s1 := s.setBit Reg.PWR_STATUS 8 true
  { s1 with
    pwr := { s1.pwr with trip := true }
    pins := { s1.pins with thermtrip := true } }
/-- THERMAL_SAMPLE: the hottest sensor of each compute die, and of the Oasis die, in °C. -/
def doThermalSample (dies : List Nat) (oasis : Nat) (s : State) : State :=
  let s1 := s.setN Reg.OAS_OASIS_TEMP (min 255 oasis)
  if dies.any (fun t => decide (110 ≤ t)) || decide (105 ≤ oasis) then s1.thermTrip
  else
    let s2 := senseDies s1 0 dies
    (holdBoost s2 dieList).applyPower
def execThermalSample (dies : List Nat) (oasis : Nat) (s : State) : Host.Outcome State Fault Refusal :=
  .next (s.live (doThermalSample dies oasis))

/-! Die Night (R476 to R479). -/

/-- A cistern engine has no work. -/
def State.cisIdle (s : State) (e : Nat) : Bool :=
  (s.cis e).running.isNone && (s.cis e).queue.isEmpty && (s.cis e).waiting.isEmpty && (s.cis e).gaveWay.isEmpty
/-- A die has nothing to do: its regions are gated, none wakes, and its cistern engines are idle. -/
def State.dieQuiet (s : State) (d : Nat) : Bool :=
  s.fld Reg.PLC_AWAKE (4 * d) 4 == 0 && s.place.waking.all (fun j => j / 4 != d) &&
  (List.range 32).all (fun c => s.cisIdle (32 * d + c))
/-- The taps of a die's engines (R433). -/
def tapOfDie (d tap : Nat) : Bool := decide (tap < 192) && tap / 48 == d
/-- STATE of every cistern engine of a die: a value for its enabled channels, and 3 for those that failed training
(Table 08-13). -/
def showCisterns (d v : Nat) (s : State) : List Nat → State
  | [] => s
  | ch :: t => showCisterns d v (s.setFld (Reg.CIS_STATUS (32 * d + ch)) 0 3 (if s.rbit (Reg.DMEM_CH_OK d) ch then v else 3)) t
def State.setCisterns (s : State) (d v : Nat) : State := showCisterns d v s (List.range 32)
/-- PWR_NIGHT_DELAY in ns; 0 acts as 1 ms (Table 22-10). -/
def State.nightDelay (s : State) : Nat := 1000000 * max 1 (s.fld Reg.PWR_NIGHT_DELAY 0 16)
/-- DIE_NIGHT_ENTER, of a die quiet for PWR_NIGHT_DELAY ms (R476; log 29 says what counts as an access): its
clocks stop, after its residues are flushed; its stack refreshes itself. -/
def doDieNightEnter (d : Fin 4) (s : State) : State :=
  if (s.die d).night || !s.dieQuiet d then s
  else
    let s0 := s.reach ((s.die d).busyTb + s.nightDelay)
    let s1 := (((s0.flushTaps (tapOfDie d)).setBit (Reg.DMEM_STATUS d) 2 true).setBit (Reg.DMEM_STATUS d) 3 false).setCisterns d 4
    (s1.setDie d { s1.die d with
      night := true
      waking := false }).applyPower
def execDieNightEnter (d : Fin 4) (s : State) : Host.Outcome State Fault Refusal := .next (s.live (doDieNightEnter d))
/-- DIE_WAKE: the wake of a die in Night begins. -/
def doDieWake (d : Fin 4) (s : State) : State :=
  if (s.die d).night then s.setDie d { s.die d with waking := true } else s
def execDieWake (d : Fin 4) (s : State) : Host.Outcome State Fault Refusal := .next (s.live (doDieWake d))
/-- A waking die becomes awake, at the frequency that the other awake dies hold under the cap (R485). -/
def State.dieUp (s : State) (d : Nat) : State :=
  let cap := (s.awakeDies.map (fun k => (s.die k).capFreq)).foldl min 1650
  let s1 := (s.setBit (Reg.DMEM_STATUS d) 2 false).setCisterns d 0
  (s1.setDie d { s1.die d with
    night := false
    waking := false
    capFreq := cap
    busyTb := s.tb.toNat }).applyPower
/-- DIE_WAKE_COMPLETE. -/
def doDieWakeComplete (d : Fin 4) (s : State) : State :=
  if (s.die d).night && (s.die d).waking then s.dieUp d else s
def execDieWakeComplete (d : Fin 4) (s : State) : Host.Outcome State Fault Refusal := .next (s.live (doDieWakeComplete d))

/-! Registers (R486). -/

/-- PWR_PEAK_CLEAR: any write clears it. -/
def execPwrPeakClear (_ : Word) (s : State) : Host.Outcome State Fault Refusal :=
  .next (s.live (fun t => t.setN Reg.PWR_PEAK 0))
def oasCounters : List Nat := [Reg.PWR_CAP_EVENTS, Reg.PWR_THROTTLE, Reg.PWR_NIGHTS]
/-- OAS_CNT_CLR. -/
def execOasCntClr (v : Word) (s : State) : Host.Outcome State Fault Refusal := .next (s.live (fun t => t.cntClr v oasCounters))

end Sys2Proof.Machine
end

