-- ==== Sys2Proof/Machine/CmdStream.lean ====
section
/-!
DEFINITION. Meanings of the stream commands and of the events of a stream's life (chapter 12).
-/

namespace Sys2Proof.Machine

/-- STREAM_OPEN (R263): admits and places a new stream of a graph. -/
def execStreamOpen (fn sq : Fin 64) (desc : BitVec 512) (s : State) : Host.Outcome State Fault Refusal :=
  .next (s.live (fun t => t.command 0x01 fn sq desc (fun u => u.actOpen fn sq desc)))
/-- STREAM_FEED (R265, R268). -/
def execStreamFeed (fn sq : Fin 64) (desc : BitVec 512) (s : State) : Host.Outcome State Fault Refusal :=
  .next (s.live (fun t => t.command 0x02 fn sq desc (fun u => u.named fn sq desc)))
/-- STREAM_MARK (R266). -/
def execStreamMark (fn sq : Fin 64) (desc : BitVec 512) (s : State) : Host.Outcome State Fault Refusal :=
  .next (s.live (fun t => t.command 0x03 fn sq desc (fun u => u.named fn sq desc)))
/-- STREAM_PAUSE (R273, R275). -/
def execStreamPause (fn sq : Fin 64) (desc : BitVec 512) (s : State) : Host.Outcome State Fault Refusal :=
  .next (s.live (fun t => t.command 0x04 fn sq desc (fun u => u.named fn sq desc)))
/-- STREAM_RESUME (R283). -/
def execStreamResume (fn sq : Fin 64) (desc : BitVec 512) (s : State) : Host.Outcome State Fault Refusal :=
  .next (s.live (fun t => t.command 0x05 fn sq desc (fun u => u.named fn sq desc)))
/-- STREAM_EXPORT (R278): taken at the end of the step in progress. -/
def execStreamExport (fn sq : Fin 64) (desc : BitVec 512) (s : State) : Host.Outcome State Fault Refusal :=
  .next (s.live (fun t => t.command 0x06 fn sq desc (fun u => u.named fn sq desc)))
/-- STREAM_IMPORT (R282, R283). -/
def execStreamImport (fn sq : Fin 64) (desc : BitVec 512) (s : State) : Host.Outcome State Fault Refusal :=
  .next (s.live (fun t => t.command 0x07 fn sq desc (fun u => u.actImport fn sq desc)))
/-- STREAM_CLOSE (R262). -/
def execStreamClose (fn sq : Fin 64) (desc : BitVec 512) (s : State) : Host.Outcome State Fault Refusal :=
  .next (s.live (fun t => t.command 0x08 fn sq desc (fun u => u.named fn sq desc)))

/-- RESUME_TICK_REACHED (R283): the plane's count has reached a paused stream's resume tick. -/
def doResumeTickReached (h : Word) (s : State) : State :=
  let x := s.strm h.toNat
  match x.resumeTick, s.graphOf x.graph with
  | some t, some g => if x.st = .paused ∧ t ≤ s.tickCount g.plane g.frame then s.resumeNow h.toNat else s
  | _, _ => s
def execResumeTickReached (h : Word) (s : State) : Host.Outcome State Fault Refusal :=
  .next (s.live (doResumeTickReached h))

/-- Writes a parcel's bytes: none where it is written, or the status of the failure (R279). -/
def State.putParcel (s : State) (h dst : Nat) (b : List Byte) : Nat × State :=
  let a := dst % 2 ^ 52
  let r : RemReq := { id := h, dst := dst / 2 ^ 52, write := true, addr := a, len := b.length, data := b,
                      engine := 104 * 8, handle := s.handleOf h }
  match s.remoteDev dst with
  | some v =>
    let (ok, s1) := s.sendFlow 4 h v (.request r)
    if ok then (0, s1) else (5, s1.unreachable r)
  | none =>
    if !inOnePlace a b.length || (decide (hostWindow ≤ a) && !s.hostOk a b.length) then (6, s) else (0, s.writeData s.oasisReader a b)
/-- A stream goes back to the state it had before its export; an ACTIVE one goes on at the current tick. -/
def State.endExport (s : State) (h : Nat) : State :=
  let x := s.strm h
  let s1 := s.setStrm h { x with st := x.prev, prev := .closed, export_ := none, atCurrent := true }
  (if x.prev = .swapped then s1.tryRestore h else s1.lookAt h).runDue h
/-- EXPORT_PARCEL_WRITTEN (R278 steps 2 to 4, R279). A stream that goes on feeds its consumers no longer (Table 12-9). -/
def doExportParcelWritten (h : Word) (s : State) : State :=
  let k := h.toNat
  let x := s.strm k
  match x.export_, s.graphOf x.graph with
  | some (f, q, d), some g =>
    if x.st ≠ .exporting then s
    else
      let (b, z, s1) := s.parcel k g (dfield d 20 1 1 == 1)
      let s2 := s1.modStrm k (fun y => { y with zeroed := min (y.zeroed + z) 0xFFFFFFFF })
      let (st, s3) := match b with
        | some l => s2.putParcel k (db d 8 8) l
        | none => (6, s2)
      if st ≠ 0 then
        (((s3.strmCount Reg.STRM_EXPORT_FAIL 1).raise Reg.STRM_INT_STATUS 2).endCmd f q d st 0).endExport k
      else
        let n := (b.getD []).length
        let s4 := s3.strmCount Reg.STRM_EXPORTS 1
        if dfield d 20 0 1 = 1 then ((s4.unsource k).endCmd f q d (if z = 0 then 0 else 1) n).endExport k
        else ((s4.modStrm k (fun y => { y with st := y.prev, export_ := none })).removeStream k
          |>.endCmd f q d (if z = 0 then 0 else 1) n).afterGone
  | _, _ => s
def execExportParcelWritten (h : Word) (s : State) : Host.Outcome State Fault Refusal :=
  .next (s.live (doExportParcelWritten h))

/-- The counters that STRM_CNT_CLR clears (R285). -/
def strmCounters : List Nat := wordsFrom Reg.STRM_OPENS Reg.STRM_DROPPED
/-- STRM_CNT_CLR. -/
def execStrmCntClr (v : Word) (s : State) : Host.Outcome State Fault Refusal := .next (s.live (fun t => t.cntClr v strmCounters))

end Sys2Proof.Machine
end

