-- ==== Sys2Proof/Machine/CmdReset.lean ====
section
/-!
DEFINITION. Meanings of the resets (R388, R421, R482 to R485) and of what ends them: training, link loss and the end of
fuse programming.
-/

namespace Sys2Proof.Machine

/-! Cold and host resets. -/

/-- A cold reset while fuses are programmed leaves the generation incomplete, with no record (R421). -/
def State.dropProg (s : State) : State :=
  match s.sec.prog with
  | none => s
  | some p =>
    let (v, s1) := s.free
    s1.setSlot p.target (programSlot (s1.slot p.target) p false (v.toNat % 2 == 1))
/-- Everything but the island returns to its reset value; fuses, the host's memory, the physical condition of memory and
the boundary chain are not the reset's. The compute dies' residues are lost (R433). -/
def State.afterCold (s : State) (cause : Nat) : State :=
  let s1 := s.dropProg
  let t : State := { State.reset with
    mem := s1.mem
    cond := s1.cond
    meter := { s1.meter with
      residues := []
      mirrorNext := (s1.meter.ring.head?.map MeterRec.seq).getD s1.meter.nextSeq }
    sec := { s1.sec with
      prog := none
      heldDigest := none
      warmDue := false
      dieDue := 0 }
    pwr := { trim := s1.pwr.trim }
    pins := { por := s1.pins.por, smb := s1.pins.smb, aud33 := s1.pins.aud33, jtag := s1.pins.jtag, mode := s1.pins.mode, cells := s1.pins.cells }
    resp := s1.resp
    freeCtr := s1.freeCtr
    pending := s1.pending }
  (t.setN Reg.OAS_RESET_CAUSE cause).renewNonce
/-- At a release of POR_N the straps are read and the level of VDD_AUD sets the output drive (R494, R496). A release while a
test instruction is loaded returns the instruction register to IDCODE (R498). -/
def Pins.released (p : Pins) (strap : Straps) : Pins :=
  { p with
    por := false
    smb := 0x38 + strap.addr
    aud33 := strap.aud33
    jtag := if p.jtag = .bypass then .bypass else .idcode
    mode := .part }
/-- POWER_ON_RESET: an edge of POR_N, with the strap pins and the level of VDD_AUD (3.3 V, or 1.8 V) as its release senses them
(R482, R484, R494, R496). -/
def doPowerOnReset (asserted : Bool) (strap : Straps) (s : State) : State :=
  if asserted then ({ s with pins := { s.pins with por := true } } : State).afterCold 1
  else if s.pins.por then
    let s1 := s.afterCold 1
    { s1 with pins := s1.pins.released strap }
  else s
def execPowerOnReset (asserted : Bool) (strap : Straps) (s : State) : Host.Outcome State Fault Refusal :=
  .next (doPowerOnReset asserted strap s)
/-- HOST_RESET: PERST_N, a hot reset, or a link down for 100 ms (R482). -/
def doHostReset (cause : HostResetCause) (s : State) : State :=
  s.afterCold (match cause with | .perst => 2 | .hot => 4 | .linkDown => 4)
def execHostReset (cause : HostResetCause) (s : State) : Host.Outcome State Fault Refusal :=
  .next (s.live (doHostReset cause))

/-! Training (R176, R177, R484). -/

/-- The record of one channel that failed. -/
def failChannels (d : Nat) (failed : Nat) (s : State) : List Nat → State
  | [] => s
  | ch :: t => failChannels d failed
      (if bitAt failed (32 * d + ch) then (s.report 1 4 (s.locPath d 0 0 9 ch) 0 0).raise (Reg.DMEM_INT_STATUS d) 4 else s) t
/-- Training of one die ends. -/
def State.trainDie (s : State) (failed : Nat) (temps : List Nat) (d : Nat) : State :=
  let bad := bitsAt failed (32 * d) 32
  let n := ((List.range 32).filter (fun ch => bitAt bad ch)).length
  let s1 := (s.setN (Reg.DMEM_CH_OK d) (2 ^ 32 - 1 - bad)).setN (Reg.DMEM_STATUS d) (1 + n * 2 ^ 8)
  ((failChannels d failed s1 (List.range 32)).setCisterns d 0).stackTemp d (temps.getD d 0)
def trainDies (failed : Nat) (temps : List Nat) (s : State) : List Nat → State
  | [] => s
  | d :: t => trainDies failed temps (s.trainDie failed temps d) t
/-- TRAINING_COMPLETE: the channels that failed, bit 32d + n, and the first stack temperatures. -/
def doTrainingComplete (failed : BitVec 128) (temps : List Nat) (s : State) : State :=
  if s.splState ≠ 0 then s
  else
    let s1 : State := { s.zeroRange 0 hostWindow with cisterns := [] }
    let s2 := trainDies failed.toNat temps s1 dieList
    (((s2.setSplState 1).raise Reg.SPL_INT_STATUS 3).setBit Reg.PWR_STATUS 9 true).applyPower
def execTrainingComplete (failed : BitVec 128) (temps : List Nat) (s : State) : Host.Outcome State Fault Refusal :=
  .next (s.live (doTrainingComplete failed temps))

/-! Warm reset. -/

def carCounters (e : Nat) : List Nat := wordsFrom (Reg.CAR_RD_LO e) (Reg.CAR_FAULTED e)
/-- Offsets in a cluster's window of the counters that any reset of its die clears. -/
def clusterCounters : List Nat :=
  (meCounters 0 0 ++ meCounters 0 1 ++ vecCounters 0 ++ qstCounters 0 ++ (List.range 8).flatMap (qstSlot 0) ++ drfCounters 0 ++
    smpCounters 0 ++ carCounters 0 ++ (List.range 4).flatMap nmdCounters).map (fun a => a - clBase 0)
/-- An address is a counter of a unit of a die: of its clusters, its cistern engines or its memory. -/
def isDieCounter (a : Nat) : Bool :=
  let o := (a - dieBase 0) % 0x800000
  decide (dieBase 0 ≤ a) && decide (a < dieBase 4) &&
  (if o < 0x100000 then (dmemCounters 0).contains (o + dieBase 0)
   else if o < 0x200000 then (cisCounters 0).contains (o % 0x1000 + cisBase 0)
   else clusterCounters.contains ((o % 0x100000 - 0x10000) % 0x20000))
/-- An address is a counter outside the dies and the host queues that a warm reset clears. -/
def warmCounters : List Nat :=
  (List.range 8).flatMap (fun e => carCounters (96 + e)) ++ wordsFrom Reg.PLC_ADMIT Reg.PLC_WAKE_DENIED ++
  wordsFrom Reg.KVC_SWAP_OUT_LO Reg.KVC_RING_TMO ++ strmCounters ++ rplCounters ++ acfCounters ++
  (List.range 8).flatMap sapCounters ++ ergCounters ++ wordsFrom Reg.SEC_VERIFY_OK Reg.SEC_REQS ++ [Reg.MMR_LOST] ++ oasCounters
/-- The first and last register of the fabric windows. -/
def isWindowReg (a : Nat) : Bool := decide (Reg.ERG_WINw_BASE_LO 0 ≤ a) && decide (a ≤ Reg.ERG_WINw_CFG 15)
/-- Every window open at a warm reset closes into its record first (R465). -/
def closeRegions (s : State) : List ErrWin → State
  | [] => s
  | w :: t => closeRegions (s.toPackage w) t
def formAll (s : State) : List ErrWin → State
  | [] => s
  | w :: t => formAll (s.formRecord w) t
def State.closeWindows (s : State) : State :=
  let s1 := closeRegions { s with errs := { s.errs with regionWins := [] } } s.errs.regionWins
  formAll { s1 with errs := { s1.errs with packageWins := [] } } s1.errs.packageWins
/-- The host queues are as after a cold reset; vectors raised stay raised. -/
def State.clearQueues (s : State) : State :=
  { s.resetRegs (fun a => decide (bar2Base 0 ≤ a)) with host := { vectors := s.host.vectors } }
def wakeDies (s : State) : List Nat → State
  | [] => s
  | d :: t => wakeDies (if (s.die d).night then s.dieUp d else s) t
def gateAll (s : State) : List Nat → State
  | [] => s
  | j :: t => gateAll (s.regionDown j) t
def haltPorts (s : State) : List Nat → State
  | [] => s
  | n :: t => haltPorts ((s.setFld (Reg.SAP_Pn_CTRL n) 0 1 0).applyAudio n) t
/-- Cistern engines keep their known-bad lists and nothing else. -/
def Cistern.emptied (c : Cistern) : Cistern := { bad := c.bad }
def emptyCisterns (s : State) : List Nat → State
  | [] => s
  | e :: t => emptyCisterns (s.setCis e (s.cis e).emptied) t
/-- No cairn slot is held: the transfers that held them are gone (R200). -/
def freeSlots (s : State) : List Nat → State
  | [] => s
  | e :: t => freeSlots (s.setFld (Reg.CRN_STATUS e) 0 4 0) t
/-- The structure goes, and with it all that the image set (R482, Table 22-7). -/
def State.dropStructure (s : State) : State :=
  let s1 : State := { s with
    structure_ := {}
    weights := []
    pools := []
    load := none
    digest := List.replicate 64 0
    swaps := []
    objs := []
    work := []
    cores := []
    savedCores := []
    caravans := []
    drfTests := []
    ports := []
    fab := { s.fab with reqs := [], unr := [] } }
  let s2 := emptyCisterns s1 (s1.cisterns.map (fun e => e.1))
  let s3 := makeAllShares (makePlanes (showHostAreas (freeSlots s2 (List.range 104)) dieList) (List.range 4)) allClusters
  let s4 := (haltPorts (showSplit (gateAll s3 (List.range 16)) (List.range 104)) (List.range 8)).showAudCfg
  let s5 := retireFree (makeArrays s4 (List.range 4)) s4.dueFrames
  let gone : List Nat := [Reg.PLC_POLICY0, Reg.PLC_POLICY1, Reg.PLC_STATUS, Reg.SPL_SERIAL_LO, Reg.SPL_SERIAL_HI, Reg.SPL_POOL_STATE,
    Reg.SPL_POOL_LOADS]
  let s6 := (s5.resetRegs (fun a => gone.contains a)).setN Reg.SPL_STATUS 0x100
  let s7 : State := { s6 with snap := { s6.snap with pending := none } }
  s7.setBit Reg.SNP_STATUS 0 false
/-- A warm reset (R465, R482). -/
def State.warm (s : State) : State :=
  let s1 := (s.closeWindows.flushTaps (fun _ => true)).clearQueues.clearStructure.dropStructure
  let s2 := (s1.resetRegs (fun a => isDieCounter a || isHqCounter a || isWindowReg a)).zeroRegs warmCounters
  let s3 := wakeDies s2 dieList
  (((s3.setBit Reg.OAS_RESET_CAUSE 3 true).raise Reg.SPL_INT_STATUS 3).renewNonce).applyPower

/-! Die reset. -/

/-- A stream has an instance or cache pages on a die. -/
def State.onDie (s : State) (d : Nat) (e : Nat × Stream) : Bool :=
  (match e.2.cluster with | some cl => clDie cl == d | none => false) ||
  (s.kvHeld e.1).any (fun i => (s.kvEnt e.1 i).kind == 1 && bitsAt (s.kvEnt e.1 i).loc 22 2 == d) ||
  e.2.kv.granted.any (fun x => bitsAt x.2 22 2 == d) || e.2.savedFrames.any (fun f => bitsAt f 22 2 == d)
/-- Crest requests placed on a die, or waiting to be. -/
def State.crestsOn (s : State) (d : Nat) : List Nat :=
  (s.place.crests.filter (fun c => clDie c.cluster == d)).map (fun c => c.channel) ++
  s.place.pend.filterMap (fun p => match p.src with | .crest ch => if clDie p.cluster = d then some ch else none | _ => none)
/-- An address lies in the window of a die's clusters or cistern engines. -/
def inDieUnits (d a : Nat) : Bool := decide (dieBase d + 0x100000 ≤ a) && decide (a < dieBase (d + 1))
/-- The units of a die are as after a cold reset; its DRAM and known-bad lists stay. -/
def State.clearDie (s : State) (d : Nat) : State :=
  let r := s.resetRegs (fun a => inDieUnits d a || (dmemCounters d).contains a || a == Reg.QEV_DROP d)
  let r1 : State := { r with
    objs := r.objs.filter (fun e => clDie e.1 != d)
    work := r.work.filter (fun e => clDie e.1 != d)
    cores := r.cores.filter (fun e => clDie (e.1 / 4) != d)
    savedCores := r.savedCores.filter (fun e => clDie e.2.1 != d)
    caravans := r.caravans.filter (fun e => decide (96 ≤ e.1) || clDie e.1 != d)
    drfTests := r.drfTests.filter (fun cl => clDie cl != d)
    fab := { r.fab with reqs := r.fab.reqs.filter (fun q => decide (96 ≤ q.engine / 8) || clDie (q.engine / 8) != d) }
    snap := { r.snap with copies := r.snap.copies.filter (fun e => decide (e.1 < dieBase d) || decide (dieBase (d + 1) ≤ e.1)) } }
  let r2 := emptyCisterns r1 ((List.range 32).map (fun n => 32 * d + n))
  (r2.setFld Reg.SNP_VALID (4 * d) 4 0).setBit Reg.SNP_VALID (16 + d) false
/-- A reset of die d (R465, R482, R483), which is complete at once (log 30). -/
def State.resetDie (s : State) (d : Nat) : State :=
  let s0 := s.flushTaps (tapOfDie d)
  let s1 := abandonCrests s0 (s0.crestsOn d)
  let s2 := failPends (fun p => clDie p.cluster == d) s1 s1.place.pend
  let s3 := (killAll s2 ((s2.streams.filter (s2.onDie d)).map (fun e => e.1))).clearDie d
  let s4 := gateAll s3 ((List.range 4).map (fun r => 4 * d + r))
  let cls := (List.range 24).map (fun c => 24 * d + c)
  let s5 := (showSplit (makeAllShares s4 cls) cls).setCisterns d (if (s4.die d).night then 4 else 0)
  (s5.setBit Reg.OAS_RESET_CAUSE (4 + d) true).afterGone
def resetDies (v : Nat) (s : State) : List Nat → State
  | [] => s
  | d :: t => resetDies v (if bitAt v d then s.resetDie d else s) t
/-- A write of OAS_RESET; while fuses are programmed it acts when that ends (R483). A warm reset comes before the dies'. -/
def State.writeOasReset (s : State) (v : Nat) : State :=
  if s.sec.prog.isSome then
    { s with sec := { s.sec with
      warmDue := s.sec.warmDue || bitAt v 0
      dieDue := s.sec.dieDue ||| bitsAt v 4 4 } }
  else resetDies (bitsAt v 4 4) (if bitAt v 0 then s.warm else s) dieList
/-- WARM_RESET: a write of OAS_RESET (R482). -/
def execWarmReset (v : Word) (s : State) : Host.Outcome State Fault Refusal := .next (s.live (fun t => t.writeOasReset v.toNat))
/-- DIE_RESET: a write of OAS_RESET (R483). -/
def execDieReset (v : Word) (s : State) : Host.Outcome State Fault Refusal := .next (s.live (fun t => t.writeOasReset v.toNat))
/-- FUSE_PROGRAM_DONE: programming ends, verified or not, and resets that waited for it act (R418 to R421, R483). -/
def doFuseProgramDone (ok : Bool) (s : State) : State :=
  match s.sec.prog with
  | none => s
  | some p =>
    let s1 := s.programDone p ok
    let s2 : State := { s1 with sec := { s1.sec with
      warmDue := false
      dieDue := 0 } }
    s2.writeOasReset (b2n s1.sec.warmDue + s1.sec.dieDue * 16)
def execFuseProgramDone (ok : Bool) (s : State) : Host.Outcome State Fault Refusal := .next (s.live (doFuseProgramDone ok))

/-! Function-level reset (R388). -/

def disableRings (f : Nat) (s : State) : List Nat → State
  | [] => s
  | q :: t =>
    let s1 := (s.setBit (Reg.HQ_SQq_CFG f q) 5 false).setFld (Reg.HQ_SQq_STATUS f q) 16 2 0
    disableRings f ((s1.setBit (Reg.HQ_CQq_CFG f q) 4 false).setCqState f q {}) t
/-- A transfer of the function ends FAULTED, with no completion of its command (R197). -/
def Xfer.reset (x : Xfer) : Xfer :=
  { x.endWith 6 with cmd := none }
def Caravan.reset (c : Caravan) (f : Nat) : Caravan :=
  let g (x : Xfer) : Xfer := if x.fn = f then x.reset else x
  { c with
    ctxs := c.ctxs.map (fun e => (e.1, e.2.map g))
    waiting := c.waiting.map g }
/-- One function is reset. -/
def State.resetFn (s : State) (f : Nat) : State :=
  let s1 := disableRings f s (List.range 64)
  let s2 : State := { s1 with
    host := { s1.host with fetched := s1.host.fetched.filter (fun x => x.fn != f) }
    caravans := s1.caravans.map (fun e => (e.1, e.2.reset f)) }
  let mine (p : PendAdmit) : Bool := match p.src with | .command g _ _ => g == f | _ => false
  let s3 := failPends mine s2 s2.place.pend
  let s4 := killAll s3 ((s3.streams.filter (fun e => e.2.fn == f && (e.2.st != .closed || e.2.import_.isSome))).map (fun e => e.1))
  ((s4.resetRegs (hqCounterOf f)).raise Reg.HQ_INT_STATUS 2).afterGone
def resetFns (s : State) : List Nat → State
  | [] => s
  | f :: t => resetFns (s.resetFn f) t
/-- FUNCTION_LEVEL_RESET: of the physical function, it acts on every function. -/
def doFunctionLevelReset (f : Fin 64) (s : State) : State := if f.val = 0 then resetFns s (List.range 64) else s.resetFn f
def execFunctionLevelReset (fn : Fin 64) (s : State) : Host.Outcome State Fault Refusal :=
  .next (s.live (doFunctionLevelReset fn))

/-- PCIE_LINK_DOWN: LINK_CHG; what rate and width read while the link is down is open (log 4). -/
def doPcieLinkDown (s : State) : State :=
  let (v, s1) := s.free
  ((s1.setFld Reg.HQ_LINK 0 8 v.toNat).raise Reg.HQ_INT_STATUS 1).mgtEvent 2
def execPcieLinkDown (s : State) : Host.Outcome State Fault Refusal := .next (s.live doPcieLinkDown)

end Sys2Proof.Machine
end

