-- ==== Sys2Proof/Machine/RegView.lean ====
section
/-!
DEFINITION. What a read of each register gives (R5): the registers that hold a value give it, and those that report
other state are computed from that state. `z` is a free value, for what the spec leaves open.
-/

namespace Sys2Proof.Machine

/-- The low or the high word of a number that a pair shows: `o` is 0 or 4. -/
def pairWord (v o : Nat) : Word := BitVec.ofNat 32 (if o = 0 then v else v / 2 ^ 32)
/-- A number that saturates at 32 bits. -/
def satWord (v : Nat) : Word := BitVec.ofNat 32 (min v 0xFFFFFFFF)
/-- Word `i` of bytes. -/
def byteWord (l : List Byte) (i : Nat) : Word := BitVec.ofNat 32 (leVal (slice l (4 * i) 4))

/-! Timebase and placement. -/

/-- GRAIN and FRAME of a plane: 0 while it is disabled (Table 02-3). -/
def State.planeCount (s : State) (p : Nat) (frame : Bool) : Nat := ((s.plane p).map (fun x => x.count frame)).getD 0
/-- TCK (Table 02-3). -/
def State.viewTck (s : State) (o a : Nat) : Word :=
  if o = 0x10 ∨ o = 0x14 then pairWord s.tb.toNat (o % 8)
  else if 0x40 ≤ o ∧ o < 0x140 then
    let q := (o - 0x40) % 0x40
    let p := (o - 0x40) / 0x40
    if q = 0x08 ∨ q = 0x0C then pairWord (s.planeCount p false) (q % 8)
    else if q = 0x10 ∨ q = 0x14 then pairWord (s.planeCount p true) (q % 8)
    else s.reg a
  else s.reg a
/-- PLC_WAITc (Table 16-5). -/
def State.viewWait (s : State) (c : Nat) : Word :=
  let l := s.place.items.filter (fun i => !i.running && i.cls == c)
  BitVec.ofNat 32 (min l.length 0xFFFF + min ((l.map (fun i => i.waited)).foldl max 0) 0xFFFF * 2 ^ 16)
/-- PLC_CL_INFO of a cluster (Table 16-8). -/
def State.viewCluster (s : State) (cl : Nat) : Word :=
  if 96 ≤ cl then 7
  else
    let inst : Nat := (s.placedOn cl []).length + (s.place.crests.filter (fun c => c.cluster == cl)).length
    BitVec.ofNat 32 (s.clPool cl + b2n (s.awake cl) * 8 + b2n (s.draining (s.clPool cl)) * 16 +
      b2n (s.place.items.any (fun i => i.cluster == cl && i.urgent)) * 32 + min inst 255 * 2 ^ 8 +
      s.storeFree cl [] / 0x10000 * 2 ^ 16)
/-- PLC. -/
def State.viewPlc (s : State) (o a : Nat) : Word :=
  if o = 0x18 then BitVec.ofNat 32 (min s.headroom 0xFFFF)
  else if 0x20 ≤ o ∧ o < 0x3C then s.viewWait ((o - 0x20) / 4)
  else if o = 0x84 then s.viewCluster (s.fld Reg.PLC_CL_SEL 0 7)
  else s.reg a

/-! Caches and streams. -/

/-- KVC (Tables 11-6, 11-8). -/
def State.viewKvc (s : State) (o a : Nat) : Word :=
  let h := (s.sidOf (s.rn Reg.KVC_Q_HANDLE)).getD (2 ^ 20)
  let k := (s.strm h).kv
  if o = 0 then BitVec.ofNat 32 (putBits (s.rn a) 0 1 (b2n s.pfxEn))
  else if o = 0x84 then
    BitVec.ofNat 32 (k.st.code + b2n k.pinned * 8 + b2n k.staging.isSome * 16 + b2n k.ring * 32)
  else if o = 0x88 then satWord k.ctx
  else if o = 0x8C then BitVec.ofNat 32 (min (s.kvPages h) 0xFFFFFF)
  else if o = 0x90 ∨ o = 0x94 then pairWord (s.strm h).lastDone.toNat (o % 8)
  else s.reg a
/-- STRM_Q_STATE (Table 12-12). -/
def State.viewStrmState (s : State) (x : Stream) : Word :=
  if x.st = .closed then 0
  else
    let g := (s.graphOf x.graph).getD {}
    BitVec.ofNat 32 (x.st.code + b2n x.starved * 8 + b2n x.resumeTick.isSome * 16 + x.cls % 8 * 32 + g.plane % 4 * 2 ^ 8 +
      b2n g.frame * 2 ^ 10 + b2n g.ticked * 2 ^ 11 + x.fn % 64 * 2 ^ 12)
/-- STRM (Table 12-11). -/
def State.viewStrm (s : State) (o a : Nat) : Word :=
  let x := s.strm ((s.sidOf (s.rn Reg.STRM_Q_HANDLE)).getD (2 ^ 20))
  if o = 0x10 then BitVec.ofNat 32 (s.streams.filter (fun e => e.2.st != .closed)).length
  else if o = 0x14 then BitVec.ofNat 32 (s.streams.filter (fun e => e.2.st == .swapped)).length
  else if o = 0x84 then s.viewStrmState x
  else if o = 0x88 ∨ o = 0x8C then pairWord x.pos (o - 0x88)
  else if o = 0x90 ∨ o = 0x94 then pairWord x.steps (o - 0x90)
  else if o = 0x98 then BitVec.ofNat 32 (min x.queue.length 64 + min x.queued 0xFFFFFF * 2 ^ 8)
  else if o = 0x9C then BitVec.ofNat 32 (x.cluster.getD 127)
  else if o = 0xA0 then satWord x.zeroed
  else s.reg a
/-- Frames of a pool in use or free, without those retired (KVP_TOTALi). -/
def State.poolTotal (s : State) (x : PagePool) : Nat := s.poolFree { x with used := [] }
/-- Records that streams hold and whose REFCNT is above 1, each with the frames of its pages. -/
def State.sharedPages (s : State) : List (Nat × Nat) :=
  (s.streams.flatMap (fun e => (e.2.kv.recs.filter (fun r => decide (1 < s.refCnt r.2))).flatMap (fun r =>
    (s.recPages r.2).map (fun f => (f, ((s.kvOf e.1).map KvDecl.frames).getD 0))))).eraseDups
/-- KVP_SHAREDi: frames of the pool in pages that such a record names. -/
def State.poolShared (s : State) (x : PagePool) : Nat :=
  sumMap (fun (p : Nat × Nat) => if x.holds p.1 then p.2 else 0) s.sharedPages
/-- KVP of die d (Table 11-9). -/
def State.viewKvp (s : State) (d o a : Nat) : Word :=
  let q := o % 0x10
  match s.pagePool d (o / 0x10) with
  | none => if q = 0xC then s.reg a else 0
  | some x =>
    if q = 0 then satWord (s.poolTotal x)
    else if q = 4 then satWord (s.kvpFree d (o / 0x10))
    else if q = 8 then satWord (s.poolShared x)
    else if q = 0xC ∧ s.kvpFree d (o / 0x10) < s.rn a then satWord (s.kvpFree d (o / 0x10))
    else s.reg a

/-! Loader, security and meter. -/

/-- SPL (Table 03-7): the references present, and the composite digest. -/
def State.viewSpl (s : State) (o a : Nat) : Word :=
  if o = 0x34 then
    BitVec.ofNat 32 (s.weights.length % 2 ^ 16 + (s.weights.filter (fun w => w.present)).length % 2 ^ 16 * 2 ^ 16)
  else if 0x40 ≤ o ∧ o < 0x80 then byteWord s.digest ((o - 0x40) / 4)
  else s.reg a
/-- SEC (Tables 19-8, 19-11). -/
def State.viewSec (s : State) (o a : Nat) : Word :=
  if 0x100 ≤ o ∧ o < 0x300 then
    let i := (o - 0x100) / 0x40
    let q := o % 0x40
    if q = 0 then BitVec.ofNat 32 (s.slotState i + (s.slot i).length % 8 * 4 + (if i = 0 then 1 else 4) * 32)
    else byteWord (s.slotKey i) ((q - 0x20) / 4)
  else if 0x300 ≤ o ∧ o < 0x3C0 then byteWord s.sec.idRecord ((o - 0x300) / 4)
  else if 0x600 ≤ o ∧ o < 0x640 then byteWord s.slotDigest ((o - 0x600) / 4)
  else if 0x700 ≤ o ∧ o < 0x780 then
    byteWord (s.sec.mfgKeys.getD ((o - 0x700) / 0x20) (List.replicate 32 0)) ((o - 0x700) % 0x20 / 4)
  else s.reg a
/-- The byte of the meter's ring at an offset, where a whole record covers it. -/
def Meter.ringByte (m : Meter) (o : Nat) : Option Byte :=
  m.ring.findSome? (fun r => let k := (o + 262144 - r.ofs) % 262144; r.bytes[k]?)
/-- SGL (Tables 20-7, 20-8), served from the island's copy (R441, R445). -/
def State.viewSgl (s : State) (z : Dword) (o : Nat) : Word :=
  let m := s.meter
  if o = 0 then
    BitVec.ofNat 32 (b2n m.sealOpen + b2n m.sealLogged * 2 + b2n m.diverged * 4 + b2n m.powered * 8 + m.per % 8 * 16)
  else if o = 4 then BitVec.ofNat 32 (leVal (slice m.idRecord 12 2))
  else if o = 8 then BitVec.ofNat 32 (recordPeriod m.per)
  else if o = 0xC then BitVec.ofInt 32 m.divPpm
  else if o = 0x10 ∨ o = 0x14 then pairWord m.latest.seq (o - 0x10)
  else if o = 0x18 ∨ o = 0x1C then pairWord m.time (o - 0x18)
  else if o = 0x20 then BitVec.ofNat 32 m.head
  else if o = 0x24 then BitVec.ofNat 32 ((m.ring.head?.map (fun r => r.ofs)).getD m.head)
  else if 0x40 ≤ o ∧ o < 0x60 then byteWord s.meterKey ((o - 0x40) / 4)
  else if 0x100 ≤ o ∧ o < 0x1C0 then byteWord m.idRecord ((o - 0x100) / 4)
  else if 0x1000 ≤ o ∧ o < 0x2000 then
    pairWord ((s.meterCnt ((o - 0x1000) / 0x40)).toList.getD ((o - 0x1000) % 0x40 / 8) 0) (o % 8)
  else if 0x40000 ≤ o ∧ o < 0x80000 then
    let byteAt (i : Nat) : Byte := (m.ringByte (o - 0x40000 + i)).getD (BitVec.ofNat 8 (bitsAt z.toNat (8 * i) 8))
    BitVec.ofNat 32 (leVal [byteAt 0, byteAt 1, byteAt 2, byteAt 3])
  else 0

/-! Errors, listening, audio. -/

/-- ERR (Table 21-10). -/
def State.viewErr (s : State) (o a : Nat) : Word :=
  if o = 4 then BitVec.ofNat 32 (b2n (decide (s.errOpen = 1024)) + b2n s.errs.mirrorStopped * 2 +
    b2n (!s.errs.regionWins.isEmpty || !s.errs.packageWins.isEmpty) * 4)
  else s.reg a
/-- RATE_ERR of a channel with a source (R304, Table 14-13). -/
def State.rateErr (s : State) (ch : Nat) : Bool :=
  let c := s.chan ch
  let fed := if ch < 16384 then c.kind != 0 else (s.arr (ch - 16384)).mode != 0
  let cls := s.fld (Reg.SAP_Pn_RATE c.portOf) 20 4
  fed && (decide (ch < 16384) && c.kind == 1 && cls != 1 && cls != 2 ||
    s.rbit (Reg.RPL_Gg_CFG c.group) 23 != decide (16384 ≤ ch))
/-- RPL_CH_CFG, RPL_CH_SRC and RPL_CH_STATE of a channel (Tables 14-12, 14-13). -/
def State.viewChan (s : State) (ch o : Nat) : Word :=
  let c := s.chan ch
  if o = 0x84 then c.pendCfg.getD c.cfg
  else if o = 0x88 then (if 16384 ≤ ch then 0xC0000000 else c.pendSrc.getD c.src)
  else
    let mic := s.fld (Reg.ACF_Aa_CFG (ch - 16384)) 4 4
    let lp := decide (16384 ≤ ch) && s.rbit (Reg.ACF_CALm mic) 31
    BitVec.ofNat 32 (c.st.code + b2n lp * 32 + b2n c.partial_ * 64 + b2n (s.rateErr ch) * 128 + min c.hold 0xFFFF * 2 ^ 16)
/-- RPL (Table 14-11). -/
def State.viewRpl (s : State) (z : Dword) (o a : Nat) : Word :=
  if o = 0x68 then BitVec.ofNat 32 z.toNat &&& 0xFFFF00FF#32
  else if o = 0x84 ∨ o = 0x88 ∨ o = 0x8C then
    (if s.fld Reg.RPL_CH_SEL 0 15 < 16388 then s.viewChan (s.fld Reg.RPL_CH_SEL 0 15) o else 0)
  else s.reg a
/-- SAP (Table 15-5). -/
def State.viewSap (s : State) (o a : Nat) : Word :=
  if o = 0 then
    BitVec.ofNat 32 (sumMap (fun n => b2n (s.reg (Reg.SAP_Pn_INT_STATUS n) &&& s.reg (Reg.SAP_Pn_INT_EN n) != 0) * 2 ^ n)
      (List.range 8))
  else s.reg a

/-! Fabric and host queues. -/

/-- ERG_DST_ROUTE of a device (Table 18-6). -/
def State.dstRoute (s : State) (dev : Nat) : Nat :=
  match (s.memberOf dev).bind s.routeTo with
  | some (c, ports) => min c 0xFE + sumMap (fun p => 2 ^ (16 + p)) ports
  | none => if dev = s.deviceId then 0 else 0xFF
/-- ERG. -/
def State.viewErg (s : State) (o a : Nat) : Word :=
  let d := s.fld Reg.ERG_DST_SEL 0 12
  if o = 0x44 then satWord (AMap.read (fun _ => 0) s.fab.unr d)
  else if o = 0x48 then BitVec.ofNat 32 (s.dstRoute d)
  else s.reg a
/-- Streams of a function that are open. -/
def State.openOf (s : State) (f : Nat) : Nat := (s.streams.filter (fun e => e.2.st != .closed && e.2.fn == f)).length
/-- HQ of BAR0 (Table 17-10): function 0 is enabled, and whether a virtual function is comes from the host's
configuration space, which the spec does not describe (log 4). -/
def State.viewHq (s : State) (z : Dword) (o a : Nat) : Word :=
  if 0x1000 ≤ o ∧ o % 0x40 = 0x18 then
    let f := (o - 0x1000) / 0x40
    BitVec.ofNat 32 ((if f = 0 then 1 else z.toNat % 2) + s.openOf f * 4)
  else s.reg a
/-- BAR2 of function f (Table 17-9). -/
def State.viewBar2 (s : State) (f o a : Nat) : Word :=
  if o = 0x4000 then
    BitVec.ofNat 32 (f + s.fld (Reg.HQ_FNf_LIMIT f) 0 3 * 2 ^ 6 + s.fld (Reg.HQ_FNf_LIMIT f) 4 4 * 2 ^ 12 +
      s.fld (Reg.HQ_FNf_LIMIT f) 8 16 * 2 ^ 16)
  else s.reg a

/-! Engines. -/

/-- CIS of engine e (Tables 08-12, 08-13). -/
def State.viewCis (s : State) (e o a : Nat) : Word :=
  let x := s.cis e
  if o = 0 then
    match x.running with
    | some r => if s.fld a 0 3 = 0 then BitVec.ofNat 32 (1 + b2n r.item.ticked * 128 + r.item.op % 16 * 256) else s.reg a
    | none => s.reg a
  else if o = 4 then BitVec.ofNat 32 (min x.queue.length 64)
  else if o = 8 then BitVec.ofNat 32 (min x.bad.length 32)
  else s.reg a
/-- The transfers in the contexts of an engine, by context. -/
def Caravan.busy (c : Caravan) : List (Nat × Xfer) := c.ctxs.filterMap (fun e => e.2.map (fun x => (e.1, x)))
def Xfer.faultWait (x : Xfer) : Bool := match x.wait with | some (.fault _) => true | _ => false
/-- CAR of engine e (Tables 09-8, 09-9): the tags that local accesses hold at this instant are open while a context is
in use; Erg tags are the engine's requests outstanding. -/
def State.viewCar (s : State) (z : Dword) (e o a : Nat) : Word :=
  let l := (s.car e).busy
  let mask (p : Xfer → Bool) : Nat := sumMap (fun (c : Nat × Xfer) => b2n (p c.2) * 2 ^ c.1) l
  if o = 0 then
    if l.isEmpty then s.reg a
    else BitVec.ofNat 32 (1 + l.length % 16 * 16 + b2n (l.any (fun c => c.2.ticked)) * 256)
  else if o = 4 then
    BitVec.ofNat 32 (mask (fun _ => true) + mask Xfer.faultWait * 2 ^ 8 + mask (fun x => x.wait == some .swap) * 2 ^ 16)
  else if o = 0x14 then
    let erg : Nat := (s.fab.reqs.filter (fun r => r.engine / 8 == e)).length
    let host := z.toNat % (min 1024 (max 1 (s.fld (Reg.CAR_TAG_CFG e) 0 11)) + 1)
    BitVec.ofNat 32 ((if l.isEmpty then 0 else host + z.toNat / 2 ^ 32 % 257 * 2 ^ 11) + erg % 2 ^ 10 * 2 ^ 20)
  else s.reg a
/-- CRN of engine e (Table 09-12). -/
def State.viewCrn (s : State) (z : Dword) (e o a : Nat) : Word :=
  let i := (o - 0x40) / 0x40
  let q := (o - 0x40) % 0x40
  if o = 0 then
    let held := s.fld a 0 4
    if held ≠ 0 ∧ s.fld a 4 3 = 0 then BitVec.ofNat 32 (held + 16) else s.reg a
  else if 0x40 ≤ o ∧ (q = 0x28 ∨ q = 0x2C) then
    let c := s.crnCfg e i
    if 8 ≤ c.w ∧ c.w ≤ 64 then pairWord (cairnResult c (s.pair (Reg.CRN_VALUEs_LO e i) % 2 ^ c.w)) (q - 0x28)
    else pairWord z.toNat (q - 0x28)
  else s.reg a

/-! The whole map. -/

/-- An address inside a snapshot window (Table 21-6). -/
def inSnapWindow (a : Nat) : Bool :=
  decide (0x680000 ≤ a ∧ a < 0x69B300) ||
  decide (0x1000000 ≤ a ∧ a < 0x3000000) &&
    (let o := (a - 0x1000000) % 0x800000
     decide (0x80000 ≤ o ∧ o < 0x100000) ||
     decide (0x200000 ≤ o ∧ o < 0x600000) && decide (0x10000 ≤ o % 0x100000 ∧ o % 0x100000 < 0xD0000) &&
       decide (0x9000 ≤ (o % 0x100000 - 0x10000) % 0x20000 ∧ (o % 0x100000 - 0x10000) % 0x20000 < 0xA000))
/-- The units of a cluster by slot: offset and table (Table 21-6). -/
def clusterUnits : List (Nat × List RegRow) :=
  [(0x0000, regsME), (0x1000, regsME), (0x2000, regsVEC), (0x3000, regsNMD), (0x3400, regsNMD), (0x3800, regsNMD),
   (0x3C00, regsNMD), (0x4000, regsCAR), (0x6000, regsDRF), (0x7000, regsSMP), (0x8000, regsQST), (0xA000, regsTBG)]
/-- The other blocks of the package: source, window and table (Table 21-6). -/
def packageUnits : List (Nat × Nat × Nat × List RegRow) :=
  [(0x100000, 0x690000, 0x1000, regsPLC), (0x180000, 0x691000, 0x1000, regsKVC), (0x190000, 0x692000, 0x1000, regsSTRM),
   (0x200000, 0x693000, 0x1000, regsTCK), (0x700000, 0x694000, 0x1000, regsRPL), (0x780000, 0x695000, 0x1000, regsACF),
   (0x800000, 0x696000, 0x2000, regsSAP), (0x900000, 0x698000, 0x1000, regsERG), (0xA00000, 0x699000, 0x2000, regsHQ),
   (0x600000, 0x69B000, 0x300, regsERR)]
/-- The register that a word of a snapshot window is a copy of (Table 21-6); none for headers and gaps. -/
def snapSource (a : Nat) : Option Nat :=
  if a < 0x690000 then some (a - 0x600000)
  else if a < 0x700000 then
    (packageUnits.find? (fun u => decide (u.2.1 ≤ a ∧ a < u.2.1 + u.2.2.1))).map (fun u => u.1 + (a - u.2.1))
  else
    let o := (a - 0x1000000) % 0x800000
    let b := a - o
    if o < 0x90000 then some (b + (o - 0x80000))
    else if 0xC0000 ≤ o ∧ o < 0xC2000 then some (b + 0x100000 + (o - 0xC0000) / 0x100 * 0x1000 + o % 0x100)
    else if o < 0x100000 then none
    else
      let q := (o % 0x100000 - 0x10000) % 0x20000
      let c := a - q
      if q < 0x9C00 then ((clusterUnits[(q - 0x9000) / 0x100]?).map (fun u => c + u.1 + q % 0x100))
      else if q < 0x9E00 then some (c + 0x5000 + (q - 0x9C00))
      else none
/-- A word that lies at the low word of a snapshot header's time (Table 21-7). -/
def isHeaderLow (a : Nat) : Bool :=
  decide (0x1000000 ≤ a) &&
    (let o := (a - 0x1000000) % 0x800000
     o == 0xFF000 || decide (0x200000 ≤ o) && (o % 0x100000 - 0x10000) % 0x20000 == 0x9F00)
/-- A register of die d, at offset `o` of its window; DRF_TOUT reads zero while its cluster is gated (R137). -/
def State.viewDie (s : State) (z : Dword) (d o a : Nat) : Word :=
  if 0x9000 ≤ o ∧ o < 0xA000 then s.viewKvp d (o - 0x9000) a
  else if 0x100000 ≤ o ∧ o < 0x120000 then s.viewCis (32 * d + (o - 0x100000) / 0x1000) (o % 0x1000) a
  else if 0x200000 ≤ o then
    let r := (o - 0x200000) / 0x100000
    let q := o % 0x100000 - 0x10000
    let cl := 24 * d + 6 * r + q / 0x20000
    let u := q % 0x20000
    if 0x4000 ≤ u ∧ u < 0x5000 then s.viewCar z cl (u - 0x4000) a
    else if 0x5000 ≤ u ∧ u < 0x6000 then s.viewCrn z cl (u - 0x5000) a
    else if 0x6070 ≤ u ∧ u < 0x6080 ∧ s.gated cl then 0
    else s.reg a
  else s.reg a
/-- A register of BAR0 that has a row. -/
def State.viewBar0 (s : State) (z : Dword) (a : Nat) : Word :=
  if a < 0x80000 then s.reg a
  else if a < 0x90000 then
    (if a % 0x2000 < 0x1000 then s.viewCar z (96 + (a - 0x80000) / 0x2000) (a % 0x2000) a
     else s.viewCrn z (96 + (a - 0x80000) / 0x2000) (a % 0x1000) a)
  else if a < 0x100000 then s.reg a
  else if a < 0x180000 then s.viewPlc (a - 0x100000) a
  else if a < 0x190000 then s.viewKvc (a - 0x180000) a
  else if a < 0x200000 then s.viewStrm (a - 0x190000) a
  else if a < 0x300000 then s.viewTck (a - 0x200000) a
  else if a < 0x400000 then s.viewSpl (a - 0x300000) a
  else if a < 0x500000 then s.viewSec (a - 0x400000) a
  else if a < 0x600000 then s.viewSgl z (a - 0x500000)
  else if a < 0x700000 then s.viewErr (a - 0x600000) a
  else if a < 0x780000 then s.viewRpl z (a - 0x700000) a
  else if a < 0x800000 then s.reg a
  else if a < 0x900000 then s.viewSap (a - 0x800000) a
  else if a < 0xA00000 then s.viewErg (a - 0x900000) a
  else if a < 0x1000000 then s.viewHq z (a - 0xA00000) a
  else s.viewDie z ((a - 0x1000000) / 0x800000) ((a - 0x1000000) % 0x800000) a
/-- What a read of a register gives (R5, R6, R11): WO registers and reserved space read zero. -/
def State.viewReg (s : State) (z : Dword) (a : Nat) : Word :=
  if inSnapWindow a then AMap.read (fun _ => 0) s.snap.copies a
  else match regRow a with
    | none => 0
    | some r =>
      if r.acc = .wo then 0
      else if a < 0x4000000 then s.viewBar0 z a
      else s.viewBar2 ((a - bar2Base 0) / 0x10000) ((a - bar2Base 0) % 0x10000) a
/-- A read with a free value of its own. -/
def State.readReg (s : State) (a : Nat) : Word × State :=
  let (z, s1) := s.free
  (s.viewReg z a, s1)
/-- Reads `n` consecutive words, each whole. -/
def State.readRegs (s : State) (a : Nat) : Nat → List Byte × State
  | 0 => ([], s)
  | n + 1 =>
    let (v, s1) := s.readReg a
    let (l, s2) := s1.readRegs (a + 4) n
    (leBytes 4 v.toNat ++ l, s2)

end Sys2Proof.Machine
end

