-- ==== Sys2Proof/Machine/CmdSnap.lean ====
section
/-!
DEFINITION. Meanings of the snapshot commands (R412, R459 to R466): triggers, the latch and its copies, and the pins.
-/

namespace Sys2Proof.Machine

/-! Triggers (R461, R462). -/

/-- SNAP_FIRE: SNP_CTRL.FIRE, at the timebase of the write plus SNP_LEAD. -/
def doSnapFire (s : State) : State := (s.originate (s.tb.toNat + s.snapLead) 0 (s.rbit Reg.SNP_CFG 20)).2
def execSnapFire (s : State) : Host.Outcome State Fault Refusal := .next (s.live doSnapFire)
/-- SNAP_BCAST: SNP_CTRL.BCAST, at SNP_TARGET, always flooded. -/
def doSnapBcast (s : State) : State := (s.originate (s.pair Reg.SNP_TARGET_LO) 1 true).2
def execSnapBcast (s : State) : Host.Outcome State Fault Refusal := .next (s.live doSnapBcast)
/-- SNAP_IN_EDGE: an edge of SNAP_IN after its 20 ns of filtering. -/
def doSnapInEdge (rising : Bool) (s : State) : State :=
  if s.rbit Reg.SNP_CFG 18 && s.rbit Reg.SNP_CFG 19 != rising then
    (s.originate (s.tb.toNat + s.snapLead) 2 (s.rbit Reg.SNP_CFG 21)).2
  else s
def execSnapInEdge (rising : Bool) (s : State) : Host.Outcome State Fault Refusal := .next (s.live (doSnapInEdge rising))
/-- FABRIC_SNAPSHOT_TRIGGER (R412): a number not seen before is flooded on and offered. -/
def doFabricTrigger (t num : Nat) (s : State) : State :=
  if !s.rbit Reg.ERG_CTRL 0 || s.snap.seen.contains num then s
  else
    let s1 : State := { s with snap := { s.snap with seen := num :: s.snap.seen } }
    let s2 := s1.sendAll (.snap t num) (List.range 16)
    (s2.offerTrigger { t := t, num := num, source := 4, late := decide (t < s.tb.toNat) }).2
def execFabricSnapshotTrigger (t : Dword) (num : Word) (s : State) : Host.Outcome State Fault Refusal :=
  .next (s.live (doFabricTrigger t.toNat num.toNat))
/-- SNAP_RELEASE: the held snapshot is freed. -/
def doSnapRelease (s : State) : State :=
  let s1 : State := { s with snap := { s.snap with held := none } }
  (s1.setBit Reg.SNP_STATUS 1 false).setBit Reg.SNP_STATUS 2 false
def execSnapRelease (s : State) : Host.Outcome State Fault Refusal := .next (s.live doSnapRelease)
/-- SNAP_CANCEL: the pending trigger is discarded uncounted. -/
def doSnapCancel (s : State) : State :=
  let s1 : State := { s with snap := { s.snap with pending := none } }
  s1.setBit Reg.SNP_STATUS 0 false
def execSnapCancel (s : State) : Host.Outcome State Fault Refusal := .next (s.live doSnapCancel)
/-- SNP_CNT_CLR (R467). -/
def doSnpCntClr (s : State) : State := s.zeroRegs [Reg.SNP_MISSED, Reg.SNP_FIRED]
def execSnpCntClr (s : State) : Host.Outcome State Fault Refusal := .next (s.live doSnpCntClr)

/-! The latch (R459, R460, R463). -/

/-- The offsets of a table's registers below a limit. -/
def rowOffsets (limit : Nat) (l : List RegRow) : List Nat :=
  (l.flatMap (fun r => (List.range r.count).map (fun i => r.off + i * r.stride))).filter (fun o => decide (o < limit))
/-- Copies the registers of a unit from `src` to a window at `dst`. -/
def copyUnit (src dst : Nat) (s : State) : List Nat → State
  | [] => s
  | o :: t =>
    let (v, s1) := s.readReg (src + o)
    copyUnit src dst { s1 with snap := { s1.snap with
      copies := AMap.write (fun _ => 0) s1.snap.copies (dst + o) v } } t
/-- Stores a header (Table 21-7). -/
def copyHeader (dst : Nat) (x : Trigger) (s : State) : State :=
  let put (a : Nat) (v : Word) (m : AMap Word) : AMap Word := AMap.write (fun _ => 0) m a v
  let m := put (dst + 0xC) 1 (put (dst + 8) (BitVec.ofNat 32 x.num)
    (put (dst + 4) (pairWord x.t 4) (put dst (pairWord x.t 0) s.snap.copies)))
  { s with snap := { s.snap with copies := m } }
def latchUnits (base : Nat) (s : State) : List ((Nat × List RegRow) × Nat) → State
  | [] => s
  | (u, k) :: t => latchUnits base (copyUnit (base + u.1) (base + 0x9000 + k * 0x100) s (rowOffsets 0x100 u.2)) t
/-- Latches a cluster that is not gated. -/
def latchCluster (x : Trigger) (s : State) (cl : Nat) : State :=
  if !s.awake cl || s.gated cl then s
  else
    let b := clBase cl
    let s1 := latchUnits b s clusterUnits.zipIdx
    copyHeader (b + 0x9F00) x (copyUnit (b + 0x5000) (b + 0x9C00) s1 (rowOffsets 0x200 regsCRN))
/-- The tables of a die's common registers. -/
def dieCommon : List Nat :=
  rowOffsets 0x8000 regsDMEM ++ (rowOffsets 0x1000 regsQEV).map (fun o => 0x8000 + o) ++
    (rowOffsets 0x1000 regsKVP).map (fun o => 0x9000 + o)
/-- Latches a cistern engine, unless it is disabled. -/
def latchCistern (s : State) (e : Nat) : State :=
  if s.fld (Reg.CIS_STATUS e) 0 3 = 3 then s
  else copyUnit (cisBase e) (dieBase (e / 32) + 0xC0000 + e % 32 * 0x100) s (rowOffsets 0x100 regsCIS)
/-- Latches a die that is not in Night. -/
def latchDie (x : Trigger) (s : State) (d : Nat) : State :=
  if (s.die d).night then s
  else
    let s1 := copyUnit (dieBase d) (dieBase d + 0x80000) s dieCommon
    let s2 := ((List.range 32).map (fun n => 32 * d + n)).foldl latchCistern s1
    copyHeader (dieBase d + 0xFF000) x s2
/-- Latches an Oasis Caravan engine and its cairn unit. -/
def latchOasis (s : State) (e : Nat) : State :=
  let o := e * 0x2000
  copyUnit (0x81000 + o) (0x681000 + o) (copyUnit (0x80000 + o) (0x680000 + o) s (rowOffsets 0x1000 regsCAR))
    (rowOffsets 0x1000 regsCRN)
def latchPackage (s : State) : State :=
  packageUnits.foldl (fun t u => copyUnit u.1 u.2.1 t (rowOffsets u.2.2.1 u.2.2.2)) ((List.range 8).foldl latchOasis s)
/-- The regions and dies that latch, as SNP_VALID shows them. -/
def State.latched (s : State) : Nat :=
  sumMap (fun j => b2n (s.rbit Reg.PLC_AWAKE j) * 2 ^ j) (List.range 16) +
    sumMap (fun d => b2n (!(s.die d).night) * 2 ^ (16 + d)) (List.range 4)
/-- A snapshot fires: every unit that is not gated, in Night or disabled latches, and the rest reads zero. -/
def State.fireSnapshot (s : State) (x : Trigger) : State :=
  let s0 : State := { s with snap := { s.snap with copies := [] } }
  let s1 := latchPackage ((List.range 4).foldl (latchDie x) (allClusters.foldl (latchCluster x) s0))
  let s2 : State := { s1 with
    snap := { s1.snap with
      pending := none
      held := some x
      outTb := s.tb.toNat }
    pins := { s1.pins with snapOut := true } }
  let s3 := ((s2.showTrigger x).setBit Reg.SNP_STATUS 0 false).setBit Reg.SNP_STATUS 1 true
  let s4 := (s3.setBit Reg.SNP_STATUS 2 x.late).setN Reg.SNP_VALID s3.latched
  let s5 := (s4.bump Reg.SNP_FIRED 1).raise Reg.SNP_INT_STATUS 0
  if x.late then s5.raise Reg.SNP_INT_STATUS 2 else s5
/-- SNAPSHOT_LATCH: the timebase has reached the pending target. -/
def doSnapshotLatch (s : State) : State :=
  match s.snap.pending with
  | none => s
  | some x => if s.tb.toNat < x.t then s else s.fireSnapshot x
def execSnapshotLatch (s : State) : Host.Outcome State Fault Refusal := .next (s.live doSnapshotLatch)
/-- SNAP_OUT_END (R464): OUT_WIDTH µs have passed; 0 acts as 1. -/
def doSnapOutEnd (s : State) : State :=
  if !s.pins.snapOut then s
  else
    let t := s.reach (s.snap.outTb + 1000 * max 1 (s.fld Reg.SNP_CFG 24 8))
    { t with pins := { t.pins with snapOut := false } }
def execSnapOutEnd (s : State) : Host.Outcome State Fault Refusal := .next (s.live doSnapOutEnd)

end Sys2Proof.Machine
end

