-- ==== Sys2Proof/Machine/CmdReg.lean ====
section
/-!
DEFINITION. Meanings of register accesses (R4 to R8, R11, R500): a write of any register of BAR0 and BAR2, and the read
of a register with its shadow. A write of a register whose fields have commands of their own does what those commands do.
-/

namespace Sys2Proof.Machine

/-! Plain writes (R5, R6). -/

/-- A write that acts by its access code alone: writable bits replaced, W1C bits cleared. -/
def State.writePlain (s : State) (a : Nat) (v : Word) : State :=
  match regRow a with
  | none => s
  | some r =>
    match r.acc with
    | .rw => s.setReg a (v &&& BitVec.ofNat 32 r.rw)
    | .rs => s.setReg a (v &&& BitVec.ofNat 32 r.rw)
    | .w1c => s.setReg a (s.reg a &&& ~~~(v &&& BitVec.ofNat 32 r.w1c))
    | _ => s
/-- A write of a log2 size: a value outside its range holds the nearer bound (R500). -/
def State.writeLog (s : State) (a len lo hi : Nat) (v : Word) : State :=
  s.setN a (max lo (min hi (bitsAt v.toNat 0 len)))

/-! Blocks of BAR0. -/

/-- OAS with MMR (Tables 22-10, 20-9); the mirror's ring is set only while EN is 0 (R446). -/
def State.writeOas (s : State) (a : Nat) (v : Word) : State :=
  if a = Reg.OAS_RESET then s.writeOasReset v.toNat
  else if a = Reg.OAS_CNT_CLR then s.cntClr v oasCounters
  else if a = Reg.PWR_PEAK then s.setReg Reg.PWR_PEAK 0
  else if a = Reg.PWR_CTRL ∨ a = Reg.PWR_CAP then (s.writePlain a v).applyPower
  else if a = Reg.MMR_CTRL then doMmrCntClr v s
  else if (a = Reg.MMR_BASE_LO ∨ a = Reg.MMR_BASE_HI ∨ a = Reg.MMR_SIZE) ∧ s.rbit Reg.MMR_CTRL 0 then s
  else if a = Reg.MMR_SIZE then s.writeLog a 5 16 24 v
  else s.writePlain a v
/-- PLC (Table 16-5). -/
def State.writePlc (s : State) (a : Nat) (v : Word) : State :=
  if a = Reg.PLC_CNT_CLR then s.cntClr v (wordsFrom Reg.PLC_ADMIT Reg.PLC_WAKE_DENIED) else s.writePlain a v
/-- KVC (Table 11-6): the index and the record pool are set only while no structure is loaded (R258). -/
def State.writeKvc (s : State) (a : Nat) (v : Word) : State :=
  let o := a - 0x180000
  if a = Reg.KVC_CNT_CLR then s.cntClr v (wordsFrom Reg.KVC_SWAP_OUT_LO Reg.KVC_RING_TMO)
  else if 0x10 ≤ o ∧ o < 0x2C ∧ s.fld Reg.SPL_STATUS 8 3 ≠ 1 then s
  else if a = Reg.KVC_PFX_SIZE then
    (if bitsAt v.toNat 0 5 = 0 then s.setReg a 0 else s.writeLog a 5 10 24 v)
  else if a = Reg.KVC_REC_COUNT then
    let n := min (bitsAt v.toNat 0 23) 4194304
    (s.setN a n).setN Reg.KVC_REC_FREE n
  else if 0x100 ≤ o ∧ o % 0x10 = 8 ∧ bitsAt v.toNat 0 29 < s.rn (a + 4) then s
  else s.writePlain a v
/-- STRM (Table 12-11). -/
def State.writeStrm (s : State) (a : Nat) (v : Word) : State :=
  if a = Reg.STRM_CNT_CLR then s.cntClr v strmCounters else s.writePlain a v
/-- TCK (Table 02-3). -/
def State.writeTck (s : State) (a : Nat) (v : Word) : State :=
  if a = Reg.TCK_CTRL then doTbLoad v s
  else if a = Reg.TCK_PPS_EPOCH_LO then doPpsEpochWrite false v s
  else if a = Reg.TCK_PPS_EPOCH_HI then doPpsEpochWrite true v s
  else if a = Reg.TCK_MISS_TAIL then doRingTailWrite .miss v s
  else if a = Reg.TCK_MISS_SIZE then s.writeLog a 5 8 16 v
  else s.writePlain a v
/-- SPL (Table 03-7). -/
def State.writeSpl (s : State) (a : Nat) (v : Word) : State :=
  if a = Reg.SPL_CTRL then s.writeSplCtrl v.toNat else s.writePlain a v
/-- SEC (Tables 19-8, 19-9). -/
def State.writeSec (s : State) (a : Nat) (v : Word) : State :=
  if a = Reg.SEC_CTRL then
    let s1 := if bitAt v.toNat 0 then doSlotCommand (fun _ => true) s else s
    if bitAt v.toNat 1 then doQuote s1 else s1
  else if a = Reg.SEC_CNT_CLR then s.cntClr v (wordsFrom Reg.SEC_VERIFY_OK Reg.SEC_REQS)
  else s.writePlain a v
/-- SNP_CTRL (Table 21-10), bit by bit from the lowest. -/
def State.writeSnpCtrl (s : State) (v : Nat) : State :=
  let s1 := if bitAt v 0 then doSnapFire s else s
  let s2 := if bitAt v 1 then doSnapBcast s1 else s1
  let s3 := if bitAt v 2 then doSnapRelease s2 else s2
  let s4 := if bitAt v 3 then doSnapCancel s3 else s3
  if bitAt v 4 then doSnpCntClr s4 else s4
/-- ERR and SNP (Table 21-10): ring addresses are set only while EN and MIRROR_EN are 0; MIRROR_EN 0 ends the stop of a
failed mirror (R457, R467). -/
def State.writeErr (s : State) (a : Nat) (v : Word) : State :=
  if a = Reg.ERR_CFG then
    let s1 := s.writePlain a v
    if bitAt v.toNat 1 then s1 else { s1 with errs := { s1.errs with mirrorStopped := false } }
  else if a = Reg.ERR_TAIL then doErrTailWrite v s
  else if (a = Reg.ERR_BASE_LO ∨ a = Reg.ERR_BASE_HI) ∧ s.rbit Reg.ERR_CFG 0 then s
  else if (a = Reg.ERR_MIRROR_LO ∨ a = Reg.ERR_MIRROR_HI) ∧ s.rbit Reg.ERR_CFG 1 then s
  else if a = Reg.SNP_CTRL then s.writeSnpCtrl v.toNat
  else s.writePlain a v
/-- RPL (Tables 14-11 to 14-14): the channel registers act on the channel that RPL_CH_SEL names. -/
def State.writeRpl (s : State) (a : Nat) (v : Word) : State :=
  let ch := s.fld Reg.RPL_CH_SEL 0 15
  if a = Reg.RPL_CNT_CLR then (if bitAt v.toNat 0 then s.zeroRegs rplCounters else s)
  else if a = Reg.RPL_EVT_TAIL then doRingTailWrite .cascade v s
  else if a = Reg.RPL_EVT_SIZE then s.writeLog a 5 8 16 v
  else if a = Reg.RPL_ENR_CTL then s.writeEnroll v.toNat
  else if a = Reg.RPL_CH_CFG then s.writeChCfg ch v.toNat
  else if a = Reg.RPL_CH_SRC then s.writeChSrc ch v.toNat
  else if a = Reg.RPL_CH_CMD then (if bitAt v.toNat 0 then doChannelRelease ch s else s)
  else if 0x700400 ≤ a ∧ a < 0x700C00 ∧ a % 0x20 = 0 then s.writeGroup ((a - 0x700400) / 0x20) v
  else s.writePlain a v
/-- ACF (Table 14-15). -/
def State.writeAcf (s : State) (a : Nat) (v : Word) : State :=
  let i := (a - 0x780040) / 0x20
  if a = Reg.ACF_MODE then (List.range 4).foldl (fun t k => t.requestMode k (bitsAt v.toNat (2 * k) 2)) s
  else if a = Reg.ACF_CNT_CLR then (if bitAt v.toNat 0 then s.zeroRegs acfCounters else s)
  else if 0x780040 ≤ a ∧ a < 0x7800C0 ∧ a % 0x20 = 0xC then s.writeLog a 4 4 12 v
  else if 0x780040 ≤ a ∧ a < 0x7800C0 ∧ a % 0x20 = 0x14 then doRingTailWrite (.attend (Fin.ofNat 4 i)) v s
  else s.writePlain a v
/-- SAP (Tables 15-5, 15-7): masks go to their shadow, and the rings are set only while RUN is 0 (R341, R352). -/
def State.writeSap (s : State) (a : Nat) (v : Word) : State :=
  let n := (a - 0x801000) / 0x100
  let o := a % 0x100
  if a = Reg.SAP_CNT_CLR then doSapCntClr v s
  else if a < 0x801000 ∨ 0x801800 ≤ a then s.writePlain a v
  else if o = 0x10 then s.writeSapCtrl n v.toNat
  else if o = 0x20 then (s.setPort n { s.port n with txShadow := some v }).showHeld n
  else if o = 0x24 then (s.setPort n { s.port n with rxShadow := some v }).showHeld n
  else if 0x40 ≤ o ∧ o < 0xC0 ∧ o % 0x20 < 0xC ∧ (s.rbit (Reg.SAP_Pn_CTRL n) 0 ∨ (s.port n).running) then s
  else if 0x40 ≤ o ∧ o < 0xC0 ∧ o % 0x20 = 8 then s.writeLog a 5 12 24 v
  else s.writePlain a v
/-- A port whose EN is cleared is used no more (Table 18-11). -/
def State.disablePort (s : State) (n : Nat) : State :=
  if s.portState n = 0 then s
  else if s.portState n = 3 then ((s.dropPort n).floodLsa).converge
  else s.dropPort n
/-- ERG (Tables 18-6, 18-7, 18-11). -/
def State.writeErg (s : State) (a : Nat) (v : Word) : State :=
  if a = Reg.ERG_CTRL then s.ergCtrl v
  else if 0x900200 ≤ a ∧ a < 0x900600 ∧ a % 0x40 = 0 then
    let s1 := s.writePlain a v
    if bitAt v.toNat 0 then s1 else s1.disablePort ((a - 0x900200) / 0x40)
  else s.writePlain a v

/-! Host queues (R373, R390). -/

/-- A function has a stream open or a queue enabled. -/
def State.fnBusy (s : State) (f : Nat) : Bool :=
  decide (0 < s.openOf f) ||
    (List.range 64).any (fun q => s.rbit (Reg.HQ_SQq_CFG f q) 5 || s.rbit (Reg.HQ_CQq_CFG f q) 4)
/-- The vector range that a word gives meets the range of another function, or leaves the part's 2,048 vectors. -/
def State.vecClash (s : State) (f : Nat) (v : Word) : Bool :=
  let lo := bitsAt v.toNat 0 11
  let n := bitsAt v.toNat 12 12
  n != 0 && (decide (2048 < lo + n) || (List.range 64).any (fun g =>
    let lo' := s.fld (Reg.HQ_FNf_VEC g) 0 11
    let n' := s.fld (Reg.HQ_FNf_VEC g) 12 12
    g != f && decide (lo < lo' + n') && decide (lo' < lo + n)))
/-- HQ of BAR0 (Table 17-10). -/
def State.writeHq (s : State) (a : Nat) (v : Word) : State :=
  let f := (a - 0xA01000) / 0x40
  if a = Reg.HQ_CNT_CLR then doHqCntClr v s
  else if a = Reg.HQ_MGT_ALERT then
    let s1 := s.writePlain a v
    { s1 with pins := { s1.pins with alert := s1.reg Reg.HQ_MGT_EVENTS &&& s1.reg a != 0 } }
  else if a < 0xA01000 then s.writePlain a v
  else if s.fnBusy f then s
  else if a % 0x40 = 8 ∧ s.vecClash f v then s.raise Reg.HQ_INT_STATUS 0
  else s.writePlain a v
/-- HQ_SQq_CFG: while EN is 1 a write can only clear it; setting it starts the ring at entry 0 (Table 17-9). A virtual
function's ring without a PASID is not enabled (R374). -/
def State.writeSqCfg (s : State) (f q : Nat) (v : Word) : State :=
  let a := Reg.HQ_SQq_CFG f q
  let w := putBits (bitsAt v.toNat 0 12) 0 4 (max 4 (bitsAt v.toNat 0 4))
  if s.rbit a 5 then (if bitAt w 5 then s else (s.setBit a 5 false).setFld (Reg.HQ_SQq_STATUS f q) 16 2 0)
  else if !bitAt w 5 then s.setN a w
  else if f ≠ 0 ∧ !s.rbit (Reg.HQ_SQq_PASID f q) 20 then s.setN a (putBits w 5 1 0)
  else ((s.setN a w).setN (Reg.HQ_SQq_STATUS f q) (2 ^ 16)).setSqTail f q 0
/-- HQ_CQq_CFG: as HQ_SQq_CFG; the first pass carries PHASE 1 (R380). -/
def State.writeCqCfg (s : State) (f q : Nat) (v : Word) : State :=
  let a := Reg.HQ_CQq_CFG f q
  let w := bitsAt v.toNat 0 16
  if s.rbit a 4 then (if bitAt w 4 then s else (s.setBit a 4 false).setCqState f q {})
  else if bitAt w 4 then ((s.setN a w).setN (Reg.HQ_CQq_STATUS f q) (2 ^ 16)).setCqState f q {}
  else s.setN a w
/-- BAR2 of function f (Table 17-9). -/
def State.writeBar2 (s : State) (f o : Nat) (v : Word) : State :=
  let a := bar2Base f + o
  let q := (o - 0x1000) / 0x40
  let r := o % 0x40
  if o < 0x200 then
    (if o % 8 = 0 then doSqDoorbell (Fin.ofNat 64 f) (Fin.ofNat 64 (o / 8)) v s
     else doCqDoorbell (Fin.ofNat 64 f) (Fin.ofNat 64 (o / 8)) v s)
  else if o < 0x1000 ∨ 0x2000 ≤ o then s.writePlain a v
  else if r = 0x08 then s.writeSqCfg f q v
  else if r = 0x28 then s.writeCqCfg f q v
  else if r < 0x20 then
    (if s.rbit (Reg.HQ_SQq_CFG f q) 5 ∨ (r = 0x0C ∧ f ≠ 0 ∧ !bitAt v.toNat 20) then s else s.writePlain a v)
  else if s.rbit (Reg.HQ_CQq_CFG f q) 4 then s
  else s.writePlain a v

/-! Dies. -/

/-- CRN of engine e (R201, Table 09-12). -/
def State.writeCrn (s : State) (e o a : Nat) (v : Word) : State :=
  let i := (o - 0x40) / 0x40
  let q := (o - 0x40) % 0x40
  if o = 4 then restartSlots e v s (List.range 4)
  else if o < 0x40 ∨ 0x140 ≤ o then s.writePlain a v
  else if q = 0 then (if s.crnHeld e i then s.raise (Reg.CRN_INT_STATUS e) 0 else s.writePlain a v)
  else if 8 ≤ q ∧ q < 0x28 then
    (if q % 8 = 0 then s.crnLow e i (q / 8 - 1) v
     else doCrnPairHighWrite (Fin.ofNat 104 e) (Fin.ofNat 4 i) (Fin.ofNat 4 (q / 8 - 1)) v s)
  else s
/-- CAR of engine e (Table 09-8). -/
def State.writeCar (s : State) (e o a : Nat) (v : Word) : State :=
  if o = 0x58 then s.cntClr v (carCounters e) else s.writePlain a v
/-- A cluster's units (Table 00-4), at offset `o` of cluster `cl`. -/
def State.writeCluster (s : State) (cl o a : Nat) (v : Word) : State :=
  let q := o % 0x1000
  if o < 0x2000 then (if q = 0x48 then s.cntClr v (meCounters cl (o / 0x1000)) else s.writePlain a v)
  else if o < 0x3000 then (if q = 0x48 then s.cntClr v (vecCounters cl) else s.writePlain a v)
  else if o < 0x4000 then
    (if o % 0x400 = 0x58 then s.cntClr v (nmdCounters (4 * cl + (o - 0x3000) / 0x400)) else s.writePlain a v)
  else if o < 0x5000 then s.writeCar cl q a v
  else if o < 0x6000 then s.writeCrn cl q a v
  else if o < 0x7000 then
    (if q = 0x30 then s.cntClr v (drfCounters cl)
     else if q = 0x60 then (if bitAt v.toNat 0 then doDrfTestGo (Fin.ofNat 96 cl) s else s)
     else s.writePlain a v)
  else if o < 0x8000 then (if q = 0x48 then s.cntClr v (smpCounters cl) else s.writePlain a v)
  else if o < 0x9000 then
    (if q = 0xA8 then clearSlots cl v (s.cntClr v (qstCounters cl)) (List.range 8)
     else if 0x20 ≤ q ∧ q < 0xA0 ∧ q % 0x10 = 0 then
       (s.setReg a (wselFields v)).zeroRegs (qstSlot cl ((q - 0x20) / 0x10))
     else s.writePlain a v)
  else if 0xA000 ≤ o ∧ q < 0x80 ∧ q % 0x10 = 0xC then s.setReg a 0
  else s.writePlain a v
/-- Die d at offset `o` of its window. -/
def State.writeDie (s : State) (d o a : Nat) (v : Word) : State :=
  if o = 0x14 then s.cntClr v (dmemCounters d)
  else if o = 0x44 then
    let s1 := s.writePlain a v
    if bitsAt v.toNat 0 8 = 0 then s1.setBit (Reg.DMEM_STATUS d) 3 false else s1
  else if o = 0x48 then doDmemRetire (Fin.ofNat 4 d) v s
  else if o = 0x8008 then s.writeLog a 5 8 16 v
  else if o = 0x8010 then doRingTailWrite (.qev (Fin.ofNat 4 d)) v s
  else if 0x9000 ≤ o ∧ o < 0x9050 ∧ o % 0x10 = 0xC then s.setN a (s.kvpFree d ((o - 0x9000) / 0x10))
  else if o < 0x100000 then s.writePlain a v
  else if o < 0x200000 then
    (if o < 0x120000 ∧ o % 0x1000 = 0x48 then s.cntClr v (cisCounters (32 * d + (o - 0x100000) / 0x1000))
     else s.writePlain a v)
  else
    let q := o % 0x100000 - 0x10000
    s.writeCluster (24 * d + 6 * ((o - 0x200000) / 0x100000) + q / 0x20000) (q % 0x20000) a v

/-! Accesses. -/

/-- A word written to a register of BAR0; reserved space ignores it (R11). -/
def State.writeBar0 (s : State) (a : Nat) (v : Word) : State :=
  if (bar0Row a).isNone then s
  else if 0x80000 ≤ a ∧ a < 0x90000 then
    let e := 96 + (a - 0x80000) / 0x2000
    if a % 0x2000 < 0x1000 then s.writeCar e (a % 0x2000) a v else s.writeCrn e (a % 0x1000) a v
  else if a < 0x100000 then s.writeOas a v
  else if a < 0x180000 then s.writePlc a v
  else if a < 0x190000 then s.writeKvc a v
  else if a < 0x200000 then s.writeStrm a v
  else if a < 0x300000 then s.writeTck a v
  else if a < 0x400000 then s.writeSpl a v
  else if a < 0x500000 then s.writeSec a v
  else if a < 0x600000 then s
  else if a < 0x700000 then s.writeErr a v
  else if a < 0x780000 then s.writeRpl a v
  else if a < 0x800000 then s.writeAcf a v
  else if a < 0x900000 then s.writeSap a v
  else if a < 0xA00000 then s.writeErg a v
  else if a < 0x1000000 then s.writeHq a v
  else s.writeDie ((a - 0x1000000) / 0x800000) ((a - 0x1000000) % 0x800000) a v
/-- The size of a register space (Table 17-2). -/
def Space.size : Space → Nat
  | .bar0 => 0x4000000
  | .bar2 _ => 0x10000
/-- The key of a register. -/
def Space.key : Space → Nat → Nat
  | .bar0, o => o
  | .bar2 f, o => bar2Base f + o
/-- An access that is one aligned word of its space (R4). -/
def Space.word (sp : Space) (o : Nat) : Bool := o % 4 == 0 && decide (o < sp.size)
/-- REGISTER_WRITE (R5, R6, R11). -/
def doRegisterWrite (sp : Space) (o : Nat) (v : Word) (s : State) : State :=
  if s.slowLink then s.abort
  else if !sp.word o then s.answer []
  else
    let s1 := match sp with
      | .bar0 => s.writeBar0 o v
      | .bar2 f => s.writeBar2 f o v
    s1.answer []
def execRegisterWrite (sp : Space) (off : Nat) (v : Word) (s : State) : Host.Outcome State Fault Refusal :=
  .next (s.live (doRegisterWrite sp off v))

/-- A BAR0 access that is not exactly one aligned word (R4): a read gives zeros, a write does nothing. -/
def doBar0Misaligned (write : Bool) (off len : Nat) (s : State) : State :=
  if s.slowLink then s.abort
  else if len = 4 ∧ off % 4 = 0 then s
  else s.answer (if write then [] else List.replicate len 0)
def execBar0MisalignedAccess (write : Bool) (off len : Nat) (s : State) : Host.Outcome State Fault Refusal :=
  .next (s.live (doBar0Misaligned write off len))

/-- A register is the low word of a 64-bit pair (R8); a copy in a snapshot window is one where its register is. -/
def isLow (a : Nat) : Bool :=
  let low (b : Nat) : Bool := ((regRow b).map (fun r => r.low)).getD false
  if inSnapWindow a then isHeaderLow a || (snapSource a).any low else low a
/-- The word latched for a high word. -/
def State.shadowOf (s : State) (a : Nat) : Option Word := AMap.read (fun _ => none) s.host.shadow a
def State.setShadow (s : State) (a : Nat) (v : Option Word) : State :=
  { s with host := { s.host with shadow := AMap.write (fun _ => none) s.host.shadow a v } }
/-- A read of a register word (R5, R8): a low word latches its high word, and the next read of the high word gives what
was latched. -/
def doLowWordRead (sp : Space) (o : Nat) (s : State) : State :=
  if s.slowLink then s.abort
  else if !sp.word o then s.answer (List.replicate 4 0)
  else
    let a := sp.key o
    let (v, s1) := s.readReg a
    if isLow a then
      let (h, s2) := s1.readReg (a + 4)
      (s2.setShadow (a + 4) (some h)).answer (leBytes 4 v.toNat)
    else match s1.shadowOf a with
      | some h => (s1.setShadow a none).answer (leBytes 4 h.toNat)
      | none => s1.answer (leBytes 4 v.toNat)
def execLowWordRead (sp : Space) (off : Nat) (s : State) : Host.Outcome State Fault Refusal :=
  .next (s.live (doLowWordRead sp off))

end Sys2Proof.Machine
end

