-- ==== Sys2Proof/Machine/CmdCaravan.lean ====
section
/-!
DEFINITION. Meanings of the commands of the Caravan engines (chapter 09): requests, the tiles of blocks, faults and their
resumption, completion, and the host's COPY.
-/

namespace Sys2Proof.Machine

/-! Blocks (R183, R184). -/

/-- A 32-bit two's complement value. -/
def signed32 (v : Nat) : Int := if v < 2 ^ 31 then (v : Int) else (v : Int) - 2 ^ 32
/-- A block record from its 64 bytes; none where a reserved field or value is used (R185). -/
def parseBlock (l : List Byte) : Option CarBlock :=
  let v := leVal l
  let b : CarBlock :=
    { src := bitsAt v 0 64, dst := bitsAt v 64 64, ext0 := bitsAt v 128 32, ext1 := bitsAt v 160 16, ext2 := bitsAt v 176 16,
      ext3 := bitsAt v 192 16, trows := bitsAt v 208 16, sstr1 := signed32 (bitsAt v 224 32),
      sstr2 := signed32 (bitsAt v 256 32), sstr3 := signed32 (bitsAt v 288 32), dstr1 := signed32 (bitsAt v 320 32),
      dstr2 := signed32 (bitsAt v 352 32), dstr3 := signed32 (bitsAt v 384 32), esize := 2 ^ bitsAt v 446 2,
      mode := bitsAt v 444 2, arrive := bitsAt v 442 2, ring := bitAt v 441, layer := bitAt v 440, restart := bitAt v 439,
      cslot := bitsAt v 437 2, barrier := bitsAt v 472 8, bcluster := bitsAt v 465 7, credit := bitsAt v 457 8 }
  if bitsAt v 416 21 = 0 ∧ bitsAt v 448 9 = 0 ∧ bitsAt v 480 32 = 0 ∧ b.mode ≠ 3 ∧ b.arrive ≠ 3 ∧
      (b.bcluster < 96 ∨ b.bcluster = 127) ∧ 1 ≤ b.ext1 ∧ 1 ≤ b.ext2 ∧ 1 ≤ b.ext3 ∧ 1 ≤ b.trows ∧ b.trows ≤ b.ext1 then some b
  else none
def CarBlock.rowBytes (b : CarBlock) : Nat := b.ext0 * b.esize
/-- Row groups of dimension 1, tiles of the block, and bytes of a whole tile. -/
def CarBlock.groups (b : CarBlock) : Nat := (b.ext1 + b.trows - 1) / max 1 b.trows
def CarBlock.tiles (b : CarBlock) : Nat := b.ext3 * b.ext2 * b.groups
def CarBlock.tileBytes (b : CarBlock) : Nat := b.rowBytes * b.trows
/-- Coordinates t1, i2 and i3 of tile t. -/
def CarBlock.t1 (b : CarBlock) (t : Nat) : Nat := t % max 1 b.groups
def CarBlock.i2 (b : CarBlock) (t : Nat) : Nat := t / max 1 b.groups % max 1 b.ext2
def CarBlock.i3 (b : CarBlock) (t : Nat) : Nat := t / max 1 b.groups / max 1 b.ext2
/-- Rows of tile t: the last of each (i2, i3) may be shorter. -/
def CarBlock.rowsIn (b : CarBlock) (t : Nat) : Nat := min b.trows (b.ext1 - b.t1 t * b.trows)
/-- Rows of tile t from a base with strides, as (address, bytes). -/
def CarBlock.rowsAt (b : CarBlock) (base : Nat) (s1 s2 s3 : Int) (t : Nat) : List (Nat × Nat) :=
  (List.range (b.rowsIn t)).map (fun k =>
    (((base : Int) + ((b.t1 t * b.trows + k : Nat) : Int) * s1 + (b.i2 t : Int) * s2 + (b.i3 t : Int) * s3).toNat, b.rowBytes))
def CarBlock.srcRows (b : CarBlock) (t : Nat) : List (Nat × Nat) := b.rowsAt b.src b.sstr1 b.sstr2 b.sstr3 t
/-- Destination rows of tile t with prefetch depth d: none under SCAN, packed in a ring under DST_RING. -/
def CarBlock.dstRows (b : CarBlock) (d t : Nat) : List (Nat × Nat) :=
  if b.mode = 1 then []
  else if b.ring then
    (List.range (b.rowsIn t)).map (fun k => (b.dst + t % max 1 d * b.tileBytes + k * b.rowBytes, b.rowBytes))
  else b.rowsAt b.dst b.dstr1 b.dstr2 b.dstr3 t
def CarBlock.scans (b : CarBlock) : Bool := b.mode != 0

/-! The checks of R185. -/

/-- The first byte and the byte past the last that rows reach from a base, by extents and strides. -/
def hull (base rowBytes : Nat) (dims : List (Nat × Int)) : Int × Int :=
  dims.foldl (fun p d => let k : Int := d.2 * ((d.1 : Int) - 1); (p.1 + min k 0, p.2 + max k 0))
    ((base : Int), ((base + rowBytes : Nat) : Int))
def CarBlock.srcHull (b : CarBlock) : Int × Int :=
  hull b.src b.rowBytes [(b.ext1, b.sstr1), (b.ext2, b.sstr2), (b.ext3, b.sstr3)]
/-- The bytes a destination ring of depth d takes: its last place holds the longer of the tiles that go there. -/
def CarBlock.ringSpan (b : CarBlock) (d : Nat) : Nat :=
  let k := min d b.tiles - 1
  k * b.tileBytes + max (b.rowsIn k) (if k + d < b.tiles then b.rowsIn (k + d) else 0) * b.rowBytes
def CarBlock.dstHull (b : CarBlock) (d : Nat) : Int × Int :=
  if b.ring then ((b.dst : Int), ((b.dst + b.ringSpan d : Nat) : Int))
  else hull b.dst b.rowBytes [(b.ext1, b.dstr1), (b.ext2, b.dstr2), (b.ext3, b.dstr3)]
/-- A global address of this package as the local one (R158). -/
def State.localAddr (s : State) (a : Nat) : Nat := if (s.remoteDev a).isNone then a % 2 ^ 52 else a
/-- The bytes of a hull lie in one range of Table 08-2, or in one that the fabric reaches on another package (R158). -/
def State.hullOk (s : State) (h : Int × Int) : Bool :=
  let lo := h.1.toNat
  let n := (h.2 - h.1).toNat
  decide (0 ≤ h.1) && (match s.remoteDev lo with
    | some v => (lo + n - 1) / 2 ^ 52 == v && fabricRange (lo % 2 ^ 52) n
    | none => inOnePlace lo n)
/-- A kernel's rows lie in its ranges: their hull does, or every row. -/
def Xfer.ownsRows (x : Xfer) (b : CarBlock) (h : Int × Int) (rows : Nat → List (Nat × Nat)) : Bool :=
  x.mayUse h.1.toNat (h.2 - h.1).toNat || (List.range b.tiles).all (fun t => (rows t).all (fun r => x.mayUse r.1 r.2))
/-- Register space is moved only in aligned words (R157). -/
def CarBlock.regsOk (b : CarBlock) (a : Nat) (strides : List Int) : Bool :=
  placeOf a != .regs || (b.esize == 4 && a % 4 == 0 && strides.all (fun k => k % 4 == 0))
/-- A block keeps every rule of R185 but those of its fields. -/
def State.blockOk (s : State) (e : Nat) (x : Xfer) (b : CarBlock) : Bool :=
  let m (v : Nat) : Bool := v % b.esize == 0
  let ms (v : Int) : Bool := v % (b.esize : Int) == 0
  let ds := if b.ring then [] else [b.dstr1, b.dstr2, b.dstr3]
  let w := s.fld (Reg.CRN_CFGs e b.cslot) 0 7
  m b.src && m b.dst && ms b.sstr1 && ms b.sstr2 && ms b.sstr3 && ds.all ms &&
  decide (b.tileBytes ≤ 262144) && (b.mode != 1 || b.dst == 0) && !(b.ring && b.credit == 255) &&
  (!b.scans || (decide (8 ≤ w) && decide (w ≤ 64))) &&
  (b.ext0 == 0 || (s.hullOk b.srcHull && b.regsOk b.src [b.sstr1, b.sstr2, b.sstr3] &&
    (b.mode == 1 || (s.hullOk (b.dstHull x.pref) && b.regsOk b.dst ds)))) &&
  (x.src != .kernel || (b.bcluster == 127 && decide (b.barrier < x.barCount) &&
    (b.ext0 == 0 || (x.ownsRows b b.srcHull b.srcRows &&
      (b.mode == 1 || x.ownsRows b (b.dstHull x.pref) (b.dstRows x.pref))))))

/-! Contexts. -/

def State.ctx (s : State) (e c : Nat) : Option Xfer := AMap.read (fun _ => none) (s.car e).ctxs c
def State.setCtx (s : State) (e c : Nat) (x : Option Xfer) : State :=
  let k := s.car e
  s.setCar e { k with ctxs := AMap.write (fun _ => none) k.ctxs c x }
def State.modCtx (s : State) (e c : Nat) (f : Xfer → Xfer) : State := s.setCtx e c ((s.ctx e c).map f)
/-- Ends a transfer with a status at the tile it has reached. -/
def State.endCtx (s : State) (e c status : Nat) : State := s.modCtx e c (fun x => x.endWith status)
/-- A barrier index of a transfer's block as the cluster's: a kernel's counts within its node's allocation (R185). -/
def Xfer.barIndex (x : Xfer) (i : Nat) : Nat := if x.src = .kernel then x.barBase + i else i
/-- Arrivals that a barrier has counted, and the number at which their count comes round. -/
def Barrier.arrivals (b : Barrier) : Nat := b.gen * b.expect + b.count
def Barrier.wrap (b : Barrier) : Nat := 2 ^ 32 * max 1 b.expect
/-- Tile t of the block may be asked for (R191): the consumer's arrivals since the block began reach it. -/
def State.creditOk (s : State) (e : Nat) (x : Xfer) (b : CarBlock) : Bool :=
  if 96 ≤ e ∨ b.credit = 255 then true
  else
    let k := s.bar e (x.barIndex b.credit)
    decide (x.tile < (k.arrivals + k.wrap - x.credit0) % k.wrap + x.pref)
/-- The first host page of pieces that has no translation held and whose translation fails (R194, R374). -/
def State.pageMiss (s : State) (fn : Nat) (l : List (Nat × Nat)) : Option Nat :=
  l.findSome? (fun r => if placeOf r.1 ≠ .host ∨ r.2 = 0 then none else
    s.cond.hostFail.find? (fun p => decide (r.1 % hostWindow < p * 4096 + 4096) && decide (p * 4096 < r.1 % hostWindow + r.2) &&
      !s.ats.contains (fn, p)))
/-- Host pages that pieces touch. -/
def hostPages (l : List (Nat × Nat)) : List Nat :=
  (l.flatMap (fun r => if placeOf r.1 ≠ .host ∨ r.2 = 0 then [] else
    (List.range ((r.1 % 4096 + r.2 + 4095) / 4096)).map (fun i => r.1 % hostWindow / 4096 + i))).eraseDups
/-- The part holds the translations it has used (R374). -/
def State.holdPages (s : State) (fn : Nat) (l : List Nat) : State :=
  { s with ats := s.ats ++ (l.map (fun p => (fn, p))).filter (fun x => !s.ats.contains x) }
/-- A context waits on a page request (R194). -/
def State.faultCtx (s : State) (e c page : Nat) : State :=
  (s.priRequest e).modCtx e c (fun x => { x with
    wait := some (.fault page)
    waitTb := s.tb.toNat
    phase := .fresh
    got := []
    issued := 0 })
/-- The requests of a context that are outstanding. -/
def State.ctxReqs (s : State) (e c : Nat) : List RemReq := s.fab.reqs.filter (fun r => r.engine == 8 * e + c)
def State.dropReqs (s : State) (e c : Nat) : State :=
  { s with fab := { s.fab with reqs := s.fab.reqs.filter (fun r => r.engine != 8 * e + c) } }

/-! Remote pieces (R188, R405). -/

/-- A piece of a tile: where it lies in the tile, its address and its bytes. -/
structure Piece where
  ofs : Nat
  addr : Nat
  len : Nat
  deriving DecidableEq, Repr
/-- A run cut at aligned units. -/
def cutRun (unit ofs a n : Nat) : List Piece :=
  if n = 0 then []
  else (List.range ((a % unit + n + unit - 1) / unit)).map (fun i =>
    let lo := if i = 0 then a else (a / unit + i) * unit
    { ofs := ofs + (lo - a), addr := lo, len := min (a + n) ((a / unit + i + 1) * unit) - lo })
/-- Runs of a tile cut at aligned units. -/
def cutPieces (unit : Nat) : Nat → List (Nat × Nat) → List Piece
  | _, [] => []
  | o, (a, n) :: t => cutRun unit o a n ++ cutPieces unit (o + n) t
/-- An identifier that no outstanding request has. -/
def State.freshReq (s : State) : Nat := (s.fab.reqs.map (fun r => r.id)).foldl (fun a b => max a (b + 1)) (2 ^ 20)
/-- Tags of a port: those held in the package's pool, and those an engine holds of them (R187, Table 09-4). -/
def State.portTags (s : State) (p : Nat) : Nat := (s.fab.reqs.filter (fun r => r.port == p)).length
def State.ergTags (s : State) (e p : Nat) : Nat := (s.fab.reqs.filter (fun r => r.port == p && r.engine / 8 == e)).length
/-- Transfer a comes before transfer b in the order of R180, whatever their engines. -/
def Xfer.ahead (a b : Xfer) : Bool := (a.ticked && !b.ticked) || (a.ticked == b.ticked && decide (b.prio < a.prio))
/-- Another context waits for a tag of the port and comes before transfer x (R187). -/
def State.tagAhead (s : State) (e c p : Nat) (x : Xfer) : Bool :=
  s.caravans.any (fun k => k.2.ctxs.any (fun y => match y.2 with
    | some z => (k.1 != e || y.1 != c) && z.noTag == some p && z.ahead x
    | none => false))
/-- The engine's own limit on the tags of a port leaves one (Table 09-10). -/
def State.ergLeft (s : State) (e p : Nat) : Bool := decide (s.ergTags e p < max 1 (s.fld (Reg.CAR_TAG_CFG e) 16 10))
/-- The port's pool grants context c of engine e a tag. -/
def State.tagFree (s : State) (e c p : Nat) (x : Xfer) : Bool := decide (s.portTags p < 512) && !s.tagAhead e c p x
/-- The request for a piece of a tile: whole granules of a read, or the bytes of a write. -/
def State.pieceReq (s : State) (e c dev : Nat) (x : Xfer) (write : Bool) (bytes : List Byte) (p : Piece) : RemReq :=
  let lo := p.addr / 64 * 64
  let r : RemReq := { id := s.freshReq, dst := dev, fn := x.fn, write := write, local_ := p.ofs, engine := 8 * e + c,
                      handle := x.handle, port := (s.flowPort 3 (8 * e + c) dev).getD 16 }
  if write then { r with
      addr := p.addr % 2 ^ 52
      len := p.len
      data := (bytes.drop p.ofs).take p.len }
    else { r with
      addr := lo % 2 ^ 52
      len := (p.addr + p.len + 63) / 64 * 64 - lo }
/-- A flow whose next hop is port q issues nothing new while a request of it is out on another path or is being retried
(R403). -/
def State.flowHeld (s : State) (e c dev q : Nat) : Bool :=
  s.fab.reqs.any (fun r => r.engine == 8 * e + c && r.dst == dev && (r.retried || r.port != q))
/-- Issues remote requests for pieces of a tile while tags are to be had: the rest waits (R187). One whose destination is
no member completes UNREACHABLE (R408). -/
def sendPieces (e c dev : Nat) (x : Xfer) (write : Bool) (bytes : List Byte) (s : State) : List Piece → State
  | [] => s
  | p :: t =>
    let r := s.pieceReq e c dev x write bytes p
    let more (s : State) : State := s.modCtx e c (fun y => { y with issued := y.issued + 1, noTag := none })
    match s.flowPort 3 (8 * e + c) dev with
    | none => sendPieces e c dev x write bytes ((more s).unreachable r) t
    | some q =>
      if !s.ergLeft e q || s.flowHeld e c dev q then s
      else if !s.tagFree e c q x then s.modCtx e c (fun y => { y with noTag := some q })
      else
        let s1 := s.send q (.request r)
        sendPieces e c dev x write bytes (more { s1 with fab := { s1.fab with reqs := s1.fab.reqs ++ [r] } }) t
/-- The bytes of a tile whose pieces remote reads have brought; none while one is missing. -/
def gather (got : List (Nat × List Byte)) : List Piece → Option (List Byte)
  | [] => some []
  | p :: t => match got.find? (fun g => g.1 == p.ofs), gather got t with
    | some g, some l => some ((g.2.drop (p.addr % 64)).take p.len ++ l)
    | _, _ => none

/-! Local pieces. -/

/-- Reads rows: bytes and granules delivered as zeros. -/
def fetchRows (loc hdl : Nat) (s : State) : List (Nat × Nat) → List Byte × Nat × State
  | [] => ([], 0, s)
  | (a, n) :: t =>
    let (b, z, s1) := match placeOf a with
      | .host => (s.bytes a n, 0, s)
      | .regs => let (l, s') := s.readRegs (a - 0x20000000000) (n / 4); (l, 0, s')
      | _ =>
        let bad := s.badIn a n
        let r := (s.touchDie a).readData loc a n
        (r.bytes, r.zeroed, r.st.zeroHandle hdl bad)
    let (bs, zs, s2) := fetchRows loc hdl s1 t
    (b ++ bs, z + zs, s2)
/-- Writes whole words to registers. -/
def storeWords (s : State) (a : Nat) : Nat → List Byte → State
  | 0, _ => s
  | n + 1, l => storeWords (s.writeBar0 a (BitVec.ofNat 32 (leVal (l.take 4)))) (a + 4) n (l.drop 4)
/-- Stores the bytes of a tile in its destination rows. -/
def storeRows (loc : Nat) (s : State) : List (Nat × Nat) → List Byte → State
  | [], _ => s
  | (a, n) :: t, l =>
    let s1 := match placeOf a with
      | .host => s.setBytes a (l.take n)
      | .regs => storeWords s (a - 0x20000000000) (n / 4) l
      | _ => (s.touchDie a).writeData loc a (l.take n)
    storeRows loc s1 t (l.drop n)

/-! Counts (R188, R189, Table 09-8). -/

/-- The unit that a request of a place is cut to; none where R188 gives none. -/
def State.unitOf (s : State) (a : Nat) : Option Nat :=
  if (s.remoteDev a).isSome then some 1024
  else match placeOf a with | .host => some 512 | .dram _ => some 256 | _ => none
/-- Requests of runs that carry less than their unit. -/
def State.shortReqs (s : State) (l : List (Nat × Nat)) : Nat :=
  sumMap (fun (r : Nat × Nat) => match s.unitOf r.1 with
    | some u => ((cutRun u 0 r.1 r.2).filter (fun p => decide (p.len < u))).length
    | none => 0) l
/-- The runs that a tile's requests are cut from: a host COPY is one run, other blocks move row by row. -/
def runsOf (x : Xfer) (l : List (Nat × Nat)) : List (Nat × Nat) :=
  match l with
  | [] => []
  | r :: _ => if x.cmd.isSome then [(r.1, sumMap (fun (y : Nat × Nat) => y.2) l)] else l
/-- An urgent request of a class (0 read, 1 write, 2 remote) may borrow cycles of another at all (R190). -/
def State.mayBorrow (s : State) (e c : Nat) : Bool :=
  [0, 1, 2].any (fun k => k != c && decide (0 < s.fld (Reg.CAR_SPLIT e) (4 * k) 4 * s.fld (Reg.CAR_SPLIT e) 12 7 / 8))
/-- The counts of one handed-over tile; lost and borrowed cycles are free values (log 4). -/
def State.countTile (s : State) (e : Nat) (x : Xfer) (n : Nat) (src dst : List (Nat × Nat)) : State :=
  let far (l : List (Nat × Nat)) : Bool := match l with | r :: _ => (s.remoteDev r.1).isSome | [] => false
  let i := Reg.CAR_INT_STATUS e
  let (z, s1) := s.free
  let s2 := s1.bump64 (if far src then Reg.CAR_RMT_LO e else Reg.CAR_RD_LO e) n
  let s3 := if dst = [] then s2 else s2.bump64 (if far dst then Reg.CAR_RMT_LO e else Reg.CAR_WR_LO e) n
  let s4 := s3.count (Reg.CAR_SHORT e) (s.shortReqs (runsOf x src) + s.shortReqs (runsOf x dst)) i 4
  let s5 := s4.count (Reg.CAR_TAG_STALL e) (z.toNat % 2 ^ 32) i 4
  let cls := (if far src then 2 else 0) :: (if dst = [] then [] else [if far dst then 2 else 1])
  if x.prio = 6 ∧ cls.any (s.mayBorrow e) then s5.count (Reg.CAR_BORROW e) (z.toNat / 2 ^ 32) i 4 else s5

/-! Handing over (R191, R193, R200). -/

/-- One arrival for a block, at its barrier's cluster. -/
def State.arrive (s : State) (e : Nat) (x : Xfer) (b : CarBlock) : State :=
  let cl := if b.bcluster = 127 then e else b.bcluster
  if cl < 96 then s.arriveBar cl (x.barIndex b.barrier) else s
/-- A context gives its cairn slot up, which sets DONE. -/
def State.freeSlot (s : State) (e : Nat) (x : Xfer) : State :=
  match x.slotHeld with
  | some k => (s.setBit (Reg.CRN_STATUS e) k false).raise (Reg.CRN_INT_STATUS e) (4 + k)
  | none => s
/-- A block is over: the arrival of ARRIVE 2, its slot released, and the next block to come. -/
def State.endBlock (s : State) (e c : Nat) (x : Xfer) (b : CarBlock) : State :=
  let s1 := (if b.arrive = 2 then s.arrive e x b else s).freeSlot e x
  s1.modCtx e c (fun y => { y with
    blk := y.blk + 1
    tile := 0
    block := none
    slotHeld := none })
/-- A whole tile is fed to the cairn unit and handed over. -/
def State.handOver (s : State) (e c : Nat) (x : Xfer) (b : CarBlock) (bytes : List Byte) : State :=
  let s1 := if b.scans then s.crnFeed e b.cslot bytes else s
  let s2 := s1.countTile e x bytes.length (b.srcRows x.tile) (b.dstRows x.pref x.tile)
  let s3 := s2.modCtx e c (fun y => { y with
    tile := y.tile + 1
    bytes := (y.bytes + bytes.length) % 2 ^ 64
    phase := .fresh
    got := []
    issued := 0 })
  let s4 := if b.arrive = 1 then s3.arrive e x b else s3
  if b.tiles ≤ x.tile + 1 then s4.endBlock e c x b else s4
/-- The address whose byte a tile of the block from tile t0 on writes to an address. -/
def CarBlock.feeds (b : CarBlock) (d t0 a : Nat) : Option Nat :=
  ((List.range b.tiles).drop t0).findSome? (fun t =>
    (List.zip (b.dstRows d t) (b.srcRows t)).findSome? (fun r =>
      if r.1.1 ≤ a ∧ a < r.1.1 + r.1.2 then some (r.2.1 + (a - r.1.1)) else none))
/-- The byte that the transfer's last write at an address replaced. -/
def Xfer.replaced (x : Xfer) (a : Nat) : Option Byte :=
  x.old.findSome? (fun r => if r.1 ≤ a ∧ a < r.1 + r.2.length then r.2[a - r.1]? else none)
/-- The hulls of a block's source and of a destination that the transfer has begun to write meet. -/
def Xfer.overlaps (x : Xfer) (b : CarBlock) : Bool :=
  x.past.any (fun p => p.mode != 1 && decide (b.srcHull.1 < (p.dstHull x.pref).2) && decide ((p.dstHull x.pref).1 < b.srcHull.2))
/-- What an overlapped byte of the tile may read as beside what lies there now: the byte before the transfer's last write of
it, and the byte that the block is still to write there (R185). -/
def State.otherBytes (s : State) (x : Xfer) (b : CarBlock) (a : Nat) : List Byte :=
  (x.replaced a).toList ++
  (match b.feeds x.pref x.tile a with
    | some k => if (s.remoteDev k).isNone then s.bytes k 1 else []
    | none => [])
/-- Bytes read at addresses that the transfer's own blocks write: whether before or after the write is not fixed (R185), so a
free value chooses (log 4). -/
def overlapBytes (x : Xfer) (b : CarBlock) (s : State) : List Nat → List Byte → List Byte × State
  | a :: t, v :: l =>
    match s.otherBytes x b a with
    | [] =>
      let (r, s2) := overlapBytes x b s t l
      (v :: r, s2)
    | o =>
      let (z, s1) := s.free
      let (r, s2) := overlapBytes x b s1 t l
      ((v :: o).getD (z.toNat % (o.length + 1)) v :: r, s2)
  | _, l => (l, s)
def State.overlapped (s : State) (x : Xfer) (b : CarBlock) (bytes : List Byte) : List Byte × State :=
  if x.overlaps b then
    overlapBytes x b s ((b.srcRows x.tile).flatMap (fun r => (List.range r.2).map (fun i => r.1 + i))) bytes
  else (bytes, s)
/-- The bytes of a tile are there: they are written, or sent to another package, and the tile handed over. -/
def State.giveTile (s : State) (e c : Nat) (x : Xfer) (b : CarBlock) (bytes : List Byte) : State :=
  let dst := b.dstRows x.pref x.tile
  let (l, s1) := s.overlapped x b bytes
  match (dst.head?).bind (fun r => s1.remoteDev r.1) with
  | some v => sendPieces e c v x true l
      (s1.modCtx e c (fun y => { y with phase := .writing, got := [(0, l)], issued := 0 })) (cutPieces 1024 0 dst)
  | none =>
    let s2 := s1.modCtx e c (fun y => { y with old := dst.map (fun r => (r.1, s1.bytes r.1 r.2)) ++ y.old })
    (storeRows (s.carLoc e) s2 dst l).handOver e c x b l

/-! Waiting transfers (R180, R198). -/

/-- Transfer a takes a context before transfer b. -/
def Xfer.before (a b : Xfer) : Bool :=
  (a.ticked && !b.ticked) || (a.ticked == b.ticked && (decide (b.prio < a.prio) || (a.prio == b.prio && decide (a.order < b.order))))
def firstXfer : List Xfer → Option Xfer
  | [] => none
  | x :: t => match firstXfer t with
    | none => some x
    | some y => if y.before x then some y else some x
/-- Waiting transfer x takes context c. -/
def State.giveCtx (s : State) (e c : Nat) (x : Xfer) : State :=
  let k := s.car e
  s.setCar e { k with
    waiting := k.waiting.filter (fun y => y.order != x.order)
    arrivals := k.arrivals + 1
    ctxs := AMap.write (fun _ => none) k.ctxs c (some { x with start := k.arrivals }) }
/-- The waiting transfer that comes first takes context c. -/
def State.startCtx (s : State) (e c : Nat) : State :=
  match firstXfer (s.car e).waiting with
  | none => s
  | some x => s.giveCtx e c x
/-- The context that grain-bound work takes: the lowest class, the last started among equals (R198). -/
def ctxVictim : List (Nat × Xfer) → Option (Nat × Xfer)
  | [] => none
  | p :: t => match ctxVictim t with
    | none => some p
    | some q => if p.2.prio < q.2.prio ∨ (p.2.prio = q.2.prio ∧ q.2.start < p.2.start) then some p else some q
/-- Grain-bound work that has arrived and not yet had a context. -/
def Xfer.newTicked (x : Xfer) : Bool := x.ticked && !x.suspended
/-- After a tile: where grain-bound work has arrived and every context is busy, the victim gives its context to the first of
that work, and keeps the point it has reached (R198). -/
def State.yieldCtx (s : State) (e c : Nat) : State :=
  let k := s.car e
  match s.ctx e c with
  | none => s
  | some x =>
    if k.busy.length < 8 || x.nblk ≤ x.blk || x.ended.isSome || (ctxVictim k.busy).map (fun p => p.1) != some c then s
    else match firstXfer (k.waiting.filter Xfer.newTicked) with
      | none => s
      | some y => (s.setCar e { k with waiting := k.waiting ++ [{ x with suspended := true }] }).giveCtx e c y

/-! A tile (R191, R194, R195). -/

/-- The context goes on with the tile it has reached. -/
def State.tileStep (s : State) (e c : Nat) (x : Xfer) (b : CarBlock) : State :=
  let src := b.srcRows x.tile
  let dst := b.dstRows x.pref x.tile
  match x.phase with
  | .writing =>
    let l := (x.got.head?.map (fun g => g.2)).getD []
    let p := cutPieces 1024 0 dst
    if x.issued < p.length then sendPieces e c (((dst.head?).bind (fun r => s.remoteDev r.1)).getD 0) x true l s (p.drop x.issued)
    else if (s.ctxReqs e c).isEmpty then (s.handOver e c x b l).yieldCtx e c
    else s
  | .reading =>
    let p := cutPieces 1024 0 src
    if x.issued < p.length then sendPieces e c (((src.head?).bind (fun r => s.remoteDev r.1)).getD 0) x false [] s (p.drop x.issued)
    else match gather x.got p with
      | some l => (s.giveTile e c x b l).yieldCtx e c
      | none => s
  | .fresh =>
    if !s.creditOk e x b then s
    else match s.pageMiss x.fn (src ++ dst) with
      | some p => s.faultCtx e c p
      | none =>
        let s1 := s.holdPages x.fn (hostPages (src ++ dst))
        match (src.head?).bind (fun r => s.remoteDev r.1) with
        | some v => sendPieces e c v x false [] (s1.modCtx e c (fun y => { y with phase := .reading, got := [], issued := 0 }))
            (cutPieces 1024 0 src)
        | none =>
          let (l, z, s2) := fetchRows (s1.carLoc e) x.handle s1 src
          ((s2.modCtx e c (fun y => { y with zeroed := y.zeroed + z })).giveTile e c x b l).yieldCtx e c
/-- A block that scans takes its slot before its first tile, or waits for it (R200). The flag says that it has it. -/
def State.takeSlot (s : State) (e c : Nat) (x : Xfer) (b : CarBlock) : Bool × State :=
  if !b.scans || x.slotHeld.isSome then (true, s)
  else if s.crnHeld e b.cslot then (false, s)
  else
    let s1 := s.setBit (Reg.CRN_STATUS e) b.cslot true
    let s2 := if b.restart ∧ x.tile = 0 then s1.crnReload e b.cslot else s1
    (true, s2.modCtx e c (fun y => { y with slotHeld := some b.cslot }))
/-- The context goes on in its block: the block is over, waits for its slot, or hands a tile over. -/
def State.blockStep (s : State) (e c : Nat) (x : Xfer) (b : CarBlock) : State :=
  if b.tiles ≤ x.tile then s.endBlock e c x b
  else
    let (ok, s1) := s.takeSlot e c x b
    match if ok then s1.ctx e c else none with
    | some y => s1.tileStep e c y b
    | none => s1
/-- The record of the block a context has reached is fetched and checked (R185). -/
def State.fetchBlock (s : State) (e c : Nat) (x : Xfer) : State :=
  let a := x.list + 64 * x.blk
  match s.pageMiss x.fn [(a, 64)] with
  | some p => s.faultCtx e c p
  | none =>
    let s0 := s.holdPages x.fn (hostPages [(a, 64)])
    let r : Rd := if placeOf a = .host then ⟨s.bytes a 64, 0, false, s0⟩ else s0.readCtl (s.carLoc e) a 64
    if r.failed then r.st.endCtx e c 6
    else match parseBlock r.bytes with
      | none => r.st.endCtx e c 8
      | some b0 =>
        let b : CarBlock := { b0 with
          src := s.localAddr b0.src
          dst := s.localAddr b0.dst }
        if !r.st.blockOk e x b then r.st.endCtx e c 8
        else
          let y : Xfer := { x with
            block := some b
            past := x.past ++ [b]
            credit0 := (r.st.bar e (x.barIndex b.credit)).arrivals }
          (r.st.setCtx e c (some y)).blockStep e c y b
/-- A transfer of the part or of the placement engine that walks the page list of a sequence with swapped pages waits for
their restore (R195). Whether a transfer's tile needs such a page is a free value (log 4). -/
def State.swapWait (s : State) (e c : Nat) (x : Xfer) : Bool × State :=
  match if (x.src == .part || x.src == .placement) && x.handle != 0xFFFFFFFF then s.sidOf x.handle else none with
  | none => (false, s)
  | some h =>
    if (s.swappedEntries h).isEmpty then (false, s)
    else
      let (z, s1) := s.free
      if z.toNat % 2 = 0 then (false, s1)
      else
        let s2 := (s1.count (Reg.CAR_SWAP_WAIT e) 1 (Reg.CAR_INT_STATUS e) 4).modCtx e c (fun y => { y with wait := some .swap })
        if (s2.strm h).kv.st = .restore then (true, s2)
        else
          let (full, s3) := s2.askRestore h
          (true, if full then s3.endCtx e c 3 else s3)
/-- A transfer that may hand over a tile: none of the conditions that hold it. -/
def Xfer.moves (x : Xfer) : Bool := x.ended.isNone && x.wait.isNone && decide (x.blk < x.nblk)
/-- The engine is in a region that is gated; Oasis engines never are. -/
def State.carGated (s : State) (e : Nat) : Bool := decide (e < 96) && s.gated e
/-- TILE_HANDOVER (R191, R193 to R195, R200). -/
def doTileHandover (e : Fin 104) (c : Fin 8) (s : State) : State :=
  match s.ctx e c with
  | none => s
  | some x =>
    if !x.moves || s.carGated e then s
    else
      let (held, s1) := if x.phase = .fresh then s.swapWait e c x else (false, s)
      if held then s1
      else match x.block with
        | none => s1.fetchBlock e c x
        | some b => s1.blockStep e c x b
def execTileHandover (e : Fin 104) (c : Fin 8) (s : State) : Host.Outcome State Fault Refusal :=
  .next (s.live (doTileHandover e c))

/-! Requests (R181, R182). -/

/-- The owner of a request as the engine takes it. A kernel's owner is an invocation of its cluster with that handle, and
a host's request runs only on an Oasis engine; none where there is no such owner. -/
def State.ownerOf (s : State) (e : Nat) (o : Owner) : Option Xfer :=
  let x : Xfer := { src := o.src, fn := o.fn, prio := o.prio, ticked := o.ticked, handle := o.handle.toNat }
  match o.src with
  | .kernel => if 96 ≤ e then none else
      ((s.invsOf e).find? (fun v => v.handle == o.handle.toNat)).map (fun v => v.owner o.fn)
  | .host => if e < 96 then none else some x
  | _ => some x
/-- TRANSFER_REQUEST (R182). -/
def doTransferRequest (e : Fin 104) (addr : Nat) (o : Owner) (s : State) : State :=
  match s.ownerOf e o with
  | none => s
  | some x => (s.submitReq e x addr).2
def execTransferRequest (e : Fin 104) (addr : Nat) (own : Owner) (s : State) : Host.Outcome State Fault Refusal :=
  .next (s.live (doTransferRequest e addr own))
/-- TRANSFER_START (R180): a waiting transfer takes the lowest free context. -/
def doTransferStart (e : Fin 104) (s : State) : State :=
  if s.carGated e then s
  else match (List.range 8).find? (fun c => (s.ctx e c).isNone) with
    | none => s
    | some c => s.startCtx e c
def execTransferStart (e : Fin 104) (s : State) : Host.Outcome State Fault Refusal := .next (s.live (doTransferStart e))

/-! Completion (R186, R197). -/

/-- The status a transfer ends with (R13). -/
def Xfer.status (x : Xfer) : Nat := x.ended.getD (if x.zeroed = 0 then 0 else 1)
/-- No tile is left, or a condition has ended the transfer. -/
def Xfer.spent (x : Xfer) : Bool := x.ended.isSome || decide (x.nblk ≤ x.blk)
/-- The transfer has ended, and its record waits for no page. -/
def Xfer.over (x : Xfer) : Bool := x.wait.isNone && x.spent
/-- Writes the completion record; a command of the host has none, and one whose page was refused has none. -/
def State.recordXfer (s : State) (e : Nat) (x : Xfer) : State :=
  let p (f : CarBlock → Nat) : Nat := match x.block with | some b => f b | none => 0
  let t1 := match x.block with | some b => b.t1 x.tile | none => x.tile
  if x.cmd.isSome ∨ x.lost then s
  else
    let b := xferRecord x x.status s.tb t1 (p (fun b => b.i2 x.tile)) (p (fun b => b.i3 x.tile))
    if placeOf x.compl = .host then s.setBytes x.compl b else s.writeData (s.carLoc e) x.compl b
/-- The step that waits for a transfer goes on past its node, or stops there. -/
def State.stepXfer (s : State) (h status : Nat) : State :=
  match (s.strm h).step with
  | none => s
  | some r =>
    if r.wait ≠ .transfer then s
    else (if status = 0 then s else if status = 1 then s.note h 1 else s.fail h status).goOn h true
/-- A context ends its transfer: slot, record, counts, and whoever waits for it. -/
def State.finishXfer (s : State) (e c : Nat) (x : Xfer) : State :=
  let st := x.status
  let s1 := (((s.dropReqs e c).freeSlot e x).setCtx e c none).recordXfer e x
  let s2 := s1.countXfer e st
  let s3 := match x.cmd with
    | some (f, q, d) => s2.endCmd f q d st (if st ≤ 1 then x.bytes else 0)
    | none => s2
  match x.step with
  | some h => s3.stepXfer h st
  | none => s3
/-- TRANSFER_COMPLETE (R186); a record whose host page fails translation waits for it (R194). -/
def doTransferComplete (e : Fin 104) (c : Fin 8) (s : State) : State :=
  match s.ctx e c with
  | none => s
  | some x =>
    if !x.over then s
    else match if x.cmd.isNone ∧ !x.lost then s.pageMiss x.fn [(x.compl, 32)] else none with
      | some p => s.faultCtx e c p
      | none => s.finishXfer e c x
def execTransferComplete (e : Fin 104) (c : Fin 8) (s : State) : Host.Outcome State Fault Refusal :=
  .next (s.live (doTransferComplete e c))

/-! Page requests (R194, R197). -/

/-- The page translates from now on. -/
def State.pageOk (s : State) (p : Nat) : State :=
  { s with cond := { s.cond with hostFail := s.cond.hostFail.filter (fun q => q != p) } }
/-- Steps of a cluster whose payload waits on a page request go on, or end FAULTED. -/
def payloadPages (e : Nat) (ok : Bool) (s : State) : List Nat → State
  | [] => s
  | h :: t =>
    let x := s.strm h
    payloadPages e ok (match x.step, s.graphOf x.graph with
      | some r, some g => match r.wait with
        | .host p => if x.cluster ≠ some e then s
            else if ok then (s.pageOk p).startRun h g else (s.fail h 6).waitFor h .done
        | _ => s
      | _, _ => s) t
/-- The answer to the page request of a context, or, where that context waits on none, of the payloads that the cluster's
engine reads. -/
def State.pageAnswer (s : State) (e c : Nat) (ok : Bool) : State :=
  match (s.ctx e c).bind (fun x => x.wait) with
  | some (.fault p) =>
    if ok then (s.pageOk p).modCtx e c (fun x => { x with wait := none })
    else s.modCtx e c (fun x => { x.endWith 6 with lost := x.spent })
  | _ => payloadPages e ok s (s.streams.map (fun x => x.1))
/-- When the payload requests of a cluster's engine that are unanswered went out. -/
def State.payloadWaits (s : State) (e : Nat) : List Nat :=
  s.streams.filterMap (fun x => match x.2.step with
    | some r => (match r.wait with
      | .host _ => if x.2.cluster = some e then some r.waitTb else none
      | _ => none)
    | none => none)
/-- A page request that the answer concerns is out. -/
def State.pageWaits (s : State) (e c : Nat) : Bool :=
  (match s.ctx e c with | some x => x.faultWait | none => false) || !(s.payloadWaits e).isEmpty
/-- When the last of the requests that the answer concerns went out. -/
def State.pageSince (s : State) (e c : Nat) : Nat :=
  match s.ctx e c with
  | some x => if x.faultWait then x.waitTb else (s.payloadWaits e).foldl max 0
  | none => (s.payloadWaits e).foldl max 0
/-- PRI_RESPONSE (R194, R197). -/
def execPriResponse (e : Fin 104) (c : Fin 8) (ok : Bool) (s : State) : Host.Outcome State Fault Refusal :=
  .next (s.live (fun t => t.pageAnswer e c ok))
/-- PRI_TIMEOUT (R197): no response within CAR_PRI_TIMEOUT. -/
def doPriTimeout (e c : Nat) (s : State) : State :=
  (s.reach (s.pageSince e c + 1000000 * max 1 (s.fld (Reg.CAR_PRI_TIMEOUT e) 0 16))).pageAnswer e c false
def execPriTimeout (e : Fin 104) (c : Fin 8) (s : State) : Host.Outcome State Fault Refusal :=
  .next (s.live (fun t => if t.pageWaits e c then doPriTimeout e c t else t))
/-- CAR_CNT_CLR (R203). -/
def execCarCntClr (e : Fin 104) (v : Word) (s : State) : Host.Outcome State Fault Refusal :=
  .next (s.live (fun t => t.cntClr v (carCounters e)))

/-! COPY (R382). -/

/-- COPY's block: rows of 64 bytes, 4,096 to a tile, as words where both ends are word-aligned (DEDUCED, log 36). -/
def copyBlock (src dst len : Nat) : CarBlock :=
  let w := if src % 4 = 0 ∧ dst % 4 = 0 then 4 else 1
  { src := src, dst := dst, ext0 := 64 / w, ext1 := max 1 (len / 64), trows := max 1 (min 4096 (len / 64)), sstr1 := 64,
    dstr1 := 64, esize := w }
/-- The Oasis engine that runs a COPY is a free value (log 4). -/
def State.copyNow (s : State) (f q : Nat) (d : BitVec 512) : State :=
  let src := s.localAddr (db d 8 8)
  let dst := s.localAddr (db d 16 8)
  let n := db d 24 4
  if n % 64 ≠ 0 ∨ !s.mayName f src n ∨ !s.mayName f dst n then s.endCmd f q d 8 0
  else
    let (z, s1) := s.free
    let e := 96 + z.toNat % 8
    let b := copyBlock src dst n
    let k := s1.car e
    let x : Xfer := { nblk := if n = 0 then 0 else 1, pref := 2, handle := dHandle d, src := .host, fn := f, cmd := some (f, q, d),
                      order := k.arrivals, block := some b, past := [b] }
    let y : Xfer := if n = 0 ∨ s1.blockOk e x b then x else { x with ended := some 8 }
    s1.setCar e { k with
      waiting := k.waiting ++ [y]
      arrivals := k.arrivals + 1 }
/-- COPY (R181, R382). -/
def execCopy (fn sq : Fin 64) (desc : BitVec 512) (s : State) : Host.Outcome State Fault Refusal :=
  .next (s.live (fun t => t.command 0x20 fn sq desc (fun u => u.copyNow fn sq desc)))

end Sys2Proof.Machine
end

