-- ==== Sys2Proof/Machine/CmdBar4.lean ====
section
/-!
DEFINITION. The meaning of an access through BAR4 (R71, R157, R171, R371, R376, R476).
-/

namespace Sys2Proof.Machine

/-- Base and size of a function's BAR4: 256 GiB from address 0 for the physical function (DESIGN CHOICE, log 20), the
DMEM window for a virtual one. -/
def State.bar4 (s : State) (f : Nat) : Nat × Nat :=
  if f = 0 then (0, 2 ^ 38) else (s.pair (Reg.HQ_FNf_DMEM_LO f), s.fld (Reg.HQ_FNf_DMEM_SIZE f) 0 16 * 2 ^ 24)
/-- BAR4_ACCESS: an access beyond the window or outside every address range, or over a SLOW link, is answered with
Unsupported Request; a read of an uncorrectable granule with Completer Abort, counted as a detection only. A write to the
staging area is stored in every STATE: R71 says only when software may write there (DESIGN CHOICE, log 7). Register space
is reached in aligned words (R157, log 20). -/
def doBar4Access (f : Fin 64) (write : Bool) (off len : Nat) (data : List Byte) (s : State) : State :=
  let (base, size) := s.bar4 f
  let n := if write then data.length else len
  let a := base + off
  if s.slowLink || decide (size < off + n) || !inOnePlace a n then s.abort
  else if placeOf a = .regs then
    if a % 4 ≠ 0 ∨ n % 4 ≠ 0 then s.abort
    else if write then (storeWords s (a - 0x20000000000) (n / 4) data).answer []
    else (s.readRegs (a - 0x20000000000) (n / 4)).2.answer (s.readRegs (a - 0x20000000000) (n / 4)).1
  else if write then ((s.touchDie a).writeData (s.oasLoc 17 0) a data).answer []
  else
    let g := granulesOf a n
    let s1 := g.foldl State.correct (s.touchDie a)
    match g.find? (fun x => s1.granBad x) with
    | some x => (s1.detectDram x false).abort
    | none => s1.answer (s1.bytes a n)
def execBar4Access (fn : Fin 64) (write : Bool) (off len : Nat) (data : List Byte) (s : State) :
    Host.Outcome State Fault Refusal := .next (s.live (doBar4Access fn write off len data))

end Sys2Proof.Machine
end

