-- ==== Sys2Proof/Machine/CmdCistern.lean ====
section
/-!
DEFINITION. Meanings of the commands of the cistern engines (chapter 08): the start of work items, the ends of slices, and
completion. An item has its whole effect when it starts (log 24).
-/

namespace Sys2Proof.Machine

/-! Order (R164, R165). -/

/-- Item a starts before item b, which arrived after it. -/
def WorkItem.first (a b : WorkItem) : Bool := (a.ticked && !b.ticked) || (a.ticked == b.ticked && decide (b.prio ≤ a.prio))
/-- The item of a queue that starts next, and the queue without it. -/
def popItem : List WorkItem → Option (WorkItem × List WorkItem)
  | [] => none
  | i :: t => match popItem t with
    | none => some (i, [])
    | some (j, l) => if i.first j then some (i, t) else some (j, i :: l)
/-- The engine's registers and the location its reads are named by (Table 21-3). -/
def State.cisLoc (s : State) (e : Nat) : Nat := s.locPath (e / 32) 0 0 9 (e % 32)
/-- The engine runs items: its channel is enabled and its die is not in Night (Table 08-13). -/
def State.cisRuns (s : State) (e : Nat) : Bool := s.fld (Reg.CIS_STATUS e) 0 3 != 3 && s.fld (Reg.CIS_STATUS e) 0 3 != 4

/-! What items do (R162). -/

/-- The channel's frames, 512 KiB apart, are what its engine walks (R155, R162): the pieces of `n` bytes from `a` on, as
address and length (DEDUCED, log 38). -/
def channelRuns (a n : Nat) : List (Nat × Nat) := pageRuns (frameOf a) (a % 16384) n
/-- `n` bytes from `a` on lie in the engine's own channel. -/
def inChannel (e a n : Nat) : Bool :=
  (match placeOf a with | .dram d => 32 * d + channelOf a == e | _ => false) &&
    decide (a % 0x1000000000 / 2 ^ 19 + (a % 16384 + n + 16383) / 16384 ≤ 98304)
/-- A range lies on the engine's die: in its DRAM or in a store of it (R162). -/
def onDie (e a n : Nat) : Bool :=
  inOnePlace a n && (match placeOf a with
    | .dram d => d == e / 32 | .cluster i => i / 24 == e / 32 | .region j => j / 4 == e / 32 | _ => false)
/-- The rows of a QSCAN item: bytes of each, and how many (Table 08-4, R76). -/
def WorkItem.scanRow (i : WorkItem) : Nat := rowBytes (bitsAt i.param 0 4) (bitsAt i.param 8 24)
/-- A piece of a range at `a` begins or ends at an address in no range of Table 08-2. -/
def goneRange (a : Nat) (l : List (Nat × Nat)) : Bool :=
  placeOf a == .none || l.any (fun p => placeOf p.1 == .none || (p.2 != 0 && placeOf (p.1 + p.2 - 1) == .none))
/-- Bytes that an item writes. -/
def WorkItem.outBytes (i : WorkItem) : Nat := if i.op = 2 then 8 * (i.length / max 1 i.scanRow) else i.length
/-- The pieces an item reads: its channel's frames for QSCAN, plain addresses for COPY. -/
def WorkItem.srcRuns (i : WorkItem) : List (Nat × Nat) := if i.op = 2 then channelRuns i.src i.length else [(i.src, i.length)]
/-- The pieces an item writes. -/
def WorkItem.dstRuns (i : WorkItem) : List (Nat × Nat) :=
  match placeOf i.dst with | .dram _ => channelRuns i.dst i.outBytes | _ => [(i.dst, i.outBytes)]
/-- The item's own fields are in order (Tables 08-4, 08-5). -/
def WorkItem.formOk (i : WorkItem) : Bool :=
  if i.op = 2 then bitsAt i.param 8 24 != 0 && i.length % max 1 i.scanRow == 0
  else (i.op == 4 || i.op == 5) && i.length % 64 == 0
/-- The source of an item is one that the engine accepts: QSCAN reads its own channel, COPY anywhere on the die. -/
def WorkItem.srcOk (i : WorkItem) (e : Nat) : Bool :=
  if i.op = 2 then inChannel e i.src i.length else i.op != 5 || onDie e i.src i.length
/-- The destination of an item is one that the engine accepts: its own channel, or, for QSCAN's records, a store. -/
def WorkItem.dstOk (i : WorkItem) (e : Nat) : Bool :=
  inChannel e i.dst i.outBytes || (i.op == 2 && inOnePlace i.dst i.outBytes &&
    (match placeOf i.dst with | .cluster _ => true | .region _ => true | _ => false))
/-- The status an item is refused with, if any. REJECTED, for a form or a range that the part does not accept, comes before
FAULTED, for an address in no range (R13, R157). -/
def WorkItem.refuse (i : WorkItem) (e : Nat) : Option Nat :=
  let noSrc : Bool := (i.op == 2 || i.op == 5) && goneRange i.src i.srcRuns
  let noDst := goneRange i.dst i.dstRuns
  if i.denied || !i.formOk || (!noSrc && !i.srcOk e) || (!noDst && !i.dstOk e) then some 8
  else if noSrc || noDst then some 6
  else none
/-- The value of an element of a format as an FP32 word; unsigned codes are their numbers. -/
def scanVal (fmt c : Nat) : Word := if 10 ≤ fmt ∧ fmt ≤ 14 then ofNat32 .rne c else codeVal .rne fmt c
/-- The records of QSCAN's rows (R112). -/
def qscanRows (fmt n r : Nat) : Nat → List Byte → List Byte
  | 0, _ => []
  | k + 1, l =>
    let g := gatherRow ((unpackRow fmt n (l.take r)).map (scanVal fmt))
    leBytes 4 g.1.toNat ++ leBytes 4 g.2.toNat ++ qscanRows fmt n r k (l.drop r)
/-- A pattern of four bytes repeated over n bytes. -/
def fillBytes (p n : Nat) : List Byte := (List.range n).map (fun k => BitVec.ofNat 8 (p / 256 ^ (k % 4)))
/-- A QSCAN, FILL or COPY item's work: its status, granules given as zeros, and the state. -/
def State.moveItem (s : State) (e : Nat) (i : WorkItem) : Nat × Nat × State :=
  match i.refuse e with
  | some c => (c, 0, s)
  | none =>
    if i.op = 4 then (0, 0, s.writeRuns (s.cisLoc e) i.dstRuns (fillBytes i.param i.length))
    else
      let bad := i.srcRuns.flatMap (fun p => s.badIn p.1 p.2)
      let r := s.readRuns (s.cisLoc e) i.srcRuns
      let s1 := r.st.zeroHandle i.handle bad
      let l := if i.op = 5 then r.bytes
        else qscanRows (bitsAt i.param 0 4) (bitsAt i.param 8 24) i.scanRow (i.length / max 1 i.scanRow) r.bytes
      (if r.zeroed = 0 then 0 else 1, r.zeroed, s1.writeRuns (s.cisLoc e) i.dstRuns l)
/-- The stream whose step waits for an attention item. -/
def State.itemStep (s : State) (i : WorkItem) : Option Nat :=
  (s.sidOf i.handle).filter (fun h => match (s.strm h).step with | some r => r.wait == .items | none => false)
/-- What an attention item gave its step: the condition that stopped the step, or DEGRADED where granules were delivered to
it as zeros, and how many (R163, R168, Table 08-7). -/
def State.itemResult (s t : State) (h : Nat) : Nat × Nat × State :=
  let n := (t.run h).zgiven - (s.run h).zgiven
  (if t.stopped h && !s.stopped h then (t.run h).status.headD 6 else if n = 0 then 0 else 1, n, t)
/-- An attention item meets a page that lies in the swap pool (R227). -/
def State.itemHeld (s : State) (i : WorkItem) : Bool :=
  if i.denied ∨ 1 < i.op then false
  else match s.itemStep i with
    | none => false
    | some h => !s.stopped h && (match s.jobOf h, s.kvOf h with
      | some x, some k => s.jobSwapped h x k i.param (bitsAt i.param2 0 32)
      | _, _ => false)
/-- The restore that a held item waits for is asked for, unless it is under way; CACHE_FULL ends the node. -/
def State.holdItem (s : State) (i : WorkItem) : State :=
  match s.itemStep i with
  | none => s
  | some h =>
    if (s.strm h).kv.st = .restore then s
    else
      let (full, s1) := s.askRestore h
      if full then s1.fail h 3 else s1
/-- An item's work (Table 08-4). -/
def State.doItem (s : State) (e : Nat) (i : WorkItem) : Nat × Nat × State :=
  if i.denied then (8, 0, s)
  else if i.op ≤ 1 ∧ ((s.itemStep i).map s.stopped).getD false then
    (((s.itemStep i).bind (fun h => (s.run h).status.head?)).getD 6, 0, s)
  else if i.op = 0 then (match s.itemStep i with | some h => s.itemResult (s.attnItem h (s.cisLoc e) i) h | none => (0, 0, s))
  else if i.op = 1 then (match s.itemStep i with | some h => s.itemResult (s.expandItem h (s.cisLoc e) i) h | none => (0, 0, s))
  else if i.op = 3 then
    match s.sidOf i.handle with
    | some h => let (c, s1) := s.probeItem (s.cisLoc e) h; (c, 0, s1)
    | none => (0, 0, s)
  else s.moveItem e i
/-- Bytes of a range that lie in an engine's own channel: those of its pieces, frame by frame. -/
def bytesIn (e a n : Nat) : Nat :=
  sumMap (fun j =>
    let lo := if j = 0 then a else (a / 16384 + j) * 16384
    if inChannel e lo 1 then min (a + n) ((a / 16384 + j + 1) * 16384) - lo else 0) (List.range ((a % 16384 + n + 16383) / 16384))
/-- Bytes that an item reads from its channel (R179). A PROBE reads the bucket and the records that it compares. -/
def State.itemReads (s : State) (i : WorkItem) (e : Nat) : Nat :=
  if i.op = 4 then 0
  else if i.op = 5 then bytesIn e i.src i.length
  else if i.op = 3 then match s.sidOf i.handle with
    | some h => sumMap (fun (p : Nat × Nat) => bytesIn e p.1 p.2) (s.probeReads h)
    | none => 0
  else i.length

/-! Starting and completing. -/

/-- Requesters that waited for room in the queue enter it, in order (R164). -/
def Cistern.takeIn (c : Cistern) : Cistern :=
  let n := 64 - c.queue.length
  { c with
    queue := c.queue ++ c.waiting.take n
    waiting := c.waiting.drop n }
/-- The engine does its running item's work. -/
def State.runItem (s : State) (e : Nat) (i : WorkItem) : State :=
  let (st, z, s2) := s.doItem e i
  let s3 := if st = 8 ∨ st = 6 then s2 else s2.bump64 (Reg.CIS_BYTES_LO e) (s.itemReads i e)
  let d := s3.cis e
  s3.setCis e { d with running := some { item := i, status := st, zeroed := z } }
/-- Starts an item that has left the queue; one that meets a swapped page is held (R227). -/
def State.startItemOn (s : State) (e : Nat) (i : WorkItem) (rest : List WorkItem) : State :=
  let c := s.cis e
  let s1 := s.setCis e (Cistern.takeIn { c with
    queue := rest
    running := some { item := i } })
  if s1.itemHeld i then
    let s2 := s1.holdItem i
    let d := s2.cis e
    s2.setCis e { d with running := some { item := i, held := true } }
  else s1.runItem e i
/-- The engine's next item starts if it is free and that item has the operation, or is one that the part refuses. -/
def startCistern (op : Nat) (e : Fin 128) (s : State) : State :=
  let c := s.cis e
  if c.running.isSome || !s.cisRuns e then s
  else match popItem c.queue with
    | some (i, rest) => if i.op = op ∨ i.denied then s.startItemOn e i rest else s
    | none => s
/-- CISTERN_ATTN (R216). -/
def execCisternAttn (e : Fin 128) (s : State) : Host.Outcome State Fault Refusal := .next (s.live (startCistern 0 e))
/-- CISTERN_EXPAND (R217). -/
def execCisternExpand (e : Fin 128) (s : State) : Host.Outcome State Fault Refusal := .next (s.live (startCistern 1 e))
/-- CISTERN_QSCAN (R112, R162). -/
def execCisternQscan (e : Fin 128) (s : State) : Host.Outcome State Fault Refusal := .next (s.live (startCistern 2 e))
/-- CISTERN_PROBE (R248). -/
def execCisternProbe (e : Fin 128) (s : State) : Host.Outcome State Fault Refusal := .next (s.live (startCistern 3 e))
/-- CISTERN_FILL (R162). -/
def execCisternFill (e : Fin 128) (s : State) : Host.Outcome State Fault Refusal := .next (s.live (startCistern 4 e))
/-- CISTERN_COPY (R162). -/
def execCisternCopy (e : Fin 128) (s : State) : Host.Outcome State Fault Refusal := .next (s.live (startCistern 5 e))

/-- CISTERN_SLICE_END (R165): a slice of the running item ends, and a queued grain-bound item starts ahead of one that is
not. -/
def doCisternSliceEnd (e : Fin 128) (s : State) : State :=
  let c := s.cis e
  match c.running with
  | none => s
  | some r =>
    let r1 : CisRun := { r with slices := r.slices + 1 }
    match if r.item.ticked then none else (popItem c.queue).filter (fun x => x.1.ticked) with
    | some (i, rest) => (s.setCis e { c with
        running := none
        gaveWay := c.gaveWay ++ [r1] }).startItemOn e i rest
    | none => s.setCis e { c with running := some r1 }
def execCisternSliceEnd (e : Fin 128) (s : State) : Host.Outcome State Fault Refusal :=
  .next (s.live (doCisternSliceEnd e))
/-- The engine is free: the item that gave way goes on once no grain-bound item is queued (R165). -/
def Cistern.goOn (c : Cistern) : Cistern :=
  match c.gaveWay with
  | r :: t => if c.queue.any (fun i => i.ticked) then { c with running := none } else { c with
      running := some r
      gaveWay := t }
  | [] => { c with running := none }
/-- The step that waits for an attention item has one less to wait for. -/
def State.itemDone (s : State) (i : WorkItem) : State :=
  match if i.op ≤ 1 ∧ !i.denied then s.itemStep i else none with
  | none => s
  | some h =>
    let r := s.run h
    let s1 := s.setRun h { r with jobs := r.jobs - 1 }
    if r.jobs ≤ 1 then s1.goOn h false else s1
/-- The running item is over: record, then arrival (R163); the cycles it took are a free value (log 4). -/
def State.completeItem (s : State) (e : Fin 128) : State :=
  let c := s.cis e
  match c.running with
  | none => s
  | some r =>
    let (z, s0) := s.free
    let s1 := ((s0.setCis e c.goOn).dieBusy (e / 32)).bump64 (Reg.CIS_BUSY_LO e) (z.toNat % 2 ^ 32)
    let s2 := if r.status = 8 then s1.rejectItem e else s1.bump64 (Reg.CIS_ITEMS_LO e) 1
    (s2.endItem r.item r.status r.zeroed).itemDone r.item
/-- CISTERN_ITEM_COMPLETE (R163, R164). A held item does its work once its pages are back, and until then nothing ends
(R227). -/
def doCisternItemComplete (e : Fin 128) (s : State) : State :=
  match (s.cis e).running with
  | none => s
  | some r =>
    if !r.held then s.completeItem e
    else if s.itemHeld r.item then s
    else (s.runItem e r.item).completeItem e
def execCisternItemComplete (e : Fin 128) (s : State) : Host.Outcome State Fault Refusal :=
  .next (s.live (doCisternItemComplete e))

end Sys2Proof.Machine
end

