-- ==== Sys2Proof/Machine/CmdJtag.lean ====
section
/-!
DEFINITION. Meanings of the JTAG instructions (R497, R498). They are not gated: the TAP has its own clock. The cells of the
boundary register are numbered in the order of a BSDL description that the spec leaves out (log 10).
-/

namespace Sys2Proof.Machine

/-- An instruction is loaded, with what the signal balls do under it. -/
def State.loadJtag (s : State) (i : JtagInstr) (m : PinMode) : State :=
  { s with pins := { s.pins with
    jtag := i
    mode := m } }
/-- BYPASS, with every pin left to the part. -/
def State.selectBypass (s : State) : State := s.loadJtag .bypass .part
/-- An instruction that acts only while POR_N is asserted; else it selects BYPASS (R498). -/
def State.testInstr (s : State) (i : JtagInstr) (m : PinMode) : State :=
  if s.pins.por then s.loadJtag i m else s.selectBypass
/-- The boundary register takes values. -/
def loadCells (s : State) : List (Nat × Bool) → State
  | [] => s
  | (k, b) :: t =>
    loadCells { s with pins := { s.pins with cells := AMap.write (fun _ => 0) s.pins.cells k (b2n b) } } t
def State.shiftCells (s : State) (l : List (Nat × Bool)) : State := if s.pins.por then loadCells s l else s
/-- The value that IDCODE reads (R497). -/
def idcode : Nat := 0x12448C4F

/-- JTAG_BYPASS. -/
def execJtagBypass (s : State) : Host.Outcome State Fault Refusal := .next s.selectBypass
/-- JTAG_IDCODE. -/
def execJtagIdcode (s : State) : Host.Outcome State Fault Refusal :=
  .next ((s.loadJtag .idcode .part).answer (leBytes 4 idcode))
/-- JTAG_SAMPLE_PRELOAD: the pins stay the part's. -/
def execJtagSamplePreload (cells : List (Nat × Bool)) (s : State) : Host.Outcome State Fault Refusal :=
  .next ((s.shiftCells cells).testInstr .samplePreload .part)
/-- JTAG_EXTEST: the cells drive the balls. -/
def execJtagExtest (cells : List (Nat × Bool)) (s : State) : Host.Outcome State Fault Refusal :=
  .next ((s.shiftCells cells).testInstr .extest .cells)
/-- JTAG_HIGHZ. -/
def execJtagHighz (s : State) : Host.Outcome State Fault Refusal := .next (s.testInstr .highz .floating)
/-- JTAG_CLAMP: the outputs hold what the cells hold. -/
def execJtagClamp (s : State) : Host.Outcome State Fault Refusal := .next (s.testInstr .clamp .held)
/-- JTAG_EXTEST_PULSE. -/
def execJtagExtestPulse (s : State) : Host.Outcome State Fault Refusal := .next (s.testInstr .extestPulse .pulse)
/-- JTAG_EXTEST_TRAIN. -/
def execJtagExtestTrain (s : State) : Host.Outcome State Fault Refusal := .next (s.testInstr .extestTrain .train)

end Sys2Proof.Machine
end

