-- ==== Sys2Proof/Machine/CmdPlace.lean ====
section
/-!
DEFINITION. Meanings of the events of the placement engine (chapter 16): the start of items, aging, urgent work, gating
and waking.
-/

namespace Sys2Proof.Machine

/-! Items (R355, R361, R363). -/

/-- ITEM_START (R355, R361, R363): the cluster takes the waiting item that comes first. -/
def doItemStart (cl : Fin 96) (s : State) : State :=
  if !s.awake cl then s
  else match firstItem (s.startables cl) with
    | none => s
    | some i => s.startFirst i
def execItemStart (cl : Fin 96) (s : State) : Host.Outcome State Fault Refusal := .next (s.live (doItemStart cl))

/-- PREEMPT_PLACE (R358): a victim that its step does not keep is out, and an admission whose victims are all out takes
its place. -/
def doPreemptPlace (h : Word) (s : State) : State :=
  let x := s.strm h.toNat
  ((if x.victim && s.mayLeave h.toNat then s.swapOutStream h.toNat else s).settle).asked
def execPreemptPlace (h : Word) (s : State) : Host.Outcome State Fault Refusal := .next (s.live (doPreemptPlace h))

/-! Aging (R359 to R361). -/

/-- AGE_STEP in force. -/
def State.ageStep (s : State) : Nat := s.structure_.prio.ageStep
/-- A waiting item at an aging tick: it waits longer and, below class 6, ages. -/
def Item.age1 (step tick : Nat) (i : Item) : Item :=
  if i.running then i
  else if 6 ≤ i.cls then { i with waited := i.waited + 1 }
  else if i.age + 1 < step then { i with waited := i.waited + 1, age := i.age + 1 }
  else { i with
    waited := i.waited + 1
    age := 0
    cls := i.cls + 1
    urgentSince := if 6 ≤ i.cls + 1 then some tick else none }
/-- Every item ages; promotions and items that become urgent count. -/
def State.ageItems (s : State) : State :=
  let l := s.place.items
  let tick := s.place.agingTicks + 1
  let l' := l.map (Item.age1 s.ageStep tick)
  let up := ((l.zip l').filter (fun x => decide (x.1.cls < x.2.cls))).length
  let urgent := ((l.zip l').filter (fun x => decide (x.1.cls < 6 ∧ 6 ≤ x.2.cls))).length
  let s1 : State := { s with place := { s.place with items := l', agingTicks := tick } }
  let s2 := if up = 0 then s1 else s1.count Reg.PLC_AGED up Reg.PLC_INT_STATUS 5
  if urgent = 0 then s2 else (s2.count Reg.PLC_URGENT urgent Reg.PLC_INT_STATUS 5).raise Reg.PLC_INT_STATUS 2
/-- The urgent items of each cluster start, in order, as far as they can. -/
def startUrgents (s : State) : List Nat → State
  | [] => s
  | cl :: t =>
    let l := (s.startables cl).filter Item.urgent
    startUrgents (match if s.awake cl then firstItem l else none with | some i => s.startUrgent i | none => s) t
/-- Urgent items that still wait at the aging tick after they became urgent count once (R361). -/
def State.countUrgentMiss (s : State) : State :=
  let late (i : Item) : Bool := !i.running && !i.missed &&
    (match i.urgentSince with | some u => decide (u < s.place.agingTicks) | none => false)
  let n := (s.place.items.filter late).length
  if n = 0 then s
  else
    let s1 : State := { s with place := { s.place with items := s.place.items.map (fun i => if late i then { i with missed := true } else i) } }
    (s1.count Reg.PLC_URGENT_MISS n Reg.PLC_INT_STATUS 5).raise Reg.PLC_INT_STATUS 3

/-! Gating (R365). -/

/-- A region is idle. -/
def State.regionIdle (s : State) (j : Nat) : Bool :=
  let cls := regionClusters j
  cls.all (fun cl => (List.range 8).all (fun b => s.rn (Reg.TBG_RES cl b) == 0)) &&
  !s.place.items.any (fun i => cls.contains i.cluster) &&
  !s.cisterns.any (fun e => (e.2.queue ++ e.2.waiting ++ (e.2.running.toList ++ e.2.gaveWay).map (fun r => r.item)).any
    (fun i => cls.contains i.cluster)) &&
  cls.all (fun cl => (s.car cl).waiting.isEmpty && (s.car cl).ctxs.all (fun c => c.2.isNone)) &&
  !s.place.pend.any (fun p => cls.contains p.cluster) && !s.place.crests.any (fun c => cls.contains c.cluster) &&
  !s.streams.any (fun e => e.2.step.isSome && (match e.2.cluster with | some cl => cls.contains cl | none => false))
/-- The streams placed on a region. -/
def State.regionStreams (s : State) (j : Nat) : List Nat :=
  (s.streams.filter (fun e => match e.2.cluster with | some cl => clRegion16 cl == j | none => false)).map (fun e => e.1)
/-- Staging sets are flushed and state items saved before the stores are lost. -/
def saveAll (s : State) : List Nat → State
  | [] => s
  | h :: t => saveAll ((s.flushSet h).saveItems h) t
/-- Gates a region: taps are flushed, state items saved, and the stores lost. -/
def State.gateRegion (s : State) (j : Nat) : State :=
  let s1 := s.flushTaps (fun tap => decide (tap < 192) && tap / 12 == j)
  (saveAll (s1.count Reg.PLC_GATE 1 Reg.PLC_INT_STATUS 5) (s1.regionStreams j)).regionDown j
/-- Idle regions count; one idle for GATE_DELAY aging ticks is gated. -/
def gateIdle (s : State) : List Nat → State
  | [] => s
  | j :: t =>
    let d := s.structure_.prio.gateDelay
    let set (n : Nat) (s : State) : State := { s with place := { s.place with idle := AMap.write (fun _ => 0) s.place.idle j n } }
    let n := AMap.read (fun _ => 0) s.place.idle j + 1
    gateIdle (if !s.rbit Reg.PLC_AWAKE j then s
      else if !s.regionIdle j then set 0 s
      else if d ≠ 0 ∧ d ≤ n then s.gateRegion j
      else set (min n 4095) s) t
/-- AGING_TICK (R359 to R361, R363, R365). -/
def doAgingTick (s : State) : State :=
  gateIdle ((startUrgents s.ageItems allClusters).countUrgentMiss) (List.range 16)
def execAgingTick (s : State) : Host.Outcome State Fault Refusal := .next (s.live doAgingTick)

/-! Waking (R366). -/

/-- Saved state items of streams placed on a region are back. -/
def loadAll (s : State) : List Nat → State
  | [] => s
  | h :: t => loadAll (s.loadItems h) t
/-- REGION_WAKE_COMPLETE (R366): the region is awake, weights and state items are reloaded, admissions that waited for it land, and its streams go on. A region
of a die in Night is not woken before its die. -/
def doRegionWakeComplete (j : Fin 16) (s : State) : State :=
  if !s.place.waking.contains j.val || (s.die (j.val / 4)).night then s
  else
    let s0 := (regionClusters j).foldl State.reloadWeights (s.regionUp j)
    let s1 := loadAll s0 (s.regionStreams j)
    let p := s1.place
    let s2 : State := { s1 with place := { p with
      pend := p.pend.map (fun x => if clRegion16 x.cluster = j.val then { x with waking := false } else x) } }
    lookAll s2.settle (s2.regionStreams j)
def execRegionWakeComplete (j : Fin 16) (s : State) : Host.Outcome State Fault Refusal := .next (s.live (doRegionWakeComplete j))

/-- PLC_CNT_CLR (R369). -/
def execPlcCntClr (v : Word) (s : State) : Host.Outcome State Fault Refusal :=
  .next (s.live (fun t => t.cntClr v (wordsFrom Reg.PLC_ADMIT Reg.PLC_WAKE_DENIED)))

end Sys2Proof.Machine
end

