-- ==== Sys2Proof/Machine/Dispatch.lean ====
section
/-!
DEFINITION. The dispatch: one arm per command, each one direct call of its meaning.
-/

namespace Sys2Proof.Machine

def exec (i : Instr) (s : State) : Host.Outcome State Fault Refusal :=
  match i with
  | .registerWrite sp off v => Sys2Proof.Machine.execRegisterWrite sp off v s
  | .bar0MisalignedAccess write off len => Sys2Proof.Machine.execBar0MisalignedAccess write off len s
  | .lowWordRead sp off => Sys2Proof.Machine.execLowWordRead sp off s
  | .ppsEpochWrite hi v => Sys2Proof.Machine.execPpsEpochWrite hi v s
  | .ppsEdge rising => Sys2Proof.Machine.execPpsEdge rising s
  | .holdoverEnter cause => Sys2Proof.Machine.execHoldoverEnter cause s
  | .holdoverExit offset => Sys2Proof.Machine.execHoldoverExit offset s
  | .tbLoad v => Sys2Proof.Machine.execTbLoad v s
  | .grainTick p => Sys2Proof.Machine.execGrainTick p s
  | .tickDelivery cl p frame used => Sys2Proof.Machine.execTickDelivery cl p frame used s
  | .stepStart h => Sys2Proof.Machine.execStepStart h s
  | .stepComplete h cycles => Sys2Proof.Machine.execStepComplete h cycles s
  | .ringTailWrite r v => Sys2Proof.Machine.execRingTailWrite r v s
  | .eventModIntervalEnd r => Sys2Proof.Machine.execEventModIntervalEnd r s
  | .tbgPeakClear cl b => Sys2Proof.Machine.execTbgPeakClear cl b s
  | .splGo v => Sys2Proof.Machine.execSplGo v s
  | .imageCopyDone img => Sys2Proof.Machine.execImageCopyDone img s
  | .poolSwitch => Sys2Proof.Machine.execPoolSwitch s
  | .drainTimeout => Sys2Proof.Machine.execDrainTimeout s
  | .splAbort v => Sys2Proof.Machine.execSplAbort v s
  | .trainingComplete failed temps => Sys2Proof.Machine.execTrainingComplete failed temps s
  | .weightLoad fn sq desc => Sys2Proof.Machine.execWeightLoad fn sq desc s
  | .engineResume cl unit id => Sys2Proof.Machine.execEngineResume cl unit id s
  | .meCntClr cl e v => Sys2Proof.Machine.execMeCntClr cl e v s
  | .vecCntClr cl v => Sys2Proof.Machine.execVecCntClr cl v s
  | .qstCntClr cl v => Sys2Proof.Machine.execQstCntClr cl v s
  | .qstSlotClear cl n => Sys2Proof.Machine.execQstSlotClear cl n s
  | .qstWselWrite cl n v => Sys2Proof.Machine.execQstWselWrite cl n v s
  | .drfTestGo cl => Sys2Proof.Machine.execDrfTestGo cl s
  | .drfTestDone cl => Sys2Proof.Machine.execDrfTestDone cl s
  | .drfCntClr cl v => Sys2Proof.Machine.execDrfCntClr cl v s
  | .smpCntClr cl v => Sys2Proof.Machine.execSmpCntClr cl v s
  | .nmdRv64Instruction n => Sys2Proof.Machine.execNmdRv64Instruction n s
  | .nmdEcall n => Sys2Proof.Machine.execNmdEcall n s
  | .nmdTwait n => Sys2Proof.Machine.execNmdTwait n s
  | .nmdBar n => Sys2Proof.Machine.execNmdBar n s
  | .nmdQpush n => Sys2Proof.Machine.execNmdQpush n s
  | .nmdQpop n => Sys2Proof.Machine.execNmdQpop n s
  | .nmdDraw n => Sys2Proof.Machine.execNmdDraw n s
  | .nmdMark n => Sys2Proof.Machine.execNmdMark n s
  | .nmdRbegin n => Sys2Proof.Machine.execNmdRbegin n s
  | .nmdRfeed n => Sys2Proof.Machine.execNmdRfeed n s
  | .nmdRnode n => Sys2Proof.Machine.execNmdRnode n s
  | .nmdRend n => Sys2Proof.Machine.execNmdRend n s
  | .nmdWatchdog n => Sys2Proof.Machine.execNmdWatchdog n s
  | .nmdResume n id => Sys2Proof.Machine.execNmdResume n id s
  | .nmdCntClr n v => Sys2Proof.Machine.execNmdCntClr n v s
  | .cisternAttn e => Sys2Proof.Machine.execCisternAttn e s
  | .cisternExpand e => Sys2Proof.Machine.execCisternExpand e s
  | .cisternQscan e => Sys2Proof.Machine.execCisternQscan e s
  | .cisternProbe e => Sys2Proof.Machine.execCisternProbe e s
  | .cisternFill e => Sys2Proof.Machine.execCisternFill e s
  | .cisternCopy e => Sys2Proof.Machine.execCisternCopy e s
  | .cisternSliceEnd e => Sys2Proof.Machine.execCisternSliceEnd e s
  | .cisternItemComplete e => Sys2Proof.Machine.execCisternItemComplete e s
  | .dmemRetire d v => Sys2Proof.Machine.execDmemRetire d v s
  | .dramRefresh d => Sys2Proof.Machine.execDramRefresh d s
  | .stackTempRead d t => Sys2Proof.Machine.execStackTempRead d t s
  | .patrolScrub d ofs => Sys2Proof.Machine.execPatrolScrub d ofs s
  | .dmemCntClr d v => Sys2Proof.Machine.execDmemCntClr d v s
  | .cisCntClr e v => Sys2Proof.Machine.execCisCntClr e v s
  | .transferRequest e addr own => Sys2Proof.Machine.execTransferRequest e addr own s
  | .transferStart e => Sys2Proof.Machine.execTransferStart e s
  | .tileHandover e c => Sys2Proof.Machine.execTileHandover e c s
  | .transferComplete e c => Sys2Proof.Machine.execTransferComplete e c s
  | .priResponse e c ok => Sys2Proof.Machine.execPriResponse e c ok s
  | .priTimeout e c => Sys2Proof.Machine.execPriTimeout e c s
  | .carCntClr e v => Sys2Proof.Machine.execCarCntClr e v s
  | .crnRestart e v => Sys2Proof.Machine.execCrnRestart e v s
  | .crnPairHighWrite e sl pair v => Sys2Proof.Machine.execCrnPairHighWrite e sl pair v s
  | .kvAttach fn sq desc => Sys2Proof.Machine.execKvAttach fn sq desc s
  | .kvFork fn sq desc => Sys2Proof.Machine.execKvFork fn sq desc s
  | .kvTruncate fn sq desc => Sys2Proof.Machine.execKvTruncate fn sq desc s
  | .kvPin fn sq desc => Sys2Proof.Machine.execKvPin fn sq desc s
  | .swapPageWriteDone h entry ok => Sys2Proof.Machine.execSwapPageWriteDone h entry ok s
  | .kvRestoreComplete h => Sys2Proof.Machine.execKvRestoreComplete h s
  | .readyRecordArrival h member first count data => Sys2Proof.Machine.execReadyRecordArrival h member first count data s
  | .ringBlockReceive h layer block data => Sys2Proof.Machine.execRingBlockReceive h layer block data s
  | .ringTimeout h => Sys2Proof.Machine.execRingTimeout h s
  | .kvcCntClr v => Sys2Proof.Machine.execKvcCntClr v s
  | .kvpLowWrite d k v => Sys2Proof.Machine.execKvpLowWrite d k v s
  | .streamOpen fn sq desc => Sys2Proof.Machine.execStreamOpen fn sq desc s
  | .streamFeed fn sq desc => Sys2Proof.Machine.execStreamFeed fn sq desc s
  | .streamMark fn sq desc => Sys2Proof.Machine.execStreamMark fn sq desc s
  | .streamPause fn sq desc => Sys2Proof.Machine.execStreamPause fn sq desc s
  | .streamResume fn sq desc => Sys2Proof.Machine.execStreamResume fn sq desc s
  | .resumeTickReached h => Sys2Proof.Machine.execResumeTickReached h s
  | .streamExport fn sq desc => Sys2Proof.Machine.execStreamExport fn sq desc s
  | .exportParcelWritten h => Sys2Proof.Machine.execExportParcelWritten h s
  | .streamImport fn sq desc => Sys2Proof.Machine.execStreamImport fn sq desc s
  | .streamClose fn sq desc => Sys2Proof.Machine.execStreamClose fn sq desc s
  | .strmCntClr v => Sys2Proof.Machine.execStrmCntClr v s
  | .hostInputPoll ch => Sys2Proof.Machine.execHostInputPoll ch s
  | .rippleFrame ch pcm => Sys2Proof.Machine.execRippleFrame ch pcm s
  | .crestDecision ch => Sys2Proof.Machine.execCrestDecision ch s
  | .crestTimeout ch => Sys2Proof.Machine.execCrestTimeout ch s
  | .channelRelease ch => Sys2Proof.Machine.execChannelRelease ch s
  | .rplChSrcWrite ch v => Sys2Proof.Machine.execRplChSrcWrite ch v s
  | .groupEnable g v => Sys2Proof.Machine.execGroupEnable g v s
  | .enroll v => Sys2Proof.Machine.execEnroll v s
  | .enrollDelete v => Sys2Proof.Machine.execEnrollDelete v s
  | .rplCntClr v => Sys2Proof.Machine.execRplCntClr v s
  | .acfModeWrite a v => Sys2Proof.Machine.execAcfModeWrite a v s
  | .acfModeChange a => Sys2Proof.Machine.execAcfModeChange a s
  | .pdmClockStart a => Sys2Proof.Machine.execPdmClockStart a s
  | .attendBlock a pcm => Sys2Proof.Machine.execAttendBlock a pcm s
  | .acfCntClr v => Sys2Proof.Machine.execAcfCntClr v s
  | .portStart n v => Sys2Proof.Machine.execPortStart n v s
  | .portStop n v => Sys2Proof.Machine.execPortStop n v s
  | .portStopComplete n => Sys2Proof.Machine.execPortStopComplete n s
  | .portFrame n rx => Sys2Proof.Machine.execPortFrame n rx s
  | .slotSampleArrival n slot skipped x deg => Sys2Proof.Machine.execSlotSampleArrival n slot skipped x deg s
  | .steerUpdate n => Sys2Proof.Machine.execSteerUpdate n s
  | .rateMeasure n => Sys2Proof.Machine.execRateMeasure n s
  | .syncLost n => Sys2Proof.Machine.execSyncLost n s
  | .txmaskWrite n v => Sys2Proof.Machine.execTxmaskWrite n v s
  | .rxmaskWrite n v => Sys2Proof.Machine.execRxmaskWrite n v s
  | .trimClr n v => Sys2Proof.Machine.execTrimClr n v s
  | .sapCntClr v => Sys2Proof.Machine.execSapCntClr v s
  | .itemStart cl => Sys2Proof.Machine.execItemStart cl s
  | .preemptPlace h => Sys2Proof.Machine.execPreemptPlace h s
  | .agingTick => Sys2Proof.Machine.execAgingTick s
  | .regionWakeComplete j => Sys2Proof.Machine.execRegionWakeComplete j s
  | .plcCntClr v => Sys2Proof.Machine.execPlcCntClr v s
  | .linkTrainingComplete rate width => Sys2Proof.Machine.execLinkTrainingComplete rate width s
  | .sqDoorbell fn q v => Sys2Proof.Machine.execSqDoorbell fn q v s
  | .cqDoorbell fn q v => Sys2Proof.Machine.execCqDoorbell fn q v s
  | .commandFetch => Sys2Proof.Machine.execCommandFetch s
  | .nop fn sq desc => Sys2Proof.Machine.execNop fn sq desc s
  | .copy fn sq desc => Sys2Proof.Machine.execCopy fn sq desc s
  | .cqInterruptTimer fn q => Sys2Proof.Machine.execCqInterruptTimer fn q s
  | .functionLevelReset fn => Sys2Proof.Machine.execFunctionLevelReset fn s
  | .hqCntClr v => Sys2Proof.Machine.execHqCntClr v s
  | .mctpSetEndpointId eid => Sys2Proof.Machine.execMctpSetEndpointId eid s
  | .mctpGetEndpointId => Sys2Proof.Machine.execMctpGetEndpointId s
  | .mctpGetVersionSupport => Sys2Proof.Machine.execMctpGetVersionSupport s
  | .mctpGetMessageTypeSupport => Sys2Proof.Machine.execMctpGetMessageTypeSupport s
  | .telemetryPartId => Sys2Proof.Machine.execTelemetryPartId s
  | .telemetryTemperatures => Sys2Proof.Machine.execTelemetryTemperatures s
  | .telemetryPower => Sys2Proof.Machine.execTelemetryPower s
  | .telemetryLinks => Sys2Proof.Machine.execTelemetryLinks s
  | .telemetryErrorCounters => Sys2Proof.Machine.execTelemetryErrorCounters s
  | .telemetryEventsReadClear => Sys2Proof.Machine.execTelemetryEventsReadClear s
  | .bar4Access fn write off len data => Sys2Proof.Machine.execBar4Access fn write off len data s
  | .ergPortTrain n lanes => Sys2Proof.Machine.execErgPortTrain n lanes s
  | .ergHello n hello enc => Sys2Proof.Machine.execErgHello n hello enc s
  | .ergProof n proof => Sys2Proof.Machine.execErgProof n proof s
  | .flitReceive n crcOk tagOk => Sys2Proof.Machine.execFlitReceive n crcOk tagOk s
  | .linkHello n heard => Sys2Proof.Machine.execLinkHello n heard s
  | .ergPortDown n cause => Sys2Proof.Machine.execErgPortDown n cause s
  | .ergRetrainTimer n => Sys2Proof.Machine.execErgRetrainTimer n s
  | .ergRekey n => Sys2Proof.Machine.execErgRekey n s
  | .ergJoin v => Sys2Proof.Machine.execErgJoin v s
  | .lsaFlood => Sys2Proof.Machine.execLsaFlood s
  | .lsaReceive n lsa => Sys2Proof.Machine.execLsaReceive n lsa s
  | .memberStale ident => Sys2Proof.Machine.execMemberStale ident s
  | .idGrant dev => Sys2Proof.Machine.execIdGrant dev s
  | .ergRejoin v => Sys2Proof.Machine.execErgRejoin v s
  | .ergUnrClr v => Sys2Proof.Machine.execErgUnrClr v s
  | .ergCntClr v => Sys2Proof.Machine.execErgCntClr v s
  | .remoteRequest src req => Sys2Proof.Machine.execRemoteRequest src req s
  | .remoteResponse id status data => Sys2Proof.Machine.execRemoteResponse id status data s
  | .remoteRequestTimeout id => Sys2Proof.Machine.execRemoteRequestTimeout id s
  | .syncExchange n t1 t2 t3 t4 => Sys2Proof.Machine.execSyncExchange n t1 t2 t3 t4 s
  | .fabricSnapshotTrigger t num => Sys2Proof.Machine.execFabricSnapshotTrigger t num s
  | .slotFill => Sys2Proof.Machine.execSlotFill s
  | .slotRevoke => Sys2Proof.Machine.execSlotRevoke s
  | .slotClaim => Sys2Proof.Machine.execSlotClaim s
  | .fuseProgramDone ok => Sys2Proof.Machine.execFuseProgramDone ok s
  | .quote => Sys2Proof.Machine.execQuote s
  | .quoteDone => Sys2Proof.Machine.execQuoteDone s
  | .secCntClr v => Sys2Proof.Machine.execSecCntClr v s
  | .tallyMessage fn q deg units => Sys2Proof.Machine.execTallyMessage fn q deg units s
  | .tallyResidueTimeout tap fn q deg => Sys2Proof.Machine.execTallyResidueTimeout tap fn q deg s
  | .meterPeriodEnd => Sys2Proof.Machine.execMeterPeriodEnd s
  | .meterPowerUp per sealOpen => Sys2Proof.Machine.execMeterPowerUp per sealOpen s
  | .sealOpen time => Sys2Proof.Machine.execSealOpen time s
  | .sealClose time => Sys2Proof.Machine.execSealClose time s
  | .mirrorCopy => Sys2Proof.Machine.execMirrorCopy s
  | .mmrCntClr v => Sys2Proof.Machine.execMmrCntClr v s
  | .inspectorIdentity => Sys2Proof.Machine.execInspectorIdentity s
  | .inspectorStatus => Sys2Proof.Machine.execInspectorStatus s
  | .inspectorRecordBySeq seq => Sys2Proof.Machine.execInspectorRecordBySeq seq s
  | .inspectorLatestRecord => Sys2Proof.Machine.execInspectorLatestRecord s
  | .inspectorOpenCounts => Sys2Proof.Machine.execInspectorOpenCounts s
  | .inspectorBadFrame => Sys2Proof.Machine.execInspectorBadFrame s
  | .errorReport cls code loc skind suspect => Sys2Proof.Machine.execErrorReport cls code loc skind suspect s
  | .regionWindowClose region => Sys2Proof.Machine.execRegionWindowClose region s
  | .packageWindowClose => Sys2Proof.Machine.execPackageWindowClose s
  | .errTailWrite v => Sys2Proof.Machine.execErrTailWrite v s
  | .errModIntervalEnd => Sys2Proof.Machine.execErrModIntervalEnd s
  | .snapFire => Sys2Proof.Machine.execSnapFire s
  | .snapBcast => Sys2Proof.Machine.execSnapBcast s
  | .snapRelease => Sys2Proof.Machine.execSnapRelease s
  | .snapCancel => Sys2Proof.Machine.execSnapCancel s
  | .snpCntClr => Sys2Proof.Machine.execSnpCntClr s
  | .snapInEdge rising => Sys2Proof.Machine.execSnapInEdge rising s
  | .snapshotLatch => Sys2Proof.Machine.execSnapshotLatch s
  | .snapOutEnd => Sys2Proof.Machine.execSnapOutEnd s
  | .powerEstimate w => Sys2Proof.Machine.execPowerEstimate w s
  | .avsCurrentRead cur => Sys2Proof.Machine.execAvsCurrentRead cur s
  | .avsAlert status => Sys2Proof.Machine.execAvsAlert status s
  | .avsRetry ok => Sys2Proof.Machine.execAvsRetry ok s
  | .thermalSample dies oasis => Sys2Proof.Machine.execThermalSample dies oasis s
  | .dieNightEnter d => Sys2Proof.Machine.execDieNightEnter d s
  | .dieWake d => Sys2Proof.Machine.execDieWake d s
  | .dieWakeComplete d => Sys2Proof.Machine.execDieWakeComplete d s
  | .pwrPeakClear v => Sys2Proof.Machine.execPwrPeakClear v s
  | .oasCntClr v => Sys2Proof.Machine.execOasCntClr v s
  | .powerOnReset asserted strap => Sys2Proof.Machine.execPowerOnReset asserted strap s
  | .hostReset cause => Sys2Proof.Machine.execHostReset cause s
  | .warmReset v => Sys2Proof.Machine.execWarmReset v s
  | .dieReset v => Sys2Proof.Machine.execDieReset v s
  | .jtagBypass => Sys2Proof.Machine.execJtagBypass s
  | .jtagIdcode => Sys2Proof.Machine.execJtagIdcode s
  | .jtagSamplePreload cells => Sys2Proof.Machine.execJtagSamplePreload cells s
  | .jtagExtest cells => Sys2Proof.Machine.execJtagExtest cells s
  | .jtagHighz => Sys2Proof.Machine.execJtagHighz s
  | .jtagClamp => Sys2Proof.Machine.execJtagClamp s
  | .jtagExtestPulse => Sys2Proof.Machine.execJtagExtestPulse s
  | .jtagExtestTrain => Sys2Proof.Machine.execJtagExtestTrain s
  | .pcieLinkDown => Sys2Proof.Machine.execPcieLinkDown s
  | .atsInvalidation fn page => Sys2Proof.Machine.execAtsInvalidation fn page s
  | .slewComplete => Sys2Proof.Machine.execSlewComplete s

end Sys2Proof.Machine
end

