-- ==== Sys2Proof/Safety.lean ====
section
/-!
DEFINITION. What counts as a safe run, and the vocabulary of the statements: the invariant that every step keeps, and
frames, which say what a command leaves unchanged.
-/

namespace Sys2Proof.Machine

/-- The form that every state of a run keeps: memory and the register file are in their one canonical form, so that
equal contents are equal data. -/
def State.Inv (s : State) : Prop := Memory.wf s.mem = true ∧ AMap.wf regReset s.regs = true

/-- A step is safe when it neither faults nor is refused: on this part no command stops the machine (R447). -/
def SafeStep (s : State) : Prop := ∃ t, step s = .next t

/-- Every register outside the list reads as before. -/
def SameRegs (l : List Nat) (s t : State) : Prop := ∀ a, a ∉ l → t.reg a = s.reg a
/-- Every byte outside `n` bytes at `a` reads as before. -/
def SameBytes (a n : Nat) (s t : State) : Prop := ∀ k, k < a ∨ a + n ≤ k → t.byte k = s.byte k
/-- Every bit of a register outside a list of bits is as before. -/
def SameBits (a : Nat) (l : List Nat) (s t : State) : Prop := ∀ i, i ∉ l → t.rbit a i = s.rbit a i
/-- No interrupt vector that was raised is lost. -/
def KeepsVectors (s t : State) : Prop := ∀ v, v ∈ s.host.vectors → v ∈ t.host.vectors

/-- Nothing but registers of the list differs. -/
def OnlyRegs (l : List Nat) (s t : State) : Prop := SameRegs l s t ∧ t = { s with regs := t.regs }
/-- Nothing but registers of the list differs, and vectors may have been raised. -/
def OnlyRegsIrq (l : List Nat) (s t : State) : Prop :=
  SameRegs l s t ∧ KeepsVectors s t ∧
  t = { s with regs := t.regs, host := { s.host with vectors := t.host.vectors } }
/-- Nothing but the answer to the sender differs. -/
def OnlyAnswer (s t : State) : Prop := t = { s with resp := t.resp }

/-- Core n as an instruction finds it. -/
def State.hart (s : State) (n : Nat) : Hart := ⟨s, n, s.core n⟩
/-- Core n may execute the instruction word w of a kind: the part runs, the core holds an invocation, does not wait and is
inside its watchdog limit, and w stands at its pc. -/
def State.coreAt (s : State) (n : Nat) (k : NmdKind) (w : Nat) : Prop :=
  s.halted = false ∧ s.watchdog n = false ∧ s.hartAt n k = some (s.hart n, w)
/-- The registers that a retired instruction counts in. -/
def retireRegs (n : Nat) : List Nat :=
  [Reg.NMD_PC_LO n, Reg.NMD_PC_LO n + 4, Reg.NMD_BUSY_LO n, Reg.NMD_BUSY_LO n + 4, Reg.NMD_INSTRET_LO n, Reg.NMD_INSTRET_LO n + 4]
/-- Core n has retired one instruction and goes on at `pc` with the registers of `c`; its invocation differs only in its
counts, and outside the core only its counting registers, the registers of `l`, the cluster's barriers and queues and
the draws of free values may differ. -/
def RetiredAt (s t : State) (n : Nat) (pc : Dword) (c : Core) (l : List Nat) : Prop :=
  (∃ k, t.core n = { c with
    pc := pc
    wait := none
    inv := c.inv.map (fun v => { v with
      instret := v.instret + 1
      cycles := k }) }) ∧
  t.pair (Reg.NMD_PC_LO n) = c.pc.toNat ∧ t.pair (Reg.NMD_INSTRET_LO n) = (s.pair (Reg.NMD_INSTRET_LO n) + 1) % 2 ^ 64 ∧
  (∀ k, k ≠ n → t.core k = s.core k) ∧ SameRegs (retireRegs n ++ l) s t ∧
  t = { s with
    regs := t.regs
    cores := t.cores
    objs := t.objs
    freeCtr := t.freeCtr }
/-- Core n has retired one instruction of 32 bits and goes on at the next. -/
def Retired (s t : State) (n : Nat) (c : Core) : Prop := RetiredAt s t n (c.pc + 4) c []
/-- Core n stops at its instruction and waits; nothing else differs but the cluster's barriers and queues. -/
def Waits (s t : State) (n : Nat) (w : CoreWait) : Prop :=
  t.core n = { s.core n with wait := some w } ∧ t.fld (Reg.NMD_STATUS n) 0 3 = 5 ∧ (∀ k, k ≠ n → t.core k = s.core k) ∧
  SameRegs [Reg.NMD_STATUS n] s t ∧ t = { s with
    regs := t.regs
    cores := t.cores
    objs := t.objs }
/-- Core n has faulted with a cause and an address: the cores of its node stop, its fault registers tell, its interrupt is
raised, and the step of stream h that waited for it stops with FAULTED among its conditions. No byte of memory differs. -/
def Faulted (s t : State) (n h cause addr : Nat) (r : StepRun) : Prop :=
  t.rn (Reg.NMD_FCAUSE n) = cause ∧ t.pair (Reg.NMD_FADDR_LO n) = addr % 2 ^ 64 ∧ t.rbit (Reg.NMD_INT_STATUS n) 0 = true ∧
  t.rn (Reg.NMD_FAULTS n) = min (s.rn (Reg.NMD_FAULTS n) + 1) 0xFFFFFFFF ∧
  (∀ k ∈ coresOf (n / 4), ∀ v, (s.core k).inv = some v → s.sidOf v.handle = some h → (t.core k).inv = none) ∧
  (t.strm h).step = some { r with
    status := 6 :: r.status
    stop := true
    wait := .done
    node := r.node + 1
    sent := false } ∧ t.mem = s.mem

/-- A command of core n faults it with a cause and an address, whatever else the part does; then the steps that wait for
cores of its cluster are given those that are free, which changes nothing where none waits. -/
def FaultsTo (i : Instr) (s : State) (n h cause addr : Nat) (r : StepRun) : Prop :=
  ∃ u : State, exec i s = .next (u.coresFreed (n / 4)) ∧ Faulted s u n h cause addr r ∧
    ((∀ k x, k ≠ h → (s.strm k).step = some x → x.wait ≠ .kernel ∨ x.sent = true) → u.coresFreed (n / 4) = u)

/-- Cistern engine e with item i off its queue and running, and waiting requesters let in. -/
def State.begun (s : State) (e : Nat) (i : WorkItem) (rest : List WorkItem) : State :=
  s.setCis e (Cistern.takeIn { s.cis e with
    queue := rest
    running := some { item := i } })
/-- A barrier after one more arrival. -/
def Barrier.arrived (b : Barrier) : Barrier :=
  if b.count + 1 = b.expect then { b with count := 0, gen := (b.gen + 1) % 2 ^ 32 } else { b with count := b.count + 1 }

/-- The COMMAND entry of a descriptor of ring q that ends with a status and a result (Table 17-5). -/
def cmdEntry (d : BitVec 512) (q st res : Nat) : CplEntry :=
  { result := BitVec.ofNat 64 res, cid := dCid d, sq := q, status := st, handle := dHandle d }

/-- A host command's turn has come and its descriptor is well formed. -/
def State.turn (s : State) (fn sq : Nat) (d : BitVec 512) (op : Nat) : Prop :=
  s.halted = false ∧ dOp d = op ∧ s.mayStart fn sq d = true ∧ descOk (s.fmt1 fn sq) d = true
/-- It names open stream h of its function, and nothing holds it back. -/
def State.ready (s : State) (fn sq : Nat) (d : BitVec 512) (op h : Nat) : Prop :=
  s.turn fn sq d op ∧ s.target fn d = some h ∧ (s.strm h).due = [] ∧ s.mustWait h d = false
/-- Nothing waits for pages or to be placed, and no load is in progress: what follows when a stream goes is nothing more. -/
def State.calm (s : State) : Prop :=
  s.load = none ∧ s.place.pend = [] ∧
  ∀ e ∈ s.streams, e.2.kv.need = [] ∧ e.2.import_ = none ∧ ∀ r, e.2.step = some r → r.wait ≠ .pages
/-- State u is s with its command started, stream h become x, and nothing else changed. -/
def OnlyStream (s u : State) (fn sq : Nat) (d : BitVec 512) (h : Nat) (x : Stream) : Prop :=
  u.strm h = x ∧ (∀ k, k ≠ h → u.strm k = s.strm k) ∧ u = { s.startCmd fn sq d with streams := u.streams }

/-- The granules that `n` bytes at `a` touch hold no error and are not known bad. -/
def State.sound (s : State) (a n : Nat) : Prop :=
  ∀ g ∈ granulesOf a n, s.faulty g = [] ∧ s.listed g = false ∧ ∀ w ∈ granWords g, s.badBits w = []
/-- The bytes of pieces, given by address and length, in order. -/
def State.runBytes (s : State) (l : List (Nat × Nat)) : List Byte := l.flatMap (fun p => s.bytes p.1 p.2)
/-- Every byte outside the pieces reads as before. -/
def SameOutside (l : List (Nat × Nat)) (s t : State) : Prop :=
  ∀ k, (∀ p ∈ l, k < p.1 ∨ p.1 + p.2 ≤ k) → t.byte k = s.byte k
/-- The pieces lie each in one range of device memory, in cells that hold no error. -/
def State.soundRuns (s : State) (l : List (Nat × Nat)) : Prop :=
  ∀ p ∈ l, p.2 ≠ 0 → inOnePlace p.1 p.2 = true ∧ placeOf p.1 ≠ .regs ∧ placeOf p.1 ≠ .host ∧ s.sound p.1 p.2
/-- No two pieces share a byte. -/
def Apart (l : List (Nat × Nat)) : Prop := l.Pairwise (fun p q => p.1 + p.2 ≤ q.1 ∨ q.1 + q.2 ≤ p.1)
/-- No sequence whose page list the transfer walks has a page in the swap pool (R195). -/
def State.noSwap (s : State) (x : Xfer) : Prop :=
  x.src = .part ∨ x.src = .placement → ∀ h, s.sidOf x.handle = some h → s.swappedEntries h = []
/-- No sequence holds a block with a record, so that no detection takes one out of the index (R247). -/
def State.noRecords (s : State) : Prop := ∀ e ∈ s.streams, e.2.kv.recs = []
/-- Where the next record of ring r is written. -/
def State.ringSlot (s : State) (r : RingId) : Nat :=
  s.pair (ringRegs r).base + s.rn (ringRegs r).head % 2 ^ s.ringLog r * (ringRegs r).recBytes
/-- Record b has come to a record ring: while the ring takes records HEAD advances, and the record lies at the slot of the
old HEAD where the slot lies in memory whose cells hold no error, no other byte differing; otherwise the record is dropped
and counted. -/
def Recorded (r : RingId) (b : List Byte) (s t : State) : Prop :=
  (s.ringTakes r = true → t.rn (ringRegs r).head = (s.rn (ringRegs r).head + 1) % 2 ^ 32 ∧
    (inOnePlace (s.ringSlot r) b.length = true → placeOf (s.ringSlot r) ≠ .regs → s.sound (s.ringSlot r) b.length →
      t.bytes (s.ringSlot r) b.length = b ∧ SameBytes (s.ringSlot r) b.length s t)) ∧
  (s.ringTakes r = false → t.mem = s.mem ∧ t.rn (ringRegs r).drop = min (s.rn (ringRegs r).drop + 1) 0xFFFFFFFF ∧
    t.rbit (ringRegs r).int (ringRegs r).dropBit = true)
/-- The image b of load l has been read whole and lies in the staging area; w is the state then (R64, R71). -/
def State.copied (s : State) (l : Load) (b : List Byte) (w : State) : Prop :=
  s.load = some l ∧ s.splState = 2 ∧ ∃ u, s.readImage l l.len = (0, b, u) ∧
    (l.addr = stagingBase → w = u) ∧
    (l.addr ≠ stagingBase → ∃ r, (u.writeData u.oasisReader stagingBase b).readData u.oasisReader stagingBase l.len = r ∧
      r.zeroed = 0 ∧ r.st = w)
/-- A channel that has returned to RIPPLE. -/
def State.rippled (s : State) (c : Channel) : Channel :=
  { c.cleared with
    st := .ripple
    hold := s.fld (Reg.RPL_Gg_TIMING c.group) 16 8
    crest := none }
/-- Channel ch has become c, and no other channel differs. -/
def OnlyChan (s t : State) (ch : Nat) (c : Channel) : Prop := t.chan ch = c ∧ ∀ k, k ≠ ch → t.chan k = s.chan k
/-- The registers that show whether a cluster's units are gated. -/
def gateRegs (cl : Nat) : List Nat :=
  [Reg.ME_STATUS cl 0, Reg.ME_STATUS cl 1, Reg.VEC_STATUS cl, Reg.DRF_STATUS cl, Reg.SMP_STATUS cl, Reg.CAR_STATUS cl,
    Reg.CRN_STATUS cl] ++ (coresOf cl).map Reg.NMD_STATUS
/-- An aging tick at which no region is gated has gone by: the items are l, and only the placement engine's counters, its
idle counts and interrupts differ. -/
def Aged (s t : State) (l : List Item) : Prop :=
  t.place.items = l ∧ t.place.agingTicks = s.place.agingTicks + 1 ∧ t.place.pend = s.place.pend ∧
  SameRegs [Reg.PLC_AGED, Reg.PLC_URGENT, Reg.PLC_URGENT_MISS, Reg.PLC_INT_STATUS] s t ∧ KeepsVectors s t ∧
  t = { s with
    regs := t.regs
    place := t.place
    host := { s.host with vectors := t.host.vectors } }

/-- The eight counts of function fn differ only in quantity q of a class, which has grown by n. -/
def Billed (s t : State) (fn q : Nat) (deg : Bool) (n : Nat) : Prop :=
  (∀ i < 8, (t.meterCnt fn).toList.getD i 0 =
    if i = 2 * q + b2n deg then ((s.meterCnt fn).toList.getD i 0 + n) % 2 ^ 64 else (s.meterCnt fn).toList.getD i 0) ∧
  ∀ f, f ≠ fn → t.meterCnt f = s.meterCnt f
/-- The entries of the counts that are not zero, in function order. -/
def State.entries (s : State) : List Byte :=
  (((List.range 64).filter (fun f => !(s.meterCnt f).isZero)).map (fun f => meterEntry f (s.meterCnt f))).flatten
/-- The island, whose meter stood at m, has ended a period with a record of a type: the record follows Table 20-3, is
chained to the one before and signed, and lies last in the ring; the next period opens. Nothing else differs. -/
def PeriodEnded (s t : State) (m : Meter) (type : Nat) : Prop :=
  ∃ body r, r.bytes = body ++ edSign m.seed (sha512 body) ∧ r.seq = m.nextSeq ∧ r.ofs = m.head ∧
    slice body 0 8 = ascii "SGLASREC" ∧ slice body 12 1 = leBytes 1 type ∧
    slice body 13 1 = leBytes 1 (meterFlags m t.meter.diverged) ∧ slice body 16 8 = leBytes 8 m.nextSeq ∧
    slice body 24 8 = leBytes 8 m.tStart ∧ slice body 32 8 = leBytes 8 m.time ∧ slice body 40 8 = leBytes 8 s.tb.toNat ∧
    (m.idRecord.length = 192 → m.prev.length = 64 → slice body 54 2 = leBytes 2 (recordPeriod m.per) ∧
      slice body 64 64 = m.prev ∧ body.drop 128 = ({ s with meter := m } : State).entries) ∧
    t.meter.diverged = (decide (type ≠ 0) && divergedOf (m.drift s.tb)) ∧
    t = { s with meter := { m with
      counts := []
      nextSeq := m.nextSeq + 1
      tStart := m.time
      tbStart := s.tb
      diverged := t.meter.diverged
      divPpm := t.meter.divPpm
      prev := sha512 r.bytes
      ring := fitRing r.bytes.length m.ring ++ [r]
      head := (m.head + r.bytes.length) % 262144 } }

/-- Trigger x has been offered: nothing pending or held, it is the pending one; while a snapshot is held it is discarded;
of two targets the earlier is kept; a discard counts. Only the trigger's registers, numbers and messages differ. -/
def Offered (s u : State) (x : Trigger) : Prop :=
  (s.snap.held.isSome = true → u.snap.pending = s.snap.pending) ∧
  (s.snap.held = none → ∀ p, s.snap.pending = some p → p.t ≤ x.t → u.snap.pending = some p) ∧
  (s.snap.held = none → (∀ p, s.snap.pending = some p → x.t < p.t) → u.snap.pending = some x ∧ u.rbit Reg.SNP_STATUS 0 = true ∧
    u.fld Reg.SNP_STATUS 3 3 = x.source % 8 ∧ u.pair Reg.SNP_TB_LO = x.t % 2 ^ 64 ∧ u.rn Reg.SNP_NUM = x.num % 2 ^ 32) ∧
  u.rn Reg.SNP_MISSED = (if s.snap.held = none ∧ s.snap.pending = none then s.rn Reg.SNP_MISSED
    else min (s.rn Reg.SNP_MISSED + 1) 0xFFFFFFFF) ∧
  SameRegs [Reg.SNP_TB_LO, Reg.SNP_TB_LO + 4, Reg.SNP_NUM, Reg.SNP_STATUS, Reg.SNP_MISSED, Reg.SNP_INT_STATUS, Reg.SNP_NUM_NEXT] s u ∧
  KeepsVectors s u ∧ u.snap.held = s.snap.held ∧ u = { s with
    regs := u.regs
    snap := { s.snap with
      pending := u.snap.pending
      seen := u.snap.seen }
    fab := { s.fab with sent := u.fab.sent }
    host := { s.host with vectors := u.host.vectors } }
/-- A message has gone out on every port that is up. -/
def Flooded (s u : State) (m : FabMsg) : Prop :=
  u.fab.sent = (((List.range 16).filter s.portUp).map (fun n => (n, m))).reverse ++ s.fab.sent
/-- A trigger of this package with a target and source: it takes the next number, is flooded where `flood` says so, and is
offered. -/
def Triggered (s u : State) (at_ source : Nat) (flood : Bool) : Prop :=
  ∃ num, num = s.deviceId * 2 ^ 20 + s.fld Reg.SNP_NUM_NEXT 0 20 ∧
    u.rn Reg.SNP_NUM_NEXT = (s.deviceId * 2 ^ 20 + (s.fld Reg.SNP_NUM_NEXT 0 20 + 1) % 2 ^ 20) % 2 ^ 32 ∧
    u.snap.seen = num :: s.snap.seen ∧ (flood = true → Flooded s u (.snap at_ num)) ∧ (flood = false → u.fab = s.fab) ∧
    Offered s u { t := at_, num := num, source := source, late := decide (at_ < s.tb.toNat) }
/-- Report r has reached the package collector: it joins the first window it fits, or opens one. -/
def Gathered (s t : State) (r : ErrWin) : Prop :=
  ((∀ w ∈ s.errs.packageWins, w.fits r = false) →
    t.errs.packageWins = insertWin { r with members := [r.tb] } s.errs.packageWins) ∧
  (∀ l, joinPackage { r with members := [r.tb] } s.errs.packageWins = some l → t.errs.packageWins = l)

/-- Clocks, set point and state follow the power state of s: t has every awake die at the frequency and issue it may have,
the set point of the fastest, and the package state, with the counts of entering Dusk and Night. Nothing else differs. -/
def PowerFollows (s t : State) : Prop :=
  (∀ d, t.die d = if d < 4 ∧ (s.die d).night = false then { s.die d with
      freq := s.freqLimit d
      issue := min (16 - s.pwr.capIssue) (s.die d).thermIssue } else s.die d) ∧
  (∀ d < 4, t.fld (Reg.OAS_DIEd_CLK d) 0 12 = (if (s.die d).night then 0 else s.freqLimit d) ∧
    t.rbit (Reg.OAS_DIEd_CLK d) 16 = (s.capped d && !(s.die d).night) ∧
    t.rbit (Reg.OAS_DIEd_CLK d) 17 = (s.die d).throttling ∧ t.rbit (Reg.OAS_DIEd_CLK d) 18 = (s.die d).night) ∧
  (∀ f, f = (s.awakeDies.map s.freqLimit).foldl max 0 → t.fld Reg.PWR_VCORE 0 12 =
    if s.pwr.avsFault then s.fld Reg.PWR_VCORE 0 12 else if s.packageNight then 600
    else if f = 0 then s.fld Reg.PWR_VCORE 0 12 else s.setPoint f) ∧
  t.fld Reg.PWR_STATUS 0 2 = (if s.packageNight then 2 else if s.awakeDies.isEmpty then s.fld Reg.PWR_STATUS 0 2
    else if s.dusk then 1 else 0) ∧
  (∀ d < 4, t.rbit Reg.PWR_STATUS (4 + d) = s.dieAwake d) ∧ SameBits Reg.PWR_STATUS [0, 1, 4, 5, 6, 7] s t ∧
  t.rn Reg.PWR_CAP_EVENTS = (if t.fld Reg.PWR_STATUS 0 2 = 1 ∧ s.fld Reg.PWR_STATUS 0 2 ≠ 1
    then min (s.rn Reg.PWR_CAP_EVENTS + 1) 0xFFFFFFFF else s.rn Reg.PWR_CAP_EVENTS) ∧
  t.rn Reg.PWR_NIGHTS = (if t.fld Reg.PWR_STATUS 0 2 = 2 ∧ s.fld Reg.PWR_STATUS 0 2 ≠ 2
    then min (s.rn Reg.PWR_NIGHTS + 1) 0xFFFFFFFF else s.rn Reg.PWR_NIGHTS) ∧
  (s.fld Reg.PWR_STATUS 0 2 = 2 → t.fld Reg.PWR_STATUS 0 2 ≠ 2 → t.rbit Reg.PWR_INT_STATUS 4 = true) ∧
  SameRegs [Reg.OAS_DIEd_CLK 0, Reg.OAS_DIEd_CLK 1, Reg.OAS_DIEd_CLK 2, Reg.OAS_DIEd_CLK 3, Reg.PWR_VCORE, Reg.PWR_STATUS,
    Reg.PWR_INT_STATUS, Reg.PWR_CAP_EVENTS, Reg.PWR_NIGHTS, Reg.HQ_MGT_EVENTS] s t ∧ KeepsVectors s t ∧ t = { s with
      regs := t.regs
      pwr := { s.pwr with dies := t.pwr.dies }
      pins := { s.pins with alert := t.pins.alert }
      host := { s.host with vectors := t.host.vectors } }
/-- Nothing but the power state of die d, which is now x, and registers of a list differ. -/
def OnlyDie (l : List Nat) (s t : State) (d : Nat) (x : DiePower) : Prop :=
  t.die d = x ∧ (∀ k, k ≠ d → t.die k = s.die k) ∧ SameRegs l s t ∧ t = { s with
    regs := t.regs
    pwr := { s.pwr with dies := t.pwr.dies } }
/-- A record of class POWER with a code has reached the collectors. -/
def State.powerRecord (s : State) (code : Nat) : Prop :=
  ∃ w ∈ s.errs.packageWins ++ s.errs.regionWins, w.cls = 6 ∧ w.code = code
/-- The cistern engines of die d show a state, and those of channels that failed training show 3. -/
def CisternsShow (t : State) (d v : Nat) : Prop :=
  ∀ ch < 32, t.fld (Reg.CIS_STATUS (32 * d + ch)) 0 3 = if t.rbit (Reg.DMEM_CH_OK d) ch then v else 3
/-- The registers that show whether die d sleeps. -/
def nightRegs (d : Nat) : List Nat := Reg.DMEM_STATUS d :: (List.range 32).map (fun ch => Reg.CIS_STATUS (32 * d + ch))

/-- The part t is as after a cold reset of s with a cause: every register but the cause and the nonce reads its reset value,
and what is not the reset's stays: the host's and the cells' memory, the fuses, the island, the pins given. A slot being
programmed keeps an incomplete generation. -/
def Cold (s t : State) (cause : Nat) (pins : Pins) : Prop :=
  SameRegs (Reg.OAS_RESET_CAUSE :: (List.range 8).map Reg.SEC_NONCEi) State.reset t ∧ t.rn Reg.OAS_RESET_CAUSE = cause ∧
  (s.sec.prog = none → t.sec.slots = s.sec.slots) ∧
  (∀ p, s.sec.prog = some p → (∃ b, t.slot p.target = programSlot (s.slot p.target) p false b) ∧
    ∀ i, i ≠ p.target → t.slot i = s.slot i) ∧
  t = { State.reset with
    regs := t.regs
    mem := s.mem
    cond := s.cond
    meter := { s.meter with
      residues := []
      mirrorNext := 0 }
    sec := { s.sec with
      slots := t.sec.slots
      prog := none
      warmDue := false
      dieDue := 0 }
    pwr := { trim := s.pwr.trim }
    pins := pins
    resp := s.resp
    freeCtr := t.freeCtr
    pending := s.pending }

end Sys2Proof.Machine
end

