-- ==== Sys2Proof/Certificates/Slice0/Obligations.lean ====
section
/-!
DEFINITION. The statements of this package: what each command does, what it leaves, and what every step keeps.
-/

open Sys2Proof Sys2Proof.Machine

/-- For every command c and state s with c at the front of the queue, a step is exec of c on s with the queue's rest. On
an empty queue the part idles and the timebase counts one nanosecond, unless the part is halted (the idle step is
the model's choice, log 13). -/
def Obligations.StepRunsFrontCommand : Prop :=
  (∀ (c : Instr) (rest : List Instr) (s : State), s.pending = c :: rest → step s = exec c { s with pending := rest }) ∧
  (∀ s : State, s.pending = [] → step s = .next { s with tb := if s.halted then s.tb else s.tb + 1 })

/-- Right after a cold reset the timebase is 0, nothing waits, no tick plane is enabled, no stream is open, the loader
is TRAINING, no memory is written, every register reads the reset value of its table, owner slots are EMPTY and the
part is not halted. Registers whose tables give no reset value read 0, the model's choice of log 2. -/
def Obligations.ResetState : Prop :=
  State.reset.tb = 0 ∧ State.reset.pending = [] ∧ (∀ p, State.reset.plane p = none) ∧
  (∀ h, (State.reset.strm h).st = .closed) ∧ State.reset.splState = 0 ∧ (∀ a, State.reset.byte a = 0) ∧
  (∀ a, State.reset.reg a = regReset a) ∧ (∀ i, 1 ≤ i → State.reset.slotState i = 0) ∧ State.reset.halted = false

/-- Memory and the register file of the reset state are in canonical form. -/
def Obligations.ResetMeetsInvariant : Prop :=
  State.reset.Inv

/-- From every state that meets the invariant, whatever command stands at the front of the queue, a step answers a next
state, and memory and the register file of that state are in canonical form: addresses strictly rising and no entry
equal to what an unlisted address reads as. -/
def Obligations.EveryStepKeepsInvariant : Prop :=
  ∀ s : State, s.Inv → ∃ t, step s = .next t ∧ t.Inv

/-- While THERMTRIP_N has stopped the clocks or POR_N is asserted, every step but a change of POR_N leaves the whole
state as it is: only the answer to the sender, the Sandglass island and the boundary chain may differ, and the part
stays halted. The timebase stands too. An invariant of every run from such a state, over every command of the table. -/
def Obligations.HaltedPartStandsStill : Prop :=
  ∀ s t : State, s.halted = true → (∀ b k rest, s.pending ≠ .powerOnReset b k :: rest) → step s = .next t →
    t.halted = true ∧ t = { s with
      pending := t.pending
      resp := t.resp
      meter := t.meter
      pins := { s.pins with
        jtag := t.pins.jtag
        mode := t.pins.mode
        cells := t.pins.cells } }

/-- Bytes stored inside one range of the address map over granules that hold no error read back as stored, with nothing
zeroed and no failure, and every byte outside the store is as before. A DRAM granule with one symbol in error reads
as it lies, is corrected and counts once in DMEM_CE. One that is uncorrectable or known bad is delivered as 64 zeros
and counts once in DMEM_UE_READ, and so is a granule of a cluster's store with an uncorrectable word, each such word
counting in DMEM_SRAM_UE. Data stored outside every range, or in register space, changes nothing, and a read outside
every range fails. Every store keeps memory's canonical form. Which cells fail is the model's own plain data (log
6). -/
def Obligations.StoredDataReadsBackAndBadGranulesReadZero : Prop :=
  (∀ (s : State) (loc a : Nat) (l : List Byte), l ≠ [] → inOnePlace a l.length = true → placeOf a ≠ .regs →
    s.sound a l.length → s.cond.hostFail = [] →
    (s.writeData loc a l).bytes a l.length = l ∧ SameBytes a l.length s (s.writeData loc a l) ∧
    (s.writeData loc a l).regs = s.regs ∧
    ∃ r, r = (s.writeData loc a l).readData loc a l.length ∧ r.bytes = l ∧ r.zeroed = 0 ∧ r.failed = false ∧
      r.st = s.writeData loc a l) ∧
  (∀ (s : State) (loc a d : Nat), a % 64 = 0 → placeOf a = .dram d → s.granWeak a = true →
    ∃ r, r = s.readData loc a 64 ∧ r.bytes = s.bytes a 64 ∧ r.zeroed = 0 ∧ r.failed = false ∧ r.st.faulty a = [] ∧
      r.st.pair (Reg.DMEM_CE_LO d) = (s.pair (Reg.DMEM_CE_LO d) + 1) % 2 ^ 64 ∧ r.st.mem = s.mem) ∧
  (∀ (s : State) (loc a d : Nat), a % 64 = 0 → placeOf a = .dram d → s.granBad a = true →
    ∃ r, r = s.readData loc a 64 ∧ r.bytes = List.replicate 64 0 ∧ r.zeroed = 1 ∧ r.failed = false ∧
      r.st.pair (Reg.DMEM_UE_READ_LO d) = (s.pair (Reg.DMEM_UE_READ_LO d) + 1) % 2 ^ 64 ∧
      (s.noRecords → r.st.mem = s.mem)) ∧
  (∀ (s : State) (loc a i : Nat), a % 64 = 0 → placeOf a = .cluster i → s.badWords a ≠ [] →
    ∃ r, r = s.readData loc a 64 ∧ r.bytes = List.replicate 64 0 ∧ r.zeroed = 1 ∧ r.failed = false ∧
      r.st.rn (Reg.DMEM_SRAM_UE (i / 24)) = min (s.rn (Reg.DMEM_SRAM_UE (i / 24)) + (s.badWords a).length) 0xFFFFFFFF ∧
      r.st.mem = s.mem) ∧
  (∀ (s : State) (loc a : Nat) (l : List Byte), inOnePlace a l.length = false ∨ placeOf a = .regs → s.writeData loc a l = s) ∧
  (∀ (s : State) (loc a n : Nat), n ≠ 0 → inOnePlace a n = false → (s.readData loc a n).failed = true ∧ (s.readData loc a n).st = s) ∧
  (∀ (s : State) (loc a : Nat) (l : List Byte), Memory.wf s.mem = true → Memory.wf (s.writeData loc a l).mem = true)

/-- A REGISTER_WRITE over a SLOW link is answered with an abort, and one that is not an aligned word of its space has no
effect. In the blocks PLC, STRM, SPL and SEC, apart from the registers whose writes are commands of their own, a
write replaces the writable bits of an RW register, clears the W1C bits written 1, and does nothing to any other
register or to reserved space; nothing else changes. -/
def Obligations.RegisterWriteActsByAccess : Prop :=
  ∀ (s : State) (v : Word), s.halted = false →
    (∀ sp o, s.slowLink = true → exec (.registerWrite sp o v) s = .next { s with resp := { bytes := [], abort := true } }) ∧
    (∀ sp o, s.slowLink = false → sp.word o = false → exec (.registerWrite sp o v) s = .next { s with resp := {} }) ∧
    (∀ o, s.slowLink = false → o % 4 = 0 →
      ((0x100000 ≤ o ∧ o < 0x180000 ∧ o ≠ Reg.PLC_CNT_CLR) ∨ (0x190000 ≤ o ∧ o < 0x200000 ∧ o ≠ Reg.STRM_CNT_CLR) ∨
        (0x300000 ≤ o ∧ o < 0x400000 ∧ o ≠ Reg.SPL_CTRL) ∨
        (0x400000 ≤ o ∧ o < 0x500000 ∧ o ≠ Reg.SEC_CTRL ∧ o ≠ Reg.SEC_CNT_CLR)) →
      ∃ t, exec (.registerWrite .bar0 o v) s = .next t ∧ t.resp = {} ∧ SameRegs [o] s t ∧
        t = { s with
          regs := t.regs
          resp := t.resp } ∧
        (∀ r, bar0Row o = some r → r.acc = .rw ∨ r.acc = .rs → t.reg o = v &&& BitVec.ofNat 32 r.rw) ∧
        (∀ r, bar0Row o = some r → r.acc = .w1c → t.reg o = s.reg o &&& ~~~(v &&& BitVec.ofNat 32 r.w1c)) ∧
        ((∀ r, bar0Row o = some r → r.acc = .ro ∨ r.acc = .wo ∨ r.acc = .ros ∨ r.acc = .act) → t.reg o = s.reg o))

/-- A REGISTER_WRITE of TCK_CTRL, TCK_PPS_EPOCH, TCK_MISS_TAIL, SPL_CTRL, ERR_TAIL, MMR_CTRL, OAS_RESET, HQ_CNT_CLR or a
doorbell has exactly the effect of the command that stands for it, and answers nothing. -/
def Obligations.RegisterWriteRunsItsCommand : Prop :=
  ∀ (s : State) (v : Word), s.halted = false → s.slowLink = false →
    ∀ p ∈ ([(.bar0, Reg.TCK_CTRL, .tbLoad v), (.bar0, Reg.TCK_PPS_EPOCH_LO, .ppsEpochWrite false v),
        (.bar0, Reg.TCK_PPS_EPOCH_HI, .ppsEpochWrite true v), (.bar0, Reg.TCK_MISS_TAIL, .ringTailWrite .miss v),
        (.bar0, Reg.SPL_CTRL, .splGo v), (.bar0, Reg.ERR_TAIL, .errTailWrite v), (.bar0, Reg.MMR_CTRL, .mmrCntClr v),
        (.bar0, Reg.OAS_RESET, .warmReset v), (.bar0, Reg.HQ_CNT_CLR, .hqCntClr v),
        (.bar2 0, 0x000, .sqDoorbell 0 0 v), (.bar2 5, 0x1F8, .sqDoorbell 5 63 v),
        (.bar2 0, 0x004, .cqDoorbell 0 0 v), (.bar2 63, 0x1FC, .cqDoorbell 63 63 v)] : List (Space × Nat × Instr)),
      ∃ t, exec p.2.2 s = .next t ∧ exec (.registerWrite p.1 p.2.1 v) s = .next (t.answer [])

/-- A BAR0 access that is not exactly one aligned 32-bit word completes successfully, over a link that is not SLOW: a
write is discarded, a read returns zero in every byte requested, and nothing of the part changes. -/
def Obligations.MisalignedAccessHasNoEffect : Prop :=
  ∀ (s : State) (w : Bool) (off len : Nat), s.halted = false → s.slowLink = false → ¬(len = 4 ∧ off % 4 = 0) →
    ∃ t, exec (.bar0MisalignedAccess w off len) s = .next t ∧ OnlyAnswer s t ∧ t.resp.abort = false ∧
      t.resp.bytes = if w then [] else List.replicate len 0

/-- A read of the low word of a 64-bit pair answers it and latches the high word. Whatever happens to the pair in
between, the next read of the high word by the same function answers the word latched, and releases the shadow. A
read of a high word with nothing latched answers the live word. -/
def Obligations.PairReadIsAtomic : Prop :=
  (∀ (s : State) (sp : Space) (o : Nat), s.halted = false → s.slowLink = false → sp.word o = true →
    isLow (sp.key o) = true →
    ∃ t, exec (.lowWordRead sp o) s = .next t ∧ t.resp.bytes = leBytes 4 (s.readReg (sp.key o)).1.toNat ∧
      t.resp.abort = false ∧
      ∀ u : State, u.halted = false → u.slowLink = false → sp.word (o + 4) = true → isLow (sp.key (o + 4)) = false →
        u.shadowOf (sp.key (o + 4)) = t.shadowOf (sp.key o + 4) →
        ∃ w, exec (.lowWordRead sp (o + 4)) u = .next w ∧ w.shadowOf (sp.key (o + 4)) = none ∧
          w.resp.bytes = leBytes 4 ((s.readReg (sp.key o)).2.readReg (sp.key o + 4)).1.toNat) ∧
  (∀ (s : State) (sp : Space) (o : Nat), s.halted = false → s.slowLink = false → sp.word o = true →
    isLow (sp.key o) = false → s.shadowOf (sp.key o) = none →
    ∃ t, exec (.lowWordRead sp o) s = .next t ∧ t.resp.bytes = leBytes 4 (s.readReg (sp.key o)).1.toNat)

/-- A write of either word of TCK_PPS_EPOCH stores it and arms the epoch (which write arms it is the model's choice, log
33). The PPS edge that TCK_CTRL.PPS_EDGE does not select has no effect. The other writes the timebase into
TCK_PPS_LAST, sets PPS_PRESENT and clears EPOCH_ARMED. With another source than PPS, or with no epoch armed and no
earlier edge compared, nothing else changes. With SRC 1 it is compared with the armed value, or with the value
carried forward: TCK_OFFSET takes the saturated difference, and the next edge is expected 1,000,000,000 ns after the
value. A timebase that lags is stepped forward to the value while no plane is enabled; any other difference is
slewed. No other register changes. -/
def Obligations.PpsEdgeAndEpoch : Prop :=
  ∀ s : State, s.halted = false →
    (∀ hi v, ∃ t, exec (.ppsEpochWrite hi v) s = .next t ∧
      t.reg (if hi then Reg.TCK_PPS_EPOCH_HI else Reg.TCK_PPS_EPOCH_LO) = v ∧ t.rbit Reg.TCK_STATUS 14 = true ∧
      SameBits Reg.TCK_STATUS [14] s t ∧
      OnlyRegs [if hi then Reg.TCK_PPS_EPOCH_HI else Reg.TCK_PPS_EPOCH_LO, Reg.TCK_STATUS] s t) ∧
    (∀ r, s.rbit Reg.TCK_CTRL 8 = r → exec (.ppsEdge r) s = .next s) ∧
    (∀ r, s.rbit Reg.TCK_CTRL 8 = !r → ∃ t, exec (.ppsEdge r) s = .next t ∧
      t.pair Reg.TCK_PPS_LAST_LO = s.tb.toNat ∧ t.rbit Reg.TCK_STATUS 13 = true ∧ t.rbit Reg.TCK_STATUS 14 = false ∧
      (s.tckSrc ≠ 1 ∨ (s.rbit Reg.TCK_STATUS 14 = false ∧ s.tck.expected = none) →
        SameBits Reg.TCK_STATUS [13, 14] s t ∧
        OnlyRegs [Reg.TCK_PPS_LAST_LO, Reg.TCK_PPS_LAST_LO + 4, Reg.TCK_STATUS] s t) ∧
      (∀ e, s.tckSrc = 1 → (if s.rbit Reg.TCK_STATUS 14 then some (BitVec.ofNat 64 (s.pair Reg.TCK_PPS_EPOCH_LO))
          else s.tck.expected) = some e →
        t.reg Reg.TCK_OFFSET = satOffset ((s.tb.toNat : Int) - e.toNat) ∧
        t.tck.expected = some (e + 1000000000#64) ∧ t.tck.planes = s.tck.planes ∧
        (s.anyPlane = false → s.tb.toNat < e.toNat → t.tb = e ∧ t.tck.slew = s.tck.slew) ∧
        (s.anyPlane = true ∨ e.toNat ≤ s.tb.toNat → t.tb = s.tb) ∧
        (s.anyPlane = true ∨ e.toNat < s.tb.toNat → s.tb ≠ e →
          t.tck.slew = (e.toNat : Int) - s.tb.toNat ∧ t.rbit Reg.TCK_STATUS 4 = true) ∧
        SameBits Reg.TCK_STATUS [2, 4, 13, 14] s t ∧
        SameRegs [Reg.TCK_PPS_LAST_LO, Reg.TCK_PPS_LAST_LO + 4, Reg.TCK_STATUS, Reg.TCK_OFFSET, Reg.TCK_INT_STATUS] s t ∧
        KeepsVectors s t ∧ t = { s with
          regs := t.regs
          tb := t.tb
          tck := t.tck
          host := { s.host with vectors := t.host.vectors } }))

/-- When holdover ends, TCK_OFFSET takes the accumulated offset and holdover's bit falls. A timebase that lags is
stepped forward at once while no plane is enabled; any other offset leaves the timebase and is slewed, with SLEWING
set. SLEW_COMPLETE ends slewing: the timebase has come on by the time that the rate of TCK_SLEW takes to absorb the
offset, and by the offset. Where the part is not in holdover, or not slewing, the commands have no effect, and at a
rate of 0 a slew never ends (DEDUCED, log 33). Losing the selected source sets HOLDOVER, clears LOCKED and raises
HOLDOVER_ENTER once; losing another only clears its presence bit. -/
def Obligations.OffsetsAreSteppedForwardOrSlewed : Prop :=
  ∀ s : State, s.halted = false →
    (∀ off, s.rbit Reg.TCK_STATUS 3 = false → exec (.holdoverExit off) s = .next s) ∧
    (∀ off, s.rbit Reg.TCK_STATUS 3 = true → ∃ t, exec (.holdoverExit off) s = .next t ∧
      t.rbit Reg.TCK_STATUS 3 = false ∧ t.reg Reg.TCK_OFFSET = satOffset off ∧
      (s.anyPlane = false → off < 0 → t.tb = s.tb + BitVec.ofNat 64 off.natAbs ∧ t.tck = s.tck) ∧
      (off ≠ 0 → s.anyPlane = true ∨ 0 < off → t.tb = s.tb ∧ t.tck = { s.tck with slew := -off } ∧
        t.rbit Reg.TCK_STATUS 4 = true) ∧
      (off = 0 → t.tb = s.tb ∧ t.tck = s.tck) ∧
      SameRegs [Reg.TCK_STATUS, Reg.TCK_OFFSET, Reg.TCK_INT_STATUS] s t ∧ KeepsVectors s t ∧ t = { s with
        regs := t.regs
        tb := t.tb
        tck := t.tck
        host := { s.host with vectors := t.host.vectors } }) ∧
    (s.rbit Reg.TCK_STATUS 4 = false → exec .slewComplete s = .next s) ∧
    (s.slewLimit = 0 → s.tck.slew ≠ 0 → exec .slewComplete s = .next s) ∧
    (s.rbit Reg.TCK_STATUS 4 = true → s.slewLimit ≠ 0 ∨ s.tck.slew = 0 →
      ∃ t k, exec .slewComplete s = .next t ∧ t.tck = { s.tck with slew := 0 } ∧
      s.tck.slew.natAbs * 1000000 ≤ k * s.slewLimit ∧ (k ≠ 0 → (k - 1) * s.slewLimit < s.tck.slew.natAbs * 1000000) ∧
      t.tb = s.tb + BitVec.ofInt 64 (k + s.tck.slew) ∧ t.rbit Reg.TCK_STATUS 4 = false ∧ SameBits Reg.TCK_STATUS [4] s t ∧ SameRegs [Reg.TCK_STATUS] s t ∧
      t = { s with
        regs := t.regs
        tb := t.tb
        tck := t.tck }) ∧
    (∀ c, s.tckSrc = (match c with | .fabric => 2 | _ => 1) → s.rbit Reg.TCK_STATUS 3 = false →
      ∃ t, exec (.holdoverEnter c) s = .next t ∧ t.rbit Reg.TCK_STATUS 3 = true ∧ t.rbit Reg.TCK_STATUS 2 = false ∧
        t.rbit Reg.TCK_INT_STATUS 0 = true ∧ SameBits Reg.TCK_INT_STATUS [0] s t ∧
        SameBits Reg.TCK_STATUS [2, 3, 12, 13] s t ∧ OnlyRegsIrq [Reg.TCK_STATUS, Reg.TCK_INT_STATUS] s t) ∧
    (∀ c, s.tckSrc ≠ (match c with | .fabric => 2 | _ => 1) ∨ s.rbit Reg.TCK_STATUS 3 = true →
      ∃ t, exec (.holdoverEnter c) s = .next t ∧ SameBits Reg.TCK_STATUS [12, 13] s t ∧
        OnlyRegs [Reg.TCK_STATUS] s t)

/-- A write of TCK_CTRL with TB_LOAD set loads the timebase exactly as TCK_TB_SET says while no plane is enabled,
forward or backward, and raises nothing; while any plane is enabled the load is ignored, the timebase keeps its
value and TB_LOAD_ERR is raised. Without TB_LOAD the timebase keeps its value. The planes and a slew in progress
stay as they are. -/
def Obligations.TimebaseLoadsOnlyWithoutPlanes : Prop :=
  ∀ s : State, s.halted = false →
    (∀ v : Word, ∃ t, exec (.tbLoad v) s = .next t ∧
      t.rn Reg.TCK_CTRL = bitsAt v.toNat 0 2 + bitsAt v.toNat 8 1 * 256 ∧
      (bitAt v.toNat 4 = true → s.anyPlane = false → t.tb.toNat = s.pair Reg.TCK_TB_SET_LO ∧
        t.reg Reg.TCK_INT_STATUS = s.reg Reg.TCK_INT_STATUS) ∧
      (bitAt v.toNat 4 = true → s.anyPlane = true → t.tb = s.tb ∧ t.rbit Reg.TCK_INT_STATUS 5 = true ∧
        SameBits Reg.TCK_INT_STATUS [5] s t) ∧
      (bitAt v.toNat 4 = false → t.tb = s.tb ∧ t.reg Reg.TCK_INT_STATUS = s.reg Reg.TCK_INT_STATUS) ∧
      SameRegs [Reg.TCK_CTRL, Reg.TCK_STATUS, Reg.TCK_INT_STATUS] s t ∧ SameBits Reg.TCK_STATUS [0, 1, 2, 12] s t ∧
      KeepsVectors s t ∧ t.tck.planes = s.tck.planes ∧ t.tck.slew = s.tck.slew ∧ t = { s with
        regs := t.regs
        tb := t.tb
        tck := t.tck
        host := { s.host with vectors := t.host.vectors } })

/-- A grain tick of a plane that is not enabled has no effect. On an enabled plane it counts the tick, brings the
timebase to the tick's edge where it has not reached it, and places the next edge at floor(n × 10⁹ / f) with the
accumulator at the remainder, so that the rule holds of the next tick again; the plane runs from its first frame
tick on. Where no swapped-out stream waits for a frame tick, nothing else of the part changes but the loader's count
of drain ticks. -/
def Obligations.GrainTickKeepsTheEdgeRule : Prop :=
  ∀ (s : State) (p : Fin 4), s.halted = false →
    (s.plane p = none → exec (.grainTick p) s = .next s) ∧
    (∀ x : Plane, s.plane p = some x → 0 < x.f → x.next = x.n * 1000000000 / x.f → x.acc = x.n * 1000000000 % x.f →
      (x.n % x.g ≠ 0 ∨ ∀ e ∈ s.streams, e.2.st ≠ .swapped) →
      ∃ t y, exec (.grainTick p) s = .next t ∧ t.plane p = some y ∧ y.n = x.n + 1 ∧ y.f = x.f ∧ y.g = x.g ∧
        y.late = x.late ∧ y.given = x.given ∧ y.next = y.n * 1000000000 / y.f ∧ y.acc = y.n * 1000000000 % y.f ∧
        y.run = (x.run || x.n % x.g == 0) ∧ t.rbit Reg.TCK_STATUS (8 + p) = y.run ∧
        t.tb = (if s.tb.toNat < x.next then BitVec.ofNat 64 x.next else s.tb) ∧
        (∀ q, q ≠ p.val → t.plane q = s.plane q) ∧ SameRegs [Reg.TCK_STATUS] s t ∧
        SameBits Reg.TCK_STATUS [8 + p] s t ∧ t = { s with
          regs := t.regs
          tb := t.tb
          tck := t.tck
          load := t.load })

/-- A tick of a plane that is not enabled is delivered to nobody. Otherwise TBG_USED of the budget takes the cycles that
its work spent, TBG_PEAK the largest value of it, and the cluster is recorded as having the plane's count; then the
cluster's work goes on from exactly that state: at a grain tick every unit whose operation is not grain-bound has
yielded where a grain-bound step is ready. On a cluster with no stream and no waiting core nothing else changes.
Writing TBG_PEAK clears it and changes nothing else. -/
def Obligations.TickDeliveryShowsTheBudget : Prop :=
  (∀ (s : State) (cl : Fin 96) (p : Fin 4) (frame : Bool) (used : Nat), s.halted = false →
    (s.plane p = none → exec (.tickDelivery cl p frame used) s = .next s) ∧
    (∀ x : Plane, s.plane p = some x →
      ∃ u y, exec (.tickDelivery cl p frame used) s = .next (u.tickWork cl p frame) ∧
        u.rn (Reg.TBG_USED cl (2 * p + b2n frame)) = min used 0xFFFFFFFF ∧
        u.rn (Reg.TBG_PEAK cl (2 * p + b2n frame)) = max (s.rn (Reg.TBG_PEAK cl (2 * p + b2n frame))) (min used 0xFFFFFFFF) ∧
        u.plane p = some y ∧ AMap.read (fun _ => 0) y.given (2 * cl + b2n frame) = x.count frame ∧
        (∀ q, q ≠ p.val → u.plane q = s.plane q) ∧
        SameRegs [Reg.TBG_USED cl (2 * p + b2n frame), Reg.TBG_PEAK cl (2 * p + b2n frame)] s u ∧
        u = { s with
          regs := u.regs
          tck := u.tck } ∧
        ((∀ e ∈ s.streams, e.2.cluster ≠ some cl.val) → (∀ n ∈ coresOf cl, (s.core n).wait = none) →
          u.tickWork cl p frame = u))) ∧
  (∀ (s : State) (cl : Nat) (l : List Nat), l ⊆ [0, 1, 2] → l.Nodup →
    (∀ k o, AMap.read (fun _ => none) (s.wk cl).running k = some o → s.grainBound o.handle = true →
      AMap.read (fun _ => none) ((yieldAll cl s l).wk cl).running k = some o) ∧
    (∀ k ∈ l, ∀ o, AMap.read (fun _ => none) ((yieldAll cl s l).wk cl).running k = some o →
      s.grainBound o.handle = true)) ∧
  (∀ (s : State) (cl : Fin 96) (b : Fin 8), s.halted = false → ∃ t, exec (.tbgPeakClear cl b) s = .next t ∧
    t.reg (Reg.TBG_PEAK cl b) = 0 ∧ OnlyRegs [Reg.TBG_PEAK cl b] s t)

/-- A write of a record ring's TAIL is taken where it lies from HEAD minus the ring's size to HEAD, and ignored
otherwise. When a moderation interval ends, records written while it ran raise the ring's interrupt once and start
the next interval; with none the interval is over. The same holds of ERR_TAIL, which also ends the records before
it, and of the error interrupt. -/
def Obligations.RingTailsAndIntervals : Prop :=
  ∀ s : State, s.halted = false →
    (∀ r v, (s.reg (ringRegs r).head - v).toNat ≤ 2 ^ s.ringLog r → ∃ t, exec (.ringTailWrite r v) s = .next t ∧
      t.reg (ringRegs r).tail = v ∧ OnlyRegs [(ringRegs r).tail] s t) ∧
    (∀ r v, 2 ^ s.ringLog r < (s.reg (ringRegs r).head - v).toNat → exec (.ringTailWrite r v) s = .next s) ∧
    (∀ r, (∀ a, r ≠ .attend a) → ∃ t, exec (.eventModIntervalEnd r) s = .next t ∧
      ((s.mod (ringRegs r).key).running = true → (s.mod (ringRegs r).key).due = true →
        t.rbit (ringRegs r).int (ringRegs r).recBit = true ∧ t.mod (ringRegs r).key = { s.mod (ringRegs r).key with
          due := false
          since := t.tb.toNat } ∧ SameRegs [(ringRegs r).int] s t ∧ SameBits (ringRegs r).int [(ringRegs r).recBit] s t) ∧
      ((s.mod (ringRegs r).key).running = true → (s.mod (ringRegs r).key).due = false →
        t.mod (ringRegs r).key = {} ∧ t.regs = s.regs) ∧
      ((s.mod (ringRegs r).key).running = false → t = s) ∧
      (∀ k, k ≠ (ringRegs r).key → t.mod k = s.mod k) ∧ KeepsVectors s t ∧ t = { s with
        tb := if (s.mod (ringRegs r).key).running = true
          then (s.reach ((s.mod (ringRegs r).key).since + (s.mod (ringRegs r).key).span)).tb else s.tb
        regs := t.regs
        mods := t.mods
        host := { s.host with vectors := t.host.vectors } }) ∧
    (∀ a, exec (.eventModIntervalEnd (.attend a)) s = .next s) ∧
    (∀ v : Word, (v - s.reg Reg.ERR_TAIL).toNat ≤ s.errOpen → ∃ t, exec (.errTailWrite v) s = .next t ∧
      t.reg Reg.ERR_TAIL = v ∧ SameRegs [Reg.ERR_TAIL] s t ∧
      (∀ r ∈ t.errs.openRecs, r ∈ s.errs.openRecs ∧ (BitVec.ofNat 32 r.1 - v).toNat < (s.reg Reg.ERR_HEAD - v).toNat) ∧
      t = { s with
        regs := t.regs
        errs := { s.errs with openRecs := t.errs.openRecs } }) ∧
    (∀ v : Word, s.errOpen < (v - s.reg Reg.ERR_TAIL).toNat → exec (.errTailWrite v) s = .next s) ∧
    (∃ t, exec .errModIntervalEnd s = .next t ∧
      ((s.mod 2).running = true → (s.mod 2).due = true → t.rbit Reg.ERR_INT_STATUS 0 = true ∧ t.mod 2 = { s.mod 2 with
          due := false
          since := t.tb.toNat } ∧ SameRegs [Reg.ERR_INT_STATUS] s t) ∧
      ((s.mod 2).running = true → (s.mod 2).due = false → t.mod 2 = {} ∧ t.regs = s.regs) ∧
      ((s.mod 2).running = false → t = s) ∧ (∀ k, k ≠ 2 → t.mod k = s.mod k) ∧ KeepsVectors s t ∧ t = { s with
        tb := if (s.mod 2).running = true then (s.reach ((s.mod 2).since + (s.mod 2).span)).tb else s.tb
        regs := t.regs
        mods := t.mods
        host := { s.host with vectors := t.host.vectors } })

/-- A tick-bound stream that is to go on at the current tick first takes that tick's count. Where its step is then ready
at a tick that has reached its cluster, nothing goes first and it is within its lateness, the step starts: its
positions leave the queue, POS, the step count and the draw position advance, and the next step is bound to the next
tick. A stream that lags by more is brought to the current tick: the steps before it are skipped and counted, its
draw position moves on by their strides, and where positions remain the current tick's step starts in the same way.
Where a step of the cluster goes first, or the tick has not come, the command starts nothing, and a step without its
positions starves. -/
def Obligations.TickBoundStepsStart : Prop :=
  ∀ (s v : State) (h : Word) (g : Graph) (late cur : Nat), s.halted = false → v = s.fixTick h.toNat →
    v.graphOf (v.strm h.toNat).graph = some g → g.ticked = true →
    late = ((v.plane g.plane).map (fun p => p.late)).getD 4 → cur = v.tickCount g.plane g.frame →
    (s.fixTick h.toNat = { s with streams := v.streams } ∧ (∀ k, k ≠ h.toNat → v.strm k = s.strm k) ∧
      v.strm h.toNat = { s.strm h.toNat with
        atCurrent := (v.strm h.toNat).atCurrent
        nextTick := (v.strm h.toNat).nextTick } ∧
      ((s.strm h.toNat).atCurrent = false → v = s) ∧
      ((v.strm h.toNat).atCurrent = false → (s.strm h.toNat).atCurrent = true → (v.strm h.toNat).nextTick = cur)) ∧
    (v.mayStep h.toNat = false ∨ v.tickHere h.toNat = false → exec (.stepStart h) s = .next s) ∧
    (v.mayStep h.toNat = true → v.tickHere h.toNat = true → v.stepReady h.toNat = false →
      exec (.stepStart h) s = .next (v.checkStarve h.toNat)) ∧
    (v.mayStep h.toNat = true → v.tickHere h.toNat = true → v.stepReady h.toNat = true →
      v.streams.any (fun e => v.goesFirst h.toNat e.1) = true → exec (.stepStart h) s = .next s) ∧
    (v.mayStep h.toNat = true → v.tickHere h.toNat = true → v.stepReady h.toNat = true →
      v.streams.any (fun e => v.goesFirst h.toNat e.1) = false →
      (cur - (v.strm h.toNat).nextTick ≤ late →
        ∃ u : State, exec (.stepStart h) s = .next (u.continueStep h.toNat g) ∧
          ∃ r, (u.strm h.toNat).step = some r ∧ r.tick = (v.strm h.toNat).nextTick ∧ r.started = s.tb ∧
          r.p = (v.strm h.toNat).p ∧
          r.positions = segPositions (takePositions g.input 0 (v.strm h.toNat).markDue g.input.posStep (v.strm h.toNat).queue).segs ∧
          (u.strm h.toNat).pos = (v.strm h.toNat).pos + r.positions ∧ (u.strm h.toNat).steps = (v.strm h.toNat).steps + 1 ∧
          (u.strm h.toNat).p = ((v.strm h.toNat).p + g.stride) % 2 ^ 48 ∧
          (u.strm h.toNat).nextTick = (v.strm h.toNat).nextTick + 1 ∧ (u.strm h.toNat).items = (v.strm h.toNat).items ∧
          (∀ k, k ≠ h.toNat → u.strm k = s.strm k) ∧ u = { s with streams := u.streams }) ∧
      (late < cur - (v.strm h.toNat).nextTick → ∃ w, w = (v.resync h.toNat g cur).fixTick h.toNat ∧
        (w.tickReady h.toNat = true → ∃ u : State, exec (.stepStart h) s = .next (u.continueStep h.toNat g) ∧
          ∃ r, (u.strm h.toNat).step = some r ∧ r.tick = (w.strm h.toNat).nextTick ∧ r.started = w.tb ∧
          r.p = (w.strm h.toNat).p ∧ (u.strm h.toNat).steps = (w.strm h.toNat).steps + 1 ∧ u = { w with streams := u.streams }) ∧
        (w.tickReady h.toNat = false → exec (.stepStart h) s = .next (w.checkStarve h.toNat))))

/-- A step whose nodes have not all run, or that has yielded, does not complete. The status of a step is the first of
its conditions in the order REJECTED, FAULTED, UNREACHABLE, CACHE_FULL, NO_ROOM, DEGRADED, LATE, EMPTY, and OK with
none. Any other step ends: its stream is left without a step, its end is at the timebase, the tick of a tick-bound
step is its last, and what waits for the end follows; one that is still to commit to pages swapped out since asks
for them first. A step of a stream with nothing behind it that delivers nothing leaves its stream with its state
items committed. -/
def Obligations.StepsCompleteWithTheFirstStatus : Prop :=
  (∀ (s : State) (h : Word) (n : Nat), s.halted = false →
    (∀ r, (s.strm h.toNat).step = some r → r.wait ≠ .done ∨ r.yielded = true → exec (.stepComplete h n) s = .next s) ∧
    ((s.strm h.toNat).step = none → exec (.stepComplete h n) s = .next s) ∧
    (∀ r g, (s.strm h.toNat).step = some r → s.graphOf (s.strm h.toNat).graph = some g → r.wait = .done → r.yielded = false →
      (s.strm h.toNat).kv.st ≠ .swapOut → (s.strm h.toNat).kv.st ≠ .restore →
      r.stop = true ∨ r.kvRows.getD 0 = 0 ∨ s.swappedEntries h.toNat = [] →
      ∃ u : State, exec (.stepComplete h n) s = .next (u.afterStep h.toNat r.ended) ∧ (u.strm h.toNat).step = none ∧
        (u.strm h.toNat).lastDone = s.tb ∧ (g.ticked = true → (u.strm h.toNat).lastTick = some r.tick))) ∧
  (∀ l : List Nat, (stepStatus l = 0 ↔ ∀ c ∈ ([8, 6, 5, 3, 4, 1, 2, 7] : List Nat), c ∉ l) ∧
    (8 ∈ l → stepStatus l = 8) ∧ (8 ∉ l → 6 ∈ l → stepStatus l = 6) ∧ (8 ∉ l → 6 ∉ l → 5 ∈ l → stepStatus l = 5) ∧
    (8 ∉ l → 6 ∉ l → 5 ∉ l → 3 ∈ l → stepStatus l = 3) ∧
    (l.all (fun c => c == 1 || c == 2 || c == 7) = true → 1 ∈ l → stepStatus l = 1) ∧
    (l.all (fun c => c == 2 || c == 7) = true → 2 ∈ l → stepStatus l = 2)) ∧
  (∀ (s : State) (h : Word) (n : Nat) (x : Stream) (r : StepRun) (g : Graph), s.halted = false →
    s.streams = [(h.toNat, x)] → s.place = {} → s.load = none → s.work = [] → s.host.strm = [] →
    s.graphOf x.graph = some g → g.ticked = false → g.kv = none → g.points = [] → 1 ≤ g.input.posStep →
    x.st = .active → x.queue = [] → x.due = [] → x.victim = false → x.kv = {} → x.sink = .none → x.source = none →
    x.import_ = none → x.step = some r → r.wait = .done → r.yielded = false → r.outputs = [] → r.stop = false →
    r.spent = [] → r.ended = false → r.zgrans = [] → stepStatus r.status ≠ 6 → r.zeroed = 0 →
    ∃ t, exec (.stepComplete h n) s = .next t ∧
      t.strm h.toNat = { x with
        step := none
        items := r.items
        lastDone := s.tb } ∧ t.mem = s.mem ∧ SameRegs [Reg.PLC_STATUS] s t)

/-- SPL_CTRL.GO with a load in progress, or before training, raises BUSY_ERR and starts nothing. Otherwise the loader
reads the image's first 128 bytes from where SPL_SRC and SRC_DEV say: with a sound header in readable memory it goes
to FETCH with the image's source, length, kind, mask and serial; with a bad header the load ends REJECTED with the
header's reason, with an unreadable host page, or bytes in no one range, FAULTED with reason 14, and with a device
granule that reads as zeros FAULTED with reason 15 (a device source in no range is the model's choice, log 7), and
the loader is in the state it was in. ABORT ends a drain with reason 13, and does nothing outside one. -/
def Obligations.LoadsStartAndAbort : Prop :=
  ∀ (s : State) (v : Word) (src a : Nat), s.halted = false → src = s.pair Reg.SPL_SRC_LO →
    a = (if bitAt v.toNat 2 then src else hostWindow + src) →
    (bitAt v.toNat 0 = true → bitAt v.toNat 3 = false → s.load.isSome = true ∨ s.splState = 0 →
      ∃ t, exec (.splGo v) s = .next t ∧ t.rbit Reg.SPL_INT_STATUS 1 = true ∧
        OnlyRegsIrq [Reg.SPL_CTRL, Reg.SPL_INT_STATUS] s t) ∧
    (bitAt v.toNat 0 = true → bitAt v.toNat 3 = false → s.load = none → s.splState ≠ 0 →
      ∃ t, exec (.splGo v) s = .next t ∧ t.structure_ = s.structure_ ∧ t.streams = s.streams ∧
        (inOnePlace a 128 = true → (hostWindow ≤ a → s.hostOk a 128 = true) → (a < hostWindow → s.sound a 128) →
          (headerReason (s.bytes a 128) (s.fld Reg.SPL_LEN 0 29) = 0 →
            t.splState = 2 ∧ t.mem = s.mem ∧ ∃ l, t.load = some l ∧ l.src = src ∧ l.dev = bitAt v.toNat 2 ∧
              l.len = s.fld Reg.SPL_LEN 0 29 ∧ l.before = s.splState ∧ l.pool = (le (s.bytes a 128) 12 4 == 1) ∧
              l.mask = le (s.bytes a 128) 40 4 ∧ l.serial.toNat = le (s.bytes a 128) 24 8) ∧
          (headerReason (s.bytes a 128) (s.fld Reg.SPL_LEN 0 29) ≠ 0 →
            t.load = none ∧ t.mem = s.mem ∧ t.splState = s.splState ∧ t.fld Reg.SPL_STATUS 28 4 = 8 ∧
            t.fld Reg.SPL_STATUS 16 8 = headerReason (s.bytes a 128) (s.fld Reg.SPL_LEN 0 29) % 256 ∧
            t.rbit Reg.SPL_INT_STATUS 0 = true)) ∧
        (inOnePlace a 128 = false ∨ (hostWindow ≤ a ∧ s.hostOk a 128 = false) →
          t.load = none ∧ t.mem = s.mem ∧ t.splState = s.splState ∧ t.fld Reg.SPL_STATUS 28 4 = 6 ∧
          t.fld Reg.SPL_STATUS 16 8 = 14 ∧ t.rbit Reg.SPL_INT_STATUS 0 = true) ∧
        (∀ d, inOnePlace a 128 = true → placeOf a = .dram d → (∃ g ∈ granulesOf a 128, s.granBad g = true) →
          t.load = none ∧ t.splState = s.splState ∧ t.fld Reg.SPL_STATUS 28 4 = 6 ∧
          t.fld Reg.SPL_STATUS 16 8 = 15 ∧ t.rbit Reg.SPL_INT_STATUS 0 = true)) ∧
    (∀ l, bitAt v.toNat 0 = false → bitAt v.toNat 3 = true → s.load = some l → s.splState = 4 → l.before < 8 →
      ∃ t, exec (.splAbort v) s = .next t ∧ t.load = none ∧ t.splState = l.before ∧ t.fld Reg.SPL_STATUS 28 4 = 8 ∧
        t.fld Reg.SPL_STATUS 16 8 = 13 ∧ t.rbit Reg.SPL_INT_STATUS 0 = true ∧ t.structure_ = s.structure_ ∧
        SameRegs [Reg.SPL_CTRL, Reg.SPL_STATUS, Reg.SPL_POOL_STATE, Reg.SPL_INT_STATUS] s t) ∧
    (bitAt v.toNat 0 = false → s.splState ≠ 4 ∨ bitAt v.toNat 3 = false ∨ s.load = none →
      ∃ t, exec (.splAbort v) s = .next t ∧ OnlyRegs [Reg.SPL_CTRL] s t)

/-- IMAGE_COPY_DONE acts only on a load in COPY. A copy that meets an unreadable host page ends FAULTED with reason 14.
An image read whole with bad sections ends REJECTED with reason 3, one whose signature fails with that check's
reason, one that passes R58 while a stream is open and FORCE is clear with 11, and one that does not with 8, each
with the structure, its graphs, its weights, the streams and the composite digest as they were. A full image that
passes every check is applied, and the composite digest becomes the SHA-512 of the image; a pool image that fails
its checks ends with the first check's reason, and one that passes them begins to drain. That the content given is
what the image's bytes say is the model's condition (log 7). -/
def Obligations.ImagesApplyOnlyWhenEveryCheckPasses : Prop :=
  ∀ (s : State) (img : Image) (l : Load), s.halted = false → l.before < 8 →
    (s.load = none ∨ s.splState ≠ 2 → exec (.imageCopyDone img) s = .next s) ∧
    (s.load = some l → s.splState = 2 → l.dev = false → 0 < l.len →
      inOnePlace (hostWindow + l.src) l.len = false ∨ s.hostOk (hostWindow + l.src) l.len = false →
      ∃ t, exec (.imageCopyDone img) s = .next t ∧ t.load = none ∧ t.splState = l.before ∧
        t.fld Reg.SPL_STATUS 28 4 = 6 ∧ t.fld Reg.SPL_STATUS 16 8 = 14 ∧ t.structure_ = s.structure_ ∧
        t.weights = s.weights ∧ t.streams = s.streams ∧ t.digest = s.digest ∧ t.mem = s.mem) ∧
    (∀ (b : List Byte) (w : State), s.copied l b w → sectionsOk b = false ∨ img.reads b = true →
      ∃ t, exec (.imageCopyDone img) s = .next t ∧
        (∀ why, why ≠ 0 → why < 256 →
          (sectionsOk b = false ∧ why = 3) ∨
          (sectionsOk b = true ∧ why = (w.signatureReason b (sha512 (b.take (l.len - 128)))).1) ∨
          (sectionsOk b = true ∧ ∃ x, w.signatureReason b (sha512 (b.take (l.len - 128))) = (0, x) ∧
            ((l.pool = false ∧ x.vetFull img b = none ∧ why = 8) ∨
             (l.pool = false ∧ x.vetFull img b ≠ none ∧ x.anyOpen = true ∧ x.rbit Reg.SPL_CTRL 1 = false ∧ why = 11) ∨
             (l.pool = true ∧ why = x.poolReason l.mask img b))) →
          t.load = none ∧ t.splState = l.before ∧ t.fld Reg.SPL_STATUS 28 4 = 8 ∧ t.fld Reg.SPL_STATUS 16 8 = why ∧
          t.rbit Reg.SPL_INT_STATUS 0 = true ∧ t.structure_ = s.structure_ ∧ t.streams = s.streams ∧ t.digest = s.digest ∧
          t.mem = w.mem) ∧
        (∀ x, sectionsOk b = true → w.signatureReason b (sha512 (b.take (l.len - 128))) = (0, x) →
          (∀ st, l.pool = false → x.vetFull img b = some st → x.anyOpen = false ∨ x.rbit Reg.SPL_CTRL 1 = true →
            ∃ l', t = x.applyFull l' st ∧ l'.digest = sha512 (b.take (l.len - 128)) ∧ l'.refs = parseRefs b ∧
              l'.serial = l.serial ∧ t.digest = sha512 (b.take (l.len - 128)) ∧ t.reg Reg.SPL_POOL_LOADS = 0 ∧
              t.pair Reg.SPL_SERIAL_LO = l.serial.toNat) ∧
          (l.pool = true → x.poolReason l.mask img b = 0 → ∃ y, t = ((y.refuseWaiting l.mask).pagesFreed).checkDrain ∧
            y.splState = 4 ∧ y.load = some { l with
              image := some img
              refs := parseRefs b
              digest := sha512 (b.take (l.len - 128))
              drainStart := x.tb.toNat } ∧
            y.rbit Reg.SPL_INT_STATUS 2 = true ∧
            SameRegs [Reg.SPL_STATUS, Reg.SPL_POOL_STATE, Reg.SPL_INT_STATUS] x y ∧ y.structure_ = s.structure_ ∧
            y.streams = s.streams ∧ y.digest = s.digest)))

/-- Until the drain has ended with no stream and no Crest instance of the pools left, and a frame tick of the switch
plane has followed or that plane is disabled, POOL_SWITCH has no effect. Then the graphs and kernels of the replaced
pools give way to the image's, the composite digest becomes the SHA-512 of the old digest and the image's, and the
load ends OK. A drain that has not ended when its limit is reached ends REJECTED with reason 12 and leaves the
structure. -/
def Obligations.PoolImagesSwitchAfterTheDrain : Prop :=
  ∀ (s : State) (l : Load), s.halted = false → s.load = some l →
    (s.splState ≠ 4 ∨ s.switchDue l = false → exec .poolSwitch s = .next s) ∧
    (l.drained = true → s.switchDue l = ((l.due || (s.plane (s.fld Reg.SPL_SWITCH_PLANE 0 2)).isNone) &&
      !s.streams.any (fun e => e.2.st != .closed && s.graphIn l.mask e.2.graph) &&
      !s.place.crests.any (fun c => s.graphIn l.mask c.graph))) ∧
    (s.splState = 4 → s.switchDue l = true → ∃ t, exec .poolSwitch s = .next t ∧
      t.structure_ = s.structure_.switched l.mask (l.image.getD {}) ∧ t.digest = sha512 (s.digest ++ l.digest) ∧
      t.load = none ∧ t.splState = 5 ∧ t.rn Reg.SPL_POOL_LOADS = min (s.rn Reg.SPL_POOL_LOADS + 1) 0xFFFFFFFF ∧
      t.fld Reg.SPL_STATUS 28 4 = 0 ∧ t.rbit Reg.SPL_INT_STATUS 0 = true ∧
      t.streams = s.streams ∧ t.mem = s.mem) ∧
    (s.splState = 4 → l.drained = false → l.before < 8 →
      (s.plane (s.fld Reg.SPL_SWITCH_PLANE 0 2) = none ∧ l.drainStart + s.drainLimit * 10000000 ≤ s.tb.toNat) ∨
        (s.plane (s.fld Reg.SPL_SWITCH_PLANE 0 2) ≠ none ∧ s.drainLimit ≤ l.drainTicks) →
      ∃ t, exec .drainTimeout s = .next t ∧ t.load = none ∧ t.splState = l.before ∧ t.fld Reg.SPL_STATUS 28 4 = 8 ∧
        t.fld Reg.SPL_STATUS 16 8 = 12 ∧ t.rbit Reg.SPL_INT_STATUS 0 = true ∧ t.structure_ = s.structure_ ∧
        t.digest = s.digest ∧ SameRegs [Reg.SPL_STATUS, Reg.SPL_POOL_STATE, Reg.SPL_INT_STATUS] s t) ∧
    (s.splState ≠ 4 ∨ l.drained = true → exec .drainTimeout s = .next s)

/-- TRAINING_COMPLETE acts only while the part is TRAINING: the loader is EMPTY, the regulator is under control, every
byte below the host window reads 0, host memory keeps its bytes, and each die enables the channels that did not
fail. A weight load by a virtual function or of a weight that the structure does not name completes REJECTED, and
one whose bytes do not have the listed digest too; one whose bytes cannot be read completes FAULTED and one without
room NO_ROOM; one with the digest and room places the bytes at an address, present, and undamaged as far as no copy
for a cluster's store finds bad cells under them. -/
def Obligations.TrainingAndWeights : Prop :=
  (∀ (s : State) (bad : BitVec 128) (ts : List Nat), s.halted = false →
    (s.splState ≠ 0 → exec (.trainingComplete bad ts) s = .next s) ∧
    (s.splState = 0 → ∃ t, exec (.trainingComplete bad ts) s = .next t ∧ t.splState = 1 ∧ t.rbit Reg.PWR_STATUS 9 = true ∧
      (∀ a, a < hostWindow → t.byte a = 0) ∧ (∀ a, hostWindow ≤ a → t.byte a = s.byte a) ∧
      (∀ d : Fin 4, t.rn (Reg.DMEM_CH_OK d) = 2 ^ 32 - 1 - bitsAt bad.toNat (32 * d) 32) ∧ t.streams = s.streams)) ∧
  (∀ (s : State) (fn sq : Fin 64) (d : BitVec 512), s.halted = false → dOp d = 0x10 → s.mayStart fn sq d = true →
    descOk (s.fmt1 fn sq) d = true →
    (fn ≠ 0 ∨ s.weight (db d 8 4) = none →
      exec (.weightLoad fn sq d) s = .next ((s.startCmd fn sq d).endCmd fn sq d 8 0)) ∧
    (∀ w r, fn = 0 → s.weight (db d 8 4) = some w →
      (s.startCmd fn sq d).readData s.oasisReader (db d 16 8) w.ref.size = r →
      (r.failed = true → exec (.weightLoad fn sq d) s = .next (r.st.endCmd fn sq d 6 0)) ∧
      (r.failed = false → sha512 r.bytes ≠ w.ref.digest →
        exec (.weightLoad fn sq d) s = .next (r.st.endCmd fn sq d 8 0)) ∧
      (r.failed = false → sha512 r.bytes = w.ref.digest →
        (r.st.weightDies w.ref.id).findSome? (fun e => r.st.weightSpot e w.ref.size) = none →
        exec (.weightLoad fn sq d) s = .next (r.st.endCmd fn sq d 4 0)) ∧
      (∀ a p, r.failed = false → sha512 r.bytes = w.ref.digest →
        (r.st.weightDies w.ref.id).findSome? (fun e => r.st.weightSpot e w.ref.size) = some (a, p) →
        ∃ t x, exec (.weightLoad fn sq d) s = .next t ∧ t.weight w.ref.id = some x ∧ x.ref = w.ref ∧ x.present = true ∧
          x.addr = a ∧ x.pooled = p ∧ ((∀ cl, r.st.stored cl w.ref.id = none) → x.damaged = false))))

/-- Each counter-clear command of an engine, a memory unit, the cache, streams, placement, security, listening, ports,
the fabric, power or snapshots, with bit 0 of the word written set, sets every register of its list to 0 and changes
nothing else; with the bit clear it changes nothing. Clearing the host queues' counters makes every one of them read
its reset value. -/
def Obligations.CounterClears : Prop :=
  ∀ (s : State) (v : Word), s.halted = false →
    (∀ p ∈ ((List.finRange 96).flatMap (fun cl => [(Instr.vecCntClr cl v, vecCounters cl),
          (.drfCntClr cl v, drfCounters cl), (.smpCntClr cl v, smpCounters cl)]) ++
        (List.finRange 96).flatMap (fun cl => (List.finRange 2).map (fun e => (Instr.meCntClr cl e v, meCounters cl e))) ++
        (List.finRange 384).map (fun n => (Instr.nmdCntClr n v, nmdCounters n)) ++
        (List.finRange 4).map (fun d => (Instr.dmemCntClr d v, dmemCounters d)) ++
        (List.finRange 128).map (fun e => (Instr.cisCntClr e v, cisCounters e)) ++
        (List.finRange 104).map (fun e => (Instr.carCntClr e v, carCounters e)) ++
        [(.kvcCntClr v, wordsFrom Reg.KVC_SWAP_OUT_LO Reg.KVC_RING_TMO), (.strmCntClr v, strmCounters),
          (.plcCntClr v, wordsFrom Reg.PLC_ADMIT Reg.PLC_WAKE_DENIED), (.secCntClr v, wordsFrom Reg.SEC_VERIFY_OK Reg.SEC_REQS),
          (.rplCntClr v, rplCounters), (.acfCntClr v, acfCounters), (.oasCntClr v, oasCounters)]),
      (bitAt v.toNat 0 = false → exec p.1 s = .next s) ∧
      (bitAt v.toNat 0 = true → ∃ t, exec p.1 s = .next t ∧ (∀ a ∈ p.2, t.reg a = 0) ∧ OnlyRegs p.2 s t)) ∧
    (∃ t, exec .snpCntClr s = .next t ∧ t.reg Reg.SNP_MISSED = 0 ∧ t.reg Reg.SNP_FIRED = 0 ∧
      OnlyRegs [Reg.SNP_MISSED, Reg.SNP_FIRED] s t) ∧
    (∃ t, exec (.pwrPeakClear v) s = .next t ∧ t.reg Reg.PWR_PEAK = 0 ∧ OnlyRegs [Reg.PWR_PEAK] s t) ∧
    (∃ t, exec (.mmrCntClr v) s = .next t ∧ t.rn Reg.MMR_CTRL = bitsAt v.toNat 0 1 ∧
      (bitAt v.toNat 1 = true → t.reg Reg.MMR_LOST = 0) ∧ (bitAt v.toNat 1 = false → t.reg Reg.MMR_LOST = s.reg Reg.MMR_LOST) ∧
      OnlyRegs [Reg.MMR_CTRL, Reg.MMR_LOST] s t) ∧
    (∃ t, exec (.hqCntClr v) s = .next t ∧ (bitAt v.toNat 0 = false → t = s) ∧ (bitAt v.toNat 0 = true →
      (∀ a, t.reg a = if isHqCounter a then regReset a else s.reg a) ∧ t = { s with regs := t.regs }))

/-- ENGINE_RESUME of an operation that the cluster does not hold, of a stream that is paused and not being closed, of
one whose cache is being swapped out, or of an item that waits for its start has no effect. Otherwise, on a free
unit of the kind, the operation leaves the saved list, runs on that unit with STATE RUN and the unit's MODE and
GRAPH as saved, and its step no longer counts as yielded once none of its operations is saved; nothing else changes,
but that a step whose cache was swapped out meanwhile then asks for its pages. On a busy unit, or one of another
kind, nothing is resumed. -/
def Obligations.SavedOperationsResume : Prop :=
  ∀ (s : State) (cl : Fin 96) (u : Fin 3) (id : Nat), s.halted = false →
    ((s.wk cl).saved.all (fun o => o.id != id) = true → exec (.engineResume cl u id) s = .next s) ∧
    (∀ o, (s.wk cl).saved.find? (fun o => o.id == id) = some o →
      ((s.strm o.handle).st = .paused ∧ (s.strm o.handle).closing = false) ∨ (s.strm o.handle).kv.st = .swapOut ∨
        s.place.items.any (fun i => i.handle == o.handle && !i.running) = true →
      exec (.engineResume cl u id) s = .next s) ∧
    (∀ o, (s.wk cl).saved.find? (fun o => o.id == id) = some o →
      (s.strm o.handle).st ≠ .paused ∨ (s.strm o.handle).closing = true → (s.strm o.handle).kv.st ≠ .swapOut →
      s.place.items.any (fun i => i.handle == o.handle && !i.running) = false →
      ((s.wk cl).saved.all (fun o => o.id != id || !o.takes u) = true ∨
          (AMap.read (fun _ => none) (s.wk cl).running u.val).isSome = true →
        exec (.engineResume cl u id) s = .next (s.restoreFirst o.handle)) ∧
      (o.takes u = true → AMap.read (fun _ => none) (s.wk cl).running u.val = none →
        ∃ t : State, exec (.engineResume cl u id) s = .next (t.restoreFirst o.handle) ∧
          (t.swappedEntries o.handle = [] → t.restoreFirst o.handle = t) ∧
          (t.wk cl).saved = (s.wk cl).saved.filter (fun o => o.id != id) ∧
          AMap.read (fun _ => none) (t.wk cl).running u.val = some { o with unit := u } ∧
          (∀ k, k ≠ u.val → AMap.read (fun _ => none) (t.wk cl).running k = AMap.read (fun _ => none) (s.wk cl).running k) ∧
          t.rn (unitStatus cl u) = (o.status / 8 * 8 + 1) % 2 ^ 32 ∧ t.reg (unitMode cl u) = o.mode ∧
          t.rn (unitGraph cl u) = o.graph % 2 ^ 32 ∧
          t.strm o.handle = (if (t.wk cl).saved.any (fun x => x.handle == o.handle) then s.strm o.handle else { s.strm o.handle with
            step := (s.strm o.handle).step.map (fun r => { r with yielded := false }) }) ∧
          (∀ k, k ≠ o.handle → t.strm k = s.strm k) ∧ (∀ k, k ≠ cl.val → t.wk k = s.wk k) ∧
          SameRegs [unitStatus cl u, unitMode cl u, unitGraph cl u] s t ∧ t = { s with
            regs := t.regs
            work := t.work
            streams := t.streams }))

/-- QST_SLOT_CLEAR zeroes a slot's registers, a write of QST_WSEL stores its fields and zeroes the slot, and QST_CNT_CLR
zeroes the counters and each slot whose bit is set; nothing else changes. A drift test started on a cluster that is
not gated clears DONE and runs, and when it is done DRF_TOUT holds the mixing function of DRF_TKEY and DRF_TCTR,
with DONE set. A gated cluster starts none, and a test on it never ends; none runs without a start. A write of a
cairn pair's high word puts the low word held for it, or in force, and the high word in force together; CRN_RESTART
sets each slot named to the bits of its initial value below its width, with byte count 0. A slot held by a scan
takes neither and raises its interrupt. -/
def Obligations.WatchSlotsDriftTestAndCairnSlots : Prop :=
  (∀ (s : State) (cl : Fin 96), s.halted = false →
    (∀ n, ∃ t, exec (.qstSlotClear cl n) s = .next t ∧ (∀ a ∈ qstSlot cl n, t.reg a = 0) ∧ OnlyRegs (qstSlot cl n) s t) ∧
    (∀ n v, ∃ t, exec (.qstWselWrite cl n v) s = .next t ∧ t.reg (Reg.QST_WSELn cl n) = v &&& 0xFFFFF801#32 ∧
      (∀ a ∈ qstSlot cl n, t.reg a = 0) ∧ OnlyRegs (Reg.QST_WSELn cl n :: qstSlot cl n) s t) ∧
    (∀ v, ∃ t, exec (.qstCntClr cl v) s = .next t ∧ t = { s with regs := t.regs } ∧
      (∀ a, t.reg a = if (bitAt v.toNat 0 && (qstCounters cl).contains a) ||
          (List.range 8).any (fun n => bitAt v.toNat (1 + n) && (qstSlot cl n).contains a) then 0 else s.reg a)) ∧
    (s.gated cl = true → exec (.drfTestGo cl) s = .next s) ∧
    (s.gated cl = false → ∃ t, exec (.drfTestGo cl) s = .next t ∧ t.rbit (Reg.DRF_TCTRL cl) 1 = false ∧
      t.fld (Reg.DRF_STATUS cl) 0 3 = 1 ∧ cl.val ∈ t.drfTests ∧ SameRegs [Reg.DRF_TCTRL cl, Reg.DRF_STATUS cl] s t ∧
      t = { s with
        regs := t.regs
        drfTests := t.drfTests }) ∧
    (cl.val ∉ s.drfTests ∨ s.gated cl = true → exec (.drfTestDone cl) s = .next s) ∧
    (cl.val ∈ s.drfTests → s.gated cl = false → ∃ t, exec (.drfTestDone cl) s = .next t ∧
      t.four (Reg.DRF_TOUTi cl) = mix (s.four (Reg.DRF_TKEYi cl)) (s.four (Reg.DRF_TCTRi cl)) ∧
      t.rbit (Reg.DRF_TCTRL cl) 1 = true ∧ t.fld (Reg.DRF_STATUS cl) 0 3 = 0 ∧ cl.val ∉ t.drfTests ∧
      SameRegs [Reg.DRF_TOUTi cl 0, Reg.DRF_TOUTi cl 1, Reg.DRF_TOUTi cl 2, Reg.DRF_TOUTi cl 3, Reg.DRF_TCTRL cl,
        Reg.DRF_STATUS cl] s t ∧ t = { s with
        regs := t.regs
        drfTests := t.drfTests })) ∧
  (∀ (s : State) (e : Fin 104) (i pair : Fin 4) (v : Word), s.halted = false →
    (s.crnHeld e i = true → ∃ t, exec (.crnPairHighWrite e i pair v) s = .next t ∧ t.rbit (Reg.CRN_INT_STATUS e) 0 = true ∧
      OnlyRegsIrq [Reg.CRN_INT_STATUS e] s t) ∧
    (s.crnHeld e i = false → ∃ t, exec (.crnPairHighWrite e i pair v) s = .next t ∧
      t.reg (crnPairLo e i pair) = (AMap.read (fun _ => none) (s.car e).latch (4 * i + pair)).getD (s.reg (crnPairLo e i pair)) ∧
      t.reg (crnPairLo e i pair + 4) = v ∧ AMap.read (fun _ => none) (t.car e).latch (4 * i + pair) = none ∧
      (t.car e).ctxs = (s.car e).ctxs ∧ (t.car e).waiting = (s.car e).waiting ∧ (∀ k, k ≠ e.val → t.car k = s.car k) ∧
      SameRegs [crnPairLo e i pair, crnPairLo e i pair + 4] s t ∧ t = { s with
        regs := t.regs
        caravans := t.caravans })) ∧
  (∀ (s : State) (e : Fin 104) (v : Word), s.halted = false → ∃ t, exec (.crnRestart e v) s = .next t ∧
    (∀ i < 4, bitAt v.toNat i = true → s.crnHeld e i = false →
      t.pair (Reg.CRN_VALUEs_LO e i) = s.pair (Reg.CRN_INITs_LO e i) % 2 ^ s.fld (Reg.CRN_CFGs e i) 0 7 ∧ t.pair (Reg.CRN_BYTESs_LO e i) = 0) ∧
    (∀ i < 4, bitAt v.toNat i = false ∨ s.crnHeld e i = true →
      t.pair (Reg.CRN_VALUEs_LO e i) = s.pair (Reg.CRN_VALUEs_LO e i) ∧
      t.pair (Reg.CRN_BYTESs_LO e i) = s.pair (Reg.CRN_BYTESs_LO e i)) ∧
    (∀ i < 4, bitAt v.toNat i = true → s.crnHeld e i = true → t.rbit (Reg.CRN_INT_STATUS e) 0 = true) ∧
    OnlyRegsIrq (Reg.CRN_INT_STATUS e :: (List.range 4).flatMap (fun i => [Reg.CRN_VALUEs_LO e i, Reg.CRN_VALUEs_LO e i + 4,
      Reg.CRN_BYTESs_LO e i, Reg.CRN_BYTESs_LO e i + 4])) s t)

/-- NMD_RV64_INSTRUCTION executes the instruction at the core's pc. ADD, SUB, XOR, OR, AND and MUL write their 64-bit
result, ADDI adds its sign-extended immediate, BEQ goes to its target where its registers are equal and to the next
instruction otherwise, and LD and SD of aligned local memory outside text read and write eight bytes, little-endian;
x0 is never written. Every such instruction retires: the pc advances, instret counts, and no other core, byte of
memory or stream changes. Any other instruction that retires leaves what its semantics give, and a compressed one
does what the instruction it stands for does. RISC-V's encodings are from outside the spec (log 28). -/
def Obligations.NomadIntegerInstructions : Prop :=
  ∀ (s : State) (n : Fin 384) (w : Nat),
    (s.coreAt n .rv w →
      (∀ x pc, (s.hart n).scalar Hart.vector w 4 = .next x pc →
        exec (.nmdRv64Instruction n) s = .next (x.s.retireTo x.n pc x.c)) ∧
      (∀ (f7 f3 : Nat) (rd rs1 rs2 : Fin 32) (op : Dword → Dword → Dword), w = encR 0x33 f3 f7 rd rs1 rs2 →
        (f7, f3, op) ∈ ([(0, 0, fun a b => a + b), (0x20, 0, fun a b => a - b), (0, 4, fun a b => a ^^^ b),
          (0, 6, fun a b => a ||| b), (0, 7, fun a b => a &&& b), (1, 0, fun a b => a * b)]
            : List (Nat × Nat × (Dword → Dword → Dword))) →
        ∃ t, exec (.nmdRv64Instruction n) s = .next t ∧
          Retired s t n ((s.core n).setX rd (op ((s.core n).xr rs1) ((s.core n).xr rs2))) ∧ t.objs = s.objs) ∧
      (∀ (rd rs1 : Fin 32) (imm : BitVec 12), w = encI 0x13 0 rd rs1 imm.toNat →
        ∃ t, exec (.nmdRv64Instruction n) s = .next t ∧
          Retired s t n ((s.core n).setX rd ((s.core n).xr rs1 + imm.signExtend 64)) ∧ t.objs = s.objs) ∧
      (∀ (rs1 rs2 : Fin 32) (ofs : BitVec 13), ofs.toNat % 2 = 0 → w = encB 0 rs1 rs2 ofs.toNat →
        ∃ t, exec (.nmdRv64Instruction n) s = .next t ∧ RetiredAt s t n
          (if (s.core n).xr rs1 = (s.core n).xr rs2 then (s.core n).pc + ofs.signExtend 64 else (s.core n).pc + 4)
          (s.core n) [] ∧ t.objs = s.objs) ∧
      (∀ (rd rs1 : Fin 32) (a : Nat), w = encI 0x03 3 rd rs1 0 → ((s.core n).xr rs1).toNat = a → a % 8 = 0 → a + 8 ≤ 0x10000 →
        (s.hart n).inv.textLen ≤ a → localGran n a ∉ s.cond.locals →
        ∃ t, exec (.nmdRv64Instruction n) s = .next t ∧
          Retired s t n ((s.core n).setX rd (BitVec.ofNat 64 (leVal ((s.core n).bytes a 8)))) ∧ t.objs = s.objs) ∧
      (∀ (rs1 rs2 : Fin 32) (a : Nat), w = encS 0x23 3 rs1 rs2 0 → ((s.core n).xr rs1).toNat = a → a % 8 = 0 →
        a + 8 ≤ 0x10000 → (s.hart n).inv.textLen ≤ a →
        ∃ t, exec (.nmdRv64Instruction n) s = .next t ∧
          Retired s t n ((s.core n).setBytes a (leBytes 8 ((s.core n).xr rs2).toNat)) ∧ t.objs = s.objs)) ∧
    (∀ x, s.halted = false → s.watchdog n = false → (s.core n).inv.isSome = true → (s.core n).wait = none →
      (s.hart n).fetch = (w, 2, none) → expandC w = some x →
      exec (.nmdRv64Instruction n) s = .next (((s.hart n).scalar Hart.vector x 2).settle)) ∧
    (∀ c ∈ ([.nmdRv64Instruction n, .nmdEcall n, .nmdTwait n, .nmdBar n, .nmdQpush n, .nmdQpop n, .nmdDraw n, .nmdMark n,
        .nmdRbegin n, .nmdRfeed n, .nmdRnode n, .nmdRend n] : List Instr),
      (s.core n).inv = none ∨ (s.core n).wait.isSome = true → exec c s = .next s)

/-- NMD.TWAIT of a count that has been delivered to the core's cluster retires with it, and otherwise waits for it, or
for the next tick with rs2 0. NMD.BAR with rs2[0] set retires after its arrival, with the current generation; else
it waits for its generation's end; the last arrival starts the next generation with a count of 0. NMD.QPUSH appends
its value while 64 entries are not held, and NMD.QPOP takes the oldest, after which cores that wait on the queue are
served; on a full or empty queue they wait, or with NB retire with 1 or with all ones. A push onto the queue bound
to the Caravan engine hands it a request in the node's ranges. ecall with a0 0 or 7 retires, frees the core and ends
one share of its node, with EMPTY among the step's conditions for 7. -/
def Obligations.NomadCoresSynchronise : Prop :=
  ∀ (s : State) (n : Fin 384) (w : Nat) (v : Invocation) (c : Core), s.core n = c → c.inv = some v →
    (s.coreAt n .twait w → ∀ p k frame, p = (c.xr (rs1Of w)).toNat % 4 → frame = bitAt (c.xr (rs1Of w)).toNat 2 →
      k = (c.xr (rs2Of w)).toNat → (s.plane p).isSome = true →
      (k ≠ 0 → k ≤ s.delivered (n / 4) p frame → ∃ t, exec (.nmdTwait n) s = .next t ∧
        Retired s t n (c.setX (rdOf w) (BitVec.ofNat 64 (s.delivered (n / 4) p frame))) ∧ t.objs = s.objs) ∧
      (k ≠ 0 → s.delivered (n / 4) p frame < k → ∃ t, exec (.nmdTwait n) s = .next t ∧
        Waits s t n (.tick p frame k (rdOf w)) ∧ t.objs = s.objs) ∧
      (k = 0 → ∃ t, exec (.nmdTwait n) s = .next t ∧
        Waits s t n (.tick p frame (s.delivered (n / 4) p frame + 1) (rdOf w)) ∧ t.objs = s.objs)) ∧
    (s.coreAt n .bar w → ∀ b, b = v.barBase + (c.xr (rs1Of w)).toNat → (c.xr (rs1Of w)).toNat < v.barCount →
      ∃ t, exec (.nmdBar n) s = .next t ∧
        t.bar (n / 4) b = (s.bar (n / 4) b).arrived ∧
        (∀ j, j ≠ b → t.bar (n / 4) j = s.bar (n / 4) j) ∧ t.mem = s.mem ∧ t.streams = s.streams ∧
        (bitAt (c.xr (rs2Of w)).toNat 0 = true → (t.core n).wait = none ∧ (t.core n).pc = c.pc + 4 ∧
          (t.core n).x = (c.setX (rdOf w) (BitVec.ofNat 64 (t.bar (n / 4) b).gen)).x) ∧
        (bitAt (c.xr (rs2Of w)).toNat 0 = true → (∀ k ∈ coresOf (n / 4), k ≠ n.val → (s.core k).wait = none) →
          Retired s t n (c.setX (rdOf w) (BitVec.ofNat 64 (t.bar (n / 4) b).gen))) ∧
        (bitAt (c.xr (rs2Of w)).toNat 0 = false → (s.bar (n / 4) b).count + 1 ≠ (s.bar (n / 4) b).expect →
          Waits s t n (.barrier b (s.bar (n / 4) b).gen (rdOf w))) ∧
        (bitAt (c.xr (rs2Of w)).toNat 0 = false → (s.bar (n / 4) b).count + 1 = (s.bar (n / 4) b).expect →
          (t.core n).wait = none ∧ (t.core n).pc = c.pc + 4 ∧
          (t.core n).x = (c.setX (rdOf w) (BitVec.ofNat 64 (s.bar (n / 4) b).gen)).x)) ∧
    (s.coreAt n .qpush w → ∀ q h, q = v.qBase + (c.xr (rs1Of w)).toNat → (c.xr (rs1Of w)).toNat < v.qCount →
      c.xr (rs2Of w) ≠ 0xFFFFFFFFFFFFFFFF#64 → v.carQ = some q → s.sidOf v.handle = some h →
      ∃ u, Retired s u n (c.setX (rdOf w) 0) ∧ u.objs = s.objs ∧ exec (.nmdQpush n) s =
        .next (u.submitReq (n / 4) (v.owner (s.strm h).fn) (c.xr (rs2Of w)).toNat).2) ∧
    (s.coreAt n .qpush w → ∀ q, q = v.qBase + (c.xr (rs1Of w)).toNat → (c.xr (rs1Of w)).toNat < v.qCount →
      c.xr (rs2Of w) ≠ 0xFFFFFFFFFFFFFFFF#64 → v.carQ ≠ some q →
      ((s.queueOf (n / 4) q).length < 64 →
        ∃ t : State, exec (.nmdQpush n) s = .next (serveQueue (n / 4) q 8 t) ∧
          ((∀ k ∈ coresOf (n / 4), (s.core k).wait = none) → serveQueue (n / 4) q 8 t = t) ∧
          Retired s t n (c.setX (rdOf w) 0) ∧ t.queueOf (n / 4) q = s.queueOf (n / 4) q ++ [c.xr (rs2Of w)] ∧
          (∀ j, j ≠ q → t.queueOf (n / 4) j = s.queueOf (n / 4) j)) ∧
      (64 ≤ (s.queueOf (n / 4) q).length → ∃ t, exec (.nmdQpush n) s = .next t ∧ t.objs = s.objs ∧
        (bitAt w 25 = true → Retired s t n (c.setX (rdOf w) 1)) ∧
        (bitAt w 25 = false → Waits s t n (.push q (c.xr (rs2Of w)) (rdOf w))))) ∧
    (s.coreAt n .qpop w → ∀ q, q = v.qBase + (c.xr (rs1Of w)).toNat → (c.xr (rs1Of w)).toNat < v.qCount →
      (∀ x l, s.queueOf (n / 4) q = x :: l →
        ∃ t : State, exec (.nmdQpop n) s = .next (serveQueue (n / 4) q 8 t) ∧
          ((∀ k ∈ coresOf (n / 4), (s.core k).wait = none) → serveQueue (n / 4) q 8 t = t) ∧
          Retired s t n (c.setX (rdOf w) x) ∧ t.queueOf (n / 4) q = l ∧
          (∀ j, j ≠ q → t.queueOf (n / 4) j = s.queueOf (n / 4) j)) ∧
      (s.queueOf (n / 4) q = [] → ∃ t, exec (.nmdQpop n) s = .next t ∧ t.objs = s.objs ∧
        (bitAt w 25 = true → Retired s t n (c.setX (rdOf w) 0xFFFFFFFFFFFFFFFF#64)) ∧
        (bitAt w 25 = false → Waits s t n (.pop q (rdOf w))))) ∧
    (s.coreAt n .ecall w → c.xr 10 = 0 ∨ c.xr 10 = 7 → ∃ u : State, Retired s u n c ∧ u.objs = s.objs ∧
      exec (.nmdEcall n) s = .next (u.shareEnded n v (decide (c.xr 10 = 7)))) ∧
    (s.coreAt n .ecall w → ∀ h r, c.xr 10 = 0 ∨ c.xr 10 = 7 → s.sidOf v.handle = some h → (s.strm h).step = some r →
      r.wait = .kernel → r.sent = true → 1 < r.jobs → (∀ k x, (s.strm k).step = some x → x.wait ≠ .kernel ∨ x.sent = true) →
      ∃ t, exec (.nmdEcall n) s = .next t ∧ t.core n = {} ∧ t.reg (Reg.NMD_STATUS n) = 0 ∧ t.reg (Reg.NMD_KERNEL n) = 0 ∧
        (t.strm h).step = some { r with
          jobs := r.jobs - 1
          status := if c.xr 10 = 7 then 7 :: r.status else r.status } ∧
        (∀ k, k ≠ h → t.strm k = s.strm k) ∧ (∀ k, k ≠ n.val → t.core k = s.core k) ∧ t.mem = s.mem ∧
        SameRegs (retireRegs n ++ [Reg.NMD_STATUS n, Reg.NMD_KERNEL n]) s t)

/-- NMD.DRAW writes the word that rs2[1:0] selects of the drift evaluation at element index rs1, zero-extended; a draw
whose key and counter are those of the last evaluation reuses its words, and any other counts one evaluation, with
its stalls. NMD.MARK writes its value and the timebase into the mark registers. NMD.RBEGIN clears the accumulator
and sets its operation, NMD.RFEED and NMD.RNODE accumulate what keeps the order of R148, and NMD.REND writes the
result and clears the accumulator. Each retires and leaves memory, streams and other cores alone. -/
def Obligations.NomadDrawsMarksAndReduces : Prop :=
  (∀ (s : State) (n : Fin 384) (w : Nat) (v : Invocation) (c : Core), s.core n = c → c.inv = some v →
    (s.coreAt n .draw w → ∀ key, key = (driftKey v.seed v.drift).words ++
        (driftCtr (c.xr (rs1Of w)).toNat v.tensor v.drawPos).words →
      (c.lastKey ≠ key → ∃ t k, exec (.nmdDraw n) s = .next t ∧
        t.core n = { (c.setX (rdOf w) (((((⟨v.seed, v.drift, v.tensor, v.drawPos⟩ : DrawCtx).eval
            (c.xr (rs1Of w)).toNat).words[(c.xr (rs2Of w)).toNat % 4]?).getD 0).setWidth 64)) with
          pc := c.pc + 4
          wait := none
          lastKey := key
          lastOut := ((⟨v.seed, v.drift, v.tensor, v.drawPos⟩ : DrawCtx).eval (c.xr (rs1Of w)).toNat).words
          inv := some { v with
            instret := v.instret + 1
            cycles := k } } ∧
        t.pair (Reg.DRF_EVAL_LO (n / 4)) = (s.pair (Reg.DRF_EVAL_LO (n / 4)) + 1) % 2 ^ 64 ∧
        (∀ j, j ≠ n.val → t.core j = s.core j) ∧ t.mem = s.mem ∧ t.streams = s.streams ∧
        SameRegs (retireRegs n ++ [Reg.DRF_EVAL_LO (n / 4), Reg.DRF_EVAL_LO (n / 4) + 4, Reg.DRF_STALL (n / 4)]) s t) ∧
      (c.lastKey = key → ∃ t, exec (.nmdDraw n) s = .next t ∧
        Retired s t n (c.setX (rdOf w) (((c.lastOut[(c.xr (rs2Of w)).toNat % 4]?).getD 0).setWidth 64)) ∧ t.objs = s.objs)) ∧
    (s.coreAt n .mark w → ∃ t, exec (.nmdMark n) s = .next t ∧
      t.reg (Reg.NMD_MARK n) = (c.xr (rs1Of w)).setWidth 32 ∧ t.pair (Reg.NMD_MARK_TB_LO n) = s.tb.toNat ∧
      RetiredAt s t n (c.pc + 4) c [Reg.NMD_MARK n, Reg.NMD_MARK_TB_LO n, Reg.NMD_MARK_TB_LO n + 4] ∧ t.objs = s.objs) ∧
    (s.coreAt n .rbegin w → c.red.lastFed = false → ∃ t op, exec (.nmdRbegin n) s = .next t ∧
      Retired s t n { c with red := { op := op } } ∧ t.objs = s.objs ∧ op ≤ 4 ∧
      ((c.xr (rs1Of w)).toNat % 8 ≤ 4 → op = (c.xr (rs1Of w)).toNat % 8)) ∧
    (s.coreAt n .rfeed w → ∀ r, c.red.rfeed (s.hart n).redMode (c.xr (rs1Of w)).toNat ((s.hart n).floats (rdOf w))
        ((s.hart n).floats (rs2Of w)) = some r →
      ∃ t, exec (.nmdRfeed n) s = .next t ∧ Retired s t n { c with red := r } ∧ t.objs = s.objs) ∧
    (s.coreAt n .rnode w → ∀ r, c.red.rnode (s.hart n).redMode (c.xr (rs1Of w)).toNat (bitsAt w 25 5) (bitAt w 30)
        (BitVec.ofNat 32 (unboxed 32 ((s.hart n).f (rs2Of w)))) = some r →
      ∃ t, exec (.nmdRnode n) s = .next t ∧ Retired s t n { c with red := r } ∧ t.objs = s.objs) ∧
    (s.coreAt n .rend w → ∃ t, exec (.nmdRend n) s = .next t ∧
      Retired s t n { ((s.hart n).setF (rdOf w) (boxed 32 (c.red.rend (s.hart n).redMode).toNat)).c with red := {} } ∧
      t.objs = s.objs)) ∧
  (∀ (r : RedAcc) (m : RMode) (i : Nat) (xs ys : List Word), r.started = true → i ≠ r.nextElem → r.rfeed m i xs ys = none) ∧
  (∀ (r : RedAcc) (m : RMode) (b j : Nat) (last : Bool) (x : Word), b % 2 ^ j ≠ 0 → r.rnode m b j last x = none)

/-- With the step of the invocation's stream waiting for its cores, a fault stops every core of the node, counts one
fault, raises its interrupt, shows its cause and address, and stops the step FAULTED; steps that wait for cores are
then given those that are free, and where none waits nothing else happens: NMD_WATCHDOG with cause 25, ecall with a0
other than 0 or 7 with 24 and a0, TWAIT of a plane not enabled with 26, a barrier beyond the node's with 27, a queue
beyond the node's or a push of the empty marker with 28, a feed, node or RBEGIN out of order with 29, ebreak with 3,
an illegal instruction with 2, and a fetch at an odd pc with 0 or outside text with 1. NMD_RESUME gives a saved
invocation to a free core of its cluster, registers and accumulator as saved, looks again at what it waited for, and
its step goes on once nothing of it is saved; a core that is not free or that grain-bound work wants first, a save
number not held, a stream paused and not being closed, or an item not started leaves everything as it was. -/
def Obligations.NomadFaultsStopTheNode : Prop :=
  ∀ (s : State) (n : Fin 384),
    (∀ (v : Invocation) (h : Nat) (r : StepRun), s.halted = false → (s.core n).inv = some v → s.sidOf v.handle = some h →
      (s.strm h).step = some r → r.wait = .kernel → (s.graphOf (s.strm h).graph).isSome = true →
      (FaultsTo (.nmdWatchdog n) s n h 25 (s.core n).pc.toNat r) ∧
      (∀ w, s.coreAt n .ecall w → (s.core n).xr 10 ≠ 0 → (s.core n).xr 10 ≠ 7 →
        FaultsTo (.nmdEcall n) s n h 24 ((s.core n).xr 10).toNat r) ∧
      (∀ w, s.coreAt n .twait w → s.plane (((s.core n).xr (rs1Of w)).toNat % 4) = none →
        FaultsTo (.nmdTwait n) s n h 26 (s.core n).pc.toNat r) ∧
      (∀ w, s.coreAt n .bar w → v.barCount ≤ ((s.core n).xr (rs1Of w)).toNat →
        FaultsTo (.nmdBar n) s n h 27 (s.core n).pc.toNat r) ∧
      (∀ w, s.coreAt n .qpush w → v.qCount ≤ ((s.core n).xr (rs1Of w)).toNat ∨ (s.core n).xr (rs2Of w) = 0xFFFFFFFFFFFFFFFF#64 →
        FaultsTo (.nmdQpush n) s n h 28 (s.core n).pc.toNat r) ∧
      (∀ w, s.coreAt n .qpop w → v.qCount ≤ ((s.core n).xr (rs1Of w)).toNat →
        FaultsTo (.nmdQpop n) s n h 28 (s.core n).pc.toNat r) ∧
      (∀ w, s.coreAt n .rfeed w → (s.core n).red.rfeed (s.hart n).redMode ((s.core n).xr (rs1Of w)).toNat
          ((s.hart n).floats (rdOf w)) ((s.hart n).floats (rs2Of w)) = none →
        FaultsTo (.nmdRfeed n) s n h 29 (s.core n).pc.toNat r) ∧
      (∀ w, s.coreAt n .rnode w → (s.core n).red.rnode (s.hart n).redMode ((s.core n).xr (rs1Of w)).toNat (bitsAt w 25 5)
          (bitAt w 30) (BitVec.ofNat 32 (unboxed 32 ((s.hart n).f (rs2Of w)))) = none →
        FaultsTo (.nmdRnode n) s n h 29 (s.core n).pc.toNat r) ∧
      (∀ w, s.coreAt n .rbegin w → (s.core n).red.lastFed = true → FaultsTo (.nmdRbegin n) s n h 29 (s.core n).pc.toNat r) ∧
      (s.coreAt n .rv 0x00100073 → FaultsTo (.nmdRv64Instruction n) s n h 3 (s.core n).pc.toNat r) ∧
      (∀ w, s.coreAt n .rv w → w % 128 = 0x0B ∨ w % 128 = 0x2B → FaultsTo (.nmdRv64Instruction n) s n h 2 (s.core n).pc.toNat r) ∧
      (s.watchdog n = false → (s.core n).wait = none → (s.core n).pc.toNat % 2 = 1 →
        FaultsTo (.nmdRv64Instruction n) s n h 0 (s.core n).pc.toNat r) ∧
      (s.watchdog n = false → (s.core n).wait = none → (s.core n).pc.toNat % 2 = 0 → v.textLen < (s.core n).pc.toNat + 2 →
        FaultsTo (.nmdRv64Instruction n) s n h 1 (s.core n).pc.toNat r)) ∧
    (∀ (id : Nat), s.halted = false →
      (s.savedCores.all (fun x => x.1 != id || x.2.1 != n.val / 4) = true ∨ (s.core n).inv.isSome = true →
        exec (.nmdResume n id) s = .next s) ∧
      (∀ c v, s.savedCores.find? (fun x => x.1 == id && x.2.1 == n.val / 4) = some (id, n.val / 4, c) → c.inv = some v →
        (v.ticked && !v.frame) = false ∧ s.coreWanted (n / 4) = true ∨ (∃ h, s.sidOf v.handle = some h ∧
          (((s.strm h).st = .paused ∧ (s.strm h).closing = false) ∨ s.place.items.any (fun i => i.handle == h && !i.running) = true)) →
        exec (.nmdResume n id) s = .next s) ∧
      (∀ c v h, s.savedCores.find? (fun x => x.1 == id && x.2.1 == n.val / 4) = some (id, n.val / 4, c) → c.inv = some v →
        (s.core n).inv = none → (v.ticked && !v.frame) = true ∨ s.coreWanted (n / 4) = false → s.sidOf v.handle = some h →
        (s.strm h).st ≠ .paused ∨ (s.strm h).closing = true → s.place.items.any (fun i => i.handle == h && !i.running) = false →
        ∃ t : State, exec (.nmdResume n id) s = .next ((t.recheck n).unyield h) ∧
          t.core n = { c with lastKey := (s.core n).lastKey, lastOut := (s.core n).lastOut } ∧
          t.savedCores = s.savedCores.filter (fun x => x.1 != id) ∧
          (c.wait = none → (t.recheck n).core n = t.core n ∧ (t.recheck n).fld (Reg.NMD_STATUS n) 0 3 = 1) ∧
          t.rn (Reg.NMD_KERNEL n) = (v.graph * 2 ^ 16 + v.kernel) % 2 ^ 32 ∧ (∀ k, k ≠ n.val → t.core k = s.core k) ∧
          SameRegs [Reg.NMD_STATUS n, Reg.NMD_KERNEL n] s t ∧ t = { s with
            regs := t.regs
            cores := t.cores
            savedCores := t.savedCores }))

/-- A free cistern engine whose channel runs takes the item that goes first of its queue: grain-bound before others,
then higher PRIO, then arrival order; an item of another operation, a busy engine or one that does not run leaves
everything as it was. FILL writes its pattern over LENGTH bytes, COPY its source's bytes, and QSCAN the minimum and
maximum of each row, to DST, where the ranges lie as R162 says; every other byte of memory reads as before, and the
bytes read from the channel are counted. A denied item, or a range or form that the part does not accept, leaves
memory and streams alone and gives the item its status, REJECTED before FAULTED. An ATTN or EXPAND item adds what
R216 and R217 form to the step that waits for it and tells the granules given as zeros, unless it meets a page in
the swap pool, at which it is held; a PROBE item probes for its stream. That FILL, COPY and QSCAN walk their channel
frame by frame is DEDUCED (log 38), and that an item has its effect when it starts is the model's choice (log 24). -/
def Obligations.CisternItemsStart : Prop :=
  (∀ (q rest : List WorkItem) (i : WorkItem), popItem q = some (i, rest) → ∃ a b, q = a ++ i :: b ∧ rest = a ++ b ∧
    (∀ j ∈ a, (i.ticked && !j.ticked) || (i.ticked == j.ticked && decide (j.prio < i.prio)) = true) ∧
    (∀ j ∈ b, (i.ticked && !j.ticked) || (i.ticked == j.ticked && decide (j.prio ≤ i.prio)) = true)) ∧
  (∀ (i : WorkItem) (e : Nat), i.op = 4 ∨ i.op = 5 → i.length % 64 ≠ 0 → i.refuse e = some 8) ∧
  (∀ (s : State) (e : Fin 128) (c : Instr) (op : Nat), s.halted = false →
    (c, op) ∈ ([(.cisternAttn e, 0), (.cisternExpand e, 1), (.cisternQscan e, 2), (.cisternProbe e, 3), (.cisternFill e, 4),
      (.cisternCopy e, 5)] : List (Instr × Nat)) →
    ((s.cis e).running.isSome = true ∨ s.cisRuns e = false ∨ (s.cis e).queue = [] → exec c s = .next s) ∧
    (∀ i rest, (s.cis e).running = none → s.cisRuns e = true → popItem (s.cis e).queue = some (i, rest) →
      (i.op ≠ op → i.denied = false → exec c s = .next s) ∧
      (i.op = op ∨ i.denied = true → ∃ t x, exec c s = .next t ∧ (t.cis e).running = some x ∧ x.item = i ∧ x.slices = 0) ∧
      (∀ st, (i.denied = true ∧ st = 8) ∨ (i.op = op ∧ (op = 2 ∨ op = 4 ∨ op = 5) ∧ i.refuse e = some st) →
        ∃ t, exec c s = .next t ∧ t.mem = s.mem ∧
        (t.cis e).running = some { item := i, status := st } ∧ t.streams = s.streams ∧ SameRegs [] s t) ∧
      (i.op = op → i.denied = false → ∀ w, i.refuse e = none → (op ≠ 4 → s.soundRuns i.srcRuns) → s.soundRuns i.dstRuns →
        (op, w) ∈ ([(4, fillBytes i.param i.length), (5, s.runBytes i.srcRuns),
          (2, qscanRows (bitsAt i.param 0 4) (bitsAt i.param 8 24) i.scanRow
            (i.length / max 1 i.scanRow) (s.runBytes i.srcRuns))] : List (Nat × List Byte)) →
        ∃ t, exec c s = .next t ∧ t.runBytes i.dstRuns = w ∧ SameOutside i.dstRuns s t ∧
          t.cis e = { (s.begun e i rest).cis e with running := some { item := i } } ∧
          t.pair (Reg.CIS_BYTES_LO e) = (s.pair (Reg.CIS_BYTES_LO e) + s.itemReads i e) % 2 ^ 64 ∧
          (∀ k, k ≠ e.val → t.cis k = s.cis k)) ∧
      (i.op = op → i.denied = false → ∀ h, op ≤ 1 → (s.begun e i rest).itemStep i = some h →
        ((s.begun e i rest).itemHeld i = true →
          ∃ t x, exec c s = .next t ∧ (t.cis e).running = some x ∧ x.item = i ∧ x.held = true) ∧
        (∀ u, (s.begun e i rest).itemHeld i = false → s.stopped h = false →
          u = (if op = 0 then (s.begun e i rest).attnItem h (s.cisLoc e) i else (s.begun e i rest).expandItem h (s.cisLoc e) i) →
          ∃ t x, exec c s = .next t ∧ (t.cis e).running = some x ∧ x.item = i ∧ x.slices = 0 ∧ x.held = false ∧
            (u.stopped h = false → x.zeroed = (u.run h).zgiven - (s.run h).zgiven ∧ x.status = if x.zeroed = 0 then 0 else 1) ∧
            t.streams = u.streams ∧ t.mem = u.mem ∧ t.place = u.place ∧
            SameRegs [Reg.CIS_BYTES_LO e, Reg.CIS_BYTES_LO e + 4] u t)) ∧
      (i.op = op → i.denied = false → ∀ h u, op = 3 → s.sidOf i.handle = some h →
        (s.begun e i rest).probeItem (s.cisLoc e) h = u →
        ∃ t x, exec c s = .next t ∧ (t.cis e).running = some x ∧ x.item = i ∧ x.slices = 0 ∧ x.status = u.1 ∧ x.zeroed = 0 ∧
          t.streams = u.2.streams ∧ t.mem = u.2.mem ∧ SameRegs [Reg.CIS_BYTES_LO e, Reg.CIS_BYTES_LO e + 4] u.2 t)))

/-- At the end of a slice a grain-bound item that is queued starts, and the running item that is not grain-bound gives
way and keeps its slices; otherwise the running item goes on. A FILL, COPY, QSCAN or PROBE item, or one denied,
completes with its record of status, zeroed granules, handle and timebase at COMPL, then makes its one arrival if
BAR_EN is set, and counts in CIS_ITEMS, and in CIS_REJECT when it is REJECTED; no other byte of memory changes, and
the item that gave way goes on once no grain-bound item is queued. An ATTN or EXPAND item leaves its step one less
to wait for, and with the last one the step goes on. An item held at a swapped page does its work and completes once
the pages are back, and until then nothing ends. A record whose address is not aligned, or lies in no one range or
in register space, is written nowhere. An idle engine completes nothing. -/
def Obligations.CisternSlicesAndCompletion : Prop :=
  ∀ (s : State) (e : Fin 128), s.halted = false →
    ((s.cis e).running = none → exec (.cisternSliceEnd e) s = .next s ∧ exec (.cisternItemComplete e) s = .next s) ∧
    (∀ r, (s.cis e).running = some r →
      (r.item.ticked = true ∨ (s.cis e).queue.all (fun i => !i.ticked) = true →
        ∃ t, exec (.cisternSliceEnd e) s = .next t ∧
          t.cis e = { s.cis e with running := some { r with slices := r.slices + 1 } } ∧
          (∀ k, k ≠ e.val → t.cis k = s.cis k) ∧ t = { s with cisterns := t.cisterns }) ∧
      (∀ i rest, r.item.ticked = false → popItem (s.cis e).queue = some (i, rest) → i.ticked = true →
        ∃ t x, exec (.cisternSliceEnd e) s = .next t ∧ (t.cis e).running = some x ∧ x.item = i ∧
          (t.cis e).gaveWay = (s.cis e).gaveWay ++ [{ r with slices := r.slices + 1 }]) ∧
      (r.held = true → s.itemHeld r.item = true → exec (.cisternItemComplete e) s = .next s) ∧
      (r.held = true → s.itemHeld r.item = false →
        exec (.cisternItemComplete e) s = .next ((s.runItem e r.item).completeItem e)) ∧
      (r.held = false → ∃ t, exec (.cisternItemComplete e) s = .next t ∧
        (2 ≤ r.item.op ∨ r.item.denied = true → t.streams = s.streams ∧
          (r.item.compl % 16 ≠ 0 ∨ inOnePlace r.item.compl 16 = false ∨ placeOf r.item.compl = .regs →
            t.mem = s.mem ∧ t.cis e = (s.cis e).goOn))) ∧
      (r.held = false → 2 ≤ r.item.op ∨ r.item.denied = true → r.item.compl % 16 = 0 → inOnePlace r.item.compl 16 = true →
        placeOf r.item.compl ≠ .regs → s.sound r.item.compl 16 →
        ∃ t, exec (.cisternItemComplete e) s = .next t ∧
          t.bytes r.item.compl 16 = itemRecord r.status r.zeroed r.item.handle s.tb ∧ SameBytes r.item.compl 16 s t ∧
          t.cis e = (s.cis e).goOn ∧ (∀ k, k ≠ e.val → t.cis k = s.cis k) ∧ t.streams = s.streams ∧
          t.pair (Reg.CIS_ITEMS_LO e) = (s.pair (Reg.CIS_ITEMS_LO e) + 1) % 2 ^ 64 ∧
          t.rn (Reg.CIS_REJECT e) = (if r.status = 8 then min (s.rn (Reg.CIS_REJECT e) + 1) 0xFFFFFFFF
            else s.rn (Reg.CIS_REJECT e)) ∧
          (r.status = 8 → t.rbit (Reg.CIS_INT_STATUS e) 1 = true) ∧
          (r.item.barEn = false → t.objs = s.objs) ∧
          (r.item.barEn = true → r.item.cluster < 96 →
            t.bar r.item.cluster r.item.barrier = (s.bar r.item.cluster r.item.barrier).arrived)) ∧
      (∀ h x, r.held = false → r.item.op ≤ 1 → r.item.denied = false → s.itemStep r.item = some h →
        (s.strm h).step = some x → ∃ t : State,
          exec (.cisternItemComplete e) s = .next (if x.jobs ≤ 1 then t.goOn h false else t) ∧
          (t.strm h).step = some { x with jobs := x.jobs - 1 } ∧ (∀ k, k ≠ h → t.strm k = s.strm k) ∧
          (inOnePlace r.item.compl 16 = false → t.cis e = (s.cis e).goOn ∧ t.mem = s.mem ∧
            (r.status ≠ 8 → r.item.barEn = false → SameRegs [Reg.CIS_BUSY_LO e, Reg.CIS_BUSY_LO e + 4, Reg.CIS_ITEMS_LO e,
              Reg.CIS_ITEMS_LO e + 4] s t)))) ∧
    (∀ c : Cistern, (c.gaveWay = [] ∨ c.queue.any (fun i => i.ticked) = true → c.goOn = { c with running := none }) ∧
      (∀ r l, c.gaveWay = r :: l → c.queue.any (fun i => i.ticked) = false →
        c.goOn = { c with
          running := some r
          gaveWay := l }))

/-- DMEM_RETIRE of a number that is no frame of the die, or of a frame already out of use, has no effect. A free frame
retires at once: it joins the table, DMEM_RET_FRAMES counts it, and its bank is retired too once it has reached the
threshold; with a full table its bank retires instead; a frame that is held retires when it becomes free.
DRAM_REFRESH changes nothing. STACK_TEMP_READ sets TEMP and the refresh code of R176 and raises the interrupt where
the code changes. A patrol scrub of a clean granule changes no byte and no count; one with a correctable error
counts DMEM_CE once and clears it; one with an uncorrectable error enters the known-bad list, counts DMEM_UE and
shows its address. No byte of memory changes, but for blocks that a detection takes out of the index. SCRUBBING
stands until the pass's last granule. -/
def Obligations.BondedMemoryIsKept : Prop :=
  ∀ (s : State) (d : Fin 4), s.halted = false →
    (∀ v, frameOfDie d v = false ∨ s.frameGone v.toNat = true → exec (.dmemRetire d v) s = .next s) ∧
    (∀ v, frameOfDie d v = true → s.frameGone v.toNat = false → s.frameHeld v.toNat = true →
      ∃ t, exec (.dmemRetire d v) s = .next t ∧ t = { s with retireDue := t.retireDue } ∧ v.toNat ∈ t.retireDue ∧
        (∀ f, f ∈ s.retireDue → f ∈ t.retireDue)) ∧
    (∀ v, frameOfDie d v = true → s.frameGone v.toNat = false → s.frameHeld v.toNat = false → 4096 ≤ (s.retiredOf d).length →
      ∃ t, exec (.dmemRetire d v) s = .next t ∧ t.retired = s.retired ∧ t.bankRetired v.toNat = true ∧ t.mem = s.mem ∧
        t.streams = s.streams) ∧
    (∀ v, frameOfDie d v = true → s.frameGone v.toNat = false → s.frameHeld v.toNat = false → (s.retiredOf d).length < 4096 →
      ∃ t, exec (.dmemRetire d v) s = .next t ∧ t.retired = s.retired ++ [v.toNat] ∧
        t.rn (Reg.DMEM_RET_FRAMES d) = (s.retiredOf d).length + 1 ∧ v.toNat ∉ t.retireDue ∧ t.frameGone v.toNat = true ∧
        (max 1 (s.fld (Reg.DMEM_BANK_THRESH d) 0 8) ≤
          ((s.retired ++ [v.toNat]).filter (fun g => bitsAt g 17 7 == bitsAt v.toNat 17 7 && bankOf g == bankOf v.toNat)).length →
          t.bankRetired v.toNat = true) ∧
        t.mem = s.mem ∧ t.streams = s.streams ∧ t.pools = s.pools) ∧
    exec (.dramRefresh d) s = .next s ∧
    (∀ x, s.rbit (Reg.DMEM_STATUS d) 2 = true ∨ s.rbit (Reg.DMEM_STATUS d) 0 = false →
      exec (.stackTempRead d x) s = .next s) ∧
    (∀ x, s.rbit (Reg.DMEM_STATUS d) 2 = false → s.rbit (Reg.DMEM_STATUS d) 0 = true →
      ∃ t, exec (.stackTempRead d x) s = .next t ∧ t.fld (Reg.DMEM_TEMP d) 0 8 = min x 255 ∧
        t.fld (Reg.DMEM_TEMP d) 16 2 = (if x < 85 then 0 else if x ≤ 95 then 1 else 2) ∧
        (t.fld (Reg.DMEM_TEMP d) 16 2 ≠ s.fld (Reg.DMEM_TEMP d) 16 2 → t.rbit (Reg.DMEM_INT_STATUS d) 0 = true) ∧
        OnlyRegsIrq [Reg.DMEM_TEMP d, Reg.DMEM_INT_STATUS d] s t) ∧
    (∀ ofs, s.rbit (Reg.DMEM_STATUS d) 2 = true ∨ s.fld (Reg.DMEM_SCRUB d) 0 8 = 0 ∨ 0xC00000000 ≤ ofs →
      exec (.patrolScrub d ofs) s = .next s) ∧
    (∀ ofs a, s.rbit (Reg.DMEM_STATUS d) 2 = false → s.fld (Reg.DMEM_SCRUB d) 0 8 ≠ 0 → ofs < 0xC00000000 →
      s.rbit (Reg.DMEM_CH_OK d) (channelOf a) = true → a = dramBase d + ofs / 64 * 64 →
      ∃ t, exec (.patrolScrub d ofs) s = .next t ∧ t.streams = s.streams ∧
        t.rbit (Reg.DMEM_STATUS d) 3 = decide (ofs / 64 * 64 < s.lastScrub d) ∧
        (s.granBad a = false ∨ s.listed a = true ∨ s.noRecords → t.mem = s.mem) ∧
        (s.granBad a = false → s.granWeak a = false → OnlyRegs [Reg.DMEM_STATUS d] s t) ∧
        (s.granWeak a = true → t.faulty a = [] ∧
          t.pair (Reg.DMEM_CE_LO d) = (s.pair (Reg.DMEM_CE_LO d) + 1) % 2 ^ 64) ∧
        (s.granBad a = true → s.listed a = false →
          t.pair (Reg.DMEM_UE_LO d) = (s.pair (Reg.DMEM_UE_LO d) + 1) % 2 ^ 64 ∧ t.pair (Reg.DMEM_LAST_UE_LO d) = a ∧
          t.rbit (Reg.DMEM_INT_STATUS d) 1 = true ∧
          (s.frameHeld (frameOf a) = true → t.listed a = true)))

/-- A TRANSFER_REQUEST of the part or the placement engine, or of the host on an Oasis engine, that can be read and
keeps Table 09-1 waits on its engine with the list, block count, prefetch depth (2 for 0), handle, record address
and starting point it names, and its owner's priority; one that breaks the table counts in CAR_REJECT and one that
cannot be read in CAR_FAULTED, and neither waits. One that names a work item gives it to the cistern engine of its
channel, denied where that is no FILL, COPY or QSCAN. A kernel's request is its invocation's, and one outside the
ranges granted to it counts in CAR_REJECT. A host request on a cluster engine, or one of a kernel that does not run
there, has no effect. TRANSFER_START gives the lowest free context to the transfer that comes first: grain-bound
before others, then the higher class, then arrival order; with no free context or nothing waiting it has no effect. -/
def Obligations.TransfersWaitAndStart : Prop :=
  (∀ (l : List Xfer) (z : Xfer), firstXfer l = some z → z ∈ l ∧
    ∀ y ∈ l, (y.ticked = true → z.ticked = true) ∧ (y.ticked = z.ticked → y.prio ≤ z.prio) ∧
      (y.ticked = z.ticked → y.prio = z.prio → z.order ≤ y.order)) ∧
  (∀ (s : State) (e : Fin 104) (addr : Nat) (o : Owner), s.halted = false →
    (o.src = .host → e.val < 96 → exec (.transferRequest e addr o) s = .next s) ∧
    (o.src = .kernel → 96 ≤ e.val ∨ (s.invsOf e).find? (fun v => v.handle == o.handle.toNat) = none →
      exec (.transferRequest e addr o) s = .next s) ∧
    (∀ w, o.src = .kernel → e.val < 96 → (s.invsOf e).find? (fun v => v.handle == o.handle.toNat) = some w →
      exec (.transferRequest e addr o) s = .next (s.submitReq e (w.owner o.fn) addr).2 ∧
      (inRanges w.ranges addr 32 = false → ∃ t, exec (.transferRequest e addr o) s = .next t ∧
        (t.car e).waiting = (s.car e).waiting ∧ t.rn (Reg.CAR_REJECT e) = min (s.rn (Reg.CAR_REJECT e) + 1) 0xFFFFFFFF ∧
        t.mem = s.mem)) ∧
    (∀ v, o.src = .part ∨ o.src = .placement ∨ (o.src = .host ∧ 96 ≤ e.val) →
      v = leVal (s.readCtl (s.carLoc e) addr 32).bytes →
      ((s.readCtl (s.carLoc e) addr 32).failed = true → ∃ t, exec (.transferRequest e addr o) s = .next t ∧
        (t.car e).waiting = (s.car e).waiting ∧
        t.rn (Reg.CAR_FAULTED e) = min (s.rn (Reg.CAR_FAULTED e) + 1) 0xFFFFFFFF ∧ (s.noRecords → t.mem = s.mem)) ∧
      (∀ q i, (s.readCtl (s.carLoc e) addr 32).failed = false → bitsAt v 80 2 = 1 → bitsAt v 82 3 ≤ 4 → bitsAt v 85 11 = 0 →
        bitsAt v 208 16 = 0 → q = (s.readCtl (s.carLoc e) addr 32).st.readCtl (s.carLoc e) (bitsAt v 0 64) 48 →
        i = { parseItem q.bytes with prio := o.prio.val, ticked := o.ticked, handle := bitsAt v 96 32 } →
        ∃ t, exec (.transferRequest e addr o) s = .next t ∧ (t.car e).waiting = (s.car e).waiting ∧
          (q.failed = true → t.rn (Reg.CAR_FAULTED e) = min (s.rn (Reg.CAR_FAULTED e) + 1) 0xFFFFFFFF) ∧
          (q.failed = false → t = q.st.giveItem i.engine { i with denied := i.op != 2 && i.op != 4 && i.op != 5 })) ∧
      ((s.readCtl (s.carLoc e) addr 32).failed = false → bitsAt v 80 2 = 0 → bitsAt v 82 3 ≤ 4 → bitsAt v 85 11 = 0 →
        bitsAt v 208 16 = 0 → 1 ≤ bitsAt v 64 16 → bitsAt v 0 64 % 64 = 0 → bitsAt v 128 64 % 32 = 0 →
        ∃ t x, exec (.transferRequest e addr o) s = .next t ∧ (t.car e).waiting = (s.car e).waiting ++ [x] ∧
          x.list = bitsAt v 0 64 ∧ x.nblk = bitsAt v 64 16 ∧ x.pref = (if bitsAt v 82 3 = 0 then 2 else bitsAt v 82 3) ∧
          x.handle = bitsAt v 96 32 ∧ x.compl = bitsAt v 128 64 ∧ x.blk = bitsAt v 192 16 ∧ x.tile = bitsAt v 224 32 ∧
          x.src = o.src ∧ x.fn = o.fn.val ∧ x.prio = o.prio.val ∧ x.ticked = o.ticked ∧ x.order = (s.car e).arrivals ∧
          (t.car e).arrivals = (s.car e).arrivals + 1 ∧ (t.car e).ctxs = (s.car e).ctxs ∧
          (∀ k, k ≠ e.val → t.car k = s.car k) ∧ t.mem = s.mem ∧ t.streams = s.streams) ∧
      ((s.readCtl (s.carLoc e) addr 32).failed = false → bitsAt v 80 2 ≠ 1 →
        2 ≤ bitsAt v 80 2 ∨ 4 < bitsAt v 82 3 ∨ bitsAt v 85 11 ≠ 0 ∨ bitsAt v 208 16 ≠ 0 ∨ bitsAt v 64 16 = 0 ∨
          bitsAt v 0 64 % 64 ≠ 0 ∨ bitsAt v 128 64 % 32 ≠ 0 →
        ∃ t, exec (.transferRequest e addr o) s = .next t ∧ (t.car e).waiting = (s.car e).waiting ∧
          t.rn (Reg.CAR_REJECT e) = min (s.rn (Reg.CAR_REJECT e) + 1) 0xFFFFFFFF ∧
          t.rbit (Reg.CAR_INT_STATUS e) 2 = true))) ∧
  (∀ (s : State) (e : Fin 104), s.halted = false →
    (s.carGated e = true ∨ (s.car e).waiting = [] ∨ (∀ c, c < 8 → (s.ctx e c).isSome = true) →
      exec (.transferStart e) s = .next s) ∧
    (∀ c x, s.carGated e = false → c < 8 → s.ctx e c = none → (∀ k, k < c → (s.ctx e k).isSome = true) →
      firstXfer (s.car e).waiting = some x → ∃ t y, exec (.transferStart e) s = .next t ∧ t.ctx e c = some y ∧
        y = { x with start := y.start } ∧ (t.car e).waiting = (s.car e).waiting.filter (fun w => w.order != x.order) ∧
        (∀ k, k ≠ c → t.ctx e k = s.ctx e k) ∧ (∀ k, k ≠ e.val → t.car k = s.car k) ∧ t = { s with caravans := t.caravans }))

/-- TILE_HANDOVER of a context that holds no transfer, whose transfer has ended, waits or has no block left, or of a
gated engine, has no effect. Of a transfer that waits for no swapped page, in a block between local ranges, with
credit, pages that translate, cells without error and no overlap, it copies the tile's rows to their destinations,
or under SCAN nowhere, feeds them to the cairn slot where the block scans, changes no other byte of memory, and goes
on to the next tile, or past the last one to the next block, with the bytes counted; then, with nothing waiting,
nothing more happens. Without credit, or while another holds its cairn slot, it hands nothing over. A host page that
fails translation issues one page request and hands nothing over; a block record that breaks its layout ends the
transfer REJECTED, one that cannot be read FAULTED, and one on a host page that fails translation waits for the
page. -/
def Obligations.TilesAreHandedOverWhole : Prop :=
  ∀ (s : State) (e : Fin 104) (c : Fin 8), s.halted = false →
    (s.ctx e c = none ∨ s.carGated e = true → exec (.tileHandover e c) s = .next s) ∧
    (∀ x, s.ctx e c = some x → x.moves = false → exec (.tileHandover e c) s = .next s) ∧
    (∀ x b, s.ctx e c = some x → x.moves = true → s.carGated e = false → s.noSwap x → x.phase = .fresh →
      x.block = some b → x.tile < b.tiles →
      (b.scans = true → x.slotHeld = none → s.crnHeld e b.cslot = true → exec (.tileHandover e c) s = .next s) ∧
      (b.scans = false ∨ x.slotHeld.isSome = true →
        (s.creditOk e x b = false → exec (.tileHandover e c) s = .next s) ∧
        (∀ p, s.creditOk e x b = true → s.pageMiss x.fn (b.srcRows x.tile ++ b.dstRows x.pref x.tile) = some p →
          ∃ t, exec (.tileHandover e c) s = .next t ∧ t.mem = s.mem ∧
            t.ctx e c = some { x with
              wait := some (.fault p)
              waitTb := s.tb.toNat
              got := []
              issued := 0 } ∧
            t.rn (Reg.CAR_PRI_REQ e) = min (s.rn (Reg.CAR_PRI_REQ e) + 1) 0xFFFFFFFF ∧ t.rbit (Reg.CAR_INT_STATUS e) 1 = true) ∧
        (∀ ls ld, s.creditOk e x b = true → s.pageMiss x.fn (b.srcRows x.tile ++ b.dstRows x.pref x.tile) = none →
          b.srcRows x.tile = ls → b.dstRows x.pref x.tile = ld → x.overlaps b = false → Apart ld →
          (∀ r ∈ ls ++ ld, s.remoteDev r.1 = none ∧ (r.2 ≠ 0 → placeOf r.1 ≠ .regs ∧
            (placeOf r.1 ≠ .host → inOnePlace r.1 r.2 = true ∧ s.sound r.1 r.2))) →
          ∃ (t : State) (y : Xfer), exec (.tileHandover e c) s = .next (t.yieldCtx e c) ∧
            ((s.car e).waiting = [] → t.yieldCtx e c = t) ∧
            (b.mode ≠ 1 → t.runBytes ld = s.runBytes ls) ∧ SameOutside ld s t ∧
            t.ctx e c = some y ∧ y.bytes = (x.bytes + (s.runBytes ls).length) % 2 ^ 64 ∧ y.zeroed = x.zeroed ∧
            y.ended = x.ended ∧ y.wait = none ∧
            (x.tile + 1 < b.tiles → y.tile = x.tile + 1 ∧ y.blk = x.blk ∧ y.block = some b) ∧
            (b.tiles ≤ x.tile + 1 → y.tile = 0 ∧ y.blk = x.blk + 1 ∧ y.block = none) ∧
            (∀ k, k ≠ c.val → t.ctx e k = s.ctx e k) ∧ (∀ k, s.sidOf x.handle ≠ some k → t.strm k = s.strm k) ∧
            (b.scans = true → t.pair (Reg.CRN_VALUEs_LO e b.cslot) =
              (s.crnFeed e b.cslot (s.runBytes ls)).pair (Reg.CRN_VALUEs_LO e b.cslot)) ∧
            t.pair (Reg.CAR_RD_LO e) = (s.pair (Reg.CAR_RD_LO e) + (s.runBytes ls).length) % 2 ^ 64 ∧
            (b.mode ≠ 1 → t.pair (Reg.CAR_WR_LO e) = (s.pair (Reg.CAR_WR_LO e) + (s.runBytes ls).length) % 2 ^ 64)))) ∧
    (∀ x, s.ctx e c = some x → x.moves = true → s.carGated e = false → s.noSwap x → x.block = none →
      (∀ p, s.pageMiss x.fn [(x.list + 64 * x.blk, 64)] = some p → ∃ t, exec (.tileHandover e c) s = .next t ∧
        t.ctx e c = some { x with
          wait := some (.fault p)
          waitTb := s.tb.toNat
          phase := .fresh
          got := []
          issued := 0 } ∧ t.mem = s.mem) ∧
      (∀ r, placeOf (x.list + 64 * x.blk) ≠ .host → s.readCtl (s.carLoc e) (x.list + 64 * x.blk) 64 = r →
        (r.failed = true → ∃ t, exec (.tileHandover e c) s = .next t ∧
          t.ctx e c = some (x.endWith 6) ∧ (s.noRecords → t.mem = s.mem)) ∧
        (r.failed = false → parseBlock r.bytes = none →
          ∃ t, exec (.tileHandover e c) s = .next t ∧ t.ctx e c = some (x.endWith 8) ∧ t.mem = s.mem)))

/-- A successful PRI_RESPONSE lets a context that waits on a page go on at its tile, and the page translates; any other
response and PRI_TIMEOUT end the transfer FAULTED at its tile, unless a condition that R13 puts first has ended it,
and one whose record waited for the page gets no record. A transfer that is not over does not complete, and one
whose record lies on a host page that fails translation waits for the page. One that is over frees its context,
counts in CAR_XFERS, writes its 32-byte record of zeroed granules, status, handle, timebase, resume point and bytes
at COMPL, and changes no other byte of memory; a step that waits for it then goes on or stops with its status; a
host command instead completes with its status and, where it ends OK or DEGRADED, its bytes. -/
def Obligations.TransfersFaultAndComplete : Prop :=
  ∀ (s : State) (e : Fin 104) (c : Fin 8), s.halted = false →
    (∀ x p, s.ctx e c = some x → x.wait = some (.fault p) →
      (∃ t, exec (.priResponse e c true) s = .next t ∧ t.ctx e c = some { x with wait := none } ∧ p ∉ t.cond.hostFail ∧
        (∀ q, q ≠ p → (q ∈ t.cond.hostFail ↔ q ∈ s.cond.hostFail)) ∧ (∀ k, k ≠ e.val → t.car k = s.car k) ∧ t = { s with
          cond := { s.cond with hostFail := t.cond.hostFail }
          caravans := t.caravans }) ∧
      (∀ i u, (i, u) ∈ ([(.priResponse e c false, s),
          (.priTimeout e c, s.reach (x.waitTb + 1000000 * max 1 (s.fld (Reg.CAR_PRI_TIMEOUT e) 0 16)))] : List (Instr × State)) →
        ∃ t, exec i s = .next t ∧
        t.ctx e c = some { x.endWith 6 with lost := x.spent } ∧ (∀ k, k ≠ e.val → t.car k = s.car k) ∧ t = { u with caravans := t.caravans })) ∧
    (s.ctx e c = none ∨ (∃ x, s.ctx e c = some x ∧ x.over = false) → exec (.transferComplete e c) s = .next s) ∧
    (∀ x p, s.ctx e c = some x → x.over = true → x.cmd = none → x.lost = false → s.pageMiss x.fn [(x.compl, 32)] = some p →
      ∃ t, exec (.transferComplete e c) s = .next t ∧ t.mem = s.mem ∧ t.ctx e c = some { x with
        wait := some (.fault p)
        waitTb := s.tb.toNat
        phase := .fresh
        got := []
        issued := 0 }) ∧
    (∀ x, s.ctx e c = some x → x.over = true → x.cmd = none → x.lost = true ∨ s.pageMiss x.fn [(x.compl, 32)] = none →
      ∃ t : State, exec (.transferComplete e c) s =
          .next (match x.step with | some h => t.stepXfer h x.status | none => t) ∧ t.ctx e c = none ∧
        (∀ k, k ≠ c.val → t.ctx e k = s.ctx e k) ∧ t.streams = s.streams ∧ (t.car e).waiting = (s.car e).waiting ∧
        t.rn (Reg.CAR_XFERS e) = min (s.rn (Reg.CAR_XFERS e) + 1) 0xFFFFFFFF ∧
        (x.lost = true ∨ inOnePlace x.compl 32 = false ∨ placeOf x.compl = .regs → placeOf x.compl ≠ .host → t.mem = s.mem)) ∧
    (∀ x, s.ctx e c = some x → x.over = true → x.cmd = none → x.lost = false → x.step = none →
      s.pageMiss x.fn [(x.compl, 32)] = none → x.compl % 32 = 0 → inOnePlace x.compl 32 = true → placeOf x.compl ≠ .regs →
      (placeOf x.compl ≠ .host → s.sound x.compl 32) →
      ∃ t, exec (.transferComplete e c) s = .next t ∧ t.ctx e c = none ∧ (∀ k, k ≠ c.val → t.ctx e k = s.ctx e k) ∧
        t.bytes x.compl 32 = (match x.block with
          | some b => xferRecord x x.status s.tb (b.t1 x.tile) (b.i2 x.tile) (b.i3 x.tile)
          | none => xferRecord x x.status s.tb x.tile 0 0) ∧
        SameBytes x.compl 32 s t ∧ t.streams = s.streams ∧ (t.car e).waiting = (s.car e).waiting ∧
        t.rn (Reg.CAR_XFERS e) = min (s.rn (Reg.CAR_XFERS e) + 1) 0xFFFFFFFF) ∧
    (∀ x f q d, s.ctx e c = some x → x.over = true → x.cmd = some (f, q, d) → x.step = none →
      ∃ t u : State, exec (.transferComplete e c) s = .next t ∧ u.ctx e c = none ∧ u.mem = s.mem ∧ u.host = { s.host with vectors := u.host.vectors } ∧
        u.streams = s.streams ∧ t = u.endCmd f q d x.status (if x.status ≤ 1 then x.bytes else 0)) ∧
    (∀ x : Xfer, (x.ended = none → x.zeroed = 0 → x.status = 0) ∧ (x.ended = none → x.zeroed ≠ 0 → x.status = 1) ∧
      (∀ k, x.ended = some k → x.status = k))

/-- A host command whose descriptor has another opcode, or whose turn in its ring has not come, has no effect; one whose
opcode the ring's format does not know or that sets a reserved bit completes REJECTED and does nothing else. NOP
completes OK. COPY of a multiple of 64 bytes in the function's reach waits on an Oasis engine; else it completes
REJECTED. A command that ends is counted for its function, and in HQ_FNf_REJ when REJECTED. Unless NOCPL suppresses
an OK entry, one 32-byte entry with its result, CID, ring, status, handle and the timebase goes to the completion
ring's tail, which moves on, with the phase turned at the end of the ring; on a full ring it waits. No other byte of
memory changes. -/
def Obligations.CommandsStartInOrderAndEndOnce : Prop :=
  (∀ (s : State) (fn sq : Fin 64) (d : BitVec 512), s.halted = false →
    (∀ p ∈ ([(.nop fn sq d, 0x00), (.streamOpen fn sq d, 0x01), (.streamFeed fn sq d, 0x02), (.streamMark fn sq d, 0x03),
        (.streamPause fn sq d, 0x04), (.streamResume fn sq d, 0x05), (.streamExport fn sq d, 0x06), (.streamImport fn sq d, 0x07),
        (.streamClose fn sq d, 0x08), (.weightLoad fn sq d, 0x10), (.kvAttach fn sq d, 0x18), (.kvFork fn sq d, 0x19),
        (.kvTruncate fn sq d, 0x1A), (.kvPin fn sq d, 0x1B), (.copy fn sq d, 0x20)] : List (Instr × Nat)),
      (dOp d ≠ p.2 ∨ s.mayStart fn sq d = false → exec p.1 s = .next s) ∧
      (dOp d = p.2 → s.mayStart fn sq d = true → descOk (s.fmt1 fn sq) d = false →
        exec p.1 s = .next ((s.startCmd fn sq d).endCmd fn sq d 8 0))) ∧
    (s.mayStart fn sq d = true → descOk (s.fmt1 fn sq) d = true →
      (dOp d = 0x00 → exec (.nop fn sq d) s = .next ((s.startCmd fn sq d).endCmd fn sq d 0 0)) ∧
      (∀ a b n, dOp d = 0x20 → a = s.localAddr (db d 8 8) → b = s.localAddr (db d 16 8) → n = db d 24 4 →
        (n % 64 ≠ 0 ∨ s.mayName fn a n = false ∨ s.mayName fn b n = false →
          exec (.copy fn sq d) s = .next ((s.startCmd fn sq d).endCmd fn sq d 8 0)) ∧
        (n % 64 = 0 → s.mayName fn a n = true → s.mayName fn b n = true → ∃ t e x, exec (.copy fn sq d) s = .next t ∧
          96 ≤ e ∧ e < 104 ∧ (t.car e).waiting = (s.car e).waiting ++ [x] ∧ x.cmd = some (fn.val, sq.val, d) ∧
          x.block = some (copyBlock a b n) ∧ x.fn = fn.val ∧ x.zeroed = 0 ∧ x.bytes = 0 ∧ x.ticked = false ∧
          (∀ k, k ≠ e → t.car k = s.car k) ∧ t.mem = s.mem ∧ t.streams = s.streams ∧ t.regs = s.regs)))) ∧
  (∀ (s t : State) (f q c : Nat) (d : BitVec 512) (st res : Nat), t = s.endCmd f q d st res → c = s.sqCq f q →
    f < 64 → q < 64 → st < 16 →
    t.rn (Reg.HQ_FNf_CMDS f) = min (s.rn (Reg.HQ_FNf_CMDS f) + 1) 0xFFFFFFFF ∧
    t.rn (Reg.HQ_FNf_REJ f) = (if st = 8 then min (s.rn (Reg.HQ_FNf_REJ f) + 1) 0xFFFFFFFF else s.rn (Reg.HQ_FNf_REJ f)) ∧
    t.host.fetched = dropDone f q d s.host.fetched ∧ t.streams = s.streams ∧ t.structure_ = s.structure_ ∧ t.tb = s.tb ∧
    (dNocpl d = true → st = 0 → t.mem = s.mem) ∧
    (dNocpl d = false ∨ st ≠ 0 → s.cqRuns f c = true → s.cqFull f c = true → t.mem = s.mem ∧
      (t.cqState f c).waiting = (s.cqState f c).waiting ++ [cmdEntry d q st res]) ∧
    (∀ a e, dNocpl d = false ∨ st ≠ 0 → s.cqRuns f c = true → s.cqFull f c = false →
      a = hostWindow + s.pair (Reg.HQ_CQq_BASE_LO f c) + s.fld (Reg.HQ_CQq_STATUS f c) 0 16 * 32 → s.hostOk a 32 = true →
      e = { cmdEntry d q st res with tb := s.tb } →
      t.bytes a 32 = e.bytes (s.fld (Reg.HQ_CQq_STATUS f c) 16 1) (s.fld (Reg.HQ_SQq_STATUS f q) 0 16) ∧
      SameBytes a 32 s t ∧
      t.fld (Reg.HQ_CQq_STATUS f c) 0 16 = (s.fld (Reg.HQ_CQq_STATUS f c) 0 16 + 1) % s.cqSize f c ∧
      t.fld (Reg.HQ_CQq_STATUS f c) 16 1 = (if (s.fld (Reg.HQ_CQq_STATUS f c) 0 16 + 1) % s.cqSize f c = 0
        then 1 - s.fld (Reg.HQ_CQq_STATUS f c) 16 1 else s.fld (Reg.HQ_CQq_STATUS f c) 16 1) ∧
      (t.cqState f c).waiting = (s.cqState f c).waiting))

/-- A submission doorbell sets the ring's tail, and is ignored with DB_ERR where the ring does not run or the index lies
beyond it; a completion doorbell of a ring that runs sets its head, after which entries that wait go out while there
is room, and of one that does not sets DB_ERR. COMMAND_FETCH has no effect while no ring may be fetched from; else
it reads one entry at the head of such a ring, which moves on by one, and nothing is fetched twice; a host page that
fails translation puts the ring in ERROR instead. CQ_INTERRUPT_TIMER signals the entries not yet signalled, where
there are any. But for entries that go out, none of them changes a byte of memory. -/
def Obligations.DoorbellsAndFetches : Prop :=
  ∀ s : State, s.halted = false →
    (∀ (f q : Fin 64) (v : Word),
      (s.sqRuns f q = true → bitsAt v.toNat 0 16 < 2 ^ s.sqLog f q → ∃ t, exec (.sqDoorbell f q v) s = .next t ∧
        t.sqTail f q = bitsAt v.toNat 0 16 ∧ (∀ g p, g < 64 → p < 64 → g ≠ f.val ∨ p ≠ q.val → t.sqTail g p = s.sqTail g p) ∧
        t = { s with host := { s.host with tails := t.host.tails } }) ∧
      (s.sqRuns f q = false ∨ 2 ^ s.sqLog f q ≤ bitsAt v.toNat 0 16 → ∃ t, exec (.sqDoorbell f q v) s = .next t ∧
        t.rbit (Reg.HQ_FN_INT f) 1 = true ∧ SameBits (Reg.HQ_FN_INT f) [1] s t ∧
        SameBits (Reg.HQ_SQq_STATUS f q) [18] s t ∧ OnlyRegs [Reg.HQ_FN_INT f, Reg.HQ_SQq_STATUS f q] s t) ∧
      (s.cqRuns f q = false → ∃ t, exec (.cqDoorbell f q v) s = .next t ∧ t.rbit (Reg.HQ_FN_INT f) 1 = true ∧
        SameBits (Reg.HQ_FN_INT f) [1] s t ∧ OnlyRegs [Reg.HQ_FN_INT f] s t) ∧
      (s.cqRuns f q = true → ∃ u : State, exec (.cqDoorbell f q v) s = .next (u.drainCq f q) ∧
        u.cqState f q = { s.cqState f q with head := bitsAt v.toNat 0 16 % s.cqSize f q } ∧
        u.rbit (Reg.HQ_CQq_STATUS f q) 17 = u.cqFull f q ∧ SameBits (Reg.HQ_CQq_STATUS f q) [17] s u ∧
        SameRegs [Reg.HQ_CQq_STATUS f q] s u ∧ u = { s with
          regs := u.regs
          host := { s.host with cqs := u.host.cqs } } ∧
        ((s.cqState f q).waiting = [] → (u.drainCq f q).cqState f q = u.cqState f q ∧
          u.drainCq f q = { u with host := { u.host with cqs := (u.drainCq f q).host.cqs } }))) ∧
    (∀ (f q : Nat) (e : CplEntry) (l : List CplEntry), f < 64 → q < 64 → (s.cqState f q).waiting = e :: l →
      (s.cqRuns f q = false ∨ s.cqFull f q = true → (s.drainCq f q).cqState f q = s.cqState f q ∧
        s.drainCq f q = { s with host := { s.host with cqs := (s.drainCq f q).host.cqs } }) ∧
      (∀ a, l = [] → s.cqRuns f q = true → s.cqFull f q = false →
        a = hostWindow + s.pair (Reg.HQ_CQq_BASE_LO f q) + s.fld (Reg.HQ_CQq_STATUS f q) 0 16 * 32 → s.hostOk a 32 = true →
        ((s.drainCq f q).cqState f q).waiting = [] ∧ SameBytes a 32 s (s.drainCq f q) ∧
        (s.drainCq f q).bytes a 32 = ({ e with tb := s.tb } : CplEntry).bytes (s.fld (Reg.HQ_CQq_STATUS f q) 16 1)
          (s.fld (Reg.HQ_SQq_STATUS f e.sq) 0 16))) ∧
    (s.nextTurn = none → exec .commandFetch s = .next s) ∧
    (∀ f q, s.nextTurn = some (f, q) → s.fetchable f q = true ∧ f < 64 ∧ q < 64) ∧
    (∀ f q a, s.nextTurn = some (f, q) →
      a = hostWindow + s.pair (Reg.HQ_SQq_BASE_LO f q) + s.fld (Reg.HQ_SQq_STATUS f q) 0 16 * s.sqBytes f q →
      (s.hostOk a (s.sqBytes f q) = true → ∃ t, exec .commandFetch s = .next t ∧
        t.host.fetched = s.host.fetched ++ [{ fn := f, sq := q, desc := BitVec.ofNat 512 (s.num a (s.sqBytes f q)) }] ∧
        t.fld (Reg.HQ_SQq_STATUS f q) 0 16 = (s.fld (Reg.HQ_SQq_STATUS f q) 0 16 + 1) % 2 ^ s.sqLog f q ∧
        SameRegs [Reg.HQ_SQq_STATUS f q] s t ∧ t.mem = s.mem ∧ t.streams = s.streams) ∧
      (s.hostOk a (s.sqBytes f q) = false → ∃ t, exec .commandFetch s = .next t ∧ t.host.fetched = s.host.fetched ∧
        t.fld (Reg.HQ_SQq_STATUS f q) 16 2 = 2 ∧ t.rbit (Reg.HQ_FN_INT f) 0 = true ∧
        SameRegs [Reg.HQ_SQq_STATUS f q, Reg.HQ_FN_INT f] s t ∧ t.mem = s.mem)) ∧
    (∀ f q : Fin 64, (s.cqRuns f q = false ∨ (s.cqState f q).unsignalled = 0 → exec (.cqInterruptTimer f q) s = .next s) ∧
      (s.cqRuns f q = true → (s.cqState f q).unsignalled ≠ 0 → ∃ t, exec (.cqInterruptTimer f q) s = .next t ∧
        t.cqState f q = { s.cqState f q with unsignalled := 0 } ∧
        (s.fld (Reg.HQ_CQq_CFG f q) 5 11 < s.fld (Reg.HQ_FNf_VEC f) 12 12 →
          s.fld (Reg.HQ_FNf_VEC f) 0 11 + s.fld (Reg.HQ_CQq_CFG f q) 5 11 ∈ t.host.vectors) ∧ KeepsVectors s t ∧
        t = { (s.reach ((s.cqState f q).firstTb + 1000 * s.fld (Reg.HQ_CQq_MOD f q) 16 16) : State) with
          host := { s.host with
            cqs := t.host.cqs
            vectors := t.host.vectors } }))

/-- LINK_TRAINING_COMPLETE shows the rate's code and the width, clears SLOW at 8 GT/s and above and sets it below, and
tells the host and the management controller. ATS_INVALIDATION forgets one page's translation and nothing else. A
BAR4 write inside the function's window stores its bytes and no others; a read answers them; beyond the window or
over a SLOW link, or of an uncorrectable granule, the answer is an abort. An aligned word of register space reads
and writes its register, and any other access there is turned away (log 20). The sideband sets and answers the
endpoint ID, its message types and its version entry, and answers part, temperatures, power, links, error counters
and management events; reading the events clears them and releases ALERT_N. The order of the items in a reply, the
codes of its header and the physical function's window are the model's choice (log 20, log 21). -/
def Obligations.LinkAndSideband : Prop :=
  ∀ s : State, s.halted = false →
    (∀ rate width, width < 16 → ∃ t, exec (.linkTrainingComplete rate width) s = .next t ∧
      (∀ c, (rate, c) ∈ ([(8, 3), (16, 4), (32, 5), (64, 6), (128, 7)] : List (Nat × Nat)) →
        t.fld Reg.HQ_LINK 0 4 = c ∧ t.rbit Reg.HQ_LINK 8 = false ∧ t.slowLink = false) ∧
      (rate < 8 → t.rbit Reg.HQ_LINK 8 = true ∧ t.slowLink = true) ∧ t.fld Reg.HQ_LINK 4 4 = width ∧
      t.rbit Reg.HQ_INT_STATUS 1 = true ∧ t.rbit Reg.HQ_MGT_EVENTS 2 = true ∧
      SameRegs [Reg.HQ_LINK, Reg.HQ_INT_STATUS, Reg.HQ_MGT_EVENTS] s t ∧ t.mem = s.mem ∧ t.streams = s.streams) ∧
    (∀ f p, ∃ t, exec (.atsInvalidation f p) s = .next t ∧ (f.val, p) ∉ t.ats ∧
      (∀ x, x ≠ (f.val, p) → (x ∈ t.ats ↔ x ∈ s.ats)) ∧ t = { s with ats := t.ats }) ∧
    (∀ (f : Fin 64) (w : Bool) (off len n : Nat) (data : List Byte), n = (if w then data.length else len) →
      (s.slowLink = true ∨ (s.bar4 f).2 < off + n ∨ inOnePlace ((s.bar4 f).1 + off) n = false →
        ∃ t, exec (.bar4Access f w off len data) s = .next t ∧ t.resp.abort = true ∧ OnlyAnswer s t) ∧
      (s.slowLink = false → off + n ≤ (s.bar4 f).2 → inOnePlace ((s.bar4 f).1 + off) n = true →
        (w = true → placeOf ((s.bar4 f).1 + off) ≠ .regs → ∃ t, exec (.bar4Access f true off len data) s = .next t ∧ t.resp = {} ∧
          (s.sound ((s.bar4 f).1 + off) n → t.bytes ((s.bar4 f).1 + off) n = data ∧
            SameBytes ((s.bar4 f).1 + off) n s t ∧ t.streams = s.streams ∧ t.regs = s.regs)) ∧
        (w = false → placeOf ((s.bar4 f).1 + off) ≠ .regs → s.sound ((s.bar4 f).1 + off) n → ∃ t, exec (.bar4Access f false off len data) s = .next t ∧
          t.resp = { bytes := s.bytes ((s.bar4 f).1 + off) n, abort := false } ∧ OnlyAnswer (s.touchDie ((s.bar4 f).1 + off)) t) ∧
        (w = false → ∀ d g, placeOf ((s.bar4 f).1 + off) = .dram d → g ∈ granulesOf ((s.bar4 f).1 + off) n → s.listed g = true →
          ∃ t, exec (.bar4Access f false off len data) s = .next t ∧ t.resp = { bytes := [], abort := true } ∧ t.streams = s.streams ∧ (s.noRecords → t.mem = s.mem)) ∧
        (∀ a, a = (s.bar4 f).1 + off → placeOf a = .regs →
          (a % 4 ≠ 0 ∨ n % 4 ≠ 0 → ∃ t, exec (.bar4Access f w off len data) s = .next t ∧ t.resp.abort = true ∧ OnlyAnswer s t) ∧
          (a % 4 = 0 → n = 4 → (w = false → exec (.bar4Access f false off len data) s =
              .next ((s.readReg (a - 0x20000000000)).2.answer (leBytes 4 (s.readReg (a - 0x20000000000)).1.toNat))) ∧
            (w = true → exec (.bar4Access f true off len data) s =
              .next ((s.writeBar0 (a - 0x20000000000) (BitVec.ofNat 32 (leVal data))).answer [])))))) ∧
    (∀ eid, ∃ t, exec (.mctpSetEndpointId eid) s = .next t ∧ t.endpoint = eid ∧ t = { s with
      endpoint := eid
      resp := t.resp }) ∧
    (∃ t, exec .mctpGetVersionSupport s = .next t ∧ t.resp.abort = false ∧ t.resp.bytes.length = 6 ∧ t = { s with
      resp := t.resp
      freeCtr := t.freeCtr }) ∧
    (∀ p ∈ ([(.mctpGetEndpointId, [0, s.endpoint, 0, 0]), (.mctpGetMessageTypeSupport, [0, 2, 0x00, 0x7E]),
        (.telemetryPartId, s.regBytes 4 [Reg.OAS_PART_ID, Reg.OAS_STEP] ++ leBytes 2 s.deviceId ++ leBytes 2 s.fab.members.length),
        (.telemetryTemperatures, s.regBytes 1 ((List.range 4).map Reg.OAS_DIEd_TEMP ++ [Reg.OAS_OASIS_TEMP] ++
          (List.range 4).map Reg.DMEM_TEMP)),
        (.telemetryPower, s.regBytes 4 [Reg.PWR_NOW, Reg.PWR_AVG1S, Reg.PWR_CAP, Reg.PWR_STATUS]),
        (.telemetryLinks, s.regBytes 4 [Reg.HQ_LINK] ++ (List.range 16).flatMap (fun n => leBytes 1 (s.fld (Reg.ERG_Pn_STATUS n) 0 3))),
        (.telemetryErrorCounters, (List.range 16).flatMap (fun c => leBytes 8 (s.pair (Reg.ERR_EVTc_LO c))))]
          : List (Instr × List Byte)),
      ∃ t, exec p.1 s = .next t ∧ t.resp = { bytes := p.2, abort := false } ∧ OnlyAnswer s t) ∧
    (∃ t, exec .telemetryEventsReadClear s = .next t ∧ t.resp.bytes = leBytes 4 (s.rn Reg.HQ_MGT_EVENTS) ∧
      t.reg Reg.HQ_MGT_EVENTS = 0 ∧ t.pins = { s.pins with alert := false } ∧ SameRegs [Reg.HQ_MGT_EVENTS] s t ∧ t = { s with
        regs := t.regs
        resp := t.resp
        pins := t.pins })

/-- A command that names no open stream of its function completes REJECTED, and one that must wait for its stream's
step, export, restore or attach, or behind another, waits on the stream and does nothing else, but that a close is
noted at once. FEED of a chunk that breaks Table 12-4 completes REJECTED, at 64 queued chunks NO_ROOM, and else
joins the end of the queue, OK, an IDLE stream becoming ACTIVE. MARK of the next position to come appends a reset
mark, of the queue's first position marks its chunk, of one within the queue splits a chunk there, and beyond
completes REJECTED. PAUSE stops an ACTIVE or IDLE stream with its queue, state items and position kept; a PAUSED
stream is left as it is, and a SWAPPED one asks no more to be restored; RESUME of a stream that is not PAUSED
changes nothing and completes OK; a resume whose tick lies ahead waits for it, and RESUME_TICK_REACHED then lets the
stream go on, with its state kept: at the current tick, or, without a place, once it is restored. -/
def Obligations.StreamsAreFedMarkedAndPaused : Prop :=
  (∀ (s : State) (fn sq : Fin 64) (d : BitVec 512) (op : Nat) (c : Instr),
    (c, op) ∈ ([(.streamFeed fn sq d, 0x02), (.streamMark fn sq d, 0x03), (.streamPause fn sq d, 0x04),
      (.streamResume fn sq d, 0x05), (.streamExport fn sq d, 0x06), (.streamClose fn sq d, 0x08), (.kvAttach fn sq d, 0x18),
      (.kvFork fn sq d, 0x19), (.kvTruncate fn sq d, 0x1A), (.kvPin fn sq d, 0x1B)] : List (Instr × Nat)) →
    s.turn fn sq d op →
    (s.target fn d = none → exec c s = .next ((s.startCmd fn sq d).endCmd fn sq d 8 0)) ∧
    (∀ h, s.target fn d = some h → op ≠ 0x08 → (s.strm h).due ≠ [] ∨ s.mustWait h d = true → ∃ u, exec c s = .next u ∧
      OnlyStream s u fn sq d h { s.strm h with due := (s.strm h).due ++ [(fn.val, sq.val, d)] }) ∧
    (∀ h x r, s.target fn d = some h → op = 0x08 → s.strm h = x → x.step = some r → x.st ≠ .paused → ∃ u, exec c s = .next u ∧
      OnlyStream s u fn sq d h { x with
        closing := true
        due := x.due ++ [(fn.val, sq.val, d)] }) ∧
    (∀ h x r, s.target fn d = some h → op = 0x08 → s.strm h = x → x.step = some r → x.st = .paused → x.cluster.isSome = true →
      ∃ u, exec c s = .next u ∧ OnlyStream s u fn sq d h (u.strm h) ∧ (u.strm h).closing = true ∧
        (u.strm h).due = x.due ++ [(fn.val, sq.val, d)] ∧ (u.strm h).items = x.items ∧ (u.strm h).queue = x.queue ∧
        (u.strm h).st = .paused)) ∧
  (∀ (s : State) (fn sq : Fin 64) (d : BitVec 512) (h : Nat) (x : Stream), s.strm h = x →
    (s.ready fn sq d 0x02 h → ∀ c, c = feedChunk (s.fmt1 fn sq) d sq →
      (s.chunkOk fn (s.inputOf h) c = false → exec (.streamFeed fn sq d) s = .next ((s.startCmd fn sq d).endCmd fn sq d 8 0)) ∧
      (s.chunkOk fn (s.inputOf h) c = true → 64 ≤ x.queue.length →
        exec (.streamFeed fn sq d) s = .next ((s.startCmd fn sq d).endCmd fn sq d 4 0)) ∧
      (s.chunkOk fn (s.inputOf h) c = true → x.queue.length < 64 → ∃ u, OnlyStream s u fn sq d h { x with
          queue := x.queue ++ [c]
          st := if x.st == .idle then .active else x.st
          atCurrent := x.atCurrent || x.st == .idle } ∧
        exec (.streamFeed fn sq d) s = .next (if x.st = .swapped then (u.endCmd fn sq d 0 0).tryRestore h
          else (u.endCmd fn sq d 0 0).lookAt h))) ∧
    (s.ready fn sq d 0x03 h →
      (db d 8 8 = x.pos + x.queued → ∃ u, OnlyStream s u fn sq d h { x with
          queue := x.queue ++ [{ mark := true, noRelease := true }] } ∧
        exec (.streamMark fn sq d) s = .next (u.endCmd fn sq d 0 0)) ∧
      (∀ c l, x.queue = c :: l → 0 < c.pos → db d 8 8 = x.pos → ∃ u, OnlyStream s u fn sq d h { x with
          queue := { c with mark := true } :: l } ∧
        exec (.streamMark fn sq d) s = .next (u.endCmd fn sq d 0 0)) ∧
      (x.pos < db d 8 8 → db d 8 8 < x.pos + x.queued → ∃ u l, markAt (s.inputOf h) (db d 8 8) x.pos x.queue = some l ∧
        ({ x with queue := l } : Stream).queued = x.queued ∧ l.length ≤ x.queue.length + 1 ∧
        OnlyStream s u fn sq d h { x with queue := l } ∧ exec (.streamMark fn sq d) s = .next (u.endCmd fn sq d 0 0)) ∧
      (x.pos + x.queued < db d 8 8 ∨ db d 8 8 < x.pos →
        exec (.streamMark fn sq d) s = .next ((s.startCmd fn sq d).endCmd fn sq d 8 0))) ∧
    (s.ready fn sq d 0x04 h →
      (x.st = .active ∨ x.st = .idle → ∃ u : State, exec (.streamPause fn sq d) s = .next (u.endCmd fn sq d 0 0) ∧
        u.strm h = { x with
          st := .paused
          wasIdle := x.st == .idle
          starved := false } ∧ (∀ k, k ≠ h → u.strm k = s.strm k) ∧ u.mem = s.mem ∧ u.regs = s.regs ∧
        (∀ i ∈ u.place.items, i.handle ≠ h)) ∧
      (x.st = .swapped → ∃ u : State, exec (.streamPause fn sq d) s = .next (u.endCmd fn sq d 0 0) ∧
        u.strm h = { x with st := .paused } ∧ (∀ k, k ≠ h → u.strm k = s.strm k) ∧ u.mem = s.mem ∧
        (∀ p ∈ u.place.pend, p ∈ s.place.pend ∧ ¬(p.src = .restore ∧ p.handle = h))) ∧
      (x.st = .paused → exec (.streamPause fn sq d) s = .next ((s.startCmd fn sq d).endCmd fn sq d 0 0))) ∧
    (s.ready fn sq d 0x05 h →
      (x.st ≠ .paused → exec (.streamResume fn sq d) s = .next ((s.startCmd fn sq d).endCmd fn sq d 0 0)) ∧
      (∀ g, x.st = .paused → s.graphOf x.graph = some g → s.fmt1 fn sq = false → dfield d 16 0 1 = 1 → g.ticked = true →
        s.tickCount g.plane g.frame < db d 8 8 → ∃ u, OnlyStream s u fn sq d h { x with resumeTick := some (db d 8 8) } ∧
          exec (.streamResume fn sq d) s = .next (u.endCmd fn sq d 0 0)) ∧
      (∀ g, x.st = .paused → s.graphOf x.graph = some g →
        s.fmt1 fn sq = true ∨ dfield d 16 0 1 = 0 ∨ g.ticked = false ∨ db d 8 8 ≤ s.tickCount g.plane g.frame →
        exec (.streamResume fn sq d) s = .next (((s.startCmd fn sq d).endCmd fn sq d 0 0).resumeNow h)) ∧
      (∀ g cl, x.st = .paused → s.graphOf x.graph = some g → dfield d 16 0 1 = 0 → x.cluster = some cl →
        ∃ t, exec (.streamResume fn sq d) s = .next t ∧ ((t.strm h).st = .active ∨ (t.strm h).st = .idle) ∧
          (t.strm h).items = x.items ∧ (t.strm h).kv = x.kv ∧ (t.strm h).pos = x.pos ∧ (t.strm h).resumeTick = none ∧
          (∀ k, k ≠ h → t.strm k = s.strm k)))) ∧
  (∀ (s : State) (h : Nat) (x : Stream), s.strm h = x →
    (x.cluster = none → ∃ u : State, s.resumeNow h = u.tryRestore h ∧ u.strm h = { x with
      st := .swapped
      atCurrent := true
      resumeTick := none } ∧ (∀ k, k ≠ h → u.strm k = s.strm k) ∧ u = { s with streams := u.streams }) ∧
    (x.cluster.isSome = true → x.queue ≠ [] ∨ x.wasIdle = false → ∃ u : State, s.resumeNow h = u.lookAt h ∧
      (∃ r, u.strm h = { x with
        st := .active
        atCurrent := true
        wasIdle := false
        resumeTick := none
        step := r } ∧ (x.step = none → r = none)) ∧ (∀ k, k ≠ h → u.strm k = s.strm k) ∧ u = { s with streams := u.streams })) ∧
  (∀ (s : State) (h : Word) (x : Stream), s.halted = false → s.strm h.toNat = x →
    (∀ k g, x.resumeTick = some k → x.st = .paused → s.graphOf x.graph = some g → k ≤ s.tickCount g.plane g.frame →
      exec (.resumeTickReached h) s = .next (s.resumeNow h.toNat)) ∧
    (x.resumeTick = none ∨ x.st ≠ .paused → exec (.resumeTickReached h) s = .next s) ∧
    (∀ k g, x.resumeTick = some k → s.graphOf x.graph = some g → s.tickCount g.plane g.frame < k →
      exec (.resumeTickReached h) s = .next s) ∧
    (∀ k g cl, x.resumeTick = some k → x.st = .paused → s.graphOf x.graph = some g → k ≤ s.tickCount g.plane g.frame →
      x.cluster = some cl → ∃ t, exec (.resumeTickReached h) s = .next t ∧
        ((t.strm h.toNat).st = .active ∨ (t.strm h.toNat).st = .idle) ∧ (t.strm h.toNat).items = x.items ∧
        (t.strm h.toNat).kv = x.kv ∧ (t.strm h.toNat).resumeTick = none ∧ (∀ j, j ≠ h.toNat → t.strm j = s.strm j)))

/-- STREAM_OPEN of a graph that the structure does not hold, or in format 1 of one with a cache, completes REJECTED, and
one that its checks refuse with the status they give. One that passes is placed as the placement engine decides:
with no room it completes NO_ROOM; where a region must wake, or streams of lower class must leave, it waits with its
cycles reserved, and the streams that need not stay leave at once; on a cluster that has room it gives an ACTIVE
stream of the graph there, with the function, class, seed, drift state and declared size of the descriptor (in
format 1 its handle as drift state) and its graph's initial state items, and completes OK with its handle, after
which the stream's queue is looked at. STREAM_CLOSE of a stream with no step in progress leaves its handle closed,
counts one close, keeps every other stream but for a source that is gone, completes OK, and then what waited for its
pages, its cluster or the end of a drain goes on, which without anything waiting is nothing. -/
def Obligations.StreamsOpenAndClose : Prop :=
  (∀ (s : State) (fn sq : Fin 64) (d : BitVec 512),
    (s.turn fn sq d 0x01 → s.graphOf (db d 8 2) = none →
      exec (.streamOpen fn sq d) s = .next ((s.startCmd fn sq d).endCmd fn sq d 8 0)) ∧
    (∀ g, s.turn fn sq d 0x01 → s.fmt1 fn sq = true → s.graphOf (db d 8 2) = some g → g.kv.isSome = true →
      exec (.streamOpen fn sq d) s = .next ((s.startCmd fn sq d).endCmd fn sq d 8 0)) ∧
    (∀ g r o, s.turn fn sq d 0x01 → s.fmt1 fn sq = o → s.graphOf (db d 8 2) = some g → (o = true → g.kv = none) →
      r = ({ cls := dfield d 10 0 3, size := db d 12 4, list := if o then 0 else db d 32 8, cap := if o then 0 else db d 40 4,
             sink := if o then db d 24 8 else db d 48 8, source := if o then 0xFFFFFFFF else db d 44 4 } : OpenReq) →
      (∀ st, s.vetOpen fn g r = (st, none) →
        exec (.streamOpen fn sq d) s = .next ((s.startCmd fn sq d).endCmd fn sq d st 0)) ∧
      (∀ st c k src dec s1, s.vetOpen fn g r = (st, some (c, k, src)) → (s.startCmd fn sq d).decide_ ⟨g, r.cls, c⟩ = (dec, s1) →
        (dec = .noRoom → exec (.streamOpen fn sq d) s = .next (s1.endCmd fn sq d 4 0)) ∧
        (∀ cl, dec = .wake cl → ∃ (u : State) (p : PendAdmit),
          exec (.streamOpen fn sq d) s = .next ((u.wakeRegion (clRegion16 cl)).asked) ∧
          u.place = { s.place with pend := s.place.pend ++ [p] } ∧ p.src = .command fn sq d ∧ p.cluster = cl ∧ p.waking = true ∧
          p.victims = [] ∧ p.graph = g.id ∧ p.strm.st = .active ∧ p.strm.items = s.initItems g ∧ p.strm.source = src ∧
          u = { s.startCmd fn sq d with
            regs := u.regs
            place := u.place } ∧ SameRegs [Reg.TBG_RES cl (budgetOf g)] s u ∧
          u.rn (Reg.TBG_RES cl (budgetOf g)) = (s.rn (Reg.TBG_RES cl (budgetOf g)) + if g.ticked then c.cycles else 0) % 2 ^ 32) ∧
        (∀ cl v, dec = .preempt cl v → ∃ (u : State) (p : PendAdmit),
          exec (.streamOpen fn sq d) s = .next (((takeVictims u v).settle).asked) ∧
          u.place = { s1.place with pend := s1.place.pend ++ [p] } ∧ p.src = .command fn sq d ∧ p.cluster = cl ∧
          p.waking = false ∧ p.victims = v ∧ p.graph = g.id ∧ u.streams = s.streams ∧ u.mem = s.mem ∧
          u.rn Reg.PLC_PREEMPT = min (s.rn Reg.PLC_PREEMPT + 1) 0xFFFFFFFF ∧ u.rbit Reg.PLC_INT_STATUS 1 = true) ∧
        (∀ cl, dec = .on cl → ∃ (u : State) (h : Nat),
          exec (.streamOpen fn sq d) s = .next (((u.endCmd fn sq d 0 (u.handleOf h)).lookAt h).asked) ∧
          (u.strm h).st = .active ∧ (u.strm h).cluster = some cl ∧ (u.strm h).graph = g.id ∧ (u.strm h).fn = fn.val ∧
          (u.strm h).cls = r.cls ∧ (u.strm h).size = r.size ∧ (u.strm h).seed.toNat = db d 16 8 ∧
          (u.strm h).drift.toNat = (if o then s.handleOf h % 2 ^ 64 else db d 24 8) ∧ (u.strm h).items = s.initItems g ∧
          (u.strm h).queue = [] ∧ (u.strm h).pos = 0 ∧ (u.strm h).step = none ∧ (u.strm h).sink = k ∧
          h < 2 ^ 20 + s.streams.length ∧ (∀ j, j ≠ h → src ≠ some j → u.strm j = s.strm j) ∧
          u.rn Reg.STRM_OPENS = min (s.rn Reg.STRM_OPENS + 1) 0xFFFFFFFF ∧
          u.rn Reg.PLC_ADMIT = min (s.rn Reg.PLC_ADMIT + 1) 0xFFFFFFFF ∧
          (g.kv = none → g.storeIds = [] → u.mem = s.mem) ∧
          (∀ b, b = budgetOf g → g.ticked = true → s.rn (Reg.TBG_RES cl b) + c.cycles < 2 ^ 32 →
            u.rn (Reg.TBG_RES cl b) = s.rn (Reg.TBG_RES cl b) + c.cycles)))) ∧
    (∀ h x, s.ready fn sq d 0x08 h → s.strm h = x → x.step = none → ∃ u : State,
      exec (.streamClose fn sq d) s = .next ((u.endCmd fn sq d 0 0).afterGone) ∧ u.strm h = {} ∧
      (∀ k, k ≠ h → ∃ src, u.strm k = { s.strm k with source := src } ∧ (src = (s.strm k).source ∨ src = none)) ∧
      u.rn Reg.STRM_CLOSES = min (s.rn Reg.STRM_CLOSES + 1) 0xFFFFFFFF ∧ (∀ i ∈ u.place.items, i.handle ≠ h) ∧
      (∀ p ∈ u.place.pend, p ∈ s.place.pend ∧ ¬(p.src = .restore ∧ p.handle = h))) ∧
    (∀ h x, s.ready fn sq d 0x08 h → s.strm h = x → x.step = none → x.kv = {} → x.sink = .none → x.queue = [] →
      x.attach = none → x.savedFrames = [] → x.savedUnit = none → (∀ k, (s.strm k).source ≠ some h) → s.calm →
      ∃ t, exec (.streamClose fn sq d) s = .next t ∧ t.strm h = {} ∧ (∀ k, k ≠ h → t.strm k = s.strm k) ∧
        t.rn Reg.STRM_CLOSES = min (s.rn Reg.STRM_CLOSES + 1) 0xFFFFFFFF ∧
        t.rn (Reg.HQ_FNf_CMDS fn) = min (s.rn (Reg.HQ_FNf_CMDS fn) + 1) 0xFFFFFFFF ∧ t.place.pend = [] ∧
        (∀ i ∈ t.place.items, i.handle ≠ h))) ∧
  (∀ s : State, (∀ e ∈ s.streams, e.2.asks = false) → s.asked = s)

/-- STREAM_EXPORT to a place that the function may not name completes REJECTED, and with too little room REJECTED with
the length needed; else the stream is EXPORTING, remembers the state it had, keeps its queue and state items, and
has its staging set flushed. When its parcel is written, here or to another package, the export completes with its
length, and the stream, with KEEP, goes back to that state, or else is gone and closed; where the place cannot be
written or reached the export counts as failed and the stream goes back too. STREAM_IMPORT of bytes that are no
parcel, of one whose signature or state does not fit, or of no graph here completes REJECTED and counts in
STRM_IMPORT_REJ, as does one that an open's checks refuse, and with no room NO_ROOM; a signed parcel of a graph that
is loaded, with room on a cluster, opens a stream with the parcel's state items, position and draw position there,
and, without a cache, counts one import and completes at once. -/
def Obligations.StreamsMoveAsParcels : Prop :=
  (∀ (s : State) (fn sq : Fin 64) (d : BitVec 512) (h : Nat) (x : Stream) (g : Graph), s.ready fn sq d 0x06 h →
    s.strm h = x → s.graphOf x.graph = some g → ∀ n, n = (s.startCmd fn sq d).parcelLength h g →
    (s.exportOk fn (db d 8 8) (min (db d 16 4) n) = false ∨ (dfield d 20 1 1 = 1 ∧ g.kv.isSome = true) →
      exec (.streamExport fn sq d) s = .next ((s.startCmd fn sq d).endCmd fn sq d 8 0)) ∧
    (dfield d 20 1 1 ≠ 1 ∨ g.kv = none → s.exportOk fn (db d 8 8) (min (db d 16 4) n) = true →
      min (db d 16 4) (2 ^ 32 - 64) < n →
      exec (.streamExport fn sq d) s = .next ((s.startCmd fn sq d).endCmd fn sq d 8 n)) ∧
    (dfield d 20 1 1 ≠ 1 ∨ g.kv = none → s.exportOk fn (db d 8 8) (min (db d 16 4) n) = true → n ≤ db d 16 4 → n ≤ 2 ^ 32 - 64 →
      ∃ t : State, exec (.streamExport fn sq d) s = .next (t.flushSet h) ∧ t.strm h = { x with
        st := .exporting
        prev := x.st
        starved := false
        export_ := some (fn.val, sq.val, d) } ∧ (∀ k, k ≠ h → t.strm k = s.strm k) ∧ t.mem = s.mem ∧ t.regs = s.regs ∧
        (∀ i ∈ t.place.items, i.handle ≠ h) ∧ (g.kv = none ∨ x.kv.staging = none → t.flushSet h = t))) ∧
  (∀ (s : State) (h : Word) (x : Stream), s.halted = false → s.strm h.toNat = x →
    (x.export_ = none ∨ x.st ≠ .exporting → exec (.exportParcelWritten h) s = .next s) ∧
    (∀ f q d g b z s1 s2 a, x.export_ = some (f, q, d) → x.st = .exporting → s.graphOf x.graph = some g →
      s.parcel h.toNat g (dfield d 20 1 1 == 1) = (b, z, s1) → a = db d 8 8 % 2 ^ 52 →
      s2 = s1.modStrm h.toNat (fun y => { y with zeroed := min (y.zeroed + z) 0xFFFFFFFF }) →
      (∀ l, b = some l → s1.remoteDev (db d 8 8) = none → inOnePlace a l.length = true →
        (hostWindow ≤ a → s1.hostOk a l.length = true) → placeOf a ≠ .regs →
        (dfield d 20 0 1 = 1 → ∃ u : State, exec (.exportParcelWritten h) s =
            .next ((u.endCmd f q d (if z = 0 then 0 else 1) l.length).endExport h.toNat) ∧
          (s1.sound a l.length → u.bytes a l.length = l ∧ SameBytes a l.length s1 u) ∧
          (u.strm h.toNat).prev = (s1.strm h.toNat).prev ∧
          u.rn Reg.STRM_EXPORTS = min (s1.rn Reg.STRM_EXPORTS + 1) 0xFFFFFFFF) ∧
        (dfield d 20 0 1 ≠ 1 → ∃ u : State, exec (.exportParcelWritten h) s =
            .next ((u.endCmd f q d (if z = 0 then 0 else 1) l.length).afterGone) ∧ u.strm h.toNat = {} ∧
          u.rn Reg.STRM_EXPORTS = min (s1.rn Reg.STRM_EXPORTS + 1) 0xFFFFFFFF ∧
          u.rn Reg.STRM_CLOSES = min (s1.rn Reg.STRM_CLOSES + 1) 0xFFFFFFFF)) ∧
      (∀ l v ok s3, b = some l → s1.remoteDev (db d 8 8) = some v → s2.sendFlow 4 h.toNat v (.request { id := h.toNat, dst := db d 8 8 / 2 ^ 52, write := true, addr := a, len := l.length, data := l, engine := 104 * 8, handle := s2.handleOf h.toNat }) = (ok, s3) →
        (ok = true → dfield d 20 0 1 = 1 → ∃ u : State, exec (.exportParcelWritten h) s =
            .next ((u.endCmd f q d (if z = 0 then 0 else 1) l.length).endExport h.toNat) ∧ u.fab = s3.fab ∧
          u.rn Reg.STRM_EXPORTS = min (s3.rn Reg.STRM_EXPORTS + 1) 0xFFFFFFFF) ∧
        (ok = false → ∃ u : State, exec (.exportParcelWritten h) s = .next ((u.endCmd f q d 5 0).endExport h.toNat) ∧
          u.rbit Reg.STRM_INT_STATUS 2 = true)) ∧
      (b = none ∨ (∃ l, b = some l ∧ s1.remoteDev (db d 8 8) = none ∧ (inOnePlace a l.length = false ∨
          (hostWindow ≤ a ∧ s1.hostOk a l.length = false))) →
        ∃ u : State, exec (.exportParcelWritten h) s = .next ((u.endCmd f q d 6 0).endExport h.toNat) ∧
        u.rn Reg.STRM_EXPORT_FAIL = min (s1.rn Reg.STRM_EXPORT_FAIL + 1) 0xFFFFFFFF ∧ u.mem = s1.mem ∧
        u.rbit Reg.STRM_INT_STATUS 2 = true))) ∧
  (∀ (s : State) (h : Nat) (x : Stream), s.strm h = x → ∃ u : State,
    s.endExport h = (if x.prev = .swapped then u.tryRestore h else u.lookAt h).runDue h ∧ u.strm h = { x with
      st := x.prev
      prev := .closed
      export_ := none
      atCurrent := true } ∧ (∀ k, k ≠ h → u.strm k = s.strm k) ∧ u = { s with streams := u.streams }) ∧
  (∀ (s : State) (fn sq : Fin 64) (d : BitVec 512) (u r : State) (b : List Byte) (hd rd : Rd), s.turn fn sq d 0x07 →
    u = s.startCmd fn sq d → hd = u.readData u.oasisReader (db d 8 8) 16 →
    rd = hd.st.readData u.oasisReader (db d 8 8) (slcN hd.bytes 12 4) → b = rd.bytes → r = rd.st →
    (hd.failed = true ∨ rd.failed = true ∨ u.mayName fn (db d 8 8) (slcN hd.bytes 12 4) = false ∨ parcelHeadOk b = false →
      ∃ t : State, exec (.streamImport fn sq d) s = .next (t.endCmd fn sq d 8 0) ∧ t.streams = r.streams ∧
        t.rn Reg.STRM_IMPORT_REJ = min (r.rn Reg.STRM_IMPORT_REJ + 1) 0xFFFFFFFF ∧ t.rbit Reg.STRM_INT_STATUS 1 = true ∧
        t.mem = r.mem) ∧
    (∀ ok s1, hd.failed = false → rd.failed = false → u.mayName fn (db d 8 8) (slcN hd.bytes 12 4) = true →
      parcelHeadOk b = true → r.parcelSigned b = (ok, s1) →
      (s1.graphBy (slice b 48 64) = none →
        exec (.streamImport fn sq d) s = .next (s1.importRej fn sq d 8)) ∧
      (∀ g, s1.graphBy (slice b 48 64) = some g → ok = false ∨ parcelStrm g b = none →
        exec (.streamImport fn sq d) s = .next (s1.free.2.importRej fn sq d 8)) ∧
      (∀ g y e o, s1.graphBy (slice b 48 64) = some g → ok = true → parcelStrm g b = some y → g.costs = [e] →
        o = ({ cls := dfield d 20 0 3, size := e.bound, list := db d 24 8, cap := db d 16 4, sink := db d 32 8,
               source := db d 40 4 } : OpenReq) →
        (∀ st, s1.free.2.vetOpen fn g o = (st, none) →
          exec (.streamImport fn sq d) s = .next (s1.free.2.importRej fn sq d st)) ∧
        (∀ st c k src dec s3, s1.free.2.vetOpen fn g o = (st, some (c, k, src)) →
          s1.free.2.decide_ ⟨g, o.cls, c⟩ = (dec, s3) →
          (dec = .noRoom → exec (.streamImport fn sq d) s = .next (s3.importRej fn sq d 4)) ∧
          (∀ cl, dec = .on cl → ∃ p : PendAdmit,
            exec (.streamImport fn sq d) s = .next (((s3.reserve ⟨g, o.cls, c⟩ cl).landImport p fn sq d).asked) ∧
            p.cluster = cl ∧ p.graph = g.id ∧ p.strm.items = y.items ∧ p.strm.pos = y.pos ∧ p.strm.p = y.p ∧
            p.strm.windows = y.windows ∧ p.strm.prev = y.prev ∧ p.strm.kv.ctx = (if g.kv.isSome then y.kv.ctx else 0))))) ∧
    (∀ s1 g y e o c cl, hd.failed = false → rd.failed = false → u.mayName fn (db d 8 8) (slcN hd.bytes 12 4) = true →
      parcelHeadOk b = true → r.parcelSigned b = (true, s1) → s1.graphBy (slice b 48 64) = some g → g.kv = none → g.storeIds = [] →
      g.costs = [e] → parcelStrm g b = some y → y.kv.incoming = [] →
      o = ({ cls := dfield d 20 0 3, size := e.bound, list := db d 24 8, cap := db d 16 4, sink := db d 32 8,
             source := db d 40 4 } : OpenReq) →
      s1.free.2.vetOpen fn g o = (0, some (c, .none, none)) → s1.free.2.decide_ ⟨g, o.cls, c⟩ = (.on cl, s1.free.2) →
      s1.graphOf g.id = some g → db d 48 8 = 2 ^ 64 - 1 →
      ∃ (t : State) (h : Nat), exec (.streamImport fn sq d) s = .next (((t.endCmd fn sq d 0 (t.handleOf h)).lookAt h).asked) ∧
        (t.strm h).items = y.items ∧ (t.strm h).pos = y.pos ∧ (t.strm h).p = y.p ∧ (t.strm h).st = y.prev ∧
        (t.strm h).cluster = some cl ∧ (t.strm h).graph = g.id ∧ (t.strm h).fn = fn.val ∧
        (t.strm h).queue = y.queue.map (fun z => { z with sq := sq.val }) ∧
        t.rn Reg.STRM_IMPORTS = min (s1.rn Reg.STRM_IMPORTS + 1) 0xFFFFFFFF ∧ t.mem = s1.mem))

/-- KV_PIN sets whether a sequence is pinned, and nothing else of any stream. KV_TRUNCATE beyond the context completes
REJECTED; to the context it changes nothing, and below it the context becomes the position asked for, after which
what waits for pages goes on. KV_FORK of a child that may not take the cache completes REJECTED; a parent with
swapped pages is restored first, and the command waits; where records suffice, the child gets the parent's context
and tokens and the parent keeps its own, and else the records made are undone and it completes NO_ROOM. KV_ATTACH of
an unaligned context, with positions staged, of tokens that the function may not name or without an index completes
REJECTED, with fewer than 128 tokens or no room for a block EMPTY, and else becomes a PROBE item of the engine that
holds the block's bucket. Where list or records cannot be read these complete FAULTED. On a stream whose graph has
no cache each of these completes REJECTED. -/
def Obligations.CachesArePinnedTruncatedAndShared : Prop :=
  (∀ (s : State) (fn sq : Fin 64) (d : BitVec 512) (h op : Nat) (c : Instr),
    (c, op) ∈ ([(.kvAttach fn sq d, 0x18), (.kvFork fn sq d, 0x19), (.kvTruncate fn sq d, 0x1A), (.kvPin fn sq d, 0x1B)]
      : List (Instr × Nat)) → s.ready fn sq d op h → s.kvOf h = none →
    exec c s = .next ((s.startCmd fn sq d).endCmd fn sq d 8 0)) ∧
  (∀ (s u v : State) (ok : Bool) (fn sq : Fin 64) (d : BitVec 512) (h : Nat) (x : Stream) (k : KvDecl), s.strm h = x →
    s.kvOf h = some k → u = s.startCmd fn sq d → u.cacheRead h = (ok, v) →
    (s.ready fn sq d 0x1B h → ∃ t, OnlyStream s t fn sq d h { x with
        kv := { x.kv with pinned := dfield d 8 0 1 == 1 } } ∧ exec (.kvPin fn sq d) s = .next (t.endCmd fn sq d 0 0)) ∧
    (s.ready fn sq d 0x1A h →
      (x.kv.ctx < db d 8 8 → exec (.kvTruncate fn sq d) s = .next (u.endCmd fn sq d 8 0)) ∧
      (ok = false → db d 8 8 ≤ x.kv.ctx → v.streams = s.streams ∧ exec (.kvTruncate fn sq d) s = .next (v.endCmd fn sq d 6 0)) ∧
      (ok = true → db d 8 8 = x.kv.ctx → v.streams = s.streams ∧
        exec (.kvTruncate fn sq d) s = .next ((v.endCmd fn sq d 0 0).afterGone)) ∧
      (ok = true → db d 8 8 < x.kv.ctx → ∃ t : State, exec (.kvTruncate fn sq d) s = .next ((t.endCmd fn sq d 0 0).afterGone) ∧
        (t.strm h).kv.ctx = db d 8 8 ∧ (t.strm h).kv.allTokens = x.kv.allTokens.take (db d 8 8) ∧
        (t.strm h).items = x.items ∧ (t.strm h).kv.pinned = x.kv.pinned ∧ (t.strm h).kv.list = x.kv.list ∧
        (∀ g, (t.strm h).kv.staging = some g → ∃ g', x.kv.staging = some g' ∧ g.cluster = g'.cluster) ∧
        (∀ j, j ≠ h → t.strm j = s.strm j)) ∧
      (s.calm → ok = true → db d 8 8 = x.kv.ctx → ∃ t, exec (.kvTruncate fn sq d) s = .next t ∧ t.streams = s.streams) ∧
      (s.calm → ok = true → db d 8 8 < x.kv.ctx → ∃ t, exec (.kvTruncate fn sq d) s = .next t ∧
        (t.strm h).kv.ctx = db d 8 8 ∧ (t.strm h).kv.allTokens = x.kv.allTokens.take (db d 8 8) ∧
        (t.strm h).items = x.items ∧ (∀ j, j ≠ h → t.strm j = s.strm j))) ∧
    (∀ c, s.ready fn sq d 0x19 h → s.sidOf (db d 8 4) = some c →
      (s.forkOk h c fn = false → exec (.kvFork fn sq d) s = .next (u.endCmd fn sq d 8 0)) ∧
      (s.forkOk h c fn = true → s.swappedEntries h ≠ [] ∨ x.kv.granted ≠ [] → exec (.kvFork fn sq d) s =
        .next (if (u.askRestore h).1 then (u.askRestore h).2.endCmd fn sq d 3 0 else (u.askRestore h).2.waitOn h fn sq d)) ∧
      (s.forkOk h c fn = true → s.swappedEntries h = [] → x.kv.granted = [] → ok = false →
        exec (.kvFork fn sq d) s = .next (v.endCmd fn sq d 6 0)) ∧
      (∀ r : Bool × List Nat × State, s.forkOk h c fn = true → s.swappedEntries h = [] → x.kv.granted = [] → ok = true →
        r = makeRecs h k (v.flushSet h) []
          ((List.range ((x.kv.ctx + 127) / 128)).filter ((v.flushSet h).ownBlock h k)) →
        (r.1 = false → ∃ t : State, t = unmakeRecs h k r.2.2 r.2.1 ∧
          exec (.kvFork fn sq d) s = .next (t.endCmd fn sq d 4 0) ∧ (t.strm c).kv.ctx = 0 ∧ (t.strm h).kv.ctx = x.kv.ctx) ∧
        (r.1 = true → ∃ t, exec (.kvFork fn sq d) s = .next t ∧ (t.strm c).kv.ctx = x.kv.ctx ∧
          (t.strm c).kv.allTokens = x.kv.allTokens ∧ (t.strm h).kv.ctx = x.kv.ctx ∧ (t.strm c).st = (s.strm c).st ∧
          (t.strm c).kv.staging = none ∧ (t.strm h).kv.staging = none ∧ (t.strm c).kv.recs = (t.strm h).kv.recs ∧
          (∀ j, j ≠ h → j ≠ c → t.strm j = s.strm j)))) ∧
    (s.ready fn sq d 0x19 h → s.sidOf (db d 8 4) = none → exec (.kvFork fn sq d) s = .next (u.endCmd fn sq d 8 0)) ∧
    (s.ready fn sq d 0x18 h →
      (k.indexed = false ∨ x.kv.ctx % 128 ≠ 0 ∨ (∃ g, x.kv.staging = some g ∧ g.bytes ≠ []) ∨
          u.mayName fn (db d 8 8) (4 * db d 16 4) = false ∨ inOnePlace (db d 8 8) (4 * db d 16 4) = false →
        exec (.kvAttach fn sq d) s = .next (u.endCmd fn sq d 8 0)) ∧
      (k.indexed = true → x.kv.ctx % 128 = 0 → (∀ g, x.kv.staging = some g → g.bytes = []) →
        u.mayName fn (db d 8 8) (4 * db d 16 4) = true → inOnePlace (db d 8 8) (4 * db d 16 4) = true →
        (ok = false → exec (.kvAttach fn sq d) s = .next (v.endCmd fn sq d 6 0)) ∧
        (ok = true → db d 16 4 < 128 ∨ k.maxCtx < x.kv.ctx + 128 → ∃ t : State,
          exec (.kvAttach fn sq d) s = .next (t.endCmd fn sq d 7 0) ∧ t.strm h = x ∧ (∀ j, j ≠ h → t.strm j = s.strm j)) ∧
        (∀ r, ok = true → 128 ≤ db d 16 4 → x.kv.ctx + 128 ≤ k.maxCtx → r = v.readData v.oasisReader (db d 8 8) 512 →
          (r.failed = true → ∃ t : State, exec (.kvAttach fn sq d) s = .next (t.endCmd fn sq d 6 0) ∧ t.strm h = x ∧
            (∀ j, j ≠ h → t.strm j = s.strm j)) ∧
          (r.failed = false → ∃ t e i, exec (.kvAttach fn sq d) s = .next t ∧ (t.strm h).attach = some (fn.val, sq.val, d, 0) ∧
            (t.strm h).kv = x.kv ∧ t.cis e = (if (r.st.cis e).queue.length < 64 then
              { r.st.cis e with queue := (r.st.cis e).queue ++ [i] } else
              { r.st.cis e with waiting := (r.st.cis e).waiting ++ [i] }) ∧ i.op = 3 ∧ i.src = db d 8 8 ∧ i.prio = x.cls ∧
            i.handle = s.handleOf h ∧ (∀ j, j ≠ h → t.strm j = s.strm j))))))

/-- SWAP_PAGE_WRITE_DONE of a page that is not the victim's next has no effect. A next page that has ceased to be
swappable stays; one whose swap units lie in a host page that does not translate has that page asked for and goes on
waiting; else its content goes to the units, its entry becomes SWAPPED, its frames are freed and one page out is
counted; a write that ended FAULTED, or for which no units are free, counts in KVC_SWAP_FAIL and cuts the swap
short. After the last page the victim is SWAPPED, victims are chosen for needs still uncovered, and what waits for
pages goes on. KV_RESTORE_COMPLETE of a sequence that is not being restored, still needs pages or whose host pages
do not translate has no effect; else it counts the pages in, the sequence is RESIDENT, and its step, its transfers
and the commands that wait go on. A ready record of a member adds its node to the step that waits for it; a ring
block from another member is kept once for the step, and sent on unless the successor is its origin; RING_TIMEOUT
ends the waiting step UNREACHABLE and counts. KVP_LOW_WRITE sets the low-water mark to the pool's free pages. -/
def Obligations.PagesAreSwappedAndRestored : Prop :=
  (∀ (s : State) (h : Word) (n : Nat) (x : Stream), s.halted = false → n = h.toNat → s.strm n = x →
    (∀ e ok, x.kv.swapOut = [] ∨ x.kv.swapOut.head? ≠ some e ∨ s.kvOf n = none →
      exec (.swapPageWriteDone h e ok) s = .next s) ∧
    (∀ e l k, x.kv.swapOut = e :: l → s.kvOf n = some k →
      (∀ ok, s.swappable n e k = false → exec (.swapPageWriteDone h e ok) s = .next (s.swapNext n l)) ∧
      (s.swappable n e k = true → s.swapHostOk n k = false → ∃ c, 96 ≤ c ∧ c < 104 ∧
        exec (.swapPageWriteDone h e true) s = .next (s.free.2.priRequest c)) ∧
      (∀ u, s.swappable n e k = true → s.swapHostOk n k = true → s.swapPage n e k = some u →
        exec (.swapPageWriteDone h e true) s = .next (u.swapNext n l) ∧
        u.pair Reg.KVC_SWAP_OUT_LO = (s.pair Reg.KVC_SWAP_OUT_LO + 1) % 2 ^ 64 ∧ (u.strm n).kv.swapOut = x.kv.swapOut ∧
        (∀ j, j ≠ n → u.strm j = s.strm j) ∧
        (inOnePlace (x.kv.list + 4 * e) 4 = true → placeOf (x.kv.list + 4 * e) ≠ .regs → s.sound (x.kv.list + 4 * e) 4 →
          (u.kvEnt n e).kind = 2 ∧ (u.kvEnt n e).shared = false)) ∧
      (∀ ok, s.swappable n e k = true → ok = false ∨ (s.swapHostOk n k = true ∧ s.swapPage n e k = none) →
        ∃ u t : State, t = u.endSwap n ∧ exec (.swapPageWriteDone h e ok) s =
            .next ((fillNeeds (2 * t.streams.length) t).afterGone) ∧
          u.rn Reg.KVC_SWAP_FAIL = min (s.rn Reg.KVC_SWAP_FAIL + 1) 0xFFFFFFFF ∧ u.rbit Reg.KVC_INT_STATUS 1 = true ∧
          u.streams = s.streams ∧ u.mem = s.mem)) ∧
    (∀ l, ∃ u t : State, u.strm n = { x with kv := { x.kv with swapOut := l } } ∧ (∀ j, j ≠ n → u.strm j = s.strm j) ∧
      u = { s with streams := u.streams } ∧ t = u.endSwap n ∧
      s.swapNext n l = (if l = [] then (fillNeeds (2 * t.streams.length) t).afterGone else u.afterGone)) ∧
    (∀ e l k u, x.kv.swapOut = e :: l → s.kvOf n = some k → s.swappable n e k = true → s.swapHostOk n k = true →
      s.swapPage n e k = some u → s.calm → x.due = [] → u.calm → (u.strm n).due = [] →
      ∃ t, exec (.swapPageWriteDone h e true) s = .next t ∧ (t.strm n).kv.swapOut = l ∧
        (l = [] → (t.strm n).kv.st = (if ((u.setKv n { (u.strm n).kv with swapOut := [] }).swappedEntries n).isEmpty
          then .resident else .swapped)) ∧
        (t.strm n).items = (u.strm n).items ∧ (∀ j, j ≠ n → t.strm j = u.strm j) ∧ t.mem = u.mem) ∧
    (∀ e l k, x.kv.swapOut = e :: l → s.kvOf n = some k → s.swappable n e k = true → s.calm → x.due = [] →
      ∃ t, exec (.swapPageWriteDone h e false) s = .next t ∧ (t.strm n).kv.swapOut = [] ∧
        t.rn Reg.KVC_SWAP_FAIL = min (s.rn Reg.KVC_SWAP_FAIL + 1) 0xFFFFFFFF ∧ t.rbit Reg.KVC_INT_STATUS 1 = true ∧
        t.mem = s.mem ∧ (∀ j, j ≠ n → t.strm j = s.strm j)) ∧
    (s.kvOf n = none ∨ x.kv.st ≠ .restore ∨ x.kv.need ≠ [] ∨ (∃ k, s.kvOf n = some k ∧ s.restoreOk n k = false) →
      exec (.kvRestoreComplete h) s = .next s) ∧
    (∀ k b w v, s.kvOf n = some k → x.kv.st = .restore → x.kv.need = [] → s.restoreOk n k = true →
      b = bringBack n k s x.kv.granted → w = b.setKv n { (b.strm n).kv with
        st := .resident
        granted := (b.strm n).kv.granted.filter (fun y => (s.kvEnt n y.1).kind != 2) } →
      v = resumeXfers (w.handleOf n) false w (w.caravans.map (fun e => e.1)) →
      (∀ g, s.graphOf x.graph = some g → exec (.kvRestoreComplete h) s = .next (((match x.step with
        | some r => if r.wait = StepWait.restore then v.startRun n g else if r.wait = StepWait.pages then v.goOn n false else v
        | none => v).runDue n).afterGone)) ∧
      (w.strm n).kv.ctx = x.kv.ctx ∧ (w.strm n).items = x.items ∧ (w.strm n).kv.st = .resident ∧
      (∀ j, j ≠ n → w.strm j = s.strm j) ∧ w.caravans = s.caravans) ∧
    (∀ k, s.kvOf n = some k → x.kv.st = .restore → x.kv.need = [] → s.restoreOk n k = true → x.step = none → x.due = [] →
      s.calm → s.caravans = [] → ∃ t, exec (.kvRestoreComplete h) s = .next t ∧ (t.strm n).kv.st = .resident ∧
        (t.strm n).kv.ctx = x.kv.ctx ∧ (t.strm n).items = x.items ∧ (∀ j, j ≠ n → t.strm j = s.strm j) ∧
        (x.kv.granted = [] → t.pair Reg.KVC_SWAP_IN_LO = s.pair Reg.KVC_SWAP_IN_LO) ∧
        (∀ i f, x.kv.granted = [(i, f)] → (s.kvEnt n i).kind = 2 →
          t.pair Reg.KVC_SWAP_IN_LO = (s.pair Reg.KVC_SWAP_IN_LO + 1) % 2 ^ 64)) ∧
    (∀ m first cnt data, s.jobOf n = none ∨ s.waitsMembers n = false ∨ (∃ j, s.jobOf n = some j ∧ 1 < j.e.qLen) →
      exec (.readyRecordArrival h m first cnt data) s = .next s) ∧
    (∀ m first cnt data j r, s.jobOf n = some j → x.step = some r → r.wait = .members → j.e.qLen ≤ 1 → ∃ u : State,
      exec (.readyRecordArrival h m first cnt data) s = .next (u.goOn n false) ∧ m ∈ (u.strm n).kv.ready ∧
      (u.strm n).step = some { r with
        parts := r.parts ++ [{
          first := first
          count := cnt
          kvh := 0
          heads := j.d.kvh
          parts := partsOf j.d.dv (j.e.qLen * j.d.heads) data }] } ∧ (∀ k, k ≠ n → u.strm k = s.strm k) ∧
      u = { s with streams := u.streams }) ∧
    (∀ layer block data, s.kvOf n = none ∨ x.step = none ∨ x.kv.ringLost = true ∨
      (∃ k, s.kvOf n = some k ∧ (k.spread = false ∨ s.ownBlock n k block = true)) ∨
      x.kv.ringBlocks.any (fun b => b.1 == layer && b.2.1 == block) = true →
      exec (.ringBlockReceive h layer block data) s = .next s) ∧
    (∀ layer block data k, s.kvOf n = some k → k.spread = true → x.step.isSome = true → s.ownBlock n k block = false →
      x.kv.ringLost = false → x.kv.ringBlocks.any (fun b => b.1 == layer && b.2.1 == block) = false → ∃ t : State,
      exec (.ringBlockReceive h layer block data) s = .next (if s.waitsMembers n then t.goOn n false else t) ∧
      t.strm n = { x with
        kv := { x.kv with
          ringBlocks := x.kv.ringBlocks ++ [(layer, block, data)]
          ringSent := if k.memberOf block = (s.meOf n k + 1) % k.span then x.kv.ringSent
            else x.kv.ringSent ++ [(layer, block)] } } ∧ (∀ j, j ≠ n → t.strm j = s.strm j) ∧
        t = { s with streams := t.streams }) ∧
    (s.waitsMembers n = false ∨ x.kv.ring = false → exec (.ringTimeout h) s = .next s) ∧
    (∀ r, x.step = some r → r.wait = .members → x.kv.ring = true → ∃ t, exec (.ringTimeout h) s = .next t ∧
      t.rn Reg.KVC_RING_TMO = min (s.rn Reg.KVC_RING_TMO + 1) 0xFFFFFFFF ∧ t.rbit Reg.KVC_INT_STATUS 2 = true ∧
      t.strm n = { x with
        kv := { x.kv with
          ring := false
          ringLost := true }
        step := some { r with
          status := 5 :: r.status
          stop := true
          wait := .done } } ∧ (∀ j, j ≠ n → t.strm j = s.strm j) ∧ t.mem = s.mem ∧
      t.tb = (s.reach (r.waitTb + 1000 * max 1 (s.fld Reg.KVC_RING_TIMEOUT 0 16))).tb)) ∧
  (∀ (s : State) (d : Fin 4) (i : Fin 5) (v : Word), s.halted = false → ∃ t, exec (.kvpLowWrite d i v) s = .next t ∧
    t.reg (Reg.KVP_LOWi d i) = BitVec.ofNat 32 (s.kvpFree d i) ∧ OnlyRegs [Reg.KVP_LOWi d i] s t)

/-- A placed Crest's decision that comes within the 80 ms of its request confirms it and puts the channel in DUNE, its
confidence at least CONF_MIN, or rejects it and returns the channel to RIPPLE with its hold-off; a later one, like a
timeout, at which the timebase has reached the limit, ends it TIMEOUT and returns the channel to RIPPLE. Each is
counted, recorded with the request's instant, and then the instance is closed, which with nothing else waiting takes
it off its cluster and touches no stream, byte or channel. A release returns a channel in DUNE to RIPPLE. A write of
RPL_CH_SRC with KIND 3 or beyond the network channels has no effect; else the source changes with the ring emptied,
at once for a channel that is off or between frames, a request in progress ending ABANDONED, and at the next
boundary otherwise. Without a request, a placed instance or DUNE the event changes nothing. The decision's values
are open (log 4). -/
def Obligations.ListeningRequestsEndWithOutcomes : Prop :=
  ∀ (s : State) (ch : Nat) (c : Channel), s.halted = false → c = s.chan ch →
    (c.crest = none → exec (.crestDecision ch) s = .next s ∧ exec (.crestTimeout ch) s = .next s) ∧
    (∀ r, c.crest = some r → r.placed = none → exec (.crestDecision ch) s = .next s) ∧
    (∀ r v i, c.crest = some r → (i = .crestTimeout ch ∧ v = { s with
          tb := if s.tb.toNat < r.tb.toNat + 80000000 then BitVec.ofNat 64 (r.tb.toNat + 80000000) else s.tb }) ∨
        (i = .crestDecision ch ∧ v = s ∧ r.placed.isSome = true ∧ r.tb.toNat + 80000000 < s.tb.toNat) →
      ∃ u : State, exec i s = .next (u.closeCrest ch) ∧ OnlyChan s u ch (s.rippled c) ∧
        u.rn Reg.RPL_TIMEOUT = min (s.rn Reg.RPL_TIMEOUT + 1) 0xFFFFFFFF ∧
        Recorded .cascade (v.eventBytes ch r.group { type := 3, degraded := r.degraded, phrase := r.phrase, end_ := r.phraseEnd, req := r.tb }) s u ∧
        u.tb = v.tb ∧ u.place = s.place ∧ u.streams = s.streams) ∧
    (∀ r, c.crest = some r → r.placed.isSome = true → s.tb.toNat ≤ r.tb.toNat + 80000000 →
      ∃ (u : State) (ok : Bool) (ph lang conf : Nat), exec (.crestDecision ch) s = .next (u.closeCrest ch) ∧
      (ok = true → s.fld (Reg.RPL_Gg_CFG r.group) 24 8 ≤ conf) ∧
      OnlyChan s u ch (if ok then { c with st := .dune, crest := none } else s.rippled c) ∧
      (if ok then u.rn Reg.RPL_CONFIRM = min (s.rn Reg.RPL_CONFIRM + 1) 0xFFFFFFFF
        else u.rn Reg.RPL_REJECT = min (s.rn Reg.RPL_REJECT + 1) 0xFFFFFFFF) ∧
      Recorded .cascade (s.eventBytes ch r.group { type := if ok then 1 else 2, degraded := r.degraded, phrase := ph, lang := lang, conf := conf, end_ := r.phraseEnd, req := r.tb }) s u ∧
      u.tb = s.tb ∧ u.place = s.place ∧ u.streams = s.streams) ∧
    (s.calm → (s.closeCrest ch).streams = s.streams ∧ (s.closeCrest ch).mem = s.mem ∧ (s.closeCrest ch).casc = s.casc ∧
      (s.closeCrest ch).tb = s.tb ∧ (s.closeCrest ch).place.crests = s.place.crests.filter (fun i => i.channel != ch)) ∧
    (c.st = .dune → ∃ t, exec (.channelRelease ch) s = .next t ∧ OnlyChan s t ch (s.rippled c) ∧ t = { s with casc := t.casc }) ∧
    (c.st ≠ .dune → exec (.channelRelease ch) s = .next s) ∧
    (∀ v : Word, 16384 ≤ ch ∨ bitsAt v.toNat 30 2 = 3 → exec (.rplChSrcWrite ch v) s = .next s) ∧
    (∀ v w : Word, ch < 16384 → bitsAt v.toNat 30 2 ≠ 3 →
      w.toNat = bitsAt v.toNat 30 2 * 2 ^ 30 + bitsAt v.toNat 24 3 * 2 ^ 24 + bitsAt v.toNat 16 5 * 2 ^ 16 →
      ∃ t, (w = c.src → exec (.rplChSrcWrite ch v) s = .next t ∧ OnlyChan s t ch { c with pendSrc := none } ∧
          t = { s with casc := t.casc }) ∧
        (w ≠ c.src → c.st ≠ .off → c.inbuf ≠ [] → exec (.rplChSrcWrite ch v) s = .next t ∧
          OnlyChan s t ch { c with pendSrc := some w } ∧ t = { s with casc := t.casc }) ∧
        (w ≠ c.src → c.st = .off ∨ c.inbuf = [] → c.crest = none → exec (.rplChSrcWrite ch v) s = .next t ∧
          OnlyChan s t ch { c.fresh with src := w, pendSrc := none,
                                         st := if s.groupOn c.group = true ∧ bitsAt v.toNat 30 2 ≠ 0 then (if c.st = .off then .ripple else c.st) else .off,
                                         hold := if (s.groupOn c.group = true ∧ bitsAt v.toNat 30 2 ≠ 0) ↔ c.st = .off then 0 else c.hold } ∧
          t = { s with casc := t.casc })) ∧
    (∀ (v w : Word) (r : CrestReq), ch < 16384 → bitsAt v.toNat 30 2 ≠ 3 → w ≠ c.src → c.st = .off ∨ c.inbuf = [] →
      w.toNat = bitsAt v.toNat 30 2 * 2 ^ 30 + bitsAt v.toNat 24 3 * 2 ^ 24 + bitsAt v.toNat 16 5 * 2 ^ 16 → c.crest = some r →
      ∃ u x : State, x = u.closeCrest ch ∧ exec (.rplChSrcWrite ch v) s = .next ((x.setChan ch { (x.chan ch).fresh with
          src := w
          pendSrc := none }).updateOn ch) ∧
        OnlyChan s u ch (s.rippled c) ∧ u.rn Reg.RPL_ABANDON = min (s.rn Reg.RPL_ABANDON + 1) 0xFFFFFFFF ∧
        Recorded .cascade (s.eventBytes ch r.group { type := 5, degraded := r.degraded, phrase := r.phrase, end_ := r.phraseEnd, req := r.tb }) s u ∧
        u.place = s.place ∧ u.streams = s.streams)

/-- Enabling a group loads its Ripple model: where the weight is present, readable and accepted, the group has it and
its channels with a source begin to listen, in RIPPLE with empty rings; otherwise EN reads 0 and GROUP_ERR is
raised. A new model of a group that is enabled waits on each of its channels for its frame boundary. Disabling a
group removes its model and its channels go off. ENROLL and ENROLL_DELETE without GO have no effect; of a group that
is not enabled they end REJECTED; deletion empties the slot; enrolment of a valid record fills it, of an invalid one
ends REJECTED and of an unreadable one FAULTED; a slot's change waits on each channel of the group for its frame
boundary. -/
def Obligations.GroupsEnableAndEnrol : Prop :=
  (∀ (s : State) (g : Fin 64) (v : Word), s.halted = false → ∃ u : State,
    exec (.groupEnable g v) s = .next (updateAll u (u.groupChans g)) ∧ u.streams = s.streams ∧
    (∀ ch, (u.chan ch).st = (s.chan ch).st ∧ (u.chan ch).ring = (s.chan ch).ring ∧ (u.chan ch).crest = (s.chan ch).crest) ∧
    (bitAt v.toNat 22 = false → u.reg (Reg.RPL_Gg_CFG g) = v ∧ SameRegs [Reg.RPL_Gg_CFG g] s u ∧ u.mem = s.mem ∧
      AMap.read (fun _ => none) u.casc.groupModels g.val = none) ∧
    (bitAt v.toNat 22 = true → s.groupOn g = true → s.fld (Reg.RPL_Gg_CFG g) 0 16 = bitsAt v.toNat 0 16 →
      u = s.setReg (Reg.RPL_Gg_CFG g) v) ∧
    (bitAt v.toNat 22 = true → s.groupOn g = false ∨ s.fld (Reg.RPL_Gg_CFG g) 0 16 ≠ bitsAt v.toNat 0 16 →
      ∀ l, l = (s.setReg (Reg.RPL_Gg_CFG g) v).loadModel (bitsAt v.toNat 0 16) →
        (∀ m, l.1 = some m → AMap.read (fun _ => none) u.casc.groupModels g.val = some m ∧ u.regs = l.2.regs ∧
          (s.groupOn g = true → ∀ ch ∈ s.groupChans g, (u.chan ch).pendModel = true)) ∧
        (l.1 = none → AMap.read (fun _ => none) u.casc.groupModels g.val = none ∧ u.groupOn g = false ∧
          u.rbit Reg.RPL_INT_STATUS 4 = true))) ∧
  (∀ (s : State) (ch : Nat) (c : Channel), c = s.chan ch →
    (c.crest = none → OnlyChan s (s.updateOn ch) ch ((s.updateOn ch).chan ch) ∧ s.updateOn ch = { s with casc := (s.updateOn ch).casc }) ∧
    (s.mayListen ch = true → c.st ≠ .off → s.updateOn ch = s) ∧ (s.mayListen ch = false → c.st = .off → s.updateOn ch = s) ∧
    (s.mayListen ch = true → c.st = .off → (s.updateOn ch).chan ch = { c.fresh with st := .ripple, hold := 0 }) ∧
    (s.mayListen ch = false → c.st ≠ .off → ((s.updateOn ch).chan ch).st = .off)) ∧
  (∀ (s : State) (g : Fin 64) (v : Word) (l : Option (List Byte) × State), s.halted = false →
    (∀ ch, (s.chan ch).group = g.val → (s.chan ch).crest = none) →
    (bitAt v.toNat 22 = true → s.groupOn g = false → l = (s.setReg (Reg.RPL_Gg_CFG g) v).loadModel (bitsAt v.toNat 0 16) →
      ∃ t, exec (.groupEnable g v) s = .next t ∧
        (∀ ch, (s.chan ch).group ≠ g.val → t.chan ch = s.chan ch) ∧ t.mem = l.2.mem ∧ t.streams = s.streams ∧
        (∀ m, l.1 = some m → AMap.read (fun _ => none) t.casc.groupModels g.val = some m ∧ t.reg (Reg.RPL_Gg_CFG g) = v ∧
          SameRegs [] l.2 t ∧
          ∀ ch < 16384, (s.chan ch).group = g.val → (s.chan ch).st = .off → (s.chan ch).kind = 1 ∨ (s.chan ch).kind = 2 →
            t.chan ch = { (s.chan ch).fresh with st := .ripple, hold := 0 }) ∧
        (l.1 = none → AMap.read (fun _ => none) t.casc.groupModels g.val = none ∧ t.groupOn g = false ∧
          t.rbit Reg.RPL_INT_STATUS 4 = true ∧ SameRegs [Reg.RPL_Gg_CFG g, Reg.RPL_INT_STATUS] l.2 t)) ∧
    (bitAt v.toNat 22 = false → ∃ t, exec (.groupEnable g v) s = .next t ∧ t.reg (Reg.RPL_Gg_CFG g) = v ∧
      AMap.read (fun _ => none) t.casc.groupModels g.val = none ∧ SameRegs [Reg.RPL_Gg_CFG g] s t ∧
      (∀ ch, (s.chan ch).group ≠ g.val → t.chan ch = s.chan ch) ∧
      (∀ ch ∈ s.groupChans g, (t.chan ch).st = .off) ∧ t = { s with
        regs := t.regs
        casc := t.casc })) ∧
  (∀ (s r : State) (v : Word) (g p st : Nat) (x : Option Phrase) (c : Instr), s.halted = false →
    c = .enroll v ∨ c = .enrollDelete v → g = bitsAt v.toNat 0 6 → p = bitsAt v.toNat 8 4 →
    (bitAt v.toNat 31 = false → exec c s = .next s) ∧
    (bitAt v.toNat 31 = true → s.groupOn g = false → ∃ t, exec c s = .next t ∧ t.fld Reg.RPL_STATUS 4 4 = 8 ∧
      t.rbit Reg.RPL_INT_STATUS 3 = true ∧ OnlyRegsIrq [Reg.RPL_STATUS, Reg.RPL_INT_STATUS] s t) ∧
    (∀ d : Rd, bitAt v.toNat 31 = true → s.groupOn g = true → d = s.readCtl (s.oasLoc 21 0) (s.pair Reg.RPL_ENR_ADDR_LO) 32 →
      r = (if bitAt v.toNat 12 then s else d.st) →
      (if bitAt v.toNat 12 then x = none ∧ st = 0
       else d.failed = false ∧ x.isSome = true ∧ x = parsePhrase d.bytes ∧ st = 0) →
      ∃ t, exec c s = .next t ∧ t.fld Reg.RPL_STATUS 4 4 = st ∧ t.rbit Reg.RPL_INT_STATUS 3 = true ∧
        AMap.read (fun _ => none) t.casc.phrases (g * 16 + p) = x ∧ t.rbit (Reg.RPL_Gg_PHR g) p = x.isSome ∧
        SameBits (Reg.RPL_Gg_PHR g) [p] r t ∧
        SameRegs [Reg.RPL_STATUS, Reg.RPL_INT_STATUS, Reg.RPL_Gg_PHR g] r t ∧ t.mem = r.mem ∧
        (∀ q, q ≠ g * 16 + p → AMap.read (fun _ => none) t.casc.phrases q = AMap.read (fun _ => none) s.casc.phrases q) ∧
        ∀ ch, t.chan ch = { s.chan ch with pendPhr := (t.chan ch).pendPhr } ∧
          (ch ∈ s.groupChans g → p ∈ (t.chan ch).pendPhr) ∧
          ((s.chan ch).group ≠ g → (t.chan ch).pendPhr = (s.chan ch).pendPhr)) ∧
    (∀ d : Rd, bitAt v.toNat 31 = true → s.groupOn g = true → bitAt v.toNat 12 = false →
      d = s.readCtl (s.oasLoc 21 0) (s.pair Reg.RPL_ENR_ADDR_LO) 32 → d.failed = true ∨ parsePhrase d.bytes = none →
      ∃ t, exec c s = .next t ∧ t.fld Reg.RPL_STATUS 4 4 = (if d.failed then 6 else 8) ∧ t.rbit Reg.RPL_INT_STATUS 3 = true ∧
        OnlyRegsIrq [Reg.RPL_STATUS, Reg.RPL_INT_STATUS] d.st t))

/-- A poll of a host input ring takes its whole frames, each with its samples, its end and its count; of a channel that
is off or has no host source it has no effect. A frame of a network channel, after what waited for its boundary,
puts its block in the pre-roll ring, leaves the encoder's value, counts in RPL_FRAMES and is tallied; a hold-off
counts down, a channel in RIPPLE without one may raise a request, which is counted, recorded and holds the decoded
pre-roll, and asks for a place or ends NO_ROOM, and a request in progress receives its live audio. An array's frame
with its clock stopped has no effect, and one to be discarded is discarded. PDM_CLOCK_START starts a due clock with
three frames to discard; ATTEND_BLOCK of a running path counts a block and its samples and puts it in the ring or
counts it dropped. -/
def Obligations.FramesReachTheCascade : Prop :=
  (∀ (s : State) (ch : Nat) (c : Channel), s.halted = false → c = s.chan ch →
    (16384 ≤ ch ∨ c.st = .off ∨ c.kind ≠ 2 → exec (.hostInputPoll ch) s = .next s) ∧
    (∀ (r d : Rd) (f k size lag : Nat), ch < 16384 → c.st ≠ .off → c.kind = 2 →
      r = s.readCtl (s.oasLoc 21 0) (s.pair Reg.RPL_HIN_BASE_LO + 16 * ch) 16 → r.failed = false →
      f = (r.bytes.getD 12 0).toNat → bitsAt f 6 2 ≠ 3 → k = (if bitsAt f 6 2 = 2 then 2 else 1) →
      size = 2 ^ max 8 (min 16 (bitsAt f 0 5)) → lag = (leVal ((r.bytes.drop 8).take 4) + 2 ^ 32 - c.readCount) % 2 ^ 32 →
      (lag < 80 → exec (.hostInputPoll ch) s = .next r.st) ∧
      (80 ≤ lag → lag < 160 → d = r.st.readRuns (r.st.oasLoc 21 0)
          (ringPieces (leVal (r.bytes.take 8)) (size * k) (c.readCount * k) (80 * k)) → d.failed = false →
        ∃ t, exec (.hostInputPoll ch) s = .next t ∧ t = { d.st with casc := t.casc } ∧
          OnlyChan s t ch { c with
            inbuf := c.inbuf ++ (List.range 80).map (fun i => hinValue (bitsAt f 6 2) ((d.bytes.drop (i * k)).take k))
            ends := c.ends ++ [s.tb]
            readCount := (c.readCount + 80) % 2 ^ 32 })) ∧
    (∀ (r : Rd) (f k size wr lag : Nat), ch < 16384 → c.st ≠ .off → c.kind = 2 →
      r = s.readCtl (s.oasLoc 21 0) (s.pair Reg.RPL_HIN_BASE_LO + 16 * ch) 16 → f = (r.bytes.getD 12 0).toNat →
      k = (if bitsAt f 6 2 = 2 then 2 else 1) → size = 2 ^ max 8 (min 16 (bitsAt f 0 5)) →
      wr = leVal ((r.bytes.drop 8).take 4) → lag = (wr + 2 ^ 32 - c.readCount) % 2 ^ 32 →
      (r.failed = true ∨ bitsAt f 6 2 = 3 → exec (.hostInputPoll ch) s = .next r.st) ∧
      (r.failed = false → bitsAt f 6 2 ≠ 3 → ∃ u : State,
        exec (.hostInputPoll ch) s = .next (takeFramesIn ch (leVal (r.bytes.take 8)) size (bitsAt f 6 2) (min size lag / 80) u) ∧
        u = { r.st with casc := u.casc } ∧ OnlyChan s u ch { c with
          readCount := if size < lag then (wr + 2 ^ 32 - size) % 2 ^ 32 else c.readCount })) ∧
    (∀ (d : Rd) (base size fmt k n : Nat), k = (if fmt = 2 then 2 else 1) →
      d = s.readRuns (s.oasLoc 21 0) (ringPieces base (size * k) (c.readCount * k) (80 * k)) →
      (d.failed = true → takeFramesIn ch base size fmt (n + 1) s = d.st) ∧
      (d.failed = false → ∃ u : State, takeFramesIn ch base size fmt (n + 1) s = takeFramesIn ch base size fmt n u ∧
        u = { d.st with casc := u.casc } ∧ OnlyChan s u ch { c with
          inbuf := c.inbuf ++ (List.range 80).map (fun i => hinValue fmt ((d.bytes.drop (i * k)).take k))
          ends := c.ends ++ [s.tb]
          readCount := (c.readCount + 80) % 2 ^ 32 })) ∧
    (∀ (pcm : List Int) (b : State) (x : Channel), ch < 16384 → b = s.boundary ch → x = b.chan ch →
      (x.st = .off ∨ x.ends = [] → exec (.rippleFrame ch pcm) s = .next b) ∧
      (∀ tb l, x.ends = tb :: l → x.st ≠ .off → exec (.rippleFrame ch pcm) s = .next ((b.setChan ch { x with
        inbuf := x.inbuf.drop 80
        ends := l }).rippleFrame ch (x.inbuf.take 80) tb))) ∧
    (∀ (x : List Int) (tb : Dword), c.st = .ripple → c.hold = 0 →
      ∃ (u : State) (ask : Option (Nat × Bool × Dword)),
        s.rippleFrame ch x tb = (match ask with | some (p, on, e) => u.crestRequest ch p on e | none => u) ∧
        (∀ p e, ask = some (p, true, e) → p = 0 ∧ e = tb ∧ bitAt c.cfg.toNat 6 = true) ∧
        (u.chan ch).ring = keepLast (if ch < 16384 then 100 else 400) (c.ring ++ [(encodeBlock c.xp x).1]) ∧
        (u.chan ch).xp = (encodeBlock c.xp x).2 ∧ (u.chan ch).st = .ripple ∧ (u.chan ch).src = c.src ∧
        (∀ k, k ≠ ch → u.chan k = s.chan k) ∧ u.pair Reg.RPL_FRAMES_LO = (s.pair Reg.RPL_FRAMES_LO + 1) % 2 ^ 64 ∧
        u = { s with
          regs := u.regs
          casc := u.casc
          meter := u.meter }) ∧
    (∀ (p : Nat) (on : Bool) (e : Dword) (w : State), w = (decodeRing ch s (keepLast (s.preroll c.group) c.ring)).2.2 →
      ∃ (u : State) (r : CrestReq), (u.chan ch).st = .crest ∧ (u.chan ch).crest = some r ∧ r.tb = s.tb ∧ r.phrase = p ∧ r.onset = on ∧
        r.phraseEnd = e ∧ r.group = c.group ∧ r.placed = none ∧
        r.pcm = (decodeRing ch s (keepLast (s.preroll c.group) c.ring)).1 ∧ (∀ k, k ≠ ch → u.chan k = s.chan k) ∧
        (∀ a, a = (if on then Reg.RPL_ONSET else Reg.RPL_MATCH) → u.rn a = min (s.rn a + 1) 0xFFFFFFFF) ∧
        Recorded .cascade (s.eventBytes ch c.group { type := 0, flag := on, phrase := p, end_ := e, req := s.tb }) w u ∧
        (∀ g, s.graphOf (s.fld (Reg.RPL_Gg_CREST c.group) 0 16) = g →
          (g = none ∨ (∃ x, g = some x ∧ (x.pool ≠ 0 ∨ x.ticked = false ∨ x.frame = false ∨ x.cost (s.preroll c.group) = none)) →
            s.crestRequest ch p on e = u.crestEnd ch 4 p 0 0) ∧
          (∀ x k ok v, g = some x → x.pool = 0 → x.ticked = true → x.frame = true → x.cost (s.preroll c.group) = some k →
            u.takeIn { src := .crest ch, cls := 7, graph := x.id, size := s.preroll c.group } ⟨x, 7, k⟩ = (ok, v) →
            s.crestRequest ch p on e = (if ok then v.asked else v.crestEnd ch 4 p 0 0)))) ∧
    (∀ pcm, ch < 16384 → c.pendSrc = none → c.pendCfg = none → c.pendModel = false → c.pendPhr = [] → c.damaged = false →
      (c.st = .off ∨ c.ends = [] → ∃ t, exec (.rippleFrame ch pcm) s = .next t ∧ OnlyChan s t ch c ∧ t = { s with casc := t.casc }) ∧
      (∀ tb l, c.ends = tb :: l → c.st ≠ .off → c.st ≠ .ripple ∨ c.hold ≠ 0 → ∃ t, exec (.rippleFrame ch pcm) s = .next t ∧
        (t.chan ch).ring = keepLast 100 (c.ring ++ [(encodeBlock c.xp (c.inbuf.take 80)).1]) ∧
        (t.chan ch).xp = (encodeBlock c.xp (c.inbuf.take 80)).2 ∧ (t.chan ch).st = c.st ∧ (t.chan ch).src = c.src ∧
        (t.chan ch).cfg = c.cfg ∧ (t.chan ch).inbuf = c.inbuf.drop 80 ∧ (t.chan ch).ends = l ∧
        (c.st = .ripple → (t.chan ch).hold = c.hold - 1) ∧
        (c.st = .crest → (t.chan ch).crest = c.crest.map (fun r =>
          if r.live < min 6 (s.fld (Reg.RPL_Gg_TIMING r.group) 12 4) then
            { r with live := r.live + 1, pcm := r.pcm ++ c.inbuf.take 80 } else r)) ∧
        (∀ k, k ≠ ch → t.chan k = s.chan k) ∧ t.pair Reg.RPL_FRAMES_LO = (s.pair Reg.RPL_FRAMES_LO + 1) % 2 ^ 64 ∧
        SameRegs [Reg.RPL_FRAMES_LO, Reg.RPL_FRAMES_LO + 4] s t ∧ t = { s with
          regs := t.regs
          casc := t.casc
          meter := t.meter }))) ∧
  (∀ (s : State) (a : Fin 4) (x : MicArray), s.halted = false → x = s.arr a →
    (∀ pcm, x.clkRun = false → exec (.rippleFrame (16384 + a) pcm) s = .next s) ∧
    (∀ pcm c, c = s.chan (16384 + a) → x.clkRun = true → s.casc.calibPend = [] → (∀ m < 16, s.rbit (Reg.ACF_CALm m) 31 = false) →
      c.pendSrc = none → c.pendCfg = none → c.pendModel = false → c.pendPhr = [] → c.damaged = false → c.st = .off →
      1 < c.discard → ∃ t, exec (.rippleFrame (16384 + a) pcm) s = .next t ∧
        OnlyChan s t (16384 + a) { c with discard := c.discard - 1 } ∧
        t.arr a = { x with index := if x.hqRun then x.index else x.index + s.arrSamples a } ∧ t.mem = s.mem ∧
        SameRegs [Reg.ACF_STATUS] s t) ∧
    (x.clkDue = false → exec (.pdmClockStart a) s = .next s) ∧
    (x.clkDue = true → ∃ t, exec (.pdmClockStart a) s = .next t ∧
      t.arr a = { x with clkDue := false, clkRun := true, index := 0, hqRun := x.mode == 2, hqBlocks := 0, hqLast := false, hist := [] } ∧
      OnlyChan s t (16384 + a) { s.chan (16384 + a) with discard := 3 } ∧ (∀ k, k ≠ a.val → t.arr k = s.arr k) ∧
      t.rbit Reg.ACF_STATUS (12 + a) = true ∧ SameRegs [Reg.ACF_STATUS] s t ∧ t = { s with
        regs := t.regs
        casc := t.casc }) ∧
    (∀ pcm, x.hqRun = false → exec (.attendBlock a pcm) s = .next s) ∧
    (∀ pcm, x.hqRun = true → ∃ t, exec (.attendBlock a pcm) s = .next t ∧ (t.arr a).hqBlocks = x.hqBlocks + 1 ∧
      (t.arr a).index = x.index + s.arrSamples a ∧ (t.arr a).mode = x.mode ∧ (t.arr a).hqRun = !x.hqLast ∧
      (t.arr a).hqLast = false ∧ (∀ k, k ≠ a.val → t.arr k = s.arr k) ∧ t.casc.chans = s.casc.chans ∧
      (s.ringTakes (.attend a) = true → t.rn (Reg.ACF_Aa_HEAD a) = (s.rn (Reg.ACF_Aa_HEAD a) + 1) % 2 ^ 32) ∧
      (s.ringTakes (.attend a) = false → t.rn (Reg.ACF_Aa_DROP a) = min (s.rn (Reg.ACF_Aa_DROP a) + 1) 0xFFFFFFFF ∧
        t.mem = s.mem) ∧
      (∀ k n slot b, k = ((List.range 16).filter (fun m => bitAt (s.arrMics a) m)).length → n = s.arrSamples a →
        slot = (32 + 4 * k * n + 63) / 64 * 64 → b = s.pair (Reg.ACF_Aa_RING_BASE_LO a) +
          s.rn (Reg.ACF_Aa_HEAD a) % 2 ^ s.ringLog (.attend a) * slot → s.ringTakes (.attend a) = true →
        inOnePlace b (32 + 4 * k * n) = true → placeOf b ≠ .regs → s.sound b (32 + 4 * k * n) →
        t.bytes b 32 = leBytes 8 (s.tb - 10000000#64).toNat ++ leBytes 8 x.index ++ leBytes 2 (s.arrMics a) ++ leBytes 1 k
          ++ leBytes 1 (4 * b2n (decide (x.hqBlocks < 2)) + 2 * b2n x.hqLast + b2n (x.hqBlocks == 0)) ++ leBytes 2 n
          ++ List.replicate 10 0 ∧ SameBytes b (32 + 4 * k * n) s t)))

/-- A write of ACF_MODE requests a mode of an array; an array without microphones, mode 3, and ATTEND where the image
does not allow it are ignored, and a request of the mode it has clears what waits. At the array's frame boundary a
pending change takes effect: the mode changes, the interrupt is raised, the event recorded and a clock from OFF
becomes due. A change down while a partial match is held waits for up to 2 s, and one to OFF while a Crest request
is in progress waits; the wait counts once. -/
def Obligations.ArrayModesAreRequestedAndTaken : Prop :=
  ∀ (s : State) (a : Fin 4) (x : MicArray) (c : Channel), s.halted = false → x = s.arr a → c = s.chan (16384 + a) →
    (∀ (v : Word) (m : Nat), m = bitsAt v.toNat (2 * a) 2 →
      (s.arrMics a = 0 ∨ m = 3 ∨ m = 2 ∧ s.rbit (Reg.ACF_Aa_CFG a) 3 = false → exec (.acfModeWrite a v) s = .next s) ∧
      (s.arrMics a ≠ 0 → m ≠ 3 → m = 2 → s.rbit (Reg.ACF_Aa_CFG a) 3 = true → ∃ t, exec (.acfModeWrite a v) s = .next t ∧
        t.arr a = { x with pending := if m = x.mode then none else some { mode := m, tb := s.tb } } ∧
        t.fld Reg.ACF_MODE (2 * a) 2 = m) ∧
      (s.arrMics a ≠ 0 → m < 2 → ∃ t, exec (.acfModeWrite a v) s = .next t ∧
        t.arr a = { x with pending := if m = x.mode then none else some { mode := m, tb := s.tb } } ∧
        (∀ k, k ≠ a.val → t.arr k = s.arr k) ∧ t.fld Reg.ACF_MODE (2 * a) 2 = m ∧
        SameRegs [Reg.ACF_MODE, Reg.ACF_STATUS] s t ∧ t.casc.chans = s.casc.chans ∧ t = { s with
          regs := t.regs
          casc := t.casc })) ∧
    (x.pending = none → exec (.acfModeChange a) s = .next s) ∧
    (∀ r, x.pending = some r →
      ((r.mode < x.mode ∧ c.partial_ = true ∧ s.tb.toNat < r.tb.toNat + 2000000000) ∨ (r.mode = 0 ∧ c.crest.isSome = true) →
        (r.deferred = true → exec (.acfModeChange a) s = .next s) ∧
        (r.deferred = false → ∃ t, exec (.acfModeChange a) s = .next t ∧
          t.arr a = { x with pending := some { r with deferred := true } } ∧ (∀ k, k ≠ a.val → t.arr k = s.arr k) ∧
          t.rn (Reg.ACF_Aa_DEFER a) = min (s.rn (Reg.ACF_Aa_DEFER a) + 1) 0xFFFFFFFF ∧
          SameRegs [Reg.ACF_Aa_DEFER a, Reg.ACF_STATUS, Reg.ACF_INT_STATUS] s t ∧ t.casc.chans = s.casc.chans ∧ t.mem = s.mem)) ∧
      (¬((r.mode < x.mode ∧ c.partial_ = true ∧ s.tb.toNat < r.tb.toNat + 2000000000) ∨ (r.mode = 0 ∧ c.crest.isSome = true)) →
        ∃ t : State, exec (.acfModeChange a) s = .next (t.updateOn (16384 + a)) ∧ (t.arr a).mode = r.mode ∧
          (t.arr a).pending = none ∧ (t.arr a).clkDue = (x.mode == 0) ∧ (t.arr a).clkRun = (x.clkRun && r.mode != 0) ∧
          t.rbit Reg.ACF_INT_STATUS a = true ∧
          Recorded .cascade (s.eventBytes (16384 + a) c.group { type := 6, flag := decide (r.mode < x.mode) && c.partial_, phrase := 4 * a + r.mode, req := r.tb }) s t ∧
          (∀ k, k ≠ a.val → t.arr k = s.arr k) ∧ (∀ k, t.chan k = s.chan k) ∧ t.streams = s.streams ∧
          (c.crest = none → OnlyChan t (t.updateOn (16384 + a)) (16384 + a) ((t.updateOn (16384 + a)).chan (16384 + a)) ∧
            t.updateOn (16384 + a) = { t with casc := (t.updateOn (16384 + a)).casc })))

/-- RUN set in SAP_Pn_CTRL of a leader starts every port of its group at frame 0 in LEAD; RUN cleared begins the stop of
each, with TAIL frames of zeros; a member's or unused port's RUN is ignored. A frame advances the frame number of
every port of the group, shows LEAD, RUN or STOP, and sends every slot of the port; outside lead and tail an enabled
bound slot of a master's frame sends its sample of that frame, and an IDLE one without a sample zero. When the tail
has been sent every port of the group is stopped, with its queued samples dropped and STOPPED raised. A frame or a
completion that is not due has no effect. -/
def Obligations.AudioPortsStartFrameAndStop : Prop :=
  ∀ (s : State) (n : Fin 8) (p : Port), s.halted = false → p = s.port n →
    (∀ (v : Word) (c : Instr), c = .portStart n v ∨ c = .portStop n v ∨ c = .trimClr n v →
      (bitAt v.toNat 2 = false → (s.sapUsed n = false ∧ p.running = false) ∨ s.sapLeader n ≠ n → ∃ t, exec c s = .next t ∧
        t.rbit (Reg.SAP_Pn_CTRL n) 1 = bitAt v.toNat 1 ∧ SameBits (Reg.SAP_Pn_CTRL n) [1] s t ∧ OnlyRegs [Reg.SAP_Pn_CTRL n] s t) ∧
      (bitAt v.toNat 2 = false → bitAt v.toNat 0 = true → s.sapUsed n = true → s.sapLeader n = n → p.running = false →
        ∃ t, exec c s = .next t ∧ t.rbit (Reg.SAP_Pn_CTRL n) 0 = true ∧ t.rbit (Reg.SAP_Pn_CTRL n) 1 = bitAt v.toNat 1 ∧
          (∀ m ∈ s.sapGroup n, (t.port m).running = true ∧ (t.port m).fresh = true ∧ (t.port m).tail = none ∧
            (t.port m).txBytes = 0 ∧ (t.port m).rxBytes = 0 ∧ (t.port m).txShadow = (s.port m).txShadow ∧
            (t.port m).bindShadow = (s.port m).bindShadow ∧ (t.port m).trim = (s.port m).trim ∧
            t.pair (Reg.SAP_Pn_FRAME_LO m) = 0 ∧ t.fld (Reg.SAP_Pn_STATUS m) 0 3 = 1) ∧
          (∀ m, m ∉ s.sapGroup n → t.port m = s.port m) ∧
          SameRegs (Reg.SAP_Pn_CTRL n :: (s.sapGroup n).flatMap (fun m =>
            [Reg.SAP_Pn_FRAME_LO m, Reg.SAP_Pn_FRAME_LO m + 4, Reg.SAP_Pn_STATUS m])) s t ∧ t = { s with
              regs := t.regs
              ports := t.ports }) ∧
      (bitAt v.toNat 2 = false → bitAt v.toNat 0 = false → s.sapLeader n = n → p.running = true → p.tail = none →
        ∃ t, exec c s = .next t ∧ t.rbit (Reg.SAP_Pn_CTRL n) 0 = false ∧
          (∀ m ∈ s.sapGroup n, t.port m = { s.port m with tail := some (s.sapTail n) } ∧ t.fld (Reg.SAP_Pn_STATUS m) 0 3 = 3) ∧
          (∀ m, m ∉ s.sapGroup n → t.port m = s.port m) ∧
          SameRegs (Reg.SAP_Pn_CTRL n :: (s.sapGroup n).map Reg.SAP_Pn_STATUS) s t ∧ t = { s with
              regs := t.regs
              ports := t.ports }) ∧
      (bitAt v.toNat 2 = true → bitAt v.toNat 0 = p.running → ∃ t, exec c s = .next t ∧ t.port n = { p with trim := 0 } ∧
        t.reg (Reg.SAP_Pn_TRIM n) = 0 ∧ t.rbit (Reg.SAP_Pn_STATUS n) 6 = false ∧ (∀ m, m ≠ n.val → t.port m = s.port m) ∧
        SameBits (Reg.SAP_Pn_STATUS n) [6] s t ∧
        SameRegs [Reg.SAP_Pn_CTRL n, Reg.SAP_Pn_TRIM n, Reg.SAP_Pn_STATUS n] s t ∧ t = { s with
          regs := t.regs
          ports := t.ports })) ∧
    (∀ rx, p.running = false ∨ s.sapLeader n ≠ n ∨ p.tail = some 0 → exec (.portFrame n rx) s = .next s) ∧
    (∀ rx f, p.running = true → s.sapLeader n = n → p.tail ≠ some 0 →
      f = (if p.fresh then 0 else (s.sapFrame n + 1) % 2 ^ 64) → ∃ t, exec (.portFrame n rx) s = .next t ∧
        (∀ m ∈ s.sapGroup n, t.pair (Reg.SAP_Pn_FRAME_LO m) = f ∧ (t.port m).running = (s.port m).running ∧
          (t.port m).fresh = false ∧ (t.port m).tail = (s.port m).tail.map (fun k => k - 1) ∧
          (t.port m).wire.length = s.sapSlots m ∧
          t.fld (Reg.SAP_Pn_STATUS m) 0 3 = (if (s.port m).tail.isSome then 3 else if f < s.sapLead n then 1 else 2)) ∧
        (∀ m, m ∉ s.sapGroup n → t.port m = s.port m) ∧ t.streams = s.streams ∧
        (s.sapMaster n = true → s.sapGroup n = [n.val] → p.fresh = false → p.txShadow = none → p.bindShadow = [] →
          p.tail = none → s.sapLead n ≤ f → ∀ i < s.sapSlots n,
          (∀ h x deg, bitAt (s.rn (Reg.SAP_Pn_TXMASK n)) i = true → (p.slot i).bound = some h →
            (p.slot i).fifo.find? (fun e => e.1 == f) = some (f, x, deg) →
            (t.port n).wire[i]? = some (some (s.slotBitsOf n (if f ∈ (p.slot i).bad then 0 else x)))) ∧
          (∀ h, bitAt (s.rn (Reg.SAP_Pn_TXMASK n)) i = true → (p.slot i).bound = some h → (p.slot i).st = .idle →
            (p.slot i).fifo = [] → (t.port n).wire[i]? = some (some (s.slotBitsOf n 0))) ∧
          (bitAt (s.rn (Reg.SAP_Pn_TXMASK n)) i = false →
            (t.port n).wire[i]? = some (if s.rbit (Reg.SAP_Pn_CFG n) 16 then none else some 0)))) ∧
    (p.running = false ∨ s.sapLeader n ≠ n ∨ p.tail ≠ some 0 → exec (.portStopComplete n) s = .next s) ∧
    (p.running = true → s.sapLeader n = n → p.tail = some 0 → s.rbit (Reg.SAP_Pn_CTRL n) 0 = false →
      ∃ t, exec (.portStopComplete n) s = .next t ∧
        (∀ m ∈ s.sapGroup n, (t.port m).running = false ∧ (t.port m).tail = none ∧ (t.port m).wire = [] ∧
          t.fld (Reg.SAP_Pn_STATUS m) 0 3 = 0 ∧ t.rbit (Reg.SAP_Pn_INT_STATUS m) 8 = true) ∧
        (∀ m, m ∉ s.sapGroup n → t.port m = s.port m) ∧ t.streams = s.streams)

/-- A sample that reaches a slot bound to a stream is queued for its frame, clamped to the port's linear range; while
the port does not run, or is stopping, it is dropped and counted, as is one too far ahead, and one whose frame has
passed counts as late. A write of a mask is held until the next frame sync. After a whole window the steering of a
master moves the trim by GAIN times the mean level's distance from the setpoint, within 3,200, unless its reference
slot is not live, missed a sample, or HOLD is set. A measured rate that differs in class or by more than 0.5 % is
shown and counted. Lost sync is shown on every port of the group. SAP_CNT_CLR clears the counters of the ports whose
bits are 1. -/
def Obligations.AudioSamplesMasksAndRates : Prop :=
  (∀ (s : State) (n : Fin 8) (p : Port), s.halted = false → p = s.port n →
    (∀ (i : Fin 32) (k : Nat) (x y : Int) (deg : Bool) (f a : Nat), f = s.sapFrame n →
      y = clampInt (-(2 ^ (s.linBits n - 1))) (2 ^ (s.linBits n - 1) - 1) x →
      (p.boundTo i = none → exec (.slotSampleArrival n i k x deg) s = .next s) ∧
      ((p.boundTo i).isSome = true → p.running = false ∨ p.tail.isSome = true → ∃ t,
        exec (.slotSampleArrival n i k x deg) s = .next t ∧
        t.rn (Reg.SAP_Pn_TX_DROP n) = min (s.rn (Reg.SAP_Pn_TX_DROP n) + 1) 0xFFFFFFFF ∧
        t.rbit (Reg.SAP_Pn_INT_STATUS n) 4 = true ∧ ((t.port n).slot i).fifo = (p.slot i).fifo ∧
        SameRegs [Reg.SAP_Pn_TX_DROP n, Reg.SAP_Pn_INT_STATUS n] s t ∧ t.mem = s.mem) ∧
      ((p.boundTo i).isSome = true → p.running = true → p.tail = none →
        a = ((p.slot i).next.map (fun j => j + k)).getD (max (f + s.sapSetpoint n) (s.sapLead n)) → ∃ t,
        exec (.slotSampleArrival n i k x deg) s = .next t ∧ ((t.port n).slot i).next = some (a + 1) ∧
        ((t.port n).slot i).bound = (p.slot i).bound ∧ (∀ j, j ≠ i.val → (t.port n).slot j = p.slot j) ∧
        (∀ m, m ≠ n.val → t.port m = s.port m) ∧
        (f < a ∨ p.fresh = true → a < f + 256 → ((t.port n).slot i).fifo = (p.slot i).fifo ++ [(a, y, deg)] ∧
          t = { s with ports := t.ports }) ∧
        (a ≤ f → p.fresh = false → ((t.port n).slot i).fifo = (p.slot i).fifo ∧
          t.rn (Reg.SAP_Pn_LATE_DISC n) = min (s.rn (Reg.SAP_Pn_LATE_DISC n) + 1) 0xFFFFFFFF ∧
          t.rbit (Reg.SAP_Pn_INT_STATUS n) 3 = true ∧ SameRegs [Reg.SAP_Pn_LATE_DISC n, Reg.SAP_Pn_INT_STATUS n] s t) ∧
        (f + 256 ≤ a → ((t.port n).slot i).fifo = (p.slot i).fifo ∧
          t.rn (Reg.SAP_Pn_TX_DROP n) = min (s.rn (Reg.SAP_Pn_TX_DROP n) + 1) 0xFFFFFFFF ∧
          t.rbit (Reg.SAP_Pn_INT_STATUS n) 4 = true ∧ SameRegs [Reg.SAP_Pn_TX_DROP n, Reg.SAP_Pn_INT_STATUS n] s t))) ∧
    (∀ v, ∃ t u, exec (.txmaskWrite n v) s = .next t ∧ t.port n = { p with txShadow := some v } ∧
      t.rbit (Reg.SAP_Pn_STATUS n) 4 = true ∧ exec (.rxmaskWrite n v) s = .next u ∧ u.port n = { p with rxShadow := some v } ∧
      u.rbit (Reg.SAP_Pn_STATUS n) 5 = true ∧ ∀ w : State, w = t ∨ w = u → (∀ m, m ≠ n.val → w.port m = s.port m) ∧
        SameBits (Reg.SAP_Pn_STATUS n) [4, 5] s w ∧ SameRegs [Reg.SAP_Pn_STATUS n] s w ∧ w = { s with
          regs := w.regs
          ports := w.ports }) ∧
    (∀ w, w = 2 ^ max 4 (min 12 (s.fld (Reg.SAP_Pn_STEER n) 6 4)) →
      (p.running = false ∨ s.sapMaster n = false ∨ s.rbit (Reg.SAP_Pn_STEER n) 15 = false ∨ p.steerN < w →
        exec (.steerUpdate n) s = .next s) ∧
      (p.running = true → s.sapMaster n = true → s.rbit (Reg.SAP_Pn_STEER n) 15 = true → w ≤ p.steerN → ∃ t,
        exec (.steerUpdate n) s = .next t ∧ (∀ m, m ≠ n.val → t.port m = s.port m) ∧
        (s.refLive n = false ∨ p.steerUnder = true ∨ s.rbit (Reg.SAP_Pn_CTRL n) 1 = true →
          t.port n = { p with steerSum := 0, steerN := 0, steerUnder := false } ∧ t = { s with ports := t.ports }) ∧
        (∀ z : Int, s.refLive n = true → p.steerUnder = false → s.rbit (Reg.SAP_Pn_CTRL n) 1 = false →
          z = clampInt (-3200) 3200 (p.trim + (s.fld (Reg.SAP_Pn_STEER n) 0 6 : Int) * (p.steerSum / (w : Int) - (s.sapSetpoint n : Int))) →
          t.port n = { p with steerSum := 0, steerN := 0, steerUnder := false, trim := z } ∧
          t.reg (Reg.SAP_Pn_TRIM n) = BitVec.ofInt 32 z ∧ t.rbit (Reg.SAP_Pn_STATUS n) 6 = (z.natAbs == 3200) ∧
          (z.natAbs = 3200 → z ≠ p.trim → t.rbit (Reg.SAP_Pn_INT_STATUS n) 7 = true) ∧
          SameRegs [Reg.SAP_Pn_TRIM n, Reg.SAP_Pn_STATUS n, Reg.SAP_Pn_INT_STATUS n] s t ∧ t.mem = s.mem))) ∧
    (p.rateRun = none → exec (.rateMeasure n) s = .next s) ∧
    (∀ d rate : Nat, p.rateRun = some d → rate = min 0xFFFFF (if d = 0 then 0xFFFFF else 256 * 16 * 10 ^ 9 / d) →
      ∃ t, exec (.rateMeasure n) s = .next t ∧ t.port n = { p with rateRun := none } ∧ (∀ m, m ≠ n.val → t.port m = s.port m) ∧
        (rateClass d = s.fld (Reg.SAP_Pn_RATE n) 20 4 →
          200 * ((rate : Int) - (s.fld (Reg.SAP_Pn_RATE n) 0 20 : Int)).natAbs ≤ s.fld (Reg.SAP_Pn_RATE n) 0 20 →
          t = { s with ports := t.ports }) ∧
        (rateClass d ≠ s.fld (Reg.SAP_Pn_RATE n) 20 4 ∨
          s.fld (Reg.SAP_Pn_RATE n) 0 20 < 200 * ((rate : Int) - (s.fld (Reg.SAP_Pn_RATE n) 0 20 : Int)).natAbs →
          t.fld (Reg.SAP_Pn_RATE n) 0 20 = rate ∧ t.fld (Reg.SAP_Pn_RATE n) 20 4 = rateClass d ∧
          t.rn (Reg.SAP_Pn_RATE_CHG n) = min (s.rn (Reg.SAP_Pn_RATE_CHG n) + 1) 0xFFFFFFFF ∧
          t.rbit (Reg.SAP_Pn_INT_STATUS n) 0 = true ∧
          SameRegs [Reg.SAP_Pn_RATE n, Reg.SAP_Pn_RATE_CHG n, Reg.SAP_Pn_INT_STATUS n] s t ∧ t.mem = s.mem)) ∧
    (p.running = false ∨ s.sapMaster n = true ∨ s.sapLeader n ≠ n ∨ p.noSync = true → exec (.syncLost n) s = .next s) ∧
    (p.running = true → s.sapMaster n = false → s.sapLeader n = n → p.noSync = false → ∃ t, exec (.syncLost n) s = .next t ∧
      (∀ m ∈ s.sapGroup n, t.port m = { s.port m with noSync := true, rateN := 0, rateRun := none } ∧
        t.rn (Reg.SAP_Pn_RATE m) = 0 ∧ t.fld (Reg.SAP_Pn_STATUS m) 0 3 = 4 ∧ t.rbit (Reg.SAP_Pn_INT_STATUS m) 1 = true) ∧
      (∀ m, m ∉ s.sapGroup n → t.port m = s.port m) ∧ t.mem = s.mem ∧
      SameRegs ((s.sapGroup n).flatMap (fun m => [Reg.SAP_Pn_RATE m, Reg.SAP_Pn_STATUS m, Reg.SAP_Pn_INT_STATUS m])) s t)) ∧
  (∀ (s : State) (v : Word), s.halted = false → ∃ t, exec (.sapCntClr v) s = .next t ∧
    (∀ n < 8, ∀ a ∈ sapCounters n, t.reg a = if bitAt v.toNat n then 0 else s.reg a) ∧
    OnlyRegs ((List.range 8).flatMap sapCounters) s t)

/-- A cluster that is not awake, or has no item that could start, starts none. The first item starts, an urgent one at
once where nothing runs, else in place of the lowest item below class 6, or not at all where all that run are
urgent; one whose step yielded goes on, unless operations of it still lie saved, and a new one begins its step; the
item that gives way waits again, its units and cores freed and its step yielded. A victim that its step does not
keep is swapped out and counted, an admission whose victims are out lands, and streams just swapped out ask to be
restored; anything else only shows what is pending. At an aging tick waiting items age, and are promoted after
AGE_STEP; one that reaches class 6 is urgent, counted and raised, and one still waiting at a later tick counts as
missed; with GATE_DELAY 0 no region is gated, and a region idle for GATE_DELAY ticks is gated and its stores are
lost. A wake that completes shows its region awake and the units of its clusters that are in a pool idle, brings
saved state items back, lets the admissions that waited for it land and looks at its streams; of a region that does
not wake, or whose die sleeps, it has no effect. -/
def Obligations.PlacementStartsAgesGatesAndWakes : Prop :=
  (∀ (s : State) (cl : Fin 96) (l : List Item), s.halted = false →
    l = s.place.items.filter (fun i => i.cluster == cl.val && s.startable i) →
    (s.awake cl = false ∨ l = [] → exec (.itemStart cl) s = .next s) ∧
    (∀ i, s.awake cl = true → firstItem l = some i →
      (i.urgent = true → s.runningOn cl ≠ [] → itemVictim (s.runningOn cl) = none → exec (.itemStart cl) s = .next s) ∧
      (∀ v, i.urgent = true → itemVictim (s.runningOn cl) = some v →
        exec (.itemStart cl) s = .next ((s.preemptItem cl v.handle).startItem i)) ∧
      (i.urgent = false ∨ s.runningOn cl = [] → exec (.itemStart cl) s = .next (s.startItem i)))) ∧
  (∀ (s u : State) (i : Item) (l : List Item), l = s.place.items.map (fun j =>
      if j.handle = i.handle then { j with running := true, startOrder := s.place.starts } else j) →
    u = { s with place := { s.place with
      items := l
      starts := s.place.starts + 1 } } →
    (∀ g, (s.strm i.handle).step = none → s.graphOf (s.strm i.handle).graph = some g →
      s.startItem i = u.beginStep i.handle g 0) ∧
    (∀ r, (s.strm i.handle).step = some r → (s.wk i.cluster).saved.any (fun o => o.handle == i.handle) = true → s.startItem i = u) ∧
    (∀ r, (s.strm i.handle).step = some r → (s.wk i.cluster).saved.any (fun o => o.handle == i.handle) = false → ∃ t,
      t = s.startItem i ∧ (t.strm i.handle).step = some { r with yielded := false } ∧
      (∀ k, k ≠ i.handle → t.strm k = s.strm k) ∧ t = { u with streams := t.streams })) ∧
  (∀ (s : State) (cl h : Nat), cl < 96 → ∃ u : State, s.preemptItem cl h = leaveAll (u.runDue h) [h] ∧
    u.place.items = s.place.items.map (fun i => if i.handle = h then { i with running := false } else i) ∧
    (∀ r, (u.strm h).step = some r → r.yielded = true) ∧ (∀ k, k ≠ h → u.strm k = s.strm k) ∧ u.mem = s.mem ∧
    (∀ n ∈ coresOf cl, ∀ v, (u.core n).inv = some v → v.handle ≠ s.handleOf h) ∧
    (∀ j ∈ [0, 1, 2], ∀ o, AMap.read (fun _ => none) (u.wk cl).running j = some o → o.handle ≠ h)) ∧
  (∀ (s : State) (h : Word) (n : Nat) (x : Stream), s.halted = false → n = h.toNat → x = s.strm n →
    (x.victim = true → s.mayLeave n = true → exec (.preemptPlace h) s = .next ((s.swapOutStream n).settle).asked) ∧
    (x.victim = false ∨ s.mayLeave n = false → exec (.preemptPlace h) s = .next (s.settle).asked) ∧
    (x.victim = false ∨ s.mayLeave n = false → s.place.pend = [] → (∀ e ∈ s.streams, e.2.asks = false) →
      ∃ t, exec (.preemptPlace h) s = .next t ∧
      t.rbit Reg.PLC_STATUS 2 = false ∧ SameBits Reg.PLC_STATUS [2] s t ∧ OnlyRegs [Reg.PLC_STATUS] s t) ∧
    (∀ ch p, x.victim = false → s.place.pend = [p] → p.src = .crest ch → p.waking = false → (∀ e ∈ s.streams, e.2.asks = false) →
      (∀ g, s.graphOf p.graph = some g → g.storeIds = []) →
      (∀ v ∈ p.victims, (s.strm v).cluster ≠ some p.cluster) → ∃ t, exec (.preemptPlace h) s = .next t ∧ t.place.pend = [] ∧
        (∃ k, t.place.crests = s.place.crests ++ [{ channel := ch, graph := p.graph, cluster := p.cluster, cycles := k }]) ∧
        (t.chan ch).crest = (s.chan ch).crest.map (fun r => { r with placed := some p.cluster }) ∧
        t.rn Reg.PLC_ADMIT = min (s.rn Reg.PLC_ADMIT + 1) 0xFFFFFFFF ∧ (∀ k, k ≠ ch → t.chan k = s.chan k) ∧
        t.streams = s.streams ∧ t.mem = s.mem ∧ SameRegs [Reg.PLC_ADMIT, Reg.PLC_STATUS, Reg.PLC_INT_STATUS] s t) ∧
    (∀ cl g, x.cluster = some cl → s.graphOf x.graph = some g → x.fn < 64 → ∃ t, t = s.swapOutStream n ∧
      (t.strm n).cluster = none ∧ (t.strm n).victim = false ∧ (t.strm n).asks = true ∧
      (t.strm n).st = (if x.st = .paused then .paused else .swapped) ∧ (t.strm n).queue = x.queue ∧ (t.strm n).step = x.step ∧
      (∀ i ∈ t.place.items, i.handle ≠ n ∧ i ∈ s.place.items) ∧ (∀ k, k ≠ n → t.strm k = s.strm k) ∧
      t.rn Reg.STRM_PREEMPT = min (s.rn Reg.STRM_PREEMPT + 1) 0xFFFFFFFF)) ∧
  (∀ (s t : State), t = s.ageItems → t.place.items = s.place.items.map (Item.age1 s.ageStep (s.place.agingTicks + 1)) ∧
    t.place.agingTicks = s.place.agingTicks + 1 ∧ t.place.pend = s.place.pend ∧
    t.rn Reg.PLC_AGED = min (s.rn Reg.PLC_AGED + (s.place.items.filter (fun i =>
      !i.running && decide (i.cls < 6) && decide (s.ageStep ≤ i.age + 1))).length) 0xFFFFFFFF ∧
    t.rn Reg.PLC_URGENT = min (s.rn Reg.PLC_URGENT + (s.place.items.filter (fun i =>
      !i.running && i.cls == 5 && decide (s.ageStep ≤ i.age + 1))).length) 0xFFFFFFFF ∧
    SameRegs [Reg.PLC_AGED, Reg.PLC_URGENT, Reg.PLC_INT_STATUS] s t ∧ t.streams = s.streams ∧ t.mem = s.mem ∧
    (s.halted = false → exec .agingTick s = .next (gateIdle ((startUrgents t allClusters).countUrgentMiss) (List.range 16)))) ∧
  (∀ s : State, s.halted = false → s.structure_.prio.gateDelay = 0 →
    ((∀ i ∈ s.place.items, i.cls < 5 ∧ i.urgentSince = none) → ∃ t, exec .agingTick s = .next t ∧
      Aged s t (s.place.items.map (Item.age1 s.ageStep (s.place.agingTicks + 1))) ∧
      t.rn Reg.PLC_AGED = min (s.rn Reg.PLC_AGED +
        (s.place.items.filter (fun i => !i.running && decide (s.ageStep ≤ i.age + 1))).length) 0xFFFFFFFF ∧
      t.rn Reg.PLC_URGENT = s.rn Reg.PLC_URGENT ∧ t.rn Reg.PLC_URGENT_MISS = s.rn Reg.PLC_URGENT_MISS) ∧
    (∀ i, s.place.items = [i] → i.cls = 5 → i.running = false → s.ageStep ≤ i.age + 1 → s.awake i.cluster = false →
      ∃ t, exec .agingTick s = .next t ∧ Aged s t [{ i with
          waited := i.waited + 1
          age := 0
          cls := 6
          urgentSince := some (s.place.agingTicks + 1) }] ∧
        t.rn Reg.PLC_AGED = min (s.rn Reg.PLC_AGED + 1) 0xFFFFFFFF ∧
        t.rn Reg.PLC_URGENT = min (s.rn Reg.PLC_URGENT + 1) 0xFFFFFFFF ∧ t.rbit Reg.PLC_INT_STATUS 2 = true) ∧
    (∀ i u, s.place.items = [i] → i.cls = 6 → i.running = false → i.missed = false → i.urgentSince = some u →
      u ≤ s.place.agingTicks → s.awake i.cluster = false → ∃ t, exec .agingTick s = .next t ∧ Aged s t [{ i with
          waited := i.waited + 1
          missed := true }] ∧
        t.rn Reg.PLC_URGENT_MISS = min (s.rn Reg.PLC_URGENT_MISS + 1) 0xFFFFFFFF ∧ t.rbit Reg.PLC_INT_STATUS 3 = true)) ∧
  (∀ s : State, s.halted = false → s.place.items = [] → s.streams = [] → ∃ t, exec .agingTick s = .next t ∧ t.streams = [] ∧
    (∀ a < 0x10000000000, t.byte a = s.byte a) ∧
    ∀ j < 16, ∀ b, b = (s.rbit Reg.PLC_AWAKE j && s.regionIdle j && decide (s.structure_.prio.gateDelay ≠ 0) &&
        decide (s.structure_.prio.gateDelay ≤ AMap.read (fun _ => 0) s.place.idle j + 1)) →
      t.rbit Reg.PLC_AWAKE j = (s.rbit Reg.PLC_AWAKE j && !b) ∧
      (b = true → (∀ a, clusterStore (6 * j) ≤ a → a < clusterStore (6 * j + 6) → t.byte a = 0) ∧
        ∀ cl ∈ regionClusters j, t.fld (Reg.VEC_STATUS cl) 0 3 = 4 ∧ ∀ n ∈ coresOf cl, t.fld (Reg.NMD_STATUS n) 0 3 = 4)) ∧
  (∀ (s : State) (j : Fin 16), s.halted = false →
    (s.place.waking.contains j.val = false ∨ (s.die (j.val / 4)).night = true → exec (.regionWakeComplete j) s = .next s) ∧
    (s.place.waking.contains j.val = true → (s.die (j.val / 4)).night = false → ∃ u : State,
      exec (.regionWakeComplete j) s = .next (lookAll u.settle (u.regionStreams j)) ∧ u.rbit Reg.PLC_AWAKE j = true ∧
      u.place.waking = s.place.waking.filter (fun k => k != j.val) ∧
      u.place.pend = s.place.pend.map (fun x => if clRegion16 x.cluster = j.val then { x with waking := false } else x) ∧
      (∀ cl ∈ regionClusters j, s.clPool cl ≠ 7 → u.fld (Reg.VEC_STATUS cl) 0 3 = 0) ∧
      (∀ k, (u.strm k).queue = (s.strm k).queue ∧ (u.strm k).st = (s.strm k).st ∧ (u.strm k).step = (s.strm k).step ∧
        (u.strm k).cluster = (s.strm k).cluster) ∧
      (∀ k ∈ s.regionStreams j, (u.strm k).savedFrames = [] ∧ (u.strm k).savedUnit = none)) ∧
    (s.place.waking.contains j.val = true → (s.die (j.val / 4)).night = false → s.place.pend = [] → s.regionStreams j = [] →
      (∀ c ∈ s.place.crests, c.cluster ∉ regionClusters j) →
      ∃ t, exec (.regionWakeComplete j) s = .next t ∧ t.rbit Reg.PLC_AWAKE j = true ∧ SameBits Reg.PLC_AWAKE [j.val] s t ∧
        t.place.waking = s.place.waking.filter (fun k => k != j.val) ∧
        (∀ cl ∈ regionClusters j, s.clPool cl ≠ 7 →
          t.fld (Reg.VEC_STATUS cl) 0 3 = 0 ∧ ∀ n ∈ coresOf cl, t.fld (Reg.NMD_STATUS n) 0 3 = 0) ∧
        (∀ cl ∈ regionClusters j, s.clPool cl = 7 → t.fld (Reg.VEC_STATUS cl) 0 3 = s.fld (Reg.VEC_STATUS cl) 0 3) ∧
        SameRegs (Reg.PLC_AWAKE :: Reg.PLC_STATUS :: (regionClusters j).flatMap gateRegs) s t ∧ t = { s with
          regs := t.regs
          place := t.place }))

/-- A training attempt of a port in TRAIN that lacks a lane counts, the third lowers the rate tried; a full one sends a
HELLO with the package's identity and record and the port is in AUTH. A HELLO in AUTH is kept and answered with a
PROOF, the signature of both HELLOs' digest. A PROOF that passes brings the port up, one that does not leaves it
FAILED with AUTH_FAIL raised. Of a port that is up, an intact flit counts and a damaged one asks for a replay and
counts in RETRY; a link hello is sent and the peer's counts as heard or missed; a due fall shows DOWN, forgets the
peer and counts; an encrypted port re-keys with a fresh HELLO, of itself or when the peer's comes, answers it with a
PROOF and goes on when the peer's passes, or falls. A down port that is enabled trains again. In any other state the
event has no effect. -/
def Obligations.ErgPortsTrainAuthenticateAndFall : Prop :=
  ∀ (s : State) (n : Fin 16) (p : ErgPort), s.halted = false → p = s.eport n →
    (∀ lanes, s.portState n ≠ 1 → exec (.ergPortTrain n lanes) s = .next s) ∧
    (∀ lanes : Byte, s.portState n = 1 → bitsAt lanes.toNat 0 4 ≠ 15 → ∃ t, exec (.ergPortTrain n lanes) s = .next t ∧
      t.eport n = (if p.fails + 1 < 3 then { p with fails := p.fails + 1 }
        else { p with fails := 0, rateTry := min 2 (s.tryRate n + 1) }) ∧
      (∀ k, k ≠ n.val → t.eport k = s.eport k) ∧ t.fab.sent = s.fab.sent ∧ t = { s with fab := t.fab }) ∧
    (∀ lanes : Byte, s.portState n = 1 → bitsAt lanes.toNat 0 4 = 15 → ∃ t h, exec (.ergPortTrain n lanes) s = .next t ∧
      t.eport n = { p with fails := 0, own := some h, peer := none, missed := 0, badReplays := 0 } ∧
      h.ident = BitVec.ofNat 256 s.ident ∧ h.record = s.sec.idRecord ∧ t.fab.sent = (n.val, .hello h) :: s.fab.sent ∧
      t.portState n = 2 ∧ (p.rateTry ≤ 2 → t.fld (Reg.ERG_Pn_STATUS n) 4 2 = s.tryRate n) ∧
      t.rbit (Reg.ERG_Pn_STATUS n) 6 = (lanes != 0xFF#8) ∧ (∀ k, k ≠ n.val → t.eport k = s.eport k) ∧
      SameBits (Reg.ERG_Pn_STATUS n) [0, 1, 2, 4, 5, 6] s t ∧ SameRegs [Reg.ERG_Pn_STATUS n] s t ∧ t = { s with
        regs := t.regs
        fab := t.fab
        freeCtr := t.freeCtr }) ∧
    (∀ h enc, (s.portState n ≠ 2 ∧ s.secureUp n = false) ∨ (p.own = none ∧ (s.secureUp n = false ∨ p.rekey = true)) →
      exec (.ergHello n h enc) s = .next s) ∧
    (∀ h enc, s.secureUp n = true → p.rekey = false → ∃ (t : State) (o : Hello), exec (.ergHello n h enc) s = .next t ∧
      o.ident = BitVec.ofNat 256 s.ident ∧ t.eport n = { p with
        own := some o
        peer := some h
        peerEnc := enc
        txFlits := 0
        rxFlits := 0
        keys := p.keys + 1
        rekey := true } ∧
      t.fab.sent = (n.val, .proof (edSign s.sec.seed (helloDigest o h))) :: (n.val, .hello o) :: s.fab.sent ∧
      (∀ k, k ≠ n.val → t.eport k = s.eport k) ∧ t.portState n = 3) ∧
    (∀ h enc o, s.portState n = 2 ∨ (s.secureUp n = true ∧ p.rekey = true) → p.own = some o → ∃ t, exec (.ergHello n h enc) s = .next t ∧
      t.eport n = { p with peer := some h, peerEnc := enc } ∧
      t.fab.sent = (n.val, .proof (edSign s.sec.seed (helloDigest o h))) :: s.fab.sent ∧
      t.rn Reg.SEC_SIGNS = min (s.rn Reg.SEC_SIGNS + 1) 0xFFFFFFFF ∧ (∀ k, k ≠ n.val → t.eport k = s.eport k) ∧
      SameRegs [Reg.SEC_SIGNS, Reg.SEC_INT_STATUS] s t ∧ t.mem = s.mem) ∧
    (∀ b, (s.portState n ≠ 2 ∧ (s.secureUp n = false ∨ p.rekey = false)) ∨ p.own = none ∨ p.peer = none →
      exec (.ergProof n b) s = .next s) ∧
    (∀ b o h k, s.secureUp n = true → p.rekey = true → p.own = some o → p.peer = some h → s.checkPeer o h b = (true, k) → ∃ t,
      exec (.ergProof n b) s = .next t ∧ t.eport n = { p with rekey := false } ∧ t.portState n = 3 ∧
      (∀ j, j ≠ n.val → t.eport j = s.eport j)) ∧
    (∀ b o h, s.secureUp n = true → p.rekey = true → p.own = some o → p.peer = some h → (s.checkPeer o h b).1 = false → ∃ u : State,
      exec (.ergProof n b) s = .next u.floodLsa.converge ∧ u.portState n = 4 ∧ u.rbit Reg.ERG_INT_STATUS 5 = true ∧
      u.rbit Reg.ERG_INT_STATUS 4 = true ∧ u.eport n = { keys := p.keys }) ∧
    (∀ b o h k, s.portState n = 2 → p.own = some o → p.peer = some h → s.checkPeer o h b = (true, k) → ∃ u : State,
      exec (.ergProof n b) s = .next u.floodLsa.converge ∧ u.portState n = 3 ∧
      u.rbit (Reg.ERG_Pn_STATUS n) 7 = (s.rbit (Reg.ERG_Pn_CFG n) 3 || p.peerEnc) ∧
      u.eport n = { p with
        keys := p.keys + b2n (s.rbit (Reg.ERG_Pn_CFG n) 3 || p.peerEnc)
        rateTry := 0 } ∧
      u.rbit Reg.ERG_INT_STATUS 4 = true ∧ (∀ j, j ≠ n.val → u.eport j = s.eport j) ∧
      SameRegs [Reg.ERG_Pn_STATUS n, Reg.ERG_INT_STATUS] k u ∧ (s.ergState = 0 → u.floodLsa.converge = u)) ∧
    (∀ b o h, s.portState n = 2 → p.own = some o → p.peer = some h → (s.checkPeer o h b).1 = false → ∃ t,
      exec (.ergProof n b) s = .next t ∧ t.portState n = 4 ∧ t.rbit Reg.ERG_INT_STATUS 5 = true ∧ t.eport n = p) ∧
    (∀ x y, s.portState n ≠ 3 → exec (.flitReceive n x y) s = .next s) ∧
    (∀ x y : Bool, s.portState n = 3 → x = true → y = true ∨ s.rbit (Reg.ERG_Pn_STATUS n) 7 = false → ∃ t,
      exec (.flitReceive n x y) s = .next t ∧ t.eport n = { p with rxFlits := p.rxFlits + 1, badReplays := 0 } ∧
      (∀ k, k ≠ n.val → t.eport k = s.eport k) ∧ t.fab.sent = s.fab.sent ∧ t = { s with fab := t.fab }) ∧
    (∀ x y : Bool, s.portState n = 3 → x = false ∨ (y = false ∧ s.rbit (Reg.ERG_Pn_STATUS n) 7 = true) → ∃ t,
      exec (.flitReceive n x y) s = .next t ∧ t.eport n = { p with badReplays := p.badReplays + 1 } ∧
      t.fab.sent = (n.val, .replay p.rxFlits) :: s.fab.sent ∧
      t.rn (Reg.ERG_Pn_RETRY n) = min (s.rn (Reg.ERG_Pn_RETRY n) + 1) 0xFFFFFFFF ∧
      (∀ k, k ≠ n.val → t.eport k = s.eport k) ∧ SameRegs [Reg.ERG_Pn_RETRY n, Reg.ERG_INT_STATUS] s t ∧ t.mem = s.mem) ∧
    (∀ x, s.portState n ≠ 3 → exec (.linkHello n x) s = .next s) ∧
    (∀ x : Bool, s.portState n = 3 → ∃ t, exec (.linkHello n x) s = .next t ∧
      t.eport n = { p with missed := if x then 0 else p.missed + 1 } ∧ t.fab.sent = (n.val, .linkHello) :: s.fab.sent ∧
      (∀ k, k ≠ n.val → t.eport k = s.eport k) ∧ t = { s with fab := t.fab }) ∧
    (∀ x, s.portState n ≠ 3 ∨ s.downDue n x = false → exec (.ergPortDown n x) s = .next s) ∧
    (∀ x, s.portState n = 3 → s.downDue n x = true → ∃ u : State, exec (.ergPortDown n x) s = .next u.floodLsa.converge ∧
      u.rn (Reg.ERG_Pn_STATUS n) = 0 ∧ u.rn (Reg.ERG_Pn_PEER n) = 0 ∧ u.eport n = { keys := p.keys } ∧
      u.rbit Reg.ERG_INT_STATUS 4 = true ∧ u.rn (Reg.ERG_Pn_DOWN n) = min (s.rn (Reg.ERG_Pn_DOWN n) + 1) 0xFFFFFFFF ∧
      (∀ k, k ≠ n.val → u.eport k = s.eport k) ∧ (s.ergState = 0 → u.floodLsa.converge = u)) ∧
    (s.portState n ≠ 0 ∨ s.rbit (Reg.ERG_Pn_CFG n) 0 = false ∨ s.rbit Reg.ERG_CTRL 0 = false →
      exec (.ergRetrainTimer n) s = .next s) ∧
    (s.portState n = 0 → s.rbit (Reg.ERG_Pn_CFG n) 0 = true → s.rbit Reg.ERG_CTRL 0 = true → ∃ t,
      exec (.ergRetrainTimer n) s = .next t ∧ t.portState n = 1 ∧ SameBits (Reg.ERG_Pn_STATUS n) [0, 1, 2] s t ∧
      OnlyRegs [Reg.ERG_Pn_STATUS n] s t) ∧
    (s.portState n ≠ 3 ∨ s.rbit (Reg.ERG_Pn_STATUS n) 7 = false → exec (.ergRekey n) s = .next s) ∧
    (s.portState n = 3 → s.rbit (Reg.ERG_Pn_STATUS n) 7 = true → ∃ t h, exec (.ergRekey n) s = .next t ∧
      t.eport n = { p with own := some h, txFlits := 0, rxFlits := 0, keys := p.keys + 1, rekey := true } ∧
      h.ident = BitVec.ofNat 256 s.ident ∧ t.fab.sent = (n.val, .hello h) :: s.fab.sent ∧
      (∀ k, k ≠ n.val → t.eport k = s.eport k) ∧ t = { s with
        fab := t.fab
        freeCtr := t.freeCtr })

/-- A write of ERG_CTRL stores EN and AUTH, clears the counters with CNT_CLR and the unreachable counts with CNT_CLR or
UNR_CLR. EN cleared leaves the fabric, with no member and no grant; EN set, or REJOIN in CONFLICT, joins: the
package advertises itself and converges; alone it is its own anchor with the device ID it asks for. A flood sends
this package's advertisement, with the next sequence number, on every port that is up. A newer advertisement of
another member replaces the one held, is sent on to the other ports and the fabric converges; one that is not newer,
of this package itself, or on a port that is down has no effect. A stale advertisement is dropped after 4 ms. A
granted ID is taken while joining. -/
def Obligations.FabricMembersJoinFloodAndLeave : Prop :=
  (∀ (s : State) (v : Word) (c : Instr), s.halted = false → c = .ergJoin v ∨ c = .ergRejoin v ∨ c = .ergUnrClr v ∨ c = .ergCntClr v →
    ((bitAt v.toNat 0 = false ∧ s.ergState = 0) ∨
      (bitAt v.toNat 0 = true ∧ s.ergState ≠ 0 ∧ (bitAt v.toNat 1 = false ∨ s.ergState ≠ 3)) → ∃ t, exec c s = .next t ∧
      t.rn Reg.ERG_CTRL = bitsAt v.toNat 0 1 + bitsAt v.toNat 2 2 * 4 ∧
      (∀ a ∈ ergCounters, t.reg a = if bitAt v.toNat 5 then 0 else s.reg a) ∧ SameRegs (Reg.ERG_CTRL :: ergCounters) s t ∧
      t = { s with
        regs := t.regs
        fab := { s.fab with unr := if bitAt v.toNat 4 || bitAt v.toNat 5 then [] else s.fab.unr } }) ∧
    (bitAt v.toNat 0 = false → s.ergState ≠ 0 → ∃ t, exec c s = .next t ∧ t.rn Reg.ERG_STATUS = 0 ∧ t.fab = { s.fab with
        unr := if bitAt v.toNat 4 || bitAt v.toNat 5 then [] else s.fab.unr
        granted := false
        db := []
        members := []
        anchor := 0 } ∧
      SameRegs (Reg.ERG_STATUS :: Reg.ERG_CTRL :: ergCounters) s t ∧ t = { s with
        regs := t.regs
        fab := t.fab }) ∧
    (bitAt v.toNat 0 = true → s.ergState = 0 ∨ (bitAt v.toNat 1 = true ∧ s.ergState = 3) → ∃ u : State,
      exec c s = .next u.floodLsa.converge ∧ u.ergState = 1 ∧ u.fab.granted = false ∧ u.fab.db = s.fab.db ∧
      SameRegs (Reg.ERG_STATUS :: Reg.ERG_CTRL :: ergCounters) s u ∧ u = { s with
        regs := u.regs
        fab := u.fab }) ∧
    (bitAt v.toNat 0 = true → s.ergState = 0 → s.fab.db = [] → s.fab.reqs = [] → (∀ n < 16, s.portUp n = false) → ∃ t,
      exec c s = .next t ∧ t.ergState = 2 ∧ t.rn Reg.ERG_MEMBERS = 1 ∧ t.deviceId = s.fld Reg.ERG_ID_REQ 0 12 ∧
      t.rn Reg.ERG_ANCHOR = s.fld Reg.ERG_ID_REQ 0 12 ∧ t.rbit Reg.ERG_STATUS 4 = true ∧ t.fab.members = [s.ident] ∧
      t.fab.sent = s.fab.sent ∧ t.mem = s.mem ∧ t.streams = s.streams)) ∧
  (∀ s : State, s.halted = false → (s.ergState = 0 → exec .lsaFlood s = .next s) ∧
    (∀ u : State, s.ergState ≠ 0 → u = { s with fab := { s.fab with seq := (s.fab.seq + 1) % 2 ^ 32 } } → ∃ t, exec .lsaFlood s = .next t ∧
      t.fab.seq = (s.fab.seq + 1) % 2 ^ 32 ∧ u.ownLsa.seq = t.fab.seq ∧ u.ownLsa.ident = s.ident ∧
      t.fab.sent = (((List.range 16).filter s.portUp).map (fun n => (n, FabMsg.lsa u.ownLsa))).reverse ++ s.fab.sent ∧
      t = { s with fab := t.fab } ∧ t.fab = { s.fab with
        seq := t.fab.seq
        sent := t.fab.sent })) ∧
  (∀ (s : State) (n : Fin 16) (l : Lsa) (old : Option Member), s.halted = false →
    old = s.fab.db.find? (fun m => m.lsa.ident == l.ident) →
    (s.ergState = 0 ∨ s.portUp n = false ∨ l.ident = s.ident ∨ old.any (fun m => !seqNewer l.seq m.lsa.seq) = true →
      exec (.lsaReceive n l) s = .next s) ∧
    (s.ergState ≠ 0 → s.portUp n = true → l.ident ≠ s.ident → old.all (fun m => seqNewer l.seq m.lsa.seq) = true → ∃ u : State,
      exec (.lsaReceive n l) s = .next (u.converge.showPeers (List.range 16)) ∧
      u.fab.db = s.fab.db.filter (fun m => m.lsa.ident != l.ident) ++ [{ lsa := l, at_ := s.tb }] ∧
      u.fab.sent = (((List.range 16).filter (fun k => k != n.val && s.portUp k)).map (fun k => (k, FabMsg.lsa l))).reverse
        ++ s.fab.sent ∧ u = { s with fab := u.fab })) ∧
  (∀ (s : State) (i : Nat) (old : Option Member), s.halted = false → old = s.fab.db.find? (fun m => m.lsa.ident == i) →
    (old.all (fun m => decide (s.tb.toNat < m.at_.toNat + 4000000)) = true → exec (.memberStale i) s = .next s) ∧
    (∀ m, old = some m → m.at_.toNat + 4000000 ≤ s.tb.toNat → ∃ u : State, exec (.memberStale i) s = .next u.converge ∧
      u.fab.db = s.fab.db.filter (fun x => x.lsa.ident != i) ∧ u = { s with fab := u.fab } ∧
      (s.ergState = 0 → u.converge = u))) ∧
  (∀ (s : State) (d : Fin 4096), s.halted = false → (s.ergState ≠ 1 → exec (.idGrant d) s = .next s) ∧
    (s.ergState = 1 → ∃ u : State, exec (.idGrant d) s = .next u.floodLsa.converge ∧ u.deviceId = d.val ∧ u.fab.granted = true ∧
      u.ergState = 2 ∧ u.fab.db = s.fab.db ∧ SameRegs [Reg.ERG_STATUS, Reg.ERG_INT_STATUS] s u ∧ u.mem = s.mem))

/-- A request from another package is served only by an active member: outside the fabric's ranges or the windows'
grants it is refused with status 8, counted and raised, and changes no memory; a granted write stores its bytes
under the rules of a partial write, and a granted read answers the bytes and marks the granules delivered as zeros.
A response ends its request at its transfer: data joins the transfer, each granule marked counts in it and in its
stream, a refusal ends it REJECTED unless an earlier condition ranks first. A request that times out is sent once
more, then ends UNREACHABLE and counts. An exchange with the sync parent shows the offset and corrects the timebase
by it, rounded to a nanosecond as the model leaves open (log 18). -/
def Obligations.RemoteAccessAndSync : Prop :=
  (∀ (s : State) (src : Fin 4096) (r : RemReq) (back : Nat) (ok : Bool), s.halted = false →
    back = ((s.lsas.find? (fun l => l.devId == src.val)).map (fun l => l.ident)).getD 0 →
    ok = (fabricRange r.addr r.len && (List.range 16).any (fun w => s.winGrants w r)) →
    (s.ergState ≠ 2 → exec (.remoteRequest src r) s = .next s) ∧
    (s.ergState = 2 → ok = false → ∃ u : State, exec (.remoteRequest src r) s = .next (u.sendTo back (.response r.id 8 {})) ∧
      u.rn Reg.ERG_REM_REJ = min (s.rn Reg.ERG_REM_REJ + 1) 0xFFFFFFFF ∧ u.rbit Reg.ERG_INT_STATUS 7 = true ∧
      OnlyRegsIrq [Reg.ERG_REM_REJ, Reg.ERG_INT_STATUS] s u) ∧
    (s.ergState = 2 → ok = true → r.write = true → ∃ u : State,
      exec (.remoteRequest src r) s = .next (u.sendTo back (.response r.id 0 {})) ∧
      u = (s.touchDie r.addr).writeData (s.storeLoc r.addr) r.addr (r.data.take r.len)) ∧
    (s.ergState = 2 → ok = true → r.write = true → r.len = r.data.length → s.sound r.addr r.len →
      ∃ t, exec (.remoteRequest src r) s = .next t ∧ t.bytes r.addr r.len = r.data ∧ SameBytes r.addr r.len s t ∧
        SameRegs [] s t ∧ t.fab = (s.sendTo back (.response r.id 0 {})).fab ∧ t.streams = s.streams) ∧
    (∀ d : Rd, s.ergState = 2 → ok = true → r.write = false →
      d = (s.touchDie r.addr).readData (s.storeLoc r.addr) r.addr r.len → ∃ t, exec (.remoteRequest src r) s = .next t ∧
        t = d.st.sendTo back (.response r.id (if d.zeroed = 0 then 0 else 1) {
          bytes := d.bytes
          zeros := ((s.touchDie r.addr).badIn r.addr r.len).map (fun g => g - r.addr) }))) ∧
  (∀ (s : State) (id : Nat) (old : Option RemReq), s.halted = false → old = s.fab.reqs.find? (fun r => r.id == id) →
    (old = none → (∀ st data, exec (.remoteResponse id st data) s = .next s) ∧
      exec (.remoteRequestTimeout id) s = .next s) ∧
    (∀ (st : Nat) (data : RespData) r bad, old = some r → bad = (if r.write = true ∨ st = 8 then [] else r.marked data.zeros) → ∃ t : State,
      exec (.remoteResponse id st data) s = .next t ∧ t.fab = { s.fab with reqs := s.fab.reqs.filter (fun q => q.id != id) } ∧
      AMap.read (fun _ => none) (t.car (r.engine / 8)).ctxs (r.engine % 8) =
        (AMap.read (fun _ => none) (s.car (r.engine / 8)).ctxs (r.engine % 8)).map (fun x =>
          if st = 8 then x.endWith 8
          else { x with
            zeroed := x.zeroed + bad.length
            got := x.got ++ (if r.write then [] else [(r.local_, data.bytes.take r.len)]) }) ∧
      (∀ e, e ≠ r.engine / 8 → t.car e = s.car e) ∧ (bad = [] → t.streams = s.streams) ∧
      (∀ (h : Nat) (x : Stream), bad ≠ [] → r.handle ≠ 0xFFFFFFFF → s.sidOf r.handle = some h → x = s.strm h → x.st ≠ .closed →
        (∀ k, k ≠ h → t.strm k = s.strm k) ∧
        (x.step = none → t.strm h = { x with zeroed := min (x.zeroed + bad.length) 0xFFFFFFFF }) ∧
        (∀ y, x.step = some y → (t.strm h).zeroed =
          min (x.zeroed + (bad.filter (fun g => !y.zgrans.contains g)).length) 0xFFFFFFFF)) ∧
      t = { s with
        fab := t.fab
        caravans := t.caravans
        streams := t.streams }) ∧
    (∀ r r', old = some r → r.retried = false →
      r' = { r with
        retried := true
        port := (s.flowPort 3 r.engine r.dst).getD r.port } → ∃ u : State,
      exec (.remoteRequestTimeout id) s = .next (u.sendFlow 3 r.engine r.dst (.request r')).2 ∧
      u.fab = { s.fab with reqs := s.fab.reqs.map (fun q => if q.id = id then r' else q) } ∧
      u.rn Reg.ERG_RETRY_END = min (s.rn Reg.ERG_RETRY_END + 1) 0xFFFFFFFF ∧
      SameRegs [Reg.ERG_RETRY_END, Reg.ERG_INT_STATUS] s u ∧ u.mem = s.mem) ∧
    (∀ r, old = some r → r.retried = true → ∃ t, exec (.remoteRequestTimeout id) s = .next t ∧
      t.fab.reqs = s.fab.reqs.filter (fun q => q.id != r.id) ∧
      AMap.read (fun _ => 0) t.fab.unr r.dst = AMap.read (fun _ => 0) s.fab.unr r.dst + 1 ∧
      t.pair Reg.ERG_UNR_TOTAL_LO = (s.pair Reg.ERG_UNR_TOTAL_LO + 1) % 2 ^ 64 ∧
      AMap.read (fun _ => none) (t.car (r.engine / 8)).ctxs (r.engine % 8) =
        (AMap.read (fun _ => none) (s.car (r.engine / 8)).ctxs (r.engine % 8)).map (fun x => x.endWith 5) ∧
      (∀ e, e ≠ r.engine / 8 → t.car e = s.car e) ∧ t.streams = s.streams ∧ t.mem = s.mem)) ∧
  (∀ (s : State) (n : Fin 16) (t1 t2 t3 t4 : Dword) (d : Int), s.halted = false →
    d = ((t2.toNat : Int) - t1.toNat) - ((t4.toNat : Int) - t3.toNat) →
    (s.tckSrc ≠ 2 ∨ s.ergState ≠ 2 ∨ s.rbit Reg.ERG_STATUS 5 = true ∨ s.rbit Reg.ERG_STATUS 6 = true ∨
      s.syncPort ≠ some n.val → exec (.syncExchange n t1 t2 t3 t4) s = .next s) ∧
    (s.tckSrc = 2 → s.ergState = 2 → s.rbit Reg.ERG_STATUS 5 = false → s.rbit Reg.ERG_STATUS 6 = false → s.syncPort = some n.val →
      ∃ (t : State) (q : Int), exec (.syncExchange n t1 t2 t3 t4) s = .next t ∧ (2 * q = d ∨ d % 2 ≠ 0 ∧ (2 * q = d - 1 ∨ 2 * q = d + 1)) ∧
        t.reg (Reg.ERG_Pn_SYNC_OFS n) = BitVec.ofInt 32 (d * 8) ∧ t.reg Reg.TCK_OFFSET = satOffset (-q) ∧
        t.rbit Reg.TCK_STATUS 2 = decide (q.natAbs ≤ 20) ∧
        (q = 0 → t.tb = s.tb ∧ t.tck = s.tck) ∧
        (0 < q → s.anyPlane = false → t.tb = s.tb + BitVec.ofNat 64 q.natAbs ∧ t.tck = s.tck) ∧
        (q < 0 ∨ (q ≠ 0 ∧ s.anyPlane = true) → t.tb = s.tb ∧ t.tck = { s.tck with slew := q } ∧ t.rbit Reg.TCK_STATUS 4 = true) ∧
        SameRegs [Reg.ERG_Pn_SYNC_OFS n, Reg.TCK_OFFSET, Reg.TCK_STATUS, Reg.TCK_INT_STATUS] s t ∧ t.mem = s.mem))

/-- A slot request is read from SEC_REQ_ADDR while the engine is not BUSY. One that fails a check of Table 19-3
completes at once REJECTED with that check's reason, changes no slot and counts; one that passes sets BUSY and its
operation, target and key are programmed. When programming ends verified, the slot that was filled or claimed is
VALID with the new key and a revoked one is REVOKED; when the fuses do not verify the request ends FAULTED with
FUSE_FAIL, a generation written is used but incomplete, and an error record names SEC_FUSE_FAIL. No other slot
changes, and resets that waited act then. QUOTE sets QUOTING and clears QUOTE_VALID and is ignored while a quote is
being built; QUOTE_DONE places the body and its signature under the identity key in SEC_QOUT. Signing keys (logs 8
and 17) and the free bit of a failed REVOKE (log 4) are the model's. -/
def Obligations.SlotsAndQuotes : Prop :=
  ∀ s : State, s.halted = false →
    (∀ c, c = .slotFill ∨ c = .slotRevoke ∨ c = .slotClaim → s.rbit Reg.SEC_STATUS 0 = true → exec c s = .next s) ∧
    (∀ (c : Instr) (rd : Rd) (op : Nat) (key : List Byte), s.rbit Reg.SEC_STATUS 0 = false →
      rd = s.readData (s.oasLoc 18 0) (s.pair Reg.SEC_REQ_ADDR_LO) 192 → op = leVal (slice rd.bytes 64 1) →
      key = slice rd.bytes 68 32 →
      ((c = .slotFill ∧ (op = 2 ∨ op = 3)) ∨ (c = .slotRevoke ∧ op ≠ 2) ∨ (c = .slotClaim ∧ op ≠ 3) → exec c s = .next s) ∧
      ((c = .slotFill ∧ op ≠ 2 ∧ op ≠ 3) ∨ (c = .slotRevoke ∧ op = 2) ∨ (c = .slotClaim ∧ op = 3) →
        ∃ t, exec c s = .next t ∧
          (∀ e, rd.st.requestFormat rd.bytes = some e ∨
              (rd.st.requestFormat rd.bytes = none ∧ (rd.st.requestRules rd.bytes).1 = some e) →
            t.fld Reg.SEC_STATUS 28 4 = 8 ∧ t.fld Reg.SEC_STATUS 16 8 = e ∧ t.rbit Reg.SEC_STATUS 0 = false ∧
            t.rn Reg.SEC_REQS = min (s.rn Reg.SEC_REQS + 1) 0xFFFFFFFF ∧ t.rbit Reg.SEC_INT_STATUS 0 = true ∧ t.sec = s.sec) ∧
          (rd.st.requestFormat rd.bytes = none → (rd.st.requestRules rd.bytes).1 = none →
            t.rbit Reg.SEC_STATUS 0 = true ∧ SameBits Reg.SEC_STATUS [0] s t ∧ t.reg Reg.SEC_REQS = s.reg Reg.SEC_REQS ∧
            t.sec = { s.sec with prog := some { op := op, target := leVal (slice rd.bytes 65 1), key := key } }) ∧
          SameRegs ([Reg.SEC_STATUS, Reg.SEC_REQS, Reg.SEC_INT_STATUS, Reg.SEC_VERIFY_OK, Reg.SEC_VERIFY_FAIL] ++
            (List.range 8).map Reg.SEC_NONCEi) rd.st t ∧ KeepsVectors rd.st t ∧ t = { rd.st with
              regs := t.regs
              sec := t.sec
              freeCtr := t.freeCtr
              host := { rd.st.host with vectors := t.host.vectors } })) ∧
    (∀ ok, s.sec.prog = none → exec (.fuseProgramDone ok) s = .next s) ∧
    (∀ (ok : Bool) (p : SlotProg), s.sec.prog = some p → ∃ (u : State) (b : Bool),
      exec (.fuseProgramDone ok) s = .next (u.writeOasReset (b2n s.sec.warmDue + s.sec.dieDue * 16)) ∧
      (s.sec.warmDue = false → s.sec.dieDue = 0 → exec (.fuseProgramDone ok) s = .next u) ∧
      u.slot p.target = programSlot (s.slot p.target) p ok b ∧ (∀ i, i ≠ p.target → u.slot i = s.slot i) ∧
      (ok = true → p.op ≠ 2 → u.slotState p.target = 1 ∧ u.slotKey p.target = p.key) ∧
      (ok = true → p.op = 2 → s.slotState p.target = 1 → u.slotState p.target = 2 ∧ u.slotKey p.target = s.slotKey p.target) ∧
      (ok = false → p.op ≠ 2 → (u.slot p.target).length = (s.slot p.target).length + 1 ∧
        u.slotKey p.target = s.slotKey p.target) ∧
      u.sec = { s.sec with
        slots := u.sec.slots
        prog := none
        heldDigest := if ok then none else some s.slotDigest
        warmDue := false
        dieDue := 0 } ∧
      u.fld Reg.SEC_STATUS 28 4 = (if ok then 0 else 6) ∧ u.fld Reg.SEC_STATUS 16 8 = (if ok then 0 else 9) ∧
      u.rbit Reg.SEC_STATUS 0 = false ∧ u.rn Reg.SEC_REQS = min (s.rn Reg.SEC_REQS + 1) 0xFFFFFFFF ∧
      u.rbit Reg.SEC_INT_STATUS 0 = true ∧
      (ok = false → u.rbit Reg.SEC_INT_STATUS 2 = true ∧ ∃ w ∈ u.errs.packageWins, w.cls = 5 ∧ w.code = 0x30) ∧
      (ok = true → SameRegs ([Reg.SEC_STATUS, Reg.SEC_REQS, Reg.SEC_INT_STATUS] ++ (List.range 8).map Reg.SEC_NONCEi) s u ∧
        u.errs = s.errs ∧ u.snap = s.snap) ∧ u.mem = s.mem ∧ u.streams = s.streams ∧ u.weights = s.weights) ∧
    (s.rbit Reg.SEC_STATUS 2 = true → exec .quote s = .next s) ∧
    (s.rbit Reg.SEC_STATUS 2 = false → ∃ t, exec .quote s = .next t ∧ t.rbit Reg.SEC_STATUS 2 = true ∧
      t.rbit Reg.SEC_STATUS 1 = false ∧ SameBits Reg.SEC_STATUS [1, 2] s t ∧ OnlyRegs [Reg.SEC_STATUS] s t) ∧
    (s.rbit Reg.SEC_STATUS 2 = false → exec .quoteDone s = .next s) ∧
    (∀ body, s.rbit Reg.SEC_STATUS 2 = true → body = s.quoteBody → slice body 0 8 = ascii "HXPQUOTE" ∧
      slice body 24 8 = leBytes 8 s.tb.toNat ∧ slice body 32 64 = s.window (Reg.SEC_QNONCEi 0) 16 ∧
      ∃ t, exec .quoteDone s = .next t ∧
        (∀ i < 112, t.rn (Reg.SEC_QOUTi i) = leVal (slice (body ++ edSign s.sec.seed (sha512 body)) (4 * i) 4)) ∧
        t.rbit Reg.SEC_STATUS 2 = false ∧ t.rbit Reg.SEC_STATUS 1 = true ∧ SameBits Reg.SEC_STATUS [1, 2] s t ∧
        t.rbit Reg.SEC_INT_STATUS 1 = true ∧ t.rn Reg.SEC_SIGNS = min (s.rn Reg.SEC_SIGNS + 1) 0xFFFFFFFF ∧
        OnlyRegsIrq ([Reg.SEC_STATUS, Reg.SEC_SIGNS, Reg.SEC_INT_STATUS] ++ (List.range 112).map Reg.SEC_QOUTi) s t)

/-- A tally adds its units to one quantity and class of its function, on a powered island, and a residue that times out
is sent and becomes zero. At a regular boundary, when the seal opens or closes (regular boundaries up to then come
first) and at power-up the island ends the period with a signed record chained to the one before, of type PERIOD,
SEAL_OPEN, SEAL_CLOSE or START; a START begins a chain at meter time 0 with SEQ 0, no entries and no PREV, and keeps
the SEAL_LOGGED fuse. The mirror copies the next record whole into its host ring and advances MMR_HEAD, waits while
it does not fit, or counts it lost where the island has overwritten it. An inspector's command is answered with a
reply frame and changes nothing else; an island without power answers nothing. Signatures rest on log 17. -/
def Obligations.MeterCountsEndsPeriodsAndAnswers : Prop :=
  (∀ (s : State) (fn : Fin 64) (q : Fin 4) (deg : Bool) (units : Fin 65536),
    (s.meter.powered = false → exec (.tallyMessage fn q deg units) s = .next s) ∧
    (s.meter.powered = true → ∃ t, exec (.tallyMessage fn q deg units) s = .next t ∧ Billed s t fn q deg units ∧
      t = { s with meter := { s.meter with counts := t.meter.counts } })) ∧
  (∀ (s : State) (tap : Fin 203) (fn : Fin 64) (q : Fin 4) (deg : Bool) (k : Nat), s.halted = false → k = tapKey tap fn q deg →
    (s.residue k = 0 → exec (.tallyResidueTimeout tap fn q deg) s = .next s) ∧
    (s.residue k ≠ 0 → ∃ t, exec (.tallyResidueTimeout tap fn q deg) s = .next t ∧ t.residue k = 0 ∧
      (∀ j, j ≠ k → t.residue j = s.residue j) ∧ (s.meter.powered = true → Billed s t fn q deg (s.residue k)) ∧
      (s.meter.powered = false → t.meter.counts = s.meter.counts) ∧ t = { s with meter := { s.meter with
        counts := t.meter.counts
        residues := t.meter.residues } })) ∧
  (∀ s : State,
    (s.meter.powered = false → exec .meterPeriodEnd s = .next s) ∧
    (s.meter.powered = true → ∃ t, exec .meterPeriodEnd s = .next t ∧ PeriodEnded s t { s.meter with
      time := max s.meter.time ((s.meter.periods + 1) * recordPeriod s.meter.per * 32000000)
      periods := s.meter.periods + 1 } 1) ∧
    (∀ (per : Fin 8) (isOpen : Bool), ∃ t, exec (.meterPowerUp per isOpen) s = .next t ∧ t.meter.nextSeq = 1 ∧ t.meter.tStart = 0 ∧
      t.meter.time = 0 ∧ t.meter.ring.length = 1 ∧ t.meter.sealLogged = s.meter.sealLogged ∧ PeriodEnded s t {
        powered := true
        seed := s.meter.seed
        idRecord := s.meter.idRecord
        per := per
        sealOpen := isOpen
        sealLogged := s.meter.sealLogged } 0) ∧
    (∀ time, s.meter.powered = false ∨ s.meter.sealOpen = true → exec (.sealOpen time) s = .next s) ∧
    (∀ time u, s.meter.powered = true → s.meter.sealOpen = false → u = endPeriods (s.duePeriods (max s.meter.time time)) s → ∃ t,
      exec (.sealOpen time) s = .next t ∧ (time < (s.meter.periods + 1) * recordPeriod s.meter.per * 32000000 →
        s.meter.time < (s.meter.periods + 1) * recordPeriod s.meter.per * 32000000 → u = s) ∧
      PeriodEnded u t { u.meter with
        time := max u.meter.time time
        sealOpen := true
        sealLogged := true } 2) ∧
    (∀ time, s.meter.powered = false ∨ s.meter.sealOpen = false → exec (.sealClose time) s = .next s) ∧
    (∀ time u, s.meter.powered = true → s.meter.sealOpen = true → u = endPeriods (s.duePeriods (max s.meter.time time)) s → ∃ t,
      exec (.sealClose time) s = .next t ∧ PeriodEnded u t { u.meter with
        time := max u.meter.time time
        sealOpen := false } 3)) ∧
  (∀ (s : State) (n base log head : Nat) (o : Option MeterRec), s.halted = false → n = s.meter.mirrorNext →
    base = hostWindow + s.pair Reg.MMR_BASE_LO → log = s.mmrLog → head = s.rn Reg.MMR_HEAD →
    o = s.meter.ring.find? (fun r => r.seq == n) →
    (s.rbit Reg.MMR_CTRL 0 = false ∨ s.meter.nextSeq ≤ n → exec .mirrorCopy s = .next s) ∧
    (s.rbit Reg.MMR_CTRL 0 = true → n < s.meter.nextSeq → o = none → ∃ t, exec .mirrorCopy s = .next t ∧
      t.rn Reg.MMR_LOST = min (s.rn Reg.MMR_LOST + 1) 0xFFFFFFFF ∧ t.rbit Reg.MMR_INT_STATUS 3 = true ∧
      SameRegs [Reg.MMR_LOST, Reg.MMR_INT_STATUS] s t ∧ KeepsVectors s t ∧ t = { s with
        regs := t.regs
        meter := { s.meter with mirrorNext := n + 1 }
        host := { s.host with vectors := t.host.vectors } }) ∧
    (∀ r, o = some r → 2 ^ log < (s.reg Reg.MMR_HEAD - s.reg Reg.MMR_TAIL).toNat + r.bytes.length ∨
      s.hostOk base (2 ^ log) = false → exec .mirrorCopy s = .next s) ∧
    (∀ r, s.rbit Reg.MMR_CTRL 0 = true → n < s.meter.nextSeq → o = some r →
      (s.reg Reg.MMR_HEAD - s.reg Reg.MMR_TAIL).toNat + r.bytes.length ≤ 2 ^ log → s.hostOk base (2 ^ log) = true →
      ∃ t, exec .mirrorCopy s = .next t ∧
        (∀ i < r.bytes.length, t.byte (base + (head + i) % 2 ^ log) = r.bytes.getD i 0) ∧
        (∀ a, (∀ i < r.bytes.length, a ≠ base + (head + i) % 2 ^ log) → t.byte a = s.byte a) ∧
        t.rn Reg.MMR_HEAD = (head + r.bytes.length) % 2 ^ 32 ∧ t.rbit Reg.MMR_INT_STATUS 0 = true ∧
        SameRegs [Reg.MMR_HEAD, Reg.MMR_INT_STATUS] s t ∧ KeepsVectors s t ∧ t = { s with
          regs := t.regs
          mem := t.mem
          meter := { s.meter with mirrorNext := n + 1 }
          host := { s.host with vectors := t.host.vectors } })) ∧
  (∀ (s : State) (c : Instr) (code : Nat) (payload : List Byte),
    (c = .inspectorIdentity ∧ code = 1 ∧ payload = s.meter.idRecord) ∨
    (c = .inspectorStatus ∧ code = 2 ∧ payload = leBytes 8 s.meter.latest.seq ++ leBytes 8 s.meter.time ++
      leBytes 1 (meterFlags s.meter s.meter.diverged) ++ leBytes 2 (recordPeriod s.meter.per) ++ List.replicate 13 0) ∨
    (∃ seq r, c = .inspectorRecordBySeq seq ∧ s.meter.ring.find? (fun x => x.seq == seq) = some r ∧ code = 3 ∧ payload = r.bytes) ∨
    (∃ seq, c = .inspectorRecordBySeq seq ∧ s.meter.ring.find? (fun x => x.seq == seq) = none ∧ code = 0xFF ∧ payload = [2]) ∨
    (c = .inspectorLatestRecord ∧ code = 4 ∧ payload = s.meter.latest.bytes) ∨
    (c = .inspectorOpenCounts ∧ code = 5 ∧ payload = ((List.range 64).map (fun f => meterEntry f (s.meterCnt f))).flatten) ∨
    (c = .inspectorBadFrame ∧ code = 0xFF ∧ payload = [1]) →
    ∃ t, exec c s = .next t ∧ OnlyAnswer s t ∧ t.resp.abort = false ∧
      t.resp.bytes = if s.meter.powered then replyFrame code payload else [])

/-- A report joins the first window of its region that it belongs to, with its count and the earlier location, or opens
one; a report from the Oasis die goes to the package collector. The first report of a class selected in SNP_CFG also
triggers a snapshot at its timebase plus SNP_LEAD (first: log 15). A parity error in a hardware table also ends
FAULTED the command or step that read the entry; which one is open (log 4). A region window 1,000 ns old forwards
its merged report; a package window 2,500 ns old forms a record: the class's counters grow, the 32 bytes are written
at ERR_HEAD's place in the ring, which advances, and to the mirror; with the ring full, off or not in DRAM the
record is dropped and counts in ERR_OVERFLOW. Where no window is due the commands have no effect. -/
def Obligations.ErrorsMergeIntoRecords : Prop :=
  (∀ (s : State) (cls code : Nat) (loc : Word) (skind suspect : Nat) (r0 : ErrWin) (trig fired : Bool), s.halted = false →
    r0 = { cls := cls, code := code, skind := skind, suspect := suspect % 2 ^ 60, loc := loc.toNat, tb := s.tb.toNat,
           region := bitsAt loc.toNat 17 3 * 4 + bitsAt loc.toNat 15 2 } →
    trig = (s.rbit Reg.SNP_CFG (cls % 16) && !s.knownEvent r0) →
    fired = (trig && s.snap.held.isNone && s.snap.pending.all (fun p => decide (s.tb.toNat + s.snapLead < p.t))) →
    ∃ u t : State, exec (.errorReport cls code loc skind suspect) s = .next (if cls = 7 ∧ code = 1 then t.tableParity else t) ∧
      (trig = false → u = s) ∧
      (trig = true → Triggered s u (s.tb.toNat + s.snapLead) 3 (s.rbit Reg.SNP_CFG 22)) ∧ t = { u with errs := { s.errs with
        regionWins := t.errs.regionWins
        packageWins := t.errs.packageWins } } ∧
      (4 ≤ bitsAt loc.toNat 17 3 → t.errs.regionWins = s.errs.regionWins ∧ Gathered s t { r0 with snap := fired }) ∧
      (bitsAt loc.toNat 17 3 < 4 → t.errs.packageWins = s.errs.packageWins ∧
        ((∀ w ∈ s.errs.regionWins, w.same r0 = false ∨ w.region ≠ r0.region ∨ w.tb + 1000 < s.tb.toNat) →
          t.errs.regionWins = s.errs.regionWins ++ [{ r0 with snap := fired }]) ∧
        (∀ l1 w l2, s.errs.regionWins = l1 ++ w :: l2 →
          (∀ x ∈ l1, x.same r0 = false ∨ x.region ≠ r0.region ∨ x.tb + 1000 < s.tb.toNat) →
          w.same r0 = true → w.region = r0.region → s.tb.toNat ≤ w.tb + 1000 →
          t.errs.regionWins = l1 ++ { w with
            count := w.count + 1
            loc := if s.tb.toNat < w.tb ∨ (s.tb.toNat = w.tb ∧ loc.toNat < w.loc) then loc.toNat else w.loc
            snap := w.snap || fired } :: l2))) ∧
  (∀ s : State, (∃ i ≤ s.readers, s.tableParity = ({ s with freeCtr := s.freeCtr + 1 } : State).endReader i) ∧
    (s.readers = 0 → s.tableParity = { s with freeCtr := s.freeCtr + 1 }) ∧
    (∀ x ∈ s.turnCmds, ∃ i < s.readers, s.endReader i = (s.startCmd x.fn x.sq x.desc).endCmd x.fn x.sq x.desc 6 0) ∧
    (∀ h x r, (h, x) ∈ s.streams → s.strm h = x → x.step = some r → ∃ i < s.readers,
      (s.endReader i).run h = { r with
        status := 6 :: r.status
        stop := true } ∧ ∀ k, k ≠ h → (s.endReader i).strm k = s.strm k)) ∧
  (∀ (s : State) (region : Nat), s.halted = false →
    ((∀ w ∈ s.errs.regionWins, w.region ≠ region ∨ s.tb.toNat < w.tb + 1000) → exec (.regionWindowClose region) s = .next s) ∧
    (∀ l1 w l2, s.errs.regionWins = l1 ++ w :: l2 → (∀ x ∈ l1, x.region ≠ region ∨ s.tb.toNat < x.tb + 1000) →
      w.region = region → w.tb + 1000 ≤ s.tb.toNat → ∃ t, exec (.regionWindowClose region) s = .next t ∧
        t.errs.regionWins = l1 ++ l2 ∧ Gathered s t w ∧ t = { s with errs := { s.errs with
          regionWins := t.errs.regionWins
          packageWins := t.errs.packageWins } })) ∧
  (∀ s : State, s.halted = false → ((∀ w l, s.errs.packageWins = w :: l → s.tb.toNat < w.tb + 2500) →
    exec .packageWindowClose s = .next s)) ∧
  (∀ (s : State) (w : ErrWin) (l : List ErrWin) (c a : Nat) (keep mirror : Bool) (bytes : List Byte), s.halted = false →
    s.errs.packageWins = w :: l → w.tb + 2500 ≤ s.tb.toNat → c = w.cls % 16 → a = s.pair Reg.ERR_BASE_LO + s.rn Reg.ERR_HEAD % 1024 * 32 →
    keep = (s.rbit Reg.ERR_CFG 0 && s.errOpen != 1024 && (List.range 4).any (fun d => placeOf a == .dram d) && inOnePlace a 32) →
    mirror = (s.rbit Reg.ERR_CFG 1 && !s.errs.mirrorStopped) → bytes = errRecord w (s.rn Reg.ERR_HEAD) (s.nestedOf w.loc) →
    ∃ t, exec .packageWindowClose s = .next t ∧
      t.pair (Reg.ERR_EVTc_LO c) = (s.pair (Reg.ERR_EVTc_LO c) + 1) % 2 ^ 64 ∧
      t.pair (Reg.ERR_REPc_LO c) = (s.pair (Reg.ERR_REPc_LO c) + w.count) % 2 ^ 64 ∧
      (keep = true → t.bytes a 32 = bytes ∧ t.rn Reg.ERR_HEAD = (s.rn Reg.ERR_HEAD + 1) % 2 ^ 32) ∧
      ((keep = true → s.sound a 32) →
      t.errs.packageWins = l ∧ t.errs.regionWins = s.errs.regionWins ∧
      SameRegs [Reg.ERR_EVTc_LO c, Reg.ERR_EVTc_LO c + 4, Reg.ERR_REPc_LO c, Reg.ERR_REPc_LO c + 4, Reg.ERR_HEAD,
        Reg.ERR_INT_STATUS, Reg.ERR_OVERFLOW_LO, Reg.ERR_OVERFLOW_LO + 4, Reg.HQ_MGT_EVENTS] s t ∧
      (keep = true → t.errs.openRecs = s.errs.openRecs ++ [(s.rn Reg.ERR_HEAD, w.loc)] ∧
        t.pair Reg.ERR_OVERFLOW_LO = s.pair Reg.ERR_OVERFLOW_LO ∧
        (s.rbit Reg.ERR_CLASS_INT c = true → (s.mod 2).running = false → t.rbit Reg.ERR_INT_STATUS 0 = true) ∧
        (∀ m, m = hostWindow + s.pair Reg.ERR_MIRROR_LO + s.rn Reg.ERR_HEAD % 1024 * 32 →
          (mirror = true → s.hostOk m 32 = true → t.bytes m 32 = bytes ∧ t.errs.mirrorStopped = s.errs.mirrorStopped ∧
            ∀ k, (k < a ∨ a + 32 ≤ k) → (k < m ∨ m + 32 ≤ k) → t.byte k = s.byte k) ∧
          (mirror = true → s.hostOk m 32 = false → t.errs.mirrorStopped = true ∧ t.rbit Reg.ERR_INT_STATUS 2 = true ∧
            SameBytes a 32 s t)) ∧
        (mirror = false → t.errs.mirrorStopped = s.errs.mirrorStopped ∧ SameBytes a 32 s t)) ∧
      (keep = false → t.mem = s.mem ∧ t.reg Reg.ERR_HEAD = s.reg Reg.ERR_HEAD ∧
        t.pair Reg.ERR_OVERFLOW_LO = (s.pair Reg.ERR_OVERFLOW_LO + 1) % 2 ^ 64 ∧ t.rbit Reg.ERR_INT_STATUS 1 = true ∧
        t.errs.openRecs = s.errs.openRecs) ∧
      KeepsVectors s t ∧ t = { s with
        regs := t.regs
        mem := t.mem
        errs := t.errs
        mods := t.mods
        pins := { s.pins with alert := t.pins.alert }
        host := { s.host with vectors := t.host.vectors } }))

/-- FIRE triggers at the timebase plus SNP_LEAD, BCAST at SNP_TARGET and flooded, an enabled edge of SNAP_IN at the
timebase plus SNP_LEAD; each takes the next number. A fabric trigger of a number not seen is flooded on and offered;
one seen, or outside the fabric, is discarded silently. A snapshot latches when the timebase reaches the pending
target: it is held, SNAP_OUT rises, SNP_VALID shows what latched, the count grows and LATE is marked; the header of
an awake die carries the target and number, the copies of the ERR counters are the counters, and a die in Night
reads zero. RELEASE frees the held one, CANCEL discards the pending one uncounted. Copying changes no source. -/
def Obligations.SnapshotsAreTriggeredLatchedAndHeld : Prop :=
  (∀ s : State, s.halted = false →
    (∃ t, exec .snapFire s = .next t ∧ Triggered s t (s.tb.toNat + s.snapLead) 0 (s.rbit Reg.SNP_CFG 20)) ∧
    (∃ t, exec .snapBcast s = .next t ∧ Triggered s t (s.pair Reg.SNP_TARGET_LO) 1 true) ∧
    (∀ rising, s.rbit Reg.SNP_CFG 18 = false ∨ s.rbit Reg.SNP_CFG 19 = rising → exec (.snapInEdge rising) s = .next s) ∧
    (∀ rising, s.rbit Reg.SNP_CFG 18 = true → s.rbit Reg.SNP_CFG 19 ≠ rising → ∃ t, exec (.snapInEdge rising) s = .next t ∧
      Triggered s t (s.tb.toNat + s.snapLead) 2 (s.rbit Reg.SNP_CFG 21)) ∧
    (∀ (at_ : Dword) (num : Word), s.rbit Reg.ERG_CTRL 0 = false ∨ s.snap.seen.contains num.toNat = true →
      exec (.fabricSnapshotTrigger at_ num) s = .next s) ∧
    (∀ (at_ : Dword) (num : Word), s.rbit Reg.ERG_CTRL 0 = true → s.snap.seen.contains num.toNat = false → ∃ t,
      exec (.fabricSnapshotTrigger at_ num) s = .next t ∧ t.snap.seen = num.toNat :: s.snap.seen ∧
      Flooded s t (.snap at_.toNat num.toNat) ∧ t.reg Reg.SNP_NUM_NEXT = s.reg Reg.SNP_NUM_NEXT ∧
      Offered s t { t := at_.toNat, num := num.toNat, source := 4, late := decide (at_.toNat < s.tb.toNat) }) ∧
    (∃ t, exec .snapRelease s = .next t ∧ t.snap = { s.snap with held := none } ∧ t.rbit Reg.SNP_STATUS 1 = false ∧
      t.rbit Reg.SNP_STATUS 2 = false ∧ SameBits Reg.SNP_STATUS [1, 2] s t ∧ SameRegs [Reg.SNP_STATUS] s t ∧ t = { s with
        regs := t.regs
        snap := t.snap }) ∧
    (∃ t, exec .snapCancel s = .next t ∧ t.snap = { s.snap with pending := none } ∧ t.rbit Reg.SNP_STATUS 0 = false ∧
      SameBits Reg.SNP_STATUS [0] s t ∧ SameRegs [Reg.SNP_STATUS] s t ∧ t = { s with
        regs := t.regs
        snap := t.snap }) ∧
    (s.pins.snapOut = false → exec .snapOutEnd s = .next s) ∧
    (s.pins.snapOut = true → ∃ t, exec .snapOutEnd s = .next t ∧ t.pins.snapOut = false ∧
      t = { (s.reach (s.snap.outTb + 1000 * max 1 (s.fld Reg.SNP_CFG 24 8)) : State) with pins := { s.pins with snapOut := false } })) ∧
  (∀ s : State, s.halted = false → (∀ x, s.snap.pending = some x → s.tb.toNat < x.t) → exec .snapshotLatch s = .next s) ∧
  (∀ (s : State) (x : Trigger), s.halted = false → s.snap.pending = some x → x.t ≤ s.tb.toNat → ∃ t,
    exec .snapshotLatch s = .next t ∧ t.snap.held = some x ∧ t.snap.pending = none ∧ t.snap.seen = s.snap.seen ∧
    t.pins.snapOut = true ∧ t.rbit Reg.SNP_STATUS 0 = false ∧ t.rbit Reg.SNP_STATUS 1 = true ∧ t.rbit Reg.SNP_STATUS 2 = x.late ∧
    t.fld Reg.SNP_STATUS 3 3 = x.source % 8 ∧ t.pair Reg.SNP_TB_LO = x.t % 2 ^ 64 ∧ t.rn Reg.SNP_NUM = x.num % 2 ^ 32 ∧
    (∀ j < 16, t.rbit Reg.SNP_VALID j = s.rbit Reg.PLC_AWAKE j) ∧ (∀ d < 4, t.rbit Reg.SNP_VALID (16 + d) = !(s.die d).night) ∧
    t.rn Reg.SNP_FIRED = min (s.rn Reg.SNP_FIRED + 1) 0xFFFFFFFF ∧ t.rbit Reg.SNP_INT_STATUS 0 = true ∧
    (x.late = true → t.rbit Reg.SNP_INT_STATUS 2 = true) ∧
    (∀ d < 4, (s.die d).night = false →
      AMap.read (fun _ => 0) t.snap.copies (dieBase d + 0xFF000) = BitVec.ofNat 32 x.t ∧
      AMap.read (fun _ => 0) t.snap.copies (dieBase d + 0xFF008) = BitVec.ofNat 32 x.num ∧
      AMap.read (fun _ => 0) t.snap.copies (dieBase d + 0xFF00C) = 1) ∧
    (∀ d < 4, (s.die d).night = true → ∀ a, dieBase d + 0x80000 ≤ a → a < dieBase d + 0x100000 →
      AMap.read (fun _ => 0) t.snap.copies a = 0) ∧
    (∀ c < 16, AMap.read (fun _ => 0) t.snap.copies (0x69B100 + 8 * c) = s.reg (Reg.ERR_EVTc_LO c)) ∧
    SameRegs [Reg.SNP_STATUS, Reg.SNP_TB_LO, Reg.SNP_TB_LO + 4, Reg.SNP_NUM, Reg.SNP_VALID, Reg.SNP_FIRED,
      Reg.SNP_INT_STATUS] s t ∧ KeepsVectors s t ∧ t = { s with
        regs := t.regs
        snap := t.snap
        pins := { s.pins with snapOut := true }
        freeCtr := t.freeCtr
        host := { s.host with vectors := t.host.vectors } })

/-- Clocks, set point and package state always follow the power state. An estimate joins the averages and PWR_PEAK; over
the cap every awake die goes down one 25 MHz step, then the issue rate one sixteenth, then a CAP_FLOOR record is
made at most once a second; at or below 98% of the cap one step is undone, issue first, 50 µs after the last change.
A current read shows the current; the third transaction in a row unanswered, or a faulty status, loses the regulator
with a record and PWR_STATUS's control bit falls until one retry succeeds. A thermal sample shows the junctions: at
100 °C a die throttles one step, at 105 °C it goes to 800 MHz at half issue with one record as it arrives, at 97 °C
or less it steps up again, and at the trip points every clock stops. A die quiet for PWR_NIGHT_DELAY ms enters Night
with its residues flushed and its stack in self-refresh; an access to its DRAM starts its wake, or that delay anew;
and it wakes at the cap of the dies awake. What the delay counts from is the model's reading (log 29). How a mean is
rounded (log 18) and the regulator's voltage reading (log 4) are open. -/
def Obligations.PowerIsCappedSensedAndSlept : Prop :=
  (∀ s : State, PowerFollows s s.applyPower) ∧
  (∀ (s : State) (w p : Nat) (l : List (Nat × Nat)) (due : Bool), s.halted = false →
    l = s.pwr.estimates.filter (fun e => decide (s.tb.toNat < e.1 + 1000000000)) ++ [(s.tb.toNat, w)] →
    p = min 65535 (meanOf ((l.filter (fun e => decide (s.tb.toNat < e.1 + 1000000))).map (fun e => e.2))) →
    due = s.pwr.lastChange.all (fun c => decide (c + 50000 ≤ s.tb.toNat)) → ∃ u : State,
      exec (.powerEstimate w) s = .next u.applyPower ∧ u.pwr.estimates = l ∧ u.rn Reg.PWR_NOW = p ∧
      u.rn Reg.PWR_AVG1S = min 65535 (meanOf (l.map (fun e => e.2))) ∧ u.rn Reg.PWR_PEAK = max (s.rn Reg.PWR_PEAK) p ∧
      (∀ d < 4, (u.die d).boostSince = if 400 ≤ s.capNow - p ∧ (s.die d).temp ≤ 90
        then some ((s.die d).boostSince.getD s.tb.toNat) else none) ∧
      (∀ d < 4, (u.die d).freq = (s.die d).freq ∧ (u.die d).thermFreq = (s.die d).thermFreq ∧ (u.die d).night = (s.die d).night) ∧
      (s.capNow < w → (∃ d < 4, (s.die d).night = false ∧ 800 < (s.die d).freq) → u.pwr.capIssue = s.pwr.capIssue ∧
        u.pwr.lastChange = some s.tb.toNat ∧
        ∀ d < 4, (s.die d).night = false → (u.die d).capFreq = max 800 ((s.die d).freq - 25)) ∧
      (s.capNow < w → (∀ d < 4, (s.die d).night = false → (s.die d).freq ≤ 800) →
        (∀ d < 4, (u.die d).capFreq = (s.die d).capFreq) ∧ u.pwr.capIssue = min 8 (s.pwr.capIssue + 1) ∨ 8 < s.pwr.capIssue) ∧
      (s.capNow < w → (∀ d < 4, (s.die d).night = false → (s.die d).freq ≤ 800) → 8 ≤ s.pwr.capIssue →
        (∀ f, s.pwr.lastFloor = some f → f + 1000000000 ≤ s.tb.toNat) →
        u.powerRecord 0x43 ∧ u.pwr.lastFloor = some s.tb.toNat) ∧
      (s.capNow < w → 8 ≤ s.pwr.capIssue → (∃ f, s.pwr.lastFloor = some f ∧ s.tb.toNat < f + 1000000000) → u.errs = s.errs) ∧
      (w ≤ s.capNow → u.errs = s.errs ∧ u.pwr.lastFloor = none ∧ SameRegs [Reg.PWR_NOW, Reg.PWR_AVG1S, Reg.PWR_PEAK] s u) ∧
      (w ≤ s.capNow → s.capNow * 98 < w * 100 ∨ due = false →
        u.pwr.capIssue = s.pwr.capIssue ∧ ∀ d < 4, (u.die d).capFreq = (s.die d).capFreq) ∧
      (w * 100 ≤ s.capNow * 98 → due = true → (∃ d < 4, (s.die d).night = false) → 0 < s.pwr.capIssue →
        u.pwr.capIssue = s.pwr.capIssue - 1 ∧ ∀ d < 4, (u.die d).capFreq = (s.die d).capFreq) ∧
      (w * 100 ≤ s.capNow * 98 → due = true → s.pwr.capIssue = 0 →
        (∃ d < 4, (s.die d).night = false ∧ (s.die d).capFreq < u.boostTarget d) → u.pwr.lastChange = some s.tb.toNat ∧
        ∀ d < 4, (u.die d).capFreq = if u.boostTarget d ≤ (s.die d).capFreq + 25 then 1650 else (s.die d).capFreq + 25) ∧
      u.pwr.avsFault = s.pwr.avsFault ∧ u.mem = s.mem ∧ u.streams = s.streams) ∧
  (∀ s : State, s.halted = false →
    (∀ c : Nat, ∃ t, exec (.avsCurrentRead (some c)) s = .next t ∧ t.rn Reg.PWR_ICORE = c % 65536 ∧
      t.fld Reg.PWR_VCORE 0 16 = s.fld Reg.PWR_VCORE 0 16 ∧ t.fld Reg.PWR_VCORE 28 4 = s.fld Reg.PWR_VCORE 28 4 ∧
      SameRegs [Reg.PWR_ICORE, Reg.PWR_VCORE] s t ∧ t = { s with
        regs := t.regs
        pwr := { s.pwr with avsFails := 0 }
        freeCtr := t.freeCtr }) ∧
    (∀ c, c = .avsCurrentRead none ∨ c = .avsAlert none → s.pwr.avsFails + 1 < 3 ∨ s.pwr.avsFault = true →
      exec c s = .next { s with pwr := { s.pwr with avsFails := s.pwr.avsFails + 1 } }) ∧
    (∀ b : Bool, b = false ∨ s.pwr.avsFault = true →
      exec (.avsAlert (some b)) s = .next { s with pwr := { s.pwr with avsFails := 0 } }) ∧
    (∀ (c : Instr) (code n : Nat), s.pwr.avsFault = false →
      ((c = .avsCurrentRead none ∨ c = .avsAlert none) ∧ code = 0x41 ∧ n = s.pwr.avsFails + 1 ∧ 3 ≤ n) ∨
      (c = .avsAlert (some true) ∧ code = 0x42 ∧ n = 0) → ∃ u : State, exec c s = .next u.applyPower ∧ u.powerRecord code ∧
        u.rbit Reg.PWR_STATUS 9 = false ∧ SameBits Reg.PWR_STATUS [9] s u ∧ u.rbit Reg.PWR_INT_STATUS 5 = true ∧
        u.pwr = { s.pwr with
          avsFault := true
          avsFails := n } ∧ u.mem = s.mem ∧ u.streams = s.streams) ∧
    (∀ ok, ok = false ∨ s.pwr.avsFault = false → exec (.avsRetry ok) s = .next s) ∧
    (s.pwr.avsFault = true → ∃ u : State, exec (.avsRetry true) s = .next u.applyPower ∧ u.rbit Reg.PWR_STATUS 9 = true ∧
      SameBits Reg.PWR_STATUS [9] s u ∧ SameRegs [Reg.PWR_STATUS] s u ∧ u = { s with
        regs := u.regs
        pwr := { s.pwr with
          avsFault := false
          avsFails := 0 } })) ∧
  (∀ (s : State) (dies : List Nat) (oasis : Nat), s.halted = false →
    ((∃ x ∈ dies, 110 ≤ x) ∨ 105 ≤ oasis → ∃ t, exec (.thermalSample dies oasis) s = .next t ∧ t.halted = true ∧
      t.pins = { s.pins with thermtrip := true } ∧ t.pwr = { s.pwr with trip := true } ∧ t.rbit Reg.PWR_STATUS 8 = true ∧
      SameBits Reg.PWR_STATUS [8] s t ∧ SameRegs [Reg.PWR_STATUS, Reg.OAS_OASIS_TEMP] s t ∧ t = { s with
        regs := t.regs
        pwr := t.pwr
        pins := t.pins }) ∧
    ((∀ x ∈ dies, x < 110) → oasis < 105 → ∃ u : State, exec (.thermalSample dies oasis) s = .next u.applyPower ∧
      u.rn Reg.OAS_OASIS_TEMP = oasis ∧ (∀ d < 4, dies[d]? = none → (u.die d).thermFreq = (s.die d).thermFreq ∧
        (u.die d).thermIssue = (s.die d).thermIssue ∧ u.reg (Reg.OAS_DIEd_TEMP d) = s.reg (Reg.OAS_DIEd_TEMP d)) ∧
      (∀ d < 4, ∀ x, dies[d]? = some x → (u.die d).temp = x ∧ (u.die d).throttling = decide (100 ≤ x) ∧
        u.fld (Reg.OAS_DIEd_TEMP d) 0 8 = x ∧ u.fld (Reg.OAS_DIEd_TEMP d) 8 8 = max (s.fld (Reg.OAS_DIEd_TEMP d) 8 8) x ∧
        (u.die d).capFreq = (s.die d).capFreq ∧ (u.die d).freq = (s.die d).freq ∧
        (105 ≤ x → (u.die d).thermFreq = 800 ∧ (u.die d).thermIssue = 8) ∧
        (105 ≤ x → (s.die d).temp < 105 → u.powerRecord 0x40 ∧ u.rbit Reg.PWR_INT_STATUS 2 = true) ∧
        (100 ≤ x → x < 105 → (s.die d).throttling = false ∨ (s.die d).thermTb + 100000 ≤ s.tb.toNat →
          (u.die d).thermFreq = max 800 ((s.die d).freq - 25) ∧ (u.die d).thermIssue = (s.die d).thermIssue) ∧
        (100 ≤ x → (s.die d).throttling = false → u.rbit Reg.PWR_INT_STATUS 1 = true) ∧
        (x < 100 → 97 < x ∨ s.tb.toNat < (s.die d).thermTb + 1000000 → (u.die d).thermFreq = (s.die d).thermFreq ∧
          (u.die d).thermIssue = (s.die d).thermIssue) ∧
        (x ≤ 97 → (s.die d).thermTb + 1000000 ≤ s.tb.toNat → (s.die d).thermFreq < 1650 → (u.die d).thermFreq =
          if min (s.boostTarget d) (s.die d).capFreq ≤ (s.die d).thermFreq + 25 then 1650 else (s.die d).thermFreq + 25)) ∧
      u.rn Reg.PWR_THROTTLE = min (s.rn Reg.PWR_THROTTLE + ((List.range 4).filter (fun d =>
        dies[d]?.any (fun x => decide (100 ≤ x) && !(s.die d).throttling))).length) 0xFFFFFFFF ∧
      u.mem = s.mem ∧ u.streams = s.streams)) ∧
  (∀ (s : State) (d : Fin 4), s.halted = false →
    ((s.die d).night = true ∨ s.dieQuiet d = false → exec (.dieNightEnter d) s = .next s) ∧
    ((s.die d).night = false → s.dieQuiet d = true → ∃ u : State, exec (.dieNightEnter d) s = .next u.applyPower ∧
      u.die d = { s.die d with
        night := true
        waking := false } ∧ (∀ k, k ≠ d.val → u.die k = s.die k) ∧ u.rbit (Reg.DMEM_STATUS d) 2 = true ∧ CisternsShow u d 4 ∧
      (∀ k, u.residue k = if tapOfDie d (k / 512) then 0 else s.residue k) ∧ SameRegs (nightRegs d) s u ∧ u = { s with
        tb := (s.reach ((s.die d).busyTb + 1000000 * max 1 (s.fld Reg.PWR_NIGHT_DELAY 0 16))).tb
        regs := u.regs
        meter := { s.meter with
          counts := u.meter.counts
          residues := u.meter.residues }
        pwr := { s.pwr with dies := u.pwr.dies } }) ∧
    ((s.die d).night = false → exec (.dieWake d) s = .next s) ∧
    ((s.die d).night = true → ∃ t, exec (.dieWake d) s = .next t ∧ OnlyDie [] s t d { s.die d with waking := true }) ∧
    ((s.die d).night = false ∨ (s.die d).waking = false → exec (.dieWakeComplete d) s = .next s) ∧
    ((s.die d).night = true → (s.die d).waking = true → ∃ u : State, exec (.dieWakeComplete d) s = .next u.applyPower ∧
      u.rbit (Reg.DMEM_STATUS d) 2 = false ∧ CisternsShow u d 0 ∧ OnlyDie (nightRegs d) s u d { s.die d with
        night := false
        waking := false
        capFreq := (s.awakeDies.map (fun k => (s.die k).capFreq)).foldl min 1650
        busyTb := s.tb.toNat }) ∧
    (∀ a, placeOf a = .dram d → OnlyDie [] s (s.touchDie a) d (if (s.die d).night = true then { s.die d with waking := true }
      else { s.die d with busyTb := s.tb.toNat })))

/-- A cold or host reset returns every register but its cause and the nonce to its reset value and the part to its reset
state; memory's cells, the fuses, the island and the JTAG pins are kept, the release of POR_N reads the straps and
sets the audio drive by the level of VDD_AUD, and programming cut short leaves an incomplete generation. Warm and
die resets are deferred while fuses are programmed; otherwise a warm reset comes first and then the dies in order. A
warm reset leaves no structure, weights, pools or load, the part EMPTY, every die awake and the counters zero; with
no stream, request, report or array at work it changes neither the timebase, the fuses, the fabric, the snapshot
held nor DRAM. A die reset empties the die's clusters and cistern engines but for their known-bad lists, gates its
regions, clears its counters and snapshot copies, and closes the streams on it; the rest of the part runs on and
DRAM keeps its contents. A function-level reset disables the function's rings, drops what was fetched and closes its
streams; of the physical function it acts on all. PCIE_LINK_DOWN raises LINK_CHG. While POR_N is asserted the test
instructions put the signal balls in the mode that IEEE 1149 gives them (log 10). How far each reset reaches is as
log 30 says; rate and width of a link that is down are open (log 4). -/
def Obligations.ResetsClearAndKeep : Prop :=
  (∀ (s : State) (strap : Straps),
    (∃ t, exec (.powerOnReset true strap) s = .next t ∧
      Cold s t 1 { por := true, smb := s.pins.smb, aud33 := s.pins.aud33, jtag := s.pins.jtag, mode := s.pins.mode, cells := s.pins.cells }) ∧
    (s.pins.por = false → exec (.powerOnReset false strap) s = .next s) ∧
    (s.pins.por = true → ∃ t, exec (.powerOnReset false strap) s = .next t ∧ t.halted = false ∧ Cold s t 1 {
      por := false
      smb := 0x38 + strap.addr.val
      aud33 := strap.aud33
      jtag := if s.pins.jtag = .bypass then .bypass else .idcode
      mode := .part
      cells := s.pins.cells }) ∧
    (∀ cause, s.halted = false → ∃ t, exec (.hostReset cause) s = .next t ∧
      Cold s t (match cause with | .perst => 2 | .hot => 4 | .linkDown => 4)
        { por := false, smb := s.pins.smb, aud33 := s.pins.aud33, jtag := s.pins.jtag, mode := s.pins.mode, cells := s.pins.cells })) ∧
  (∀ (s : State) (l : List (Nat × Bool)) (c : Instr) (m : PinMode), s.pins.por = true →
    (c = .jtagSamplePreload l ∧ m = .part) ∨ (c = .jtagExtest l ∧ m = .cells) ∨ (c = .jtagHighz ∧ m = .floating) ∨
      (c = .jtagClamp ∧ m = .held) ∨ (c = .jtagExtestPulse ∧ m = .pulse) ∨ (c = .jtagExtestTrain ∧ m = .train) →
    ∃ t, exec c s = .next t ∧ t.pins.mode = m ∧ t.pins.por = true) ∧
  (∀ (s : State) (v : Word) (c : Instr), s.halted = false → c = .warmReset v ∨ c = .dieReset v →
    (s.sec.prog ≠ none → exec c s = .next { s with sec := { s.sec with
      warmDue := s.sec.warmDue || bitAt v.toNat 0
      dieDue := s.sec.dieDue ||| bitsAt v.toNat 4 4 } }) ∧
    (s.sec.prog = none → exec c s = .next ((List.range 4).foldl (fun t d => if bitAt v.toNat (4 + d) then t.resetDie d else t)
      (if bitAt v.toNat 0 then s.warm else s)))) ∧
  (∀ s : State, s.warm.structure_ = {} ∧ s.warm.weights = [] ∧ s.warm.pools = [] ∧ s.warm.load = none ∧
    s.warm.digest = List.replicate 64 0 ∧ s.warm.caravans = [] ∧ s.warm.cores = [] ∧ s.warm.snap.pending = none ∧
    s.warm.splState = 1 ∧ s.warm.pair Reg.SPL_SERIAL_LO = 0 ∧ s.warm.rbit Reg.SPL_INT_STATUS 3 = true ∧
    s.warm.rbit Reg.OAS_RESET_CAUSE 3 = true ∧ (∀ d < 4, (s.warm.die d).night = false) ∧
    (∀ a ∈ warmCounters, a ∉ oasCounters → s.warm.reg a = 0) ∧
    (s.streams = [] → s.place.pend = [] → s.casc.chans = [] → s.load = none → s.errs.regionWins = [] → s.errs.packageWins = [] →
      s.dueFrames = [] → s.casc.arrays = [] →
      s.warm.tb = s.tb ∧ s.warm.sec = s.sec ∧ s.warm.fab = { s.fab with reqs := [], unr := [] } ∧ s.warm.snap.held = s.snap.held ∧
      s.warm.meter.ring = s.meter.ring ∧ s.warm.pending = s.pending ∧ ∀ a < 0x4000000000, s.warm.byte a = s.byte a)) ∧
  (∀ (s : State) (d : Fin 4), ∃ u : State, s.resetDie d = u.afterGone ∧
    (∀ n, clDie (n / 4) = d → u.core n = {}) ∧ (∀ e < 96, clDie e = d → u.car e = {}) ∧
    (∀ ch < 32, (u.cis (32 * d + ch)).queue = [] ∧ (u.cis (32 * d + ch)).waiting = [] ∧ (u.cis (32 * d + ch)).running = none ∧
      u.fld (Reg.CIS_STATUS (32 * d + ch)) 0 3 =
        if u.rbit (Reg.DMEM_CH_OK d) ch then (if (u.die d).night then 4 else 0) else 3) ∧
    (∀ r < 4, u.rbit Reg.PLC_AWAKE (4 * d + r) = false) ∧ u.rbit Reg.OAS_RESET_CAUSE (4 + d) = true ∧
    (∀ a ∈ dmemCounters d, u.reg a = regReset a) ∧
    (∀ a, dieBase d ≤ a → a < dieBase (d + 1) → AMap.read (fun _ => 0) u.snap.copies a = 0) ∧
    (∀ a, clusterStore (24 * d) ≤ a ∧ a < clusterStore (24 * d) + 24 * 0x800000 ∨
      regionStore (4 * d) ≤ a ∧ a < regionStore (4 * d) + 4 * 0x1000000 → u.byte a = 0) ∧
    (s.crestsOn d = [] → (∀ p ∈ s.place.pend, clDie p.cluster ≠ d) →
      (∀ e ∈ s.streams, s.onDie d e = true → (u.strm e.1).st = .closed) ∧
      ((∀ e ∈ s.streams, s.onDie d e = false) → (∀ e, e / 32 ≠ d.val → u.cis e = s.cis e) ∧
        (∀ ch < 32, (u.cis (32 * d + ch)).bad = (s.cis (32 * d + ch)).bad) ∧ (∀ a < 0x4000000000, u.byte a = s.byte a) ∧
        (∀ n, clDie (n / 4) ≠ d → u.core n = s.core n) ∧ u = { s with
          regs := u.regs
          mem := u.mem
          objs := u.objs
          work := u.work
          cores := u.cores
          savedCores := u.savedCores
          caravans := u.caravans
          cisterns := u.cisterns
          drfTests := u.drfTests
          snap := { s.snap with copies := u.snap.copies }
          meter := { s.meter with
            counts := u.meter.counts
            residues := u.meter.residues }
          place := { s.place with
            waking := u.place.waking
            idle := u.place.idle } }))) ∧
  (∀ (s : State) (f : Fin 64), s.halted = false →
    exec (.functionLevelReset f) s = .next (if f.val = 0 then resetFns s (List.range 64) else s.resetFn f)) ∧
  (∀ (s : State) (f : Fin 64), ∃ u : State, s.resetFn f = u.afterGone ∧ u.rbit Reg.HQ_INT_STATUS 2 = true ∧
    ((∀ p ∈ s.place.pend, ∀ q d, p.src ≠ .command f q d) →
      (∀ e ∈ s.streams, e.2.fn = f.val → e.2.st ≠ .closed → (u.strm e.1).st = .closed) ∧
      ((∀ e ∈ s.streams, e.2.fn ≠ f.val) → (∀ q < 64, u.rbit (Reg.HQ_SQq_CFG f q) 5 = false ∧
          u.fld (Reg.HQ_SQq_STATUS f q) 16 2 = 0 ∧ u.rbit (Reg.HQ_CQq_CFG f q) 4 = false) ∧
        u.host.fetched = s.host.fetched.filter (fun x => x.fn != f.val) ∧
        (∀ a, hqCounterOf f a = true → u.reg a = regReset a) ∧
        (∀ a, hqCounterOf f a = false → a ≠ Reg.HQ_INT_STATUS →
          (∀ q < 64, a ≠ Reg.HQ_SQq_CFG f q ∧ a ≠ Reg.HQ_SQq_STATUS f q ∧ a ≠ Reg.HQ_CQq_CFG f q) → u.reg a = s.reg a) ∧
        u = { s with
          regs := u.regs
          host := u.host
          caravans := u.caravans }))) ∧
  (∀ s : State, s.halted = false → ∃ t, exec .pcieLinkDown s = .next t ∧ t.rbit Reg.HQ_INT_STATUS 1 = true ∧
    t.rbit Reg.HQ_MGT_EVENTS 2 = true ∧ (∀ i, 8 ≤ i → t.rbit Reg.HQ_LINK i = s.rbit Reg.HQ_LINK i) ∧
    (s.rbit Reg.HQ_MGT_ALERT 2 = true → t.pins.alert = true) ∧
    SameRegs [Reg.HQ_LINK, Reg.HQ_INT_STATUS, Reg.HQ_MGT_EVENTS] s t ∧ KeepsVectors s t ∧ t = { s with
      regs := t.regs
      pins := { s.pins with alert := t.pins.alert }
      freeCtr := t.freeCtr
      host := { s.host with vectors := t.host.vectors } })

/-- Each of the six test instructions is selected while POR_N is asserted, and SAMPLE/PRELOAD and EXTEST then load their
cells; at any other time it selects BYPASS, leaves every pin to the part and the boundary register as it is. BYPASS
and IDCODE act at any time and leave the pins to the part; IDCODE answers 0x12448C4F. A release of POR_N returns the
instruction register to IDCODE, unless BYPASS is loaded. No instruction changes anything but the test port and the
answer: not the fused seeds, the security engine or the island. -/
def Obligations.TestInstructionsActOnlyUnderReset : Prop :=
  (∀ (s : State) (c : Instr) (i : JtagInstr) (l : List (Nat × Bool)),
    (c = .jtagSamplePreload l ∧ i = .samplePreload) ∨ (c = .jtagExtest l ∧ i = .extest) ∨
    (l = [] ∧ ((c = .jtagHighz ∧ i = .highz) ∨ (c = .jtagClamp ∧ i = .clamp) ∨
      (c = .jtagExtestPulse ∧ i = .extestPulse) ∨ (c = .jtagExtestTrain ∧ i = .extestTrain))) →
    ∃ t, exec c s = .next t ∧
      (s.pins.por = true → t.pins.jtag = i ∧
        (∀ k, (∀ b, (k, b) ∉ l) → AMap.read (fun _ => 0) t.pins.cells k = AMap.read (fun _ => 0) s.pins.cells k) ∧
        (∀ l1 k b l2, l = l1 ++ (k, b) :: l2 → (∀ x, (k, x) ∉ l2) → AMap.read (fun _ => 0) t.pins.cells k = b2n b)) ∧
      (s.pins.por = false → t.pins.jtag = .bypass ∧ t.pins.mode = .part ∧ t.pins.cells = s.pins.cells) ∧
      t = { s with pins := { s.pins with
        jtag := t.pins.jtag
        mode := t.pins.mode
        cells := t.pins.cells } }) ∧
  (∀ s : State, ∃ t, exec .jtagBypass s = .next t ∧ t = { s with pins := { s.pins with
      jtag := .bypass
      mode := .part } }) ∧
  (∀ s : State, ∃ t, exec .jtagIdcode s = .next t ∧ leVal t.resp.bytes = 0x12448C4F ∧ t.resp.bytes.length = 4 ∧ t = { s with
      pins := { s.pins with
        jtag := .idcode
        mode := .part }
      resp := t.resp }) ∧
  (∀ (s : State) (strap : Straps), s.pins.por = true → ∃ t, exec (.powerOnReset false strap) s = .next t ∧ t.pins.mode = .part ∧
    t.pins.jtag = if s.pins.jtag = .bypass then .bypass else .idcode)
end

