-- ==== Sys2Proof/Laws/AMap.lean ====
section
/-!
SUPPORT. Laws of sparse maps: reading what was written, leaving every other key alone, and keeping the canonical form.
-/

namespace Sys2Proof.AMap

variable {β : Type} (d : Nat → β)

@[simp] theorem read_nil (k : Nat) : read d ([] : AMap β) k = d k := rfl

theorem read_erase_same (m : AMap β) (k : Nat) : read d (erase m k) k = d k := by
  induction m with
  | nil => rfl
  | cons e t ih =>
    by_cases h : e.1 = k
    · simp [erase, h, ih]
    · simp [erase, read, h, ih]

theorem read_erase_other (m : AMap β) {k j : Nat} (h : j ≠ k) : read d (erase m k) j = read d m j := by
  induction m with
  | nil => rfl
  | cons e t ih =>
    by_cases he : e.1 = k
    · have : e.1 ≠ j := fun x => h (x.symm.trans he)
      simp [erase, read, he, ih, h.symm]
    · simp [erase, read, he, ih]

theorem read_place_same (m : AMap β) (k : Nat) (v : β) (h : ∀ e ∈ m, e.1 ≠ k) : read d (place m k v) k = v := by
  induction m with
  | nil => simp [place, read]
  | cons e t ih =>
    have he : e.1 ≠ k := h e (by simp)
    by_cases hl : k < e.1
    · simp [place, read, hl]
    · simp [place, read, hl, he, ih (fun x hx => h x (by simp [hx]))]

theorem read_place_other (m : AMap β) {k j : Nat} (v : β) (h : j ≠ k) : read d (place m k v) j = read d m j := by
  induction m with
  | nil => simp [place, read, h.symm]
  | cons e t ih =>
    by_cases hl : k < e.1
    · simp [place, read, hl, h.symm]
    · simp [place, read, hl, ih]

theorem not_mem_erase (m : AMap β) (k : Nat) : ∀ e ∈ erase m k, e.1 ≠ k := by
  induction m with
  | nil => simp [erase]
  | cons e t ih =>
    intro x hx
    by_cases he : e.1 = k
    · simp only [erase, he, if_true] at hx
      exact ih x hx
    · simp only [erase, he, if_false, List.mem_cons] at hx
      rcases hx with rfl | hx
      · exact he
      · exact ih x hx

theorem erase_subset (m : AMap β) (k : Nat) : ∀ e ∈ erase m k, e ∈ m := by
  induction m with
  | nil => simp [erase]
  | cons e t ih =>
    intro x hx
    by_cases he : e.1 = k
    · simp only [erase, he, if_true] at hx
      exact List.mem_cons_of_mem _ (ih x hx)
    · simp only [erase, he, if_false, List.mem_cons] at hx
      rcases hx with rfl | hx
      · simp
      · exact List.mem_cons_of_mem _ (ih x hx)

variable [DecidableEq β]

/-- A read of the key written gives the value written. -/
@[simp] theorem read_write_same (m : AMap β) (k : Nat) (v : β) : read d (write d m k v) k = v := by
  unfold write
  split
  · rename_i h; rw [read_erase_same, h]
  · exact read_place_same d _ _ _ (not_mem_erase m k)

/-- A write leaves what every other key reads as. -/
theorem read_write_other (m : AMap β) {k j : Nat} (v : β) (h : j ≠ k) : read d (write d m k v) j = read d m j := by
  unfold write
  split
  · exact read_erase_other d m h
  · rw [read_place_other d _ v h, read_erase_other d m h]

theorem read_write (m : AMap β) (k j : Nat) (v : β) :
    read d (write d m k v) j = if j = k then v else read d m j := by
  by_cases h : j = k
  · subst h; simp
  · simp [h, read_write_other d m v h]

/-- The canonical form as a statement about the list. -/
def Sorted (m : AMap β) : Prop := m.Pairwise (fun a b => a.1 < b.1) ∧ ∀ e ∈ m, e.2 ≠ d e.1

theorem wfFrom_iff (m : AMap β) (lo : Option Nat) :
    wfFrom d lo m = true ↔ (∀ b ∈ lo, ∀ e ∈ m, b < e.1) ∧ Sorted d m := by
  induction m generalizing lo with
  | nil => simp [wfFrom, Sorted]
  | cons e t ih =>
    obtain ⟨k, v⟩ := e
    simp only [wfFrom, Bool.and_eq_true, decide_eq_true_eq, ih, Sorted, List.pairwise_cons, List.mem_cons,
      forall_eq_or_imp, Option.mem_def]
    constructor
    · rintro ⟨⟨h1, h2⟩, h3, h4, h5⟩
      refine ⟨?_, ⟨h3 k rfl, h4⟩, h2, h5⟩
      rintro b rfl
      simp only [decide_eq_true_eq] at h1
      exact ⟨h1, fun x hx => lt_trans h1 (h3 k rfl x hx)⟩
    · rintro ⟨h1, ⟨h3, h4⟩, h2, h5⟩
      refine ⟨⟨?_, h2⟩, ?_, h4, h5⟩
      · cases lo with
        | none => rfl
        | some b => simpa using (h1 b rfl).1
      · rintro b hb e he
        cases hb
        exact h3 e he

theorem wf_iff (m : AMap β) : wf d m = true ↔ Sorted d m := by simp [wf, wfFrom_iff]

omit [DecidableEq β] in
theorem sorted_erase {m : AMap β} (h : Sorted d m) (k : Nat) : Sorted d (erase m k) := by
  refine ⟨?_, fun e he => h.2 e (erase_subset m k e he)⟩
  have hs : List.Sublist (erase m k) m := by
    clear h
    induction m with
    | nil => exact List.Sublist.slnil
    | cons e t ih =>
      by_cases he : e.1 = k
      · simp only [erase, he, if_true]; exact ih.cons _
      · simp only [erase, he, if_false]; exact ih.cons_cons _
  exact h.1.sublist hs

omit [DecidableEq β] in
theorem sorted_filter {m : AMap β} (h : Sorted d m) (p : Nat × β → Bool) : Sorted d (m.filter p) :=
  ⟨h.1.sublist List.filter_sublist, fun e he => h.2 e (List.mem_of_mem_filter he)⟩

omit [DecidableEq β] in
theorem mem_place {m : AMap β} {k : Nat} {v : β} {e : Nat × β} (h : e ∈ place m k v) : e = (k, v) ∨ e ∈ m := by
  induction m with
  | nil => simpa [place] using h
  | cons x t ih =>
    simp only [place] at h
    split at h
    · simpa using h
    · rcases List.mem_cons.1 h with rfl | h
      · simp
      · rcases ih h with h | h
        · exact .inl h
        · exact .inr (List.mem_cons_of_mem _ h)

omit [DecidableEq β] in
theorem sorted_place {m : AMap β} (h : Sorted d m) {k : Nat} {v : β} (hk : ∀ e ∈ m, e.1 ≠ k) (hv : v ≠ d k) :
    Sorted d (place m k v) := by
  induction m with
  | nil => simp [place, Sorted, hv]
  | cons x t ih =>
    obtain ⟨h1, h2⟩ := h
    obtain ⟨hx, ht⟩ := List.pairwise_cons.1 h1
    have hxk : x.1 ≠ k := hk x (by simp)
    simp only [place]
    split
    · rename_i hl
      refine ⟨List.pairwise_cons.2 ⟨fun e he => ?_, h1⟩, fun e he => ?_⟩
      · rcases List.mem_cons.1 he with rfl | he
        · exact hl
        · exact lt_trans hl (hx e he)
      · rcases List.mem_cons.1 he with rfl | he
        · exact hv
        · exact h2 e he
    · rename_i hl
      have hs := ih ⟨ht, fun e he => h2 e (List.mem_cons_of_mem _ he)⟩ (fun e he => hk e (List.mem_cons_of_mem _ he))
      refine ⟨List.pairwise_cons.2 ⟨fun e he => ?_, hs.1⟩, fun e he => ?_⟩
      · rcases mem_place he with rfl | he
        · exact lt_of_le_of_ne (not_lt.1 hl) hxk
        · exact hx e he
      · rcases List.mem_cons.1 he with rfl | he
        · exact h2 _ (by simp)
        · exact hs.2 e he

/-- A write keeps the canonical form. -/
theorem wf_write {m : AMap β} (h : wf d m = true) (k : Nat) (v : β) : wf d (write d m k v) = true := by
  rw [wf_iff] at h ⊢
  unfold write
  split
  · exact sorted_erase d h k
  · rename_i hv
    exact sorted_place d (sorted_erase d h k) (not_mem_erase m k) hv

/-- Dropping entries keeps the canonical form. -/
theorem wf_filter {m : AMap β} (h : wf d m = true) (p : Nat × β → Bool) : wf d (m.filter p) = true := by
  rw [wf_iff] at h ⊢
  exact sorted_filter d h p

omit [DecidableEq β] in
/-- What a filtered map reads as: what it held where the entry is kept, the default elsewhere. -/
theorem read_filter {m : AMap β} (p : Nat → Bool) (k : Nat) :
    read d (m.filter (fun e => p e.1)) k = if p k then read d m k else d k := by
  induction m with
  | nil => simp
  | cons e t ih =>
    obtain ⟨j, v⟩ := e
    by_cases hp : p j <;> by_cases hj : j = k <;> simp_all [read]

end Sys2Proof.AMap
end

