-- ==== Sys2Proof/Laws/Bits.lean ====
section
/-!
SUPPORT. What a field of a number holds after a field of it was replaced.
-/

namespace Sys2Proof

theorem bitAt_eq_testBit (x i : Nat) : bitAt x i = x.testBit i := by
  simp [bitAt, Nat.testBit, Nat.and_comm 1, Nat.and_one_is_mod, bne, BEq.beq]

theorem testBit_bitsAt (x lo len i : Nat) : (bitsAt x lo len).testBit i = (decide (i < len) && x.testBit (lo + i)) := by
  simp [bitsAt, Nat.testBit_mod_two_pow, Nat.testBit_shiftRight]

theorem bitsAt_lt (x lo len : Nat) : bitsAt x lo len < 2 ^ len := Nat.mod_lt _ (Nat.two_pow_pos _)

/-- A number is its bits above a field, the field and its bits below it. -/
theorem split_field (x lo len : Nat) :
    x = (x / 2 ^ (lo + len)) * 2 ^ (lo + len) + (bitsAt x lo len * 2 ^ lo + x % 2 ^ lo) := by
  have h1 := Nat.div_add_mod x (2 ^ lo)
  have h2 := Nat.div_add_mod (x / 2 ^ lo) (2 ^ len)
  have h3 : x / 2 ^ (lo + len) = x / 2 ^ lo / 2 ^ len := by rw [Nat.pow_add, Nat.div_div_eq_div_mul]
  have h4 : bitsAt x lo len = x / 2 ^ lo % 2 ^ len := by rw [bitsAt, Nat.shiftRight_eq_div_pow]
  rw [h3, h4, Nat.pow_add]
  calc x = 2 ^ lo * (x / 2 ^ lo) + x % 2 ^ lo := h1.symm
    _ = 2 ^ lo * (2 ^ len * (x / 2 ^ lo / 2 ^ len) + x / 2 ^ lo % 2 ^ len) + x % 2 ^ lo := by rw [h2]
    _ = _ := by ring

/-- Replacing a field keeps the bits above it and below it. -/
theorem putBits_eq (x lo len v : Nat) :
    putBits x lo len v = (x / 2 ^ (lo + len)) * 2 ^ (lo + len) + (v % 2 ^ len * 2 ^ lo + x % 2 ^ lo) := by
  have h := split_field x lo len
  unfold putBits
  omega

theorem testBit_putBits (x lo len v i : Nat) :
    (putBits x lo len v).testBit i = if lo ≤ i ∧ i < lo + len then v.testBit (i - lo) else x.testBit i := by
  have low : x % 2 ^ lo < 2 ^ lo := Nat.mod_lt _ (Nat.two_pow_pos _)
  have mid : v % 2 ^ len * 2 ^ lo + x % 2 ^ lo < 2 ^ (lo + len) := by
    have := Nat.mod_lt v (Nat.two_pow_pos len)
    calc v % 2 ^ len * 2 ^ lo + x % 2 ^ lo < v % 2 ^ len * 2 ^ lo + 2 ^ lo := by omega
      _ = (v % 2 ^ len + 1) * 2 ^ lo := by ring
      _ ≤ 2 ^ len * 2 ^ lo := Nat.mul_le_mul_right _ this
      _ = 2 ^ (lo + len) := by rw [Nat.pow_add, Nat.mul_comm]
  rw [putBits_eq, Nat.mul_comm, Nat.testBit_two_pow_mul_add _ mid, Nat.mul_comm (v % 2 ^ len), Nat.testBit_two_pow_mul_add _ low]
  by_cases h1 : i < lo
  · simp [show i < lo + len by omega, show ¬ lo ≤ i by omega, h1, Nat.testBit_mod_two_pow]
  · by_cases h2 : i < lo + len
    · simp [h1, h2, show lo ≤ i by omega, Nat.testBit_mod_two_pow, show i - lo < len by omega]
    · simp only [h2, if_false, and_false, Nat.testBit_div_two_pow]
      rw [show i - (lo + len) + (lo + len) = i by omega]

/-- A field of a number after the same field was replaced. -/
theorem bitsAt_putBits_same (x lo len v : Nat) : bitsAt (putBits x lo len v) lo len = v % 2 ^ len := by
  apply Nat.eq_of_testBit_eq
  intro i
  rw [testBit_bitsAt, testBit_putBits, Nat.testBit_mod_two_pow]
  by_cases h : i < len <;> simp [h]

/-- A field of a number after another field was replaced. -/
theorem bitsAt_putBits_other (x lo len v p n : Nat) (h : p + n ≤ lo ∨ lo + len ≤ p) :
    bitsAt (putBits x lo len v) p n = bitsAt x p n := by
  apply Nat.eq_of_testBit_eq
  intro i
  rw [testBit_bitsAt, testBit_bitsAt, testBit_putBits]
  by_cases hi : i < n
  · rw [if_neg (by omega)]
  · simp [hi]

theorem bitAt_putBits (x lo len v i : Nat) :
    bitAt (putBits x lo len v) i = if lo ≤ i ∧ i < lo + len then bitAt v (i - lo) else bitAt x i := by
  simp only [bitAt_eq_testBit, testBit_putBits]

/-- A number of 32 bits stays one when a field inside them is replaced. -/
theorem putBits_lt (x lo len v : Nat) (h : lo + len ≤ 32) (hx : x < 2 ^ 32) : putBits x lo len v < 2 ^ 32 := by
  apply Nat.lt_pow_two_of_testBit
  intro i hi
  rw [testBit_putBits, if_neg (by omega)]
  exact Nat.testBit_lt_two_pow (Nat.lt_of_lt_of_le hx (Nat.pow_le_pow_right (by omega) hi))

@[simp] theorem b2n_true : b2n true = 1 := rfl
@[simp] theorem b2n_false : b2n false = 0 := rfl
theorem bitAt_b2n (b : Bool) : bitAt (b2n b) 0 = b := by cases b <;> rfl

end Sys2Proof
end

