-- ==== Sys2Proof/Laws/State.lean ====
section
/-!
SUPPORT. What each update of one field of the state leaves: one lemma per field per update, true by rfl.
-/

namespace Sys2Proof.Machine

variable (s : State)

@[simp] theorem State.setReg_tb (a : Nat) (v : Word) : (s.setReg a v).tb = s.tb := rfl
@[simp] theorem State.setReg_tck (a : Nat) (v : Word) : (s.setReg a v).tck = s.tck := rfl
@[simp] theorem State.setReg_mods (a : Nat) (v : Word) : (s.setReg a v).mods = s.mods := rfl
@[simp] theorem State.setReg_mem (a : Nat) (v : Word) : (s.setReg a v).mem = s.mem := rfl
@[simp] theorem State.setReg_cond (a : Nat) (v : Word) : (s.setReg a v).cond = s.cond := rfl
@[simp] theorem State.setReg_resp (a : Nat) (v : Word) : (s.setReg a v).resp = s.resp := rfl
@[simp] theorem State.setReg_load (a : Nat) (v : Word) : (s.setReg a v).load = s.load := rfl
@[simp] theorem State.setReg_digest (a : Nat) (v : Word) : (s.setReg a v).digest = s.digest := rfl
@[simp] theorem State.setReg_structure_ (a : Nat) (v : Word) : (s.setReg a v).structure_ = s.structure_ := rfl
@[simp] theorem State.setReg_weights (a : Nat) (v : Word) : (s.setReg a v).weights = s.weights := rfl
@[simp] theorem State.setReg_pools (a : Nat) (v : Word) : (s.setReg a v).pools = s.pools := rfl
@[simp] theorem State.setReg_retired (a : Nat) (v : Word) : (s.setReg a v).retired = s.retired := rfl
@[simp] theorem State.setReg_retireDue (a : Nat) (v : Word) : (s.setReg a v).retireDue = s.retireDue := rfl
@[simp] theorem State.setReg_streams (a : Nat) (v : Word) : (s.setReg a v).streams = s.streams := rfl
@[simp] theorem State.setReg_swaps (a : Nat) (v : Word) : (s.setReg a v).swaps = s.swaps := rfl
@[simp] theorem State.setReg_objs (a : Nat) (v : Word) : (s.setReg a v).objs = s.objs := rfl
@[simp] theorem State.setReg_work (a : Nat) (v : Word) : (s.setReg a v).work = s.work := rfl
@[simp] theorem State.setReg_cores (a : Nat) (v : Word) : (s.setReg a v).cores = s.cores := rfl
@[simp] theorem State.setReg_savedCores (a : Nat) (v : Word) : (s.setReg a v).savedCores = s.savedCores := rfl
@[simp] theorem State.setReg_cisterns (a : Nat) (v : Word) : (s.setReg a v).cisterns = s.cisterns := rfl
@[simp] theorem State.setReg_caravans (a : Nat) (v : Word) : (s.setReg a v).caravans = s.caravans := rfl
@[simp] theorem State.setReg_drfTests (a : Nat) (v : Word) : (s.setReg a v).drfTests = s.drfTests := rfl
@[simp] theorem State.setReg_casc (a : Nat) (v : Word) : (s.setReg a v).casc = s.casc := rfl
@[simp] theorem State.setReg_ports (a : Nat) (v : Word) : (s.setReg a v).ports = s.ports := rfl
@[simp] theorem State.setReg_place (a : Nat) (v : Word) : (s.setReg a v).place = s.place := rfl
@[simp] theorem State.setReg_host (a : Nat) (v : Word) : (s.setReg a v).host = s.host := rfl
@[simp] theorem State.setReg_ats (a : Nat) (v : Word) : (s.setReg a v).ats = s.ats := rfl
@[simp] theorem State.setReg_endpoint (a : Nat) (v : Word) : (s.setReg a v).endpoint = s.endpoint := rfl
@[simp] theorem State.setReg_fab (a : Nat) (v : Word) : (s.setReg a v).fab = s.fab := rfl
@[simp] theorem State.setReg_sec (a : Nat) (v : Word) : (s.setReg a v).sec = s.sec := rfl
@[simp] theorem State.setReg_meter (a : Nat) (v : Word) : (s.setReg a v).meter = s.meter := rfl
@[simp] theorem State.setReg_errs (a : Nat) (v : Word) : (s.setReg a v).errs = s.errs := rfl
@[simp] theorem State.setReg_snap (a : Nat) (v : Word) : (s.setReg a v).snap = s.snap := rfl
@[simp] theorem State.setReg_pwr (a : Nat) (v : Word) : (s.setReg a v).pwr = s.pwr := rfl
@[simp] theorem State.setReg_pins (a : Nat) (v : Word) : (s.setReg a v).pins = s.pins := rfl
@[simp] theorem State.setReg_freeCtr (a : Nat) (v : Word) : (s.setReg a v).freeCtr = s.freeCtr := rfl
@[simp] theorem State.setReg_pending (a : Nat) (v : Word) : (s.setReg a v).pending = s.pending := rfl

@[simp] theorem State.setN_tb (a v : Nat) : (s.setN a v).tb = s.tb := rfl
@[simp] theorem State.setN_tck (a v : Nat) : (s.setN a v).tck = s.tck := rfl
@[simp] theorem State.setN_mods (a v : Nat) : (s.setN a v).mods = s.mods := rfl
@[simp] theorem State.setN_mem (a v : Nat) : (s.setN a v).mem = s.mem := rfl
@[simp] theorem State.setN_cond (a v : Nat) : (s.setN a v).cond = s.cond := rfl
@[simp] theorem State.setN_resp (a v : Nat) : (s.setN a v).resp = s.resp := rfl
@[simp] theorem State.setN_load (a v : Nat) : (s.setN a v).load = s.load := rfl
@[simp] theorem State.setN_digest (a v : Nat) : (s.setN a v).digest = s.digest := rfl
@[simp] theorem State.setN_structure_ (a v : Nat) : (s.setN a v).structure_ = s.structure_ := rfl
@[simp] theorem State.setN_weights (a v : Nat) : (s.setN a v).weights = s.weights := rfl
@[simp] theorem State.setN_pools (a v : Nat) : (s.setN a v).pools = s.pools := rfl
@[simp] theorem State.setN_retired (a v : Nat) : (s.setN a v).retired = s.retired := rfl
@[simp] theorem State.setN_retireDue (a v : Nat) : (s.setN a v).retireDue = s.retireDue := rfl
@[simp] theorem State.setN_streams (a v : Nat) : (s.setN a v).streams = s.streams := rfl
@[simp] theorem State.setN_swaps (a v : Nat) : (s.setN a v).swaps = s.swaps := rfl
@[simp] theorem State.setN_objs (a v : Nat) : (s.setN a v).objs = s.objs := rfl
@[simp] theorem State.setN_work (a v : Nat) : (s.setN a v).work = s.work := rfl
@[simp] theorem State.setN_cores (a v : Nat) : (s.setN a v).cores = s.cores := rfl
@[simp] theorem State.setN_savedCores (a v : Nat) : (s.setN a v).savedCores = s.savedCores := rfl
@[simp] theorem State.setN_cisterns (a v : Nat) : (s.setN a v).cisterns = s.cisterns := rfl
@[simp] theorem State.setN_caravans (a v : Nat) : (s.setN a v).caravans = s.caravans := rfl
@[simp] theorem State.setN_drfTests (a v : Nat) : (s.setN a v).drfTests = s.drfTests := rfl
@[simp] theorem State.setN_casc (a v : Nat) : (s.setN a v).casc = s.casc := rfl
@[simp] theorem State.setN_ports (a v : Nat) : (s.setN a v).ports = s.ports := rfl
@[simp] theorem State.setN_place (a v : Nat) : (s.setN a v).place = s.place := rfl
@[simp] theorem State.setN_host (a v : Nat) : (s.setN a v).host = s.host := rfl
@[simp] theorem State.setN_ats (a v : Nat) : (s.setN a v).ats = s.ats := rfl
@[simp] theorem State.setN_endpoint (a v : Nat) : (s.setN a v).endpoint = s.endpoint := rfl
@[simp] theorem State.setN_fab (a v : Nat) : (s.setN a v).fab = s.fab := rfl
@[simp] theorem State.setN_sec (a v : Nat) : (s.setN a v).sec = s.sec := rfl
@[simp] theorem State.setN_meter (a v : Nat) : (s.setN a v).meter = s.meter := rfl
@[simp] theorem State.setN_errs (a v : Nat) : (s.setN a v).errs = s.errs := rfl
@[simp] theorem State.setN_snap (a v : Nat) : (s.setN a v).snap = s.snap := rfl
@[simp] theorem State.setN_pwr (a v : Nat) : (s.setN a v).pwr = s.pwr := rfl
@[simp] theorem State.setN_pins (a v : Nat) : (s.setN a v).pins = s.pins := rfl
@[simp] theorem State.setN_freeCtr (a v : Nat) : (s.setN a v).freeCtr = s.freeCtr := rfl
@[simp] theorem State.setN_pending (a v : Nat) : (s.setN a v).pending = s.pending := rfl

@[simp] theorem State.setFld_tb (a lo len v : Nat) : (s.setFld a lo len v).tb = s.tb := rfl
@[simp] theorem State.setFld_tck (a lo len v : Nat) : (s.setFld a lo len v).tck = s.tck := rfl
@[simp] theorem State.setFld_mods (a lo len v : Nat) : (s.setFld a lo len v).mods = s.mods := rfl
@[simp] theorem State.setFld_mem (a lo len v : Nat) : (s.setFld a lo len v).mem = s.mem := rfl
@[simp] theorem State.setFld_cond (a lo len v : Nat) : (s.setFld a lo len v).cond = s.cond := rfl
@[simp] theorem State.setFld_resp (a lo len v : Nat) : (s.setFld a lo len v).resp = s.resp := rfl
@[simp] theorem State.setFld_load (a lo len v : Nat) : (s.setFld a lo len v).load = s.load := rfl
@[simp] theorem State.setFld_digest (a lo len v : Nat) : (s.setFld a lo len v).digest = s.digest := rfl
@[simp] theorem State.setFld_structure_ (a lo len v : Nat) : (s.setFld a lo len v).structure_ = s.structure_ := rfl
@[simp] theorem State.setFld_weights (a lo len v : Nat) : (s.setFld a lo len v).weights = s.weights := rfl
@[simp] theorem State.setFld_pools (a lo len v : Nat) : (s.setFld a lo len v).pools = s.pools := rfl
@[simp] theorem State.setFld_retired (a lo len v : Nat) : (s.setFld a lo len v).retired = s.retired := rfl
@[simp] theorem State.setFld_retireDue (a lo len v : Nat) : (s.setFld a lo len v).retireDue = s.retireDue := rfl
@[simp] theorem State.setFld_streams (a lo len v : Nat) : (s.setFld a lo len v).streams = s.streams := rfl
@[simp] theorem State.setFld_swaps (a lo len v : Nat) : (s.setFld a lo len v).swaps = s.swaps := rfl
@[simp] theorem State.setFld_objs (a lo len v : Nat) : (s.setFld a lo len v).objs = s.objs := rfl
@[simp] theorem State.setFld_work (a lo len v : Nat) : (s.setFld a lo len v).work = s.work := rfl
@[simp] theorem State.setFld_cores (a lo len v : Nat) : (s.setFld a lo len v).cores = s.cores := rfl
@[simp] theorem State.setFld_savedCores (a lo len v : Nat) : (s.setFld a lo len v).savedCores = s.savedCores := rfl
@[simp] theorem State.setFld_cisterns (a lo len v : Nat) : (s.setFld a lo len v).cisterns = s.cisterns := rfl
@[simp] theorem State.setFld_caravans (a lo len v : Nat) : (s.setFld a lo len v).caravans = s.caravans := rfl
@[simp] theorem State.setFld_drfTests (a lo len v : Nat) : (s.setFld a lo len v).drfTests = s.drfTests := rfl
@[simp] theorem State.setFld_casc (a lo len v : Nat) : (s.setFld a lo len v).casc = s.casc := rfl
@[simp] theorem State.setFld_ports (a lo len v : Nat) : (s.setFld a lo len v).ports = s.ports := rfl
@[simp] theorem State.setFld_place (a lo len v : Nat) : (s.setFld a lo len v).place = s.place := rfl
@[simp] theorem State.setFld_host (a lo len v : Nat) : (s.setFld a lo len v).host = s.host := rfl
@[simp] theorem State.setFld_ats (a lo len v : Nat) : (s.setFld a lo len v).ats = s.ats := rfl
@[simp] theorem State.setFld_endpoint (a lo len v : Nat) : (s.setFld a lo len v).endpoint = s.endpoint := rfl
@[simp] theorem State.setFld_fab (a lo len v : Nat) : (s.setFld a lo len v).fab = s.fab := rfl
@[simp] theorem State.setFld_sec (a lo len v : Nat) : (s.setFld a lo len v).sec = s.sec := rfl
@[simp] theorem State.setFld_meter (a lo len v : Nat) : (s.setFld a lo len v).meter = s.meter := rfl
@[simp] theorem State.setFld_errs (a lo len v : Nat) : (s.setFld a lo len v).errs = s.errs := rfl
@[simp] theorem State.setFld_snap (a lo len v : Nat) : (s.setFld a lo len v).snap = s.snap := rfl
@[simp] theorem State.setFld_pwr (a lo len v : Nat) : (s.setFld a lo len v).pwr = s.pwr := rfl
@[simp] theorem State.setFld_pins (a lo len v : Nat) : (s.setFld a lo len v).pins = s.pins := rfl
@[simp] theorem State.setFld_freeCtr (a lo len v : Nat) : (s.setFld a lo len v).freeCtr = s.freeCtr := rfl
@[simp] theorem State.setFld_pending (a lo len v : Nat) : (s.setFld a lo len v).pending = s.pending := rfl

@[simp] theorem State.setBit_tb (a i : Nat) (b : Bool) : (s.setBit a i b).tb = s.tb := rfl
@[simp] theorem State.setBit_tck (a i : Nat) (b : Bool) : (s.setBit a i b).tck = s.tck := rfl
@[simp] theorem State.setBit_mods (a i : Nat) (b : Bool) : (s.setBit a i b).mods = s.mods := rfl
@[simp] theorem State.setBit_mem (a i : Nat) (b : Bool) : (s.setBit a i b).mem = s.mem := rfl
@[simp] theorem State.setBit_cond (a i : Nat) (b : Bool) : (s.setBit a i b).cond = s.cond := rfl
@[simp] theorem State.setBit_resp (a i : Nat) (b : Bool) : (s.setBit a i b).resp = s.resp := rfl
@[simp] theorem State.setBit_load (a i : Nat) (b : Bool) : (s.setBit a i b).load = s.load := rfl
@[simp] theorem State.setBit_digest (a i : Nat) (b : Bool) : (s.setBit a i b).digest = s.digest := rfl
@[simp] theorem State.setBit_structure_ (a i : Nat) (b : Bool) : (s.setBit a i b).structure_ = s.structure_ := rfl
@[simp] theorem State.setBit_weights (a i : Nat) (b : Bool) : (s.setBit a i b).weights = s.weights := rfl
@[simp] theorem State.setBit_pools (a i : Nat) (b : Bool) : (s.setBit a i b).pools = s.pools := rfl
@[simp] theorem State.setBit_retired (a i : Nat) (b : Bool) : (s.setBit a i b).retired = s.retired := rfl
@[simp] theorem State.setBit_retireDue (a i : Nat) (b : Bool) : (s.setBit a i b).retireDue = s.retireDue := rfl
@[simp] theorem State.setBit_streams (a i : Nat) (b : Bool) : (s.setBit a i b).streams = s.streams := rfl
@[simp] theorem State.setBit_swaps (a i : Nat) (b : Bool) : (s.setBit a i b).swaps = s.swaps := rfl
@[simp] theorem State.setBit_objs (a i : Nat) (b : Bool) : (s.setBit a i b).objs = s.objs := rfl
@[simp] theorem State.setBit_work (a i : Nat) (b : Bool) : (s.setBit a i b).work = s.work := rfl
@[simp] theorem State.setBit_cores (a i : Nat) (b : Bool) : (s.setBit a i b).cores = s.cores := rfl
@[simp] theorem State.setBit_savedCores (a i : Nat) (b : Bool) : (s.setBit a i b).savedCores = s.savedCores := rfl
@[simp] theorem State.setBit_cisterns (a i : Nat) (b : Bool) : (s.setBit a i b).cisterns = s.cisterns := rfl
@[simp] theorem State.setBit_caravans (a i : Nat) (b : Bool) : (s.setBit a i b).caravans = s.caravans := rfl
@[simp] theorem State.setBit_drfTests (a i : Nat) (b : Bool) : (s.setBit a i b).drfTests = s.drfTests := rfl
@[simp] theorem State.setBit_casc (a i : Nat) (b : Bool) : (s.setBit a i b).casc = s.casc := rfl
@[simp] theorem State.setBit_ports (a i : Nat) (b : Bool) : (s.setBit a i b).ports = s.ports := rfl
@[simp] theorem State.setBit_place (a i : Nat) (b : Bool) : (s.setBit a i b).place = s.place := rfl
@[simp] theorem State.setBit_host (a i : Nat) (b : Bool) : (s.setBit a i b).host = s.host := rfl
@[simp] theorem State.setBit_ats (a i : Nat) (b : Bool) : (s.setBit a i b).ats = s.ats := rfl
@[simp] theorem State.setBit_endpoint (a i : Nat) (b : Bool) : (s.setBit a i b).endpoint = s.endpoint := rfl
@[simp] theorem State.setBit_fab (a i : Nat) (b : Bool) : (s.setBit a i b).fab = s.fab := rfl
@[simp] theorem State.setBit_sec (a i : Nat) (b : Bool) : (s.setBit a i b).sec = s.sec := rfl
@[simp] theorem State.setBit_meter (a i : Nat) (b : Bool) : (s.setBit a i b).meter = s.meter := rfl
@[simp] theorem State.setBit_errs (a i : Nat) (b : Bool) : (s.setBit a i b).errs = s.errs := rfl
@[simp] theorem State.setBit_snap (a i : Nat) (b : Bool) : (s.setBit a i b).snap = s.snap := rfl
@[simp] theorem State.setBit_pwr (a i : Nat) (b : Bool) : (s.setBit a i b).pwr = s.pwr := rfl
@[simp] theorem State.setBit_pins (a i : Nat) (b : Bool) : (s.setBit a i b).pins = s.pins := rfl
@[simp] theorem State.setBit_freeCtr (a i : Nat) (b : Bool) : (s.setBit a i b).freeCtr = s.freeCtr := rfl
@[simp] theorem State.setBit_pending (a i : Nat) (b : Bool) : (s.setBit a i b).pending = s.pending := rfl

@[simp] theorem State.setPair_tb (a v : Nat) : (s.setPair a v).tb = s.tb := rfl
@[simp] theorem State.setPair_tck (a v : Nat) : (s.setPair a v).tck = s.tck := rfl
@[simp] theorem State.setPair_mods (a v : Nat) : (s.setPair a v).mods = s.mods := rfl
@[simp] theorem State.setPair_mem (a v : Nat) : (s.setPair a v).mem = s.mem := rfl
@[simp] theorem State.setPair_cond (a v : Nat) : (s.setPair a v).cond = s.cond := rfl
@[simp] theorem State.setPair_resp (a v : Nat) : (s.setPair a v).resp = s.resp := rfl
@[simp] theorem State.setPair_load (a v : Nat) : (s.setPair a v).load = s.load := rfl
@[simp] theorem State.setPair_digest (a v : Nat) : (s.setPair a v).digest = s.digest := rfl
@[simp] theorem State.setPair_structure_ (a v : Nat) : (s.setPair a v).structure_ = s.structure_ := rfl
@[simp] theorem State.setPair_weights (a v : Nat) : (s.setPair a v).weights = s.weights := rfl
@[simp] theorem State.setPair_pools (a v : Nat) : (s.setPair a v).pools = s.pools := rfl
@[simp] theorem State.setPair_retired (a v : Nat) : (s.setPair a v).retired = s.retired := rfl
@[simp] theorem State.setPair_retireDue (a v : Nat) : (s.setPair a v).retireDue = s.retireDue := rfl
@[simp] theorem State.setPair_streams (a v : Nat) : (s.setPair a v).streams = s.streams := rfl
@[simp] theorem State.setPair_swaps (a v : Nat) : (s.setPair a v).swaps = s.swaps := rfl
@[simp] theorem State.setPair_objs (a v : Nat) : (s.setPair a v).objs = s.objs := rfl
@[simp] theorem State.setPair_work (a v : Nat) : (s.setPair a v).work = s.work := rfl
@[simp] theorem State.setPair_cores (a v : Nat) : (s.setPair a v).cores = s.cores := rfl
@[simp] theorem State.setPair_savedCores (a v : Nat) : (s.setPair a v).savedCores = s.savedCores := rfl
@[simp] theorem State.setPair_cisterns (a v : Nat) : (s.setPair a v).cisterns = s.cisterns := rfl
@[simp] theorem State.setPair_caravans (a v : Nat) : (s.setPair a v).caravans = s.caravans := rfl
@[simp] theorem State.setPair_drfTests (a v : Nat) : (s.setPair a v).drfTests = s.drfTests := rfl
@[simp] theorem State.setPair_casc (a v : Nat) : (s.setPair a v).casc = s.casc := rfl
@[simp] theorem State.setPair_ports (a v : Nat) : (s.setPair a v).ports = s.ports := rfl
@[simp] theorem State.setPair_place (a v : Nat) : (s.setPair a v).place = s.place := rfl
@[simp] theorem State.setPair_host (a v : Nat) : (s.setPair a v).host = s.host := rfl
@[simp] theorem State.setPair_ats (a v : Nat) : (s.setPair a v).ats = s.ats := rfl
@[simp] theorem State.setPair_endpoint (a v : Nat) : (s.setPair a v).endpoint = s.endpoint := rfl
@[simp] theorem State.setPair_fab (a v : Nat) : (s.setPair a v).fab = s.fab := rfl
@[simp] theorem State.setPair_sec (a v : Nat) : (s.setPair a v).sec = s.sec := rfl
@[simp] theorem State.setPair_meter (a v : Nat) : (s.setPair a v).meter = s.meter := rfl
@[simp] theorem State.setPair_errs (a v : Nat) : (s.setPair a v).errs = s.errs := rfl
@[simp] theorem State.setPair_snap (a v : Nat) : (s.setPair a v).snap = s.snap := rfl
@[simp] theorem State.setPair_pwr (a v : Nat) : (s.setPair a v).pwr = s.pwr := rfl
@[simp] theorem State.setPair_pins (a v : Nat) : (s.setPair a v).pins = s.pins := rfl
@[simp] theorem State.setPair_freeCtr (a v : Nat) : (s.setPair a v).freeCtr = s.freeCtr := rfl
@[simp] theorem State.setPair_pending (a v : Nat) : (s.setPair a v).pending = s.pending := rfl

@[simp] theorem State.bump_tb (a n : Nat) : (s.bump a n).tb = s.tb := by rw [State.bump, State.setN_tb]
@[simp] theorem State.bump_tck (a n : Nat) : (s.bump a n).tck = s.tck := by rw [State.bump, State.setN_tck]
@[simp] theorem State.bump_mods (a n : Nat) : (s.bump a n).mods = s.mods := by rw [State.bump, State.setN_mods]
@[simp] theorem State.bump_mem (a n : Nat) : (s.bump a n).mem = s.mem := by rw [State.bump, State.setN_mem]
@[simp] theorem State.bump_cond (a n : Nat) : (s.bump a n).cond = s.cond := by rw [State.bump, State.setN_cond]
@[simp] theorem State.bump_resp (a n : Nat) : (s.bump a n).resp = s.resp := by rw [State.bump, State.setN_resp]
@[simp] theorem State.bump_load (a n : Nat) : (s.bump a n).load = s.load := by rw [State.bump, State.setN_load]
@[simp] theorem State.bump_digest (a n : Nat) : (s.bump a n).digest = s.digest := by rw [State.bump, State.setN_digest]
@[simp] theorem State.bump_structure_ (a n : Nat) : (s.bump a n).structure_ = s.structure_ := by rw [State.bump, State.setN_structure_]
@[simp] theorem State.bump_weights (a n : Nat) : (s.bump a n).weights = s.weights := by rw [State.bump, State.setN_weights]
@[simp] theorem State.bump_pools (a n : Nat) : (s.bump a n).pools = s.pools := by rw [State.bump, State.setN_pools]
@[simp] theorem State.bump_retired (a n : Nat) : (s.bump a n).retired = s.retired := by rw [State.bump, State.setN_retired]
@[simp] theorem State.bump_retireDue (a n : Nat) : (s.bump a n).retireDue = s.retireDue := by rw [State.bump, State.setN_retireDue]
@[simp] theorem State.bump_streams (a n : Nat) : (s.bump a n).streams = s.streams := by rw [State.bump, State.setN_streams]
@[simp] theorem State.bump_swaps (a n : Nat) : (s.bump a n).swaps = s.swaps := by rw [State.bump, State.setN_swaps]
@[simp] theorem State.bump_objs (a n : Nat) : (s.bump a n).objs = s.objs := by rw [State.bump, State.setN_objs]
@[simp] theorem State.bump_work (a n : Nat) : (s.bump a n).work = s.work := by rw [State.bump, State.setN_work]
@[simp] theorem State.bump_cores (a n : Nat) : (s.bump a n).cores = s.cores := by rw [State.bump, State.setN_cores]
@[simp] theorem State.bump_savedCores (a n : Nat) : (s.bump a n).savedCores = s.savedCores := by rw [State.bump, State.setN_savedCores]
@[simp] theorem State.bump_cisterns (a n : Nat) : (s.bump a n).cisterns = s.cisterns := by rw [State.bump, State.setN_cisterns]
@[simp] theorem State.bump_caravans (a n : Nat) : (s.bump a n).caravans = s.caravans := by rw [State.bump, State.setN_caravans]
@[simp] theorem State.bump_drfTests (a n : Nat) : (s.bump a n).drfTests = s.drfTests := by rw [State.bump, State.setN_drfTests]
@[simp] theorem State.bump_casc (a n : Nat) : (s.bump a n).casc = s.casc := by rw [State.bump, State.setN_casc]
@[simp] theorem State.bump_ports (a n : Nat) : (s.bump a n).ports = s.ports := by rw [State.bump, State.setN_ports]
@[simp] theorem State.bump_place (a n : Nat) : (s.bump a n).place = s.place := by rw [State.bump, State.setN_place]
@[simp] theorem State.bump_host (a n : Nat) : (s.bump a n).host = s.host := by rw [State.bump, State.setN_host]
@[simp] theorem State.bump_ats (a n : Nat) : (s.bump a n).ats = s.ats := by rw [State.bump, State.setN_ats]
@[simp] theorem State.bump_endpoint (a n : Nat) : (s.bump a n).endpoint = s.endpoint := by rw [State.bump, State.setN_endpoint]
@[simp] theorem State.bump_fab (a n : Nat) : (s.bump a n).fab = s.fab := by rw [State.bump, State.setN_fab]
@[simp] theorem State.bump_sec (a n : Nat) : (s.bump a n).sec = s.sec := by rw [State.bump, State.setN_sec]
@[simp] theorem State.bump_meter (a n : Nat) : (s.bump a n).meter = s.meter := by rw [State.bump, State.setN_meter]
@[simp] theorem State.bump_errs (a n : Nat) : (s.bump a n).errs = s.errs := by rw [State.bump, State.setN_errs]
@[simp] theorem State.bump_snap (a n : Nat) : (s.bump a n).snap = s.snap := by rw [State.bump, State.setN_snap]
@[simp] theorem State.bump_pwr (a n : Nat) : (s.bump a n).pwr = s.pwr := by rw [State.bump, State.setN_pwr]
@[simp] theorem State.bump_pins (a n : Nat) : (s.bump a n).pins = s.pins := by rw [State.bump, State.setN_pins]
@[simp] theorem State.bump_freeCtr (a n : Nat) : (s.bump a n).freeCtr = s.freeCtr := by rw [State.bump, State.setN_freeCtr]
@[simp] theorem State.bump_pending (a n : Nat) : (s.bump a n).pending = s.pending := by rw [State.bump, State.setN_pending]

@[simp] theorem State.bump64_tb (a n : Nat) : (s.bump64 a n).tb = s.tb := by rw [State.bump64, State.setPair_tb]
@[simp] theorem State.bump64_tck (a n : Nat) : (s.bump64 a n).tck = s.tck := by rw [State.bump64, State.setPair_tck]
@[simp] theorem State.bump64_mods (a n : Nat) : (s.bump64 a n).mods = s.mods := by rw [State.bump64, State.setPair_mods]
@[simp] theorem State.bump64_mem (a n : Nat) : (s.bump64 a n).mem = s.mem := by rw [State.bump64, State.setPair_mem]
@[simp] theorem State.bump64_cond (a n : Nat) : (s.bump64 a n).cond = s.cond := by rw [State.bump64, State.setPair_cond]
@[simp] theorem State.bump64_resp (a n : Nat) : (s.bump64 a n).resp = s.resp := by rw [State.bump64, State.setPair_resp]
@[simp] theorem State.bump64_load (a n : Nat) : (s.bump64 a n).load = s.load := by rw [State.bump64, State.setPair_load]
@[simp] theorem State.bump64_digest (a n : Nat) : (s.bump64 a n).digest = s.digest := by rw [State.bump64, State.setPair_digest]
@[simp] theorem State.bump64_structure_ (a n : Nat) : (s.bump64 a n).structure_ = s.structure_ := by rw [State.bump64, State.setPair_structure_]
@[simp] theorem State.bump64_weights (a n : Nat) : (s.bump64 a n).weights = s.weights := by rw [State.bump64, State.setPair_weights]
@[simp] theorem State.bump64_pools (a n : Nat) : (s.bump64 a n).pools = s.pools := by rw [State.bump64, State.setPair_pools]
@[simp] theorem State.bump64_retired (a n : Nat) : (s.bump64 a n).retired = s.retired := by rw [State.bump64, State.setPair_retired]
@[simp] theorem State.bump64_retireDue (a n : Nat) : (s.bump64 a n).retireDue = s.retireDue := by rw [State.bump64, State.setPair_retireDue]
@[simp] theorem State.bump64_streams (a n : Nat) : (s.bump64 a n).streams = s.streams := by rw [State.bump64, State.setPair_streams]
@[simp] theorem State.bump64_swaps (a n : Nat) : (s.bump64 a n).swaps = s.swaps := by rw [State.bump64, State.setPair_swaps]
@[simp] theorem State.bump64_objs (a n : Nat) : (s.bump64 a n).objs = s.objs := by rw [State.bump64, State.setPair_objs]
@[simp] theorem State.bump64_work (a n : Nat) : (s.bump64 a n).work = s.work := by rw [State.bump64, State.setPair_work]
@[simp] theorem State.bump64_cores (a n : Nat) : (s.bump64 a n).cores = s.cores := by rw [State.bump64, State.setPair_cores]
@[simp] theorem State.bump64_savedCores (a n : Nat) : (s.bump64 a n).savedCores = s.savedCores := by rw [State.bump64, State.setPair_savedCores]
@[simp] theorem State.bump64_cisterns (a n : Nat) : (s.bump64 a n).cisterns = s.cisterns := by rw [State.bump64, State.setPair_cisterns]
@[simp] theorem State.bump64_caravans (a n : Nat) : (s.bump64 a n).caravans = s.caravans := by rw [State.bump64, State.setPair_caravans]
@[simp] theorem State.bump64_drfTests (a n : Nat) : (s.bump64 a n).drfTests = s.drfTests := by rw [State.bump64, State.setPair_drfTests]
@[simp] theorem State.bump64_casc (a n : Nat) : (s.bump64 a n).casc = s.casc := by rw [State.bump64, State.setPair_casc]
@[simp] theorem State.bump64_ports (a n : Nat) : (s.bump64 a n).ports = s.ports := by rw [State.bump64, State.setPair_ports]
@[simp] theorem State.bump64_place (a n : Nat) : (s.bump64 a n).place = s.place := by rw [State.bump64, State.setPair_place]
@[simp] theorem State.bump64_host (a n : Nat) : (s.bump64 a n).host = s.host := by rw [State.bump64, State.setPair_host]
@[simp] theorem State.bump64_ats (a n : Nat) : (s.bump64 a n).ats = s.ats := by rw [State.bump64, State.setPair_ats]
@[simp] theorem State.bump64_endpoint (a n : Nat) : (s.bump64 a n).endpoint = s.endpoint := by rw [State.bump64, State.setPair_endpoint]
@[simp] theorem State.bump64_fab (a n : Nat) : (s.bump64 a n).fab = s.fab := by rw [State.bump64, State.setPair_fab]
@[simp] theorem State.bump64_sec (a n : Nat) : (s.bump64 a n).sec = s.sec := by rw [State.bump64, State.setPair_sec]
@[simp] theorem State.bump64_meter (a n : Nat) : (s.bump64 a n).meter = s.meter := by rw [State.bump64, State.setPair_meter]
@[simp] theorem State.bump64_errs (a n : Nat) : (s.bump64 a n).errs = s.errs := by rw [State.bump64, State.setPair_errs]
@[simp] theorem State.bump64_snap (a n : Nat) : (s.bump64 a n).snap = s.snap := by rw [State.bump64, State.setPair_snap]
@[simp] theorem State.bump64_pwr (a n : Nat) : (s.bump64 a n).pwr = s.pwr := by rw [State.bump64, State.setPair_pwr]
@[simp] theorem State.bump64_pins (a n : Nat) : (s.bump64 a n).pins = s.pins := by rw [State.bump64, State.setPair_pins]
@[simp] theorem State.bump64_freeCtr (a n : Nat) : (s.bump64 a n).freeCtr = s.freeCtr := by rw [State.bump64, State.setPair_freeCtr]
@[simp] theorem State.bump64_pending (a n : Nat) : (s.bump64 a n).pending = s.pending := by rw [State.bump64, State.setPair_pending]

@[simp] theorem State.setByte_tb (a : Nat) (b : Byte) : (s.setByte a b).tb = s.tb := rfl
@[simp] theorem State.setByte_tck (a : Nat) (b : Byte) : (s.setByte a b).tck = s.tck := rfl
@[simp] theorem State.setByte_mods (a : Nat) (b : Byte) : (s.setByte a b).mods = s.mods := rfl
@[simp] theorem State.setByte_regs (a : Nat) (b : Byte) : (s.setByte a b).regs = s.regs := rfl
@[simp] theorem State.setByte_cond (a : Nat) (b : Byte) : (s.setByte a b).cond = s.cond := rfl
@[simp] theorem State.setByte_resp (a : Nat) (b : Byte) : (s.setByte a b).resp = s.resp := rfl
@[simp] theorem State.setByte_load (a : Nat) (b : Byte) : (s.setByte a b).load = s.load := rfl
@[simp] theorem State.setByte_digest (a : Nat) (b : Byte) : (s.setByte a b).digest = s.digest := rfl
@[simp] theorem State.setByte_structure_ (a : Nat) (b : Byte) : (s.setByte a b).structure_ = s.structure_ := rfl
@[simp] theorem State.setByte_weights (a : Nat) (b : Byte) : (s.setByte a b).weights = s.weights := rfl
@[simp] theorem State.setByte_pools (a : Nat) (b : Byte) : (s.setByte a b).pools = s.pools := rfl
@[simp] theorem State.setByte_retired (a : Nat) (b : Byte) : (s.setByte a b).retired = s.retired := rfl
@[simp] theorem State.setByte_retireDue (a : Nat) (b : Byte) : (s.setByte a b).retireDue = s.retireDue := rfl
@[simp] theorem State.setByte_streams (a : Nat) (b : Byte) : (s.setByte a b).streams = s.streams := rfl
@[simp] theorem State.setByte_swaps (a : Nat) (b : Byte) : (s.setByte a b).swaps = s.swaps := rfl
@[simp] theorem State.setByte_objs (a : Nat) (b : Byte) : (s.setByte a b).objs = s.objs := rfl
@[simp] theorem State.setByte_work (a : Nat) (b : Byte) : (s.setByte a b).work = s.work := rfl
@[simp] theorem State.setByte_cores (a : Nat) (b : Byte) : (s.setByte a b).cores = s.cores := rfl
@[simp] theorem State.setByte_savedCores (a : Nat) (b : Byte) : (s.setByte a b).savedCores = s.savedCores := rfl
@[simp] theorem State.setByte_cisterns (a : Nat) (b : Byte) : (s.setByte a b).cisterns = s.cisterns := rfl
@[simp] theorem State.setByte_caravans (a : Nat) (b : Byte) : (s.setByte a b).caravans = s.caravans := rfl
@[simp] theorem State.setByte_drfTests (a : Nat) (b : Byte) : (s.setByte a b).drfTests = s.drfTests := rfl
@[simp] theorem State.setByte_casc (a : Nat) (b : Byte) : (s.setByte a b).casc = s.casc := rfl
@[simp] theorem State.setByte_ports (a : Nat) (b : Byte) : (s.setByte a b).ports = s.ports := rfl
@[simp] theorem State.setByte_place (a : Nat) (b : Byte) : (s.setByte a b).place = s.place := rfl
@[simp] theorem State.setByte_host (a : Nat) (b : Byte) : (s.setByte a b).host = s.host := rfl
@[simp] theorem State.setByte_ats (a : Nat) (b : Byte) : (s.setByte a b).ats = s.ats := rfl
@[simp] theorem State.setByte_endpoint (a : Nat) (b : Byte) : (s.setByte a b).endpoint = s.endpoint := rfl
@[simp] theorem State.setByte_fab (a : Nat) (b : Byte) : (s.setByte a b).fab = s.fab := rfl
@[simp] theorem State.setByte_sec (a : Nat) (b : Byte) : (s.setByte a b).sec = s.sec := rfl
@[simp] theorem State.setByte_meter (a : Nat) (b : Byte) : (s.setByte a b).meter = s.meter := rfl
@[simp] theorem State.setByte_errs (a : Nat) (b : Byte) : (s.setByte a b).errs = s.errs := rfl
@[simp] theorem State.setByte_snap (a : Nat) (b : Byte) : (s.setByte a b).snap = s.snap := rfl
@[simp] theorem State.setByte_pwr (a : Nat) (b : Byte) : (s.setByte a b).pwr = s.pwr := rfl
@[simp] theorem State.setByte_pins (a : Nat) (b : Byte) : (s.setByte a b).pins = s.pins := rfl
@[simp] theorem State.setByte_freeCtr (a : Nat) (b : Byte) : (s.setByte a b).freeCtr = s.freeCtr := rfl
@[simp] theorem State.setByte_pending (a : Nat) (b : Byte) : (s.setByte a b).pending = s.pending := rfl

@[simp] theorem State.setStrm_tb (h : Nat) (x : Stream) : (s.setStrm h x).tb = s.tb := rfl
@[simp] theorem State.setStrm_tck (h : Nat) (x : Stream) : (s.setStrm h x).tck = s.tck := rfl
@[simp] theorem State.setStrm_mods (h : Nat) (x : Stream) : (s.setStrm h x).mods = s.mods := rfl
@[simp] theorem State.setStrm_regs (h : Nat) (x : Stream) : (s.setStrm h x).regs = s.regs := rfl
@[simp] theorem State.setStrm_mem (h : Nat) (x : Stream) : (s.setStrm h x).mem = s.mem := rfl
@[simp] theorem State.setStrm_cond (h : Nat) (x : Stream) : (s.setStrm h x).cond = s.cond := rfl
@[simp] theorem State.setStrm_resp (h : Nat) (x : Stream) : (s.setStrm h x).resp = s.resp := rfl
@[simp] theorem State.setStrm_load (h : Nat) (x : Stream) : (s.setStrm h x).load = s.load := rfl
@[simp] theorem State.setStrm_digest (h : Nat) (x : Stream) : (s.setStrm h x).digest = s.digest := rfl
@[simp] theorem State.setStrm_structure_ (h : Nat) (x : Stream) : (s.setStrm h x).structure_ = s.structure_ := rfl
@[simp] theorem State.setStrm_weights (h : Nat) (x : Stream) : (s.setStrm h x).weights = s.weights := rfl
@[simp] theorem State.setStrm_pools (h : Nat) (x : Stream) : (s.setStrm h x).pools = s.pools := rfl
@[simp] theorem State.setStrm_retired (h : Nat) (x : Stream) : (s.setStrm h x).retired = s.retired := rfl
@[simp] theorem State.setStrm_retireDue (h : Nat) (x : Stream) : (s.setStrm h x).retireDue = s.retireDue := rfl
@[simp] theorem State.setStrm_swaps (h : Nat) (x : Stream) : (s.setStrm h x).swaps = s.swaps := rfl
@[simp] theorem State.setStrm_objs (h : Nat) (x : Stream) : (s.setStrm h x).objs = s.objs := rfl
@[simp] theorem State.setStrm_work (h : Nat) (x : Stream) : (s.setStrm h x).work = s.work := rfl
@[simp] theorem State.setStrm_cores (h : Nat) (x : Stream) : (s.setStrm h x).cores = s.cores := rfl
@[simp] theorem State.setStrm_savedCores (h : Nat) (x : Stream) : (s.setStrm h x).savedCores = s.savedCores := rfl
@[simp] theorem State.setStrm_cisterns (h : Nat) (x : Stream) : (s.setStrm h x).cisterns = s.cisterns := rfl
@[simp] theorem State.setStrm_caravans (h : Nat) (x : Stream) : (s.setStrm h x).caravans = s.caravans := rfl
@[simp] theorem State.setStrm_drfTests (h : Nat) (x : Stream) : (s.setStrm h x).drfTests = s.drfTests := rfl
@[simp] theorem State.setStrm_casc (h : Nat) (x : Stream) : (s.setStrm h x).casc = s.casc := rfl
@[simp] theorem State.setStrm_ports (h : Nat) (x : Stream) : (s.setStrm h x).ports = s.ports := rfl
@[simp] theorem State.setStrm_place (h : Nat) (x : Stream) : (s.setStrm h x).place = s.place := rfl
@[simp] theorem State.setStrm_host (h : Nat) (x : Stream) : (s.setStrm h x).host = s.host := rfl
@[simp] theorem State.setStrm_ats (h : Nat) (x : Stream) : (s.setStrm h x).ats = s.ats := rfl
@[simp] theorem State.setStrm_endpoint (h : Nat) (x : Stream) : (s.setStrm h x).endpoint = s.endpoint := rfl
@[simp] theorem State.setStrm_fab (h : Nat) (x : Stream) : (s.setStrm h x).fab = s.fab := rfl
@[simp] theorem State.setStrm_sec (h : Nat) (x : Stream) : (s.setStrm h x).sec = s.sec := rfl
@[simp] theorem State.setStrm_meter (h : Nat) (x : Stream) : (s.setStrm h x).meter = s.meter := rfl
@[simp] theorem State.setStrm_errs (h : Nat) (x : Stream) : (s.setStrm h x).errs = s.errs := rfl
@[simp] theorem State.setStrm_snap (h : Nat) (x : Stream) : (s.setStrm h x).snap = s.snap := rfl
@[simp] theorem State.setStrm_pwr (h : Nat) (x : Stream) : (s.setStrm h x).pwr = s.pwr := rfl
@[simp] theorem State.setStrm_pins (h : Nat) (x : Stream) : (s.setStrm h x).pins = s.pins := rfl
@[simp] theorem State.setStrm_freeCtr (h : Nat) (x : Stream) : (s.setStrm h x).freeCtr = s.freeCtr := rfl
@[simp] theorem State.setStrm_pending (h : Nat) (x : Stream) : (s.setStrm h x).pending = s.pending := rfl

@[simp] theorem State.setCore_tb (n : Nat) (x : Core) : (s.setCore n x).tb = s.tb := rfl
@[simp] theorem State.setCore_tck (n : Nat) (x : Core) : (s.setCore n x).tck = s.tck := rfl
@[simp] theorem State.setCore_mods (n : Nat) (x : Core) : (s.setCore n x).mods = s.mods := rfl
@[simp] theorem State.setCore_regs (n : Nat) (x : Core) : (s.setCore n x).regs = s.regs := rfl
@[simp] theorem State.setCore_mem (n : Nat) (x : Core) : (s.setCore n x).mem = s.mem := rfl
@[simp] theorem State.setCore_cond (n : Nat) (x : Core) : (s.setCore n x).cond = s.cond := rfl
@[simp] theorem State.setCore_resp (n : Nat) (x : Core) : (s.setCore n x).resp = s.resp := rfl
@[simp] theorem State.setCore_load (n : Nat) (x : Core) : (s.setCore n x).load = s.load := rfl
@[simp] theorem State.setCore_digest (n : Nat) (x : Core) : (s.setCore n x).digest = s.digest := rfl
@[simp] theorem State.setCore_structure_ (n : Nat) (x : Core) : (s.setCore n x).structure_ = s.structure_ := rfl
@[simp] theorem State.setCore_weights (n : Nat) (x : Core) : (s.setCore n x).weights = s.weights := rfl
@[simp] theorem State.setCore_pools (n : Nat) (x : Core) : (s.setCore n x).pools = s.pools := rfl
@[simp] theorem State.setCore_retired (n : Nat) (x : Core) : (s.setCore n x).retired = s.retired := rfl
@[simp] theorem State.setCore_retireDue (n : Nat) (x : Core) : (s.setCore n x).retireDue = s.retireDue := rfl
@[simp] theorem State.setCore_streams (n : Nat) (x : Core) : (s.setCore n x).streams = s.streams := rfl
@[simp] theorem State.setCore_swaps (n : Nat) (x : Core) : (s.setCore n x).swaps = s.swaps := rfl
@[simp] theorem State.setCore_objs (n : Nat) (x : Core) : (s.setCore n x).objs = s.objs := rfl
@[simp] theorem State.setCore_work (n : Nat) (x : Core) : (s.setCore n x).work = s.work := rfl
@[simp] theorem State.setCore_savedCores (n : Nat) (x : Core) : (s.setCore n x).savedCores = s.savedCores := rfl
@[simp] theorem State.setCore_cisterns (n : Nat) (x : Core) : (s.setCore n x).cisterns = s.cisterns := rfl
@[simp] theorem State.setCore_caravans (n : Nat) (x : Core) : (s.setCore n x).caravans = s.caravans := rfl
@[simp] theorem State.setCore_drfTests (n : Nat) (x : Core) : (s.setCore n x).drfTests = s.drfTests := rfl
@[simp] theorem State.setCore_casc (n : Nat) (x : Core) : (s.setCore n x).casc = s.casc := rfl
@[simp] theorem State.setCore_ports (n : Nat) (x : Core) : (s.setCore n x).ports = s.ports := rfl
@[simp] theorem State.setCore_place (n : Nat) (x : Core) : (s.setCore n x).place = s.place := rfl
@[simp] theorem State.setCore_host (n : Nat) (x : Core) : (s.setCore n x).host = s.host := rfl
@[simp] theorem State.setCore_ats (n : Nat) (x : Core) : (s.setCore n x).ats = s.ats := rfl
@[simp] theorem State.setCore_endpoint (n : Nat) (x : Core) : (s.setCore n x).endpoint = s.endpoint := rfl
@[simp] theorem State.setCore_fab (n : Nat) (x : Core) : (s.setCore n x).fab = s.fab := rfl
@[simp] theorem State.setCore_sec (n : Nat) (x : Core) : (s.setCore n x).sec = s.sec := rfl
@[simp] theorem State.setCore_meter (n : Nat) (x : Core) : (s.setCore n x).meter = s.meter := rfl
@[simp] theorem State.setCore_errs (n : Nat) (x : Core) : (s.setCore n x).errs = s.errs := rfl
@[simp] theorem State.setCore_snap (n : Nat) (x : Core) : (s.setCore n x).snap = s.snap := rfl
@[simp] theorem State.setCore_pwr (n : Nat) (x : Core) : (s.setCore n x).pwr = s.pwr := rfl
@[simp] theorem State.setCore_pins (n : Nat) (x : Core) : (s.setCore n x).pins = s.pins := rfl
@[simp] theorem State.setCore_freeCtr (n : Nat) (x : Core) : (s.setCore n x).freeCtr = s.freeCtr := rfl
@[simp] theorem State.setCore_pending (n : Nat) (x : Core) : (s.setCore n x).pending = s.pending := rfl

@[simp] theorem State.setCis_tb (e : Nat) (x : Cistern) : (s.setCis e x).tb = s.tb := rfl
@[simp] theorem State.setCis_tck (e : Nat) (x : Cistern) : (s.setCis e x).tck = s.tck := rfl
@[simp] theorem State.setCis_mods (e : Nat) (x : Cistern) : (s.setCis e x).mods = s.mods := rfl
@[simp] theorem State.setCis_regs (e : Nat) (x : Cistern) : (s.setCis e x).regs = s.regs := rfl
@[simp] theorem State.setCis_mem (e : Nat) (x : Cistern) : (s.setCis e x).mem = s.mem := rfl
@[simp] theorem State.setCis_cond (e : Nat) (x : Cistern) : (s.setCis e x).cond = s.cond := rfl
@[simp] theorem State.setCis_resp (e : Nat) (x : Cistern) : (s.setCis e x).resp = s.resp := rfl
@[simp] theorem State.setCis_load (e : Nat) (x : Cistern) : (s.setCis e x).load = s.load := rfl
@[simp] theorem State.setCis_digest (e : Nat) (x : Cistern) : (s.setCis e x).digest = s.digest := rfl
@[simp] theorem State.setCis_structure_ (e : Nat) (x : Cistern) : (s.setCis e x).structure_ = s.structure_ := rfl
@[simp] theorem State.setCis_weights (e : Nat) (x : Cistern) : (s.setCis e x).weights = s.weights := rfl
@[simp] theorem State.setCis_pools (e : Nat) (x : Cistern) : (s.setCis e x).pools = s.pools := rfl
@[simp] theorem State.setCis_retired (e : Nat) (x : Cistern) : (s.setCis e x).retired = s.retired := rfl
@[simp] theorem State.setCis_retireDue (e : Nat) (x : Cistern) : (s.setCis e x).retireDue = s.retireDue := rfl
@[simp] theorem State.setCis_streams (e : Nat) (x : Cistern) : (s.setCis e x).streams = s.streams := rfl
@[simp] theorem State.setCis_swaps (e : Nat) (x : Cistern) : (s.setCis e x).swaps = s.swaps := rfl
@[simp] theorem State.setCis_objs (e : Nat) (x : Cistern) : (s.setCis e x).objs = s.objs := rfl
@[simp] theorem State.setCis_work (e : Nat) (x : Cistern) : (s.setCis e x).work = s.work := rfl
@[simp] theorem State.setCis_cores (e : Nat) (x : Cistern) : (s.setCis e x).cores = s.cores := rfl
@[simp] theorem State.setCis_savedCores (e : Nat) (x : Cistern) : (s.setCis e x).savedCores = s.savedCores := rfl
@[simp] theorem State.setCis_caravans (e : Nat) (x : Cistern) : (s.setCis e x).caravans = s.caravans := rfl
@[simp] theorem State.setCis_drfTests (e : Nat) (x : Cistern) : (s.setCis e x).drfTests = s.drfTests := rfl
@[simp] theorem State.setCis_casc (e : Nat) (x : Cistern) : (s.setCis e x).casc = s.casc := rfl
@[simp] theorem State.setCis_ports (e : Nat) (x : Cistern) : (s.setCis e x).ports = s.ports := rfl
@[simp] theorem State.setCis_place (e : Nat) (x : Cistern) : (s.setCis e x).place = s.place := rfl
@[simp] theorem State.setCis_host (e : Nat) (x : Cistern) : (s.setCis e x).host = s.host := rfl
@[simp] theorem State.setCis_ats (e : Nat) (x : Cistern) : (s.setCis e x).ats = s.ats := rfl
@[simp] theorem State.setCis_endpoint (e : Nat) (x : Cistern) : (s.setCis e x).endpoint = s.endpoint := rfl
@[simp] theorem State.setCis_fab (e : Nat) (x : Cistern) : (s.setCis e x).fab = s.fab := rfl
@[simp] theorem State.setCis_sec (e : Nat) (x : Cistern) : (s.setCis e x).sec = s.sec := rfl
@[simp] theorem State.setCis_meter (e : Nat) (x : Cistern) : (s.setCis e x).meter = s.meter := rfl
@[simp] theorem State.setCis_errs (e : Nat) (x : Cistern) : (s.setCis e x).errs = s.errs := rfl
@[simp] theorem State.setCis_snap (e : Nat) (x : Cistern) : (s.setCis e x).snap = s.snap := rfl
@[simp] theorem State.setCis_pwr (e : Nat) (x : Cistern) : (s.setCis e x).pwr = s.pwr := rfl
@[simp] theorem State.setCis_pins (e : Nat) (x : Cistern) : (s.setCis e x).pins = s.pins := rfl
@[simp] theorem State.setCis_freeCtr (e : Nat) (x : Cistern) : (s.setCis e x).freeCtr = s.freeCtr := rfl
@[simp] theorem State.setCis_pending (e : Nat) (x : Cistern) : (s.setCis e x).pending = s.pending := rfl

@[simp] theorem State.setCar_tb (e : Nat) (x : Caravan) : (s.setCar e x).tb = s.tb := rfl
@[simp] theorem State.setCar_tck (e : Nat) (x : Caravan) : (s.setCar e x).tck = s.tck := rfl
@[simp] theorem State.setCar_mods (e : Nat) (x : Caravan) : (s.setCar e x).mods = s.mods := rfl
@[simp] theorem State.setCar_regs (e : Nat) (x : Caravan) : (s.setCar e x).regs = s.regs := rfl
@[simp] theorem State.setCar_mem (e : Nat) (x : Caravan) : (s.setCar e x).mem = s.mem := rfl
@[simp] theorem State.setCar_cond (e : Nat) (x : Caravan) : (s.setCar e x).cond = s.cond := rfl
@[simp] theorem State.setCar_resp (e : Nat) (x : Caravan) : (s.setCar e x).resp = s.resp := rfl
@[simp] theorem State.setCar_load (e : Nat) (x : Caravan) : (s.setCar e x).load = s.load := rfl
@[simp] theorem State.setCar_digest (e : Nat) (x : Caravan) : (s.setCar e x).digest = s.digest := rfl
@[simp] theorem State.setCar_structure_ (e : Nat) (x : Caravan) : (s.setCar e x).structure_ = s.structure_ := rfl
@[simp] theorem State.setCar_weights (e : Nat) (x : Caravan) : (s.setCar e x).weights = s.weights := rfl
@[simp] theorem State.setCar_pools (e : Nat) (x : Caravan) : (s.setCar e x).pools = s.pools := rfl
@[simp] theorem State.setCar_retired (e : Nat) (x : Caravan) : (s.setCar e x).retired = s.retired := rfl
@[simp] theorem State.setCar_retireDue (e : Nat) (x : Caravan) : (s.setCar e x).retireDue = s.retireDue := rfl
@[simp] theorem State.setCar_streams (e : Nat) (x : Caravan) : (s.setCar e x).streams = s.streams := rfl
@[simp] theorem State.setCar_swaps (e : Nat) (x : Caravan) : (s.setCar e x).swaps = s.swaps := rfl
@[simp] theorem State.setCar_objs (e : Nat) (x : Caravan) : (s.setCar e x).objs = s.objs := rfl
@[simp] theorem State.setCar_work (e : Nat) (x : Caravan) : (s.setCar e x).work = s.work := rfl
@[simp] theorem State.setCar_cores (e : Nat) (x : Caravan) : (s.setCar e x).cores = s.cores := rfl
@[simp] theorem State.setCar_savedCores (e : Nat) (x : Caravan) : (s.setCar e x).savedCores = s.savedCores := rfl
@[simp] theorem State.setCar_cisterns (e : Nat) (x : Caravan) : (s.setCar e x).cisterns = s.cisterns := rfl
@[simp] theorem State.setCar_drfTests (e : Nat) (x : Caravan) : (s.setCar e x).drfTests = s.drfTests := rfl
@[simp] theorem State.setCar_casc (e : Nat) (x : Caravan) : (s.setCar e x).casc = s.casc := rfl
@[simp] theorem State.setCar_ports (e : Nat) (x : Caravan) : (s.setCar e x).ports = s.ports := rfl
@[simp] theorem State.setCar_place (e : Nat) (x : Caravan) : (s.setCar e x).place = s.place := rfl
@[simp] theorem State.setCar_host (e : Nat) (x : Caravan) : (s.setCar e x).host = s.host := rfl
@[simp] theorem State.setCar_ats (e : Nat) (x : Caravan) : (s.setCar e x).ats = s.ats := rfl
@[simp] theorem State.setCar_endpoint (e : Nat) (x : Caravan) : (s.setCar e x).endpoint = s.endpoint := rfl
@[simp] theorem State.setCar_fab (e : Nat) (x : Caravan) : (s.setCar e x).fab = s.fab := rfl
@[simp] theorem State.setCar_sec (e : Nat) (x : Caravan) : (s.setCar e x).sec = s.sec := rfl
@[simp] theorem State.setCar_meter (e : Nat) (x : Caravan) : (s.setCar e x).meter = s.meter := rfl
@[simp] theorem State.setCar_errs (e : Nat) (x : Caravan) : (s.setCar e x).errs = s.errs := rfl
@[simp] theorem State.setCar_snap (e : Nat) (x : Caravan) : (s.setCar e x).snap = s.snap := rfl
@[simp] theorem State.setCar_pwr (e : Nat) (x : Caravan) : (s.setCar e x).pwr = s.pwr := rfl
@[simp] theorem State.setCar_pins (e : Nat) (x : Caravan) : (s.setCar e x).pins = s.pins := rfl
@[simp] theorem State.setCar_freeCtr (e : Nat) (x : Caravan) : (s.setCar e x).freeCtr = s.freeCtr := rfl
@[simp] theorem State.setCar_pending (e : Nat) (x : Caravan) : (s.setCar e x).pending = s.pending := rfl

@[simp] theorem State.setCl_tb (i : Nat) (x : ClusterObj) : (s.setCl i x).tb = s.tb := rfl
@[simp] theorem State.setCl_tck (i : Nat) (x : ClusterObj) : (s.setCl i x).tck = s.tck := rfl
@[simp] theorem State.setCl_mods (i : Nat) (x : ClusterObj) : (s.setCl i x).mods = s.mods := rfl
@[simp] theorem State.setCl_regs (i : Nat) (x : ClusterObj) : (s.setCl i x).regs = s.regs := rfl
@[simp] theorem State.setCl_mem (i : Nat) (x : ClusterObj) : (s.setCl i x).mem = s.mem := rfl
@[simp] theorem State.setCl_cond (i : Nat) (x : ClusterObj) : (s.setCl i x).cond = s.cond := rfl
@[simp] theorem State.setCl_resp (i : Nat) (x : ClusterObj) : (s.setCl i x).resp = s.resp := rfl
@[simp] theorem State.setCl_load (i : Nat) (x : ClusterObj) : (s.setCl i x).load = s.load := rfl
@[simp] theorem State.setCl_digest (i : Nat) (x : ClusterObj) : (s.setCl i x).digest = s.digest := rfl
@[simp] theorem State.setCl_structure_ (i : Nat) (x : ClusterObj) : (s.setCl i x).structure_ = s.structure_ := rfl
@[simp] theorem State.setCl_weights (i : Nat) (x : ClusterObj) : (s.setCl i x).weights = s.weights := rfl
@[simp] theorem State.setCl_pools (i : Nat) (x : ClusterObj) : (s.setCl i x).pools = s.pools := rfl
@[simp] theorem State.setCl_retired (i : Nat) (x : ClusterObj) : (s.setCl i x).retired = s.retired := rfl
@[simp] theorem State.setCl_retireDue (i : Nat) (x : ClusterObj) : (s.setCl i x).retireDue = s.retireDue := rfl
@[simp] theorem State.setCl_streams (i : Nat) (x : ClusterObj) : (s.setCl i x).streams = s.streams := rfl
@[simp] theorem State.setCl_swaps (i : Nat) (x : ClusterObj) : (s.setCl i x).swaps = s.swaps := rfl
@[simp] theorem State.setCl_work (i : Nat) (x : ClusterObj) : (s.setCl i x).work = s.work := rfl
@[simp] theorem State.setCl_cores (i : Nat) (x : ClusterObj) : (s.setCl i x).cores = s.cores := rfl
@[simp] theorem State.setCl_savedCores (i : Nat) (x : ClusterObj) : (s.setCl i x).savedCores = s.savedCores := rfl
@[simp] theorem State.setCl_cisterns (i : Nat) (x : ClusterObj) : (s.setCl i x).cisterns = s.cisterns := rfl
@[simp] theorem State.setCl_caravans (i : Nat) (x : ClusterObj) : (s.setCl i x).caravans = s.caravans := rfl
@[simp] theorem State.setCl_drfTests (i : Nat) (x : ClusterObj) : (s.setCl i x).drfTests = s.drfTests := rfl
@[simp] theorem State.setCl_casc (i : Nat) (x : ClusterObj) : (s.setCl i x).casc = s.casc := rfl
@[simp] theorem State.setCl_ports (i : Nat) (x : ClusterObj) : (s.setCl i x).ports = s.ports := rfl
@[simp] theorem State.setCl_place (i : Nat) (x : ClusterObj) : (s.setCl i x).place = s.place := rfl
@[simp] theorem State.setCl_host (i : Nat) (x : ClusterObj) : (s.setCl i x).host = s.host := rfl
@[simp] theorem State.setCl_ats (i : Nat) (x : ClusterObj) : (s.setCl i x).ats = s.ats := rfl
@[simp] theorem State.setCl_endpoint (i : Nat) (x : ClusterObj) : (s.setCl i x).endpoint = s.endpoint := rfl
@[simp] theorem State.setCl_fab (i : Nat) (x : ClusterObj) : (s.setCl i x).fab = s.fab := rfl
@[simp] theorem State.setCl_sec (i : Nat) (x : ClusterObj) : (s.setCl i x).sec = s.sec := rfl
@[simp] theorem State.setCl_meter (i : Nat) (x : ClusterObj) : (s.setCl i x).meter = s.meter := rfl
@[simp] theorem State.setCl_errs (i : Nat) (x : ClusterObj) : (s.setCl i x).errs = s.errs := rfl
@[simp] theorem State.setCl_snap (i : Nat) (x : ClusterObj) : (s.setCl i x).snap = s.snap := rfl
@[simp] theorem State.setCl_pwr (i : Nat) (x : ClusterObj) : (s.setCl i x).pwr = s.pwr := rfl
@[simp] theorem State.setCl_pins (i : Nat) (x : ClusterObj) : (s.setCl i x).pins = s.pins := rfl
@[simp] theorem State.setCl_freeCtr (i : Nat) (x : ClusterObj) : (s.setCl i x).freeCtr = s.freeCtr := rfl
@[simp] theorem State.setCl_pending (i : Nat) (x : ClusterObj) : (s.setCl i x).pending = s.pending := rfl

@[simp] theorem State.setWk_tb (i : Nat) (x : ClusterWork) : (s.setWk i x).tb = s.tb := rfl
@[simp] theorem State.setWk_tck (i : Nat) (x : ClusterWork) : (s.setWk i x).tck = s.tck := rfl
@[simp] theorem State.setWk_mods (i : Nat) (x : ClusterWork) : (s.setWk i x).mods = s.mods := rfl
@[simp] theorem State.setWk_regs (i : Nat) (x : ClusterWork) : (s.setWk i x).regs = s.regs := rfl
@[simp] theorem State.setWk_mem (i : Nat) (x : ClusterWork) : (s.setWk i x).mem = s.mem := rfl
@[simp] theorem State.setWk_cond (i : Nat) (x : ClusterWork) : (s.setWk i x).cond = s.cond := rfl
@[simp] theorem State.setWk_resp (i : Nat) (x : ClusterWork) : (s.setWk i x).resp = s.resp := rfl
@[simp] theorem State.setWk_load (i : Nat) (x : ClusterWork) : (s.setWk i x).load = s.load := rfl
@[simp] theorem State.setWk_digest (i : Nat) (x : ClusterWork) : (s.setWk i x).digest = s.digest := rfl
@[simp] theorem State.setWk_structure_ (i : Nat) (x : ClusterWork) : (s.setWk i x).structure_ = s.structure_ := rfl
@[simp] theorem State.setWk_weights (i : Nat) (x : ClusterWork) : (s.setWk i x).weights = s.weights := rfl
@[simp] theorem State.setWk_pools (i : Nat) (x : ClusterWork) : (s.setWk i x).pools = s.pools := rfl
@[simp] theorem State.setWk_retired (i : Nat) (x : ClusterWork) : (s.setWk i x).retired = s.retired := rfl
@[simp] theorem State.setWk_retireDue (i : Nat) (x : ClusterWork) : (s.setWk i x).retireDue = s.retireDue := rfl
@[simp] theorem State.setWk_streams (i : Nat) (x : ClusterWork) : (s.setWk i x).streams = s.streams := rfl
@[simp] theorem State.setWk_swaps (i : Nat) (x : ClusterWork) : (s.setWk i x).swaps = s.swaps := rfl
@[simp] theorem State.setWk_objs (i : Nat) (x : ClusterWork) : (s.setWk i x).objs = s.objs := rfl
@[simp] theorem State.setWk_cores (i : Nat) (x : ClusterWork) : (s.setWk i x).cores = s.cores := rfl
@[simp] theorem State.setWk_savedCores (i : Nat) (x : ClusterWork) : (s.setWk i x).savedCores = s.savedCores := rfl
@[simp] theorem State.setWk_cisterns (i : Nat) (x : ClusterWork) : (s.setWk i x).cisterns = s.cisterns := rfl
@[simp] theorem State.setWk_caravans (i : Nat) (x : ClusterWork) : (s.setWk i x).caravans = s.caravans := rfl
@[simp] theorem State.setWk_drfTests (i : Nat) (x : ClusterWork) : (s.setWk i x).drfTests = s.drfTests := rfl
@[simp] theorem State.setWk_casc (i : Nat) (x : ClusterWork) : (s.setWk i x).casc = s.casc := rfl
@[simp] theorem State.setWk_ports (i : Nat) (x : ClusterWork) : (s.setWk i x).ports = s.ports := rfl
@[simp] theorem State.setWk_place (i : Nat) (x : ClusterWork) : (s.setWk i x).place = s.place := rfl
@[simp] theorem State.setWk_host (i : Nat) (x : ClusterWork) : (s.setWk i x).host = s.host := rfl
@[simp] theorem State.setWk_ats (i : Nat) (x : ClusterWork) : (s.setWk i x).ats = s.ats := rfl
@[simp] theorem State.setWk_endpoint (i : Nat) (x : ClusterWork) : (s.setWk i x).endpoint = s.endpoint := rfl
@[simp] theorem State.setWk_fab (i : Nat) (x : ClusterWork) : (s.setWk i x).fab = s.fab := rfl
@[simp] theorem State.setWk_sec (i : Nat) (x : ClusterWork) : (s.setWk i x).sec = s.sec := rfl
@[simp] theorem State.setWk_meter (i : Nat) (x : ClusterWork) : (s.setWk i x).meter = s.meter := rfl
@[simp] theorem State.setWk_errs (i : Nat) (x : ClusterWork) : (s.setWk i x).errs = s.errs := rfl
@[simp] theorem State.setWk_snap (i : Nat) (x : ClusterWork) : (s.setWk i x).snap = s.snap := rfl
@[simp] theorem State.setWk_pwr (i : Nat) (x : ClusterWork) : (s.setWk i x).pwr = s.pwr := rfl
@[simp] theorem State.setWk_pins (i : Nat) (x : ClusterWork) : (s.setWk i x).pins = s.pins := rfl
@[simp] theorem State.setWk_freeCtr (i : Nat) (x : ClusterWork) : (s.setWk i x).freeCtr = s.freeCtr := rfl
@[simp] theorem State.setWk_pending (i : Nat) (x : ClusterWork) : (s.setWk i x).pending = s.pending := rfl

@[simp] theorem State.setChan_tb (c : Nat) (x : Channel) : (s.setChan c x).tb = s.tb := rfl
@[simp] theorem State.setChan_tck (c : Nat) (x : Channel) : (s.setChan c x).tck = s.tck := rfl
@[simp] theorem State.setChan_mods (c : Nat) (x : Channel) : (s.setChan c x).mods = s.mods := rfl
@[simp] theorem State.setChan_regs (c : Nat) (x : Channel) : (s.setChan c x).regs = s.regs := rfl
@[simp] theorem State.setChan_mem (c : Nat) (x : Channel) : (s.setChan c x).mem = s.mem := rfl
@[simp] theorem State.setChan_cond (c : Nat) (x : Channel) : (s.setChan c x).cond = s.cond := rfl
@[simp] theorem State.setChan_resp (c : Nat) (x : Channel) : (s.setChan c x).resp = s.resp := rfl
@[simp] theorem State.setChan_load (c : Nat) (x : Channel) : (s.setChan c x).load = s.load := rfl
@[simp] theorem State.setChan_digest (c : Nat) (x : Channel) : (s.setChan c x).digest = s.digest := rfl
@[simp] theorem State.setChan_structure_ (c : Nat) (x : Channel) : (s.setChan c x).structure_ = s.structure_ := rfl
@[simp] theorem State.setChan_weights (c : Nat) (x : Channel) : (s.setChan c x).weights = s.weights := rfl
@[simp] theorem State.setChan_pools (c : Nat) (x : Channel) : (s.setChan c x).pools = s.pools := rfl
@[simp] theorem State.setChan_retired (c : Nat) (x : Channel) : (s.setChan c x).retired = s.retired := rfl
@[simp] theorem State.setChan_retireDue (c : Nat) (x : Channel) : (s.setChan c x).retireDue = s.retireDue := rfl
@[simp] theorem State.setChan_streams (c : Nat) (x : Channel) : (s.setChan c x).streams = s.streams := rfl
@[simp] theorem State.setChan_swaps (c : Nat) (x : Channel) : (s.setChan c x).swaps = s.swaps := rfl
@[simp] theorem State.setChan_objs (c : Nat) (x : Channel) : (s.setChan c x).objs = s.objs := rfl
@[simp] theorem State.setChan_work (c : Nat) (x : Channel) : (s.setChan c x).work = s.work := rfl
@[simp] theorem State.setChan_cores (c : Nat) (x : Channel) : (s.setChan c x).cores = s.cores := rfl
@[simp] theorem State.setChan_savedCores (c : Nat) (x : Channel) : (s.setChan c x).savedCores = s.savedCores := rfl
@[simp] theorem State.setChan_cisterns (c : Nat) (x : Channel) : (s.setChan c x).cisterns = s.cisterns := rfl
@[simp] theorem State.setChan_caravans (c : Nat) (x : Channel) : (s.setChan c x).caravans = s.caravans := rfl
@[simp] theorem State.setChan_drfTests (c : Nat) (x : Channel) : (s.setChan c x).drfTests = s.drfTests := rfl
@[simp] theorem State.setChan_ports (c : Nat) (x : Channel) : (s.setChan c x).ports = s.ports := rfl
@[simp] theorem State.setChan_place (c : Nat) (x : Channel) : (s.setChan c x).place = s.place := rfl
@[simp] theorem State.setChan_host (c : Nat) (x : Channel) : (s.setChan c x).host = s.host := rfl
@[simp] theorem State.setChan_ats (c : Nat) (x : Channel) : (s.setChan c x).ats = s.ats := rfl
@[simp] theorem State.setChan_endpoint (c : Nat) (x : Channel) : (s.setChan c x).endpoint = s.endpoint := rfl
@[simp] theorem State.setChan_fab (c : Nat) (x : Channel) : (s.setChan c x).fab = s.fab := rfl
@[simp] theorem State.setChan_sec (c : Nat) (x : Channel) : (s.setChan c x).sec = s.sec := rfl
@[simp] theorem State.setChan_meter (c : Nat) (x : Channel) : (s.setChan c x).meter = s.meter := rfl
@[simp] theorem State.setChan_errs (c : Nat) (x : Channel) : (s.setChan c x).errs = s.errs := rfl
@[simp] theorem State.setChan_snap (c : Nat) (x : Channel) : (s.setChan c x).snap = s.snap := rfl
@[simp] theorem State.setChan_pwr (c : Nat) (x : Channel) : (s.setChan c x).pwr = s.pwr := rfl
@[simp] theorem State.setChan_pins (c : Nat) (x : Channel) : (s.setChan c x).pins = s.pins := rfl
@[simp] theorem State.setChan_freeCtr (c : Nat) (x : Channel) : (s.setChan c x).freeCtr = s.freeCtr := rfl
@[simp] theorem State.setChan_pending (c : Nat) (x : Channel) : (s.setChan c x).pending = s.pending := rfl

@[simp] theorem State.setArr_tb (a : Nat) (x : MicArray) : (s.setArr a x).tb = s.tb := rfl
@[simp] theorem State.setArr_tck (a : Nat) (x : MicArray) : (s.setArr a x).tck = s.tck := rfl
@[simp] theorem State.setArr_mods (a : Nat) (x : MicArray) : (s.setArr a x).mods = s.mods := rfl
@[simp] theorem State.setArr_regs (a : Nat) (x : MicArray) : (s.setArr a x).regs = s.regs := rfl
@[simp] theorem State.setArr_mem (a : Nat) (x : MicArray) : (s.setArr a x).mem = s.mem := rfl
@[simp] theorem State.setArr_cond (a : Nat) (x : MicArray) : (s.setArr a x).cond = s.cond := rfl
@[simp] theorem State.setArr_resp (a : Nat) (x : MicArray) : (s.setArr a x).resp = s.resp := rfl
@[simp] theorem State.setArr_load (a : Nat) (x : MicArray) : (s.setArr a x).load = s.load := rfl
@[simp] theorem State.setArr_digest (a : Nat) (x : MicArray) : (s.setArr a x).digest = s.digest := rfl
@[simp] theorem State.setArr_structure_ (a : Nat) (x : MicArray) : (s.setArr a x).structure_ = s.structure_ := rfl
@[simp] theorem State.setArr_weights (a : Nat) (x : MicArray) : (s.setArr a x).weights = s.weights := rfl
@[simp] theorem State.setArr_pools (a : Nat) (x : MicArray) : (s.setArr a x).pools = s.pools := rfl
@[simp] theorem State.setArr_retired (a : Nat) (x : MicArray) : (s.setArr a x).retired = s.retired := rfl
@[simp] theorem State.setArr_retireDue (a : Nat) (x : MicArray) : (s.setArr a x).retireDue = s.retireDue := rfl
@[simp] theorem State.setArr_streams (a : Nat) (x : MicArray) : (s.setArr a x).streams = s.streams := rfl
@[simp] theorem State.setArr_swaps (a : Nat) (x : MicArray) : (s.setArr a x).swaps = s.swaps := rfl
@[simp] theorem State.setArr_objs (a : Nat) (x : MicArray) : (s.setArr a x).objs = s.objs := rfl
@[simp] theorem State.setArr_work (a : Nat) (x : MicArray) : (s.setArr a x).work = s.work := rfl
@[simp] theorem State.setArr_cores (a : Nat) (x : MicArray) : (s.setArr a x).cores = s.cores := rfl
@[simp] theorem State.setArr_savedCores (a : Nat) (x : MicArray) : (s.setArr a x).savedCores = s.savedCores := rfl
@[simp] theorem State.setArr_cisterns (a : Nat) (x : MicArray) : (s.setArr a x).cisterns = s.cisterns := rfl
@[simp] theorem State.setArr_caravans (a : Nat) (x : MicArray) : (s.setArr a x).caravans = s.caravans := rfl
@[simp] theorem State.setArr_drfTests (a : Nat) (x : MicArray) : (s.setArr a x).drfTests = s.drfTests := rfl
@[simp] theorem State.setArr_ports (a : Nat) (x : MicArray) : (s.setArr a x).ports = s.ports := rfl
@[simp] theorem State.setArr_place (a : Nat) (x : MicArray) : (s.setArr a x).place = s.place := rfl
@[simp] theorem State.setArr_host (a : Nat) (x : MicArray) : (s.setArr a x).host = s.host := rfl
@[simp] theorem State.setArr_ats (a : Nat) (x : MicArray) : (s.setArr a x).ats = s.ats := rfl
@[simp] theorem State.setArr_endpoint (a : Nat) (x : MicArray) : (s.setArr a x).endpoint = s.endpoint := rfl
@[simp] theorem State.setArr_fab (a : Nat) (x : MicArray) : (s.setArr a x).fab = s.fab := rfl
@[simp] theorem State.setArr_sec (a : Nat) (x : MicArray) : (s.setArr a x).sec = s.sec := rfl
@[simp] theorem State.setArr_meter (a : Nat) (x : MicArray) : (s.setArr a x).meter = s.meter := rfl
@[simp] theorem State.setArr_errs (a : Nat) (x : MicArray) : (s.setArr a x).errs = s.errs := rfl
@[simp] theorem State.setArr_snap (a : Nat) (x : MicArray) : (s.setArr a x).snap = s.snap := rfl
@[simp] theorem State.setArr_pwr (a : Nat) (x : MicArray) : (s.setArr a x).pwr = s.pwr := rfl
@[simp] theorem State.setArr_pins (a : Nat) (x : MicArray) : (s.setArr a x).pins = s.pins := rfl
@[simp] theorem State.setArr_freeCtr (a : Nat) (x : MicArray) : (s.setArr a x).freeCtr = s.freeCtr := rfl
@[simp] theorem State.setArr_pending (a : Nat) (x : MicArray) : (s.setArr a x).pending = s.pending := rfl

@[simp] theorem State.setPort_tb (n : Nat) (x : Port) : (s.setPort n x).tb = s.tb := rfl
@[simp] theorem State.setPort_tck (n : Nat) (x : Port) : (s.setPort n x).tck = s.tck := rfl
@[simp] theorem State.setPort_mods (n : Nat) (x : Port) : (s.setPort n x).mods = s.mods := rfl
@[simp] theorem State.setPort_regs (n : Nat) (x : Port) : (s.setPort n x).regs = s.regs := rfl
@[simp] theorem State.setPort_mem (n : Nat) (x : Port) : (s.setPort n x).mem = s.mem := rfl
@[simp] theorem State.setPort_cond (n : Nat) (x : Port) : (s.setPort n x).cond = s.cond := rfl
@[simp] theorem State.setPort_resp (n : Nat) (x : Port) : (s.setPort n x).resp = s.resp := rfl
@[simp] theorem State.setPort_load (n : Nat) (x : Port) : (s.setPort n x).load = s.load := rfl
@[simp] theorem State.setPort_digest (n : Nat) (x : Port) : (s.setPort n x).digest = s.digest := rfl
@[simp] theorem State.setPort_structure_ (n : Nat) (x : Port) : (s.setPort n x).structure_ = s.structure_ := rfl
@[simp] theorem State.setPort_weights (n : Nat) (x : Port) : (s.setPort n x).weights = s.weights := rfl
@[simp] theorem State.setPort_pools (n : Nat) (x : Port) : (s.setPort n x).pools = s.pools := rfl
@[simp] theorem State.setPort_retired (n : Nat) (x : Port) : (s.setPort n x).retired = s.retired := rfl
@[simp] theorem State.setPort_retireDue (n : Nat) (x : Port) : (s.setPort n x).retireDue = s.retireDue := rfl
@[simp] theorem State.setPort_streams (n : Nat) (x : Port) : (s.setPort n x).streams = s.streams := rfl
@[simp] theorem State.setPort_swaps (n : Nat) (x : Port) : (s.setPort n x).swaps = s.swaps := rfl
@[simp] theorem State.setPort_objs (n : Nat) (x : Port) : (s.setPort n x).objs = s.objs := rfl
@[simp] theorem State.setPort_work (n : Nat) (x : Port) : (s.setPort n x).work = s.work := rfl
@[simp] theorem State.setPort_cores (n : Nat) (x : Port) : (s.setPort n x).cores = s.cores := rfl
@[simp] theorem State.setPort_savedCores (n : Nat) (x : Port) : (s.setPort n x).savedCores = s.savedCores := rfl
@[simp] theorem State.setPort_cisterns (n : Nat) (x : Port) : (s.setPort n x).cisterns = s.cisterns := rfl
@[simp] theorem State.setPort_caravans (n : Nat) (x : Port) : (s.setPort n x).caravans = s.caravans := rfl
@[simp] theorem State.setPort_drfTests (n : Nat) (x : Port) : (s.setPort n x).drfTests = s.drfTests := rfl
@[simp] theorem State.setPort_casc (n : Nat) (x : Port) : (s.setPort n x).casc = s.casc := rfl
@[simp] theorem State.setPort_place (n : Nat) (x : Port) : (s.setPort n x).place = s.place := rfl
@[simp] theorem State.setPort_host (n : Nat) (x : Port) : (s.setPort n x).host = s.host := rfl
@[simp] theorem State.setPort_ats (n : Nat) (x : Port) : (s.setPort n x).ats = s.ats := rfl
@[simp] theorem State.setPort_endpoint (n : Nat) (x : Port) : (s.setPort n x).endpoint = s.endpoint := rfl
@[simp] theorem State.setPort_fab (n : Nat) (x : Port) : (s.setPort n x).fab = s.fab := rfl
@[simp] theorem State.setPort_sec (n : Nat) (x : Port) : (s.setPort n x).sec = s.sec := rfl
@[simp] theorem State.setPort_meter (n : Nat) (x : Port) : (s.setPort n x).meter = s.meter := rfl
@[simp] theorem State.setPort_errs (n : Nat) (x : Port) : (s.setPort n x).errs = s.errs := rfl
@[simp] theorem State.setPort_snap (n : Nat) (x : Port) : (s.setPort n x).snap = s.snap := rfl
@[simp] theorem State.setPort_pwr (n : Nat) (x : Port) : (s.setPort n x).pwr = s.pwr := rfl
@[simp] theorem State.setPort_pins (n : Nat) (x : Port) : (s.setPort n x).pins = s.pins := rfl
@[simp] theorem State.setPort_freeCtr (n : Nat) (x : Port) : (s.setPort n x).freeCtr = s.freeCtr := rfl
@[simp] theorem State.setPort_pending (n : Nat) (x : Port) : (s.setPort n x).pending = s.pending := rfl

@[simp] theorem State.setDie_tb (d : Nat) (x : DiePower) : (s.setDie d x).tb = s.tb := rfl
@[simp] theorem State.setDie_tck (d : Nat) (x : DiePower) : (s.setDie d x).tck = s.tck := rfl
@[simp] theorem State.setDie_mods (d : Nat) (x : DiePower) : (s.setDie d x).mods = s.mods := rfl
@[simp] theorem State.setDie_regs (d : Nat) (x : DiePower) : (s.setDie d x).regs = s.regs := rfl
@[simp] theorem State.setDie_mem (d : Nat) (x : DiePower) : (s.setDie d x).mem = s.mem := rfl
@[simp] theorem State.setDie_cond (d : Nat) (x : DiePower) : (s.setDie d x).cond = s.cond := rfl
@[simp] theorem State.setDie_resp (d : Nat) (x : DiePower) : (s.setDie d x).resp = s.resp := rfl
@[simp] theorem State.setDie_load (d : Nat) (x : DiePower) : (s.setDie d x).load = s.load := rfl
@[simp] theorem State.setDie_digest (d : Nat) (x : DiePower) : (s.setDie d x).digest = s.digest := rfl
@[simp] theorem State.setDie_structure_ (d : Nat) (x : DiePower) : (s.setDie d x).structure_ = s.structure_ := rfl
@[simp] theorem State.setDie_weights (d : Nat) (x : DiePower) : (s.setDie d x).weights = s.weights := rfl
@[simp] theorem State.setDie_pools (d : Nat) (x : DiePower) : (s.setDie d x).pools = s.pools := rfl
@[simp] theorem State.setDie_retired (d : Nat) (x : DiePower) : (s.setDie d x).retired = s.retired := rfl
@[simp] theorem State.setDie_retireDue (d : Nat) (x : DiePower) : (s.setDie d x).retireDue = s.retireDue := rfl
@[simp] theorem State.setDie_streams (d : Nat) (x : DiePower) : (s.setDie d x).streams = s.streams := rfl
@[simp] theorem State.setDie_swaps (d : Nat) (x : DiePower) : (s.setDie d x).swaps = s.swaps := rfl
@[simp] theorem State.setDie_objs (d : Nat) (x : DiePower) : (s.setDie d x).objs = s.objs := rfl
@[simp] theorem State.setDie_work (d : Nat) (x : DiePower) : (s.setDie d x).work = s.work := rfl
@[simp] theorem State.setDie_cores (d : Nat) (x : DiePower) : (s.setDie d x).cores = s.cores := rfl
@[simp] theorem State.setDie_savedCores (d : Nat) (x : DiePower) : (s.setDie d x).savedCores = s.savedCores := rfl
@[simp] theorem State.setDie_cisterns (d : Nat) (x : DiePower) : (s.setDie d x).cisterns = s.cisterns := rfl
@[simp] theorem State.setDie_caravans (d : Nat) (x : DiePower) : (s.setDie d x).caravans = s.caravans := rfl
@[simp] theorem State.setDie_drfTests (d : Nat) (x : DiePower) : (s.setDie d x).drfTests = s.drfTests := rfl
@[simp] theorem State.setDie_casc (d : Nat) (x : DiePower) : (s.setDie d x).casc = s.casc := rfl
@[simp] theorem State.setDie_ports (d : Nat) (x : DiePower) : (s.setDie d x).ports = s.ports := rfl
@[simp] theorem State.setDie_place (d : Nat) (x : DiePower) : (s.setDie d x).place = s.place := rfl
@[simp] theorem State.setDie_host (d : Nat) (x : DiePower) : (s.setDie d x).host = s.host := rfl
@[simp] theorem State.setDie_ats (d : Nat) (x : DiePower) : (s.setDie d x).ats = s.ats := rfl
@[simp] theorem State.setDie_endpoint (d : Nat) (x : DiePower) : (s.setDie d x).endpoint = s.endpoint := rfl
@[simp] theorem State.setDie_fab (d : Nat) (x : DiePower) : (s.setDie d x).fab = s.fab := rfl
@[simp] theorem State.setDie_sec (d : Nat) (x : DiePower) : (s.setDie d x).sec = s.sec := rfl
@[simp] theorem State.setDie_meter (d : Nat) (x : DiePower) : (s.setDie d x).meter = s.meter := rfl
@[simp] theorem State.setDie_errs (d : Nat) (x : DiePower) : (s.setDie d x).errs = s.errs := rfl
@[simp] theorem State.setDie_snap (d : Nat) (x : DiePower) : (s.setDie d x).snap = s.snap := rfl
@[simp] theorem State.setDie_pins (d : Nat) (x : DiePower) : (s.setDie d x).pins = s.pins := rfl
@[simp] theorem State.setDie_freeCtr (d : Nat) (x : DiePower) : (s.setDie d x).freeCtr = s.freeCtr := rfl
@[simp] theorem State.setDie_pending (d : Nat) (x : DiePower) : (s.setDie d x).pending = s.pending := rfl

@[simp] theorem State.setPlane_tb (p : Nat) (x : Option Plane) : (s.setPlane p x).tb = s.tb := rfl
@[simp] theorem State.setPlane_mods (p : Nat) (x : Option Plane) : (s.setPlane p x).mods = s.mods := rfl
@[simp] theorem State.setPlane_regs (p : Nat) (x : Option Plane) : (s.setPlane p x).regs = s.regs := rfl
@[simp] theorem State.setPlane_mem (p : Nat) (x : Option Plane) : (s.setPlane p x).mem = s.mem := rfl
@[simp] theorem State.setPlane_cond (p : Nat) (x : Option Plane) : (s.setPlane p x).cond = s.cond := rfl
@[simp] theorem State.setPlane_resp (p : Nat) (x : Option Plane) : (s.setPlane p x).resp = s.resp := rfl
@[simp] theorem State.setPlane_load (p : Nat) (x : Option Plane) : (s.setPlane p x).load = s.load := rfl
@[simp] theorem State.setPlane_digest (p : Nat) (x : Option Plane) : (s.setPlane p x).digest = s.digest := rfl
@[simp] theorem State.setPlane_structure_ (p : Nat) (x : Option Plane) : (s.setPlane p x).structure_ = s.structure_ := rfl
@[simp] theorem State.setPlane_weights (p : Nat) (x : Option Plane) : (s.setPlane p x).weights = s.weights := rfl
@[simp] theorem State.setPlane_pools (p : Nat) (x : Option Plane) : (s.setPlane p x).pools = s.pools := rfl
@[simp] theorem State.setPlane_retired (p : Nat) (x : Option Plane) : (s.setPlane p x).retired = s.retired := rfl
@[simp] theorem State.setPlane_retireDue (p : Nat) (x : Option Plane) : (s.setPlane p x).retireDue = s.retireDue := rfl
@[simp] theorem State.setPlane_streams (p : Nat) (x : Option Plane) : (s.setPlane p x).streams = s.streams := rfl
@[simp] theorem State.setPlane_swaps (p : Nat) (x : Option Plane) : (s.setPlane p x).swaps = s.swaps := rfl
@[simp] theorem State.setPlane_objs (p : Nat) (x : Option Plane) : (s.setPlane p x).objs = s.objs := rfl
@[simp] theorem State.setPlane_work (p : Nat) (x : Option Plane) : (s.setPlane p x).work = s.work := rfl
@[simp] theorem State.setPlane_cores (p : Nat) (x : Option Plane) : (s.setPlane p x).cores = s.cores := rfl
@[simp] theorem State.setPlane_savedCores (p : Nat) (x : Option Plane) : (s.setPlane p x).savedCores = s.savedCores := rfl
@[simp] theorem State.setPlane_cisterns (p : Nat) (x : Option Plane) : (s.setPlane p x).cisterns = s.cisterns := rfl
@[simp] theorem State.setPlane_caravans (p : Nat) (x : Option Plane) : (s.setPlane p x).caravans = s.caravans := rfl
@[simp] theorem State.setPlane_drfTests (p : Nat) (x : Option Plane) : (s.setPlane p x).drfTests = s.drfTests := rfl
@[simp] theorem State.setPlane_casc (p : Nat) (x : Option Plane) : (s.setPlane p x).casc = s.casc := rfl
@[simp] theorem State.setPlane_ports (p : Nat) (x : Option Plane) : (s.setPlane p x).ports = s.ports := rfl
@[simp] theorem State.setPlane_place (p : Nat) (x : Option Plane) : (s.setPlane p x).place = s.place := rfl
@[simp] theorem State.setPlane_host (p : Nat) (x : Option Plane) : (s.setPlane p x).host = s.host := rfl
@[simp] theorem State.setPlane_ats (p : Nat) (x : Option Plane) : (s.setPlane p x).ats = s.ats := rfl
@[simp] theorem State.setPlane_endpoint (p : Nat) (x : Option Plane) : (s.setPlane p x).endpoint = s.endpoint := rfl
@[simp] theorem State.setPlane_fab (p : Nat) (x : Option Plane) : (s.setPlane p x).fab = s.fab := rfl
@[simp] theorem State.setPlane_sec (p : Nat) (x : Option Plane) : (s.setPlane p x).sec = s.sec := rfl
@[simp] theorem State.setPlane_meter (p : Nat) (x : Option Plane) : (s.setPlane p x).meter = s.meter := rfl
@[simp] theorem State.setPlane_errs (p : Nat) (x : Option Plane) : (s.setPlane p x).errs = s.errs := rfl
@[simp] theorem State.setPlane_snap (p : Nat) (x : Option Plane) : (s.setPlane p x).snap = s.snap := rfl
@[simp] theorem State.setPlane_pwr (p : Nat) (x : Option Plane) : (s.setPlane p x).pwr = s.pwr := rfl
@[simp] theorem State.setPlane_pins (p : Nat) (x : Option Plane) : (s.setPlane p x).pins = s.pins := rfl
@[simp] theorem State.setPlane_freeCtr (p : Nat) (x : Option Plane) : (s.setPlane p x).freeCtr = s.freeCtr := rfl
@[simp] theorem State.setPlane_pending (p : Nat) (x : Option Plane) : (s.setPlane p x).pending = s.pending := rfl

@[simp] theorem State.setEport_tb (n : Nat) (x : ErgPort) : (s.setEport n x).tb = s.tb := rfl
@[simp] theorem State.setEport_tck (n : Nat) (x : ErgPort) : (s.setEport n x).tck = s.tck := rfl
@[simp] theorem State.setEport_mods (n : Nat) (x : ErgPort) : (s.setEport n x).mods = s.mods := rfl
@[simp] theorem State.setEport_regs (n : Nat) (x : ErgPort) : (s.setEport n x).regs = s.regs := rfl
@[simp] theorem State.setEport_mem (n : Nat) (x : ErgPort) : (s.setEport n x).mem = s.mem := rfl
@[simp] theorem State.setEport_cond (n : Nat) (x : ErgPort) : (s.setEport n x).cond = s.cond := rfl
@[simp] theorem State.setEport_resp (n : Nat) (x : ErgPort) : (s.setEport n x).resp = s.resp := rfl
@[simp] theorem State.setEport_load (n : Nat) (x : ErgPort) : (s.setEport n x).load = s.load := rfl
@[simp] theorem State.setEport_digest (n : Nat) (x : ErgPort) : (s.setEport n x).digest = s.digest := rfl
@[simp] theorem State.setEport_structure_ (n : Nat) (x : ErgPort) : (s.setEport n x).structure_ = s.structure_ := rfl
@[simp] theorem State.setEport_weights (n : Nat) (x : ErgPort) : (s.setEport n x).weights = s.weights := rfl
@[simp] theorem State.setEport_pools (n : Nat) (x : ErgPort) : (s.setEport n x).pools = s.pools := rfl
@[simp] theorem State.setEport_retired (n : Nat) (x : ErgPort) : (s.setEport n x).retired = s.retired := rfl
@[simp] theorem State.setEport_retireDue (n : Nat) (x : ErgPort) : (s.setEport n x).retireDue = s.retireDue := rfl
@[simp] theorem State.setEport_streams (n : Nat) (x : ErgPort) : (s.setEport n x).streams = s.streams := rfl
@[simp] theorem State.setEport_swaps (n : Nat) (x : ErgPort) : (s.setEport n x).swaps = s.swaps := rfl
@[simp] theorem State.setEport_objs (n : Nat) (x : ErgPort) : (s.setEport n x).objs = s.objs := rfl
@[simp] theorem State.setEport_work (n : Nat) (x : ErgPort) : (s.setEport n x).work = s.work := rfl
@[simp] theorem State.setEport_cores (n : Nat) (x : ErgPort) : (s.setEport n x).cores = s.cores := rfl
@[simp] theorem State.setEport_savedCores (n : Nat) (x : ErgPort) : (s.setEport n x).savedCores = s.savedCores := rfl
@[simp] theorem State.setEport_cisterns (n : Nat) (x : ErgPort) : (s.setEport n x).cisterns = s.cisterns := rfl
@[simp] theorem State.setEport_caravans (n : Nat) (x : ErgPort) : (s.setEport n x).caravans = s.caravans := rfl
@[simp] theorem State.setEport_drfTests (n : Nat) (x : ErgPort) : (s.setEport n x).drfTests = s.drfTests := rfl
@[simp] theorem State.setEport_casc (n : Nat) (x : ErgPort) : (s.setEport n x).casc = s.casc := rfl
@[simp] theorem State.setEport_ports (n : Nat) (x : ErgPort) : (s.setEport n x).ports = s.ports := rfl
@[simp] theorem State.setEport_place (n : Nat) (x : ErgPort) : (s.setEport n x).place = s.place := rfl
@[simp] theorem State.setEport_host (n : Nat) (x : ErgPort) : (s.setEport n x).host = s.host := rfl
@[simp] theorem State.setEport_ats (n : Nat) (x : ErgPort) : (s.setEport n x).ats = s.ats := rfl
@[simp] theorem State.setEport_endpoint (n : Nat) (x : ErgPort) : (s.setEport n x).endpoint = s.endpoint := rfl
@[simp] theorem State.setEport_sec (n : Nat) (x : ErgPort) : (s.setEport n x).sec = s.sec := rfl
@[simp] theorem State.setEport_meter (n : Nat) (x : ErgPort) : (s.setEport n x).meter = s.meter := rfl
@[simp] theorem State.setEport_errs (n : Nat) (x : ErgPort) : (s.setEport n x).errs = s.errs := rfl
@[simp] theorem State.setEport_snap (n : Nat) (x : ErgPort) : (s.setEport n x).snap = s.snap := rfl
@[simp] theorem State.setEport_pwr (n : Nat) (x : ErgPort) : (s.setEport n x).pwr = s.pwr := rfl
@[simp] theorem State.setEport_pins (n : Nat) (x : ErgPort) : (s.setEport n x).pins = s.pins := rfl
@[simp] theorem State.setEport_freeCtr (n : Nat) (x : ErgPort) : (s.setEport n x).freeCtr = s.freeCtr := rfl
@[simp] theorem State.setEport_pending (n : Nat) (x : ErgPort) : (s.setEport n x).pending = s.pending := rfl

@[simp] theorem State.setMod_tb (k : Nat) (x : Moderation) : (s.setMod k x).tb = s.tb := rfl
@[simp] theorem State.setMod_tck (k : Nat) (x : Moderation) : (s.setMod k x).tck = s.tck := rfl
@[simp] theorem State.setMod_regs (k : Nat) (x : Moderation) : (s.setMod k x).regs = s.regs := rfl
@[simp] theorem State.setMod_mem (k : Nat) (x : Moderation) : (s.setMod k x).mem = s.mem := rfl
@[simp] theorem State.setMod_cond (k : Nat) (x : Moderation) : (s.setMod k x).cond = s.cond := rfl
@[simp] theorem State.setMod_resp (k : Nat) (x : Moderation) : (s.setMod k x).resp = s.resp := rfl
@[simp] theorem State.setMod_load (k : Nat) (x : Moderation) : (s.setMod k x).load = s.load := rfl
@[simp] theorem State.setMod_digest (k : Nat) (x : Moderation) : (s.setMod k x).digest = s.digest := rfl
@[simp] theorem State.setMod_structure_ (k : Nat) (x : Moderation) : (s.setMod k x).structure_ = s.structure_ := rfl
@[simp] theorem State.setMod_weights (k : Nat) (x : Moderation) : (s.setMod k x).weights = s.weights := rfl
@[simp] theorem State.setMod_pools (k : Nat) (x : Moderation) : (s.setMod k x).pools = s.pools := rfl
@[simp] theorem State.setMod_retired (k : Nat) (x : Moderation) : (s.setMod k x).retired = s.retired := rfl
@[simp] theorem State.setMod_retireDue (k : Nat) (x : Moderation) : (s.setMod k x).retireDue = s.retireDue := rfl
@[simp] theorem State.setMod_streams (k : Nat) (x : Moderation) : (s.setMod k x).streams = s.streams := rfl
@[simp] theorem State.setMod_swaps (k : Nat) (x : Moderation) : (s.setMod k x).swaps = s.swaps := rfl
@[simp] theorem State.setMod_objs (k : Nat) (x : Moderation) : (s.setMod k x).objs = s.objs := rfl
@[simp] theorem State.setMod_work (k : Nat) (x : Moderation) : (s.setMod k x).work = s.work := rfl
@[simp] theorem State.setMod_cores (k : Nat) (x : Moderation) : (s.setMod k x).cores = s.cores := rfl
@[simp] theorem State.setMod_savedCores (k : Nat) (x : Moderation) : (s.setMod k x).savedCores = s.savedCores := rfl
@[simp] theorem State.setMod_cisterns (k : Nat) (x : Moderation) : (s.setMod k x).cisterns = s.cisterns := rfl
@[simp] theorem State.setMod_caravans (k : Nat) (x : Moderation) : (s.setMod k x).caravans = s.caravans := rfl
@[simp] theorem State.setMod_drfTests (k : Nat) (x : Moderation) : (s.setMod k x).drfTests = s.drfTests := rfl
@[simp] theorem State.setMod_casc (k : Nat) (x : Moderation) : (s.setMod k x).casc = s.casc := rfl
@[simp] theorem State.setMod_ports (k : Nat) (x : Moderation) : (s.setMod k x).ports = s.ports := rfl
@[simp] theorem State.setMod_place (k : Nat) (x : Moderation) : (s.setMod k x).place = s.place := rfl
@[simp] theorem State.setMod_host (k : Nat) (x : Moderation) : (s.setMod k x).host = s.host := rfl
@[simp] theorem State.setMod_ats (k : Nat) (x : Moderation) : (s.setMod k x).ats = s.ats := rfl
@[simp] theorem State.setMod_endpoint (k : Nat) (x : Moderation) : (s.setMod k x).endpoint = s.endpoint := rfl
@[simp] theorem State.setMod_fab (k : Nat) (x : Moderation) : (s.setMod k x).fab = s.fab := rfl
@[simp] theorem State.setMod_sec (k : Nat) (x : Moderation) : (s.setMod k x).sec = s.sec := rfl
@[simp] theorem State.setMod_meter (k : Nat) (x : Moderation) : (s.setMod k x).meter = s.meter := rfl
@[simp] theorem State.setMod_errs (k : Nat) (x : Moderation) : (s.setMod k x).errs = s.errs := rfl
@[simp] theorem State.setMod_snap (k : Nat) (x : Moderation) : (s.setMod k x).snap = s.snap := rfl
@[simp] theorem State.setMod_pwr (k : Nat) (x : Moderation) : (s.setMod k x).pwr = s.pwr := rfl
@[simp] theorem State.setMod_pins (k : Nat) (x : Moderation) : (s.setMod k x).pins = s.pins := rfl
@[simp] theorem State.setMod_freeCtr (k : Nat) (x : Moderation) : (s.setMod k x).freeCtr = s.freeCtr := rfl
@[simp] theorem State.setMod_pending (k : Nat) (x : Moderation) : (s.setMod k x).pending = s.pending := rfl

@[simp] theorem State.send_tb (n : Nat) (m : FabMsg) : (s.send n m).tb = s.tb := rfl
@[simp] theorem State.send_tck (n : Nat) (m : FabMsg) : (s.send n m).tck = s.tck := rfl
@[simp] theorem State.send_mods (n : Nat) (m : FabMsg) : (s.send n m).mods = s.mods := rfl
@[simp] theorem State.send_regs (n : Nat) (m : FabMsg) : (s.send n m).regs = s.regs := rfl
@[simp] theorem State.send_mem (n : Nat) (m : FabMsg) : (s.send n m).mem = s.mem := rfl
@[simp] theorem State.send_cond (n : Nat) (m : FabMsg) : (s.send n m).cond = s.cond := rfl
@[simp] theorem State.send_resp (n : Nat) (m : FabMsg) : (s.send n m).resp = s.resp := rfl
@[simp] theorem State.send_load (n : Nat) (m : FabMsg) : (s.send n m).load = s.load := rfl
@[simp] theorem State.send_digest (n : Nat) (m : FabMsg) : (s.send n m).digest = s.digest := rfl
@[simp] theorem State.send_structure_ (n : Nat) (m : FabMsg) : (s.send n m).structure_ = s.structure_ := rfl
@[simp] theorem State.send_weights (n : Nat) (m : FabMsg) : (s.send n m).weights = s.weights := rfl
@[simp] theorem State.send_pools (n : Nat) (m : FabMsg) : (s.send n m).pools = s.pools := rfl
@[simp] theorem State.send_retired (n : Nat) (m : FabMsg) : (s.send n m).retired = s.retired := rfl
@[simp] theorem State.send_retireDue (n : Nat) (m : FabMsg) : (s.send n m).retireDue = s.retireDue := rfl
@[simp] theorem State.send_streams (n : Nat) (m : FabMsg) : (s.send n m).streams = s.streams := rfl
@[simp] theorem State.send_swaps (n : Nat) (m : FabMsg) : (s.send n m).swaps = s.swaps := rfl
@[simp] theorem State.send_objs (n : Nat) (m : FabMsg) : (s.send n m).objs = s.objs := rfl
@[simp] theorem State.send_work (n : Nat) (m : FabMsg) : (s.send n m).work = s.work := rfl
@[simp] theorem State.send_cores (n : Nat) (m : FabMsg) : (s.send n m).cores = s.cores := rfl
@[simp] theorem State.send_savedCores (n : Nat) (m : FabMsg) : (s.send n m).savedCores = s.savedCores := rfl
@[simp] theorem State.send_cisterns (n : Nat) (m : FabMsg) : (s.send n m).cisterns = s.cisterns := rfl
@[simp] theorem State.send_caravans (n : Nat) (m : FabMsg) : (s.send n m).caravans = s.caravans := rfl
@[simp] theorem State.send_drfTests (n : Nat) (m : FabMsg) : (s.send n m).drfTests = s.drfTests := rfl
@[simp] theorem State.send_casc (n : Nat) (m : FabMsg) : (s.send n m).casc = s.casc := rfl
@[simp] theorem State.send_ports (n : Nat) (m : FabMsg) : (s.send n m).ports = s.ports := rfl
@[simp] theorem State.send_place (n : Nat) (m : FabMsg) : (s.send n m).place = s.place := rfl
@[simp] theorem State.send_host (n : Nat) (m : FabMsg) : (s.send n m).host = s.host := rfl
@[simp] theorem State.send_ats (n : Nat) (m : FabMsg) : (s.send n m).ats = s.ats := rfl
@[simp] theorem State.send_endpoint (n : Nat) (m : FabMsg) : (s.send n m).endpoint = s.endpoint := rfl
@[simp] theorem State.send_sec (n : Nat) (m : FabMsg) : (s.send n m).sec = s.sec := rfl
@[simp] theorem State.send_meter (n : Nat) (m : FabMsg) : (s.send n m).meter = s.meter := rfl
@[simp] theorem State.send_errs (n : Nat) (m : FabMsg) : (s.send n m).errs = s.errs := rfl
@[simp] theorem State.send_snap (n : Nat) (m : FabMsg) : (s.send n m).snap = s.snap := rfl
@[simp] theorem State.send_pwr (n : Nat) (m : FabMsg) : (s.send n m).pwr = s.pwr := rfl
@[simp] theorem State.send_pins (n : Nat) (m : FabMsg) : (s.send n m).pins = s.pins := rfl
@[simp] theorem State.send_freeCtr (n : Nat) (m : FabMsg) : (s.send n m).freeCtr = s.freeCtr := rfl
@[simp] theorem State.send_pending (n : Nat) (m : FabMsg) : (s.send n m).pending = s.pending := rfl

@[simp] theorem State.answer_tb (l : List Byte) : (s.answer l).tb = s.tb := rfl
@[simp] theorem State.answer_tck (l : List Byte) : (s.answer l).tck = s.tck := rfl
@[simp] theorem State.answer_mods (l : List Byte) : (s.answer l).mods = s.mods := rfl
@[simp] theorem State.answer_regs (l : List Byte) : (s.answer l).regs = s.regs := rfl
@[simp] theorem State.answer_mem (l : List Byte) : (s.answer l).mem = s.mem := rfl
@[simp] theorem State.answer_cond (l : List Byte) : (s.answer l).cond = s.cond := rfl
@[simp] theorem State.answer_load (l : List Byte) : (s.answer l).load = s.load := rfl
@[simp] theorem State.answer_digest (l : List Byte) : (s.answer l).digest = s.digest := rfl
@[simp] theorem State.answer_structure_ (l : List Byte) : (s.answer l).structure_ = s.structure_ := rfl
@[simp] theorem State.answer_weights (l : List Byte) : (s.answer l).weights = s.weights := rfl
@[simp] theorem State.answer_pools (l : List Byte) : (s.answer l).pools = s.pools := rfl
@[simp] theorem State.answer_retired (l : List Byte) : (s.answer l).retired = s.retired := rfl
@[simp] theorem State.answer_retireDue (l : List Byte) : (s.answer l).retireDue = s.retireDue := rfl
@[simp] theorem State.answer_streams (l : List Byte) : (s.answer l).streams = s.streams := rfl
@[simp] theorem State.answer_swaps (l : List Byte) : (s.answer l).swaps = s.swaps := rfl
@[simp] theorem State.answer_objs (l : List Byte) : (s.answer l).objs = s.objs := rfl
@[simp] theorem State.answer_work (l : List Byte) : (s.answer l).work = s.work := rfl
@[simp] theorem State.answer_cores (l : List Byte) : (s.answer l).cores = s.cores := rfl
@[simp] theorem State.answer_savedCores (l : List Byte) : (s.answer l).savedCores = s.savedCores := rfl
@[simp] theorem State.answer_cisterns (l : List Byte) : (s.answer l).cisterns = s.cisterns := rfl
@[simp] theorem State.answer_caravans (l : List Byte) : (s.answer l).caravans = s.caravans := rfl
@[simp] theorem State.answer_drfTests (l : List Byte) : (s.answer l).drfTests = s.drfTests := rfl
@[simp] theorem State.answer_casc (l : List Byte) : (s.answer l).casc = s.casc := rfl
@[simp] theorem State.answer_ports (l : List Byte) : (s.answer l).ports = s.ports := rfl
@[simp] theorem State.answer_place (l : List Byte) : (s.answer l).place = s.place := rfl
@[simp] theorem State.answer_host (l : List Byte) : (s.answer l).host = s.host := rfl
@[simp] theorem State.answer_ats (l : List Byte) : (s.answer l).ats = s.ats := rfl
@[simp] theorem State.answer_endpoint (l : List Byte) : (s.answer l).endpoint = s.endpoint := rfl
@[simp] theorem State.answer_fab (l : List Byte) : (s.answer l).fab = s.fab := rfl
@[simp] theorem State.answer_sec (l : List Byte) : (s.answer l).sec = s.sec := rfl
@[simp] theorem State.answer_meter (l : List Byte) : (s.answer l).meter = s.meter := rfl
@[simp] theorem State.answer_errs (l : List Byte) : (s.answer l).errs = s.errs := rfl
@[simp] theorem State.answer_snap (l : List Byte) : (s.answer l).snap = s.snap := rfl
@[simp] theorem State.answer_pwr (l : List Byte) : (s.answer l).pwr = s.pwr := rfl
@[simp] theorem State.answer_pins (l : List Byte) : (s.answer l).pins = s.pins := rfl
@[simp] theorem State.answer_freeCtr (l : List Byte) : (s.answer l).freeCtr = s.freeCtr := rfl
@[simp] theorem State.answer_pending (l : List Byte) : (s.answer l).pending = s.pending := rfl

@[simp] theorem State.reach_tck (t : Nat) : (s.reach t).tck = s.tck := rfl
@[simp] theorem State.reach_mods (t : Nat) : (s.reach t).mods = s.mods := rfl
@[simp] theorem State.reach_regs (t : Nat) : (s.reach t).regs = s.regs := rfl
@[simp] theorem State.reach_mem (t : Nat) : (s.reach t).mem = s.mem := rfl
@[simp] theorem State.reach_cond (t : Nat) : (s.reach t).cond = s.cond := rfl
@[simp] theorem State.reach_resp (t : Nat) : (s.reach t).resp = s.resp := rfl
@[simp] theorem State.reach_load (t : Nat) : (s.reach t).load = s.load := rfl
@[simp] theorem State.reach_digest (t : Nat) : (s.reach t).digest = s.digest := rfl
@[simp] theorem State.reach_structure_ (t : Nat) : (s.reach t).structure_ = s.structure_ := rfl
@[simp] theorem State.reach_weights (t : Nat) : (s.reach t).weights = s.weights := rfl
@[simp] theorem State.reach_pools (t : Nat) : (s.reach t).pools = s.pools := rfl
@[simp] theorem State.reach_retired (t : Nat) : (s.reach t).retired = s.retired := rfl
@[simp] theorem State.reach_retireDue (t : Nat) : (s.reach t).retireDue = s.retireDue := rfl
@[simp] theorem State.reach_streams (t : Nat) : (s.reach t).streams = s.streams := rfl
@[simp] theorem State.reach_swaps (t : Nat) : (s.reach t).swaps = s.swaps := rfl
@[simp] theorem State.reach_objs (t : Nat) : (s.reach t).objs = s.objs := rfl
@[simp] theorem State.reach_work (t : Nat) : (s.reach t).work = s.work := rfl
@[simp] theorem State.reach_cores (t : Nat) : (s.reach t).cores = s.cores := rfl
@[simp] theorem State.reach_savedCores (t : Nat) : (s.reach t).savedCores = s.savedCores := rfl
@[simp] theorem State.reach_cisterns (t : Nat) : (s.reach t).cisterns = s.cisterns := rfl
@[simp] theorem State.reach_caravans (t : Nat) : (s.reach t).caravans = s.caravans := rfl
@[simp] theorem State.reach_drfTests (t : Nat) : (s.reach t).drfTests = s.drfTests := rfl
@[simp] theorem State.reach_casc (t : Nat) : (s.reach t).casc = s.casc := rfl
@[simp] theorem State.reach_ports (t : Nat) : (s.reach t).ports = s.ports := rfl
@[simp] theorem State.reach_place (t : Nat) : (s.reach t).place = s.place := rfl
@[simp] theorem State.reach_host (t : Nat) : (s.reach t).host = s.host := rfl
@[simp] theorem State.reach_ats (t : Nat) : (s.reach t).ats = s.ats := rfl
@[simp] theorem State.reach_endpoint (t : Nat) : (s.reach t).endpoint = s.endpoint := rfl
@[simp] theorem State.reach_fab (t : Nat) : (s.reach t).fab = s.fab := rfl
@[simp] theorem State.reach_sec (t : Nat) : (s.reach t).sec = s.sec := rfl
@[simp] theorem State.reach_meter (t : Nat) : (s.reach t).meter = s.meter := rfl
@[simp] theorem State.reach_errs (t : Nat) : (s.reach t).errs = s.errs := rfl
@[simp] theorem State.reach_snap (t : Nat) : (s.reach t).snap = s.snap := rfl
@[simp] theorem State.reach_pwr (t : Nat) : (s.reach t).pwr = s.pwr := rfl
@[simp] theorem State.reach_pins (t : Nat) : (s.reach t).pins = s.pins := rfl
@[simp] theorem State.reach_freeCtr (t : Nat) : (s.reach t).freeCtr = s.freeCtr := rfl
@[simp] theorem State.reach_pending (t : Nat) : (s.reach t).pending = s.pending := rfl

@[simp] theorem State.setReg_halted (a : Nat) (v : Word) : (s.setReg a v).halted = s.halted := rfl
@[simp] theorem State.setN_halted (a v : Nat) : (s.setN a v).halted = s.halted := rfl
@[simp] theorem State.setFld_halted (a lo len v : Nat) : (s.setFld a lo len v).halted = s.halted := rfl
@[simp] theorem State.setBit_halted (a i : Nat) (b : Bool) : (s.setBit a i b).halted = s.halted := rfl
@[simp] theorem State.setPair_halted (a v : Nat) : (s.setPair a v).halted = s.halted := rfl
@[simp] theorem State.setByte_halted (a : Nat) (b : Byte) : (s.setByte a b).halted = s.halted := rfl
@[simp] theorem State.setStrm_halted (h : Nat) (x : Stream) : (s.setStrm h x).halted = s.halted := rfl
@[simp] theorem State.setCore_halted (n : Nat) (x : Core) : (s.setCore n x).halted = s.halted := rfl
@[simp] theorem State.setCis_halted (e : Nat) (x : Cistern) : (s.setCis e x).halted = s.halted := rfl
@[simp] theorem State.setCar_halted (e : Nat) (x : Caravan) : (s.setCar e x).halted = s.halted := rfl
@[simp] theorem State.setCl_halted (i : Nat) (x : ClusterObj) : (s.setCl i x).halted = s.halted := rfl
@[simp] theorem State.setWk_halted (i : Nat) (x : ClusterWork) : (s.setWk i x).halted = s.halted := rfl
@[simp] theorem State.setChan_halted (c : Nat) (x : Channel) : (s.setChan c x).halted = s.halted := rfl
@[simp] theorem State.setArr_halted (a : Nat) (x : MicArray) : (s.setArr a x).halted = s.halted := rfl
@[simp] theorem State.setPort_halted (n : Nat) (x : Port) : (s.setPort n x).halted = s.halted := rfl
@[simp] theorem State.setPlane_halted (p : Nat) (x : Option Plane) : (s.setPlane p x).halted = s.halted := rfl
@[simp] theorem State.setEport_halted (n : Nat) (x : ErgPort) : (s.setEport n x).halted = s.halted := rfl
@[simp] theorem State.setMod_halted (k : Nat) (x : Moderation) : (s.setMod k x).halted = s.halted := rfl
@[simp] theorem State.send_halted (n : Nat) (m : FabMsg) : (s.send n m).halted = s.halted := rfl
@[simp] theorem State.answer_halted (l : List Byte) : (s.answer l).halted = s.halted := rfl
@[simp] theorem State.reach_halted (t : Nat) : (s.reach t).halted = s.halted := rfl

end Sys2Proof.Machine
end

