-- ==== Sys2Proof/Laws/Ops.lean ====
section
/-!
SUPPORT. What each named operation over registers and memory does: what is read back, what stays, and that the canonical
form is kept.
-/

namespace Sys2Proof.Machine

variable (s : State)

/-! Registers. -/

@[simp] theorem reg_setReg_same (a : Nat) (v : Word) : (s.setReg a v).reg a = v := AMap.read_write_same _ _ _ _
theorem reg_setReg_other {a b : Nat} (v : Word) (h : b ≠ a) : (s.setReg a v).reg b = s.reg b := AMap.read_write_other _ _ _ h
theorem reg_setReg (a b : Nat) (v : Word) : (s.setReg a v).reg b = if b = a then v else s.reg b := by
  by_cases h : b = a
  · subst h; simp
  · simp [h, reg_setReg_other s v h]
theorem reg_setN (a b v : Nat) : (s.setN a v).reg b = if b = a then BitVec.ofNat 32 v else s.reg b := reg_setReg s a b _
theorem rn_lt (a : Nat) : s.rn a < 2 ^ 32 := (s.reg a).isLt
theorem rn_setN_same (a v : Nat) : (s.setN a v).rn a = v % 2 ^ 32 := by simp [State.rn, reg_setN]
theorem rn_setN_other {a b : Nat} (v : Nat) (h : b ≠ a) : (s.setN a v).rn b = s.rn b := by simp [State.rn, reg_setN, h]

/-- A field that was set reads as the value set. -/
theorem fld_setFld_same {a lo len : Nat} (v : Nat) (h : lo + len ≤ 32) : (s.setFld a lo len v).fld a lo len = v % 2 ^ len := by
  unfold State.fld State.setFld
  rw [rn_setN_same, Nat.mod_eq_of_lt (putBits_lt _ _ _ _ h (rn_lt s a)), bitsAt_putBits_same]
/-- A field of the same register that does not meet it reads as before. -/
theorem fld_setFld_apart {a lo len p n : Nat} (v : Nat) (h : lo + len ≤ 32) (hd : p + n ≤ lo ∨ lo + len ≤ p) :
    (s.setFld a lo len v).fld a p n = s.fld a p n := by
  unfold State.fld State.setFld
  rw [rn_setN_same, Nat.mod_eq_of_lt (putBits_lt _ _ _ _ h (rn_lt s a)), bitsAt_putBits_other _ _ _ _ _ _ hd]
theorem reg_setFld_other {a b : Nat} (lo len v : Nat) (h : b ≠ a) : (s.setFld a lo len v).reg b = s.reg b := by
  simp [State.setFld, reg_setN, h]
theorem rbit_setFld {a lo len : Nat} (v i : Nat) (h : lo + len ≤ 32) :
    (s.setFld a lo len v).rbit a i = if lo ≤ i ∧ i < lo + len then bitAt v (i - lo) else s.rbit a i := by
  unfold State.rbit State.setFld
  rw [rn_setN_same, Nat.mod_eq_of_lt (putBits_lt _ _ _ _ h (rn_lt s a)), bitAt_putBits]
/-- The bit that was set, and the register's other bits. -/
theorem rbit_setBit {a i : Nat} (j : Nat) (b : Bool) (h : i < 32) :
    (s.setBit a i b).rbit a j = if j = i then b else s.rbit a j := by
  rw [State.setBit, rbit_setFld s _ _ (by omega)]
  by_cases hj : j = i
  · subst hj; simp [bitAt_b2n]
  · rw [if_neg (by omega), if_neg hj]
theorem reg_setBit_other {a b : Nat} (i : Nat) (v : Bool) (h : b ≠ a) : (s.setBit a i v).reg b = s.reg b :=
  reg_setFld_other s _ _ _ h

/-- A pair that was set reads as the number, modulo 2^64. -/
theorem pair_setPair_same (a v : Nat) : (s.setPair a v).pair a = v % 2 ^ 64 := by
  simp [State.pair, State.setPair, State.rn, reg_setN]
  omega
theorem reg_setPair_other {a b : Nat} (v : Nat) (h : b ≠ a) (h4 : b ≠ a + 4) : (s.setPair a v).reg b = s.reg b := by
  simp [State.setPair, reg_setN, h, h4]
/-- Registers of a list read zero after they were cleared, and no other differs. -/
theorem reg_zeroRegs (l : List Nat) (b : Nat) : (s.zeroRegs l).reg b = if b ∈ l then 0 else s.reg b := by
  induction l generalizing s with
  | nil => simp [State.zeroRegs]
  | cons a t ih =>
    rw [State.zeroRegs, ih, reg_setReg]
    by_cases h : b ∈ t <;> by_cases ha : b = a <;> simp [h, ha]
theorem zeroRegs_eq (l : List Nat) : s.zeroRegs l = { s with regs := (s.zeroRegs l).regs } := by
  induction l generalizing s with
  | nil => rfl
  | cons a t ih => rw [State.zeroRegs, ih]; rfl

/-! Interrupts and counters. -/

theorem raiseVector_eq (v : Nat) :
    s.raiseVector v = { s with host := { s.host with vectors := (s.raiseVector v).host.vectors } } := by
  unfold State.raiseVector; split <;> rfl
theorem raiseVector_keeps (v : Nat) : KeepsVectors s (s.raiseVector v) := by
  intro w hw
  unfold State.raiseVector
  split
  · exact hw
  · exact List.mem_append_left _ hw
@[simp] theorem reg_raiseVector (v b : Nat) : (s.raiseVector v).reg b = s.reg b := by
  unfold State.raiseVector; split <;> rfl
/-- Raising a cause sets its bit and may raise the summary vector; no other register differs. -/
theorem raise_spec (a i : Nat) (h : i < 32) :
    (s.raise a i).rbit a i = true ∧ SameBits a [i] s (s.raise a i) ∧ OnlyRegsIrq [a] s (s.raise a i) := by
  have hr : ∀ b, (s.raise a i).reg b = (s.setBit a i true).reg b := by
    intro b; unfold State.raise; dsimp only; split <;> simp
  have hb : ∀ j, (s.raise a i).rbit a j = if j = i then true else s.rbit a j := by
    intro j; rw [← rbit_setBit s j true h]; simp only [State.rbit, State.rn, hr]
  refine ⟨by simp [hb], fun j hj => by simp_all, fun b hb => ?_, ?_, ?_⟩
  · rw [hr, reg_setBit_other s _ _ (by simpa using hb)]
  · unfold State.raise; dsimp only; split
    · exact raiseVector_keeps (s.setBit a i true) _
    · exact fun _ hv => hv
  · unfold State.raise; dsimp only; split
    · rw [raiseVector_eq]; rfl
    · rfl
theorem reg_raise_other {a b : Nat} (i : Nat) (h : b ≠ a) : (s.raise a i).reg b = s.reg b := by
  unfold State.raise; dsimp only; split <;> simp [reg_setBit_other s _ _ h]
/-- A counter that saturates. -/
theorem rn_bump_same (a n : Nat) : (s.bump a n).rn a = min (s.rn a + n) 0xFFFFFFFF := by
  rw [State.bump, rn_setN_same]
  omega
theorem reg_bump_other {a b : Nat} (n : Nat) (h : b ≠ a) : (s.bump a n).reg b = s.reg b := by simp [State.bump, reg_setN, h]
/-- Counting adds to the counter, and raises its CNT_FULL cause at most; no other register differs. -/
theorem count_spec (a n st bit : Nat) (h : bit < 32) (ha : a ≠ st) :
    (s.count a n st bit).rn a = min (s.rn a + n) 0xFFFFFFFF ∧ OnlyRegsIrq [a, st] s (s.count a n st bit) := by
  unfold State.count
  dsimp only
  split
  · obtain ⟨-, -, hs, hk, he⟩ := raise_spec (s.bump a n) st bit h
    refine ⟨?_, fun b hb => ?_, hk, ?_⟩
    · rw [State.rn, reg_raise_other _ _ ha, ← State.rn, rn_bump_same]
    · simp only [List.mem_cons, List.not_mem_nil, or_false, not_or] at hb
      rw [reg_raise_other _ _ hb.2, reg_bump_other _ _ hb.1]
    · rw [he]; rfl
  · refine ⟨rn_bump_same _ _ _, fun b hb => ?_, fun _ hv => hv, rfl⟩
    simp only [List.mem_cons, List.not_mem_nil, or_false, not_or] at hb
    exact reg_bump_other _ _ hb.1
theorem pair_bump64_same (a n : Nat) : (s.bump64 a n).pair a = (s.pair a + n) % 2 ^ 64 := by
  rw [State.bump64, pair_setPair_same, Nat.mod_mod]
theorem reg_bump64_other {a b : Nat} (n : Nat) (h : b ≠ a) (h4 : b ≠ a + 4) : (s.bump64 a n).reg b = s.reg b :=
  reg_setPair_other _ _ h h4
theorem live_of_running {f : State → State} (h : s.halted = false) : s.live f = f s := by simp [State.live, h]
theorem live_of_halted {f : State → State} (h : s.halted = true) : s.live f = s := by simp [State.live, h]

/-! Bytes. -/

@[simp] theorem byte_setByte_same (a : Nat) (b : Byte) : (s.setByte a b).byte a = b := AMap.read_write_same _ _ _ _
theorem byte_setByte_other {a k : Nat} (b : Byte) (h : k ≠ a) : (s.setByte a b).byte k = s.byte k := AMap.read_write_other _ _ _ h
theorem setBytes_eq (a : Nat) (l : List Byte) : s.setBytes a l = { s with mem := (s.setBytes a l).mem } := by
  induction l generalizing s a with
  | nil => rfl
  | cons b t ih => rw [State.setBytes, ih]; rfl
/-- Bytes outside a store read as before. -/
theorem byte_setBytes_other {a k : Nat} (l : List Byte) (h : k < a ∨ a + l.length ≤ k) : (s.setBytes a l).byte k = s.byte k := by
  induction l generalizing s a with
  | nil => rfl
  | cons b t ih =>
    simp only [List.length_cons] at h
    rw [State.setBytes, ih _ (by omega), byte_setByte_other s b (by omega)]
theorem sameBytes_setBytes (a : Nat) (l : List Byte) : SameBytes a l.length s (s.setBytes a l) :=
  fun _ h => byte_setBytes_other s l h
/-- Bytes that were stored are read back. -/
theorem bytes_setBytes_same (a : Nat) (l : List Byte) : (s.setBytes a l).bytes a l.length = l := by
  induction l generalizing s a with
  | nil => rfl
  | cons b t ih =>
    simp only [List.length_cons, State.bytes, State.setBytes, ih]
    rw [byte_setBytes_other _ t (by omega), byte_setByte_same]
theorem bytes_congr {s t : State} {a n : Nat} (h : ∀ k, a ≤ k → k < a + n → t.byte k = s.byte k) : t.bytes a n = s.bytes a n := by
  induction n generalizing a with
  | zero => rfl
  | succ n ih =>
    rw [State.bytes, State.bytes, h a (by omega) (by omega), ih (fun k h1 h2 => h k (by omega) (by omega))]
@[simp] theorem length_bytes (a n : Nat) : (s.bytes a n).length = n := by
  induction n generalizing a with
  | zero => rfl
  | succ n ih => simp [State.bytes, ih]
@[simp] theorem length_leBytes (n v : Nat) : (leBytes n v).length = n := by
  induction n generalizing v with
  | zero => rfl
  | succ n ih => simp [leBytes, ih]
/-- Little-endian bytes spell the number they were made from. -/
theorem leVal_leBytes (n v : Nat) : leVal (leBytes n v) = v % 2 ^ (8 * n) := by
  induction n generalizing v with
  | zero => simp [leBytes, leVal, Nat.mod_one]
  | succ n ih =>
    rw [leBytes, leVal, ih, BitVec.toNat_ofNat, show 8 * (n + 1) = 8 + 8 * n by ring, Nat.pow_add, Nat.mod_mul]
theorem num_setNum_same (a n v : Nat) : (s.setNum a n v).num a n = v % 2 ^ (8 * n) := by
  have h := bytes_setBytes_same s a (leBytes n v)
  rw [length_leBytes] at h
  rw [State.num, State.setNum, h, leVal_leBytes]

/-! The canonical form (State.Inv): every operation over registers and memory keeps it. -/

variable {s}

theorem inv_of_same {t : State} (h : s.Inv) (hm : t.mem = s.mem) (hr : t.regs = s.regs) : t.Inv := by
  unfold State.Inv at *; rw [hm, hr]; exact h
theorem inv_setReg (h : s.Inv) (a : Nat) (v : Word) : (s.setReg a v).Inv := ⟨h.1, AMap.wf_write _ h.2 _ _⟩
theorem inv_setN (h : s.Inv) (a v : Nat) : (s.setN a v).Inv := inv_setReg h _ _
theorem inv_setFld (h : s.Inv) (a lo len v : Nat) : (s.setFld a lo len v).Inv := inv_setN h _ _
theorem inv_setBit (h : s.Inv) (a i : Nat) (b : Bool) : (s.setBit a i b).Inv := inv_setFld h _ _ _ _
theorem inv_setPair (h : s.Inv) (a v : Nat) : (s.setPair a v).Inv := inv_setN (inv_setN h _ _) _ _
theorem inv_zeroRegs (h : s.Inv) (l : List Nat) : (s.zeroRegs l).Inv := by
  induction l generalizing s with
  | nil => exact h
  | cons a t ih => exact ih (inv_setReg h a 0)
theorem inv_raiseVector (h : s.Inv) (v : Nat) : (s.raiseVector v).Inv := by unfold State.raiseVector; split <;> exact h
theorem inv_raise (h : s.Inv) (a i : Nat) : (s.raise a i).Inv := by
  unfold State.raise; dsimp only; split
  · exact inv_raiseVector (inv_setBit h _ _ _) _
  · exact inv_setBit h _ _ _
theorem inv_bump (h : s.Inv) (a n : Nat) : (s.bump a n).Inv := inv_setN h _ _
theorem inv_bump64 (h : s.Inv) (a n : Nat) : (s.bump64 a n).Inv := inv_setPair h _ _
theorem inv_count (h : s.Inv) (a n st bit : Nat) : (s.count a n st bit).Inv := by
  unfold State.count; dsimp only; split
  · exact inv_raise (inv_bump h _ _) _ _
  · exact inv_bump h _ _
theorem inv_mgtEvent (h : s.Inv) (i : Nat) : (s.mgtEvent i).Inv := by
  unfold State.mgtEvent; dsimp only; split
  · exact inv_of_same (inv_setBit h _ _ _) rfl rfl
  · exact inv_setBit h _ _ _
theorem inv_setByte (h : s.Inv) (a : Nat) (b : Byte) : (s.setByte a b).Inv := ⟨AMap.wf_write _ h.1 _ _, h.2⟩
theorem inv_setBytes (h : s.Inv) (a : Nat) (l : List Byte) : (s.setBytes a l).Inv := by
  induction l generalizing s a with
  | nil => exact h
  | cons b t ih => exact ih (inv_setByte h _ _) _
theorem inv_setNum (h : s.Inv) (a n v : Nat) : (s.setNum a n v).Inv := inv_setBytes h _ _
theorem inv_zeroRange (h : s.Inv) (a n : Nat) : (s.zeroRange a n).Inv :=
  ⟨AMap.wf_filter _ h.1 (fun e => decide (e.1 < a) || decide (a + n ≤ e.1)), h.2⟩
theorem inv_resetRegs (h : s.Inv) (p : Nat → Bool) : (s.resetRegs p).Inv := ⟨h.1, AMap.wf_filter _ h.2 (fun e => !p e.1)⟩
theorem inv_live (h : s.Inv) {f : State → State} (hf : (f s).Inv) : (s.live f).Inv := by
  unfold State.live; split <;> assumption
theorem inv_free (h : s.Inv) : s.free.2.Inv := h
theorem inv_answer (h : s.Inv) (l : List Byte) : (s.answer l).Inv := h
/-- Memory is canonical at reset. -/
theorem wf_mem_reset : Memory.wf State.reset.mem = true := rfl

end Sys2Proof.Machine
end

