-- ==== Sys2Proof/Laws/Shared.lean ====
section
/-!
SUPPORT. What the shared operations above single registers and bytes may change: fabric sends, snapshot triggers, error
reports, record rings, and reading and writing memory with its error correction.
-/

namespace Sys2Proof.Machine

variable (s : State)

/-! Sends, triggers, reports. -/

/-- Nothing differs but registers, the collectors of reports, triggers, messages sent and vectors. -/
def Reported (s t : State) : Prop := t = { s with
  regs := t.regs
  errs := t.errs
  snap := { s.snap with
    pending := t.snap.pending
    seen := t.snap.seen }
  fab := { s.fab with sent := t.fab.sent }
  host := { s.host with vectors := t.host.vectors } }

variable {s} in
theorem Reported.trans {t u : State} (h1 : Reported s t) (h2 : Reported t u) : Reported s u := by
  unfold Reported at *
  rw [h2, h1]
theorem Reported.refl : Reported s s := rfl
theorem reported_setReg (a : Nat) (v : Word) : Reported s (s.setReg a v) := rfl
theorem reported_setPair (a v : Nat) : Reported s (s.setPair a v) := (reported_setReg s _ _).trans (reported_setReg _ _ _)
theorem reported_raiseVector (v : Nat) : Reported s (s.raiseVector v) := by unfold State.raiseVector; split <;> rfl
theorem reported_raise (a i : Nat) : Reported s (s.raise a i) := by
  unfold State.raise; dsimp only; split
  · exact (reported_setReg s _ _).trans (reported_raiseVector _ _)
  · exact reported_setReg s _ _
theorem reported_sendAll (m : FabMsg) (l : List Nat) : Reported s (s.sendAll m l) := by
  induction l generalizing s with
  | nil => rfl
  | cons n t ih =>
    rw [State.sendAll]
    refine Reported.trans ?_ (ih _)
    split <;> rfl
theorem reported_missTrigger : Reported s s.missTrigger := (reported_setReg s _ _).trans (reported_raise _ _ _)
theorem reported_pendTrigger (x : Trigger) : Reported s (s.pendTrigger x) := by
  have h : Reported s { s with snap := { s.snap with pending := some x } } := rfl
  exact (((h.trans (reported_setPair _ _ _)).trans (reported_setReg _ _ _)).trans (reported_setReg _ _ _)).trans (reported_setReg _ _ _)
/-- Offering a trigger changes nothing but registers, vectors and the pending trigger. -/
theorem reported_offerTrigger (x : Trigger) : Reported s (s.offerTrigger x).2 := by
  unfold State.offerTrigger
  split
  · exact reported_missTrigger s
  · split
    · exact reported_pendTrigger s x
    · split
      · exact (reported_missTrigger s).trans (reported_pendTrigger _ x)
      · exact reported_missTrigger s
theorem reported_takeNumber : Reported s s.takeNumber.2 :=
  Reported.trans (t := { s with snap := { s.snap with seen := (s.deviceId * 2 ^ 20 + s.fld Reg.SNP_NUM_NEXT 0 20) :: s.snap.seen } })
    rfl (reported_setReg _ _ _)
/-- A local trigger changes nothing but registers, vectors, the triggers and the messages sent. -/
theorem reported_originate (t source : Nat) (flood : Bool) : Reported s (s.originate t source flood).2 := by
  unfold State.originate
  dsimp only
  refine Reported.trans ?_ (reported_offerTrigger _ _)
  split
  · exact (reported_takeNumber s).trans (reported_sendAll _ _ _)
  · exact reported_takeNumber s
theorem reported_errorTrigger (r : ErrWin) : Reported s (s.errorTrigger r).2 := by
  unfold State.errorTrigger
  split
  · exact reported_originate s _ _ _
  · rfl
theorem reported_collect (die : Nat) (r : ErrWin) : Reported s (s.collect die r) := by
  unfold State.collect; split <;> rfl
/-- Work of a die changes that die's power state alone. -/
theorem dieBusy_spec (d : Nat) : ∃ x, s.dieBusy d = s.setDie d x := ⟨_, rfl⟩
theorem die_dieBusy (d : Nat) : (s.dieBusy d).die d =
    if (s.die d).night then { s.die d with waking := true } else { s.die d with busyTb := s.tb.toNat } :=
  AMap.read_write_same _ _ _ _
/-- An access changes nothing but the power state of the die it reaches. -/
theorem touchDie_spec (a : Nat) : s.touchDie a = { s with pwr := (s.touchDie a).pwr } := by
  unfold State.touchDie; split <;> rfl
@[simp] theorem mem_touchDie (a : Nat) : (s.touchDie a).mem = s.mem := by rw [touchDie_spec]
@[simp] theorem regs_touchDie (a : Nat) : (s.touchDie a).regs = s.regs := by rw [touchDie_spec]
@[simp] theorem streams_touchDie (a : Nat) : (s.touchDie a).streams = s.streams := by rw [touchDie_spec]
/-- A report changes nothing but the collectors and what a snapshot trigger changes. -/
theorem report_spec (cls code loc skind suspect : Nat) : Reported s (s.report cls code loc skind suspect) :=
  (reported_errorTrigger s _).trans (reported_collect _ _ _)
theorem reported_mem {t : State} (h : Reported s t) : t.mem = s.mem := by rw [h]

@[simp] theorem mem_raise (a i : Nat) : (s.raise a i).mem = s.mem := reported_mem s (reported_raise s a i)
@[simp] theorem mem_count (a n st bit : Nat) : (s.count a n st bit).mem = s.mem := by
  unfold State.count; dsimp only; split <;> simp
@[simp] theorem mem_report (cls code loc skind suspect : Nat) : (s.report cls code loc skind suspect).mem = s.mem :=
  reported_mem s (report_spec s cls code loc skind suspect)

variable {s}

theorem inv_reach (h : s.Inv) (t : Nat) : (s.reach t).Inv := inv_of_same h rfl rfl
theorem inv_dieBusy (h : s.Inv) (d : Nat) : (s.dieBusy d).Inv := inv_of_same h rfl rfl
theorem inv_touchDie (h : s.Inv) (a : Nat) : (s.touchDie a).Inv := inv_of_same h (mem_touchDie s a) (regs_touchDie s a)
theorem inv_missTrigger (h : s.Inv) : s.missTrigger.Inv := inv_raise (inv_bump h _ _) _ _
theorem inv_pendTrigger (h : s.Inv) (x : Trigger) : (s.pendTrigger x).Inv :=
  inv_setBit (inv_setFld (inv_setN (inv_setPair (s := { s with snap := { s.snap with pending := some x } }) h _ _) _ _) _ _ _ _) _ _ _
theorem inv_offerTrigger (h : s.Inv) (x : Trigger) : (s.offerTrigger x).2.Inv := by
  unfold State.offerTrigger
  split
  · exact inv_missTrigger h
  · split
    · exact inv_pendTrigger h x
    · split
      · exact inv_pendTrigger (inv_missTrigger h) x
      · exact inv_missTrigger h
theorem inv_sendAll (h : s.Inv) (m : FabMsg) (l : List Nat) : (s.sendAll m l).Inv :=
  by
  induction l generalizing s with
  | nil => exact h
  | cons n t ih =>
    rw [State.sendAll]
    split
    · exact ih h
    · exact ih h
theorem inv_originate (h : s.Inv) (t source : Nat) (flood : Bool) : (s.originate t source flood).2.Inv := by
  have h1 : s.takeNumber.2.Inv := inv_setN (s := { s with snap := { s.snap with seen := _ } }) h _ _
  unfold State.originate
  dsimp only
  split
  · exact inv_offerTrigger (inv_sendAll h1 _ _) _
  · exact inv_offerTrigger h1 _
theorem inv_errorTrigger (h : s.Inv) (r : ErrWin) : (s.errorTrigger r).2.Inv := by
  unfold State.errorTrigger; split
  · exact inv_originate h _ _ _
  · exact h
theorem inv_collect (h : s.Inv) (die : Nat) (r : ErrWin) : (s.collect die r).Inv := by
  unfold State.collect; split <;> exact inv_of_same h rfl rfl
theorem inv_report (h : s.Inv) (cls code loc skind suspect : Nat) : (s.report cls code loc skind suspect).Inv :=
  inv_collect (inv_errorTrigger h _) _ _

/-! Memory with its error correction. -/

theorem inv_countCe (h : s.Inv) (a : Nat) : (s.countCe a).Inv := by
  unfold State.countCe; split
  · exact inv_count (inv_bump64 h _ _) _ _ _ _
  · exact inv_bump h _ _
  · exact inv_bump h _ _
  · exact h
theorem inv_correctWords (h : s.Inv) (l : List Nat) : (correctWords s l).Inv := by
  induction l generalizing s with
  | nil => exact h
  | cons w t ih =>
    refine ih ?_
    split
    · exact inv_countCe (inv_of_same (t := s.healWord w) h rfl rfl) w
    · exact h
theorem inv_correct (h : s.Inv) (a : Nat) : (s.correct a).Inv := by
  unfold State.correct; split
  · split
    · exact inv_countCe (inv_of_same (t := s.heal a) h rfl rfl) a
    · exact h
  · exact inv_correctWords h _
  · exact inv_correctWords h _
  · exact inv_correctWords h _
  · exact h
/-- Taking blocks out of the index keeps the form. -/
theorem inv_dropIndex (h : s.Inv) (l : List Nat) : (dropIndex l s).Inv := by
  unfold dropIndex
  induction l generalizing s with
  | nil => exact h
  | cons r t ih =>
    refine ih ?_
    dsimp only
    split
    · exact inv_setBytes (inv_setBytes h _ _) _ _
    · exact inv_setBytes h _ _
theorem inv_listBad (h : s.Inv) (a : Nat) : (s.listBad a).Inv := inv_dropIndex (inv_of_same (t := s.putBad a) h rfl rfl) _
theorem inv_retireBank (h : s.Inv) (d ch b : Nat) : (s.retireBank d ch b).Inv := by
  unfold State.retireBank; split
  · exact h
  · exact inv_report (inv_raise (inv_bump (inv_setBit h _ _ _) _ _) _ _) _ _ _ _ _
theorem inv_showRetired (h : s.Inv) (d : Nat) : (s.showRetired d).Inv := by
  unfold State.showRetired; dsimp only; split
  · exact inv_raise (inv_setBit (inv_setN h _ _) _ _ _) _ _
  · exact inv_setN h _ _
theorem inv_retireFrame (h : s.Inv) (f : Nat) : (s.retireFrame f).Inv := by
  have hf : (s.forgetFrame f).Inv := inv_of_same h rfl rfl
  unfold State.retireFrame
  split
  · exact hf
  · split
    · exact inv_retireBank hf _ _ _
    · have h1 := inv_showRetired (inv_of_same (t := s.listRetired f) h rfl rfl) (bitsAt f 22 2)
      unfold State.checkBank
      split
      · exact inv_retireBank h1 _ _ _
      · exact h1
theorem inv_retireRun (h : s.Inv) (f n : Nat) : (s.retireRun f n).Inv := by
  induction n generalizing s f with
  | zero => exact h
  | succ n ih =>
    refine ih ?_ _
    unfold State.retireIfDue
    split
    · exact inv_retireFrame h f
    · exact h
theorem inv_countUe (h : s.Inv) (d e a : Nat) : (s.countUe d e a).Inv :=
  inv_raise (inv_count (inv_raise (inv_setPair (inv_bump64 h _ _) _ _) _ _) _ _ _ _) _ _
theorem inv_noteUe (h : s.Inv) (a : Nat) (ctl : Bool) : (s.noteUe a ctl).Inv :=
  inv_report (inv_countUe (inv_listBad h a) _ _ _) _ _ _ _ _
theorem inv_detectDram (h : s.Inv) (a : Nat) (ctl : Bool) : (s.detectDram a ctl).Inv := by
  unfold State.detectDram
  split
  · exact h
  · split
    · exact inv_noteUe h _ _
    · exact inv_retireFrame (inv_noteUe h _ _) _
theorem inv_countSramUe (h : s.Inv) (a : Nat) : (s.countSramUe a).Inv := by
  unfold State.countSramUe
  split
  · exact inv_raise (inv_bump h _ _) _ _
  · exact inv_raise (inv_bump h _ _) _ _
  · exact inv_count h _ _ _ _
theorem inv_detectSram (h : s.Inv) (w loc : Nat) : (s.detectSram w loc).Inv := inv_report (inv_countSramUe h w) _ _ _ _ _
theorem inv_detectWords (h : s.Inv) (loc : Nat) (l : List Nat) : (detectWords loc s l).Inv := by
  induction l generalizing s with
  | nil => exact h
  | cons w t ih => exact ih (inv_detectSram h w loc)
theorem inv_readGran (h : s.Inv) (a loc : Nat) : (s.readGran a loc).2.2.Inv := by
  have hc := inv_correct h a
  unfold State.readGran
  dsimp only
  split
  · split
    · exact inv_bump64 (inv_detectDram hc _ _) _ _
    · exact hc
  all_goals first
    | (split
       · exact hc
       · exact inv_detectWords hc _ _)
    | exact hc
theorem inv_readGrans (h : s.Inv) (loc : Nat) (l : List Nat) : (s.readGrans loc l).2.2.Inv := by
  induction l generalizing s with
  | nil => exact h
  | cons a t ih => exact ih (inv_readGran h a loc)
/-- Reading as data keeps the form. -/
theorem inv_readData (h : s.Inv) (loc a n : Nat) : (s.readData loc a n).st.Inv := by
  unfold State.readData
  split
  · exact h
  · split
    · exact h
    · split
      · split <;> exact h
      · exact inv_readGrans h _ _
theorem inv_corrects (h : s.Inv) (l : List Nat) : (l.foldl State.correct s).Inv := by
  induction l generalizing s with
  | nil => exact h
  | cons a t ih => exact ih (inv_correct h a)
/-- Reading a control structure keeps the form. -/
theorem inv_readCtl (h : s.Inv) (loc a n : Nat) : (s.readCtl loc a n).st.Inv := by
  have hc := inv_corrects h (granulesOf a n)
  unfold State.readCtl
  split
  · exact h
  · split
    · split <;> exact h
    · dsimp only
      split
      · dsimp only
        split
        · exact inv_detectDram hc _ _
        · exact inv_detectWords hc _ _
      · exact hc
theorem inv_prepareGran (h : s.Inv) (loc a : Nat) : (s.prepareGran loc a).Inv := by
  have hc := inv_correct h a
  unfold State.prepareGran
  dsimp only
  split
  · split
    · exact inv_setBytes (inv_detectDram hc _ _) _ _
    · exact hc
  all_goals first
    | (split
       · exact hc
       · exact inv_setBytes (inv_detectWords hc _ _) _ _)
    | exact hc
theorem inv_freshCells (h : s.Inv) (lo hi : Nat) : (s.freshCells lo hi).Inv := by
  unfold State.freshCells
  split
  · exact h
  · exact h
/-- Writing as data keeps the form. -/
theorem inv_writeData (h : s.Inv) (loc a : Nat) (l : List Byte) : (s.writeData loc a l).Inv := by
  unfold State.writeData
  split
  · exact h
  · split
    · exact h
    · dsimp only
      refine inv_freshCells (inv_setBytes ?_ _ _) _ _
      split
      · refine inv_prepareGran ?_ _ _
        split
        · exact inv_prepareGran h _ _
        · exact h
      · split
        · exact inv_prepareGran h _ _
        · exact h
theorem inv_writeRuns (h : s.Inv) (loc : Nat) (r : List (Nat × Nat)) (l : List Byte) : (s.writeRuns loc r l).Inv := by
  induction r generalizing s l with
  | nil => exact h
  | cons e t ih => exact ih (inv_writeData h _ _ _) _
theorem inv_writePage (h : s.Inv) (loc f off : Nat) (l : List Byte) : (s.writePage loc f off l).Inv := inv_writeRuns h _ _ _
theorem inv_readRuns (h : s.Inv) (loc : Nat) (r : List (Nat × Nat)) : (s.readRuns loc r).st.Inv := by
  induction r generalizing s with
  | nil => exact h
  | cons e t ih => exact ih (inv_readData h _ _ _)

/-! Record rings. -/

theorem inv_raiseModerated (h : s.Inv) (int bit key interval : Nat) : (s.raiseModerated int bit key interval).Inv := by
  unfold State.raiseModerated; split
  · exact inv_of_same h rfl rfl
  · exact inv_of_same (inv_raise h _ _) rfl rfl
theorem inv_ringDrop (h : s.Inv) (r : RingId) : (s.ringDrop r).Inv := inv_raise (inv_bump h _ _) _ _
theorem inv_ringWrite (h : s.Inv) (r : RingId) (b : List Byte) : (s.ringWrite r b).Inv := inv_setN (inv_writeData h _ _ _) _ _
theorem inv_ringPut (h : s.Inv) (r : RingId) (b : List Byte) : (s.ringPut r b).Inv := by
  unfold State.ringPut; dsimp only; split
  · exact inv_raiseModerated (inv_ringWrite h r b) _ _ _ _
  · exact inv_ringDrop h r

/-! Reading changes no byte of memory, as long as no sequence holds a block whose record would leave the index (R247). -/

/-- No sequence holds a block with a record. -/
def State.noBlocks (s : State) : Prop := ∀ e ∈ s.streams, e.2.kv.recs = []

variable (s)

theorem recsNaming_none (h : s.noBlocks) (f : Nat) : s.recsNaming f = [] := by
  have : s.streams.flatMap (fun e => e.2.kv.recs.map (fun r => r.2)) = [] := by
    rw [List.flatMap_eq_nil_iff]
    intro e he
    rw [h e he]; rfl
  unfold State.recsNaming
  dsimp only
  rw [this]; rfl
theorem listBad_noBlocks (h : s.noBlocks) (a : Nat) : s.listBad a = s.putBad a := by
  rw [State.listBad, recsNaming_none s h]; rfl
/-- Nothing differs but registers, what the part reports, the marks of memory and its physical condition. -/
def Marked (s t : State) : Prop := t = { s with
  regs := t.regs
  errs := t.errs
  snap := t.snap
  fab := t.fab
  host := t.host
  cond := t.cond
  cisterns := t.cisterns
  retired := t.retired
  retireDue := t.retireDue
  weights := t.weights }

variable {s} in
theorem Marked.trans {t u : State} (h1 : Marked s t) (h2 : Marked t u) : Marked s u := by
  unfold Marked at *
  rw [h2, h1]
variable {s} in
theorem Marked.of_reported {t : State} (h : Reported s t) : Marked s t := by
  unfold Marked Reported at *
  rw [h]
theorem Marked.refl : Marked s s := rfl
variable {s} in
theorem Marked.noBlocks {t : State} (h : Marked s t) (hs : s.noBlocks) : t.noBlocks := by
  unfold Marked at h; unfold State.noBlocks at *; rw [h]; exact hs
variable {s} in
theorem Marked.mem {t : State} (h : Marked s t) : t.mem = s.mem := by rw [h]
theorem marked_setReg (a : Nat) (v : Word) : Marked s (s.setReg a v) := rfl
theorem marked_setPair (a v : Nat) : Marked s (s.setPair a v) := Marked.of_reported (reported_setPair s a v)
theorem marked_bump64 (a n : Nat) : Marked s (s.bump64 a n) := marked_setPair s _ _
theorem marked_raise (a i : Nat) : Marked s (s.raise a i) := Marked.of_reported (reported_raise s a i)
theorem marked_report (cls code loc skind suspect : Nat) : Marked s (s.report cls code loc skind suspect) :=
  Marked.of_reported (report_spec s cls code loc skind suspect)
theorem marked_count (a n st bit : Nat) : Marked s (s.count a n st bit) := by
  unfold State.count; dsimp only; split
  · exact (marked_setReg s _ _).trans (marked_raise _ _ _)
  · exact marked_setReg s _ _
theorem marked_countCe (a : Nat) : Marked s (s.countCe a) := by
  unfold State.countCe; split
  · exact (marked_bump64 s _ _).trans (marked_count _ _ _ _ _)
  · exact marked_setReg s _ _
  · exact marked_setReg s _ _
  · exact Marked.refl s
theorem marked_correctWords (l : List Nat) : Marked s (correctWords s l) := by
  induction l generalizing s with
  | nil => exact Marked.refl s
  | cons w t ih =>
    refine Marked.trans ?_ (ih _)
    split
    · exact Marked.trans (t := s.healWord w) rfl (marked_countCe _ _)
    · exact Marked.refl s
theorem marked_correct (a : Nat) : Marked s (s.correct a) := by
  unfold State.correct; split
  · split
    · exact Marked.trans (t := s.heal a) rfl (marked_countCe _ _)
    · exact Marked.refl s
  · exact marked_correctWords s _
  · exact marked_correctWords s _
  · exact marked_correctWords s _
  · exact Marked.refl s
theorem marked_retireBank (d ch b : Nat) : Marked s (s.retireBank d ch b) := by
  unfold State.retireBank; split
  · exact Marked.refl s
  · exact (((marked_setReg s _ _).trans (marked_setReg _ _ _)).trans (marked_raise _ _ _)).trans (marked_report _ _ _ _ _ _)
theorem marked_showRetired (d : Nat) : Marked s (s.showRetired d) := by
  unfold State.showRetired; dsimp only; split
  · exact ((marked_setReg s _ _).trans (marked_setReg _ _ _)).trans (marked_raise _ _ _)
  · exact marked_setReg s _ _
theorem marked_retireFrame (f : Nat) : Marked s (s.retireFrame f) := by
  have h0 : Marked s (s.forgetFrame f) := rfl
  unfold State.retireFrame; split
  · exact h0
  · split
    · exact h0.trans (marked_retireBank _ _ _ _)
    · have h1 : Marked s (s.listRetired f) := rfl
      unfold State.checkBank; split
      · exact (h1.trans (marked_showRetired _ _)).trans (marked_retireBank _ _ _ _)
      · exact h1.trans (marked_showRetired _ _)
theorem marked_countUe (d e a : Nat) : Marked s (s.countUe d e a) :=
  ((((marked_bump64 s _ _).trans (marked_setPair _ _ _)).trans (marked_raise _ _ _)).trans (marked_count _ _ _ _ _)).trans (marked_raise _ _ _)
theorem marked_noteUe (h : s.noBlocks) (a : Nat) (ctl : Bool) : Marked s (s.noteUe a ctl) := by
  rw [State.noteUe, listBad_noBlocks s h]
  exact (Marked.trans (t := s.putBad a) rfl (marked_countUe _ _ _ _)).trans (marked_report _ _ _ _ _ _)
theorem marked_detectDram (h : s.noBlocks) (a : Nat) (ctl : Bool) : Marked s (s.detectDram a ctl) := by
  unfold State.detectDram; split
  · exact Marked.refl s
  · split
    · exact marked_noteUe s h _ _
    · exact (marked_noteUe s h _ _).trans (marked_retireFrame _ _)
theorem marked_detectSram (w loc : Nat) : Marked s (s.detectSram w loc) := by
  refine Marked.trans ?_ (marked_report _ _ _ _ _ _)
  unfold State.countSramUe; split
  · exact (marked_setReg s _ _).trans (marked_raise _ _ _)
  · exact (marked_setReg s _ _).trans (marked_raise _ _ _)
  · exact marked_count s _ _ _ _
theorem marked_detectWords (loc : Nat) (l : List Nat) : Marked s (detectWords loc s l) := by
  induction l generalizing s with
  | nil => exact Marked.refl s
  | cons w t ih => exact (marked_detectSram s w loc).trans (ih _)
theorem marked_readGran (h : s.noBlocks) (a loc : Nat) : Marked s (s.readGran a loc).2.2 := by
  have hc := marked_correct s a
  unfold State.readGran
  dsimp only
  split
  · split
    · exact (hc.trans (marked_detectDram _ (hc.noBlocks h) _ _)).trans (marked_bump64 _ _ _)
    · exact hc
  all_goals first
    | (split
       · exact hc
       · exact hc.trans (marked_detectWords _ _ _))
    | exact hc
theorem marked_readGrans (h : s.noBlocks) (loc : Nat) (l : List Nat) : Marked s (s.readGrans loc l).2.2 := by
  induction l generalizing s with
  | nil => exact Marked.refl s
  | cons a t ih => exact (marked_readGran s h a loc).trans (ih _ ((marked_readGran s h a loc).noBlocks h))
/-- A read as data changes no byte of memory and nothing but what errors it finds change. -/
theorem marked_readData (h : s.noBlocks) (loc a n : Nat) : Marked s (s.readData loc a n).st := by
  unfold State.readData
  split
  · exact Marked.refl s
  · split
    · exact Marked.refl s
    · split
      · split <;> exact Marked.refl s
      · exact marked_readGrans s h loc _
theorem mem_readData (h : s.noBlocks) (loc a n : Nat) : (s.readData loc a n).st.mem = s.mem := (marked_readData s h loc a n).mem

end Sys2Proof.Machine
end

