-- ==== Sys2Proof/WellFormed.lean ====
section
/-!
DEFINITION. Well-formed commands: what a command must be for the spec to speak of it. A descriptor command carries a
descriptor with its own OPCODE (Table 17-4), a register access names an aligned word of its space (R4), an index is that
of a thing the part has, and a list has the length its row states. The machine is total: it also answers a command that
is not well-formed, and no meaning tests this predicate.
-/

namespace Sys2Proof

open Sys2Proof.Machine

/-- A 24-bit sample, as the arrays deliver them (R312). -/
def pcm24 (x : Int) : Bool := decide (-8388608 ≤ x) && decide (x < 8388608)

/-- A command is well-formed. -/
def Instr.wf : Instr → Bool
  | .registerWrite sp off _ => sp.word off
  | .bar0MisalignedAccess _ off len => len != 4 || off % 4 != 0
  | .lowWordRead sp off => sp.word off
  | .ppsEpochWrite _ _ => true
  | .ppsEdge _ => true
  | .holdoverEnter _ => true
  | .holdoverExit _ => true
  | .tbLoad _ => true
  | .grainTick _ => true
  | .tickDelivery _ _ _ _ => true
  | .stepStart _ => true
  | .stepComplete _ _ => true
  | .ringTailWrite _ _ => true
  | .eventModIntervalEnd _ => true
  | .tbgPeakClear _ _ => true
  | .splGo _ => true
  | .imageCopyDone _ => true
  | .poolSwitch => true
  | .drainTimeout => true
  | .splAbort _ => true
  | .trainingComplete _ temps => temps.length == 4
  | .weightLoad _ _ desc => dOp desc == 0x10
  | .engineResume _ _ _ => true
  | .meCntClr _ _ _ => true
  | .vecCntClr _ _ => true
  | .qstCntClr _ _ => true
  | .qstSlotClear _ _ => true
  | .qstWselWrite _ _ _ => true
  | .drfTestGo _ => true
  | .drfTestDone _ => true
  | .drfCntClr _ _ => true
  | .smpCntClr _ _ => true
  | .nmdRv64Instruction _ => true
  | .nmdEcall _ => true
  | .nmdTwait _ => true
  | .nmdBar _ => true
  | .nmdQpush _ => true
  | .nmdQpop _ => true
  | .nmdDraw _ => true
  | .nmdMark _ => true
  | .nmdRbegin _ => true
  | .nmdRfeed _ => true
  | .nmdRnode _ => true
  | .nmdRend _ => true
  | .nmdWatchdog _ => true
  | .nmdResume _ _ => true
  | .nmdCntClr _ _ => true
  | .cisternAttn _ => true
  | .cisternExpand _ => true
  | .cisternQscan _ => true
  | .cisternProbe _ => true
  | .cisternFill _ => true
  | .cisternCopy _ => true
  | .cisternSliceEnd _ => true
  | .cisternItemComplete _ => true
  | .dmemRetire _ _ => true
  | .dramRefresh _ => true
  | .stackTempRead _ _ => true
  | .patrolScrub _ ofs => decide (ofs < 0xC00000000) && ofs % 64 == 0
  | .dmemCntClr _ _ => true
  | .cisCntClr _ _ => true
  | .transferRequest _ addr _ => decide (addr < 2 ^ 52)
  | .transferStart _ => true
  | .tileHandover _ _ => true
  | .transferComplete _ _ => true
  | .priResponse _ _ _ => true
  | .priTimeout _ _ => true
  | .carCntClr _ _ => true
  | .crnRestart _ _ => true
  | .crnPairHighWrite _ _ _ _ => true
  | .kvAttach _ _ desc => dOp desc == 0x18
  | .kvFork _ _ desc => dOp desc == 0x19
  | .kvTruncate _ _ desc => dOp desc == 0x1A
  | .kvPin _ _ desc => dOp desc == 0x1B
  | .swapPageWriteDone _ _ _ => true
  | .kvRestoreComplete _ => true
  | .readyRecordArrival _ _ _ _ _ => true
  | .ringBlockReceive _ _ _ _ => true
  | .ringTimeout _ => true
  | .kvcCntClr _ => true
  | .kvpLowWrite _ _ _ => true
  | .streamOpen _ _ desc => dOp desc == 0x01
  | .streamFeed _ _ desc => dOp desc == 0x02
  | .streamMark _ _ desc => dOp desc == 0x03
  | .streamPause _ _ desc => dOp desc == 0x04
  | .streamResume _ _ desc => dOp desc == 0x05
  | .resumeTickReached _ => true
  | .streamExport _ _ desc => dOp desc == 0x06
  | .exportParcelWritten _ => true
  | .streamImport _ _ desc => dOp desc == 0x07
  | .streamClose _ _ desc => dOp desc == 0x08
  | .strmCntClr _ => true
  | .hostInputPoll ch => decide (ch < 16384)
  | .rippleFrame ch pcm =>
    if ch < 16384 then pcm.isEmpty else decide (ch < 16388) && pcm.length == 160 && pcm.all pcm24
  | .crestDecision ch => decide (ch < 16388)
  | .crestTimeout ch => decide (ch < 16388)
  | .channelRelease ch => decide (ch < 16388)
  | .rplChSrcWrite ch _ => decide (ch < 16384)
  | .groupEnable _ _ => true
  | .enroll _ => true
  | .enrollDelete _ => true
  | .rplCntClr _ => true
  | .acfModeWrite _ _ => true
  | .acfModeChange _ => true
  | .pdmClockStart _ => true
  | .attendBlock _ _ => true
  | .acfCntClr _ => true
  | .portStart _ _ => true
  | .portStop _ _ => true
  | .portStopComplete _ => true
  | .portFrame _ _ => true
  | .slotSampleArrival _ _ _ _ _ => true
  | .steerUpdate _ => true
  | .rateMeasure _ => true
  | .syncLost _ => true
  | .txmaskWrite _ _ => true
  | .rxmaskWrite _ _ => true
  | .trimClr _ _ => true
  | .sapCntClr _ => true
  | .itemStart _ => true
  | .preemptPlace _ => true
  | .agingTick => true
  | .regionWakeComplete _ => true
  | .plcCntClr _ => true
  | .linkTrainingComplete rate width => [2, 5, 8, 16, 32, 64, 128].contains rate && [1, 2, 4, 8, 16].contains width
  | .sqDoorbell _ _ _ => true
  | .cqDoorbell _ _ _ => true
  | .commandFetch => true
  | .nop _ _ desc => dOp desc == 0x00
  | .copy _ _ desc => dOp desc == 0x20
  | .cqInterruptTimer _ _ => true
  | .functionLevelReset _ => true
  | .hqCntClr _ => true
  | .mctpSetEndpointId eid => decide (8 ≤ eid.toNat) && decide (eid.toNat ≤ 254)
  | .mctpGetEndpointId => true
  | .mctpGetVersionSupport => true
  | .mctpGetMessageTypeSupport => true
  | .telemetryPartId => true
  | .telemetryTemperatures => true
  | .telemetryPower => true
  | .telemetryLinks => true
  | .telemetryErrorCounters => true
  | .telemetryEventsReadClear => true
  | .bar4Access _ write off len data =>
    (!write || data.length == len) && decide (0 < len) && decide (off + len ≤ 2 ^ 38)
  | .ergPortTrain _ _ => true
  | .ergHello _ _ _ => true
  | .ergProof _ proof => proof.length == 64
  | .flitReceive _ _ _ => true
  | .linkHello _ _ => true
  | .ergPortDown _ _ => true
  | .ergRetrainTimer _ => true
  | .ergRekey _ => true
  | .ergJoin _ => true
  | .lsaFlood => true
  | .lsaReceive _ lsa => decide (lsa.ident < 2 ^ 256) && decide (lsa.devId < 4096) && decide (lsa.links.length ≤ 16)
  | .memberStale ident => decide (ident < 2 ^ 256)
  | .idGrant _ => true
  | .ergRejoin _ => true
  | .ergUnrClr _ => true
  | .ergCntClr _ => true
  | .remoteRequest _ req =>
    decide (req.addr < 2 ^ 52) && decide (req.dst < 4096) && (!req.write || req.data.length == req.len)
  | .remoteResponse _ status _ => decide (status < 16)
  | .remoteRequestTimeout _ => true
  | .syncExchange _ _ _ _ _ => true
  | .fabricSnapshotTrigger _ _ => true
  | .slotFill => true
  | .slotRevoke => true
  | .slotClaim => true
  | .fuseProgramDone _ => true
  | .quote => true
  | .quoteDone => true
  | .secCntClr _ => true
  | .tallyMessage _ _ _ _ => true
  | .tallyResidueTimeout _ _ _ _ => true
  | .meterPeriodEnd => true
  | .meterPowerUp _ _ => true
  | .sealOpen _ => true
  | .sealClose _ => true
  | .mirrorCopy => true
  | .mmrCntClr _ => true
  | .inspectorIdentity => true
  | .inspectorStatus => true
  | .inspectorRecordBySeq seq => decide (seq < 2 ^ 64)
  | .inspectorLatestRecord => true
  | .inspectorOpenCounts => true
  | .inspectorBadFrame => true
  | .errorReport cls code _ skind suspect =>
    decide (cls < 16) && decide (code < 256) && decide (skind < 16) && decide (suspect < 2 ^ 60)
  | .regionWindowClose region => decide (region < 16)
  | .packageWindowClose => true
  | .errTailWrite _ => true
  | .errModIntervalEnd => true
  | .snapFire => true
  | .snapBcast => true
  | .snapRelease => true
  | .snapCancel => true
  | .snpCntClr => true
  | .snapInEdge _ => true
  | .snapshotLatch => true
  | .snapOutEnd => true
  | .powerEstimate _ => true
  | .avsCurrentRead _ => true
  | .avsAlert _ => true
  | .avsRetry _ => true
  | .thermalSample dies _ => dies.length == 4
  | .dieNightEnter _ => true
  | .dieWake _ => true
  | .dieWakeComplete _ => true
  | .pwrPeakClear _ => true
  | .oasCntClr _ => true
  | .powerOnReset _ _ => true
  | .hostReset _ => true
  | .warmReset _ => true
  | .dieReset _ => true
  | .jtagBypass => true
  | .jtagIdcode => true
  | .jtagSamplePreload cells => cells.Pairwise (fun a b => a.1 < b.1)
  | .jtagExtest cells => cells.Pairwise (fun a b => a.1 < b.1)
  | .jtagHighz => true
  | .jtagClamp => true
  | .jtagExtestPulse => true
  | .jtagExtestTrain => true
  | .pcieLinkDown => true
  | .atsInvalidation _ _ => true
  | .slewComplete => true

end Sys2Proof
end

