-- ==== Sys2Proof/Tests/Slice0.lean ====
section
/-!
SUPPORT. Tests of the model. `wf_…` refuse a command that is ill-formed; `wit_<statement>` shows states and operands
that meet the hypotheses of the statement of that name, clause by clause and at boundary values; `test_…` check one
command, or one function, against values worked out from the spec.
-/

namespace Sys2Proof.Tests

open Sys2Proof Sys2Proof.Machine

set_option Elab.async false

/-- The state a command leads to. -/
def ran (i : Instr) (s : State) : State := match exec i s with | .next t => t | _ => s
/-- The command leaves the state as it is. -/
def idle (i : Instr) (s : State) : Bool := decide (ran i s = s)
/-- The reset state with a few registers set. -/
def withRegs (l : List (Nat × Nat)) (s : State := State.reset) : State := l.foldl (fun t p => t.setN p.1 p.2) s
/-- A 512-bit word from fields given as first bit and value. -/
def word512 (l : List (Nat × Nat)) : BitVec 512 := BitVec.ofNat 512 (l.foldl (fun a p => a + p.2 * 2 ^ p.1) 0)
/-- A DRAM granule at an address with two symbols in error: uncorrectable (R166). -/
def badAt (a : Nat) : Condition := { symbols := [a, a + 2] }
/-! Well-formedness: each check refuses a term (Table 17-4, R4, R312, R376, R389, R394, R396, R405, R452, R480, R484). -/

theorem wf_register_access : (Instr.registerWrite .bar0 0x300004 1).wf = true ∧ (Instr.registerWrite .bar0 0x300006 1).wf = false ∧
    (Instr.registerWrite (.bar2 1) 0x10000 1).wf = false ∧ (Instr.lowWordRead .bar0 0x3FFFFFC).wf = true ∧
    (Instr.lowWordRead .bar0 0x4000000).wf = false := by decide +kernel
theorem wf_misaligned_access : (Instr.bar0MisalignedAccess true 8 4).wf = false ∧ (Instr.bar0MisalignedAccess true 6 4).wf = true ∧
    (Instr.bar0MisalignedAccess false 8 3).wf = true := by decide +kernel
theorem wf_descriptor_opcodes :
    ([.nop 0 0 1, .streamOpen 0 0 0, .streamFeed 0 0 0, .streamMark 0 0 0, .streamPause 0 0 0, .streamResume 0 0 0,
      .streamExport 0 0 0, .streamImport 0 0 0, .streamClose 0 0 0, .weightLoad 0 0 0, .kvAttach 0 0 0, .kvFork 0 0 0,
      .kvTruncate 0 0 0, .kvPin 0 0 0, .copy 0 0 0] : List Instr).all (fun i => !i.wf) = true := by decide +kernel
theorem wf_descriptors :
    ([.nop 0 0 0, .streamOpen 0 0 1, .streamFeed 0 0 2, .streamMark 0 0 3, .streamPause 0 0 4, .streamResume 0 0 5,
      .streamExport 0 0 6, .streamImport 0 0 7, .streamClose 0 0 8, .weightLoad 0 0 0x10, .kvAttach 0 0 0x18, .kvFork 0 0 0x19,
      .kvTruncate 0 0 0x1A, .kvPin 0 0 0x1B, .copy 0 0 0x20] : List Instr).all (fun i => i.wf) = true := by decide +kernel
theorem wf_list_lengths :
    ([.trainingComplete 0 [40, 40, 40], .thermalSample [40, 40, 40, 40, 40] 40, .ergProof 0 [], .rippleFrame 16384 [],
      .rippleFrame 0 [1], .bar4Access 0 true 0 2 [1]] : List Instr).all (fun i => !i.wf) = true ∧
    ([.trainingComplete 0 [40, 40, 40, 40], .thermalSample [40, 40, 40, 40] 40, .rippleFrame 0 [],
      .bar4Access 0 true 0 1 [1]] : List Instr).all (fun i => i.wf) = true := by decide +kernel
theorem wf_indices :
    ([.hostInputPoll 16384, .rplChSrcWrite 16384 0, .crestDecision 16388, .crestTimeout 16388, .channelRelease 16388,
      .rippleFrame 16388 [], .regionWindowClose 16, .patrolScrub 0 0xC00000000, .patrolScrub 0 8,
      .transferRequest 0 (2 ^ 52) {}, .bar4Access 0 false (2 ^ 38) 1 [], .bar4Access 0 false 0 0 []] : List Instr).all
      (fun i => !i.wf) = true ∧
    ([.hostInputPoll 16383, .crestDecision 16387, .regionWindowClose 15, .patrolScrub 0 0xBFFFFFFC0,
      .bar4Access 0 false (2 ^ 38 - 1) 1 []] : List Instr).all (fun i => i.wf) = true := by decide +kernel
theorem wf_numbers :
    ([.linkTrainingComplete 10 16, .linkTrainingComplete 32 3, .mctpSetEndpointId 7, .mctpSetEndpointId 255,
      .errorReport 16 0 0 0 0, .errorReport 0 256 0 0 0, .errorReport 0 0 0 16 0, .errorReport 0 0 0 0 (2 ^ 60),
      .remoteResponse 0 16 {}, .inspectorRecordBySeq (2 ^ 64), .memberStale (2 ^ 256)] : List Instr).all (fun i => !i.wf) = true ∧
    ([.linkTrainingComplete 128 16, .mctpSetEndpointId 8, .mctpSetEndpointId 254, .errorReport 15 255 0 15 (2 ^ 60 - 1),
      .remoteResponse 0 15 {}] : List Instr).all (fun i => i.wf) = true := by decide +kernel
theorem wf_messages :
    ([.lsaReceive 0 { ident := 2 ^ 256 }, .lsaReceive 0 { devId := 4096 }, .lsaReceive 0 { links := List.replicate 17 (0, 0, 0) },
      .remoteRequest 0 { addr := 2 ^ 52 }, .remoteRequest 0 { write := true, len := 1 }, .remoteRequest 0 { dst := 4096 },
      .jtagExtest [(1, true), (1, false)], .jtagSamplePreload [(2, true), (1, true)]] : List Instr).all (fun i => !i.wf) = true ∧
    ([.lsaReceive 0 {}, .remoteRequest 0 {}, .jtagExtest [(1, true), (2, false)]] : List Instr).all (fun i => i.wf) = true := by decide +kernel
theorem wf_samples : (Instr.rippleFrame 16387 (List.replicate 160 8388607)).wf = true ∧
    (Instr.rippleFrame 16387 (List.replicate 160 8388608)).wf = false := by decide +kernel

/-! The queue, reset and memory. -/

/-- The state an outcome holds. -/
def nextOf (o : Host.Outcome State Fault Refusal) : Option State := match o with | .next t => some t | _ => none
def sQueue : State := { State.reset with pending := [.tbLoad 0x100, .snapFire] }
def sHalt : State := { State.reset with pwr := { trip := true }, pending := [.tbLoad 0x100] }
/-- An uncorrectable granule of die 1's DRAM and a byte in the host window. -/
def sBad : State := { State.reset with cond := badAt (dramBase 1 + 128), mem := [(hostWindow + 5, 7)] }

theorem wit_StepRunsFrontCommand : sQueue.pending = .tbLoad 0x100 :: [.snapFire] ∧ State.reset.pending = [] ∧
    nextOf (step sQueue) = nextOf (exec (.tbLoad 0x100) { sQueue with pending := [.snapFire] }) ∧
    (nextOf (step State.reset)).map (fun t => t.tb) = some 1 := by decide +kernel
theorem wit_EveryStepKeepsInvariant : Memory.wf sBad.mem = true ∧ AMap.wf regReset (withRegs [(Reg.SPL_LEN, 5)]).regs = true ∧
    (withRegs [(Reg.SPL_LEN, 5)]).regs.length = 1 := by decide +kernel
theorem wit_HaltedPartStandsStill : sHalt.halted = true ∧ (sHalt.pending.head? = some (.tbLoad 0x100)) ∧
    (∀ b k rest, sHalt.pending ≠ .powerOnReset b k :: rest) ∧
    ∃ t, step sHalt = .next t ∧ t.reg Reg.TCK_CTRL = 0 :=
  ⟨by decide +kernel, by decide +kernel, by intro b k rest h; simp [sHalt] at h, _, rfl, by decide +kernel⟩
/-- A weak granule in die 1 and an SRAM word of cluster 5's store with two bits in error. -/
def sWeak : State := { State.reset with cond := { symbols := [dramBase 1 + 128], bits := [(clusterStore 5 + 8, 3), (clusterStore 5 + 8, 4)] } }
theorem wit_StoredData :
    (inOnePlace (dramBase 0 + 0xBFFFFFFC0) [1#8].length = true ∧ placeOf (dramBase 0 + 0xBFFFFFFC0) = .dram 0 ∧
      granulesOf (dramBase 0 + 0xBFFFFFFC0) 1 = [dramBase 0 + 0xBFFFFFFC0] ∧ State.reset.faulty (dramBase 0 + 0xBFFFFFFC0) = [] ∧
      State.reset.listed (dramBase 0 + 0xBFFFFFFC0) = false ∧ (granWords (dramBase 0 + 0xBFFFFFFC0)).all (fun w => State.reset.badBits w == []) = true ∧
      State.reset.cond.hostFail = []) ∧
    ((dramBase 1 + 128) % 64 = 0 ∧ placeOf (dramBase 1 + 128) = .dram 1 ∧ sWeak.granWeak (dramBase 1 + 128) = true ∧
      (sWeak.readData 0 (dramBase 1 + 128) 64).zeroed = 0 ∧ (sWeak.readData 0 (dramBase 1 + 128) 64).st.faulty (dramBase 1 + 128) = []) ∧
    (sBad.granBad (dramBase 1 + 128) = true ∧ (sBad.readData 0 (dramBase 1 + 128) 64).zeroed = 1 ∧ sBad.noRecords) ∧
    (clusterStore 5 % 64 = 0 ∧ placeOf (clusterStore 5) = .cluster 5 ∧ sWeak.badWords (clusterStore 5) = [clusterStore 5 + 8] ∧
      (sWeak.readData 0 (clusterStore 5) 64).st.rn (Reg.DMEM_SRAM_UE 0) = 1) ∧
    (inOnePlace (dramBase 3 + 0xC00000000) 1 = false ∧ placeOf 0x20000000000 = .regs) ∧
    (Memory.wf sBad.mem = true ∧ (sBad.writeData 0 (hostWindow + 5) [0]).mem = []) :=
  ⟨by decide +kernel, by decide +kernel, ⟨by decide +kernel, by decide +kernel, fun e he => by cases he⟩, by decide +kernel,
    by decide +kernel, by decide +kernel⟩
/-- Two symbols in error cannot be corrected; one bit of a word can (R166). -/
theorem test_codes : sBad.granWeak (dramBase 1 + 128) = false ∧ ({ State.reset with cond := { bits := [(clusterStore 5, 63)] } } : State).wordWeak (clusterStore 5) = true := by
  decide +kernel

/-! Registers and time. -/

/-- A link that trained below 8 GT/s. -/
def sSlow : State := withRegs [(Reg.HQ_LINK, 0x100)]
/-- The high word of TCK_TB latched by a read of the low word. -/
def sLatched : State := ran (.lowWordRead .bar0 Reg.TCK_TB_LO) { State.reset with tb := 0x500000007 }
/-- An armed epoch, and SRC 1 with rising edges. -/
def sArmed : State := withRegs [(Reg.TCK_CTRL, 0x001), (Reg.TCK_STATUS, 0x4000), (Reg.TCK_PPS_EPOCH_LO, 1000)]
  { State.reset with tb := 1025 }
def sHeld : State := withRegs [(Reg.TCK_CTRL, 0x001), (Reg.TCK_STATUS, 0x8)]
def onePlane (x : Plane) : Tck := { planes := [(2, some x)] }
/-- Plane 2 at 30,000 grains per second and 300 per frame. -/
def sPlane : State := { State.reset with tck := onePlane { f := 30000, g := 300 } }
def sSlewing : State := withRegs [(Reg.TCK_STATUS, 0x10)] { State.reset with tck := { slew := 40 } }

theorem wit_RegisterWriteActsByAccess : State.reset.halted = false ∧
    (sSlow.slowLink = true ∧ ran (.registerWrite .bar0 Reg.SPL_LEN 8) sSlow = { sSlow with resp := { bytes := [], abort := true } }) ∧
    (State.reset.slowLink = false ∧ Space.bar0.word 0x3FFFFFE = false) ∧
    ((bar0Row Reg.SPL_LEN).map (fun r => r.acc) = some .rw ∧ 0x300000 ≤ Reg.SPL_LEN ∧ Reg.SPL_LEN % 4 = 0 ∧
      (ran (.registerWrite .bar0 Reg.SPL_LEN 0xFFFFFFFF) State.reset).reg Reg.SPL_LEN = 0x1FFFFFFF) ∧
    ((bar0Row Reg.SPL_INT_STATUS).map (fun r => r.acc) = some .w1c ∧
      (ran (.registerWrite .bar0 Reg.SPL_INT_STATUS 2) (withRegs [(Reg.SPL_INT_STATUS, 3)])).reg Reg.SPL_INT_STATUS = 1) ∧
    ((bar0Row Reg.PLC_ADMIT).map (fun r => r.acc) = some .ro ∧ bar0Row 0x17FFFC = none ∧
      (ran (.registerWrite .bar0 Reg.PLC_ADMIT 9) State.reset).reg Reg.PLC_ADMIT = 0) := by decide +kernel
theorem wit_RegisterWriteRunsItsCommand : State.reset.halted = false ∧ State.reset.slowLink = false ∧
    ran (.registerWrite .bar0 Reg.TCK_CTRL 0x101) State.reset = (ran (.tbLoad 0x101) State.reset).answer [] := by decide +kernel
theorem wit_MisalignedAccess : State.reset.slowLink = false ∧ ¬(4 = 4 ∧ 2 % 4 = 0) ∧ ¬(8 = 4 ∧ 0 % 4 = 0) ∧
    (ran (.bar0MisalignedAccess false 2 4) State.reset).resp.bytes = [0, 0, 0, 0] ∧
    (ran (.bar0MisalignedAccess true 0 8) State.reset).resp.bytes = [] := by decide +kernel
theorem wit_PairReadIsAtomic : Space.bar0.word Reg.TCK_TB_LO = true ∧ isLow (Space.bar0.key Reg.TCK_TB_LO) = true ∧
    sLatched.resp.bytes = [7, 0, 0, 0] ∧ sLatched.shadowOf (Space.bar0.key Reg.TCK_TB_LO + 4) = some 5 ∧
    isLow (Space.bar0.key (Reg.TCK_TB_LO + 4)) = false ∧ State.reset.shadowOf (Space.bar0.key (Reg.TCK_TB_LO + 4)) = none ∧
    (ran (.lowWordRead .bar0 (Reg.TCK_TB_LO + 4)) { sLatched with tb := 0x900000000 }).resp.bytes = [5, 0, 0, 0] := by decide +kernel
theorem wit_PpsEdgeAndEpoch :
    (State.reset.rbit Reg.TCK_CTRL 8 = false ∧ idle (.ppsEdge false) State.reset = true) ∧
    (State.reset.tckSrc ≠ 1 ∧ (withRegs [(Reg.TCK_CTRL, 1)]).tckSrc = 1 ∧
      (withRegs [(Reg.TCK_CTRL, 1)]).rbit Reg.TCK_STATUS 14 = false ∧ State.reset.tck.expected = none) ∧
    (sArmed.tckSrc = 1 ∧ sArmed.rbit Reg.TCK_STATUS 14 = true) ∧
    ({ sArmed with tck := { expected := some 1000 } } : State).tck.expected = some 1000 ∧
    (ran (.ppsEpochWrite false 77) State.reset).rbit Reg.TCK_STATUS 14 = true := by decide +kernel
theorem wit_Offsets :
    (State.reset.rbit Reg.TCK_STATUS 3 = false ∧ State.reset.rbit Reg.TCK_STATUS 4 = false) ∧
    (sHeld.rbit Reg.TCK_STATUS 3 = true ∧ sHeld.anyPlane = false) ∧
    (({ sHeld with tck := onePlane {} } : State).anyPlane = true) ∧
    (sSlewing.rbit Reg.TCK_STATUS 4 = true ∧ (ran .slewComplete sSlewing).tck.slew = 0) ∧
    (sArmed.tckSrc = 1 ∧ (withRegs [(Reg.TCK_CTRL, 2)]).tckSrc = 2 ∧
      (ran (.holdoverEnter .fabric) (withRegs [(Reg.TCK_CTRL, 2)])).rbit Reg.TCK_STATUS 3 = true) ∧
    (State.reset.tckSrc = 0) := by decide +kernel
theorem wit_TimebaseLoads : (bitAt (0x10 : Word).toNat 4 = true ∧ State.reset.anyPlane = false ∧
      (ran (.tbLoad 0x10) (withRegs [(Reg.TCK_TB_SET_LO, 9)])).tb = 9) ∧
    (sPlane.anyPlane = true ∧ (ran (.tbLoad 0x10) sPlane).rbit Reg.TCK_INT_STATUS 5 = true) ∧
    bitAt (0x01 : Word).toNat 4 = false := by decide +kernel
/-- At 30,000 grains per second tick 1 falls at 33,333 ns and leaves 10,000 (R33). -/
theorem wit_GrainTick : (sPlane.plane 0 = none ∧ sPlane.plane 2 = some { f := 30000, g := 300 }) ∧
    (0 = 0 * 1000000000 / 30000 ∧ 0 % 300 = 0 ∧ sPlane.streams = []) ∧
    ((ran (.grainTick 2) sPlane).plane 2).map (fun p => (p.n, p.next, p.acc, p.run)) = some (1, 33333, 10000, true) ∧
    (∀ x ∈ ((ran (.grainTick 2) sPlane).plane 2), x.n % x.g ≠ 0 ∧ x.next = x.n * 1000000000 / x.f ∧ x.acc = x.n * 1000000000 % x.f) := by
  decide +kernel
theorem wit_TickDelivery : sPlane.plane 0 = none ∧ (sPlane.plane 2).isSome = true ∧ sPlane.streams = [] ∧
    (∀ n ∈ coresOf 95, (sPlane.core n).wait = none) ∧
    (ran (.tickDelivery 95 2 true 7) sPlane).rn (Reg.TBG_PEAK 95 5) = 7 := by decide +kernel

/-- A miss ring with HEAD 5 and 256 records, an interval with a record due, and open error records. -/
def sRing : State := withRegs [(Reg.TCK_MISS_HEAD, 5), (Reg.TCK_MISS_SIZE, 8), (Reg.ERR_HEAD, 3)]
  { State.reset with mods := [(0, { running := true, due := true }), (2, { running := true, due := true }),
    (4, { running := true, since := 3, span := 4 })] }

theorem wit_RingTailsAndIntervals :
    ((sRing.reg (ringRegs .miss).head - 5).toNat ≤ 2 ^ sRing.ringLog .miss ∧
      (sRing.reg (ringRegs .miss).head - 0xFFFFFF05).toNat ≤ 2 ^ sRing.ringLog .miss) ∧
    (2 ^ sRing.ringLog .miss < (sRing.reg (ringRegs .miss).head - 6).toNat ∧
      2 ^ sRing.ringLog .miss < (sRing.reg (ringRegs .miss).head - 0xFFFFFF04).toNat) ∧
    (sRing.mod (ringRegs .miss).key = { running := true, due := true } ∧ State.reset.mod (ringRegs .cascade).key = {} ∧
      sRing.mod (ringRegs (.qev 0)).key = { running := true, since := 3, span := 4 } ∧ (ran (.eventModIntervalEnd (.qev 0)) sRing).tb = 7) ∧
    ((3 - sRing.reg Reg.ERR_TAIL).toNat ≤ sRing.errOpen ∧ sRing.errOpen < (4 - sRing.reg Reg.ERR_TAIL).toNat) ∧
    (sRing.mod 2 = { running := true, due := true } ∧ State.reset.mod 2 = {} ∧
      (ran .errModIntervalEnd sRing).rbit Reg.ERR_INT_STATUS 0 = true) := by decide +kernel

/-! Steps and structures. -/

/-- A graph bound to plane 2's grains. -/
def gTick : Graph := { id := 3, plane := 2, ticked := true, costs := [{ bound := 8, cycles := 5 }] }
/-- Two streams of it on cluster 0, each with a row queued; plane 2 runs and its tick 1 has reached the cluster. -/
def sSteps : State := withRegs [(Reg.PLC_AWAKE, 1)] { State.reset with
  tck := { planes := [(2, some { f := 30000, g := 300, n := 2, next := 66666, acc := 20000, run := true, given := [(0, 1)] })] }
  structure_ := { graphs := [gTick] }
  streams := [(1, { st := .active, graph := 3, cluster := some 0, order := 0, nextTick := 1, atCurrent := false,
                    queue := [{ pos := 1, bytes := 1 }] }),
              (2, { st := .active, graph := 3, cluster := some 0, order := 1, nextTick := 1, atCurrent := false,
                    queue := [{ pos := 1, bytes := 1 }] })] }
/-- A stream whose only step has run. -/
def sStepDone : State := { State.reset with
  structure_ := { graphs := [{ id := 3 }] }
  streams := [(1, { st := .active, graph := 3, step := some { wait := .done } })] }

theorem wit_TickBoundStepsStart : sSteps.graphOf 3 = some gTick ∧ gTick.ticked = true ∧ (sSteps.strm 1).atCurrent = false ∧
    (sSteps.mayStep 1 = true ∧ sSteps.tickHere 1 = true ∧ sSteps.stepReady 1 = true ∧
      sSteps.streams.any (fun e => sSteps.goesFirst 1 e.1) = false ∧
      sSteps.tickCount 2 false - (sSteps.strm 1).nextTick ≤ ((sSteps.plane 2).map (fun p => p.late)).getD 4) ∧
    (sSteps.stepReady 2 = true ∧ sSteps.streams.any (fun e => sSteps.goesFirst 2 e.1) = true) ∧
    (State.reset.mayStep 1 = false ∧ State.reset.tickHere 1 = false) ∧
    ((ran (.stepStart 1) sSteps).strm 1).steps = 1 ∧ idle (.stepStart 2) sSteps = true := by decide +kernel
theorem wit_StepsComplete :
    ((sStepDone.strm 1).step = some { wait := .done } ∧ (State.reset.strm 1).step = none ∧ StepWait.run ≠ .done) ∧
    (stepStatus [1, 6] = 6 ∧ stepStatus [7, 2, 1] = 1 ∧ stepStatus [7, 2] = 2 ∧ stepStatus [7] = 7 ∧ stepStatus [] = 0) ∧
    (sStepDone.streams = [((1 : Word).toNat, { st := .active, graph := 3, step := some { wait := .done } })] ∧ sStepDone.place = {} ∧
      sStepDone.load = none ∧ sStepDone.work = [] ∧ sStepDone.host.strm = [] ∧ sStepDone.graphOf 3 = some { id := 3 } ∧
      ({ id := 3 } : Graph).kv = none ∧ ({ id := 3 } : Graph).points = [] ∧ 1 ≤ ({ id := 3 } : Graph).input.posStep ∧
      stepStatus ({} : StepRun).status ≠ 6) ∧
    ((ran (.stepComplete 1 0) sStepDone).strm 1).step = none := by decide +kernel

/-- The header of a full image of 320 bytes with one section, SERIAL 9 (Table 03-1). -/
def imgHead : List Byte := ascii "SANDPLAN" ++ leBytes 4 0x10000 ++ leBytes 4 0 ++ leBytes 4 320 ++ leBytes 4 1 ++ leBytes 8 9 ++
  leBytes 4 0x48582448 ++ leBytes 4 0xA1 ++ List.replicate 88 0
/-- The image up to its signature block: an empty structure section. -/
def imgBody : List Byte := imgHead ++ leBytes 4 1 ++ List.replicate 60 0
def key0 : List Byte := leBytes 32 18930617471878267742194159801949745215346600387277955685031939302387136031291
/-- Slot 1, the key of the seed of 32 zero bytes, and its Ed25519 signature of the body's SHA-512. -/
def imgFull : List Byte := imgBody ++ leBytes 4 1 ++ List.replicate 28 0 ++ key0 ++ leBytes 64
  122704872398361803561332885235022482800314393284678469429888859691912707280170883306123963933389641625128617705185950242169508560924682484793808662498999
/-- Memory that holds bytes at an address. -/
def holding (a : Nat) (l : List Byte) : State :=
  { State.reset with mem := ((List.range l.length).map (fun i => (a + i, l.getD i 0))).filter (fun p => p.2 != 0) }
/-- The host page at 0 holds the image, and the loader is EMPTY. -/
def sHostImage : State := withRegs [(Reg.SPL_STATUS, 0x100), (Reg.SPL_LEN, 320)] (holding hostWindow imgFull)
def sBadPage : State := { sHostImage with cond := { hostFail := [0] } }
def copying (l : Load) : State := withRegs [(Reg.SPL_STATUS, 0x200)]
  { holding stagingBase imgFull with
    load := some l
    sec := { slots := [(1, [{ key := key0, complete := true }])] } }
def lDev : Load := { src := stagingBase, dev := true, len := 320, serial := 9 }
def lHost : Load := { src := 0, len := 320 }
/-- A pool image's drain of pool 0. -/
def sDrain (d : Bool) : State := withRegs [(Reg.SPL_STATUS, 0x400)] { State.reset with load := some { pool := true, mask := 1, drained := d } }

theorem wit_LoadsStartAndAbort : bitAt (1 : Word).toNat 2 = false ∧ bitAt (1 : Word).toNat 0 = true ∧ bitAt (1 : Word).toNat 3 = false ∧
    (State.reset.splState = 0 ∧ (copying lDev).load.isSome = true ∧ (ran (.splGo 1) State.reset).rbit Reg.SPL_INT_STATUS 1 = true) ∧
    (sHostImage.load = none ∧ sHostImage.splState ≠ 0 ∧ inOnePlace (hostWindow + sHostImage.pair Reg.SPL_SRC_LO) 128 = true ∧
      sHostImage.hostOk (hostWindow + sHostImage.pair Reg.SPL_SRC_LO) 128 = true ∧
      headerReason (sHostImage.bytes (hostWindow + sHostImage.pair Reg.SPL_SRC_LO) 128) (sHostImage.fld Reg.SPL_LEN 0 29) = 0) ∧
    (headerReason ((withRegs [(Reg.SPL_LEN, 319)] sHostImage).bytes hostWindow 128) 319 = 1) ∧
    (sBadPage.hostOk hostWindow 128 = false ∧ (ran (.splGo 1) sBadPage).fld Reg.SPL_STATUS 16 8 = 14) ∧
    (bitAt (8 : Word).toNat 0 = false ∧ bitAt (8 : Word).toNat 3 = true ∧ (sDrain false).load.isSome = true ∧
      (sDrain false).splState = 4 ∧ ({} : Load).before < 8) := by decide +kernel
theorem wit_ImagesApply : (State.reset.load = none ∧ (copying lDev).splState = 2) ∧
    (lHost.dev = false ∧ 0 < lHost.len ∧ inOnePlace (hostWindow + lHost.src) lHost.len = true ∧
      ({ copying lHost with cond := { hostFail := [0] } } : State).hostOk (hostWindow + lHost.src) lHost.len = false) ∧
    (lDev.addr = stagingBase ∧ (State.reset.readImage lDev 320).1 = 0 ∧ (State.reset.readImage lDev 320).2.2.load = State.reset.load ∧
      sectionsOk (State.reset.readImage lDev 320).2.1 = false) := by decide +kernel
/-- The signed image passes every check: the hypotheses of the last clause, one by one. -/
theorem wit_ImagesApply_full :
    ((copying lDev).readImage lDev 320).1 = 0 ∧ ((copying lDev).readImage lDev 320).2.1 = imgFull ∧ sectionsOk imgFull = true ∧
    ((copying lDev).signatureReason imgFull (sha512 imgBody)).1 = 0 ∧ imgFull.take (320 - 128) = imgBody ∧
    ((copying lDev).vetFull { structureSec := some {} } imgFull).isSome = true ∧ (copying lDev).anyOpen = false := by decide +kernel
theorem wit_PoolImages : ((sDrain true).load.isSome = true ∧ (sDrain true).splState = 4) ∧ (copying lDev).splState ≠ 4 ∧
    ((sDrain false).plane ((sDrain false).fld Reg.SPL_SWITCH_PLANE 0 2) = none ∧ (sDrain false).drainLimit = 500 ∧
      (ran .drainTimeout { sDrain false with tb := 5000000000 }).fld Reg.SPL_STATUS 16 8 = 12 ∧
      idle .drainTimeout { sDrain false with tb := 4999999999 } = true) := by decide +kernel

/-- A weight of 64 zero bytes that a graph of pool 0, on cluster 0, names. -/
def wZero : Weight := { ref := { id := 7, size := 64, digest := sha512 (List.replicate 64 0) } }
def sWeight : State := withRegs [(Reg.DMEM_CH_OK 0, 0xFFFFFFFF)] { State.reset with
  structure_ := { pools := [{ kind := 0, mask := 1, shares := List.replicate 8 0 }],
                  graphs := [{ id := 1, nodes := [{ node := .kernel {}, ops := [.weight 7 .dram] }] }] }
  weights := [wZero] }
def dWeight (src : Nat) : BitVec 512 := word512 [(0, 0x10), (64, 7), (128, src)]

theorem wit_TrainingAndWeights : (State.reset.splState = 0 ∧ sHostImage.splState ≠ 0) ∧
    (dOp (dWeight 0x4000000) = 0x10 ∧ sWeight.mayStart 0 0 (dWeight 0x4000000) = true ∧ descOk (sWeight.fmt1 0 0) (dWeight 0x4000000) = true) ∧
    (sWeight.weight 8 = none ∧ sWeight.weight (db (dWeight 0x4000000) 8 4) = some wZero) ∧
    ((sWeight.startCmd 0 0 (dWeight (dramBase 0 + 0xC00000000))).readData sWeight.oasisReader (dramBase 0 + 0xC00000000) 64).failed = true := by
  decide +kernel
theorem wit_TrainingAndWeights_digest : ∀ r, r = (sWeight.startCmd 0 0 (dWeight 0x4000000)).readData sWeight.oasisReader 0x4000000 64 →
    r.failed = false ∧ sha512 r.bytes = wZero.ref.digest ∧ r.st.weightDies 7 = [0] ∧
    sha512 (1#8 :: List.replicate 63 0) ≠ wZero.ref.digest := by rintro r rfl; decide +kernel

/-! Engines and cores. -/

/-- Cluster 5 holds a saved vector operation of stream 1, whose step has yielded, and one of stream 2, which is paused. -/
def sSaved : State := { State.reset with
  work := [(5, { saved := [{ id := 6, unit := 2, handle := 1 }, { id := 10, unit := 2, handle := 2 }, { id := 14, unit := 2, handle := 3 }] })]
  streams := [(1, { st := .active, step := some { yielded := true } }), (2, { st := .paused }), (3, { st := .active })]
  place := { items := [{ handle := 3, cluster := 5 }] } }
def sBusy : State := { State.reset with
  work := [(5, { running := [(2, some {})], saved := [{ id := 6, unit := 2, handle := 1 }] })]
  streams := [(1, { st := .active })] }

theorem wit_CounterClears : (bitAt (0 : Word).toNat 0 = false ∧ bitAt (1 : Word).toNat 0 = true ∧ bitAt (2 : Word).toNat 1 = true) ∧
    (ran (.vecCntClr 95 1) (withRegs ((vecCounters 95).map (fun a => (a, 3))))).regs = [] ∧
    (ran (.hqCntClr 1) (withRegs [(Reg.HQ_FNf_CMDS 63, 3)])).regs = [] ∧
    idle (.strmCntClr 2) (withRegs [(Reg.STRM_OPENS, 3)]) = true := by decide +kernel
theorem wit_SavedOperationsResume :
    ((State.reset.wk 5).saved.all (fun o => o.id != 6) = true) ∧
    ((sSaved.wk 5).saved.find? (fun o => o.id == 10) = some { id := 10, unit := 2, handle := 2 } ∧ (sSaved.strm 2).st = .paused) ∧
    ((sSaved.wk 5).saved.find? (fun o => o.id == 14) = some { id := 14, unit := 2, handle := 3 } ∧
      sSaved.place.items.any (fun i => i.handle == 3 && !i.running) = true) ∧
    ((sBusy.wk 5).saved.find? (fun o => o.id == 6) = some { id := 6, unit := 2, handle := 1 } ∧ sBusy.swappedEntries 1 = [] ∧
      ({ id := 6, unit := 2, handle := 1 } : SavedOp).takes 2 = true ∧ (AMap.read (fun _ => none) (sBusy.wk 5).running 2).isSome = true) ∧
    ((sSaved.wk 5).saved.find? (fun o => o.id == 6) = some { id := 6, unit := 2, handle := 1 } ∧ (sSaved.strm 1).st ≠ .paused ∧
      (sSaved.strm 1).kv.st ≠ .swapOut ∧ sSaved.swappedEntries 1 = [] ∧
      sSaved.place.items.any (fun i => i.handle == 1 && !i.running) = false ∧
      AMap.read (fun _ => none) (sSaved.wk 5).running 2 = none ∧
      ((ran (.engineResume 5 2 6) sSaved).strm 1).step = some {}) := by decide +kernel
theorem wit_WatchSlots : ((withRegs [(Reg.DRF_STATUS 0, 0)]).gated 0 = false ∧ (withRegs [(Reg.DRF_STATUS 0, 4)]).gated 0 = true) ∧
    ((0 : Fin 96).val ∉ State.reset.drfTests ∧ (95 : Fin 96).val ∈ ({ State.reset with drfTests := [95] } : State).drfTests) ∧
    ((withRegs [(Reg.CRN_STATUS 103, 8)]).crnHeld 103 3 = true ∧ State.reset.crnHeld 103 3 = false) ∧
    (bitAt (8 : Word).toNat 3 = true ∧ bitAt (8 : Word).toNat 0 = false ∧
      (ran (.crnRestart 103 8) (withRegs [(Reg.CRN_INITs_LO 103 3, 5)])).rn (Reg.CRN_VALUEs_LO 103 3) = 5) ∧
    (ran (.drfTestDone 95) (withRegs [(Reg.DRF_STATUS 95, 1)] { State.reset with drfTests := [95] })).four (Reg.DRF_TOUTi 95) = mix ⟨0, 0, 0, 0⟩ ⟨0, 0, 0, 0⟩ := by
  decide +kernel

/-- Core 4, of cluster 1, runs kernel text that holds one instruction word, for stream 1. Its x5 is 3, x6 is 7, x7 is 0x100. -/
def coreInv : Invocation := { graph := 3, kernel := 1, handle := 1, textLen := 4, barCount := 2, qCount := 2, seed := 9 }
def core0 (w : Nat) : Core := {
  inv := some coreInv
  x := [(5, 3), (6, 7), (7, 0x100), (10, 9)]
  mem := ((List.range 4).map (fun i => (i, BitVec.ofNat 8 (w / 256 ^ i)))).filter (fun p => p.2 != 0) }
/-- Stream 1's step waits for two cores of its kernel node. -/
def sCore (w : Nat) : State := { State.reset with
  cores := [(4, core0 w)]
  structure_ := { graphs := [{ id := 3 }] }
  streams := [(1, { st := .active, graph := 3, step := some { wait := .kernel, sent := true, jobs := 2 } })] }
/-- The register that core 4's instruction word leaves. -/
def result (w rd : Nat) : Dword := ((ran (.nmdRv64Instruction 4) (sCore w)).core 4).xr rd

/-- Words written out from the RISC-V encodings: add, sub, mul, addi -2048, beq -4096, ld and sd at 0x100. -/
theorem wit_NomadIntegerInstructions :
    (((sCore 0x006280B3).hartAt 4 .rv).map (fun p => p.2) = some 0x006280B3 ∧ (sCore 0x006280B3).halted = false ∧
      (sCore 0x006280B3).watchdog 4 = false) ∧
    (0x006280B3 = encR 0x33 0 0 1 5 6 ∧ result 0x006280B3 1 = 10) ∧
    (0x405300B3 = encR 0x33 0 0x20 1 6 5 ∧ result 0x405300B3 1 = 4) ∧
    (0x026280B3 = encR 0x33 0 1 1 5 6 ∧ result 0x026280B3 1 = 21) ∧
    (0x80030093 = encI 0x13 0 1 6 (0x800 : BitVec 12).toNat ∧ result 0x80030093 1 = 0xFFFFFFFFFFFFF807#64) ∧
    (0x80628063 = encB 0 5 6 (0x1000 : BitVec 13).toNat ∧ (0x1000 : BitVec 13).toNat % 2 = 0) ∧
    (0x0003B083 = encI 0x03 3 1 7 0 ∧ (((sCore 0x0003B083).core 4).xr 7).toNat = 0x100 ∧ 0x100 % 8 = 0 ∧
      ((sCore 0x0003B083).hart 4).inv.textLen ≤ 0x100 ∧ localGran 4 0x100 ∉ (sCore 0x0003B083).cond.locals) ∧
    (0x0063B023 = encS 0x23 3 7 6 0 ∧ ((ran (.nmdRv64Instruction 4) (sCore 0x0063B023)).core 4).bytes 0x100 8 = [7, 0, 0, 0, 0, 0, 0, 0]) ∧
    (State.reset.core 4).inv = none := by decide +kernel
/-- A compressed instruction: c.addi x5, 1 stands for addi x5, x5, 1. -/
theorem wit_NomadIntegerInstructions_compressed : ((sCore 0x0285).hart 4).fetch = (0x0285, 2, none) ∧
    expandC 0x0285 = some (encI 0x13 0 5 5 1) ∧ ((ran (.nmdRv64Instruction 4) (sCore 0x0285)).core 4).pc = 2 := by decide +kernel

/-- An instruction word of funct7, rs2, rs1, funct3, rd and opcode. -/
def rType (f7 rs2 rs1 f3 rd op : Nat) : Nat := f7 * 2 ^ 25 + rs2 * 2 ^ 20 + rs1 * 2 ^ 15 + f3 * 2 ^ 12 + rd * 2 ^ 7 + op
/-- Core 4 with other registers, invocation, cluster objects and plane 3. -/
def sCore2 (w : Nat) (x : AMap Dword) (v : Invocation) (o : ClusterObj) (p : Option Plane) : State := { sCore w with
  cores := [(4, { core0 w with
    x := x
    inv := some v })]
  objs := [(1, o)]
  tck := { planes := [(3, p)] } }
def at4 (s : State) (k : NmdKind) (w : Nat) : Bool := decide (s.halted = false ∧ s.watchdog 4 = false ∧ (s.hartAt 4 k).map (fun p => p.2) = some w)
def ticking (n : Nat) : Option Plane := some { f := 8000, g := 20, n := n, run := true, given := [(2, n - 1)] }
/-- In a state with one stream, a step in progress is that stream's. -/
theorem only_stream {s : State} {h : Nat} {x : Stream} (e : s.streams = [(h, x)]) {k : Nat} {r : StepRun}
    (hk : (s.strm k).step = some r) : k = h ∧ x.step = some r := by
  simp only [State.strm, e, AMap.read] at hk
  split at hk
  · exact ⟨by omega, hk⟩
  · cases hk

/-- TWAIT x1, x5, x6 on plane 3, with a count reached, not reached, and rs2 0. -/
theorem wit_Nomad_twait : at4 (sCore2 (rType 0 6 5 0 1 0x0B) (core0 0).x coreInv {} (ticking 8)) .twait (rType 0 6 5 0 1 0x0B) = true ∧
    rs1Of (rType 0 6 5 0 1 0x0B) = 5 ∧ rs2Of (rType 0 6 5 0 1 0x0B) = 6 ∧ rdOf (rType 0 6 5 0 1 0x0B) = 1 ∧
    (((sCore2 0 (core0 0).x coreInv {} (ticking 8)).plane 3).isSome = true ∧
      7 ≤ (sCore2 0 (core0 0).x coreInv {} (ticking 8)).delivered 1 3 false) ∧
    (sCore2 0 (core0 0).x coreInv {} (ticking 7)).delivered 1 3 false < 7 ∧
    (((sCore2 0 (core0 0).x coreInv {} (ticking 8)).core 4).xr 0).toNat = 0 ∧
    ((ran (.nmdTwait 4) (sCore2 (rType 0 6 5 0 1 0x0B) (core0 0).x coreInv {} (ticking 8))).core 4).xr 1 = 7 ∧
    (sCore2 0 (core0 0).x coreInv {} none).plane 3 = none := by decide +kernel
/-- BAR x1, x0, x6 arrives only; BAR x1, x0, x0 waits, or is the last of one. -/
theorem wit_Nomad_bar : at4 (sCore2 (rType 0 6 0 1 1 0x0B) (core0 0).x coreInv {} none) .bar (rType 0 6 0 1 1 0x0B) = true ∧
    (∀ k ∈ coresOf (4 / 4), k ≠ 4 → ((sCore 0).core k).wait = none) ∧ 0 < coreInv.barCount ∧ bitAt (7 : Dword).toNat 0 = true ∧
    ((sCore 0).bar 1 0).count + 1 ≠ ((sCore 0).bar 1 0).expect ∧
    (((sCore2 0 [] coreInv { bars := [(0, { expect := 1 })] } none).bar 1 0).count + 1 =
      ((sCore2 0 [] coreInv { bars := [(0, { expect := 1 })] } none).bar 1 0).expect) ∧
    coreInv.barCount ≤ ((core0 0).xr 5).toNat := by decide +kernel
/-- QPUSH of x6 and QPOP on queue 0: bound to the engine, with room, full, with an entry and empty. -/
theorem wit_Nomad_queues : at4 (sCore (rType 0 6 0 2 1 0x0B)) .qpush (rType 0 6 0 2 1 0x0B) = true ∧
    at4 (sCore (rType 0 0 0 3 1 0x0B)) .qpop (rType 0 0 0 3 1 0x0B) = true ∧ 0 < coreInv.qCount ∧
    ({ coreInv with carQ := some 0 } : Invocation).carQ = some coreInv.qBase ∧ (sCore 0).sidOf 1 = some 1 ∧
    (core0 0).xr 6 ≠ 0xFFFFFFFFFFFFFFFF#64 ∧ coreInv.carQ ≠ some 0 ∧ ((sCore 0).queueOf 1 0).length < 64 ∧
    (∀ k ∈ coresOf 1, ((sCore 0).core k).wait = none) ∧
    64 ≤ ((sCore2 0 [] coreInv { queues := [(0, List.replicate 64 5)] } none).queueOf 1 0).length ∧
    bitAt (rType 1 6 0 2 1 0x0B) 25 = true ∧ bitAt (rType 0 6 0 2 1 0x0B) 25 = false ∧
    (sCore2 0 [] coreInv { queues := [(0, [5, 6])] } none).queueOf 1 0 = 5 :: [6] ∧ (sCore 0).queueOf 1 0 = [] ∧
    ((ran (.nmdQpop 4) (sCore2 (rType 0 0 0 3 1 0x0B) [] coreInv { queues := [(0, [5, 6])] } none)).core 4).xr 1 = 5 ∧
    coreInv.qCount ≤ ((core0 0).xr 5).toNat := by decide +kernel
theorem wit_Nomad_ecall : at4 (sCore2 0x73 [] coreInv {} none) .ecall 0x73 = true ∧
    ((sCore2 0x73 [] coreInv {} none).core 4).xr 10 = 0 ∧ ((sCore2 0x73 [(10, 7)] coreInv {} none).core 4).xr 10 = 7 ∧
    ((sCore2 0x73 [] coreInv {} none).strm 1).step = some { wait := .kernel, sent := true, jobs := 2 } ∧
    (∀ k x, ((sCore2 0x73 [] coreInv {} none).strm k).step = some x → x.wait ≠ .kernel ∨ x.sent = true) :=
  ⟨by decide +kernel, by decide +kernel, by decide +kernel, by decide +kernel, by
    intro k x hk
    obtain ⟨_, hx⟩ := only_stream rfl hk
    cases hx
    exact .inr rfl⟩

/-- DRAW x1, x5, x6: a core that has drawn nothing, and one that has drawn just this. -/
theorem wit_Nomad_draw : at4 (sCore (rType 0 6 5 4 1 0x0B)) .draw (rType 0 6 5 4 1 0x0B) = true ∧
    (core0 0).lastKey ≠ (driftKey coreInv.seed coreInv.drift).words ++ (driftCtr 3 coreInv.tensor coreInv.drawPos).words ∧
    at4 (sCore (rType 0 0 5 5 0 0x0B)) .mark (rType 0 0 5 5 0 0x0B) = true ∧
    ((ran (.nmdDraw 4) (sCore (rType 0 6 5 4 1 0x0B))).core 4).lastKey =
      (driftKey coreInv.seed coreInv.drift).words ++ (driftCtr 3 coreInv.tensor coreInv.drawPos).words := by decide +kernel
/-- RBEGIN with MAX, RFEED of f1 and f2 from index 3, RNODE of one block from block 7, REND; and what breaks the order. -/
theorem wit_Nomad_reduce : at4 (sCore (rType 0 0 5 0 0 0x2B)) .rbegin (rType 0 0 5 0 0 0x2B) = true ∧
    at4 (sCore (rType 0 2 5 1 1 0x2B)) .rfeed (rType 0 2 5 1 1 0x2B) = true ∧
    at4 (sCore (rType 0 2 6 2 0 0x2B)) .rnode (rType 0 2 6 2 0 0x2B) = true ∧
    at4 (sCore (rType 0 0 0 3 1 0x2B)) .rend (rType 0 0 0 3 1 0x2B) = true ∧
    (((core0 0).red.rfeed ((sCore 0).hart 4).redMode 3 [0] [0]).isSome = true) ∧
    (((core0 0).red.rnode ((sCore 0).hart 4).redMode 7 0 false 0).isSome = true) ∧
    (({ started := true, nextElem := 32 } : RedAcc).rfeed ((sCore 0).hart 4).redMode 3 [0] [0] = none ∧
      ({} : RedAcc).rnode ((sCore 0).hart 4).redMode 7 1 false 0 = none ∧ 7 % 2 ^ 1 ≠ 0) := by decide +kernel
/-- The step waits for its cores, which have faulted or been sent away; saved invocation 12 belongs to cluster 1. -/
def sNode (w : Nat) : State := { sCore w with savedCores := [(12, 1, core0 0)] }
def sFreeCore : State := { sNode 0 with cores := [] }
theorem wit_NomadFaults : ((sNode 0).core 4).inv = some coreInv ∧ (sNode 0).sidOf coreInv.handle = some 1 ∧
    ((sNode 0).strm 1).step = some { wait := .kernel, sent := true, jobs := 2 } ∧
    ((sNode 0).graphOf ((sNode 0).strm 1).graph).isSome = true ∧
    (∀ k x, k ≠ 1 → ((sNode 0).strm k).step = some x → x.wait ≠ .kernel ∨ x.sent = true) :=
  ⟨by decide +kernel, by decide +kernel, by decide +kernel, by decide +kernel,
    fun k x hn hk => absurd (only_stream (s := sNode 0) rfl hk).1 hn⟩
theorem wit_NomadFaults_words : (at4 (sNode 0x73) .ecall 0x73 = true ∧ ((sNode 0x73).core 4).xr 10 ≠ 0 ∧ ((sNode 0x73).core 4).xr 10 ≠ 7) ∧
    (at4 (sNode (rType 0 0 5 0 0 0x0B)) .twait (rType 0 0 5 0 0 0x0B) = true ∧ (sNode 0).plane 3 = none) ∧
    (at4 (sNode (rType 0 0 5 1 0 0x0B)) .bar (rType 0 0 5 1 0 0x0B) = true ∧ coreInv.barCount ≤ ((core0 0).xr 5).toNat) ∧
    (at4 (sNode (rType 0 6 5 2 0 0x0B)) .qpush (rType 0 6 5 2 0 0x0B) = true ∧ coreInv.qCount ≤ ((core0 0).xr 5).toNat) ∧
    at4 (sNode (rType 0 6 5 3 0 0x0B)) .qpop (rType 0 6 5 3 0 0x0B) = true ∧
    (at4 (sNode (rType 0 2 5 2 0 0x2B)) .rnode (rType 0 2 5 2 0 0x2B) = true ∧ (7 : Nat) % 2 ^ 1 ≠ 0) ∧
    at4 (sNode 0x00100073) .rv 0x00100073 = true ∧
    (at4 (sNode 0x0000600B) .rv 0x0000600B = true ∧ 0x0000600B % 128 = 0x0B) ∧ (at4 (sNode 0x0000402B) .rv 0x0000402B = true) ∧
    ((sNode 0).watchdog 4 = false ∧ ((sNode 0).core 4).wait = none) ∧
    ((ran (.nmdWatchdog 4) (sNode 0)).rn (Reg.NMD_FCAUSE 4) = 25) := by decide +kernel
theorem wit_NomadFaults_pc : ({ core0 0 with pc := 3 } : Core).pc.toNat % 2 = 1 ∧ ({ core0 0 with pc := 4 } : Core).pc.toNat % 2 = 0 ∧
    coreInv.textLen < ({ core0 0 with pc := 4 } : Core).pc.toNat + 2 ∧
    (sNode 0).savedCores.all (fun x => x.1 != 11 || x.2.1 != 4 / 4) = true ∧ ((sNode 0).core 4).inv.isSome = true := by decide +kernel
theorem wit_NomadResume : sFreeCore.savedCores = [(12, 4 / 4, core0 0)] ∧ (core0 0).inv = some coreInv ∧ (core0 0).wait = none ∧
    (sFreeCore.core 4).inv = none ∧ sFreeCore.sidOf coreInv.handle = some 1 ∧ (sFreeCore.strm 1).st ≠ .paused ∧
    sFreeCore.place.items.all (fun i => i.handle != 1 || i.running) = true ∧
    ((ran (.nmdResume 4 12) sFreeCore).core 4) = core0 0 := by decide +kernel

/-! Cisterns, bonded memory and Caravan engines. -/

/-- The first address of die 1's channel 1. -/
def ch33 : Nat := dramBase 1 + 0x4000
def fill : WorkItem := { op := 4, dst := ch33, length := 128, param := 0xA5, compl := ch33 + 0x1000 }
def copyIt : WorkItem := { op := 5, src := ch33 + 64, dst := ch33 + 128, length := 64, ticked := true }
def scanIt : WorkItem := { op := 2, src := ch33, dst := ch33 + 0x2000, length := 64, param := 16 * 256 }
/-- Engine 33 with a queue, memory of one byte, a stream that waits for items and one that attaches. -/
def sCis (q : List WorkItem) (r : Option CisRun) : State := withRegs [(Reg.CIS_STATUS 33, 0)] { State.reset with
  mem := [(ch33 + 64, 9)]
  cisterns := [(33, { queue := q, running := r })]
  streams := [(1, { st := .active, step := some { wait := .items, jobs := 2 } })] }

theorem wit_CisternItemsStart : popItem [fill, { fill with prio := 3 }, copyIt] = some (copyIt, [fill, { fill with prio := 3 }]) ∧
    (((sCis [] (some {})).cis 33).running.isSome = true ∧ (withRegs [(Reg.CIS_STATUS 33, 4)]).cisRuns 33 = false ∧
      ((sCis [] none).cis 33).queue = []) ∧
    (((sCis [fill] none).cis 33).running = none ∧ (sCis [fill] none).cisRuns 33 = true ∧ popItem [fill] = some (fill, [])) ∧
    (({ fill with length := 96 } : WorkItem).length % 64 ≠ 0 ∧ ({ fill with length := 96 } : WorkItem).refuse 33 = some 8) ∧
    (({ fill with dst := dramBase 0 + 0x3000000000 } : WorkItem).refuse 33 ≠ none) ∧
    (fill.refuse 33 = none ∧ copyIt.refuse 33 = none ∧ scanIt.refuse 33 = none ∧ (sCis [] none).badIn ch33 128 = []) ∧
    ((sCis [] none).itemStep { op := 0, handle := 1 } = some 1 ∧ (sCis [] none).sidOf 1 = some 1) := by decide +kernel
theorem wit_CisternItemsStart_effect : (ran (.cisternFill 33) (sCis [fill] none)).bytes (ch33 + 119) 3 = [0, 0xA5, 0] ∧
    (ran (.cisternCopy 33) (sCis [copyIt] none)).bytes (ch33 + 127) 3 = [0, 9, 0] := by decide +kernel
theorem wit_CisternSlices : (({} : Cistern).running = none) ∧ (copyIt.ticked = true) ∧ ([fill].all (fun i => !i.ticked) = true) ∧
    (fill.ticked = false ∧ popItem [copyIt, fill] = some (copyIt, [fill]) ∧ copyIt.ticked = true ∧
      ((ran (.cisternSliceEnd 33) (sCis [copyIt, fill] (some { item := fill }))).cis 33).running.map (fun r => r.item) = some copyIt) ∧
    (fill.compl % 16 = 0 ∧ inOnePlace fill.compl 16 = true ∧ placeOf fill.compl ≠ .regs ∧
      (sCis [] (some { item := fill })).badIn fill.compl 16 = [] ∧ fill.barEn = false ∧ (8 : Nat) = 8) ∧
    ((0 : Nat) < 96 ∧ ∀ k ∈ coresOf 0, ((sCis [] none).core k).wait = none) ∧
    ((sCis [] none).itemStep { op := 1, handle := 1 } = some 1 ∧
      ((sCis [] none).strm 1).step = some { wait := .items, jobs := 2 } ∧ 1 < 2) ∧
    (({ gaveWay := [{}], queue := [copyIt] } : Cistern).queue.any (fun i => i.ticked) = true ∧
      ({ gaveWay := [{}] } : Cistern).queue.any (fun i => i.ticked) = false) := by decide +kernel

/-- Die 1 trained, its scrub on; a frame of a page pool in use and a retired frame; one weak and one bad granule. -/
def sDmem : State := withRegs [(Reg.DMEM_CH_OK 1, 0xFFFFFFFF), (Reg.DMEM_STATUS 1, 1), (Reg.DMEM_SCRUB 1, 24)] { State.reset with
  structure_ := { pools := [{}] }
  pools := [{ die := 1, pool := 0, row0 := 0, rows := 16, used := [(2 ^ 22, 1), (2 ^ 22 + 2 ^ 17, 1)] }]
  retired := [2 ^ 22 + 3]
  cond := { symbols := [ch33, ch33 + 64, ch33 + 66] } }

theorem wit_BondedMemory : (frameOfDie 1 (BitVec.ofNat 32 (2 ^ 22 + 98304)) = false ∧ sDmem.frameGone (2 ^ 22 + 3) = true) ∧
    (frameOfDie 1 (BitVec.ofNat 32 (2 ^ 22)) = true ∧ sDmem.frameGone (2 ^ 22) = false ∧ sDmem.frameHeld (2 ^ 22) = true) ∧
    (frameOfDie 1 (BitVec.ofNat 32 (2 ^ 22 + 1)) = true ∧ sDmem.frameGone (2 ^ 22 + 1) = false ∧ sDmem.frameHeld (2 ^ 22 + 1) = false ∧
      (sDmem.retiredOf 1).length < 4096 ∧ (ran (.dmemRetire 1 (BitVec.ofNat 32 (2 ^ 22 + 1))) sDmem).rn (Reg.DMEM_RET_FRAMES 1) = 2) ∧
    ((withRegs [(Reg.DMEM_STATUS 1, 5)]).rbit (Reg.DMEM_STATUS 1) 2 = true ∧ State.reset.rbit (Reg.DMEM_STATUS 1) 0 = false) ∧
    (sDmem.rbit (Reg.DMEM_STATUS 1) 2 = false ∧ sDmem.rbit (Reg.DMEM_STATUS 1) 0 = true ∧
      (ran (.stackTempRead 1 95) sDmem).fld (Reg.DMEM_TEMP 1) 16 2 = 1 ∧ (ran (.stackTempRead 1 96) sDmem).fld (Reg.DMEM_TEMP 1) 16 2 = 2) ∧
    (sDmem.fld (Reg.DMEM_SCRUB 1) 0 8 ≠ 0 ∧ sDmem.rbit (Reg.DMEM_CH_OK 1) (channelOf ch33) = true ∧ ch33 = dramBase 1 + 0x4000 / 64 * 64) ∧
    (sDmem.granBad (ch33 + 128) = false ∧ sDmem.granWeak (ch33 + 128) = false) ∧ (sDmem.granBad ch33 = false ∧ sDmem.granWeak ch33 = true) ∧
    (sDmem.granBad (ch33 + 64) = true ∧ ch33 + 64 ∉ (sDmem.cis (cisternOf (ch33 + 64))).bad ∧
      sDmem.frameHeld (frameOf (ch33 + 64)) = true) := by decide +kernel

/-- A transfer request of two blocks at 64, and one with a reserved bit set at 96 (Table 09-1). -/
def request : List Byte := leBytes 8 0x1000 ++ leBytes 2 2 ++ leBytes 2 0 ++ leBytes 4 7 ++ leBytes 8 0x2000 ++ leBytes 8 0
def badRequest : List Byte := leBytes 8 0x1000 ++ leBytes 2 2 ++ leBytes 2 0x8000 ++ leBytes 4 7 ++ leBytes 8 0x2000 ++ leBytes 8 0
def sReq : State := holding 64 (request ++ badRequest)
def xHost : Xfer := { src := .host, nblk := 2, pref := 2, handle := 7, list := 0x1000, compl := 0x2000 }
def sWait : State := { State.reset with caravans := [(96, { waiting := [{ xHost with order := 1 }, { xHost with order := 2, prio := 3 }], ctxs := [(0, some xHost)] })] }
theorem wit_TransfersWaitAndStart : ((95 : Nat) < 96 ∧ 96 ≤ (96 : Nat)) ∧
    ((sReq.readCtl (sReq.carLoc 96) 0x3000000000000 32).failed = true) ∧
    (∀ v, v = leVal (sReq.readCtl (sReq.carLoc 96) 64 32).bytes → (sReq.readCtl (sReq.carLoc 96) 64 32).failed = false ∧ bitsAt v 80 2 = 0 ∧
      bitsAt v 82 3 ≤ 4 ∧ bitsAt v 85 11 = 0 ∧ bitsAt v 208 16 = 0 ∧ 1 ≤ bitsAt v 64 16 ∧ bitsAt v 0 64 % 64 = 0 ∧ bitsAt v 128 64 % 32 = 0) ∧
    (∀ v, v = leVal (sReq.readCtl (sReq.carLoc 96) 96 32).bytes → bitsAt v 80 2 ≠ 1 ∧ bitsAt v 85 11 ≠ 0) ∧
    ((ran (.transferRequest 96 64 { src := .host }) sReq).car 96).waiting.length = 1 := by
  refine ⟨by decide, by decide +kernel, ?_, ?_, by decide +kernel⟩ <;> (rintro v rfl; decide +kernel)
theorem wit_TransfersStart : ((State.reset.car 96).waiting = [] ∧ sWait.carGated 96 = false ∧ sWait.ctx 96 0 ≠ none ∧ sWait.ctx 96 1 = none ∧
      (∀ k, k < 1 → (sWait.ctx 96 k).isSome = true)) ∧ (firstXfer (sWait.car 96).waiting).map (fun x => x.order) = some 2 ∧
    ((ran (.transferStart 96) sWait).ctx 96 1).map (fun x => x.order) = some 2 ∧
    (∀ c, c < 8 → (({ State.reset with caravans := [(96, { ctxs := (List.range 8).map (fun k => (k, some xHost)) })] } : State).ctx 96 c).isSome = true) ∧
    (withRegs [(Reg.CAR_STATUS 0, 4)]).carGated 0 = true := by decide +kernel

/-- A COPY block of one row of 64 bytes per tile, from 0x4000 to 0x8000, two tiles. -/
def blk : CarBlock := { src := 0x4000, dst := 0x8000, ext0 := 64, ext1 := 2, sstr1 := 64, dstr1 := 64 }
def moving (x : Xfer) : State := { State.reset with
  mem := [(0x4000, 5), (0x4041, 6)]
  caravans := [(96, { ctxs := [(0, some x)] })] }
def xMove : Xfer := { src := .host, nblk := 2, pref := 2, handle := 7, list := 0x1000, compl := 0x2000, block := some blk }
theorem wit_TilesAreHandedOver : ((moving xMove).ctx 96 1 = none ∧ ({ xMove with ended := some 6 } : Xfer).moves = false ∧
      ({ xMove with wait := some .swap } : Xfer).moves = false) ∧
    ((moving xMove).ctx 96 0 = some xMove ∧ xMove.moves = true ∧ (moving xMove).carGated 96 = false ∧ xMove.phase = .fresh ∧
      xMove.tile < blk.tiles ∧ blk.mode = 0 ∧ blk.tiles = 2) ∧
    ((moving xMove).creditOk 96 xMove blk = true ∧ (moving xMove).pageMiss xMove.fn (blk.srcRows 0 ++ blk.dstRows 2 0) = none ∧
      blk.srcRows 0 = [(0x4000, 64)] ∧ blk.dstRows 2 0 = [(0x8000, 64)] ∧ xMove.overlaps blk = false ∧ blk.arrive = 0 ∧
      (moving xMove).remoteDev 0x4000 = none ∧ inOnePlace 0x4000 64 = true ∧ inOnePlace 0x8000 64 = true ∧ placeOf 0x4000 ≠ .regs ∧
      placeOf 0x8000 ≠ .regs ∧ (moving xMove).badIn 0x4000 64 = [] ∧ (moving xMove).badIn 0x8000 64 = [] ∧ xMove.slotHeld = none ∧
      ((moving xMove).car 96).waiting = []) ∧
    (xMove.tile + 1 < blk.tiles ∧ blk.tiles ≤ 1 + 1) := by decide +kernel
/-- A context of engine 0 that has handed over its prefetch and whose credit barrier stands still. -/
def xCredit : Xfer := { xMove with pref := 1, tile := 1, barCount := 1, block := some { blk with credit := 0 } }
def sCredit : State := withRegs [(Reg.DRF_STATUS 0, 0)] { State.reset with caravans := [(0, { ctxs := [(0, some xCredit)] })] }
theorem wit_TilesAreHandedOver_waits :
    (sCredit.creditOk 0 xCredit { blk with credit := 0 } = false ∧ sCredit.ctx 0 0 = some xCredit ∧ xCredit.moves = true ∧
      sCredit.carGated 0 = false ∧ xCredit.tile < ({ blk with credit := 0 } : CarBlock).tiles) ∧
    (({ moving xMove with cond := { hostFail := [0] } } : State).pageMiss 0
      (({ blk with src := hostWindow } : CarBlock).srcRows 0 ++ ({ blk with src := hostWindow } : CarBlock).dstRows 2 0)).isSome = true ∧
    ({ xMove with block := none } : Xfer).block = none ∧ placeOf (xMove.list + 64 * xMove.blk) = .dram 0 ∧
    (((moving xMove).readCtl ((moving xMove).carLoc 96) 0x1000 64).failed = false ∧
      parseBlock ((moving xMove).readCtl ((moving xMove).carLoc 96) 0x1000 64).bytes = none) ∧
    (({ moving xMove with cond := badAt 0x1000 } : State).readCtl ((moving xMove).carLoc 96) 0x1000 64).failed = true := by
  decide +kernel
theorem wit_TransfersFaultAndComplete : (({ xMove with wait := some (.fault 3) } : Xfer).wait = some (.fault 3)) ∧ xMove.over = false ∧
    (({ xMove with blk := 2, block := none } : Xfer).over = true ∧ xMove.cmd = none ∧ xMove.step = none ∧
      (moving xMove).pageMiss 0 [(0x2000, 32)] = none ∧ 0x2000 % 32 = 0 ∧ inOnePlace 0x2000 32 = true ∧ placeOf 0x2000 ≠ .regs ∧
      (moving xMove).badIn 0x2000 32 = []) ∧
    (({ xMove with blk := 2, cmd := some (0, 0, 0x20) } : Xfer).over = true) ∧
    (({ xMove with zeroed := 1 } : Xfer).status = 1 ∧ xMove.status = 0 ∧ ({ xMove with ended := some 6 } : Xfer).status = 6) ∧
    ((ran (.transferComplete 96 0) (moving { xMove with blk := 2, block := none })).ctx 96 0 = none) := by decide +kernel

/-! Host queues, link and sideband. -/

/-- Function 1's submission ring 0 runs with 16 entries and two waiting, onto completion ring 0 of 4 entries. -/
def sRings (l : List (Nat × Nat)) : State := withRegs ([(Reg.HQ_SQq_CFG 1 0, 0x24), (Reg.HQ_SQq_STATUS 1 0, 0x10000),
  (Reg.HQ_CQq_CFG 1 0, 0x12), (Reg.HQ_CQq_STATUS 1 0, 0x10000)] ++ l) { State.reset with host := { tails := [(64, 2)] } }
def dCopy (a b n : Nat) : BitVec 512 := word512 [(0, 0x20), (16, 9), (64, a), (128, b), (192, n)]

theorem wit_CommandsStart : (dOp 0x01 ≠ 0x00 ∧ State.reset.mayStart 1 0 0 = true ∧
      ({ State.reset with host := { fetched := [{ fn := 1, sq := 0, desc := 0x20 }] } } : State).mayStart 1 0 0 = false) ∧
    (dOp 0 = 0x00 ∧ descOk (State.reset.fmt1 1 0) 0 = true ∧ descOk (State.reset.fmt1 1 0) (word512 [(511, 1)]) = false) ∧
    (∀ d, d = dCopy 0x4000 0x8000 64 → dOp d = 0x20 ∧ descOk (State.reset.fmt1 0 0) d = true ∧ db d 24 4 % 64 = 0 ∧
      State.reset.mayName 0 (State.reset.localAddr (db d 8 8)) 64 = true ∧ State.reset.mayName 0 (State.reset.localAddr (db d 16 8)) 64 = true ∧
      State.reset.mayName 1 (State.reset.localAddr (db d 8 8)) 64 = false) ∧
    (db (dCopy 0x4000 0x8000 32) 24 4 % 64 ≠ 0) := by
  refine ⟨by decide +kernel, by decide +kernel, ?_, by decide +kernel⟩; rintro d rfl; decide +kernel
theorem wit_CommandsEnd : (sRings []).sqCq 1 0 = 0 ∧ dNocpl (word512 [(9, 1)]) = true ∧ dNocpl 0 = false ∧ (sRings []).cqRuns 1 0 = true ∧
    (sRings []).cqFull 1 0 = false ∧ (sRings [(Reg.HQ_CQq_STATUS 1 0, 0x10003)]).cqFull 1 0 = true ∧ (sRings []).hostOk hostWindow 32 = true ∧
    ((sRings []).endCmd 1 0 0 8 5).bytes hostWindow 1 = [5] ∧ ((sRings []).endCmd 1 0 0 8 5).rn (Reg.HQ_FNf_REJ 1) = 1 := by decide +kernel
theorem wit_Doorbells : ((sRings []).sqRuns 1 0 = true ∧ bitsAt (15 : Word).toNat 0 16 < 2 ^ (sRings []).sqLog 1 0 ∧
      2 ^ (sRings []).sqLog 1 0 ≤ bitsAt (16 : Word).toNat 0 16 ∧ State.reset.sqRuns 1 0 = false) ∧
    ((sRings []).cqRuns 1 0 = true ∧ ((sRings []).cqState 1 0).waiting = [] ∧ State.reset.cqRuns 1 0 = false ∧
      (ran (.sqDoorbell 1 0 15) (sRings [])).sqTail 1 0 = 15) := by decide +kernel
theorem wit_Fetches : State.reset.nextTurn = none ∧ (sRings []).nextTurn = some (1, 0) ∧ (sRings []).sqBytes 1 0 = 64 ∧
    (sRings []).hostOk hostWindow 64 = true ∧ (ran .commandFetch (sRings [])).host.fetched.length = 1 ∧
    ({ sRings [] with cond := { hostFail := [0] } } : State).hostOk hostWindow 64 = false ∧
    (ran .commandFetch { sRings [] with cond := { hostFail := [0] } }).fld (Reg.HQ_SQq_STATUS 1 0) 16 2 = 2 ∧
    ((sRings []).cqState 1 0).unsignalled = 0 ∧
    (({ sRings [] with host := { cqs := [(64, { unsignalled := 2 })] } } : State).cqState 1 0).unsignalled ≠ 0 := by decide +kernel
/-- Function 1 has a window over the register space. -/
def sRegWin : State := withRegs [(Reg.HQ_FNf_DMEM_HI 1, 0x200), (Reg.HQ_FNf_DMEM_SIZE 1, 1)]
theorem wit_LinkAndSideband : ((16 : Nat) ≤ 16 ∧ (8, 3) ∈ ([(8, 3), (16, 4), (32, 5), (64, 6), (128, 7)] : List (Nat × Nat)) ∧ 5 < 8 ∧
      (ran (.linkTrainingComplete 32 16) State.reset).fld Reg.HQ_LINK 0 4 = 5) ∧
    (sSlow.slowLink = true ∧ (State.reset.bar4 1).2 < 0 + 1 ∧ (State.reset.bar4 0).2 < 2 ^ 38 + 1) ∧
    (State.reset.slowLink = false ∧ 0x4000 + 2 ≤ (State.reset.bar4 0).2 ∧ inOnePlace ((State.reset.bar4 0).1 + 0x4000) 2 = true ∧
      placeOf ((State.reset.bar4 0).1 + 0x4000) = .dram 0 ∧ State.reset.badIn ((State.reset.bar4 0).1 + 0x4000) 2 = [] ∧
      (ran (.bar4Access 0 true 0x4000 2 [1, 2]) State.reset).bytes 0x4000 2 = [1, 2]) ∧
    (placeOf ((sRegWin.bar4 1).1 + 0x10) = .regs ∧ 0x10 + 4 ≤ (sRegWin.bar4 1).2 ∧ sRegWin.slowLink = false ∧
      (ran (.bar4Access 1 true 0x20 4 [0, 0, 0, 0]) sRegWin).rbit Reg.PWR_CTRL 0 = false ∧
      (ran (.bar4Access 1 false 0x2 4 []) sRegWin).resp.abort = true) ∧
    (ran .mctpGetEndpointId (ran (.mctpSetEndpointId 9) State.reset)).resp.bytes = [0, 9, 0, 0] ∧
    (ran .telemetryEventsReadClear (withRegs [(Reg.HQ_MGT_EVENTS, 5)])).rn Reg.HQ_MGT_EVENTS = 0 := by decide +kernel

/-! Streams. -/

/-- A descriptor of a command on stream 1, one chunk record, and a part whose one stream is of graph 3. -/
def dS (op : Nat) (l : List (Nat × Nat)) : BitVec 512 := word512 ([(0, op), (32, 1)] ++ l)
def one (x : Stream) (g : Graph := { id := 3 }) : State := withRegs [(Reg.PLC_AWAKE, 1)] { State.reset with
  structure_ := { graphs := [g], pools := [{ kind := 0, mask := 3 }] }
  streams := [(1, { x with graph := 3, cluster := some 0 })] }
def rowAt (a n : Nat) : List (Nat × Nat) := [(64, a), (128, n), (192, n)]
def queue2 : List Chunk := [{ src := 0x4000, pos := 2, bytes := 2 }]
def active (q : List Chunk) : State := one { st := .active, queue := q, pos := 7 }
def paused : State := { one { st := .paused, wasIdle := true, resumeTick := some 9 } { id := 3, plane := 2, ticked := true } with
  tck := { planes := [(2, some { f := 30000, g := 300, n := 2, run := true })] } }

theorem wit_StreamsAreFed : (active []).turn 0 0 (word512 [(0, 2), (32, 9)]) 2 ∧ (active []).target 0 (word512 [(0, 2), (32, 9)]) = none ∧
    (active []).target 0 (dS 0x03 []) = some 1 ∧ ((one { st := .active, due := [(0, 0, 0)] }).strm 1).due ≠ [] ∧
    (one { st := .active, step := some {} }).mustWait 1 (dS 0x06 []) = true ∧
    (active []).ready 0 0 (dS 0x02 (rowAt 0x4000 1)) 2 1 ∧
    (active []).chunkOk 0 ((active []).inputOf 1) (feedChunk ((active []).fmt1 0 0) (dS 0x02 (rowAt 0x4000 16777216)) 0) = true ∧
    (active []).chunkOk 0 ((active []).inputOf 1) (feedChunk ((active []).fmt1 0 0) (dS 0x02 (rowAt 0x4000 16777217)) 0) = false ∧
    64 ≤ (((active (List.replicate 64 {})).strm 1).queue).length ∧ (((active (List.replicate 63 {})).strm 1).queue).length < 64 ∧
    (one { st := .swapped }).ready 0 0 (dS 0x02 (rowAt 0x4000 1)) 2 1 := by
  simp only [State.ready, State.turn]; decide +kernel
theorem wit_StreamsAreMarked : (active queue2).ready 0 0 (dS 0x03 [(64, 9)]) 3 1 ∧ ((active queue2).strm 1).queued = 2 ∧
    db (dS 0x03 [(64, 9)]) 8 8 = ((active queue2).strm 1).pos + 2 ∧ (active queue2).ready 0 0 (dS 0x03 [(64, 7)]) 3 1 ∧
    db (dS 0x03 [(64, 7)]) 8 8 = ((active queue2).strm 1).pos ∧ ((active queue2).strm 1).queue = queue2 ∧
    7 + 2 < db (dS 0x03 [(64, 10)]) 8 8 ∧ db (dS 0x03 [(64, 6)]) 8 8 < 7 := by simp only [State.ready, State.turn]; decide +kernel
/-- A mark inside a chunk splits it (R266). -/
theorem test_mark_splits : ((ran (.streamMark 0 0 (dS 0x03 [(64, 8)])) (active queue2)).strm 1).queue =
    [{ src := 0x4000, pos := 1, bytes := 1, noRelease := true, split := true },
     { src := 0x4001, pos := 1, bytes := 1, mark := true, split := true }] := by decide +kernel
theorem wit_StreamsArePaused : (active []).ready 0 0 (dS 0x04 []) 4 1 ∧ ((active []).strm 1).st = .active ∧
    (one { st := .idle }).ready 0 0 (dS 0x04 []) 4 1 ∧ ((one { st := .idle }).strm 1).st = .idle ∧
    (active []).ready 0 0 (dS 0x05 []) 5 1 ∧ ((active []).strm 1).st ≠ .paused ∧
    paused.ready 0 0 (dS 0x05 [(64, 2), (128, 1)]) 5 1 ∧ (paused.strm 1).st = .paused ∧
    paused.graphOf (paused.strm 1).graph = some { id := 3, plane := 2, ticked := true } ∧ paused.fmt1 0 0 = false ∧
    dfield (dS 0x05 [(64, 2), (128, 1)]) 16 0 1 = 1 ∧ paused.tickCount 2 false < db (dS 0x05 [(64, 2), (128, 1)]) 8 8 ∧
    paused.ready 0 0 (dS 0x05 []) 5 1 ∧ dfield (dS 0x05 []) 16 0 1 = 0 ∧ (paused.strm 1).cluster = some 0 := by
  simp only [State.ready, State.turn]; decide +kernel
theorem wit_ResumeTicks : paused.halted = false ∧ ((active []).strm 1).resumeTick = none ∧
    ((paused.strm 1).resumeTick = some 9 ∧ paused.tickCount 2 false < 9) ∧
    (∀ t, t = ({ paused with tck := { planes := [(2, some { f := 30000, g := 300, n := 10, run := true })] } } : State) →
      9 ≤ t.tickCount 2 false ∧ (t.strm 1).st = .paused ∧ (t.strm 1).cluster = some 0 ∧
      ((ran (.resumeTickReached 1) t).strm 1).st = .idle) := by
  refine ⟨by decide +kernel, by decide +kernel, by decide +kernel, ?_⟩; rintro t rfl; decide +kernel

/-- A stream of graph 3 that closes at once. -/
def dOpen (g size : Nat) : BitVec 512 := word512 [(0, 1), (64, g), (96, size), (352, 0xFFFFFFFF)]
def gOpen : Graph := { id := 3, ticked := true, costs := [{ bound := 8, cycles := 5 }] }
def sOpen : State := withRegs [(Reg.TBG_CAP 0 0, 100), (Reg.HQ_FNf_LIMIT 0, 0x107)] { one {} gOpen with streams := [] }
def rOpen : OpenReq := { cls := 0, size := 8, list := 0, cap := 0, sink := 0, source := 0xFFFFFFFF }
theorem wit_StreamsOpen : sOpen.turn 0 0 (dOpen 4 8) 1 ∧ sOpen.graphOf (db (dOpen 4 8) 8 2) = none ∧
    sOpen.turn 0 0 (dOpen 3 8) 1 ∧ sOpen.fmt1 0 0 = false ∧ sOpen.graphOf (db (dOpen 3 8) 8 2) = some gOpen ∧
    rOpen = ({ cls := dfield (dOpen 3 8) 10 0 3, size := db (dOpen 3 8) 12 4, list := db (dOpen 3 8) 32 8, cap := db (dOpen 3 8) 40 4,
               sink := db (dOpen 3 8) 48 8, source := db (dOpen 3 8) 44 4 } : OpenReq) := by simp only [State.turn]; decide +kernel
theorem wit_StreamsOpen_vetted : sOpen.vetOpen 0 gOpen { rOpen with size := 9 } = (8, none) ∧
    ({ sOpen with streams := [(9, { st := .active })] } : State).vetOpen 0 gOpen rOpen = (4, none) ∧
    sOpen.vetOpen 0 gOpen rOpen = (0, some ({ bound := 8, cycles := 5 }, .none, none)) ∧ gOpen.kv = none ∧
    sOpen.rn (Reg.TBG_RES 0 (budgetOf gOpen)) + 5 < 2 ^ 32 := by decide +kernel
theorem wit_StreamsOpen_placed : sOpen.decide_ ⟨gOpen, 0, { bound := 8, cycles := 5 }⟩ = (.on 0, sOpen) := by
  have h : (sOpen.decide_ ⟨gOpen, 0, { bound := 8, cycles := 5 }⟩).1 = .on 0 ∧
      (sOpen.decide_ ⟨gOpen, 0, { bound := 8, cycles := 5 }⟩).2 = sOpen := by decide +kernel
  exact Prod.ext h.1 h.2
/-- Streams of a part that has one. -/
theorem only_stream_1 (x : Stream) (k : Nat) (h : k ≠ 1) : (one x).strm k = {} := by
  show (AMap.read (fun _ => {}) [(1, _)] k : Stream) = {}
  simp [AMap.read, Ne.symm h]
theorem wit_StreamsClose : (active []).ready 0 0 (dS 0x08 []) 8 1 ∧ (∃ x, (active []).strm 1 = x ∧ x.step = none ∧ x.kv = {} ∧ x.sink = .none ∧
      x.queue = [] ∧ x.attach = none ∧ x.savedFrames = [] ∧ x.savedUnit = none) ∧ (active []).calm ∧ ∀ k, ((active []).strm k).source ≠ some 1 := by
  refine ⟨by simp only [State.ready, State.turn]; decide +kernel, ⟨_, rfl, by decide +kernel⟩, ⟨rfl, rfl, ?_⟩, ?_⟩
  · intro e he
    have he' : e ∈ [(1, ({ st := .active, pos := 7, graph := 3, cluster := some 0 } : Stream))] := he
    obtain rfl := List.mem_singleton.mp he'
    refine ⟨rfl, rfl, ?_⟩; intro r h; cases h
  · intro k
    by_cases h : k = 1
    · subst h; decide +kernel
    · rw [active, only_stream_1 _ k h]; decide

/-! State parcels. -/

/-- A parcel of graph 3 of an IDLE stream at position 7 and draw position 5 (Tables 12-6 and 12-8), signed with the key of
the seed of 32 zero bytes. -/
def parcelHead (digest : List Byte) : List Byte := ascii "DUNEPRCL" ++ leBytes 4 2 ++ leBytes 4 384 ++ leBytes 4 1 ++ leBytes 4 0x48582448 ++
  leBytes 4 0xA1 ++ leBytes 4 0 ++ leBytes 8 0 ++ leBytes 4 1 ++ leBytes 4 0 ++ digest ++ List.replicate 16 0
def parcelBytes : List Byte := parcelHead (sha512 []) ++ leBytes 4 1 ++ leBytes 4 192 ++ leBytes 4 64 ++ leBytes 4 0 ++ List.replicate 48 0 ++
  leBytes 8 7 ++ leBytes 24 0 ++ leBytes 6 5 ++ leBytes 2 1 ++ leBytes 1 0 ++ leBytes 1 1 ++ leBytes 6 0 ++ leBytes 8 (2 ^ 64 - 1) ++ leBytes 8 0 ++
  leBytes 32 0 ++ key0 ++ leBytes 64
  51798533627131478466395061909314421388235297232924673970898340848033254008039307898413243935653827843918786856570573820145504068479109780277289302501764
def sParcel (l : List Byte) : State := withRegs [(Reg.SEC_PARCEL_CFG, 0)] { sOpen with mem := (holding 0x4000 l).mem }
def dImport : BitVec 512 := word512 [(0, 7), (64, 0x4000), (320, 0xFFFFFFFF), (384, 2 ^ 64 - 1)]
/-- An export of stream 1 to 0x8000, with KEEP. -/
def dExport (dst cap : Nat) : BitVec 512 := dS 0x06 [(64, dst), (128, cap), (160, 1)]
def exporting (q : List Chunk) : State := one { st := .exporting, prev := .active, queue := q, pos := 7, export_ := some (0, 0, dExport 0x8000 512) }

theorem wit_StreamsExport : (active []).ready 0 0 (dExport 0x8000 384) 6 1 ∧ (active []).graphOf ((active []).strm 1).graph = some { id := 3 } ∧
    ({ id := 3 } : Graph).kv = none ∧ ((active []).startCmd 0 0 (dExport 0x8000 384)).parcelLength 1 { id := 3 } = 384 ∧
    (active []).exportOk 0 (hostWindow - 1) 384 = false ∧ (active []).exportOk 0 0x8000 383 = true ∧ (active []).exportOk 0 0x8000 384 = true := by
  simp only [State.ready, State.turn]; decide +kernel
theorem wit_ExportsAreWritten : ((active []).strm 1).export_ = none ∧ ((exporting []).strm 1).export_ = some (0, 0, dExport 0x8000 512) ∧
    ((exporting []).strm 1).st = .exporting ∧ (exporting []).graphOf 3 = some { id := 3 } ∧
    (((exporting []).parcel 1 { id := 3 } false).1.map (fun l => l.length)) = some 384 ∧
    (((exporting []).parcel 1 { id := 3 } false).1.map (fun l => (l.take 12, slcN l 12 4))) = some (ascii "DUNEPRCL" ++ leBytes 4 2, 384) ∧
    ((exporting []).parcel 1 { id := 3 } false).2.2.remoteDev (db (dExport 0x8000 512) 8 8) = none ∧
    inOnePlace 0x8000 384 = true ∧ placeOf 0x8000 ≠ .regs ∧ dfield (dExport 0x8000 512) 20 0 1 = 1 ∧
    (({ exporting [{ src := hostWindow, pos := 1, bytes := 1 }] with cond := { hostFail := [0] } } : State).parcelSections 1 { id := 3 }).1 = none := by
  decide +kernel
theorem wit_ImportsAreRefused : (sParcel []).turn 0 0 dImport 7 ∧ parcelHeadOk [] = false ∧ (sParcel parcelBytes).turn 0 0 dImport 7 := by
  simp only [State.turn]; decide +kernel
def uParcel : State := (sParcel parcelBytes).startCmd 0 0 dImport
def hdParcel : Rd := uParcel.readData uParcel.oasisReader 0x4000 16
theorem wit_StreamsImport : hdParcel.failed = false ∧ slcN hdParcel.bytes 12 4 = 384 ∧ uParcel.mayName 0 0x4000 384 = true ∧
    (hdParcel.st.readData uParcel.oasisReader 0x4000 384).failed = false ∧ parcelHeadOk parcelBytes = true := by decide +kernel
theorem wit_StreamsImport_read : (hdParcel.st.readData uParcel.oasisReader 0x4000 384).bytes = parcelBytes := by decide +kernel
theorem wit_StreamsImport_parcel : ((sParcel parcelBytes).parcelSigned parcelBytes).1 = true ∧
    ((sParcel parcelBytes).parcelSigned parcelBytes).2.graphBy (slice parcelBytes 48 64) = some gOpen ∧ gOpen.costs = [{ bound := 8, cycles := 5 }] ∧
    parcelStrm gOpen parcelBytes = some { graph := 3, pos := 7, p := 5, prev := .idle, lastTick := none } ∧ gOpen.kv = none ∧
    ((sParcel parcelBytes).parcelSigned parcelBytes).2.free.2.vetOpen 0 gOpen rOpen = (0, some ({ bound := 8, cycles := 5 }, .none, none)) := by
  decide +kernel

/-! Caches. -/

/-- A declaration of one page group of 16 KiB, at most 1,024 positions, indexed; and one spread over two packages. -/
def dKv : BitVec 512 := word512 [(23, 1), (32, 1), (64, 1), (80, 1), (96, 16), (128, 16), (144, 1), (160, 1024), (192, 1)]
def dSpread : BitVec 512 := word512 [(22, 1), (32, 1), (64, 1), (80, 1), (96, 16), (128, 16), (144, 1), (160, 1024), (192, 2)]
def gKv : Graph := { id := 3, nodes := [{ node := .cache dKv }] }
/-- Stream 1 of that graph with a list at 0x4000, and its child, stream 2. -/
def sKv (v : KvSeq) (x : Stream := { st := .active }) : State := { one {} gKv with
  streams := [(1, { x with graph := 3, cluster := some 0, kv := { v with list := 0x4000, cap := 8, st := if v.st = .none then .resident else v.st } }),
              (2, { st := .active, graph := 3, cluster := some 0, kv := { list := 0x4100, cap := 8, st := .resident } })] }
def at200 : KvSeq := { ctx := 200, allTokens := List.replicate 200 7 }
def badList : State := { sKv at200 with cond := badAt 0x4000 }
def sForked (n : Nat) : State := withRegs [(Reg.KVC_REC_FREE, n), (Reg.KVC_REC_COUNT, n), (Reg.KVC_REC_BASE_LO, 0x8000)] (sKv { at200 with ctx := 100 })
/-- The list of stream 1 can be read. -/
def listReads (s : State) : Bool := (s.cacheRead 1).1

theorem wit_CachesPinAndTruncate : (∀ op ∈ [0x18, 0x19, 0x1A, 0x1B], dOp (dS op []) = op ∧ (active []).mayStart 0 0 (dS op []) = true ∧
      descOk ((active []).fmt1 0 0) (dS op []) = true ∧ (active []).target 0 (dS op []) = some 1 ∧ (active []).mustWait 1 (dS op []) = false) ∧
    (active []).kvOf 1 = none ∧ (sKv at200).kvOf 1 = some (kvDecl dKv) ∧ (sKv at200).target 0 (dS 0x1B [(64, 1)]) = some 1 ∧
    200 < db (dS 0x1A [(64, 201)]) 8 8 ∧ listReads ((sKv at200).startCmd 0 0 (dS 0x1A [(64, 200)])) = true ∧
    db (dS 0x1A [(64, 199)]) 8 8 < 200 ∧ listReads (badList.startCmd 0 0 (dS 0x1A [(64, 200)])) = false := by decide +kernel
/-- A part whose streams neither step, import nor wait for pages is calm. -/
theorem only_calm (s : State) (h1 : s.load = none) (h2 : s.place.pend = [])
    (h3 : s.streams.all (fun e => e.2.kv.need == [] && e.2.import_ == none && e.2.step == none) = true) : s.calm := by
  refine ⟨h1, h2, fun e he => ?_⟩
  have h := List.all_eq_true.mp h3 e he
  simp only [Bool.and_eq_true, beq_iff_eq] at h
  exact ⟨h.1.1, h.1.2, fun r hr => by rw [h.2] at hr; cases hr⟩
theorem wit_CachesPinAndTruncate_calm : (sKv at200).calm := only_calm _ rfl rfl (by decide +kernel)
/-- KV_TRUNCATE to 128: the context and the tokens end there (R243). -/
theorem test_truncate : ((ran (.kvTruncate 0 0 (dS 0x1A [(64, 128)])) (sKv at200)).strm 1).kv.ctx = 128 := by decide +kernel
theorem wit_CachesFork : (sForked 1).ready 0 0 (dS 0x19 [(64, 2)]) 0x19 1 ∧ (sForked 1).sidOf (db (dS 0x19 [(64, 2)]) 8 4) = some 2 ∧
    (sForked 1).forkOk 1 1 0 = false ∧ (sForked 1).forkOk 1 2 0 = true ∧ (sForked 1).swappedEntries 1 = [] ∧
    ((sForked 1).strm 1).kv.granted = [] ∧ listReads ((sForked 1).startCmd 0 0 (dS 0x19 [(64, 2)])) = true := by
  simp only [State.ready, State.turn]; decide +kernel
def forkBlocks (s : State) : Bool × List Nat × State :=
  makeRecs 1 (kvDecl dKv) ((s.cacheRead 1).2.flushSet 1) []
    ((List.range ((100 + 127) / 128)).filter (((s.cacheRead 1).2.flushSet 1).ownBlock 1 (kvDecl dKv)))
theorem wit_CachesFork_records : (forkBlocks ((sForked 0).startCmd 0 0 (dS 0x19 [(64, 2)]))).1 = false ∧
    (forkBlocks ((sForked 1).startCmd 0 0 (dS 0x19 [(64, 2)]))).1 = true := by decide +kernel
/-- The buffer of token IDs stands at 0x6000. -/
def dAttach (n : Nat) : BitVec 512 := dS 0x18 [(64, 0x6000), (128, n)]
theorem wit_CachesAttach : (sKv at200).ready 0 0 (dAttach 128) 0x18 1 ∧ 200 % 128 ≠ 0 ∧ (kvDecl dKv).indexed = true ∧ (kvDecl dSpread).indexed = false ∧
    (sKv { at200 with ctx := 128 }).ready 0 0 (dAttach 127) 0x18 1 ∧ ((sKv { at200 with ctx := 128 }).strm 1).kv.staging = none ∧
    (sKv at200).mayName 0 0x6000 512 = true ∧ inOnePlace 0x6000 512 = true ∧ db (dAttach 127) 16 4 < 128 ∧ 128 ≤ db (dAttach 128) 16 4 ∧
    128 + 128 ≤ (kvDecl dKv).maxCtx ∧ listReads ((sKv { at200 with ctx := 128 }).startCmd 0 0 (dAttach 128)) = true := by
  simp only [State.ready, State.turn]; decide +kernel
theorem wit_CachesAttach_reads : ((((sKv { at200 with ctx := 128 }).startCmd 0 0 (dAttach 128)).cacheRead 1).2.readData
    ((sKv { at200 with ctx := 128 }).startCmd 0 0 (dAttach 128)).oasisReader 0x6000 512).failed = false := by decide +kernel

/-- A victim whose one page, at frame 0 of die 1, is still to be swapped out; one to be restored. -/
def sSwap (x : Stream) (k : KvSeq) : State := withRegs [(Reg.KVC_SWAPf_SIZE 0, 4)] { sKv k x with mem := [(0x4002, 64), (0x4003, 64)] }
def toSwap : KvSeq := { ctx := 100, st := .swapOut, swapOut := [0] }
def toRestore : KvSeq := { ctx := 100, st := .restore }
theorem wit_PagesAreSwapped : (sSwap {} toSwap).kvOf 1 = some (kvDecl dKv) ∧ ((sSwap {} toSwap).strm 1).kv.swapOut = [0] ∧
    ((sSwap {} toSwap).strm 1).kv.swapOut.head? ≠ some 1 ∧ ((sSwap {} toSwap).strm 1).due = [] ∧
    ((sSwap {} toSwap).swapPage 1 0 (kvDecl dKv)).isSome = true ∧ (active []).kvOf 1 = none ∧
    ((sSwap {} toSwap).strm 1).kv.st ≠ .restore ∧ ((sSwap {} toRestore).strm 1).kv.st = .restore ∧ ((sSwap {} toRestore).strm 1).kv.need = [] ∧
    (sSwap {} toRestore).restoreOk 1 (kvDecl dKv) = true ∧ ((sSwap {} toRestore).strm 1).step = none ∧ (sSwap {} toRestore).caravans = [] ∧
    ((sSwap {} { toRestore with granted := [(0, 5)] }).strm 1).kv.granted = [(0, 5)] ∧
    ({ sSwap {} { toRestore with granted := [(0, 5)] } with mem := [(0x4003, 0x80)] } : State).kvEnt 1 0 = ⟨2, false, 0⟩ := by decide +kernel
theorem wit_PagesAreSwapped_after : ∀ u, (sSwap {} toSwap).swapPage 1 0 (kvDecl dKv) = some u → u.streams = (sSwap {} toSwap).streams := by
  have h : ((sSwap {} toSwap).swapPage 1 0 (kvDecl dKv)).map (fun u => decide (u.streams = (sSwap {} toSwap).streams)) = some true := by decide +kernel
  intro u hu; rw [hu] at h; simpa using h

/-- A step of stream 1 at an attention node over a spread cache; its length table of one entry stands at 0x6000. -/
def gRing : Graph := { id := 3, nodes := [{ node := .attention (word512 [(24, 0x40)]), ops := [.tensor .dram 0x6000 32] }, { node := .cache dSpread }] }
def sRingNode (w : StepWait) (k : KvSeq) : State := { one { st := .active, step := some { wait := w }, kv := k } gRing with
  mem := [(0x6000, 1), (0x6004, 1)] }
theorem wit_MembersSend : ((active []).jobOf 1 = none ∧ (sRingNode .run {}).waitsMembers 1 = false) ∧
    (((sRingNode .members {}).jobOf 1).map (fun j => j.e.qLen) = some 1 ∧ ((sRingNode .members {}).strm 1).step = some { wait := .members }) ∧
    ((sRingNode .run { ringLost := true }).strm 1).kv.ringLost = true ∧
    ((sRingNode .run {}).kvOf 1 = some (kvDecl dSpread) ∧ (kvDecl dSpread).spread = true ∧ ((sRingNode .run {}).strm 1).step.isSome = true ∧
      ((sRingNode .run { ringBlocks := [(0, 0, [])] }).strm 1).kv.ringBlocks.any (fun b => b.1 == 0 && b.2.1 == 1) = false) ∧
    ((sRingNode .members { ring := true }).strm 1).kv.ring = true ∧ ((sRingNode .members {}).strm 1).kv.ring = false := by decide +kernel
/-- Whichever member the package is, one of blocks 0 and 1 is another's. -/
theorem wit_MembersSend_other : ∃ b, (sRingNode .run {}).ownBlock 1 (kvDecl dSpread) b = false := by
  have hk : (kvDecl dSpread).spread = true ∧ (kvDecl dSpread).span = 2 ∧ (kvDecl dSpread).memberOf 0 = 0 ∧ (kvDecl dSpread).memberOf 1 = 1 := by
    decide +kernel
  have hm := Nat.mod_two_eq_zero_or_one (Config.spanMember ((sRingNode .run {}).handleOf 1))
  rcases hm with h | h
  · exact ⟨1, by rw [State.ownBlock, State.meOf, hk.1, hk.2.1, hk.2.2.2, if_pos rfl, h]; rfl⟩
  · exact ⟨0, by rw [State.ownBlock, State.meOf, hk.1, hk.2.1, hk.2.2.1, if_pos rfl, h]; rfl⟩

/-! The listening cascade. -/

/-- Channel 5 is c; group 0 is enabled with CONF_MIN 200; a host input descriptor of channel 5 stands at 0x4050: a ring of
256 A-law samples at 0x5000 with so many written. -/
def sChan (c : Channel) (wr : Byte := 0) (g : Nat := 2 ^ 22) : State := withRegs [(Reg.RPL_Gg_CFG 0, 200 * 2 ^ 24 + g), (Reg.RPL_HIN_BASE_LO, 0x4000)]
  { State.reset with
    casc := { chans := [(5, c)] }
    mem := [(0x4051, 0x50)] ++ (if wr = 0 then [] else [(0x4058, wr)]) ++ [(0x405C, 8)] }
def hostSrc : Word := BitVec.ofNat 32 (2 * 2 ^ 30)
def listening : Channel := { st := .ripple, src := hostSrc }

theorem wit_ListeningRequestsEnd : ((sChan listening).chan 5).crest = none ∧ ((sChan { st := .crest, crest := some {} }).chan 5).crest = some {} ∧
    ({} : CrestReq).placed = none ∧ ({ placed := some 0 } : CrestReq).placed.isSome = true ∧
    ((sChan { st := .dune }).chan 5).st = .dune ∧ ((sChan listening).chan 5).st ≠ .dune ∧ bitsAt (0xC0000000 : Word).toNat 30 2 = 3 ∧
    16384 ≤ 16384 ∧ 16383 < 16384 ∧
    (∀ v, v = hostSrc → bitsAt v.toNat 30 2 ≠ 3 ∧
      v.toNat = bitsAt v.toNat 30 2 * 2 ^ 30 + bitsAt v.toNat 24 3 * 2 ^ 24 + bitsAt v.toNat 16 5 * 2 ^ 16 ∧ v = listening.src ∧
      v ≠ ({} : Channel).src ∧ ({ st := .ripple, inbuf := [1] } : Channel).inbuf ≠ [] ∧ ({} : Channel).st = .off) ∧
    ((ran (.crestTimeout 5) (sChan { st := .crest, crest := some {} })).chan 5).st = .ripple := by
  simp only [forall_eq]; decide +kernel
theorem wit_ListeningRequestsEnd_calm : (sChan { st := .crest, crest := some { placed := some 0 } }).calm := only_calm _ rfl rfl rfl
theorem wit_GroupsEnable : (∀ ch, ((sChan listening 0 0).chan ch).crest = none) ∧ bitAt (0x400007 : Word).toNat 22 = true ∧
    (sChan listening 0 0).groupOn 0 = false ∧ (((sChan listening 0 0).setReg (Reg.RPL_Gg_CFG 0) 0x400007).loadModel 7).1 = none ∧
    bitAt (7 : Word).toNat 22 = false ∧ ((sChan listening).chan 5).kind = 2 ∧ (sChan { src := hostSrc } 0 0).groupOn 0 = false ∧
    ((sChan { src := hostSrc } 0 0).chan 5).st = .off := by
  refine ⟨fun ch => ?_, by decide +kernel⟩
  show (AMap.read (fun _ => {}) [(5, listening)] ch : Channel).crest = none
  by_cases h : 5 = ch
  · subst h; rfl
  · simp [AMap.read, h]
/-- Weight 7 is a model of one byte at 0x6000. -/
def sModel : State := withRegs [(Reg.DMEM_CH_OK 0, 0xFFFFFFFF)]
  { sChan listening 0 0 with weights := [{ ref := { id := 7, size := 1 }, present := true, addr := 0x6000 }] }
/-- Whether a model's bytes are accepted is open (log 27): where they are, the group has them. -/
theorem wit_GroupsEnable_model : Config.rippleAccepts [0] = true → (sModel.loadModel 7).1 = some [0] := by
  intro h
  have hr : (sModel.readRuns (sModel.oasLoc 21 0) (sModel.weightPieces 0x6000 0 1)).bytes = [0] ∧
      (sModel.readRuns (sModel.oasLoc 21 0) (sModel.weightPieces 0x6000 0 1)).failed = false := by decide +kernel
  show (if !(sModel.readRuns _ (sModel.weightPieces 0x6000 0 1)).failed && Config.rippleAccepts _ then some _ else none : Option (List Byte)) = _
  rw [hr.1, hr.2, h]; rfl
/-- A valid phrase record of two units at 0x4051's page: N 2, MIN_FRAMES 1, THRESH 1, units 1 and 63. -/
def sPhrase (l : List (Nat × Byte)) : State := withRegs [(Reg.RPL_ENR_ADDR_LO, 0x7000)] { sChan listening with mem := l }
def phraseMem : List (Nat × Byte) := [(0x7000, 2), (0x7001, 1), (0x7002, 1), (0x7004, 1), (0x7005, 63)]
theorem wit_GroupsEnrol : bitAt (0x00000000 : Word).toNat 31 = false ∧ bitAt (0x80000000 : Word).toNat 31 = true ∧
    (sPhrase phraseMem).groupOn 0 = true ∧ (sPhrase phraseMem).groupOn 1 = false ∧ bitAt (0x80001000 : Word).toNat 12 = true ∧
    (∀ d, d = (sPhrase phraseMem).readCtl ((sPhrase phraseMem).oasLoc 21 0) 0x7000 32 → d.failed = false ∧
      parsePhrase d.bytes = some { minFrames := 1, thresh := 1, units := [1, 63] }) ∧
    parsePhrase ((sPhrase []).readCtl ((sPhrase []).oasLoc 21 0) 0x7000 32).bytes = none ∧
    (({ sPhrase phraseMem with cond := badAt 0x7000 } : State).readCtl ((sPhrase phraseMem).oasLoc 21 0) 0x7000 32).failed = true ∧
    (sPhrase phraseMem).pair Reg.RPL_ENR_ADDR_LO = 0x7000 := by simp only [forall_eq]; decide +kernel

def hinRead (s : State) : Rd := s.readCtl (s.oasLoc 21 0) (s.pair Reg.RPL_HIN_BASE_LO + 16 * 5) 16
theorem wit_FramesAreTaken : ((sChan {}).chan 5).st = .off ∧ ((sChan listening).chan 5).kind = 2 ∧ (hinRead (sChan listening 80)).failed = false ∧
    ((hinRead (sChan listening 80)).bytes.getD 12 0).toNat = 8 ∧ bitsAt 8 6 2 ≠ 3 ∧
    leVal (((hinRead (sChan listening 79)).bytes.drop 8).take 4) = 79 ∧ leVal (((hinRead (sChan listening 80)).bytes.drop 8).take 4) = 80 ∧
    leVal (((hinRead (sChan listening 159)).bytes.drop 8).take 4) < 160 ∧
    ((hinRead (sChan listening 80)).st.readRuns ((sChan listening).oasLoc 21 0)
      (ringPieces (leVal ((hinRead (sChan listening 80)).bytes.take 8)) 256 0 80)).failed = false ∧
    ((ran (.hostInputPoll 5) (sChan listening 80)).chan 5).readCount = 80 := by decide +kernel
/-- A-law byte 0 is −5,504 on the 16-bit scale (G.711). -/
theorem test_alaw : ((ran (.hostInputPoll 5) (sChan listening 80)).chan 5).inbuf.head? = some (-5504) := by decide +kernel
def heard (st : ChanState) (hold : Nat) : Channel := { listening with st := st, hold := hold, inbuf := List.replicate 80 100, ends := [7] }
theorem wit_FramesReachTheCascade : ((sChan listening).chan 5).ends = [] ∧
    (∀ c, c ∈ [heard .ripple 1, heard .dune 0, heard .crest 0] → c.pendSrc = none ∧ c.pendCfg = none ∧ c.pendModel = false ∧ c.pendPhr = [] ∧
      c.damaged = false ∧ c.ends = [7] ∧ c.st ≠ .off ∧ (c.st ≠ .ripple ∨ c.hold ≠ 0)) := by decide +kernel
/-- Array 1 of two microphones, ATTEND allowed. -/
def sArr (x : MicArray) (c : Channel := {}) : State := withRegs [(Reg.ACF_Aa_CFG 1, 0x30008)] { State.reset with
  casc := { arrays := [(1, x)], chans := [(16385, c)] } }
theorem wit_ArrayFrames : ((sArr {}).arr 1).clkRun = false ∧ ((sArr { clkRun := true }).arr 1).clkRun = true ∧ (sArr { clkRun := true }).casc.calibPend = [] ∧
    (∀ m < 16, (sArr { clkRun := true }).rbit (Reg.ACF_CALm m) 31 = false) ∧ ((sArr {} { discard := 2 }).chan 16385).st = .off ∧
    1 < ((sArr {} { discard := 2 }).chan 16385).discard ∧ ((sArr { clkDue := true }).arr 1).clkDue = true ∧
    ((sArr { hqRun := true }).arr 1).hqRun = true ∧ (sArr { hqRun := true }).ringTakes (.attend 1) = false ∧
    (withRegs [(Reg.ACF_Aa_RING_BASE_LO 1, 0x4000)] (sArr { hqRun := true })).ringTakes (.attend 1) = true ∧
    ((ran (.pdmClockStart 1) (sArr { clkDue := true })).chan 16385).discard = 3 := by decide +kernel
/-- A partial match of phrase 0. -/
def held : Channel := { st := .ripple, paths := [(0, [{}, { live := true }])] }
theorem wit_ArrayModes : (sArr {}).arrMics 0 = 0 ∧ (sArr {}).arrMics 1 ≠ 0 ∧ (sArr {}).rbit (Reg.ACF_Aa_CFG 1) 3 = true ∧
    (withRegs [(Reg.ACF_Aa_CFG 1, 0x30000)] (sArr {})).rbit (Reg.ACF_Aa_CFG 1) 3 = false ∧ bitsAt (0x8 : Word).toNat 2 2 = 2 ∧
    bitsAt (0xC : Word).toNat 2 2 = 3 ∧ bitsAt (0x4 : Word).toNat 2 2 < 2 ∧ ((sArr {}).arr 1).pending = none ∧
    ((sArr { mode := 2, pending := some { mode := 1 } } held).arr 1).pending = some { mode := 1 } ∧
    ((sArr { mode := 2, pending := some { mode := 1 } } held).chan 16385).partial_ = true ∧ (0 : Dword).toNat < 0 + 2000000000 ∧
    ({} : Channel).partial_ = false ∧ (({ st := .crest, crest := some {} } : Channel).crest.isSome = true) ∧
    ((ran (.acfModeChange 1) (sArr { mode := 2, pending := some { mode := 1 } } held)).arr 1).mode = 2 ∧
    ((ran (.acfModeChange 1) (sArr { mode := 2, pending := some { mode := 1 } })).arr 1).mode = 1 := by decide +kernel

/-! Serial audio ports. -/

/-- Port 1 leads itself: a master with one slot of 16 bits, LEAD 0 and setpoint 4, its mask's slot 0 enabled. -/
def sPort (p : Port) (l : List (Nat × Nat) := []) : State := withRegs ([(Reg.SAP_Pn_CFG 1, 0x11000178), (Reg.SAP_Pn_TIMING 1, 0x04000000),
  (Reg.SAP_Pn_TXMASK 1, 1)] ++ l) { State.reset with structure_ := { audio := [{ port := 1 }] }, ports := [(1, p)] }
def bound (x : PortSlot) : List (Nat × PortSlot) := [(0, { x with bound := some 1 })]
def sends (x : PortSlot) : Port := { running := true, fresh := false, slots := bound x }

theorem wit_AudioPortsStart : (sPort {}).sapUsed 2 = false ∧ (sPort {}).sapUsed 1 = true ∧ (sPort {}).sapLeader 1 = 1 ∧ (sPort {}).sapLeader 2 ≠ 2 ∧
    (sPort {}).sapGroup 1 = [1] ∧ ((sPort {}).port 1).running = false ∧ ((sPort (sends {})).port 1).running = true ∧
    ((sPort (sends {})).port 1).tail = none ∧ bitAt (4 : Word).toNat 2 = true ∧ bitAt (4 : Word).toNat 0 = false ∧ bitAt (1 : Word).toNat 2 = false ∧
    ((ran (.portStart 1 1) (sPort {})).port 1).running = true ∧ (ran (.portStart 1 1) (sPort {})).fld (Reg.SAP_Pn_STATUS 1) 0 3 = 1 ∧
    ((ran (.portStop 1 0) (sPort (sends {}))).port 1).tail.isSome = true := by decide +kernel
theorem wit_AudioFrames : ((sPort { (sends {}) with tail := some 0 }).port 1).tail = some 0 ∧ (sends {}).tail ≠ some 0 ∧
    (sPort (sends {})).sapMaster 1 = true ∧ (sends {}).fresh = false ∧ (sends {}).txShadow = none ∧ (sends {}).bindShadow = [] ∧
    (sPort (sends {})).sapLead 1 ≤ 1 ∧ 0 < (sPort (sends {})).sapSlots 1 ∧ bitAt ((sPort (sends {})).rn (Reg.SAP_Pn_TXMASK 1)) 0 = true ∧
    ((sends { fifo := [(1, -2, false)] }).slot 0).bound = some 1 ∧
    ((sends { fifo := [(1, -2, false)] }).slot 0).fifo.find? (fun e => e.1 == 1) = some (1, -2, false) ∧
    ((sends {}).slot 0).st = .idle ∧ ((sends {}).slot 0).fifo = [] ∧
    bitAt ((sPort (sends {}) [(Reg.SAP_Pn_TXMASK 1, 0)]).rn (Reg.SAP_Pn_TXMASK 1)) 0 = false ∧
    (sPort (sends {})).rbit (Reg.SAP_Pn_CTRL 1) 0 = false := by decide +kernel
/-- The sample −2 goes out as the word FFFEH in its frame (R334). -/
theorem test_frame : ((ran (.portFrame 1 []) (sPort (sends { fifo := [(1, -2, false)] }))).port 1).wire = [some 0xFFFE] := by decide +kernel
theorem test_fifo_error : ((ran (.portFrame 1 []) (sPort (sends { fifo := [(1, -2, false)], bad := [1] }))).port 1).wire = [some 0] ∧
    (ran (.portFrame 1 []) (sPort (sends { fifo := [(1, -2, false)], bad := [1] }))).rn Reg.RPL_AON_UE = 1 := by decide +kernel
theorem test_stop : (ran (.portStopComplete 1) (sPort { (sends { fifo := [(1, -2, false)] }) with tail := some 0 })).rn (Reg.SAP_Pn_TX_DROP 1) = 1 := by
  decide +kernel
theorem wit_AudioSamples : ((sends {}).boundTo 1 = none ∧ ((sends {}).boundTo 0).isSome = true) ∧ ({ slots := bound {} } : Port).running = false ∧
    ({ (sends {}) with tail := some 3 } : Port).tail.isSome = true ∧
    (∀ a, a = max (0 + (sPort (sends {})).sapSetpoint 1) ((sPort (sends {})).sapLead 1) → a = 4 ∧ 0 < a ∧ a < 0 + 256) ∧
    (((sends { next := some 255 }).slot 0).next.map (fun j => j + 0)).getD 0 < 0 + 256 ∧
    0 + 256 ≤ (((sends { next := some 255 }).slot 0).next.map (fun j => j + 1)).getD 0 ∧
    (((sends { next := some 0 }).slot 0).next.map (fun j => j + 0)).getD 4 ≤ 0 ∧ (sends {}).fresh = false ∧ (sPort {}).sapFrame 1 = 0 ∧
    ((ran (.slotSampleArrival 1 0 0 40000 false) (sPort (sends {}))).port 1).slots = bound { next := some 5, fifo := [(4, 32767, false)] } := by
  simp only [forall_eq]; decide +kernel
def steered (n : Nat) : Port := { (sends {}) with steerN := n, steerSum := 80 }
def sSteer (p : Port) (gain : Nat := 2) : State := { sPort p [(Reg.SAP_Pn_STEER 1, 0x8000 + gain)] with streams := [(1, { st := .active })] }
theorem wit_AudioSteering : 2 ^ max 4 (min 12 ((sSteer {}).fld (Reg.SAP_Pn_STEER 1) 6 4)) = 16 ∧ (steered 15).steerN < 16 ∧ 16 ≤ (steered 16).steerN ∧
    (sSteer {}).rbit (Reg.SAP_Pn_STEER 1) 15 = true ∧ (sPort {} [(Reg.SAP_Pn_STEER 1, 0)]).rbit (Reg.SAP_Pn_STEER 1) 15 = false ∧
    (sSteer (steered 16)).refLive 1 = true ∧ (sPort (steered 16)).refLive 1 = false ∧ (steered 16).steerUnder = false ∧
    (sSteer (steered 16)).rbit (Reg.SAP_Pn_CTRL 1) 1 = false := by decide +kernel
/-- A mean level of 5 at setpoint 4 with GAIN 2 moves the trim by 2, and by 3,200 at the least (R337). -/
theorem test_steer : ((ran (.steerUpdate 1) (sSteer (steered 16))).port 1).trim = 2 ∧
    ((ran (.steerUpdate 1) (sSteer { steered 16 with trim := 3199 })).port 1).trim = 3200 := by decide +kernel
/-- 256 frames in 32 ms are 8 kHz. -/
def sRate (v : Nat) : State := sPort { (sends {}) with rateRun := some 32000000 } [(Reg.SAP_Pn_RATE 1, v)]
theorem wit_AudioRates : ((sPort {}).port 1).rateRun = none ∧ min 0xFFFFF (256 * 16 * 10 ^ 9 / 32000000) = 128000 ∧ rateClass 32000000 = 1 ∧
    (rateClass 32000000 = (sRate 0x11F400).fld (Reg.SAP_Pn_RATE 1) 20 4 ∧
      200 * ((128000 : Int) - ((sRate 0x11F400).fld (Reg.SAP_Pn_RATE 1) 0 20 : Int)).natAbs ≤ (sRate 0x11F400).fld (Reg.SAP_Pn_RATE 1) 0 20) ∧
    rateClass 32000000 ≠ (sRate 0).fld (Reg.SAP_Pn_RATE 1) 20 4 ∧
    (sRate 0x11F000).fld (Reg.SAP_Pn_RATE 1) 0 20 < 200 * ((128000 : Int) - ((sRate 0x11F000).fld (Reg.SAP_Pn_RATE 1) 0 20 : Int)).natAbs ∧
    (ran (.rateMeasure 1) (sRate 0)).rn (Reg.SAP_Pn_RATE 1) = 0x11F400 := by decide +kernel
theorem wit_AudioSync : (sPort (sends {})).sapMaster 1 = true ∧ (sPort (sends {}) [(Reg.SAP_Pn_CFG 1, 0x1000178)]).sapMaster 1 = false ∧
    (sends {}).noSync = false ∧ ({ (sends {}) with noSync := true } : Port).noSync = true ∧
    (ran (.syncLost 1) (sPort (sends {}) [(Reg.SAP_Pn_CFG 1, 0x1000178)])).fld (Reg.SAP_Pn_STATUS 1) 0 3 = 4 := by decide +kernel

/-! Placement. -/

/-- Stream 1, whose step waits as an item of cluster 0 with a row queued, and stream 2, whose item runs. -/
def sItems (i : Item) (r : Option StepRun) (run : List Item := []) : State := { one { st := .active, queue := queue2, step := r } with
  streams := [(1, { st := .active, graph := 3, cluster := some 0, queue := queue2, step := r }),
              (2, { st := .active, graph := 3, cluster := some 0, step := some {} })]
  place := { items := { i with handle := 1 } :: run } }
def runs (cls : Nat) : List Item := [{ handle := 2, running := true, cls := cls }]
def urgent6 : Item := { cls := 6, urgentSince := some 1 }

theorem wit_ItemsStart : (State.reset.awake 0 = false ∧ (sItems {} none).awake 0 = true) ∧
    (sItems {} none).place.items.filter (fun i => i.cluster == 1 && (sItems {} none).startable i) = [] ∧
    (∀ l, l = (sItems urgent6 none (runs 6)).place.items.filter (fun i => i.cluster == 0 && (sItems urgent6 none (runs 6)).startable i) →
      firstItem l = some { urgent6 with handle := 1 } ∧ (sItems urgent6 none (runs 6)).runningOn 0 = runs 6 ∧ itemVictim (runs 6) = none) ∧
    itemVictim ((sItems urgent6 none (runs 5)).runningOn 0) = some { handle := 2, running := true, cls := 5 } ∧
    (urgent6.urgent = true ∧ ({} : Item).urgent = false) ∧
    (∀ l, l = (sItems {} (some { yielded := true })).place.items.filter (fun i => i.cluster == 0 && (sItems {} (some { yielded := true })).startable i) →
      firstItem l = some { handle := 1 }) ∧ ((sItems {} (some { yielded := true })).wk 0).saved = [] ∧
    (∀ l, l = (sItems {} none).place.items.filter (fun i => i.cluster == 0 && (sItems {} none).startable i) → firstItem l = some { handle := 1 }) ∧
    ((sItems {} none).strm 1).step = none ∧ (sItems {} none).graphOf 3 = some { id := 3 } := by simp only [forall_eq]; decide +kernel
def waiting (p : PendAdmit) : State := { sChan { st := .crest, crest := some {} } with place := { pend := [p] } }
theorem wit_PreemptionsLand : ((active []).strm 1).victim = false ∧ (active []).place.pend = [] ∧
    (waiting { src := .crest 5, cluster := 2, victims := [1] }).place.pend = [{ src := .crest 5, cluster := 2, victims := [1] }] ∧
    ((waiting { src := .crest 5, cluster := 2, victims := [1] }).strm 1).cluster ≠ some 2 ∧
    (one { st := .active, victim := true }).place.pend = [] ∧ ((one { st := .active, victim := true }).strm 1).victim = true ∧
    ((one { st := .active, victim := true }).strm 1).step = none ∧ ((one { st := .active, victim := true }).strm 1).cluster = some 0 ∧
    ((ran (.preemptPlace 1) (one { st := .active, victim := true })).strm 1).st = .swapped := by decide +kernel
/-- AGE_STEP 4 and no gating; a part with one item. -/
def sAge (i : Item) (gate : Nat := 0) : State := { State.reset with structure_ := { prio := { ageStep := 4, gateDelay := gate } }, place := { items := [i], agingTicks := 7 } }
theorem wit_ItemsAge : (sAge {}).structure_.prio.gateDelay = 0 ∧ (∀ i ∈ (sAge { cls := 4 }).place.items, i.cls < 5 ∧ i.urgentSince = none) ∧
    ((sAge { cls := 5, age := 3 }).ageStep ≤ 3 + 1 ∧ (sAge {}).awake 0 = false) ∧ (7 : Nat) ≤ (sAge {}).place.agingTicks ∧
    ((ran .agingTick (sAge { cls := 4, age := 2 })).place.items.map (fun i => (i.cls, i.age))) = [(4, 3)] ∧
    ((ran .agingTick (sAge { cls := 5, age := 3 })).place.items.map (fun i => (i.cls, i.urgentSince))) = [(6, some 8)] := by decide +kernel
def sGate (idle : Nat) : State := withRegs [(Reg.PLC_AWAKE, 2)] { State.reset with structure_ := { prio := { gateDelay := 3 } }, place := { idle := [(1, idle)] } }
theorem wit_RegionsGateAndWake : (sGate 2).streams = [] ∧ (sGate 2).place.items = [] ∧ (sGate 2).rbit Reg.PLC_AWAKE 1 = true ∧ (sGate 2).regionIdle 1 = true ∧
    3 ≤ AMap.read (fun _ => 0) (sGate 2).place.idle 1 + 1 ∧ (ran .agingTick (sGate 1)).rbit Reg.PLC_AWAKE 1 = true ∧
    (ran .agingTick (sGate 2)).rbit Reg.PLC_AWAKE 1 = false ∧
    (State.reset.place.waking.contains 1 = false) ∧ ({ State.reset with place := { waking := [1] } } : State).place.waking.contains 1 = true ∧
    (({ State.reset with pwr := { dies := [(0, { night := true })] } } : State).die 0).night = true ∧ (State.reset.die 0).night = false ∧
    State.reset.regionStreams 1 = [] ∧
    (ran (.regionWakeComplete 1) { State.reset with place := { waking := [1] } }).rbit Reg.PLC_AWAKE 1 = true := by decide +kernel

/-! The Erg fabric. -/

/-- Port 3 shows a STATUS; the fabric shows a state. -/
def sErg (st erg : Nat) (p : ErgPort := {}) (f : Fabric := {}) (l : List (Nat × Nat) := []) : State :=
  withRegs ([(Reg.ERG_Pn_STATUS 3, st), (Reg.ERG_STATUS, erg)] ++ l) { State.reset with fab := { f with ports := [(3, p)] } }
theorem wit_ErgPortsTrain : (sErg 0 0).portState 3 ≠ 1 ∧ (sErg 1 0).portState 3 = 1 ∧ bitsAt (0xF7 : Byte).toNat 0 4 ≠ 15 ∧
    bitsAt (0x0F : Byte).toNat 0 4 = 15 ∧ (sErg 2 0).portState 3 = 2 ∧ ((sErg 2 0 { own := some {} }).eport 3).own = some {} ∧
    ({} : ErgPort).own = none ∧ ({} : ErgPort).peer = none ∧ ({} : ErgPort).rateTry ≤ 2 ∧
    ((ran (.ergPortTrain 3 0x07) (sErg 1 0 { fails := 2 })).eport 3) = { rateTry := 1 } ∧
    (ran (.ergPortTrain 3 0x0F) (sErg 1 0)).portState 3 = 2 := by decide +kernel
theorem wit_ErgPortsAuthenticate : ((sErg 2 0 { own := some {}, peer := some {} } {} [(Reg.ERG_CTRL, 1)]).checkPeer {} {} []).1 = true ∧
    ((sErg 2 0 { own := some {}, peer := some {} } {} [(Reg.ERG_CTRL, 5)]).checkPeer {} {} []).1 = false ∧
    ((sErg 2 0 { own := some {}, peer := some {} }).eport 3).peer = some {} ∧ (sErg 2 0).ergState = 0 ∧
    (ran (.ergProof 3 []) (sErg 2 0 { own := some {}, peer := some {} } {} [(Reg.ERG_CTRL, 1)])).portState 3 = 3 ∧
    (ran (.ergProof 3 []) (sErg 2 0 { own := some {}, peer := some {} } {} [(Reg.ERG_CTRL, 5)])).portState 3 = 4 := by decide +kernel
theorem wit_ErgPortsRekey : (sErg 0x83 0 { own := some {}, peer := some {}, rekey := true }).secureUp 3 = true ∧
    ((sErg 0x83 0 { own := some {}, peer := some {}, rekey := true } {} [(Reg.ERG_CTRL, 1)]).checkPeer {} {} []).1 = true ∧
    ((sErg 0x83 0 { own := some {}, peer := some {}, rekey := true } {} [(Reg.ERG_CTRL, 5)]).checkPeer {} {} []).1 = false ∧
    (sErg 3 0).secureUp 3 = false ∧ ((sErg 0x83 0).eport 3).rekey = false ∧
    (ran (.ergProof 3 []) (sErg 0x83 0 { own := some {}, peer := some {}, rekey := true } {} [(Reg.ERG_CTRL, 5)])).portState 3 = 4 := by
  decide +kernel
theorem wit_ErgPortsFall : (sErg 3 0).portState 3 = 3 ∧ (sErg 3 0).rbit (Reg.ERG_Pn_STATUS 3) 7 = false ∧ (sErg 0x83 0).portState 3 = 3 ∧
    (sErg 0x83 0).rbit (Reg.ERG_Pn_STATUS 3) 7 = true ∧ (sErg 3 0 { badReplays := 8 }).downDue 3 .replay = false ∧
    (sErg 3 0 { badReplays := 9 }).downDue 3 .replay = true ∧ (sErg 3 0 { missed := 2 }).downDue 3 .hello = false ∧
    (sErg 3 0 { missed := 3 }).downDue 3 .hello = true ∧ (sErg 3 0).downDue 3 .align = true ∧ (sErg 0 0).portState 3 = 0 ∧
    (sErg 0 0 {} {} [(Reg.ERG_Pn_CFG 3, 1), (Reg.ERG_CTRL, 1)]).rbit (Reg.ERG_Pn_CFG 3) 0 = true ∧
    (sErg 0 0 {} {} [(Reg.ERG_Pn_CFG 3, 0), (Reg.ERG_CTRL, 1)]).rbit (Reg.ERG_Pn_CFG 3) 0 = false ∧
    (sErg 0 0 {} {} [(Reg.ERG_CTRL, 1)]).rbit Reg.ERG_CTRL 0 = true ∧ State.reset.rbit Reg.ERG_CTRL 0 = false ∧
    ((ran (.ergPortDown 3 .hello) (sErg 3 0 { missed := 3, keys := 2 })).eport 3) = { keys := 2 } ∧
    ((ran (.flitReceive 3 true false) (sErg 0x83 0)).eport 3).badReplays = 1 ∧ ((ran (.flitReceive 3 true false) (sErg 3 0)).eport 3).rxFlits = 1 := by
  decide +kernel
/-- An advertisement of identity 9 with sequence number 5 is held since 1 ms. -/
def held9 : Member := { lsa := { ident := 9, seq := 5 }, at_ := 1000000 }
def sHeld9 (tb : Nat) (erg : Nat := 2) : State := { sErg 3 erg {} { db := [held9] } with tb := BitVec.ofNat 64 tb }
theorem wit_FabricMembers : (sErg 0 0).ergState = 0 ∧ (sErg 0 1).ergState = 1 ∧ (sErg 0 2).ergState = 2 ∧ (sErg 0 3).ergState = 3 ∧
    bitAt (0 : Word).toNat 0 = false ∧ bitAt (3 : Word).toNat 0 = true ∧ bitAt (3 : Word).toNat 1 = true ∧ bitAt (1 : Word).toNat 1 = false ∧
    (sErg 0 0).fab.db = [] ∧ (sErg 0 0).fab.reqs = [] ∧ (∀ n < 16, (sErg 0 0).portUp n = false) ∧ (sErg 3 2).portUp 3 = true ∧
    (sErg 3 2).ident = 0 ∧ (sHeld9 0).fab.db.find? (fun m => m.lsa.ident == 9) = some held9 ∧ seqNewer 6 5 = true ∧ seqNewer 5 5 = false ∧
    seqNewer 4 (2 ^ 32 - 1) = true ∧ (sHeld9 0).fab.db.find? (fun m => m.lsa.ident == 8) = none ∧
    held9.at_.toNat + 4000000 ≤ (sHeld9 5000000).tb.toNat ∧ (sHeld9 4999999).tb.toNat < held9.at_.toNat + 4000000 ∧
    (ran (.memberStale 9) (sHeld9 5000000 0)).fab.db = [] ∧ (ran .lsaFlood (sErg 3 2)).fab.seq = 1 := by decide +kernel

/-- Window 0 grants function 1 reads and writes of 4 KiB at 0x4000. -/
def sWin : State := sErg 3 2 {} {} [(Reg.ERG_WINw_BASE_LO 0, 0x4000), (Reg.ERG_WINw_SIZE 0, 1), (Reg.ERG_WINw_CFG 0, 0x17)]
def remote (w : Bool) (a n : Nat) : RemReq := { id := 4, fn := 1, write := w, addr := a, len := n, data := if w then List.replicate n 7 else [] }
def grantsIt (r : RemReq) : Bool := fabricRange r.addr r.len && (List.range 16).any (fun w => sWin.winGrants w r)
theorem wit_RemoteAccess : sWin.ergState = 2 ∧ (sErg 3 1).ergState ≠ 2 ∧ grantsIt (remote true 0x4FC0 64) = true ∧ grantsIt (remote true 0x4FC0 128) = false ∧
    grantsIt { remote true 0x4000 64 with fn := 2 } = false ∧ grantsIt (remote false 0x4000 64) = true ∧
    ((remote true 0x4FC0 64).addr % 64 = 0 ∧ (remote true 0x4FC0 64).len % 64 = 0 ∧ (remote true 0x4FC0 64).len = (remote true 0x4FC0 64).data.length ∧
      (remote true 0x4FC0 64).len ≠ 0) ∧
    (ran (.remoteRequest 5 (remote true 0x4FC0 64)) sWin).byte 0x4FFF = 7 ∧
    (ran (.remoteRequest 5 (remote true 0x4FC0 128)) sWin).rn Reg.ERG_REM_REJ = 1 := by decide +kernel
/-- A read of context 0 of engine 96 is outstanding. -/
def sAsked (r : RemReq) : State := { moving xMove with fab := { reqs := [{ r with id := 4, engine := 768 }] } }
theorem wit_RemoteAnswers : (sAsked {}).fab.reqs.find? (fun r => r.id == 5) = none ∧
    (sAsked {}).fab.reqs.find? (fun r => r.id == 4) = some { id := 4, engine := 768 } ∧ ({} : RemReq).retried = false ∧
    (sAsked { retried := true }).fab.reqs.find? (fun r => r.id == 4) = some { id := 4, engine := 768, retried := true } ∧
    ((ran (.remoteResponse 4 8 {}) (sAsked {})).ctx 96 0).map (fun x => x.ended) = some (some 8) ∧
    ((ran (.remoteResponse 4 1 { bytes := [9], zeros := [0] }) (sAsked { len := 1 })).ctx 96 0).map (fun x => (x.zeroed, x.got)) = some (1, [(0, [9])]) ∧
    ((ran (.remoteRequestTimeout 4) (sAsked { retried := true })).ctx 96 0).map (fun x => x.ended) = some (some 5) := by decide +kernel
/-- Port 3 leads to identity 9, which is on a locked PPS source. -/
def sSync : State := withRegs [(Reg.TCK_CTRL, 2)] (sErg 3 2 { peer := some { ident := 9 } } { db := [{ lsa := { ident := 9, gmOk := true } }] })
theorem wit_Sync : sSync.tckSrc = 2 ∧ (sErg 3 2).tckSrc ≠ 2 ∧ sSync.ergState = 2 ∧ sSync.rbit Reg.ERG_STATUS 5 = false ∧ sSync.rbit Reg.ERG_STATUS 6 = false ∧
    (sErg 3 0x22).rbit Reg.ERG_STATUS 5 = true ∧ sSync.anyPlane = false ∧ sSync.syncPort = some 3 ∧ (sErg 3 2).syncPort ≠ some 3 ∧
    (∀ d : Int, d = (((30 : Dword).toNat : Int) - (10 : Dword).toNat) - (((50 : Dword).toNat : Int) - (40 : Dword).toNat) → d = 10 ∧ d % 2 = 0) ∧
    (ran (.syncExchange 3 10 30 40 50) sSync).rn (Reg.ERG_Pn_SYNC_OFS 3) = 80 := by simp only [forall_eq]; decide +kernel

/-! Slots and quotes. -/

/-- A slot request: operation, target and signer, the key of the seed of 32 zero bytes, and a signature (Table 19-3). -/
def slotReq (op target signer sig : Nat) : List Byte := ascii "SLOTCHNG" ++ leBytes 4 0x48582448 ++ List.replicate 52 0 ++
  leBytes 1 op ++ leBytes 1 target ++ leBytes 1 signer ++ [0] ++ key0 ++ List.replicate 28 0 ++ leBytes 64 sig
/-- The key's signature of the SHA-512 of the first 128 bytes of a CLAIM of slot 1. -/
def claimSig : Nat := 822315432737234196964858798987606796588598351409785624225518827531066046048435855906467142486573515028601767001525243006373592304567590975281299238357503
def sSlotReq (r : List Byte) (prog : Option SlotProg := none) : State :=
  withRegs [(Reg.SEC_REQ_ADDR_LO, 0x4000000), (Reg.SEC_STATUS, b2n prog.isSome)]
    { holding 0x4000000 r with sec := { prog := prog } }
def reqRead (s : State) : Rd := s.readData (s.oasLoc 18 0) (s.pair Reg.SEC_REQ_ADDR_LO) 192
def reqOp (s : State) : Nat := leVal (slice (reqRead s).bytes 64 1)
def asked (s : State) : Option Nat := (reqRead s).st.requestFormat (reqRead s).bytes

theorem wit_SlotsAndQuotes : (sSlotReq [] (some {})).rbit Reg.SEC_STATUS 0 = true ∧ (sSlotReq []).rbit Reg.SEC_STATUS 0 = false ∧
    (reqOp (sSlotReq (slotReq 1 1 0 0)) = 1 ∧ reqOp (sSlotReq (slotReq 2 1 0 0)) = 2 ∧ reqOp (sSlotReq (slotReq 3 1 0 0)) = 3 ∧
      reqOp (sSlotReq []) = 0) ∧ asked (sSlotReq []) = some 1 ∧ asked (withRegs [(Reg.SEC_NONCEi 7, 1)] (sSlotReq (slotReq 3 1 0 0))) = some 2 ∧
    asked (sSlotReq (slotReq 1 1 2 0)) = none ∧ ((sSlotReq (slotReq 1 1 2 0)).requestRules (slotReq 1 1 2 0)).1 = some 3 ∧
    ((sSlotReq []).sec.prog = none ∧ (sSlotReq [] (some {})).sec.prog = some {} ∧ State.reset.sec.warmDue = false ∧ State.reset.sec.dieDue = 0) ∧
    ((withRegs [(Reg.SEC_STATUS, 4)]).rbit Reg.SEC_STATUS 2 = true ∧ State.reset.rbit Reg.SEC_STATUS 2 = false) ∧
    (ran .slotFill (sSlotReq [])).fld Reg.SEC_STATUS 16 8 = 1 ∧ idle .slotRevoke (sSlotReq []) = true ∧
    (ran .quote State.reset).rbit Reg.SEC_STATUS 2 = true := by decide +kernel
/-- A CLAIM whose signature verifies passes every check and begins its programming. -/
theorem wit_SlotsAndQuotes_claim : asked (sSlotReq (slotReq 3 1 0 claimSig)) = none ∧
    ((sSlotReq (slotReq 3 1 0 claimSig)).requestRules (slotReq 3 1 0 claimSig)).1 = none ∧
    (reqRead (sSlotReq (slotReq 3 1 0 claimSig))).bytes = slotReq 3 1 0 claimSig ∧
    (ran .slotClaim (sSlotReq (slotReq 3 1 0 claimSig))).sec.prog = some { op := 3, target := 1, key := key0 } := by decide +kernel
/-- Programmed slots: slot 1 holds one VALID generation. -/
def filled : List SlotGen := [{ key := key0, complete := true }]
theorem wit_SlotsAndQuotes_prog : ∀ s, s = ({ State.reset with sec := { slots := [(1, filled)], prog := some { op := 2, target := 1 } } } : State) →
    s.sec.prog = some { op := 2, target := 1 } ∧ s.slotState 1 = 1 ∧ s.slotState 2 = 0 ∧
    programSlot filled { op := 2, target := 1 } true false = [{ key := key0, complete := true, revoked := true }] ∧
    programSlot filled { op := 2, target := 1 } false false = filled ∧ (programSlot [] { op := 3 } false true).length = 1 ∧
    programSlot filled { op := 1, key := [9] } true false =
      [{ key := key0, complete := true, revoked := true }, { key := [9], complete := true }] := by
  simp only [forall_eq]; decide +kernel

/-! Sandglass. -/

/-- The island is powered; a tap's residue is 5, and three records were made, of which the last is held. -/
def sMeter : State := { State.reset with meter := { powered := true, residues := [(tapKey 3 2 1 false, 5)], nextSeq := 3, mirrorNext := 2,
                                                    ring := [{ seq := 2, bytes := ascii "RECORD" }] } }
def mirrored (l : List (Nat × Nat) := []) (s : State := sMeter) : State := withRegs ([(Reg.MMR_CTRL, 1), (Reg.MMR_SIZE, 16)] ++ l) s
theorem wit_MeterCountsEndsPeriodsAndAnswers : State.reset.meter.powered = false ∧ sMeter.meter.powered = true ∧ sMeter.halted = false ∧
    (sMeter.residue (tapKey (3 : Fin 203) (2 : Fin 64) (1 : Fin 4) false) = 5 ∧ State.reset.residue (tapKey (3 : Fin 203) (2 : Fin 64) (1 : Fin 4) false) = 0) ∧
    (sMeter.meter.sealOpen = false ∧ ({ sMeter.meter with sealOpen := true } : Meter).sealOpen = true) ∧
    (State.reset.rbit Reg.MMR_CTRL 0 = false ∧ (mirrored).rbit Reg.MMR_CTRL 0 = true ∧ (mirrored).meter.mirrorNext < (mirrored).meter.nextSeq ∧
      (mirrored).meter.ring.find? (fun r => r.seq == (mirrored).meter.mirrorNext) = some { seq := 2, bytes := ascii "RECORD" } ∧
      (mirrored [] { sMeter with meter := { sMeter.meter with mirrorNext := 1 } }).meter.ring.find? (fun r => r.seq == 1) = none) ∧
    ((mirrored).mmrLog = 16 ∧ (mirrored).hostOk (hostWindow + (mirrored).pair Reg.MMR_BASE_LO) (2 ^ 16) = true ∧
      ((mirrored).reg Reg.MMR_HEAD - (mirrored).reg Reg.MMR_TAIL).toNat + (ascii "RECORD").length ≤ 2 ^ 16 ∧
      2 ^ 16 < ((mirrored [(Reg.MMR_HEAD, 65531)]).reg Reg.MMR_HEAD - (mirrored [(Reg.MMR_HEAD, 65531)]).reg Reg.MMR_TAIL).toNat + (ascii "RECORD").length ∧
      (mirrored [] { sMeter with cond := { hostFail := [0] } }).hostOk (hostWindow + (mirrored).pair Reg.MMR_BASE_LO) (2 ^ 16) = false) ∧
    (sMeter.meter.ring.find? (fun x => x.seq == 2) = some { seq := 2, bytes := ascii "RECORD" } ∧ sMeter.meter.ring.find? (fun x => x.seq == 9) = none) ∧
    (ran (.tallyResidueTimeout 3 2 1 false) sMeter).meterCnt 2 = { chan := 5 } ∧
    ((ran .mirrorCopy (mirrored [(Reg.MMR_HEAD, 65533), (Reg.MMR_TAIL, 65533)])).bytes hostWindow 3 = ascii "ORD" ∧
      (ran .mirrorCopy (mirrored)).rn Reg.MMR_HEAD = 6) ∧
    (ran .inspectorBadFrame sMeter).resp.bytes.take 7 = [0xA5, 0xFF, 1, 0, 0, 0, 1] := by decide +kernel
/-- A power-up's first record: START, SEQ 0, meter time 0, 192 bytes. -/
theorem test_meter_start : ∀ r, r = ((ran (.meterPowerUp 1 false) State.reset).meter.ring.getD 0 {}) →
    r.bytes.length = 192 ∧ leVal (slice r.bytes 8 4) = 192 ∧ leVal (slice r.bytes 12 1) = 0 ∧ r.seq = 0 := by
  simp only [forall_eq]; decide +kernel

/-! Errors. -/

/-- Die 1, unit 7. -/
def locDie1 : Word := 0x00020007
def w0 : ErrWin := { cls := 3, code := 0x21, loc := 0x20007, tb := 0, region := 4, count := 1 }
def sErr (tb : Nat) (rw pw : List ErrWin) (l : List (Nat × Nat) := []) (e : Errors := {}) : State :=
  withRegs ([(Reg.ERR_BASE_LO, 0x4000000)] ++ l) { State.reset with
    tb := BitVec.ofNat 64 tb
    errs := { e with
      regionWins := rw
      packageWins := pw } }
def keeps (s : State) : Bool := s.rbit Reg.ERR_CFG 0 && s.errOpen != 1024 && (List.range 4).any (fun d => placeOf (s.pair Reg.ERR_BASE_LO) == .dram d) &&
  inOnePlace (s.pair Reg.ERR_BASE_LO) 32
def sPar : State := { State.reset with
  streams := [(2, { step := some {} })]
  host := { State.reset.host with fetched := [{ fn := 1, sq := 0, desc := 0 }] } }
theorem wit_ErrorsMergeIntoRecords :
    (bitsAt locDie1.toNat 17 3 = 1 ∧ bitsAt locDie1.toNat 17 3 * 4 + bitsAt locDie1.toNat 15 2 = w0.region ∧ bitsAt (0x00080000 : Word).toNat 17 3 = 4) ∧
    (w0.same { cls := 3, code := 0x21, loc := locDie1.toNat, tb := 1000, region := 4 } = true ∧ (sErr 1000 [w0] []).tb.toNat ≤ w0.tb + 1000 ∧
      w0.tb + 1000 < (sErr 1001 [w0] []).tb.toNat ∧ w0.same { cls := 3, code := 0x22, loc := locDie1.toNat, region := 4 } = false) ∧
    ((sErr 0 [] []).rbit Reg.SNP_CFG 3 = false ∧ (sErr 0 [] [] [(Reg.SNP_CFG, 8)]).rbit Reg.SNP_CFG 3 = true ∧
      (sErr 1000 [w0] []).knownEvent w0 = true ∧ (sErr 0 [] []).knownEvent w0 = false ∧
      (sErr 0 [] []).snap.held.isNone = true ∧ (sErr 0 [] []).snap.pending.isNone = true) ∧
    (w0.tb + 1000 ≤ (sErr 1000 [w0] []).tb.toNat ∧ (sErr 999 [w0] []).tb.toNat < w0.tb + 1000 ∧ w0.tb + 2500 ≤ (sErr 2500 [] [w0]).tb.toNat ∧
      (sErr 2499 [] [w0]).tb.toNat < w0.tb + 2500) ∧
    (keeps (sErr 0 [] [] [(Reg.ERR_CFG, 1)]) = true ∧ keeps (sErr 0 [] []) = false ∧ keeps (sErr 0 [] [] [(Reg.ERR_CFG, 1), (Reg.ERR_HEAD, 1024)]) = false) ∧
    ((sErr 0 [] [] [(Reg.ERR_CFG, 2)]).rbit Reg.ERR_CFG 1 = true ∧ (sErr 0 [] []).errs.mirrorStopped = false ∧
      (sErr 0 [] []).hostOk hostWindow 32 = true ∧ ({ State.reset with cond := { hostFail := [0] } } : State).hostOk hostWindow 32 = false) ∧
    ((sErr 0 [] [] [(Reg.ERR_CLASS_INT, 8)]).rbit Reg.ERR_CLASS_INT 3 = true ∧ ((sErr 0 [] []).mod 2).running = false) ∧
    ((ran (.errorReport 3 0x21 locDie1 0 0) (sErr 1000 [w0] [])).errs.regionWins.map (fun w => w.count) = [2] ∧
      (ran (.errorReport 3 0x21 locDie1 0 0) (sErr 1001 [w0] [])).errs.regionWins.map (fun w => w.count) = [1, 1] ∧
      (ran (.regionWindowClose 4) (sErr 1000 [w0] [])).errs.packageWins.map (fun w => w.count) = [1] ∧
      (ran .packageWindowClose (sErr 2500 [] [w0] [(Reg.ERR_CFG, 1)])).rn Reg.ERR_HEAD = 1 ∧
      (ran .packageWindowClose (sErr 2500 [] [w0])).pair Reg.ERR_OVERFLOW_LO = 1) ∧
    (State.reset.readers = 0 ∧ sPar.turnCmds.length = 1 ∧ sPar.strm 2 = { step := some {} } ∧ sPar.readers = 2 ∧
      ((sPar.endReader 1).run 2).status = [6] ∧ (sPar.endReader 0).host.fetched = []) := by decide +kernel

/-! Snapshots. -/

/-- A snapshot is pending for the instant 5, with a number. -/
def x5 (late : Bool := false) : Trigger := { t := 5, num := 3, source := 2, late := late }
def sSnap (tb : Nat) (n : Snap := {}) (l : List (Nat × Nat) := []) : State :=
  withRegs l { State.reset with
    tb := BitVec.ofNat 64 tb
    snap := n }
theorem wit_SnapshotsAreTriggeredLatchedAndHeld : State.reset.halted = false ∧ State.reset.rbit Reg.SNP_CFG 18 = false ∧
    ((sSnap 0 {} [(Reg.SNP_CFG, 0x40000)]).rbit Reg.SNP_CFG 18 = true ∧ (sSnap 0 {} [(Reg.SNP_CFG, 0x40000)]).rbit Reg.SNP_CFG 19 = false ∧
      (sSnap 0 {} [(Reg.SNP_CFG, 0xC0000)]).rbit Reg.SNP_CFG 19 = true) ∧
    (State.reset.rbit Reg.ERG_CTRL 0 = false ∧ (sSnap 0 {} [(Reg.ERG_CTRL, 1)]).rbit Reg.ERG_CTRL 0 = true ∧
      (sSnap 0 { seen := [3] }).snap.seen.contains (3 : Word).toNat = true ∧ (sSnap 0).snap.seen.contains (3 : Word).toNat = false) ∧
    ((sSnap 4 { pending := some x5 }).tb.toNat < x5.t ∧ x5.t ≤ (sSnap 5 { pending := some x5 }).tb.toNat ∧
      (sSnap 5 { pending := some x5 }).snap.pending = some x5) ∧ (x5 true).late = true ∧
    ((State.reset.die 0).night = false ∧ ((State.reset.setDie 2 { night := true }).die 2).night = true) ∧
    (ran .snapFire (sSnap 7)).snap.pending = some { t := 2007, num := 0, source := 0, late := false } ∧
    (ran (.fabricSnapshotTrigger 9 3) (sSnap 0 { seen := [3] } [(Reg.ERG_CTRL, 1)])).snap.pending = none ∧
    idle (.snapInEdge true) State.reset = true ∧ (ran .snapRelease (sSnap 0 { held := some x5 })).snap.held = none := by decide +kernel

/-! Power. -/

/-- Dies 0 to 3 share a power state, at a time. -/
def sPow (d : DiePower) (tb : Nat := 0) (p : Power := {}) (l : List (Nat × Nat) := []) : State :=
  withRegs l { State.reset with
    tb := BitVec.ofNat 64 tb
    pwr := { p with dies := [(0, d), (1, d), (2, d), (3, d)] } }
theorem wit_PowerIsCapped : State.reset.capNow = 4500 ∧ (4500 < 4501 ∧ ¬ (4500 < 4500) ∧ 4500 * 98 = 4410 * 100 ∧ 4500 * 98 < 4411 * 100) ∧
    (((sPow { freq := 825 }).die 3).night = false ∧ 800 < ((sPow { freq := 825 }).die 3).freq ∧
      ((sPow { freq := 800 }).die 3).freq ≤ 800 ∧ ((sPow { night := true }).die 3).night = true) ∧
    ((sPow {} 0 { capIssue := 8 }).pwr.capIssue = 8 ∧ (sPow {} 0 { capIssue := 7 }).pwr.capIssue < 8) ∧
    ((sPow {} 1000000000 { lastFloor := some 0 }).pwr.lastFloor = some 0 ∧ 0 + 1000000000 ≤ (sPow {} 1000000000).tb.toNat ∧
      (sPow {} 999999999).tb.toNat < 0 + 1000000000) ∧
    ((sPow {} 50000 { lastChange := some 0 }).pwr.lastChange.all (fun c => decide (c + 50000 ≤ (sPow {} 50000).tb.toNat)) = true ∧
      (sPow {} 49999 { lastChange := some 0 }).pwr.lastChange.all (fun c => decide (c + 50000 ≤ (sPow {} 49999).tb.toNat)) = false ∧
      State.reset.pwr.lastChange = none) ∧
    (400 ≤ State.reset.capNow - 4100 ∧ ¬ 400 ≤ State.reset.capNow - 4101 ∧ (State.reset.die 0).temp ≤ 90) ∧
    (((sPow { capFreq := 1475 }).die 0).capFreq < (sPow { capFreq := 1475 }).boostTarget 0) ∧
    ((ran (.powerEstimate 4501) (sPow { freq := 825 })).die 0).freq = 800 ∧ (ran (.powerEstimate 4501) (sPow { freq := 800 })).pwr.capIssue = 1 ∧
    (ran (.powerEstimate 4501) (sPow { freq := 800, capFreq := 800 } 0 { capIssue := 8 })).errs.packageWins.map (fun w => w.code) = [0x43] ∧
    ((ran (.powerEstimate 4410) (sPow { capFreq := 1450 })).die 0).capFreq = 1475 ∧
    ((ran (.powerEstimate 4411) (sPow { capFreq := 1450 })).die 0).capFreq = 1450 := by decide +kernel
theorem wit_PowerIsSensed : ((sPow {} 0 { avsFails := 1 }).pwr.avsFails + 1 < 3 ∧ 3 ≤ (sPow {} 0 { avsFails := 2 }).pwr.avsFails + 1) ∧
    ((sPow {} 0 { avsFault := true }).pwr.avsFault = true ∧ State.reset.pwr.avsFault = false) ∧
    ((∃ x ∈ [109, 110], 110 ≤ x) ∧ (∀ x ∈ [109, 0], x < 110) ∧ 105 ≤ 105 ∧ 104 < 105) ∧ ([50, 60][2]? = none ∧ [50, 60][1]? = some 60) ∧
    (((sPow { temp := 104 }).die 0).temp < 105 ∧ ((sPow { throttling := true }).die 0).throttling = true ∧ (State.reset.die 0).throttling = false) ∧
    (((sPow { thermTb := 5 } 100005).die 0).thermTb + 100000 ≤ (sPow {} 100005).tb.toNat ∧
      ((sPow { thermTb := 5 } 1000005).die 0).thermTb + 1000000 ≤ (sPow {} 1000005).tb.toNat ∧
      (sPow {} 1000004).tb.toNat < ((sPow { thermTb := 5 } 0).die 0).thermTb + 1000000 ∧ ((sPow { thermFreq := 1000 }).die 0).thermFreq < 1650) ∧
    (ran (.thermalSample [110] 0) State.reset).halted = true ∧ (ran (.thermalSample [109] 104) State.reset).halted = false ∧
    ((ran (.thermalSample [100] 0) State.reset).die 0).freq = 1475 ∧ ((ran (.thermalSample [105] 0) State.reset).die 0).issue = 8 ∧
    ((ran (.thermalSample [97] 0) (sPow { thermFreq := 1000 } 1000000)).die 0).thermFreq = 1025 ∧
    ((ran (.thermalSample [98] 0) (sPow { thermFreq := 1000 } 1000000)).die 0).thermFreq = 1000 ∧
    (ran (.avsCurrentRead none) (sPow {} 0 { avsFails := 2 })).rbit Reg.PWR_INT_STATUS 5 = true ∧
    (ran (.avsRetry true) (sPow {} 0 { avsFault := true })).rbit Reg.PWR_STATUS 9 = true := by decide +kernel
theorem wit_DiesSleep : ((State.reset.die 0).night = false ∧ State.reset.dieQuiet 0 = true ∧
      (withRegs [(Reg.PLC_AWAKE, 2)]).dieQuiet 0 = false ∧ (withRegs [(Reg.PLC_AWAKE, 0x10)]).dieQuiet 0 = true) ∧
    (((sPow { night := true }).die 1).night = true ∧ ((sPow { night := true }).die 1).waking = false ∧ ((sPow { waking := true }).die 1).waking = true) ∧
    (100000000 ≤ (sPow {} 100000000).tb.toNat ∧ (sPow {} 100000000).dieQuiet 1 = true ∧
      ((ran (.dieNightEnter 1) (sPow {} 7)).die 1).night = true ∧ (ran (.dieNightEnter 1) (sPow {} 7)).tb = 100000000 ∧
      (ran (.dieNightEnter 1) (sPow {} 100000001)).tb = 100000001 ∧
      placeOf 0x1000000000 = .dram 1 ∧ (((sPow {} 5).touchDie 0x1000000000).die 1).busyTb = 5) ∧ idle (.dieNightEnter 1) (withRegs [(Reg.PLC_AWAKE, 0x10)]) = true ∧
    ((ran (.dieWake 1) (sPow { night := true })).die 1).waking = true ∧
    ((ran (.dieWakeComplete 1) (sPow { night := true, waking := true })).die 1).night = false := by decide +kernel

/-! Resets and the test port. -/

def sPor (b : Bool) (j : JtagInstr := .idcode) : State := { State.reset with pins := { por := b, jtag := j } }
/-- A stream on cluster 0 (die 0) and one of function 2. -/
def sTwo : State := { State.reset with streams := [(1, { st := .active, cluster := some 0 }), (2, { st := .active, fn := 2 })] }
theorem wit_ResetsClearAndKeep : ((sPor true).pins.por = true ∧ State.reset.pins.por = false ∧ State.reset.halted = false) ∧
    (State.reset.sec.prog = none ∧ ({ State.reset with sec := { prog := some {} } } : State).sec.prog ≠ none) ∧
    (State.reset.streams = [] ∧ State.reset.place.pend = [] ∧ State.reset.casc.chans = [] ∧ State.reset.load = none ∧
      State.reset.errs.regionWins = [] ∧ State.reset.errs.packageWins = [] ∧ State.reset.dueFrames = [] ∧ State.reset.casc.arrays = []) ∧
    (State.reset.crestsOn 3 = [] ∧ (∃ e ∈ sTwo.streams, sTwo.onDie 0 e = true) ∧ (∀ e ∈ sTwo.streams, sTwo.onDie 1 e = false)) ∧
    ((∃ e ∈ sTwo.streams, e.2.fn = (2 : Fin 64).val ∧ e.2.st ≠ .closed) ∧ (∀ e ∈ sTwo.streams, e.2.fn ≠ (5 : Fin 64).val) ∧
      (0 : Fin 64).val = 0 ∧ (5 : Fin 64).val ≠ 0) ∧
    (clusterStore (24 * 0) ≤ clusterStore 0 ∧ clusterStore 0 < clusterStore (24 * 0) + 24 * 0x800000) ∧
    (withRegs [(Reg.HQ_MGT_ALERT, 4)]).rbit Reg.HQ_MGT_ALERT 2 = true ∧
    ((ran (.dieReset 1) { State.reset with sec := { prog := some {} } }).sec.dieDue = 0 ∧
      (ran (.dieReset 0x10) { State.reset with sec := { prog := some {} } }).sec.dieDue = 1 ∧
      (ran (.warmReset 1) { State.reset with sec := { prog := some {} } }).sec.warmDue = true) := by decide +kernel
theorem test_function_level_reset : ((ran (.functionLevelReset 2) sTwo).strm 2).st = .closed ∧
    ((ran (.functionLevelReset 2) sTwo).strm 1).st = .active := by decide +kernel
theorem wit_TestInstructionsActOnlyUnderReset : (sPor true).pins.por = true ∧ (sPor false).pins.por = false ∧
    (sPor true .bypass).pins.jtag = .bypass ∧ (sPor true .extest).pins.jtag ≠ .bypass ∧
    (∀ b, ((5 : Nat), b) ∉ ([(3, true), (3, false)] : List (Nat × Bool))) ∧
    (ran (.jtagExtest [(3, true), (4, true), (3, false)]) (sPor true)).pins.cells = [(4, 1)] ∧
    (ran (.jtagExtest [(3, true)]) (sPor false)).pins.jtag = .bypass ∧
    (ran .jtagIdcode State.reset).resp.bytes = [0x4F, 0x8C, 0x44, 0x12] := by decide +kernel
/-- The CRC-32 of "123456789" is the value the polynomial's published check gives (R443 names the CRC). -/
theorem test_crc32 : crc32 (ascii "123456789") = 0xCBF43926 := by decide +kernel

/-! Further witnesses, by statement. -/

/-- A slew of 40 ns at 200 ppm takes 200,000 ns (R28). -/
theorem wit_Offsets_slew : ∀ s, s = withRegs [(Reg.TCK_SLEW, 255)] sSlewing → s.slewLimit = 200 ∧ s.tck.slew = 40 ∧
    (ran .slewComplete s).tb = 200040 ∧ (withRegs [(Reg.TCK_SLEW, 0)] sSlewing).slewLimit = 0 := by simp only [forall_eq]; decide +kernel
/-- A grain-bound operation in unit 0 of cluster 0 and one of another stream in unit 2. -/
def sUnits : State := { sSteps with
  structure_ := { graphs := [gTick, { id := 4 }] }
  streams := [(1, { st := .active, graph := 3, cluster := some 0 }), (2, { st := .active, graph := 4, cluster := some 0, step := some {} })]
  work := [(0, { running := [(0, some { handle := 1 }), (2, some { handle := 2 })] })] }
theorem wit_TickDelivery_yield : sUnits.grainBound 1 = true ∧ sUnits.grainBound 2 = false ∧
    AMap.read (fun _ => none) (sUnits.wk 0).running 0 = some { handle := 1 } ∧
    AMap.read (fun _ => none) ((yieldAll 0 sUnits [0, 1, 2]).wk 0).running 0 = some { handle := 1 } ∧
    AMap.read (fun _ => none) ((yieldAll 0 sUnits [0, 1, 2]).wk 0).running 2 = none := by decide +kernel
/-- The plane of `sSteps` after its grain tick n, given to cluster 0. -/
def sAtTick (n : Nat) (x : Stream := {}) : State := { sSteps with
  tck := { planes := [(2, some { f := 30000, g := 300, n := n + 1, next := 66666, acc := 20000, run := true, given := [(0, n)] })] }
  streams := [(1, { x with st := .active, graph := 3, cluster := some 0 })] }
def row1 : List Chunk := [{ pos := 1, bytes := 1 }]
theorem wit_TickBoundStepsStart_lag :
    (∀ s, s = sAtTick 9 { nextTick := 1, atCurrent := false, queue := row1 } → s.fixTick 1 = s ∧ s.mayStep 1 = true ∧ s.tickHere 1 = true ∧
      s.stepReady 1 = true ∧ 4 < s.tickCount 2 false - (s.strm 1).nextTick ∧
      (((s.resync 1 gTick (s.tickCount 2 false)).fixTick 1).tickReady 1 = false)) ∧
    (∀ s, s = sAtTick 9 { nextTick := 1, atCurrent := false, queue := List.replicate 20 { pos := 1, bytes := 1 } } →
      ((s.resync 1 gTick (s.tickCount 2 false)).fixTick 1).tickReady 1 = true) ∧
    (∀ s, s = sAtTick 9 { atCurrent := true } → (s.strm 1).atCurrent = true ∧ ((s.fixTick 1).strm 1).atCurrent = false ∧
      ((s.fixTick 1).strm 1).nextTick = 9 ∧ (s.fixTick 1).mayStep 1 = true ∧ (s.fixTick 1).tickHere 1 = true ∧
      (s.fixTick 1).stepReady 1 = false) := by simp only [forall_eq]; decide +kernel
theorem wit_LoadsStartAndAbort_device : (∀ g ∈ granulesOf 0x4000 128, (holding 0x4000 imgFull).faulty g = [] ∧
      (holding 0x4000 imgFull).listed g = false ∧ ∀ w ∈ granWords g, (holding 0x4000 imgFull).badBits w = []) ∧
    inOnePlace 0x4000 128 = true ∧ placeOf 0x4000 = .dram 0 ∧
    (∃ g ∈ granulesOf 0x4000 128, ({ State.reset with cond := badAt 0x4040 } : State).granBad g = true) := by decide +kernel
theorem wit_ImagesApply_copied : (copying lDev).copied lDev imgFull ((copying lDev).readImage lDev 320).2.2 ∧
    ({ structureSec := some {} } : Image).reads imgFull = true := by
  refine ⟨⟨rfl, by decide +kernel, _, ?_, fun _ => rfl, fun h => absurd rfl h⟩, by decide +kernel⟩
  exact Prod.ext (by decide +kernel) (Prod.ext (by decide +kernel) rfl)
theorem wit_PoolImages_switch : (sDrain true).switchDue { pool := true, mask := 1, drained := true } = true ∧
    (sDrain false).switchDue { pool := true, mask := 1, drained := false } = false := by decide +kernel
theorem wit_TrainingAndWeights_spot : sWeight.weightDies 7 = [0] ∧ (sWeight.weightSpot 0 64).isSome = true ∧ sWeight.stored 1 7 = none := by
  decide +kernel
theorem wit_TrainingAndWeights_full : ∀ s, s = withRegs [(Reg.DMEM_CH_OK 0, 0)] sWeight → s.weightDies 7 = [0] ∧ s.weightSpot 0 64 = none := by
  simp only [forall_eq]; decide +kernel
/-- TWAIT for the next tick; a push to the bound queue; RBEGIN after a LAST node; a core that grain-bound work wants. -/
theorem wit_Nomad_more : ((core0 0).xr (rs2Of (rType 0 0 5 0 1 0x0B))).toNat = 0 ∧ (core0 0).red.lastFed = false ∧
    ({ core0 0 with red := { lastFed := true } } : Core).red.lastFed = true ∧
    (at4 { sCore (rType 0 0 5 0 0 0x2B) with cores := [(4, { core0 (rType 0 0 5 0 0 0x2B) with red := { lastFed := true } })] } .rbegin
      (rType 0 0 5 0 0 0x2B) = true) ∧
    sFreeCore.coreWanted 1 = false ∧
    (∀ s, s = ({ sFreeCore with
        structure_ := { graphs := [gTick] }
        streams := [(1, { st := .active, graph := 3 }), (2, { st := .active, graph := 3, cluster := some 1, step := some { wait := .kernel } })] } : State) →
      s.coreWanted 1 = true ∧ idle (.nmdResume 4 12) s = true) := by
  refine ⟨by decide +kernel, by decide +kernel, by decide +kernel, by decide +kernel, by decide +kernel, ?_⟩
  rintro s rfl; decide +kernel
/-- A denied item; one that attends for a step with no attention node, one that probes, and one held at a swapped page. -/
def attend : WorkItem := { op := 0, handle := 1, compl := ch33 + 0x1000, param2 := 1 }
def gHold : Graph := { id := 3, nodes := [{ node := .attention (word512 [(24, 0x40)]), ops := [.tensor .dram 0x6000 32] }, { node := .cache dKv }] }
def sHold (kind : Nat) (held : Bool) : State := { one { st := .active, step := some { wait := .items, jobs := 1 }, kv := { list := 0x4000, cap := 8 } } gHold with
  mem := [(0x4003, BitVec.ofNat 8 (kind * 64)), (0x6000, 1), (0x6004, 1), (0x6019, 0x40)]
  cisterns := [(0, { running := some { item := attend, held := held } })] }
theorem wit_CisternItemsStart_more : ({ fill with denied := true } : WorkItem).denied = true ∧ fill.denied = false ∧
    ({ fill with length := 96 } : WorkItem).refuse 33 = some 8 ∧ (sCis [] none).itemHeld attend = false ∧ (sCis [] none).stopped 1 = false ∧
    (sCis [] none).itemStep attend = some 1 ∧ (sHold 2 true).itemStep attend = some 1 ∧ (sHold 2 true).itemHeld attend = true ∧
    (sHold 1 true).itemHeld attend = false ∧ attend.compl % 16 = 0 ∧ (sHold 2 false).itemStep attend = some 1 := by decide +kernel
/-- The pieces that items move lie in cells without error. -/
theorem wit_CisternItemsStart_runs : (∀ p ∈ copyIt.srcRuns ++ copyIt.dstRuns ++ fill.dstRuns ++ scanIt.srcRuns ++ scanIt.dstRuns,
      p.2 ≠ 0 → inOnePlace p.1 p.2 = true ∧ placeOf p.1 ≠ .regs ∧ placeOf p.1 ≠ .host) ∧
    (∀ s, s = sCis [] none → s.cond = {} ∧ ∀ e, (s.cis e).bad = []) := by
  refine ⟨by decide +kernel, ?_⟩
  rintro s rfl
  refine ⟨rfl, fun e => ?_⟩
  show (AMap.read (fun _ => {}) [(33, ({} : Cistern))] e : Cistern).bad = []
  by_cases h : 33 = e
  · subst h; rfl
  · simp [AMap.read, h]
/-- A die's list of 4,096 retired frames is full, and the last granule that a scrub reads. -/
theorem wit_BondedMemory_full : (({ State.reset with retired := (List.range 4096).map (fun i => 2 ^ 22 + i) } : State).retiredOf 1).length = 4096 ∧
    sDmem.lastScrub 1 = 0xC00000000 - 64 ∧ sDmem.listed (ch33 + 64) = false ∧ sDmem.granBad ch33 = false := by decide +kernel
/-- Requests for a work item at 64 and, naming an address in no range, at 96; a scanning block; a kernel that owns nothing. -/
def itemRequest (list : Nat) : List Byte := leBytes 8 list ++ leBytes 2 1 ++ leBytes 2 1 ++ leBytes 4 7 ++ leBytes 8 0 ++ leBytes 8 0
def sItemReq : State := holding 64 (itemRequest 0x1000 ++ itemRequest 0x3000000000000)
def bScan : CarBlock := { blk with mode := 1, cslot := 2 }
theorem wit_TransfersWaitAndStart_more : ((sCore 0).invsOf 1).find? (fun v => v.handle == 1) = some coreInv ∧
    ((sCore 0).invsOf 2).find? (fun v => v.handle == 1) = none ∧ inRanges coreInv.ranges 64 32 = false ∧
    (∀ v, v = leVal (sItemReq.readCtl (sItemReq.carLoc 96) 64 32).bytes → (sItemReq.readCtl (sItemReq.carLoc 96) 64 32).failed = false ∧
      bitsAt v 80 2 = 1 ∧ bitsAt v 82 3 ≤ 4 ∧ bitsAt v 85 11 = 0 ∧ bitsAt v 208 16 = 0 ∧
      ((sItemReq.readCtl (sItemReq.carLoc 96) 64 32).st.readCtl (sItemReq.carLoc 96) (bitsAt v 0 64) 48).failed = false) ∧
    (∀ v, v = leVal (sItemReq.readCtl (sItemReq.carLoc 96) 96 32).bytes → bitsAt v 80 2 = 1 ∧
      ((sItemReq.readCtl (sItemReq.carLoc 96) 96 32).st.readCtl (sItemReq.carLoc 96) (bitsAt v 0 64) 48).failed = true) := by
  refine ⟨by decide +kernel, by decide +kernel, by decide +kernel, ?_, ?_⟩ <;> (rintro v rfl; decide +kernel)
theorem wit_TilesAreHandedOver_more : (moving xMove).noSwap xMove ∧ (moving xMove).noRecords ∧
    (blk.scans = false ∧ bScan.scans = true ∧ xMove.slotHeld.isSome = false ∧ ({ xMove with slotHeld := some 2 } : Xfer).slotHeld.isSome = true) ∧
    ((withRegs [(Reg.CRN_STATUS 96, 4)]).crnHeld 96 bScan.cslot = true) ∧
    (({ moving xMove with cond := { hostFail := [0] } } : State).pageMiss 0 [(hostWindow + 64 * xMove.blk, 64)] = some 0) ∧
    (moving { xMove with blk := 2, cmd := some (0, 0, 0x20) }).ctx 96 0 = some { xMove with blk := 2, cmd := some (0, 0, 0x20) } ∧
    (({ moving xMove with cond := { hostFail := [1] } } : State).pageMiss 0 [(hostWindow + 0x1FF0, 32)] = some 1) ∧
    ({ xMove with blk := 2, block := none, lost := true } : Xfer).over = true := by
  refine ⟨fun h => absurd h (by decide), ?_, by decide +kernel⟩
  intro e h; cases h
/-- Completion ring 0 of function 1 with an entry that waits. -/
def sDrain1 (l : List (Nat × Nat)) : State := { sRings l with host := { tails := [(64, 2)], cqs := [(64, { waiting := [cmdEntry 0 0 0 0] })] } }
theorem wit_Doorbells_drain : ((sDrain1 []).cqState 1 0).waiting = [cmdEntry 0 0 0 0] ∧ (sDrain1 []).cqRuns 1 0 = true ∧ (sDrain1 []).cqFull 1 0 = false ∧
    (sDrain1 [(Reg.HQ_CQq_STATUS 1 0, 0x10003)]).cqFull 1 0 = true ∧ (sDrain1 []).hostOk hostWindow 32 = true := by decide +kernel
theorem wit_LinkAndSideband_listed : (∀ s, s = ({ State.reset with cisterns := [(cisternOf 0x4000, { bad := [0x4000] })] } : State) → s.listed 0x4000 = true ∧
      s.noRecords) ∧ 0x4000 ∈ granulesOf ((State.reset.bar4 0).1 + 0x4000) 2 := by
  refine ⟨?_, by decide +kernel⟩
  rintro s rfl; exact ⟨by decide +kernel, fun e h => by cases h⟩
theorem wit_StreamsClosing : (one { st := .active, step := some {} }).turn 0 0 (dS 0x08 []) 8 ∧ (one { st := .active, step := some {} }).target 0 (dS 0x08 []) = some 1 ∧
    ((one { st := .active, step := some {} }).strm 1).step = some {} ∧ (one { st := .paused, step := some { yielded := true } }).turn 0 0 (dS 0x08 []) 8 ∧
    (one { st := .paused, step := some { yielded := true } }).target 0 (dS 0x08 []) = some 1 ∧
    ((one { st := .paused, step := some { yielded := true } }).strm 1).cluster.isSome = true := by simp only [State.turn]; decide +kernel
theorem wit_StreamsArePaused_swapped : (one { st := .swapped }).ready 0 0 (dS 0x04 []) 4 1 ∧ ((one { st := .swapped }).strm 1).st = .swapped ∧
    paused.ready 0 0 (dS 0x04 []) 4 1 ∧ (({ State.reset with streams := [(1, { st := .paused })] } : State).strm 1).cluster = none ∧
    ((active queue2).strm 1).queue ≠ [] ∧ (paused.strm 1).cluster.isSome = true ∧ ((one { st := .paused }).strm 1).wasIdle = false := by
  simp only [State.ready, State.turn]; decide +kernel
/-- Region 0 is gated; a cluster's budget is taken by a stream of lower class; by one of the same class. -/
def sOpenOn (awake cls : Nat) : State := withRegs [(Reg.TBG_CAP 0 0, 10), (Reg.TBG_RES 0 0, 5), (Reg.TBG_CAP 1 0, 0), (Reg.PLC_AWAKE, awake), (Reg.DRF_STATUS 0, 0)]
  { sOpen with
    structure_ := { graphs := [gOpen], pools := [{ kind := 0, mask := 1 }] }
    streams := [(9, { st := .active, graph := 3, cluster := some 0, cls := cls, cycles := 5 })] }
theorem wit_StreamsOpen_decided : ((sOpenOn 1 0).decide_ ⟨gOpen, 2, { bound := 8, cycles := 5 }⟩).1 = .preempt 0 [9] ∧
    ((sOpenOn 1 2).decide_ ⟨gOpen, 2, { bound := 8, cycles := 5 }⟩).1 = .noRoom ∧
    (({ withRegs [(Reg.PLC_AWAKE, 0), (Reg.TBG_CAP 0 0, 10), (Reg.PWR_CAP, 10000)] sOpen with streams := [] } : State).decide_
      ⟨gOpen, 7, { bound := 8, cycles := 5 }⟩).1 = .wake 0 := by decide +kernel
/-- A page that another sequence shares; a function whose swap units lie in a host page that fails; one without units. -/
theorem wit_PagesAreSwapped_more : (sSwap {} toSwap).swappable 1 0 (kvDecl dKv) = true ∧ (sSwap {} toSwap).swapHostOk 1 (kvDecl dKv) = true ∧
    ({ sSwap {} toSwap with mem := [] } : State).swappable 1 0 (kvDecl dKv) = false ∧
    ({ sSwap {} toSwap with cond := { hostFail := [0] } } : State).swapHostOk 1 (kvDecl dKv) = false ∧
    (∀ s, s = withRegs [(Reg.KVC_SWAPf_SIZE 0, 0)] (sSwap {} toSwap) → s.swapHostOk 1 (kvDecl dKv) = true ∧ (s.swapPage 1 0 (kvDecl dKv)).isNone = true) ∧
    (∀ s, s = ({ sSwap {} { toRestore with granted := [(0, 5)] } with mem := [(0x4003, 0x80)], cond := { hostFail := [0] } } : State) →
      s.restoreOk 1 (kvDecl dKv) = false) ∧
    inOnePlace (0x4000 + 4 * 0) 4 = true ∧ placeOf 0x4000 ≠ .regs := by simp only [forall_eq]; decide +kernel
/-- A placed Crest at its 80 ms, one past them, and an unplaced one. -/
def sCrest (tb : Dword) (p : Option Nat) (pend : List Int := []) : State := { sChan { st := .crest, crest := some { placed := p, tb := 7 }, inbuf := pend } with tb := tb }
theorem wit_ListeningRequestsEnd_limit : (∀ s, s = sCrest 80000007 (some 3) → s.tb.toNat ≤ (7 : Dword).toNat + 80000000 ∧ (s.chan 5).crest = some { placed := some 3, tb := 7 } ∧
      (s.chan 5).inbuf = []) ∧
    (∀ s, s = sCrest 80000008 (some 3) → (7 : Dword).toNat + 80000000 < s.tb.toNat ∧ (s.chan 5).st ≠ .off) ∧
    (sCrest 9 none [1]).halted = false ∧ ((sCrest 9 none [1]).chan 5).inbuf ≠ [] ∧ (ran (.crestTimeout 5) (sCrest 9 none)).tb = 80000007 ∧
    (hostSrc ≠ ((sCrest 9 none).chan 5).src) := by simp only [forall_eq]; decide +kernel
/-- Group 0 is enabled with weight 0 and is to have weight 7; a channel of it that may listen and one that may not. -/
theorem wit_GroupsEnable_changed : (sChan listening).groupOn 0 = true ∧ (sChan listening).fld (Reg.RPL_Gg_CFG 0) 0 16 ≠ bitsAt (0x400007 : Word).toNat 0 16 ∧
    (sChan listening).fld (Reg.RPL_Gg_CFG 0) 0 16 = bitsAt (0xC8400000 : Word).toNat 0 16 ∧ 5 ∈ (sChan listening).groupChans 0 ∧
    (sChan listening).mayListen 5 = true ∧ (sChan {}).mayListen 5 = false ∧ (sChan { src := hostSrc }).mayListen 5 = true ∧
    (sChan listening 0 0).mayListen 5 = false := by decide +kernel
/-- A ring in no range, a descriptor of format 3, one more sample than the ring holds. -/
theorem wit_FramesAreTaken_more :
    ((sChan listening).readRuns ((sChan listening).oasLoc 21 0) (ringPieces 0x3000000000000 256 0 80)).failed = true ∧
    ((sChan listening).readRuns ((sChan listening).oasLoc 21 0) (ringPieces 0x5000 256 0 80)).failed = false ∧
    (hinRead { sChan listening 80 with cond := badAt 0x4040 }).failed = true ∧ bitsAt 0xC8 6 2 = 3 ∧
    256 < (leVal (((hinRead { sChan listening with mem := [(0x4051, 0x50), (0x4058, 1), (0x4059, 1), (0x405C, 8)] }).bytes.drop 8).take 4) + 2 ^ 32 - 0) % 2 ^ 32 := by
  decide +kernel
/-- What Crest graph a group has: none; one of the wrong pool; one that is placed. -/
def gCrest (pool : Nat) : Graph := { id := 0, pool := pool, ticked := true, frame := true, costs := [{ bound := 65535, cycles := 5 }] }
def sCascade (pool : Nat) : State := withRegs [(Reg.PLC_AWAKE, 1), (Reg.TBG_CAP 0 1, 100)] { sChan listening with
  structure_ := { graphs := [gCrest pool], pools := [{ kind := 0, mask := 1 }] } }
theorem wit_FramesReachTheCascade_crest : (sChan listening).graphOf ((sChan listening).fld (Reg.RPL_Gg_CREST 0) 0 16) = none ∧
    (sCascade 1).graphOf ((sCascade 1).fld (Reg.RPL_Gg_CREST 0) 0 16) = some (gCrest 1) ∧ (gCrest 1).pool ≠ 0 ∧
    (sCascade 0).graphOf ((sCascade 0).fld (Reg.RPL_Gg_CREST 0) 0 16) = some (gCrest 0) ∧ (gCrest 0).pool = 0 ∧
    (gCrest 0).cost ((sCascade 0).preroll 0) = some { bound := 65535, cycles := 5 } ∧
    (∀ u c, u = sCascade 0 → c ∈ [7] → (u.takeIn { src := .crest 5, cls := c, graph := 0, size := u.preroll 0 } ⟨gCrest 0, c, { bound := 65535, cycles := 5 }⟩).1 = true) ∧
    (∀ u, u = ({ sCascade 0 with structure_ := { graphs := [gCrest 0] } } : State) →
      (u.takeIn { src := .crest 5, cls := 7, graph := 0, size := u.preroll 0 } ⟨gCrest 0, 7, { bound := 65535, cycles := 5 }⟩).1 = false) := by
  refine ⟨by decide +kernel, by decide +kernel, by decide +kernel, by decide +kernel, by decide +kernel, by decide +kernel, ?_, ?_⟩
  · rintro u c rfl hc; obtain rfl := List.mem_singleton.mp hc; decide +kernel
  · rintro u rfl; decide +kernel
/-- A yielded step whose saved operations lie in the store; a victim that may not leave; a region with a stream and a power-gated cluster. -/
theorem wit_ItemsStart_more : (({ sItems {} (some { yielded := true }) with work := [(0, { saved := [{ handle := 1 }] })] } : State).wk 0).saved.any
      (fun o => o.handle == 1) = true ∧
    (one { st := .active, victim := true }).mayLeave 1 = true ∧ (one { st := .active, victim := true, step := some {} }).mayLeave 1 = false ∧
    (one { st := .paused }).graphOf ((one { st := .paused }).strm 1).graph = some { id := 3 } ∧
    ((one { st := .active }).regionStreams 0 = [1]) ∧ (one {}).clPool 0 ≠ 7 ∧ (one {}).clPool 2 = 7 ∧
    (∀ i ∈ (sAge { cls := 6, urgentSince := some 7 }).place.items, i.missed = false ∧ i.running = false ∧ i.urgentSince = some 7) := by decide +kernel
/-- A read for stream 1, of which the second granule came as zeros, once for a stream without a step and once for one that has counted it. -/
def sAskedFor (r : Option StepRun) : State := { sAsked { len := 128, handle := (one {}).handleOf 1 } with
  streams := [(1, { st := .active, graph := 3, step := r })] }
theorem wit_RemoteAnswers_zeros : ({ len := 128, dst := 9 } : RemReq).marked [64, 128] = [9 * 2 ^ 52 + 64] ∧
    (∀ s, s = sAskedFor none → s.sidOf ((one {}).handleOf 1) = some 1 ∧ (s.strm 1).st ≠ .closed ∧ (s.strm 1).step = none) ∧
    (((sAskedFor (some { zgrans := [64] })).strm 1).step.map (fun y => y.zgrans)) = some [64] ∧ (one {}).handleOf 1 ≠ 0xFFFFFFFF ∧
    ((ran (.remoteResponse 4 1 { zeros := [64] }) (sAskedFor none)).strm 1).zeroed = 1 := by simp only [forall_eq]; decide +kernel
/-- The error ring's first slot, in cells without error. -/
theorem wit_ErrorsMergeIntoRecords_sound : ∀ g ∈ granulesOf 0x4000000 32, (sErr 2500 [] [w0]).listed g = false ∧ (sErr 2500 [] [w0]).faulty g = [] ∧
    ∀ w ∈ granWords g, (sErr 2500 [] [w0]).badBits w = [] := by decide +kernel

end Sys2Proof.Tests
end

section
/-!
PROOFS. Register accesses (R4 to R8, R11, R371): the outcome of each access command, what a plain write does, and the
statements about reads and writes of registers.
-/

namespace Sys2Proof.Machine

variable {s : State}

/-! Accesses over a running link. -/

theorem Space.word_iff {sp : Space} {o : Nat} : sp.word o = true ↔ o % 4 = 0 ∧ o < sp.size := by simp [Space.word]

/-- What a command does to a part that is not halted. -/
theorem exec_of_running {c : Instr} {f : State → State} (hr : s.halted = false) (hc : exec c s = .next (s.live f)) :
    exec c s = .next (f s) := by
  rw [hc, live_of_running s hr]

theorem exec_registerWrite (hr : s.halted = false) (sp : Space) (o : Nat) (v : Word) :
    exec (.registerWrite sp o v) s = .next (doRegisterWrite sp o v s) := exec_of_running hr rfl

theorem exec_registerWrite_slow (hr : s.halted = false) (hs : s.slowLink = true) (sp : Space) (o : Nat) (v : Word) :
    exec (.registerWrite sp o v) s = .next { s with resp := { bytes := [], abort := true } } := by
  simp [exec_registerWrite hr, doRegisterWrite, hs, State.abort]

theorem exec_registerWrite_misaligned (hr : s.halted = false) (hs : s.slowLink = false) {sp : Space} {o : Nat}
    (ho : sp.word o = false) (v : Word) : exec (.registerWrite sp o v) s = .next (s.answer []) := by
  simp [exec_registerWrite hr, doRegisterWrite, hs, ho]

theorem exec_registerWrite_bar0 (hr : s.halted = false) (hs : s.slowLink = false) {o : Nat}
    (ho : Space.bar0.word o = true) (v : Word) :
    exec (.registerWrite .bar0 o v) s = .next ((s.writeBar0 o v).answer []) := by
  simp [exec_registerWrite hr, doRegisterWrite, hs, ho]

theorem exec_registerWrite_bar2 (hr : s.halted = false) (hs : s.slowLink = false) {f : Fin 64} {o : Nat}
    (ho : (Space.bar2 f).word o = true) (v : Word) :
    exec (.registerWrite (.bar2 f) o v) s = .next ((s.writeBar2 f o v).answer []) := by
  simp [exec_registerWrite hr, doRegisterWrite, hs, ho]

theorem exec_bar0MisalignedAccess (hr : s.halted = false) (hs : s.slowLink = false) {len off : Nat}
    (ho : ¬(len = 4 ∧ off % 4 = 0)) (w : Bool) :
    exec (.bar0MisalignedAccess w off len) s = .next (s.answer (if w then [] else List.replicate len 0)) := by
  rw [exec_of_running (f := doBar0Misaligned w off len) hr rfl, doBar0Misaligned, if_neg (by simp [hs]), if_neg ho]

/-! Reads and the shadow of a high word (R8). -/

@[simp] theorem shadowOf_readReg (s : State) (a b : Nat) : (s.readReg a).2.shadowOf b = s.shadowOf b := rfl
@[simp] theorem shadowOf_answer (s : State) (l : List Byte) (a : Nat) : (s.answer l).shadowOf a = s.shadowOf a := rfl
@[simp] theorem shadowOf_setShadow (s : State) (a : Nat) (v : Option Word) : (s.setShadow a v).shadowOf a = v :=
  AMap.read_write_same _ _ _ _
@[simp] theorem resp_answer (s : State) (l : List Byte) : (s.answer l).resp = { bytes := l, abort := false } := rfl

theorem exec_lowWordRead (hr : s.halted = false) (sp : Space) (o : Nat) :
    exec (.lowWordRead sp o) s = .next (doLowWordRead sp o s) := exec_of_running hr rfl

theorem doLowWordRead_low (hs : s.slowLink = false) {sp : Space} {o : Nat} (ho : sp.word o = true)
    (hl : isLow (sp.key o) = true) :
    doLowWordRead sp o s = (((s.readReg (sp.key o)).2.readReg (sp.key o + 4)).2.setShadow (sp.key o + 4)
      (some ((s.readReg (sp.key o)).2.readReg (sp.key o + 4)).1)).answer (leBytes 4 (s.readReg (sp.key o)).1.toNat) := by
  simp [doLowWordRead, hs, ho, hl]

theorem doLowWordRead_latched (hs : s.slowLink = false) {sp : Space} {o : Nat} (ho : sp.word o = true)
    (hl : isLow (sp.key o) = false) {h : Word} (hh : s.shadowOf (sp.key o) = some h) :
    doLowWordRead sp o s = ((s.readReg (sp.key o)).2.setShadow (sp.key o) none).answer (leBytes 4 h.toNat) := by
  simp [doLowWordRead, hs, ho, hl, hh]

theorem doLowWordRead_live (hs : s.slowLink = false) {sp : Space} {o : Nat} (ho : sp.word o = true)
    (hl : isLow (sp.key o) = false) (hh : s.shadowOf (sp.key o) = none) :
    doLowWordRead sp o s = (s.readReg (sp.key o)).2.answer (leBytes 4 (s.readReg (sp.key o)).1.toNat) := by
  simp [doLowWordRead, hs, ho, hl, hh]

/-! Plain writes (R5, R6). -/

theorem regRow_eq_bar0Row {a : Nat} (h : a < 0x4000000) : regRow a = bar0Row a := if_pos h

theorem writePlain_none {a : Nat} (h : regRow a = none) (v : Word) : s.writePlain a v = s := by
  simp [State.writePlain, h]

theorem writePlain_rw {a : Nat} {r : RegRow} (h : regRow a = some r) (hr : r.acc = .rw ∨ r.acc = .rs) (v : Word) :
    s.writePlain a v = s.setReg a (v &&& BitVec.ofNat 32 r.rw) := by
  rcases hr with hr | hr <;> simp [State.writePlain, h, hr]

theorem writePlain_w1c {a : Nat} {r : RegRow} (h : regRow a = some r) (hr : r.acc = .w1c) (v : Word) :
    s.writePlain a v = s.setReg a (s.reg a &&& ~~~(v &&& BitVec.ofNat 32 r.w1c)) := by
  simp [State.writePlain, h, hr]

theorem writePlain_fixed {a : Nat} {r : RegRow} (h : regRow a = some r)
    (hr : r.acc = .ro ∨ r.acc = .wo ∨ r.acc = .ros ∨ r.acc = .act) (v : Word) : s.writePlain a v = s := by
  rcases hr with hr | hr | hr | hr <;> simp [State.writePlain, h, hr]

theorem onlyRegs_setReg (s : State) (a : Nat) (v : Word) : OnlyRegs [a] s (s.setReg a v) :=
  ⟨fun _ hb => reg_setReg_other s v (by simpa using hb), rfl⟩

theorem onlyRegs_refl (l : List Nat) (s : State) : OnlyRegs l s s := ⟨fun _ _ => rfl, rfl⟩

/-- A plain write is at most one setting of its own register. -/
theorem onlyRegs_writePlain (s : State) (a : Nat) (v : Word) : OnlyRegs [a] s (s.writePlain a v) := by
  unfold State.writePlain
  split
  · exact onlyRegs_refl _ s
  · split
    · exact onlyRegs_setReg s a _
    · exact onlyRegs_setReg s a _
    · exact onlyRegs_setReg s a _
    · exact onlyRegs_refl _ s

/-! The blocks of BAR0 (Table 00-3). -/

theorem writeBar0_reserved {a : Nat} (h : bar0Row a = none) (v : Word) : s.writeBar0 a v = s := by
  simp [State.writeBar0, h]

section Blocks

variable {a : Nat} (hrow : (bar0Row a).isNone = false) (v : Word)
include hrow

theorem writeBar0_oas (h : a < 0x80000 ∨ 0x90000 ≤ a ∧ a < 0x100000) : s.writeBar0 a v = s.writeOas a v := by
  simp (disch := omega) [State.writeBar0, hrow, if_neg, if_pos]

theorem writeBar0_plc (h : 0x100000 ≤ a ∧ a < 0x180000) : s.writeBar0 a v = s.writePlc a v := by
  simp (disch := omega) [State.writeBar0, hrow, if_neg, if_pos]

theorem writeBar0_strm (h : 0x190000 ≤ a ∧ a < 0x200000) : s.writeBar0 a v = s.writeStrm a v := by
  simp (disch := omega) [State.writeBar0, hrow, if_neg, if_pos]

theorem writeBar0_tck (h : 0x200000 ≤ a ∧ a < 0x300000) : s.writeBar0 a v = s.writeTck a v := by
  simp (disch := omega) [State.writeBar0, hrow, if_neg, if_pos]

theorem writeBar0_spl (h : 0x300000 ≤ a ∧ a < 0x400000) : s.writeBar0 a v = s.writeSpl a v := by
  simp (disch := omega) [State.writeBar0, hrow, if_neg, if_pos]

theorem writeBar0_sec (h : 0x400000 ≤ a ∧ a < 0x500000) : s.writeBar0 a v = s.writeSec a v := by
  simp (disch := omega) [State.writeBar0, hrow, if_neg, if_pos]

theorem writeBar0_err (h : 0x600000 ≤ a ∧ a < 0x700000) : s.writeBar0 a v = s.writeErr a v := by
  simp (disch := omega) [State.writeBar0, hrow, if_neg, if_pos]

theorem writeBar0_hq (h : 0xA00000 ≤ a ∧ a < 0x1000000) : s.writeBar0 a v = s.writeHq a v := by
  simp (disch := omega) [State.writeBar0, hrow, if_neg, if_pos]

end Blocks

/-! Registers whose writes are commands of their own (R5): each block hands the word to the command's meaning. -/

section Commands

variable (s : State) (v : Word)

theorem writeBar0_tckCtrl : s.writeBar0 Reg.TCK_CTRL v = doTbLoad v s := by
  rw [writeBar0_tck (by decide) v (by decide), State.writeTck, if_pos rfl]

theorem writeBar0_ppsEpochLo : s.writeBar0 Reg.TCK_PPS_EPOCH_LO v = doPpsEpochWrite false v s := by
  rw [writeBar0_tck (by decide) v (by decide), State.writeTck, if_neg (by decide), if_pos rfl]

theorem writeBar0_ppsEpochHi : s.writeBar0 Reg.TCK_PPS_EPOCH_HI v = doPpsEpochWrite true v s := by
  rw [writeBar0_tck (by decide) v (by decide), State.writeTck, if_neg (by decide), if_neg (by decide), if_pos rfl]

theorem writeBar0_missTail : s.writeBar0 Reg.TCK_MISS_TAIL v = doRingTailWrite .miss v s := by
  rw [writeBar0_tck (by decide) v (by decide), State.writeTck,
    if_neg (by decide), if_neg (by decide), if_neg (by decide), if_pos rfl]

theorem writeBar0_splCtrl : s.writeBar0 Reg.SPL_CTRL v = s.writeSplCtrl v.toNat := by
  rw [writeBar0_spl (by decide) v (by decide), State.writeSpl, if_pos rfl]

theorem writeBar0_errTail : s.writeBar0 Reg.ERR_TAIL v = doErrTailWrite v s := by
  rw [writeBar0_err (by decide) v (by decide), State.writeErr, if_neg (by decide), if_pos rfl]

theorem writeBar0_mmrCtrl : s.writeBar0 Reg.MMR_CTRL v = doMmrCntClr v s := by
  rw [writeBar0_oas (by decide) v (by decide), State.writeOas,
    if_neg (by decide), if_neg (by decide), if_neg (by decide), if_neg (by decide), if_pos rfl]

theorem writeBar0_oasReset : s.writeBar0 Reg.OAS_RESET v = s.writeOasReset v.toNat := by
  rw [writeBar0_oas (by decide) v (by decide), State.writeOas, if_pos rfl]

theorem writeBar0_hqCntClr : s.writeBar0 Reg.HQ_CNT_CLR v = doHqCntClr v s := by
  rw [writeBar0_hq (by decide) v (by decide), State.writeHq, if_pos rfl]

end Commands

/-- A write of a BAR0 register that acts as a command runs that command and answers nothing. -/
theorem registerWrite_bar0_runs (hr : s.halted = false) (hs : s.slowLink = false) {o : Nat} {v : Word} {c : Instr}
    {f : State → State} (ho : Space.bar0.word o = true) (hc : exec c s = .next (s.live f))
    (hw : s.writeBar0 o v = f s) :
    ∃ t, exec c s = .next t ∧ exec (.registerWrite .bar0 o v) s = .next (t.answer []) :=
  ⟨f s, exec_of_running hr hc, by rw [exec_registerWrite_bar0 hr hs ho, hw]⟩

/-- The write of a submission doorbell (Table 17-9) runs SQ_DOORBELL of its function and ring. -/
theorem registerWrite_sqDoorbell (hr : s.halted = false) (hs : s.slowLink = false) (f q : Fin 64) (v : Word) :
    ∃ t, exec (.sqDoorbell f q v) s = .next t ∧ exec (.registerWrite (.bar2 f) (8 * q) v) s = .next (t.answer []) := by
  have hw : s.writeBar2 f (8 * q) v = doSqDoorbell f q v s := by
    simp [State.writeBar2, show 8 * q.val < 0x200 by omega]
  have ho : (Space.bar2 f).word (8 * q) = true := Space.word_iff.2 (by simp only [Space.size]; omega)
  exact ⟨doSqDoorbell f q v s, exec_of_running hr rfl, by rw [exec_registerWrite_bar2 hr hs ho, hw]⟩

/-- The write of a completion doorbell (Table 17-9) runs CQ_DOORBELL of its function and ring. -/
theorem registerWrite_cqDoorbell (hr : s.halted = false) (hs : s.slowLink = false) (f q : Fin 64) (v : Word) :
    ∃ t, exec (.cqDoorbell f q v) s = .next t ∧ exec (.registerWrite (.bar2 f) (8 * q + 4) v) s = .next (t.answer []) := by
  have hw : s.writeBar2 f (8 * q + 4) v = doCqDoorbell f q v s := by
    simp [State.writeBar2, show 8 * q.val + 4 < 0x200 by omega, show (8 * q.val + 4) / 8 = q by omega,
      show (8 * q.val + 4) % 8 = 4 by omega]
  have ho : (Space.bar2 f).word (8 * q + 4) = true := Space.word_iff.2 (by simp only [Space.size]; omega)
  exact ⟨doCqDoorbell f q v s, exec_of_running hr rfl, by rw [exec_registerWrite_bar2 hr hs ho, hw]⟩

/-! The blocks whose other registers take plain writes. -/

/-- The registers of PLC, STRM, SPL and SEC, but for those whose writes are commands of their own. -/
def PlainBlock (o : Nat) : Prop :=
  (0x100000 ≤ o ∧ o < 0x180000 ∧ o ≠ Reg.PLC_CNT_CLR) ∨ (0x190000 ≤ o ∧ o < 0x200000 ∧ o ≠ Reg.STRM_CNT_CLR) ∨
    (0x300000 ≤ o ∧ o < 0x400000 ∧ o ≠ Reg.SPL_CTRL) ∨
    (0x400000 ≤ o ∧ o < 0x500000 ∧ o ≠ Reg.SEC_CTRL ∧ o ≠ Reg.SEC_CNT_CLR)

theorem PlainBlock.lt {o : Nat} (h : PlainBlock o) : o < 0x500000 := by
  unfold PlainBlock at h; omega

/-- A write in these blocks acts by the register's access code alone. -/
theorem PlainBlock.writeBar0 {o : Nat} (h : PlainBlock o) (s : State) (v : Word) :
    s.writeBar0 o v = s.writePlain o v := by
  cases hrow : bar0Row o with
  | none =>
    have hlt := h.lt
    rw [writeBar0_reserved hrow, writePlain_none (by rw [regRow_eq_bar0Row (by omega), hrow])]
  | some r =>
    have hsome : (bar0Row o).isNone = false := by rw [hrow]; rfl
    rcases h with ⟨hl, hh, hne⟩ | ⟨hl, hh, hne⟩ | ⟨hl, hh, hne⟩ | ⟨hl, hh, hne, hne'⟩
    · rw [writeBar0_plc hsome v ⟨hl, hh⟩, State.writePlc, if_neg hne]
    · rw [writeBar0_strm hsome v ⟨hl, hh⟩, State.writeStrm, if_neg hne]
    · rw [writeBar0_spl hsome v ⟨hl, hh⟩, State.writeSpl, if_neg hne]
    · rw [writeBar0_sec hsome v ⟨hl, hh⟩, State.writeSec, if_neg hne, if_neg hne']

/-- After the write of a register of these blocks it reads as its access code gives (R5, R6, R11). -/
theorem PlainBlock.reg_writePlain {o : Nat} (h : PlainBlock o) (s : State) (v : Word) :
    (∀ r, bar0Row o = some r → r.acc = .rw ∨ r.acc = .rs → (s.writePlain o v).reg o = v &&& BitVec.ofNat 32 r.rw) ∧
    (∀ r, bar0Row o = some r → r.acc = .w1c →
      (s.writePlain o v).reg o = s.reg o &&& ~~~(v &&& BitVec.ofNat 32 r.w1c)) ∧
    ((∀ r, bar0Row o = some r → r.acc = .ro ∨ r.acc = .wo ∨ r.acc = .ros ∨ r.acc = .act) →
      (s.writePlain o v).reg o = s.reg o) := by
  have hlt := h.lt
  rw [← regRow_eq_bar0Row (by omega)]
  refine ⟨fun r hrow hacc => ?_, fun r hrow hacc => ?_, fun hacc => ?_⟩
  · rw [writePlain_rw hrow hacc, reg_setReg_same]
  · rw [writePlain_w1c hrow hacc, reg_setReg_same]
  · cases hrow : regRow o with
    | none => rw [writePlain_none hrow]
    | some r => rw [writePlain_fixed hrow (hacc r hrow)]

end Sys2Proof.Machine

namespace Sys2Proof.Proofs

open Sys2Proof Sys2Proof.Machine

/-- Settles O7: in the four blocks a write reaches `State.writePlain`, whose effect is the access code's. -/
theorem registerWriteActsByAccess : Obligations.RegisterWriteActsByAccess := by
  intro s v hr
  refine ⟨fun sp o hs => exec_registerWrite_slow hr hs sp o v, fun sp o hs ho => exec_registerWrite_misaligned hr hs ho v,
    fun o hs hal (hblock : PlainBlock o) => ?_⟩
  have hword : Space.bar0.word o = true := Space.word_iff.2 ⟨hal, lt_trans hblock.lt (by decide)⟩
  obtain ⟨hregs, hrest⟩ := onlyRegs_writePlain s o v
  refine ⟨(s.writePlain o v).answer [], ?_, rfl, hregs, ?_, hblock.reg_writePlain s v⟩
  · rw [exec_registerWrite_bar0 hr hs hword, hblock.writeBar0]
  · conv_lhs => rw [hrest]
    rfl

/-- Settles O8: the block's write of each register is the meaning of its command, and every doorbell's is its ring's. -/
theorem registerWriteRunsItsCommand : Obligations.RegisterWriteRunsItsCommand := by
  intro s v hr hs
  simp only [List.forall_mem_cons]
  refine ⟨?tckCtrl, ?epochLo, ?epochHi, ?missTail, ?splCtrl, ?errTail, ?mmrCtrl, ?oasReset, ?hqCntClr,
    registerWrite_sqDoorbell hr hs 0 0 v, registerWrite_sqDoorbell hr hs 5 63 v,
    registerWrite_cqDoorbell hr hs 0 0 v, registerWrite_cqDoorbell hr hs 63 63 v, by simp⟩
  case tckCtrl => exact registerWrite_bar0_runs hr hs (by decide) rfl (writeBar0_tckCtrl s v)
  case epochLo => exact registerWrite_bar0_runs hr hs (by decide) rfl (writeBar0_ppsEpochLo s v)
  case epochHi => exact registerWrite_bar0_runs hr hs (by decide) rfl (writeBar0_ppsEpochHi s v)
  case missTail => exact registerWrite_bar0_runs hr hs (by decide) rfl (writeBar0_missTail s v)
  case splCtrl => exact registerWrite_bar0_runs hr hs (by decide) rfl (writeBar0_splCtrl s v)
  case errTail => exact registerWrite_bar0_runs hr hs (by decide) rfl (writeBar0_errTail s v)
  case mmrCtrl => exact registerWrite_bar0_runs hr hs (by decide) rfl (writeBar0_mmrCtrl s v)
  case oasReset => exact registerWrite_bar0_runs hr hs (by decide) rfl (writeBar0_oasReset s v)
  case hqCntClr => exact registerWrite_bar0_runs hr hs (by decide) rfl (writeBar0_hqCntClr s v)

/-- Settles O9: over a link that is not SLOW the access answers its zeros and leaves the state. -/
theorem misalignedAccessHasNoEffect : Obligations.MisalignedAccessHasNoEffect := by
  intro s w off len hr hs ho
  exact ⟨_, exec_bar0MisalignedAccess hr hs ho w, rfl, rfl, rfl⟩

/-- Settles O10: the read of the low word leaves the high word in the shadow, which the read of the high word answers. -/
theorem pairReadIsAtomic : Obligations.PairReadIsAtomic := by
  refine ⟨fun s sp o hr hs ho hl => ?_, fun s sp o hr hs ho hl hsh => ?_⟩
  · refine ⟨_, exec_lowWordRead hr sp o, ?_, ?_, fun u hur hus huo hul hush => ⟨_, exec_lowWordRead hur sp (o + 4), ?_⟩⟩
    · rw [doLowWordRead_low hs ho hl, resp_answer]
    · rw [doLowWordRead_low hs ho hl, resp_answer]
    · rw [doLowWordRead_low hs ho hl, shadowOf_answer, shadowOf_setShadow] at hush
      rw [doLowWordRead_latched hus huo hul hush]
      exact ⟨by simp, by rw [resp_answer]⟩
  · refine ⟨_, exec_lowWordRead hr sp o, ?_⟩
    rw [doLowWordRead_live hs ho hl hsh, resp_answer]

end Sys2Proof.Proofs
end

section
/-!
PROOFS. What storing bytes and record rings may change (R46, R47, R166 to R175), and the outcomes of Crest requests,
releases and changes of a channel's source (R316, R318 to R329).
-/

namespace Sys2Proof.AMap

/-- A key reads as one of the map's entries or as unlisted. -/
theorem read_mem_or {β : Type} (d : Nat → β) (m : AMap β) (k : Nat) : (k, read d m k) ∈ m ∨ read d m k = d k := by
  induction m with
  | nil => exact .inr rfl
  | cons e t ih =>
    obtain ⟨j, v⟩ := e
    by_cases h : j = k
    · subst h; exact .inl (by simp [read])
    · simpa [read, h, Ne.symm h] using ih

end Sys2Proof.AMap

namespace Sys2Proof.Machine

variable {s : State}

/-! Storing bytes: what it may change besides them. -/

/-- The registers that an error found in memory may change: those of the dies, of snapshot triggers and of the always-on
store's count. -/
abbrev ErrorReg (a : Nat) : Prop :=
  0x1000000 ≤ a ∨ (0x601000 ≤ a ∧ a < 0x602000) ∨ a = Reg.RPL_AON_UE ∨ a = Reg.RPL_INT_STATUS

section ErrorRegs

variable (d e i : Nat)

@[simp] theorem errorReg_DMEM_STATUS : ErrorReg (Reg.DMEM_STATUS d) := .inl (by simp only [Reg.DMEM_STATUS, dieBase]; omega)
@[simp] theorem errorReg_DMEM_INT_STATUS : ErrorReg (Reg.DMEM_INT_STATUS d) :=
  .inl (by simp only [Reg.DMEM_INT_STATUS, dieBase]; omega)
@[simp] theorem errorReg_DMEM_CE_LO : ErrorReg (Reg.DMEM_CE_LO d) := .inl (by simp only [Reg.DMEM_CE_LO, dieBase]; omega)
@[simp] theorem errorReg_DMEM_UE_LO : ErrorReg (Reg.DMEM_UE_LO d) := .inl (by simp only [Reg.DMEM_UE_LO, dieBase]; omega)
@[simp] theorem errorReg_DMEM_SRAM_UE : ErrorReg (Reg.DMEM_SRAM_UE d) :=
  .inl (by simp only [Reg.DMEM_SRAM_UE, dieBase]; omega)
@[simp] theorem errorReg_DMEM_SRAM_CE : ErrorReg (Reg.DMEM_SRAM_CE d) :=
  .inl (by simp only [Reg.DMEM_SRAM_CE, dieBase]; omega)
@[simp] theorem errorReg_DMEM_RET_FRAMES : ErrorReg (Reg.DMEM_RET_FRAMES d) :=
  .inl (by simp only [Reg.DMEM_RET_FRAMES, dieBase]; omega)
@[simp] theorem errorReg_DMEM_RET_BANKS : ErrorReg (Reg.DMEM_RET_BANKS d) :=
  .inl (by simp only [Reg.DMEM_RET_BANKS, dieBase]; omega)
@[simp] theorem errorReg_DMEM_LAST_UE_LO : ErrorReg (Reg.DMEM_LAST_UE_LO d) :=
  .inl (by simp only [Reg.DMEM_LAST_UE_LO, dieBase]; omega)
@[simp] theorem errorReg_DMEM_BANKRETi : ErrorReg (Reg.DMEM_BANKRETi d i) :=
  .inl (by simp only [Reg.DMEM_BANKRETi, dieBase]; omega)
@[simp] theorem errorReg_CIS_CE : ErrorReg (Reg.CIS_CE e) := .inl (by simp only [Reg.CIS_CE, cisBase, dieBase]; omega)
@[simp] theorem errorReg_CIS_UE : ErrorReg (Reg.CIS_UE e) := .inl (by simp only [Reg.CIS_UE, cisBase, dieBase]; omega)
@[simp] theorem errorReg_CIS_INT_STATUS : ErrorReg (Reg.CIS_INT_STATUS e) :=
  .inl (by simp only [Reg.CIS_INT_STATUS, cisBase, dieBase]; omega)

/-! High words of the dies' pairs. -/

@[simp] theorem errorReg_DMEM_CE_LO_high : ErrorReg (Reg.DMEM_CE_LO d + 4) :=
  .inl (by simp only [Reg.DMEM_CE_LO, dieBase]; omega)
@[simp] theorem errorReg_DMEM_UE_LO_high : ErrorReg (Reg.DMEM_UE_LO d + 4) :=
  .inl (by simp only [Reg.DMEM_UE_LO, dieBase]; omega)
@[simp] theorem errorReg_DMEM_LAST_UE_LO_high : ErrorReg (Reg.DMEM_LAST_UE_LO d + 4) :=
  .inl (by simp only [Reg.DMEM_LAST_UE_LO, dieBase]; omega)

end ErrorRegs

/-- Nothing differs but memory, the registers of errors, what the part reports, the marks of memory and its physical
condition. -/
def Stored (s t : State) : Prop := (∀ a, ¬ ErrorReg a → t.reg a = s.reg a) ∧ t = { s with
  regs := t.regs
  mem := t.mem
  errs := t.errs
  snap := t.snap
  fab := t.fab
  host := t.host
  cond := t.cond
  cisterns := t.cisterns
  retired := t.retired
  retireDue := t.retireDue
  weights := t.weights
  freeCtr := t.freeCtr }

theorem Stored.refl (s : State) : Stored s s := ⟨fun _ _ => rfl, rfl⟩

theorem Stored.trans {t u : State} (h1 : Stored s t) (h2 : Stored t u) : Stored s u :=
  ⟨fun a ha => (h2.1 a ha).trans (h1.1 a ha), by rw [h2.2, h1.2]⟩

theorem Stored.of_marked {t : State} (hr : ∀ a, ¬ ErrorReg a → t.reg a = s.reg a) (h : Marked s t) : Stored s t :=
  ⟨hr, by rw [h]⟩

variable (s)

theorem stored_setReg {a : Nat} (ha : ErrorReg a) (v : Word) : Stored s (s.setReg a v) :=
  .of_marked (fun _ hb => reg_setReg_other s v (fun h => hb (h ▸ ha))) (marked_setReg s a v)

theorem stored_setPair {a : Nat} (ha : ErrorReg a) (ha' : ErrorReg (a + 4)) (v : Nat) : Stored s (s.setPair a v) :=
  (stored_setReg s ha _).trans (stored_setReg _ ha' _)

theorem stored_raise {a : Nat} (ha : ErrorReg a) (i : Nat) : Stored s (s.raise a i) :=
  .of_marked (fun _ hb => reg_raise_other s i (fun h => hb (h ▸ ha))) (marked_raise s a i)

theorem stored_count {a st : Nat} (ha : ErrorReg a) (hst : ErrorReg st) (n bit : Nat) : Stored s (s.count a n st bit) := by
  unfold State.count
  dsimp only
  split
  · exact (stored_setReg s ha _).trans (stored_raise _ hst _)
  · exact stored_setReg s ha _

/-! Reports. -/

theorem reg_sendAll (m : FabMsg) (l : List Nat) (a : Nat) : (s.sendAll m l).reg a = s.reg a := by
  induction l generalizing s with
  | nil => rfl
  | cons n t ih => rw [State.sendAll, ih]; split <;> rfl

theorem stored_sendAll (m : FabMsg) (l : List Nat) : Stored s (s.sendAll m l) :=
  .of_marked (fun a _ => reg_sendAll s m l a) (.of_reported (reported_sendAll s m l))

theorem stored_missTrigger : Stored s s.missTrigger :=
  (stored_setReg s (by decide) _).trans (stored_raise _ (by decide) _)

theorem stored_pendTrigger (x : Trigger) : Stored s (s.pendTrigger x) := by
  have h : Stored s { s with snap := { s.snap with pending := some x } } := ⟨fun _ _ => rfl, rfl⟩
  exact (((h.trans (stored_setPair _ (by decide) (by decide) _)).trans (stored_setReg _ (by decide) _)).trans
    (stored_setReg _ (by decide) _)).trans (stored_setReg _ (by decide) _)

theorem stored_offerTrigger (x : Trigger) : Stored s (s.offerTrigger x).2 := by
  unfold State.offerTrigger
  split
  · exact stored_missTrigger s
  · split
    · exact stored_pendTrigger s x
    · split
      · exact (stored_missTrigger s).trans (stored_pendTrigger _ x)
      · exact stored_missTrigger s

theorem stored_takeNumber : Stored s s.takeNumber.2 :=
  Stored.trans (t := { s with snap := { s.snap with seen := (s.deviceId * 2 ^ 20 + s.fld Reg.SNP_NUM_NEXT 0 20) :: s.snap.seen } })
    ⟨fun _ _ => rfl, rfl⟩ (stored_setReg _ (by decide) _)

theorem stored_report (cls code loc skind suspect : Nat) : Stored s (s.report cls code loc skind suspect) := by
  have hc : ∀ (t : State) (die : Nat) (r : ErrWin), Stored t (t.collect die r) := fun t die r => by
    unfold State.collect
    split <;> exact ⟨fun _ _ => rfl, rfl⟩
  refine Stored.trans ?_ (hc _ _ _)
  unfold State.errorTrigger
  split
  · refine Stored.trans ?_ (stored_offerTrigger _ _)
    split
    · exact (stored_takeNumber s).trans (stored_sendAll _ _ _)
    · exact stored_takeNumber s
  · exact .refl s

/-! Detection and correction. -/

theorem stored_retireBank (d ch b : Nat) : Stored s (s.retireBank d ch b) := by
  unfold State.retireBank
  split
  · exact .refl s
  · exact (((stored_setReg s (by simp) _).trans (stored_setReg _ (by simp) _)).trans
      (stored_raise _ (by simp) _)).trans (stored_report _ _ _ _ _ _)

theorem stored_showRetired (d : Nat) : Stored s (s.showRetired d) := by
  unfold State.showRetired
  dsimp only
  split
  · exact ((stored_setReg s (by simp) _).trans (stored_setReg _ (by simp) _)).trans
      (stored_raise _ (by simp) _)
  · exact stored_setReg s (by simp) _

theorem stored_retireFrame (f : Nat) : Stored s (s.retireFrame f) := by
  have hf : Stored s (s.forgetFrame f) := ⟨fun _ _ => rfl, rfl⟩
  have hl : Stored s (s.listRetired f) := ⟨fun _ _ => rfl, rfl⟩
  unfold State.retireFrame
  split
  · exact hf
  · split
    · exact hf.trans (stored_retireBank _ _ _ _)
    · unfold State.checkBank
      split
      · exact (hl.trans (stored_showRetired _ _)).trans (stored_retireBank _ _ _ _)
      · exact hl.trans (stored_showRetired _ _)

theorem stored_countUe (d e a : Nat) : Stored s (s.countUe d e a) :=
  ((((stored_setPair s (by simp) (by simp) _).trans
    (stored_setPair _ (by simp) (by simp) _)).trans (stored_raise _ (by simp) _)).trans
    (stored_count _ (by simp) (by simp) _ _)).trans (stored_raise _ (by simp) _)

theorem stored_setBytes (a : Nat) (l : List Byte) : Stored s (s.setBytes a l) := by
  rw [setBytes_eq]
  exact ⟨fun _ _ => rfl, rfl⟩

theorem stored_dropIndex (l : List Nat) : Stored s (dropIndex l s) := by
  unfold dropIndex
  induction l generalizing s with
  | nil => exact .refl s
  | cons r t ih =>
    refine Stored.trans ?_ (ih _)
    dsimp only
    split
    · exact (stored_setBytes s _ _).trans (stored_setBytes _ _ _)
    · exact stored_setBytes s _ _

theorem stored_noteUe (a : Nat) (ctl : Bool) : Stored s (s.noteUe a ctl) := by
  have hp : Stored s (s.putBad a) := ⟨fun _ _ => rfl, rfl⟩
  exact ((hp.trans (stored_dropIndex _ _)).trans (stored_countUe _ _ _ _)).trans (stored_report _ _ _ _ _ _)

theorem stored_detectDram (a : Nat) (ctl : Bool) : Stored s (s.detectDram a ctl) := by
  unfold State.detectDram
  split
  · exact .refl s
  · split
    · exact stored_noteUe s a ctl
    · exact (stored_noteUe s a ctl).trans (stored_retireFrame _ _)

theorem stored_detectSram (w loc : Nat) : Stored s (s.detectSram w loc) := by
  refine Stored.trans ?_ (stored_report _ _ _ _ _ _)
  unfold State.countSramUe
  split
  · exact (stored_setReg s (by simp) _).trans (stored_raise _ (by simp) _)
  · exact (stored_setReg s (by simp) _).trans (stored_raise _ (by simp) _)
  · exact stored_count s (by decide) (by decide) _ _

theorem stored_detectWords (loc : Nat) (l : List Nat) : Stored s (detectWords loc s l) := by
  induction l generalizing s with
  | nil => exact .refl s
  | cons w t ih => exact (stored_detectSram s w loc).trans (ih _)

theorem stored_countCe (a : Nat) : Stored s (s.countCe a) := by
  unfold State.countCe
  split
  · exact (stored_setPair s (by simp) (by simp) _).trans
      (stored_count _ (by simp) (by simp) _ _)
  · exact stored_setReg s (by simp) _
  · exact stored_setReg s (by simp) _
  · exact .refl s

theorem stored_correctWords (l : List Nat) : Stored s (correctWords s l) := by
  induction l generalizing s with
  | nil => exact .refl s
  | cons w t ih =>
    refine Stored.trans ?_ (ih _)
    split
    · exact Stored.trans (t := s.healWord w) ⟨fun _ _ => rfl, rfl⟩ (stored_countCe _ _)
    · exact .refl s

theorem stored_correct (a : Nat) : Stored s (s.correct a) := by
  unfold State.correct
  split
  · split
    · exact Stored.trans (t := s.heal a) ⟨fun _ _ => rfl, rfl⟩ (stored_countCe _ _)
    · exact .refl s
  · exact stored_correctWords s _
  · exact stored_correctWords s _
  · exact stored_correctWords s _
  · exact .refl s

/-- What the uncorrectable words of an SRAM granule do to a partial write of it. -/
theorem stored_words (loc a : Nat) : Stored s
    (if (s.badWords a).isEmpty then s else (detectWords loc s (s.badWords a)).setBytes a (List.replicate 64 0)) := by
  split
  · exact .refl s
  · exact (stored_detectWords s _ _).trans (stored_setBytes _ _ _)

theorem stored_prepareGran (loc a : Nat) : Stored s (s.prepareGran loc a) := by
  refine (stored_correct s a).trans ?_
  unfold State.prepareGran
  dsimp only
  split
  · split
    · exact (stored_detectDram _ _ _).trans (stored_setBytes _ _ _)
    · exact .refl _
  · exact stored_words _ _ _
  · exact stored_words _ _ _
  · exact stored_words _ _ _
  · exact .refl _

theorem stored_freshCells (lo hi : Nat) : Stored s (s.freshCells lo hi) := by
  unfold State.freshCells
  split
  · exact ⟨fun _ _ => rfl, rfl⟩
  · exact .refl s

/-- Storing bytes changes besides them nothing but what the errors it finds change (R171, R172). -/
theorem stored_writeData (loc a : Nat) (l : List Byte) : Stored s (s.writeData loc a l) := by
  have hp : ∀ (t : State) (p : Prop) [Decidable p] (g : Nat), Stored t (if p then t.prepareGran loc g else t) :=
    fun t p _ g => by
      split
      · exact stored_prepareGran t loc g
      · exact .refl t
  unfold State.writeData
  split
  · exact .refl s
  · split
    · exact .refl s
    · exact (((hp s _ _).trans (hp _ _ _)).trans (stored_setBytes _ _ _)).trans (stored_freshCells _ _ _)

variable {s}

/-! Storing bytes over cells that hold no error. -/

/-- The granule at `g` holds no error and is not known bad. -/
def State.soundGran (s : State) (g : Nat) : Prop :=
  s.faulty g = [] ∧ s.listed g = false ∧ ∀ w ∈ granWords g, s.badBits w = []

theorem correctWords_sound {l : List Nat} (h : ∀ w ∈ l, s.badBits w = []) : correctWords s l = s := by
  induction l with
  | nil => rfl
  | cons w t ih =>
    rw [List.forall_mem_cons] at h
    have hw : s.wordWeak w = false := by simp [State.wordWeak, h.1]
    rw [correctWords, hw, if_neg (by decide), ih h.2]

theorem correct_sound {g : Nat} (h : s.soundGran g) : s.correct g = s := by
  obtain ⟨hf, hl, hw⟩ := h
  have hweak : s.granWeak g = false := by simp [State.granWeak, hf]
  unfold State.correct
  split
  · rw [hweak, if_neg (by decide)]
  · exact correctWords_sound hw
  · exact correctWords_sound hw
  · exact correctWords_sound hw
  · rfl

theorem badWords_sound {g : Nat} (h : s.soundGran g) : s.badWords g = [] := by
  obtain ⟨hf, hl, hw⟩ := h
  exact List.filter_eq_nil_iff.2 (fun w hm => by simp [State.wordBad, hw w hm])

theorem prepareGran_sound {g : Nat} (h : s.soundGran g) (loc : Nat) : s.prepareGran loc g = s := by
  have hbad : s.granBad g = false := by
    obtain ⟨hf, hl, hw⟩ := h
    simp [State.granBad, State.granSeen, hf, hl]
  unfold State.prepareGran
  simp only [correct_sound h, badWords_sound h, hbad]
  split <;> rfl

theorem mem_granulesOf {a n g : Nat} (hlo : a / 64 * 64 ≤ g) (hhi : g < a + n) (hg : g % 64 = 0) (hn : n ≠ 0) :
    g ∈ granulesOf a n := by
  rw [granulesOf, if_neg hn, List.mem_map]
  exact ⟨g / 64 - a / 64, List.mem_range.2 (by omega), by omega⟩

@[simp] theorem mem_freshCells (s : State) (lo hi : Nat) : (s.freshCells lo hi).mem = s.mem := by
  unfold State.freshCells
  split <;> rfl

/-- Bytes stored over sound cells of one place are the only change of memory. -/
theorem mem_writeData_sound {a : Nat} {l : List Byte} (hone : inOnePlace a l.length = true) (hregs : placeOf a ≠ .regs)
    (hs : s.sound a l.length) (loc : Nat) : (s.writeData loc a l).mem = (s.setBytes a l).mem := by
  by_cases hl : l = []
  · subst hl; rfl
  have hn : l.length ≠ 0 := by simpa using hl
  have hprep : ∀ (p : Prop) [Decidable p] (g : Nat), g ∈ granulesOf a l.length →
      (if p then s.prepareGran loc g else s) = s := fun p _ g hg => by
    rw [prepareGran_sound (hs g hg), ite_self]
  have hfirst : a / 64 * 64 ∈ granulesOf a l.length := mem_granulesOf le_rfl (by omega) (by omega) hn
  have hlast : (a + l.length - 1) / 64 * 64 ∈ granulesOf a l.length :=
    mem_granulesOf (by omega) (by omega) (by omega) hn
  simp only [State.writeData, if_neg hl, hone, hregs, beq_eq_false_iff_ne.2, Bool.not_true, Bool.false_or, ne_eq,
    not_false_eq_true, Bool.false_eq_true, if_false, hprep _ _ hfirst, hprep _ _ hlast, mem_freshCells]

theorem byte_congr {t : State} (h : t.mem = s.mem) (k : Nat) : t.byte k = s.byte k := by rw [State.byte, h]; rfl

/-- Bytes stored over sound cells of one place are read back, and no other byte differs. -/
theorem writeData_sound {a : Nat} {l : List Byte} (hone : inOnePlace a l.length = true) (hregs : placeOf a ≠ .regs)
    (hs : s.sound a l.length) (loc : Nat) :
    (s.writeData loc a l).bytes a l.length = l ∧ SameBytes a l.length s (s.writeData loc a l) := by
  have hb := byte_congr (mem_writeData_sound hone hregs hs loc)
  refine ⟨?_, fun k hk => ?_⟩
  · rw [bytes_congr (fun k _ _ => hb k), bytes_setBytes_same]
  · rw [hb, byte_setBytes_other s l hk]

/-! Record rings (R46, R47). -/

/-- The registers that say where a ring's next record goes. -/
def ringSetup (r : RingId) : List Nat :=
  [(ringRegs r).base, (ringRegs r).base + 4, (ringRegs r).size, (ringRegs r).head, (ringRegs r).tail, (ringRegs r).drop]

variable (s)

theorem reg_raiseModerated_other {int a : Nat} (h : a ≠ int) (bit key interval : Nat) :
    (s.raiseModerated int bit key interval).reg a = s.reg a := by
  unfold State.raiseModerated
  split
  · rfl
  · exact reg_raise_other s bit h

theorem mem_raiseModerated (int bit key interval : Nat) : (s.raiseModerated int bit key interval).mem = s.mem := by
  unfold State.raiseModerated
  split
  · rfl
  · exact mem_raise s int bit

theorem ringRegs_apart (r : RingId) : (ringRegs r).head ≠ (ringRegs r).int ∧ (ringRegs r).drop ≠ (ringRegs r).int ∧
    (ringRegs r).dropBit < 32 := by
  cases r with
  | miss => decide
  | cascade => decide
  | qev d => simp [ringRegs, Reg.QEV_HEAD, Reg.QEV_DROP, Reg.QEV_INT_STATUS]
  | attend a => simp only [ringRegs, Reg.ACF_Aa_HEAD, Reg.ACF_Aa_DROP, Reg.ACF_INT_STATUS]; omega

/-- A record put into a ring has come to it. -/
theorem recorded_ringPut (r : RingId) (b : List Byte) : Recorded r b s (s.ringPut r b) := by
  obtain ⟨hhead, hdrop, hbit⟩ := ringRegs_apart r
  refine ⟨fun ht => ?_, fun ht => ?_⟩
  · rw [State.ringPut, if_pos ht]
    refine ⟨?_, fun hone hregs hs => ?_⟩
    · rw [State.rn, reg_raiseModerated_other _ hhead]
      exact rn_setN_same _ _ _
    · have hb : ∀ k, (State.raiseModerated (s.ringWrite r b) (ringRegs r).int (ringRegs r).recBit (ringRegs r).key
          (s.fld (ringRegs r).modr 0 16)).byte k = (s.writeData (s.ringLoc r) (s.ringSlot r) b).byte k :=
        byte_congr (mem_raiseModerated _ _ _ _ _)
      obtain ⟨hsame, hother⟩ := writeData_sound hone hregs hs (s.ringLoc r)
      exact ⟨by rw [bytes_congr (fun k _ _ => hb k), hsame], fun k hk => (hb k).trans (hother k hk)⟩
  · rw [State.ringPut, ht, if_neg (by decide)]
    refine ⟨mem_raise _ _ _, ?_, (raise_spec _ _ _ hbit).1⟩
    rw [State.ringDrop, State.rn, reg_raise_other _ _ hdrop]
    exact rn_bump_same s _ 1

theorem reg_ringPut_other {r : RingId} {a : Nat} (ha : ¬ ErrorReg a) (hh : a ≠ (ringRegs r).head)
    (hd : a ≠ (ringRegs r).drop) (hi : a ≠ (ringRegs r).int) (b : List Byte) : (s.ringPut r b).reg a = s.reg a := by
  unfold State.ringPut
  dsimp only
  split
  · rw [reg_raiseModerated_other _ hi, State.ringWrite, reg_setN, if_neg hh]
    exact (stored_writeData s _ _ _).1 a ha
  · rw [State.ringDrop, reg_raise_other _ _ hi, reg_bump_other _ _ hd]

/-- Nothing differs but registers, moderation, memory and what errors found in it change. -/
def Logged (s t : State) : Prop := t = { s with
  regs := t.regs
  mods := t.mods
  mem := t.mem
  errs := t.errs
  snap := t.snap
  fab := t.fab
  host := t.host
  cond := t.cond
  cisterns := t.cisterns
  retired := t.retired
  retireDue := t.retireDue
  weights := t.weights
  freeCtr := t.freeCtr }

variable {s} in
theorem Logged.trans {t u : State} (h1 : Logged s t) (h2 : Logged t u) : Logged s u := by
  unfold Logged at *
  rw [h2, h1]

variable {s} in
theorem Logged.of_stored {t : State} (h : Stored s t) : Logged s t := by
  unfold Logged
  rw [h.2]

variable {s} in
theorem Logged.of_marked {t : State} (h : Marked s t) : Logged s t := by
  unfold Logged
  rw [h]

section

variable {s} {t : State} (h : Logged s t)
include h

theorem Logged.tb : t.tb = s.tb := by rw [h]
theorem Logged.casc : t.casc = s.casc := by rw [h]
theorem Logged.place : t.place = s.place := by rw [h]
theorem Logged.streams : t.streams = s.streams := by rw [h]

end

theorem logged_raiseModerated (int bit key interval : Nat) : Logged s (s.raiseModerated int bit key interval) := by
  unfold State.raiseModerated
  split
  · rfl
  · exact (Logged.of_marked (marked_raise s int bit)).trans rfl

theorem logged_ringPut (r : RingId) (b : List Byte) : Logged s (s.ringPut r b) := by
  unfold State.ringPut
  dsimp only
  split
  · exact ((Logged.of_stored (stored_writeData s _ _ _)).trans (Logged.of_marked (marked_setReg _ _ _))).trans
      (logged_raiseModerated _ _ _ _ _)
  · exact Logged.of_marked ((marked_setReg s _ _).trans (marked_raise _ _ _))

variable {s}

/-- What the coming of a record says depends on the state before only through the ring's registers and the memory. -/
theorem Recorded.of_before {r : RingId} {b : List Byte} {s1 t : State} (hr : ∀ a ∈ ringSetup r, s1.reg a = s.reg a)
    (hm : s1.mem = s.mem) (hc : s1.cond = s.cond) (hci : s1.cisterns = s.cisterns) (h : Recorded r b s1 t) :
    Recorded r b s t := by
  have hrn : ∀ a ∈ ringSetup r, s1.rn a = s.rn a := fun a ha => by rw [State.rn, hr a ha]; rfl
  simp only [ringSetup, List.forall_mem_cons] at hrn
  obtain ⟨hbase, hbase4, hsize, hhead, htail, hdrop, -⟩ := hrn
  have hlog : s1.ringLog r = s.ringLog r := by
    cases r <;> exact congrArg (fun n => max _ (min _ (bitsAt n 0 _))) hsize
  have hfull : s1.ringFull r = s.ringFull r :=
    decide_eq_decide.2 (by rw [hlog, State.ringFill, State.ringFill, hhead, htail])
  have htakes : s1.ringTakes r = s.ringTakes r := by
    simp only [State.ringTakes, State.pair, hbase, hbase4, hfull]
  have hslot : s1.ringSlot r = s.ringSlot r := by simp only [State.ringSlot, State.pair, hbase, hbase4, hhead, hlog]
  have hsound : ∀ a n, s1.sound a n = s.sound a n := fun a n => by
    simp only [State.sound, State.faulty, State.listed, State.cis, State.badBits, hc, hci]
  have hsame : ∀ a n, SameBytes a n s1 t = SameBytes a n s t := fun a n => by
    simp only [SameBytes, byte_congr hm]
  simpa only [Recorded, htakes, hslot, hhead, hdrop, hm, hsound, hsame] using h

/-- What the coming of a record says depends on the state after only through its registers and its memory. -/
theorem Recorded.of_after {r : RingId} {b : List Byte} {t u : State} (hr : u.regs = t.regs) (hm : u.mem = t.mem)
    (h : Recorded r b s t) : Recorded r b s u := by
  have hreg : ∀ a, u.reg a = t.reg a := fun a => by rw [State.reg, hr]; rfl
  have hbytes : ∀ a n, u.bytes a n = t.bytes a n := fun a n => bytes_congr (fun k _ _ => byte_congr hm k)
  simpa only [Recorded, State.rbit, State.rn, hreg, hm, hbytes, SameBytes, byte_congr hm] using h

/-! Closing a placed Crest while nothing waits. -/

/-- Nothing differs but registers and what clusters hold. -/
def Vacated (s t : State) : Prop := t = { s with
  regs := t.regs
  objs := t.objs }

theorem Vacated.trans {t u : State} (h1 : Vacated s t) (h2 : Vacated t u) : Vacated s u := by
  unfold Vacated at *
  rw [h2, h1]

theorem Vacated.foldl {α : Type} {f : State → α → State} (h : ∀ t x, Vacated t (f t x)) (l : List α) (s : State) :
    Vacated s (l.foldl f s) := by
  induction l generalizing s with
  | nil => rfl
  | cons x t ih => exact (h s x).trans (ih _)

theorem Vacated.with_place {t : State} (h : Vacated s t) (p : Place) : Vacated { s with place := p } { t with place := p } := by
  unfold Vacated at *
  rw [h]

theorem vacated_setReg (s : State) (a : Nat) (v : Word) : Vacated s (s.setReg a v) := rfl

theorem vacated_dropWeights (s : State) (cl : Nat) : Vacated s (s.dropWeights cl) := by
  unfold State.dropWeights
  dsimp only
  split <;> rfl

/-- Of a part where nothing waits, no stream waits for pages or for its import. -/
theorem State.calm.strm (h : s.calm) (k : Nat) :
    (s.strm k).import_ = none ∧ ∀ r, (s.strm k).step = some r → r.wait ≠ .pages := by
  obtain ⟨-, -, hstrm⟩ := h
  rcases AMap.read_mem_or (fun _ => {}) s.streams k with hm | hd
  · obtain ⟨-, himport, hstep⟩ := hstrm _ hm
    exact ⟨himport, hstep⟩
  · rw [State.strm, hd]
    exact ⟨rfl, fun r hr => nomatch hr⟩

theorem serveNeeds_of_none (h : ∀ e ∈ s.streams, e.2.kv.need = []) (n : Nat) (pools skip : List Nat) :
    serveNeeds n pools skip s = s := by
  cases n with
  | zero => rfl
  | succ n =>
    have hnone : s.streams.filter (fun e => !e.2.kv.need.isEmpty && !skip.contains e.1 &&
        !pools.contains (s.poolOf e.1)) = [] :=
      List.filter_eq_nil_iff.2 (fun e he => by simp [h e he])
    rw [serveNeeds, hnone]
    rfl

theorem retryPages_of_none (h : ∀ k r, (s.strm k).step = some r → r.wait ≠ .pages) (l : List Nat) : retryPages s l = s := by
  induction l with
  | nil => rfl
  | cons k t ih =>
    rw [retryPages]
    cases hr : (s.strm k).step with
    | none => exact ih
    | some r =>
      dsimp only
      rw [if_pos (.inl (h k r hr))]
      exact ih

theorem finishImports_of_none (h : ∀ k, (s.strm k).import_ = none) (l : List Nat) : finishImports s l = s := by
  induction l with
  | nil => rfl
  | cons k t ih => rw [finishImports, if_neg (by simp [h k]), ih]

/-- While nothing waits, nothing follows the going of a stream or a Crest. -/
theorem State.calm.afterGone (h : s.calm) : s.afterGone = s.showPreempting := by
  obtain ⟨hload, hpend, hstrm⟩ := id h
  have hneed : ∀ e ∈ s.streams, e.2.kv.need = [] := fun e he => (hstrm e he).1
  have hpages : s.pagesFreed = s := by
    rw [State.pagesFreed, serveNeeds_of_none hneed, retryPages_of_none (fun k => (h.strm k).2)]
  have hdrain : s.checkDrain = s := by rw [State.checkDrain, hload]
  rw [State.afterGone, hpages, finishImports_of_none (fun k => (h.strm k).1), hdrain, State.settle, hpend]
  rfl

/-- The cycles of a placed Crest leave its cluster's reservation. -/
def State.freeCrestCycles (s : State) (c : CrestInst) : State :=
  match s.graphOf c.graph with
  | some g => s.setN (Reg.TBG_RES c.cluster (budgetOf g)) (s.rn (Reg.TBG_RES c.cluster (budgetOf g)) - c.cycles)
  | none => s

theorem vacated_freeCrestCycles (s : State) (c : CrestInst) : Vacated s (s.freeCrestCycles c) := by
  unfold State.freeCrestCycles
  split
  · exact vacated_setReg s _ _
  · rfl

/-- The state from which the weights of a channel's closed Crests leave their clusters' stores. -/
def State.crestsGone (s : State) (ch : Nat) : State :=
  let t := (s.place.crests.filter (fun c => c.channel == ch)).foldl State.freeCrestCycles s
  { t with place := { t.place with
      pend := t.place.pend.filter (fun p => p.src != AdmitSrc.crest ch)
      crests := t.place.crests.filter (fun c => c.channel != ch) } }

theorem closeCrest_eq (hpend : s.place.pend = []) (ch : Nat) :
    s.closeCrest ch = ((s.place.crests.filter (fun c => c.channel == ch)).foldl (fun t c => t.dropWeights c.cluster)
      (s.crestsGone ch)).afterGone := by
  unfold State.closeCrest
  rw [hpend]
  rfl

/-- The part without the placed Crests of a channel, where nothing waits to be placed. -/
def State.withoutCrests (s : State) (ch : Nat) : State :=
  { s with place := { s.place with
      pend := []
      crests := s.place.crests.filter (fun c => c.channel != ch) } }

theorem vacated_crestsGone (hpend : s.place.pend = []) (ch : Nat) : Vacated (s.withoutCrests ch) (s.crestsGone ch) := by
  have h := Vacated.foldl vacated_freeCrestCycles (s.place.crests.filter (fun c => c.channel == ch)) s
  have hplace := congrArg State.place h
  unfold State.crestsGone
  dsimp only at hplace ⊢
  rw [hplace, hpend]
  exact h.with_place _

theorem State.calm.of_vacated {t : State} (hs : s.calm) (h : Vacated s t) : t.calm := by
  rw [h]
  exact hs

/-- While nothing else waits, closing a channel's Crest takes it off its cluster and touches nothing but registers and
what clusters hold. -/
theorem State.calm.closeCrest (h : s.calm) (ch : Nat) : Vacated (s.withoutCrests ch) (s.closeCrest ch) := by
  obtain ⟨hload, hpend, hstrm⟩ := id h
  have hgone := (vacated_crestsGone hpend ch).trans
    (Vacated.foldl (fun t c => vacated_dropWeights t c.cluster) (s.place.crests.filter (fun c => c.channel == ch)) _)
  have hcalm : (s.withoutCrests ch).calm := ⟨hload, rfl, hstrm⟩
  rw [closeCrest_eq hpend, (hcalm.of_vacated hgone).afterGone]
  exact hgone.trans (vacated_setReg _ _ _)

/-! Outcomes of requests (R324, R325, R329). -/

theorem chan_setChan (s : State) (ch k : Nat) (c : Channel) : (s.setChan ch c).chan k = if k = ch then c else s.chan k :=
  AMap.read_write _ _ _ _ _

/-- A channel that is set is the only one that differs. -/
theorem onlyChan_setChan {t : State} (h : t.casc = s.casc) (ch : Nat) (c : Channel) : OnlyChan s (t.setChan ch c) ch c := by
  have hchan : ∀ k, t.chan k = s.chan k := fun k => by rw [State.chan, h]; rfl
  exact ⟨by rw [chan_setChan, if_pos rfl], fun k hk => by rw [chan_setChan, if_neg hk, hchan]⟩

/-- The counter of an outcome (Table 14-7). -/
def crestCounter (type : Nat) : Nat :=
  [Reg.RPL_CONFIRM, Reg.RPL_REJECT, Reg.RPL_TIMEOUT, Reg.RPL_NOROOM, Reg.RPL_ABANDON].getD (type - 1) Reg.RPL_ABANDON

/-- The counters of outcomes lie together, apart from the ring's registers, the groups' and those of errors. -/
theorem crestCounter_range (type : Nat) : Reg.RPL_CONFIRM ≤ crestCounter type ∧ crestCounter type ≤ Reg.RPL_ABANDON := by
  have hall : ∀ a ∈ [Reg.RPL_CONFIRM, Reg.RPL_REJECT, Reg.RPL_TIMEOUT, Reg.RPL_NOROOM, Reg.RPL_ABANDON],
      Reg.RPL_CONFIRM ≤ a ∧ a ≤ Reg.RPL_ABANDON := by decide
  refine hall _ ?_
  rw [crestCounter, List.getD_eq_getElem?_getD]
  cases h : [Reg.RPL_CONFIRM, Reg.RPL_REJECT, Reg.RPL_TIMEOUT, Reg.RPL_NOROOM, Reg.RPL_ABANDON][type - 1]? with
  | none => simp
  | some a => exact List.mem_of_getElem? h

/-- What a request's event says at its end. -/
def CrestReq.event (r : CrestReq) (type phrase lang conf : Nat) : CascEvent :=
  { type := type, degraded := r.degraded, phrase := phrase, lang := lang, conf := conf, end_ := r.phraseEnd, req := r.tb }

/-- A channel whose request has ended. -/
def State.afterCrest (s : State) (type : Nat) (c : Channel) : Channel :=
  if type = 1 then { c with st := .dune, crest := none } else s.rippled c

/-- The outcome is counted and recorded. -/
def State.crestNoted (s : State) (ch : Nat) (r : CrestReq) (type phrase lang conf : Nat) : State :=
  (s.rplCount (crestCounter type)).cascEvent ch r.group (r.event type phrase lang conf)

/-- The state in which a request has ended but its Crest is not closed yet. -/
def State.crestOutcome (s : State) (ch : Nat) (r : CrestReq) (type phrase lang conf : Nat) : State :=
  let t := s.crestNoted ch r type phrase lang conf
  t.setChan ch (t.afterCrest type (t.chan ch))

theorem crestEnd_eq {ch : Nat} {r : CrestReq} (h : (s.chan ch).crest = some r) (type phrase lang conf : Nat) :
    s.crestEnd ch type phrase lang conf = (s.crestOutcome ch r type phrase lang conf).closeCrest ch := by
  rw [State.crestEnd, h]
  dsimp only
  congr 1
  unfold State.crestOutcome State.afterCrest
  split <;> rfl

/-- A request of channel ch has ended at a time: the channel has become c, the outcome is counted and recorded, and neither
placements nor streams differ. -/
def CrestEnded (s u : State) (tb : Dword) (ch : Nat) (c : Channel) (counter : Nat) (b : List Byte) : Prop :=
  OnlyChan s u ch c ∧ u.rn counter = min (s.rn counter + 1) 0xFFFFFFFF ∧ Recorded .cascade b s u ∧ u.tb = tb ∧
    u.place = s.place ∧ u.streams = s.streams

theorem ne_crestCounter {a : Nat} (h : a < Reg.RPL_CONFIRM ∨ Reg.RPL_ABANDON < a) (type : Nat) : a ≠ crestCounter type := by
  have := crestCounter_range type
  omega

/-- Counting an outcome changes nothing but its counter, the interrupt register and vectors. -/
theorem onlyRegsIrq_countCrest (s : State) (type : Nat) :
    OnlyRegsIrq [crestCounter type, Reg.RPL_INT_STATUS] s (s.rplCount (crestCounter type)) :=
  (count_spec s _ _ _ _ (by decide) (ne_crestCounter (by decide) type).symm).2

theorem reg_countCrest {a : Nat} (h : a < Reg.RPL_CONFIRM ∨ Reg.RPL_ABANDON < a) (hi : a ≠ Reg.RPL_INT_STATUS)
    (s : State) (type : Nat) : (s.rplCount (crestCounter type)).reg a = s.reg a :=
  (onlyRegsIrq_countCrest s type).1 a (by simp [ne_crestCounter h type, hi])

theorem eventBytes_countCrest (s : State) (type ch g : Nat) (e : CascEvent) :
    (s.rplCount (crestCounter type)).eventBytes ch g e = s.eventBytes ch g e := by
  obtain ⟨-, -, heq⟩ := onlyRegsIrq_countCrest s type
  have htb := congrArg State.tb heq
  have hcfg : (s.rplCount (crestCounter type)).reg (Reg.RPL_Gg_CFG g) = s.reg (Reg.RPL_Gg_CFG g) :=
    reg_countCrest (by simp only [Reg.RPL_Gg_CFG, Reg.RPL_ABANDON]; omega)
      (by simp only [Reg.RPL_Gg_CFG, Reg.RPL_INT_STATUS]; omega) s type
  simp only [State.eventBytes, State.groupFn, State.fld, State.rn, htb, hcfg]

/-- An event's record changes none of the cascade's registers from the outcomes' counters on but that of errors. -/
theorem reg_cascEvent_other (s : State) {a : Nat} (hlo : Reg.RPL_CONFIRM ≤ a) (hhi : a < Reg.ACF_MODE)
    (hue : a ≠ Reg.RPL_AON_UE) (ch g : Nat) (e : CascEvent) : (s.cascEvent ch g e).reg a = s.reg a := by
  simp only [Reg.RPL_CONFIRM, Reg.ACF_MODE, Reg.RPL_AON_UE] at hlo hhi hue
  exact reg_ringPut_other s (r := .cascade) (by simp only [ErrorReg, Reg.RPL_AON_UE, Reg.RPL_INT_STATUS]; omega)
    (by simp only [ringRegs, Reg.RPL_EVT_HEAD]; omega) (by simp only [ringRegs, Reg.RPL_EVT_DROP]; omega)
    (by simp only [ringRegs, Reg.RPL_INT_STATUS]; omega) _

section Noted

variable (s : State) (ch : Nat) (r : CrestReq) (type phrase lang conf : Nat)

theorem logged_crestNoted : Logged s (s.crestNoted ch r type phrase lang conf) :=
  (Logged.of_marked (marked_count s _ _ _ _)).trans (logged_ringPut _ _ _)

theorem rn_crestNoted_counter : (s.crestNoted ch r type phrase lang conf).rn (crestCounter type) =
    min (s.rn (crestCounter type) + 1) 0xFFFFFFFF := by
  obtain ⟨hlo, hhi⟩ := crestCounter_range type
  rw [State.crestNoted, State.rn, reg_cascEvent_other _ hlo (lt_of_le_of_lt hhi (by decide))
    (ne_crestCounter (by decide) type).symm]
  exact (count_spec s _ 1 _ 2 (by decide) (ne_crestCounter (by decide) type).symm).1

theorem reg_crestNoted_timing {g : Nat} (hg : g < 64) :
    (s.crestNoted ch r type phrase lang conf).reg (Reg.RPL_Gg_TIMING g) = s.reg (Reg.RPL_Gg_TIMING g) := by
  have hlo : Reg.RPL_ABANDON < Reg.RPL_Gg_TIMING g := by simp only [Reg.RPL_ABANDON, Reg.RPL_Gg_TIMING]; omega
  have hue : Reg.RPL_AON_UE < Reg.RPL_Gg_TIMING g := by simp only [Reg.RPL_AON_UE, Reg.RPL_Gg_TIMING]; omega
  have hhi : Reg.RPL_Gg_TIMING g < Reg.ACF_MODE := by simp only [Reg.ACF_MODE, Reg.RPL_Gg_TIMING]; omega
  rw [State.crestNoted, reg_cascEvent_other _ (le_trans (by decide) hlo.le) hhi hue.ne']
  exact reg_countCrest (.inr hlo) (lt_trans (by decide) hue).ne' s type

theorem recorded_crestNoted : Recorded .cascade (s.eventBytes ch r.group (r.event type phrase lang conf)) s
    (s.crestNoted ch r type phrase lang conf) := by
  obtain ⟨-, -, heq⟩ := onlyRegsIrq_countCrest s type
  have hsetup : ∀ a ∈ ringSetup .cascade, a < Reg.RPL_CONFIRM ∧ a ≠ Reg.RPL_INT_STATUS := by decide
  rw [State.crestNoted, State.cascEvent, eventBytes_countCrest]
  exact (recorded_ringPut _ _ _).of_before
    (fun a ha => reg_countCrest (.inl (hsetup a ha).1) (hsetup a ha).2 s type)
    (by rw [heq]) (by rw [heq]) (by rw [heq])

end Noted

/-- The outcome of a request (R324, R325, R329). -/
theorem crestEnded_crestOutcome (s : State) (ch : Nat) (r : CrestReq) (type phrase lang conf : Nat) :
    CrestEnded s (s.crestOutcome ch r type phrase lang conf) s.tb ch (s.afterCrest type (s.chan ch)) (crestCounter type)
      (s.eventBytes ch r.group (r.event type phrase lang conf)) := by
  have hlog := logged_crestNoted s ch r type phrase lang conf
  have hchan : (s.crestNoted ch r type phrase lang conf).chan ch = s.chan ch := by
    rw [State.chan, hlog.casc]
    rfl
  have hafter : (s.crestNoted ch r type phrase lang conf).afterCrest type (s.chan ch) = s.afterCrest type (s.chan ch) := by
    have hgroup : (s.chan ch).group < 64 := bitsAt_lt _ 0 6
    simp only [State.afterCrest, State.rippled, State.fld, State.rn,
      reg_crestNoted_timing s ch r type phrase lang conf hgroup]
  unfold State.crestOutcome
  dsimp only
  rw [hchan, hafter]
  refine ⟨onlyChan_setChan hlog.casc ch _, ?_, ?_, ?_, ?_, ?_⟩
  · rw [State.rn, State.reg, State.setChan_regs]
    exact rn_crestNoted_counter s ch r type phrase lang conf
  · exact (recorded_crestNoted s ch r type phrase lang conf).of_after (State.setChan_regs _ _ _) (State.setChan_mem _ _ _)
  · rw [State.setChan_tb, hlog.tb]
  · rw [State.setChan_place, hlog.place]
  · rw [State.setChan_streams, hlog.streams]

/-! Decisions and timeouts (R18, R324, R325). -/

theorem chan_reach (s : State) (t ch : Nat) : (s.reach t).chan ch = s.chan ch := rfl

section Decisions

variable {ch : Nat} {r : CrestReq}

theorem doCrestDecision_none (h : (s.chan ch).crest = none) : doCrestDecision ch s = s := by
  rw [doCrestDecision, h]

theorem doCrestTimeout_none (h : (s.chan ch).crest = none) : doCrestTimeout ch s = s := by
  rw [doCrestTimeout, h]

variable (h : (s.chan ch).crest = some r)
include h

theorem doCrestDecision_unplaced (hp : r.placed = none) : doCrestDecision ch s = s := by
  simp [doCrestDecision, h, hp]

/-- A decision after the limit is a timeout. -/
theorem doCrestDecision_late (hp : r.placed.isSome = true) (hl : r.limit < s.tb.toNat) :
    doCrestDecision ch s = (s.crestOutcome ch r 3 r.phrase 0 0).closeCrest ch := by
  simp [doCrestDecision, h, Option.isNone_eq_false_iff.2 hp, hl, crestEnd_eq h]

theorem doCrestTimeout_some :
    doCrestTimeout ch s = ((s.reach r.limit).crestOutcome ch r 3 r.phrase 0 0).closeCrest ch := by
  have hreach : ((s.reach r.limit).chan ch).crest = some r := by rw [chan_reach, h]
  rw [← crestEnd_eq hreach]
  simp only [doCrestTimeout, h]

/-- A decision in time confirms with a confidence that reaches the group's CONF_MIN, or rejects. -/
theorem doCrestDecision_timely (hp : r.placed.isSome = true) (hl : s.tb.toNat ≤ r.limit) :
    ∃ (ok : Bool) (phrase lang conf : Nat), (ok = true → s.fld (Reg.RPL_Gg_CFG r.group) 24 8 ≤ conf) ∧
      doCrestDecision ch s =
        (s.free.2.crestOutcome ch r (if ok then 1 else 2) phrase lang conf).closeCrest ch := by
  have hfree : (s.free.2.chan ch).crest = some r := h
  refine ⟨bitAt s.free.1.toNat 0 && decide (s.fld (Reg.RPL_Gg_CFG r.group) 24 8 ≤ bitsAt s.free.1.toNat 24 8),
    bitsAt s.free.1.toNat 8 8, bitsAt s.free.1.toNat 16 8, bitsAt s.free.1.toNat 24 8, fun hok => ?_, ?_⟩
  · rw [Bool.and_eq_true, decide_eq_true_eq] at hok
    exact hok.2
  · rw [← crestEnd_eq hfree]
    simp only [doCrestDecision, h, Option.isNone_eq_false_iff.2 hp, Nat.not_lt.2 hl, if_false, Bool.false_eq_true]

end Decisions

/-! Sources of channels (R316). -/

/-- A channel whose source has changed. -/
def Channel.sourced (c : Channel) (w : Word) : Channel := { c.fresh with src := w, pendSrc := none }

/-- A channel without a request brought in line with whether it listens. -/
def Channel.updated (c : Channel) (listens : Bool) : Channel :=
  if listens then (if c.st = .off then { c.fresh with st := .ripple, hold := 0 } else c)
  else if c.st = .off then c else { c.cleared with st := .off, hold := 0, inbuf := [], ends := [] }

theorem OnlyChan.trans {t u : State} {ch : Nat} {c c' : Channel} (h1 : OnlyChan s t ch c) (h2 : OnlyChan t u ch c') :
    OnlyChan s u ch c' :=
  ⟨h2.1, fun k hk => (h2.2 k hk).trans (h1.2 k hk)⟩

/-- Bringing a channel without a request in line changes that channel alone. -/
theorem updateOn_spec {ch : Nat} (hc : (s.chan ch).crest = none) :
    OnlyChan s (s.updateOn ch) ch ((s.chan ch).updated (s.mayListen ch)) ∧
      s.updateOn ch = { s with casc := (s.updateOn ch).casc } := by
  have habandon : s.abandonCrest ch = s := by rw [State.abandonCrest, hc]
  have hset : ∀ c, OnlyChan s (s.setChan ch c) ch c ∧ s.setChan ch c = { s with casc := (s.setChan ch c).casc } :=
    fun c => ⟨onlyChan_setChan rfl ch c, rfl⟩
  have hsame : OnlyChan s s ch (s.chan ch) ∧ s = { s with casc := s.casc } := ⟨⟨rfl, fun _ _ => rfl⟩, rfl⟩
  unfold State.updateOn Channel.updated
  rw [habandon]
  dsimp only
  split
  · split
    · exact hset _
    · exact hsame
  · split
    · exact hsame
    · exact hset _

/-- A network channel with a source that has just changed listens where its group is enabled and its kind is a source's. -/
theorem mayListen_sourced {ch : Nat} {c : Channel} {w : Word} (hch : ch < 16384) (hkind : bitsAt w.toNat 30 2 ≠ 3) :
    (s.setChan ch (c.sourced w)).mayListen ch = true ↔ s.groupOn c.group = true ∧ bitsAt w.toNat 30 2 ≠ 0 := by
  have hlt : bitsAt w.toNat 30 2 < 4 := bitsAt_lt _ 30 2
  have hchan : (s.setChan ch (c.sourced w)).chan ch = c.sourced w := by rw [chan_setChan, if_pos rfl]
  have hon : (s.setChan ch (c.sourced w)).groupOn (c.sourced w).group = s.groupOn c.group := rfl
  have hk : (c.sourced w).kind = bitsAt w.toNat 30 2 := rfl
  simp only [State.mayListen, hchan, hon, hk, if_pos hch, Bool.and_eq_true, Bool.or_eq_true, beq_iff_eq]
  exact and_congr_right (fun _ => by omega)

/-- A channel without a request whose source changes while it is off or between frames (R316, Table 14-13). -/
theorem updated_sourced (c : Channel) (w : Word) (listens : Bool) (P : Prop) [Decidable P] (h : listens = true ↔ P) :
    (c.sourced w).updated listens = { c.fresh with
      src := w
      pendSrc := none
      st := if P then (if c.st = .off then .ripple else c.st) else .off
      hold := if P ↔ c.st = .off then 0 else c.hold } := by
  obtain rfl | rfl := Bool.eq_false_or_eq_true listens
  · have hp : P := h.1 rfl
    by_cases hoff : c.st = .off <;> simp [Channel.updated, Channel.sourced, Channel.fresh, Channel.cleared, hp, hoff]
  · have hp : ¬P := fun hp => absurd (h.2 hp) (by decide)
    by_cases hoff : c.st = .off <;> simp [Channel.updated, Channel.sourced, Channel.fresh, Channel.cleared, hp, hoff]

/-- The word a write of RPL_CH_SRC gives a channel. -/
theorem srcWord_eq {v : Nat} {w : Word}
    (hw : w.toNat = bitsAt v 30 2 * 2 ^ 30 + bitsAt v 24 3 * 2 ^ 24 + bitsAt v 16 5 * 2 ^ 16) :
    BitVec.ofNat 32 (bitsAt v 30 2 * 2 ^ 30 + bitsAt v 24 3 * 2 ^ 24 + bitsAt v 16 5 * 2 ^ 16) = w := by
  rw [← hw, BitVec.ofNat_toNat, BitVec.setWidth_eq]

theorem kind_srcWord {v : Nat} {w : Word}
    (hw : w.toNat = bitsAt v 30 2 * 2 ^ 30 + bitsAt v 24 3 * 2 ^ 24 + bitsAt v 16 5 * 2 ^ 16) :
    bitsAt w.toNat 30 2 = bitsAt v 30 2 := by
  have h2 : bitsAt v 30 2 < 4 := bitsAt_lt _ 30 2
  have h3 : bitsAt v 24 3 < 8 := bitsAt_lt _ 24 3
  have h5 : bitsAt v 16 5 < 32 := bitsAt_lt _ 16 5
  rw [hw]
  generalize bitsAt v 30 2 = x at *
  rw [bitsAt, Nat.shiftRight_eq_div_pow]
  omega

section Writes

variable {ch v : Nat} {w : Word}

theorem writeChSrc_ignored (h : 16384 ≤ ch ∨ bitsAt v 30 2 = 3) : s.writeChSrc ch v = s := if_pos h

variable (hch : ch < 16384) (hkind : bitsAt v 30 2 ≠ 3)
  (hw : w.toNat = bitsAt v 30 2 * 2 ^ 30 + bitsAt v 24 3 * 2 ^ 24 + bitsAt v 16 5 * 2 ^ 16)
include hch hkind hw

theorem writeChSrc_eq : s.writeChSrc ch v =
    if w = (s.chan ch).src then s.setChan ch { s.chan ch with pendSrc := none }
    else if (s.chan ch).st = .off ∨ (s.chan ch).inbuf = [] then s.applySrc ch w
    else s.setChan ch { s.chan ch with pendSrc := some w } := by
  rw [State.writeChSrc, srcWord_eq hw]
  exact if_neg (by omega)

end Writes

/-- The outcome of a request in a state v that differs from s in its time and in the free values drawn. -/
theorem crestEnded_at {v : State} {x : Dword} {n : Nat} (hv : v = { s with tb := x, freeCtr := n }) (ch : Nat)
    (r : CrestReq) (type phrase lang conf : Nat) :
    CrestEnded s (v.crestOutcome ch r type phrase lang conf) v.tb ch (s.afterCrest type (s.chan ch)) (crestCounter type)
      (v.eventBytes ch r.group (r.event type phrase lang conf)) := by
  subst hv
  exact crestEnded_crestOutcome _ ch r type phrase lang conf

theorem doChannelRelease_dune {ch : Nat} (h : (s.chan ch).st = .dune) :
    doChannelRelease ch s = s.setChan ch (s.rippled (s.chan ch)) := if_pos h

/-- A write of RPL_CH_SRC that changes the source of a channel without a request at once. -/
theorem applySrc_idle {ch : Nat} {w : Word} (hcrest : (s.chan ch).crest = none) (hch : ch < 16384)
    (hkind : bitsAt w.toNat 30 2 ≠ 3) (P : Prop) [Decidable P]
    (hP : s.groupOn (s.chan ch).group = true ∧ bitsAt w.toNat 30 2 ≠ 0 ↔ P) :
    OnlyChan s (s.applySrc ch w) ch { (s.chan ch).fresh with
      src := w
      pendSrc := none
      st := if P then (if (s.chan ch).st = .off then .ripple else (s.chan ch).st) else .off
      hold := if P ↔ (s.chan ch).st = .off then 0 else (s.chan ch).hold } ∧
    s.applySrc ch w = { s with casc := (s.applySrc ch w).casc } := by
  have hset := onlyChan_setChan (s := s) (t := s) rfl ch ((s.chan ch).sourced w)
  have heq : s.applySrc ch w = (s.setChan ch ((s.chan ch).sourced w)).updateOn ch := by
    rw [State.applySrc, State.abandonCrest, hcrest]
    rfl
  have hnone : ((s.setChan ch ((s.chan ch).sourced w)).chan ch).crest = none := by rw [hset.1]; exact hcrest
  obtain ⟨honly, hrest⟩ := updateOn_spec hnone
  rw [hset.1, updated_sourced _ w _ P ((mayListen_sourced hch hkind).trans hP)] at honly
  rw [heq]
  exact ⟨hset.trans honly, by rw [hrest]; rfl⟩

/-! The commands of a part that runs. -/

section Running

variable (hrun : s.halted = false) (ch : Nat)
include hrun

theorem exec_crestDecision : exec (.crestDecision ch) s = .next (doCrestDecision ch s) := exec_of_running hrun rfl

theorem exec_crestTimeout : exec (.crestTimeout ch) s = .next (doCrestTimeout ch s) := exec_of_running hrun rfl

theorem exec_channelRelease : exec (.channelRelease ch) s = .next (doChannelRelease ch s) := exec_of_running hrun rfl

theorem exec_rplChSrcWrite (v : Word) : exec (.rplChSrcWrite ch v) s = .next (s.writeChSrc ch v.toNat) :=
  exec_of_running (f := fun t => t.writeChSrc ch v.toNat) hrun rfl

end Running

end Sys2Proof.Machine

namespace Sys2Proof.Proofs

open Sys2Proof Sys2Proof.Machine

/-- Settles O44: a request ends in its outcome and then its Crest is closed; the writes of sources follow
`State.writeChSrc` by cases. -/
theorem listeningRequestsEndWithOutcomes : Obligations.ListeningRequestsEndWithOutcomes := by
  intro s ch c hrun hc
  subst hc
  refine ⟨fun hn => ⟨?_, ?_⟩, fun r hr hp => ?_, ?timeout, ?decision, ?close, fun hd => ?_, fun hd => ?_, fun v hv => ?_,
    ?source, ?abandon⟩
  · rw [exec_crestDecision hrun, doCrestDecision_none hn]
  · rw [exec_crestTimeout hrun, doCrestTimeout_none hn]
  · rw [exec_crestDecision hrun, doCrestDecision_unplaced hr hp]
  case timeout =>
    rintro r v i hr (⟨rfl, rfl⟩ | ⟨rfl, rfl, hp, hl⟩)
    · exact ⟨_, (exec_crestTimeout hrun ch).trans (congrArg _ (doCrestTimeout_some hr)),
        crestEnded_at rfl ch r 3 r.phrase 0 0⟩
    · exact ⟨_, (exec_crestDecision hrun ch).trans (congrArg _ (doCrestDecision_late hr hp hl)),
        crestEnded_at rfl ch r 3 r.phrase 0 0⟩
  case decision =>
    intro r hr hp hl
    obtain ⟨ok, phrase, lang, conf, hconf, hdo⟩ := doCrestDecision_timely hr hp hl
    refine ⟨_, ok, phrase, lang, conf, (exec_crestDecision hrun ch).trans (congrArg _ hdo), hconf, ?_⟩
    cases ok with
    | true => exact crestEnded_at (v := s.free.2) rfl ch r 1 phrase lang conf
    | false => exact crestEnded_at (v := s.free.2) rfl ch r 2 phrase lang conf
  case close =>
    intro hcalm
    have h := hcalm.closeCrest ch
    exact ⟨by rw [h]; rfl, by rw [h]; rfl, by rw [h]; rfl, by rw [h]; rfl, by rw [h]; rfl⟩
  · exact ⟨_, (exec_channelRelease hrun ch).trans (congrArg _ (doChannelRelease_dune hd)), onlyChan_setChan rfl ch _, rfl⟩
  · rw [exec_channelRelease hrun, doChannelRelease, if_neg hd]
  · rw [exec_rplChSrcWrite hrun, writeChSrc_ignored hv]
  case source =>
    intro v w hch hkind hw
    have hexec : exec (.rplChSrcWrite ch v) s = .next (s.writeChSrc ch v.toNat) := exec_rplChSrcWrite hrun ch v
    refine ⟨s.writeChSrc ch v.toNat, fun heq => ⟨hexec, ?_⟩, fun hne hon hin => ⟨hexec, ?_⟩, fun hne hat hn => ⟨hexec, ?_⟩⟩
    · rw [writeChSrc_eq hch hkind hw, if_pos heq]
      exact ⟨onlyChan_setChan rfl ch _, rfl⟩
    · rw [writeChSrc_eq hch hkind hw, if_neg hne, if_neg (not_or.2 ⟨hon, hin⟩)]
      exact ⟨onlyChan_setChan rfl ch _, rfl⟩
    · rw [writeChSrc_eq hch hkind hw, if_neg hne, if_pos hat]
      have hk := kind_srcWord hw
      exact applySrc_idle hn hch (hk ▸ hkind) _ (by rw [hk])
  case abandon =>
    intro v w r hch hkind hne hat hw hr
    obtain ⟨honly, hcount, hrec, -, hplace, hstreams⟩ := crestEnded_crestOutcome s ch r 5 r.phrase 0 0
    refine ⟨s.crestOutcome ch r 5 r.phrase 0 0, _, rfl, ?_, honly, hcount, hrec, hplace, hstreams⟩
    rw [exec_rplChSrcWrite hrun, writeChSrc_eq hch hkind hw, if_neg hne, if_pos hat, State.applySrc, State.abandonCrest, hr]
    dsimp only
    rw [crestEnd_eq hr]

end Sys2Proof.Proofs
end

section
/-!
PROOFS. The timebase (R24, R26 to R31): PPS edges, offsets and their correction, holdover, slewing and loads, and the
statements about steps of the queue, reset, and the timebase.
-/

namespace Sys2Proof.Machine

variable {s : State}

/-! Registers and bits that an operation does not name. -/

theorem reg_of_regs {t : State} (h : t.regs = s.regs) (a : Nat) : t.reg a = s.reg a := by
  rw [State.reg, h]; rfl

theorem rbit_congr {t : State} {a : Nat} (h : t.reg a = s.reg a) (i : Nat) : t.rbit a i = s.rbit a i := by
  rw [State.rbit, State.rn, h]; rfl

theorem SameBits.of_regs {t u : State} {a : Nat} {l : List Nat} (h : SameBits a l s t) (hr : u.regs = t.regs) :
    SameBits a l s u :=
  fun i hi => (rbit_congr (reg_of_regs hr a) i).trans (h i hi)

theorem pair_congr {t : State} {a : Nat} (h : t.reg a = s.reg a) (h4 : t.reg (a + 4) = s.reg (a + 4)) :
    t.pair a = s.pair a := by
  rw [State.pair, State.rn, State.rn, h, h4]; rfl

@[simp] theorem State.raise_tb (s : State) (a i : Nat) : (s.raise a i).tb = s.tb := by rw [reported_raise s a i]
@[simp] theorem State.raise_tck (s : State) (a i : Nat) : (s.raise a i).tck = s.tck := by rw [reported_raise s a i]
@[simp] theorem State.raise_mods (s : State) (a i : Nat) : (s.raise a i).mods = s.mods := by rw [reported_raise s a i]

/-! Frames of time: registers of a list, the timebase, its state and vectors. -/

/-- Nothing differs but registers of the list, the timebase and its state, and vectors may have been raised. -/
def TimeFrame (l : List Nat) (s t : State) : Prop :=
  SameRegs l s t ∧ KeepsVectors s t ∧ t = { s with
    regs := t.regs
    tb := t.tb
    tck := t.tck
    host := { s.host with vectors := t.host.vectors } }

section Frames

variable {l : List Nat}

theorem TimeFrame.refl : TimeFrame l s s := ⟨fun _ _ => rfl, fun _ hv => hv, rfl⟩

theorem TimeFrame.trans {t u : State} (h1 : TimeFrame l s t) (h2 : TimeFrame l t u) : TimeFrame l s u := by
  obtain ⟨hregs1, hvec1, heq1⟩ := h1
  obtain ⟨hregs2, hvec2, heq2⟩ := h2
  exact ⟨fun a ha => (hregs2 a ha).trans (hregs1 a ha), fun v hv => hvec2 v (hvec1 v hv), by rw [heq2, heq1]⟩

theorem TimeFrame.mono {t : State} {l' : List Nat} (h : TimeFrame l s t) (hl : l ⊆ l') : TimeFrame l' s t :=
  ⟨fun a ha => h.1 a (fun hm => ha (hl hm)), h.2⟩

theorem TimeFrame.reg {t : State} (h : TimeFrame l s t) {a : Nat} (ha : a ∉ l) : t.reg a = s.reg a := h.1 a ha

/-- Where time stands and no vector is raised, only registers differ. -/
theorem TimeFrame.onlyRegs {t : State} (h : TimeFrame l s t) (htb : t.tb = s.tb) (htck : t.tck = s.tck)
    (hhost : t.host = s.host) : OnlyRegs l s t := by
  obtain ⟨hregs, -, heq⟩ := h
  exact ⟨hregs, by rw [htb, htck, hhost] at heq; exact heq⟩

theorem TimeFrame.onlyRegsIrq {t : State} (h : TimeFrame l s t) (htb : t.tb = s.tb) (htck : t.tck = s.tck) :
    OnlyRegsIrq l s t := by
  obtain ⟨hregs, hvec, heq⟩ := h
  exact ⟨hregs, hvec, by rw [htb, htck] at heq; exact heq⟩

theorem timeFrame_setReg (s : State) {a : Nat} (ha : a ∈ l) (v : Word) : TimeFrame l s (s.setReg a v) :=
  ⟨fun _ hb => reg_setReg_other s v (fun h => hb (h ▸ ha)), fun _ hv => hv, rfl⟩

theorem timeFrame_setPair (s : State) {a : Nat} (ha : a ∈ l) (ha4 : a + 4 ∈ l) (v : Nat) :
    TimeFrame l s (s.setPair a v) :=
  (timeFrame_setReg s ha _).trans (timeFrame_setReg _ ha4 _)

theorem timeFrame_setBit (s : State) {a : Nat} (ha : a ∈ l) (i : Nat) (b : Bool) : TimeFrame l s (s.setBit a i b) :=
  timeFrame_setReg s ha _

theorem timeFrame_raise (s : State) {a i : Nat} (ha : a ∈ l) (hi : i < 32) : TimeFrame l s (s.raise a i) := by
  obtain ⟨-, -, hregs, hvec, heq⟩ := raise_spec s a i hi
  refine ⟨fun b hb => hregs b (fun h => hb (List.mem_singleton.1 h ▸ ha)), hvec, ?_⟩
  conv_lhs => rw [heq]
  rw [State.raise_tb, State.raise_tck]

theorem timeFrame_time (s : State) (tb : Dword) (tck : Tck) : TimeFrame l s { s with tb := tb, tck := tck } :=
  ⟨fun _ _ => rfl, fun _ hv => hv, rfl⟩

end Frames

/-! Offsets and their correction (R26, R28). -/

/-- An offset has been noted and corrected: LOCKED is set anew, and the timebase is stepped forward, or a slew starts, or
neither where the offset is 0. -/
def Corrected (off : Int) (s t : State) : Prop :=
  TimeFrame [Reg.TCK_STATUS, Reg.TCK_INT_STATUS] s t ∧ SameBits Reg.TCK_STATUS [2, 4] s t ∧
  (s.anyPlane = false → off < 0 → t.tb = s.tb + BitVec.ofNat 64 off.natAbs ∧ t.tck = s.tck) ∧
  (off ≠ 0 → s.anyPlane = true ∨ 0 < off →
    t.tb = s.tb ∧ t.tck = { s.tck with slew := -off } ∧ t.rbit Reg.TCK_STATUS 4 = true) ∧
  (off = 0 → t.tb = s.tb ∧ t.tck = s.tck)

section Locked

variable (s) (b : Bool)

theorem timeFrame_setLocked : TimeFrame [Reg.TCK_STATUS, Reg.TCK_INT_STATUS] s (s.setLocked b) := by
  unfold State.setLocked
  dsimp only
  split
  · exact (timeFrame_setBit s (by decide) _ _).trans (timeFrame_raise _ (by decide) (by decide))
  · exact timeFrame_setBit s (by decide) _ _

@[simp] theorem State.setLocked_tb : (s.setLocked b).tb = s.tb := by
  unfold State.setLocked; dsimp only; split <;> simp

@[simp] theorem State.setLocked_tck : (s.setLocked b).tck = s.tck := by
  unfold State.setLocked; dsimp only; split <;> simp

theorem rbit_setLocked (i : Nat) :
    (s.setLocked b).rbit Reg.TCK_STATUS i = if i = 2 then b else s.rbit Reg.TCK_STATUS i := by
  rw [← rbit_setBit s i b (show 2 < 32 by decide)]
  unfold State.setLocked
  dsimp only
  split
  · exact rbit_congr (reg_raise_other _ _ (by decide)) i
  · rfl

theorem setLocked_false : s.setLocked false = s.setBit Reg.TCK_STATUS 2 false := rfl

end Locked

theorem correctTb_zero : s.correctTb 0 = s := if_pos rfl

theorem correctTb_step {off : Int} (hp : s.anyPlane = false) (hoff : off < 0) :
    s.correctTb off = { s with tb := s.tb + BitVec.ofNat 64 off.natAbs } := by
  rw [State.correctTb, if_neg (by omega), if_pos (by simp [hp, hoff])]

theorem correctTb_slew {off : Int} (hoff : off ≠ 0) (h : s.anyPlane = true ∨ 0 < off) :
    s.correctTb off = ({ s with tck := { s.tck with slew := -off } }).setBit Reg.TCK_STATUS 4 true := by
  have hno : ¬((!s.anyPlane && decide (off < 0)) = true) := by
    rcases h with h | h
    · simp [h]
    · simp [show ¬off < 0 by omega]
  rw [State.correctTb, if_neg hoff, if_neg hno]

/-- The three ways of R28 are all the ways there are. -/
theorem correction_cases (s : State) (off : Int) :
    off = 0 ∨ (s.anyPlane = false ∧ off < 0) ∨ (off ≠ 0 ∧ (s.anyPlane = true ∨ 0 < off)) := by
  cases s.anyPlane
  · simp only [true_and, Bool.false_eq_true, false_or]; omega
  · simp only [true_or, and_true]; omega

theorem corrected_setLocked_correctTb (s : State) (b : Bool) (off : Int) :
    Corrected off s ((s.setLocked b).correctTb off) := by
  have hframe := timeFrame_setLocked s b
  have hany : (s.setLocked b).anyPlane = s.anyPlane := by simp only [State.anyPlane, State.plane, State.setLocked_tck]
  have hbits : SameBits Reg.TCK_STATUS [2, 4] s (s.setLocked b) := fun i hi => by
    rw [rbit_setLocked, if_neg (fun h => hi (by simp [h]))]
  rcases correction_cases s off with rfl | ⟨hp, hneg⟩ | ⟨hne, hslew⟩
  · rw [correctTb_zero]
    exact ⟨hframe, hbits, fun _ h => absurd h (by decide), fun h => absurd rfl h, fun _ => by simp⟩
  · rw [correctTb_step (hany.trans hp) hneg]
    exact ⟨hframe.trans (timeFrame_time _ _ _), hbits.of_regs rfl, fun _ _ => by simp, fun _ h => by simp [hp] at h; omega,
      fun h => by omega⟩
  · rw [correctTb_slew hne (by rwa [hany])]
    refine ⟨(hframe.trans (timeFrame_time _ _ _)).trans (timeFrame_setBit _ (by decide) _ _), fun i hi => ?_,
      fun hp hneg => ?_, fun _ _ => ⟨by simp, by simp, ?_⟩, fun h => absurd h hne⟩
    · rw [rbit_setBit _ _ _ (by decide), if_neg (fun h => hi (by simp [h]))]
      exact hbits.of_regs rfl i hi
    · simp [hp] at hslew; omega
    · rw [rbit_setBit _ _ _ (by decide), if_pos rfl]

/-! PPS edges (R26, R27). -/

/-- The selected edge has been seen: the timebase is shown and PPS_PRESENT is set. -/
def State.ppsSeen (s : State) : State := (s.setPair Reg.TCK_PPS_LAST_LO s.tb.toNat).setBit Reg.TCK_STATUS 13 true

/-- The value that an edge is to be compared with: an armed epoch, else the value carried forward. -/
def State.ppsExpected (s : State) : Option Dword :=
  if s.rbit Reg.TCK_STATUS 14 then some (BitVec.ofNat 64 (s.pair Reg.TCK_PPS_EPOCH_LO)) else s.tck.expected

/-- An edge expected at e as it stands before its offset is corrected. -/
def State.ppsNoted (s : State) (e : Dword) : State :=
  let u := (s.setReg Reg.TCK_OFFSET (satOffset ((s.tb.toNat : Int) - e.toNat))).setBit Reg.TCK_STATUS 14 false
  { u with tck := { u.tck with expected := some (e + 1000000000#64) } }

theorem ppsExpected_eq_none : s.ppsExpected = none ↔ s.rbit Reg.TCK_STATUS 14 = false ∧ s.tck.expected = none := by
  unfold State.ppsExpected
  cases s.rbit Reg.TCK_STATUS 14 <;> simp

theorem corrected_comparePps (s : State) (e : Dword) :
    Corrected ((s.tb.toNat : Int) - e.toNat) (s.ppsNoted e) (s.comparePps e) :=
  corrected_setLocked_correctTb (s.ppsNoted e) _ _

theorem doPpsEdge_ignored {r : Bool} (h : s.rbit Reg.TCK_CTRL 8 = r) : doPpsEdge r s = s := if_pos h

section SelectedEdge

variable {r : Bool} (h : s.rbit Reg.TCK_CTRL 8 = !r)
include h

theorem edge_selected : s.rbit Reg.TCK_CTRL 8 ≠ r := by
  rw [h]
  cases r <;> decide

theorem doPpsEdge_otherSource (hsrc : s.tckSrc ≠ 1) : doPpsEdge r s = s.ppsSeen.setBit Reg.TCK_STATUS 14 false := by
  rw [doPpsEdge, if_neg (edge_selected h)]
  exact if_pos hsrc

theorem doPpsEdge_nothingExpected (hsrc : s.tckSrc = 1) (he : s.ppsExpected = none) : doPpsEdge r s = s.ppsSeen := by
  obtain ⟨harmed, hexp⟩ := ppsExpected_eq_none.1 he
  rw [doPpsEdge, if_neg (edge_selected h)]
  simp only [hsrc, harmed, hexp, State.ppsSeen, ne_eq, not_true_eq_false, if_false, Bool.false_eq_true]

theorem doPpsEdge_compares {e : Dword} (hsrc : s.tckSrc = 1) (he : s.ppsExpected = some e) :
    doPpsEdge r s = s.ppsSeen.comparePps e := by
  rw [doPpsEdge, if_neg (edge_selected h), if_neg (not_not.2 hsrc)]
  unfold State.ppsExpected at he
  split at he
  · next harmed => rw [if_pos harmed, ← Option.some.inj he]; rfl
  · next hfree => rw [if_neg hfree, he]; rfl

end SelectedEdge

/-! What an edge that has been seen leaves. -/

theorem rbit_ppsSeen (s : State) (i : Nat) :
    s.ppsSeen.rbit Reg.TCK_STATUS i = if i = 13 then true else s.rbit Reg.TCK_STATUS i := by
  rw [State.ppsSeen, rbit_setBit _ _ _ (by decide), rbit_congr (reg_setPair_other s _ (by decide) (by decide))]

theorem pair_ppsSeen (s : State) : s.ppsSeen.pair Reg.TCK_PPS_LAST_LO = s.tb.toNat := by
  have hpair := pair_setPair_same s Reg.TCK_PPS_LAST_LO s.tb.toNat
  rw [Nat.mod_eq_of_lt s.tb.isLt] at hpair
  rw [State.ppsSeen, pair_congr (reg_setBit_other _ _ _ (by decide)) (reg_setBit_other _ _ _ (by decide)), hpair]

/-- The registers that an edge seen writes. -/
abbrev ppsRegs : List Nat := [Reg.TCK_PPS_LAST_LO, Reg.TCK_PPS_LAST_LO + 4, Reg.TCK_STATUS]

@[simp] theorem ppsSeen_tb (s : State) : s.ppsSeen.tb = s.tb := by simp [State.ppsSeen]
@[simp] theorem ppsSeen_tck (s : State) : s.ppsSeen.tck = s.tck := by simp [State.ppsSeen]
@[simp] theorem ppsSeen_host (s : State) : s.ppsSeen.host = s.host := by simp [State.ppsSeen]
@[simp] theorem ppsSeen_anyPlane (s : State) : s.ppsSeen.anyPlane = s.anyPlane := by simp [State.anyPlane, State.plane]

theorem timeFrame_ppsSeen (s : State) : TimeFrame ppsRegs s s.ppsSeen :=
  (timeFrame_setPair s (by decide) (by decide) _).trans (timeFrame_setBit _ (by decide) _ _)

theorem rbit_ppsNoted (s : State) (e : Dword) (i : Nat) :
    (s.ppsNoted e).rbit Reg.TCK_STATUS i = if i = 14 then false else s.rbit Reg.TCK_STATUS i :=
  (rbit_setBit _ i false (by decide)).trans (by rw [rbit_congr (reg_setReg_other s _ (by decide))])

theorem timeFrame_ppsNoted (s : State) (e : Dword) : TimeFrame [Reg.TCK_STATUS, Reg.TCK_OFFSET] s (s.ppsNoted e) :=
  ((timeFrame_setReg s (by decide) _).trans (timeFrame_setBit _ (by decide) _ _)).trans (timeFrame_time _ _ _)

theorem reg_ppsNoted_offset (s : State) (e : Dword) :
    (s.ppsNoted e).reg Reg.TCK_OFFSET = satOffset ((s.tb.toNat : Int) - e.toNat) :=
  (reg_setBit_other _ _ _ (by decide)).trans (reg_setReg_same s _ _)

/-- The timebase has come to the expected value where it is stepped forward by what it lags. -/
theorem step_to_expected {a e : Dword} (h : a.toNat < e.toNat) :
    a + BitVec.ofNat 64 ((a.toNat : Int) - e.toNat).natAbs = e := by
  rw [show ((a.toNat : Int) - e.toNat).natAbs = e.toNat - a.toNat by omega]
  bv_omega

/-- What a comparison with e leaves (R26 to R28). -/
def Compared (e : Dword) (s t : State) : Prop :=
  t.reg Reg.TCK_OFFSET = satOffset ((s.tb.toNat : Int) - e.toNat) ∧
  t.tck.expected = some (e + 1000000000#64) ∧ t.tck.planes = s.tck.planes ∧
  (s.anyPlane = false → s.tb.toNat < e.toNat → t.tb = e ∧ t.tck.slew = s.tck.slew) ∧
  (s.anyPlane = true ∨ e.toNat ≤ s.tb.toNat → t.tb = s.tb) ∧
  (s.anyPlane = true ∨ e.toNat < s.tb.toNat → s.tb ≠ e →
    t.tck.slew = (e.toNat : Int) - s.tb.toNat ∧ t.rbit Reg.TCK_STATUS 4 = true)

theorem Compared.of_seen {e : Dword} {t : State} (h : Compared e s.ppsSeen t) : Compared e s t := by
  simpa only [Compared, ppsSeen_tb, ppsSeen_tck, ppsSeen_anyPlane] using h

theorem compared_comparePps (s : State) (e : Dword) : Compared e s (s.comparePps e) := by
  obtain ⟨hframe, -, hstep, hslew, hzero⟩ := corrected_comparePps s e
  have hoff : (s.comparePps e).reg Reg.TCK_OFFSET = satOffset ((s.tb.toNat : Int) - e.toNat) :=
    (hframe.reg (by decide)).trans (reg_ppsNoted_offset s e)
  have hne : s.tb ≠ e → (s.tb.toNat : Int) - e.toNat ≠ 0 := fun h h0 => h (BitVec.eq_of_toNat_eq (by omega))
  rcases correction_cases s ((s.tb.toNat : Int) - e.toNat) with h0 | ⟨hp, hneg⟩ | ⟨hn, hs⟩
  · obtain ⟨htb, htck⟩ := hzero h0
    exact ⟨hoff, by rw [htck]; rfl, by rw [htck]; rfl, fun _ _ => by omega, fun _ => htb, fun _ h => absurd h0 (hne h)⟩
  · obtain ⟨htb, htck⟩ := hstep hp hneg
    refine ⟨hoff, by rw [htck]; rfl, by rw [htck]; rfl, fun _ hlt => ⟨htb.trans (step_to_expected hlt), by rw [htck]; rfl⟩,
      fun h => ?_, fun h => ?_⟩
    · simp only [hp, Bool.false_eq_true, false_or] at h; omega
    · simp only [hp, Bool.false_eq_true, false_or] at h; omega
  · obtain ⟨htb, htck, hbit⟩ := hslew hn hs
    refine ⟨hoff, by rw [htck]; rfl, by rw [htck]; rfl, fun hp hlt => ?_, fun _ => htb, fun _ _ => ⟨?_, hbit⟩⟩
    · simp only [hp, Bool.false_eq_true, false_or] at hs; omega
    · rw [htck]; dsimp only; omega

/-- What the selected edge leaves in any case, from the state in which it has been seen. -/
theorem doPpsEdge_after {r : Bool} (h : s.rbit Reg.TCK_CTRL 8 = !r) :
    TimeFrame [Reg.TCK_STATUS, Reg.TCK_OFFSET, Reg.TCK_INT_STATUS] s.ppsSeen (doPpsEdge r s) ∧
    (doPpsEdge r s).rbit Reg.TCK_STATUS 14 = false ∧ SameBits Reg.TCK_STATUS [2, 4, 14] s.ppsSeen (doPpsEdge r s) := by
  by_cases hsrc : s.tckSrc = 1
  · cases he : s.ppsExpected with
    | none =>
      rw [doPpsEdge_nothingExpected h hsrc he, rbit_ppsSeen]
      exact ⟨.refl, (ppsExpected_eq_none.1 he).1, fun _ _ => rfl⟩
    | some e =>
      obtain ⟨hframe, hbits, -⟩ := corrected_comparePps s.ppsSeen e
      rw [doPpsEdge_compares h hsrc he]
      refine ⟨((timeFrame_ppsNoted _ e).mono (by decide)).trans (hframe.mono (by decide)), ?_, fun i hi => ?_⟩
      · rw [hbits 14 (by decide), rbit_ppsNoted, if_pos rfl]
      · simp only [List.mem_cons, List.not_mem_nil, or_false, not_or] at hi
        rw [hbits i (by simp; omega), rbit_ppsNoted, if_neg hi.2.2]
  · rw [doPpsEdge_otherSource h hsrc]
    refine ⟨timeFrame_setBit _ (by decide) _ _, ?_, fun i hi => ?_⟩
    · rw [rbit_setBit _ _ _ (by decide), if_pos rfl]
    · rw [rbit_setBit _ _ _ (by decide), if_neg (fun h => hi (by simp [h]))]

/-- An edge that is compared with nothing changes nothing besides what it shows. -/
theorem doPpsEdge_uncompared {r : Bool} (h : s.rbit Reg.TCK_CTRL 8 = !r)
    (hno : s.tckSrc ≠ 1 ∨ (s.rbit Reg.TCK_STATUS 14 = false ∧ s.tck.expected = none)) :
    SameBits Reg.TCK_STATUS [13, 14] s (doPpsEdge r s) ∧ OnlyRegs ppsRegs s (doPpsEdge r s) := by
  have hseen : SameBits Reg.TCK_STATUS [13, 14] s s.ppsSeen := fun i hi => by
    rw [rbit_ppsSeen, if_neg (fun h => hi (by simp [h]))]
  by_cases hsrc : s.tckSrc = 1
  · rw [doPpsEdge_nothingExpected h hsrc (ppsExpected_eq_none.2 (hno.resolve_left (not_not.2 hsrc)))]
    exact ⟨hseen, (timeFrame_ppsSeen s).onlyRegs (by simp) (by simp) (by simp)⟩
  · rw [doPpsEdge_otherSource h hsrc]
    refine ⟨fun i hi => ?_, ((timeFrame_ppsSeen s).trans (timeFrame_setBit _ (by decide) _ _)).onlyRegs (by simp)
      (by simp) (by simp)⟩
    rw [rbit_setBit _ _ _ (by decide), if_neg (fun h => hi (by simp [h])), hseen i hi]

/-! Holdover (R29). -/

/-- Holdover has ended, before the accumulated offset is corrected. -/
def State.holdoverEnded (s : State) (off : Int) : State :=
  let u := (s.setBit Reg.TCK_STATUS 3 false).setReg Reg.TCK_OFFSET (satOffset off)
  if s.tckSrc = 1 then u.setBit Reg.TCK_STATUS 12 true else u

theorem doHoldoverExit_none {off : Int} (h : s.rbit Reg.TCK_STATUS 3 = false) : doHoldoverExit off s = s := by
  rw [doHoldoverExit, h]; rfl

theorem corrected_doHoldoverExit {off : Int} (h : s.rbit Reg.TCK_STATUS 3 = true) :
    Corrected off (s.holdoverEnded off) (doHoldoverExit off s) := by
  have heq : doHoldoverExit off s =
      ((s.holdoverEnded off).setLocked (decide (off.natAbs ≤ Config.lockTolerance))).correctTb off := by
    rw [doHoldoverExit, h]; rfl
  rw [heq]
  exact corrected_setLocked_correctTb _ _ _

theorem holdoverEnded_spec (s : State) (off : Int) :
    TimeFrame [Reg.TCK_STATUS, Reg.TCK_OFFSET] s (s.holdoverEnded off) ∧
    (s.holdoverEnded off).tb = s.tb ∧ (s.holdoverEnded off).tck = s.tck ∧
    (s.holdoverEnded off).rbit Reg.TCK_STATUS 3 = false ∧ (s.holdoverEnded off).reg Reg.TCK_OFFSET = satOffset off := by
  have hframe : TimeFrame [Reg.TCK_STATUS, Reg.TCK_OFFSET] s
      ((s.setBit Reg.TCK_STATUS 3 false).setReg Reg.TCK_OFFSET (satOffset off)) :=
    (timeFrame_setBit s (by decide) _ _).trans (timeFrame_setReg _ (by decide) _)
  have hbit : ((s.setBit Reg.TCK_STATUS 3 false).setReg Reg.TCK_OFFSET (satOffset off)).rbit Reg.TCK_STATUS 3 = false := by
    rw [rbit_congr (reg_setReg_other _ _ (by decide)), rbit_setBit _ _ _ (by decide), if_pos rfl]
  unfold State.holdoverEnded
  dsimp only
  split
  · refine ⟨hframe.trans (timeFrame_setBit _ (by decide) _ _), by simp, by simp, ?_, ?_⟩
    · exact (rbit_setBit _ _ _ (by decide)).trans ((if_neg (by decide)).trans hbit)
    · exact (reg_setBit_other _ _ _ (by decide)).trans (reg_setReg_same _ _ _)
  · exact ⟨hframe, rfl, rfl, hbit, reg_setReg_same _ _ _⟩

/-- The source whose loss a cause is (Table 02-4). -/
abbrev HoldCause.source : HoldCause → Nat
  | .fabric => 2
  | _ => 1

/-- The presence bit that falls with a lost source. -/
def State.sourceLost (s : State) : HoldCause → State
  | .pps => s.setBit Reg.TCK_STATUS 13 false
  | .refTb => s.setBit Reg.TCK_STATUS 12 false
  | .fabric => s

/-- Holdover has begun and LOCKED has fallen. -/
def State.holdoverBegun (s : State) (c : HoldCause) : State :=
  ((s.sourceLost c).setBit Reg.TCK_STATUS 3 true).setBit Reg.TCK_STATUS 2 false

theorem doHoldoverEnter_eq (c : HoldCause) (s : State) : doHoldoverEnter c s =
    if s.tckSrc = c.source ∧ s.rbit Reg.TCK_STATUS 3 = false then
      (s.holdoverBegun c).raise Reg.TCK_INT_STATUS 0
    else s.sourceLost c := by
  cases c <;> cases hbit : s.rbit Reg.TCK_STATUS 3 <;>
    simp [doHoldoverEnter, State.holdoverBegun, State.sourceLost, HoldCause.source, setLocked_false, hbit]

/-- Nothing but the presence bit of a lost source falls. -/
theorem sourceLost_spec (c : HoldCause) (s : State) :
    SameBits Reg.TCK_STATUS [12, 13] s (s.sourceLost c) ∧ TimeFrame [Reg.TCK_STATUS] s (s.sourceLost c) ∧
    (s.sourceLost c).tb = s.tb ∧ (s.sourceLost c).tck = s.tck ∧ (s.sourceLost c).host = s.host := by
  have hset : ∀ i ∈ [12, 13], SameBits Reg.TCK_STATUS [12, 13] s (s.setBit Reg.TCK_STATUS i false) := fun i hi j hj => by
    rw [rbit_setBit s _ _ (by simp at hi; omega), if_neg (fun (h : j = i) => hj (h ▸ hi))]
  cases c
  · exact ⟨hset 13 (by decide), timeFrame_setBit s (by decide) 13 false, by simp [State.sourceLost]⟩
  · exact ⟨hset 12 (by decide), timeFrame_setBit s (by decide) 12 false, by simp [State.sourceLost]⟩
  · exact ⟨fun _ _ => rfl, .refl, rfl, rfl, rfl⟩

theorem holdoverBegun_spec (c : HoldCause) (s : State) :
    (∀ i, (s.holdoverBegun c).rbit Reg.TCK_STATUS i =
      if i = 2 then false else if i = 3 then true else (s.sourceLost c).rbit Reg.TCK_STATUS i) ∧
    TimeFrame [Reg.TCK_STATUS] s (s.holdoverBegun c) ∧ (s.holdoverBegun c).tb = s.tb ∧ (s.holdoverBegun c).tck = s.tck := by
  obtain ⟨-, hlost, htb, htck, -⟩ := sourceLost_spec c s
  unfold State.holdoverBegun
  refine ⟨fun i => ?_, (hlost.trans (timeFrame_setBit _ (by decide) _ _)).trans (timeFrame_setBit _ (by decide) _ _),
    by simp [htb], by simp [htck]⟩
  rw [rbit_setBit _ _ _ (by decide), rbit_setBit _ _ _ (by decide)]

/-- Losing the selected source begins holdover. -/
theorem doHoldoverEnter_begins {c : HoldCause} (hsrc : s.tckSrc = c.source) (h : s.rbit Reg.TCK_STATUS 3 = false) :
    (doHoldoverEnter c s).rbit Reg.TCK_STATUS 3 = true ∧ (doHoldoverEnter c s).rbit Reg.TCK_STATUS 2 = false ∧
    (doHoldoverEnter c s).rbit Reg.TCK_INT_STATUS 0 = true ∧ SameBits Reg.TCK_INT_STATUS [0] s (doHoldoverEnter c s) ∧
    SameBits Reg.TCK_STATUS [2, 3, 12, 13] s (doHoldoverEnter c s) ∧
    OnlyRegsIrq [Reg.TCK_STATUS, Reg.TCK_INT_STATUS] s (doHoldoverEnter c s) := by
  rw [doHoldoverEnter_eq, if_pos ⟨hsrc, h⟩]
  obtain ⟨hstatus, hbegun, htb, htck⟩ := holdoverBegun_spec c s
  obtain ⟨hbits, -⟩ := sourceLost_spec c s
  obtain ⟨hset, hint, -⟩ := raise_spec (s.holdoverBegun c) Reg.TCK_INT_STATUS 0 (by decide)
  have hkeep : ∀ i, ((s.holdoverBegun c).raise Reg.TCK_INT_STATUS 0).rbit Reg.TCK_STATUS i =
      (s.holdoverBegun c).rbit Reg.TCK_STATUS i := fun i => rbit_congr (reg_raise_other _ _ (by decide)) i
  have hframe : TimeFrame [Reg.TCK_STATUS, Reg.TCK_INT_STATUS] s ((s.holdoverBegun c).raise Reg.TCK_INT_STATUS 0) :=
    (hbegun.mono (by decide)).trans (timeFrame_raise _ (by decide) (by decide))
  refine ⟨by rw [hkeep, hstatus]; rfl, by rw [hkeep, hstatus]; rfl, hset, fun i hi => ?_, fun i hi => ?_,
    hframe.onlyRegsIrq (by simpa using htb) (by simpa using htck)⟩
  · rw [hint i hi, rbit_congr (hbegun.reg (by decide))]
  · simp only [List.mem_cons, List.not_mem_nil, or_false, not_or] at hi
    rw [hkeep, hstatus, if_neg hi.1, if_neg hi.2.1, hbits i (by simp; omega)]

/-! Slewing (R28). -/

/-- The time of a slew is the least number of ns in which the rate of TCK_SLEW absorbs the offset. -/
theorem slewTime_spec (h : s.slewLimit ≠ 0 ∨ s.tck.slew = 0) :
    s.tck.slew.natAbs * 1000000 ≤ s.slewTime * s.slewLimit ∧
    (s.slewTime ≠ 0 → (s.slewTime - 1) * s.slewLimit < s.tck.slew.natAbs * 1000000) := by
  unfold State.slewTime
  rcases Nat.eq_zero_or_pos s.slewLimit with h0 | hpos
  · have hslew : s.tck.slew = 0 := h.resolve_left (not_not.2 h0)
    simp [h0, hslew]
  · rw [Nat.max_eq_right hpos]
    generalize s.tck.slew.natAbs * 1000000 = n
    have hle := Nat.div_mul_le_self (n + s.slewLimit - 1) s.slewLimit
    have hlt := Nat.lt_div_mul_add (a := n + s.slewLimit - 1) hpos
    generalize (n + s.slewLimit - 1) / s.slewLimit = q at *
    refine ⟨by omega, fun hq => ?_⟩
    obtain ⟨j, rfl⟩ := Nat.exists_eq_succ_of_ne_zero hq
    rw [Nat.succ_mul] at hle
    rw [Nat.succ_sub_one]
    omega

theorem doSlewComplete_none (h : s.rbit Reg.TCK_STATUS 4 = false) : doSlewComplete s = s := by
  rw [doSlewComplete, h]; rfl

theorem doSlewComplete_never (h : s.slewLimit = 0) (hs : s.tck.slew ≠ 0) : doSlewComplete s = s := by
  rw [doSlewComplete, if_neg (by simp [h, hs])]

theorem doSlewComplete_ends (hbit : s.rbit Reg.TCK_STATUS 4 = true) (h : s.slewLimit ≠ 0 ∨ s.tck.slew = 0) :
    doSlewComplete s = ({ s with
      tb := s.tb + BitVec.ofInt 64 (s.slewTime + s.tck.slew)
      tck := { s.tck with slew := 0 } }).setBit Reg.TCK_STATUS 4 false := by
  rw [doSlewComplete, if_pos (by simpa [hbit] using h.symm)]

/-! Loads (R31). -/

/-- The stored fields of TCK_CTRL have been written: only status bits of the source differ besides, and what is expected of
the next PPS edge. -/
def CtrlWritten (v : Word) (s t : State) : Prop :=
  t.rn Reg.TCK_CTRL = bitsAt v.toNat 0 2 + bitsAt v.toNat 8 1 * 256 ∧
  SameBits Reg.TCK_STATUS [0, 1, 2, 12] s t ∧ TimeFrame [Reg.TCK_CTRL, Reg.TCK_STATUS] s t ∧ t.tb = s.tb ∧
  t.tck.planes = s.tck.planes ∧ t.tck.slew = s.tck.slew

section Written

variable {t : State} {v : Word}

theorem ctrlWritten_source (s : State) (v : Word) (src : Nat) :
    CtrlWritten v s ((s.setN Reg.TCK_CTRL (bitsAt v.toNat 0 2 + bitsAt v.toNat 8 1 * 256)).setFld Reg.TCK_STATUS 0 2 src) := by
  have h2 : bitsAt v.toNat 0 2 < 4 := bitsAt_lt _ 0 2
  have h1 : bitsAt v.toNat 8 1 < 2 := bitsAt_lt _ 8 1
  refine ⟨?_, fun i hi => ?_, (timeFrame_setReg s (by decide) _).trans (timeFrame_setReg _ (by decide) _),
    by simp, by simp, by simp⟩
  · rw [State.rn, reg_setFld_other _ _ _ _ (by decide), ← State.rn, rn_setN_same]
    omega
  · simp only [List.mem_cons, List.not_mem_nil, or_false, not_or] at hi
    rw [rbit_setFld _ _ _ (by decide), if_neg (by omega)]
    exact rbit_congr (reg_setReg_other s _ (by decide)) i

theorem CtrlWritten.setBit (h : CtrlWritten v s t) {i : Nat} (hi : i ∈ [2, 12]) (b : Bool) :
    CtrlWritten v s (t.setBit Reg.TCK_STATUS i b) := by
  obtain ⟨hctrl, hbits, hframe, htb, hplanes, hslew⟩ := h
  simp only [List.mem_cons, List.not_mem_nil, or_false] at hi
  refine ⟨?_, fun j hj => ?_, hframe.trans (timeFrame_setBit _ (by decide) _ _), by simpa using htb,
    by simpa using hplanes, by simpa using hslew⟩
  · rw [State.rn, reg_setBit_other _ _ _ (by decide)]
    exact hctrl
  · rw [rbit_setBit _ _ _ (by omega), if_neg (fun h => by simp [h, hi] at hj), hbits j hj]

theorem CtrlWritten.expected (h : CtrlWritten v s t) (e : Option Dword) :
    CtrlWritten v s { t with tck := { t.tck with expected := e } } := by
  obtain ⟨hctrl, hbits, hframe, htb, hplanes, hslew⟩ := h
  exact ⟨(congrArg BitVec.toNat (reg_of_regs rfl _)).trans hctrl, hbits.of_regs rfl, hframe.trans (timeFrame_time _ _ _),
    htb, hplanes, hslew⟩

end Written

theorem ctrlWritten_setTckCtrl (s : State) (v : Word) : CtrlWritten v s (s.setTckCtrl v) := by
  unfold State.setTckCtrl
  dsimp only
  split
  · exact ctrlWritten_source s v _
  · refine CtrlWritten.expected ?_ none
    split
    · exact ((ctrlWritten_source s v _).setBit (by decide) _).setBit (by decide) _
    · exact (ctrlWritten_source s v _).setBit (by decide) _

theorem pair_lt (s : State) (a : Nat) : s.pair a < 2 ^ 64 := by
  have hlo := rn_lt s a
  have hhi := rn_lt s (a + 4)
  unfold State.pair
  omega

theorem toNat_ofNat_pair (s : State) (a : Nat) : (BitVec.ofNat 64 (s.pair a)).toNat = s.pair a := by
  rw [BitVec.toNat_ofNat, Nat.mod_eq_of_lt (pair_lt s a)]

section TbLoad

variable {v : Word}

theorem doTbLoad_none (h : bitAt v.toNat 4 = false) : doTbLoad v s = s.setTckCtrl v := if_pos (by simp [h])

theorem doTbLoad_refused (h : bitAt v.toNat 4 = true) (hp : s.anyPlane = true) :
    doTbLoad v s = (s.setTckCtrl v).raise Reg.TCK_INT_STATUS 5 := by
  rw [doTbLoad, if_neg (by simp [h]), if_pos hp]

theorem doTbLoad_loads (h : bitAt v.toNat 4 = true) (hp : s.anyPlane = false) :
    (doTbLoad v s).regs = (s.setTckCtrl v).regs ∧ (doTbLoad v s).tb.toNat = s.pair Reg.TCK_TB_SET_LO ∧
    (doTbLoad v s).tck = (s.setTckCtrl v).tck := by
  rw [doTbLoad, if_neg (by simp [h]), if_neg (by simp [hp])]
  exact ⟨rfl, toNat_ofNat_pair s _, rfl⟩

theorem timeFrame_doTbLoad (s : State) (v : Word) :
    TimeFrame [Reg.TCK_CTRL, Reg.TCK_STATUS, Reg.TCK_INT_STATUS] s (doTbLoad v s) := by
  obtain ⟨-, -, hframe, -⟩ := ctrlWritten_setTckCtrl s v
  have hwritten := hframe.mono (l' := [Reg.TCK_CTRL, Reg.TCK_STATUS, Reg.TCK_INT_STATUS]) (by decide)
  unfold doTbLoad
  dsimp only
  split
  · exact hwritten
  · split
    · exact hwritten.trans (timeFrame_raise _ (by decide) (by decide))
    · exact hwritten.trans (timeFrame_time _ _ _)

end TbLoad

end Sys2Proof.Machine

namespace Sys2Proof.Proofs

open Sys2Proof Sys2Proof.Machine

/-- Settles O1: `step` takes the front of the queue by definition. -/
theorem stepRunsFrontCommand : Obligations.StepRunsFrontCommand := by
  refine ⟨fun c rest s hq => ?_, fun s hq => ?_⟩
  · rw [step, hq]
  · rw [step, hq]

/-- Settles O2: at reset every map of the state is empty, so that each entry reads as unlisted. -/
theorem resetState : Obligations.ResetState := by
  have hslot : ∀ i, 1 ≤ i → State.reset.slotState i = 0 := fun i hi => by
    have hempty : State.reset.slot i = [] := if_neg (by omega)
    rw [State.slotState, hempty]
    rfl
  exact ⟨rfl, rfl, fun _ => rfl, fun _ => rfl, by decide, fun _ => rfl, fun _ => rfl, hslot, rfl⟩

/-- Settles O11: an edge is ignored, noted alone, or compared, and a comparison ends in the correction of R28. -/
theorem ppsEdgeAndEpoch : Obligations.PpsEdgeAndEpoch := by
  intro s hrun
  refine ⟨fun hi v => ?epoch, fun r hr => ?ignored, fun r hr => ⟨doPpsEdge r s, exec_of_running hrun rfl, ?_⟩⟩
  case epoch =>
    have hframe : TimeFrame [if hi then Reg.TCK_PPS_EPOCH_HI else Reg.TCK_PPS_EPOCH_LO, Reg.TCK_STATUS] s
        (doPpsEpochWrite hi v s) :=
      (timeFrame_setReg s (by simp) v).trans (timeFrame_setBit _ (by simp) _ _)
    refine ⟨doPpsEpochWrite hi v s, exec_of_running hrun rfl, ?_, ?_, fun i hi14 => ?_,
      hframe.onlyRegs (by simp [doPpsEpochWrite]) (by simp [doPpsEpochWrite]) (by simp [doPpsEpochWrite])⟩
    · rw [doPpsEpochWrite, reg_setBit_other _ _ _ (by cases hi <;> decide), reg_setReg_same]
    · rw [doPpsEpochWrite, rbit_setBit _ _ _ (by decide), if_pos rfl]
    · rw [doPpsEpochWrite, rbit_setBit _ _ _ (by decide), if_neg (by simpa using hi14)]
      exact rbit_congr (reg_setReg_other s v (by cases hi <;> decide)) i
  case ignored => rw [exec_of_running (f := doPpsEdge r) hrun rfl, doPpsEdge_ignored hr]
  obtain ⟨hafter, hdisarmed, hbits⟩ := doPpsEdge_after hr
  have hframe : TimeFrame (ppsRegs ++ [Reg.TCK_OFFSET, Reg.TCK_INT_STATUS]) s (doPpsEdge r s) :=
    ((timeFrame_ppsSeen s).mono (by decide)).trans (hafter.mono (by decide))
  refine ⟨?last, ?present, hdisarmed, doPpsEdge_uncompared hr, fun e hsrc he => ?compared⟩
  case last =>
    rw [pair_congr (hafter.reg (by decide)) (hafter.reg (by decide)), pair_ppsSeen]
  case present => rw [hbits 13 (by decide), rbit_ppsSeen, if_pos rfl]
  case compared =>
    have hsame : SameBits Reg.TCK_STATUS [2, 4, 13, 14] s (doPpsEdge r s) := fun i hi => by
      simp only [List.mem_cons, List.not_mem_nil, or_false, not_or] at hi
      rw [hbits i (by simp; omega), rbit_ppsSeen, if_neg hi.2.2.1]
    have hcomp : Compared e s (doPpsEdge r s) := by
      rw [doPpsEdge_compares hr hsrc he]
      exact (compared_comparePps s.ppsSeen e).of_seen
    obtain ⟨hoff, hexp, hplanes, hstep, htb, hslew⟩ := hcomp
    exact ⟨hoff, hexp, hplanes, hstep, htb, hslew, hsame, hframe⟩

/-- Settles O12: each command either does not apply or is the correction, the slew or the loss that R28 and R29 give. -/
theorem offsetsAreSteppedForwardOrSlewed : Obligations.OffsetsAreSteppedForwardOrSlewed := by
  intro s hrun
  have hexit : ∀ off, exec (.holdoverExit off) s = .next (doHoldoverExit off s) := fun off => exec_of_running hrun rfl
  have hslew : exec .slewComplete s = .next (doSlewComplete s) := exec_of_running hrun rfl
  have henter : ∀ c, exec (.holdoverEnter c) s = .next (doHoldoverEnter c s) := fun c => exec_of_running hrun rfl
  refine ⟨fun off h => by rw [hexit, doHoldoverExit_none h], fun off h => ⟨_, hexit off, ?exits⟩,
    fun h => by rw [hslew, doSlewComplete_none h], fun h hs => by rw [hslew, doSlewComplete_never h hs],
    fun hbit h => ⟨_, s.slewTime, hslew, ?slews⟩, fun c hsrc hbit => ⟨_, henter c, doHoldoverEnter_begins hsrc hbit⟩,
    fun c hno => ⟨_, henter c, ?other⟩⟩
  case exits =>
    obtain ⟨hframe, htb, htck, hbit, hoff⟩ := holdoverEnded_spec s off
    obtain ⟨hcframe, hcbits, hstep, hsl, hzero⟩ := corrected_doHoldoverExit (off := off) h
    have hany : (s.holdoverEnded off).anyPlane = s.anyPlane := by simp only [State.anyPlane, State.plane, htck]
    rw [hany, htb, htck] at hstep hsl
    rw [htb, htck] at hzero
    exact ⟨(hcbits 3 (by decide)).trans hbit, (hcframe.reg (by decide)).trans hoff, hstep, hsl, hzero,
      (hframe.mono (by decide)).trans (hcframe.mono (by decide))⟩
  case slews =>
    obtain ⟨hle, hlt⟩ := slewTime_spec h
    rw [doSlewComplete_ends hbit h]
    refine ⟨by simp, hle, hlt, by simp, ?_, fun i hi => ?_, fun a ha => ?_, rfl⟩
    · rw [rbit_setBit _ _ _ (by decide), if_pos rfl]
    · rw [rbit_setBit _ _ _ (by decide), if_neg (by simpa using hi)]
      exact rbit_congr (reg_of_regs rfl _) i
    · exact reg_setBit_other _ _ _ (by simpa using ha)
  case other =>
    have hno' : ¬(s.tckSrc = c.source ∧ s.rbit Reg.TCK_STATUS 3 = false) := fun h =>
      hno.elim (fun hs => hs h.1) (fun hb => by simp [h.2] at hb)
    rw [doHoldoverEnter_eq, if_neg hno']
    obtain ⟨hbits, hframe, htb, htck, hhost⟩ := sourceLost_spec c s
    exact ⟨hbits, hframe.onlyRegs htb htck hhost⟩

/-- Settles O13: the stored fields are written in any case; TB_LOAD then loads, is refused, or is not set. -/
theorem timebaseLoadsOnlyWithoutPlanes : Obligations.TimebaseLoadsOnlyWithoutPlanes := by
  intro s hrun v
  have hw := ctrlWritten_setTckCtrl s v
  refine ⟨doTbLoad v s, exec_of_running hrun rfl, ?_⟩
  obtain ⟨hctrl, hbits, hframe, htb, hplanes, hslew⟩ := hw
  have hint : (s.setTckCtrl v).reg Reg.TCK_INT_STATUS = s.reg Reg.TCK_INT_STATUS := hframe.reg (by decide)
  cases hload : bitAt v.toNat 4 with
  | false =>
    obtain ⟨hsame, hvec, heq⟩ := timeFrame_doTbLoad s v
    rw [doTbLoad_none hload] at hsame hvec heq ⊢
    exact ⟨hctrl, nofun, nofun, fun _ => ⟨htb, hint⟩, hsame, hbits, hvec, hplanes, hslew, heq⟩
  | true =>
    cases hp : s.anyPlane with
    | true =>
      obtain ⟨hset, hother, -⟩ := raise_spec (s.setTckCtrl v) Reg.TCK_INT_STATUS 5 (by decide)
      obtain ⟨hsame, hvec, heq⟩ := timeFrame_doTbLoad s v
      rw [doTbLoad_refused hload hp] at hsame hvec heq ⊢
      refine ⟨?_, nofun, fun _ _ => ⟨by simpa using htb, hset, fun i hi => ?_⟩, nofun, hsame, fun i hi => ?_, hvec,
        by simpa using hplanes, by simpa using hslew, heq⟩
      · rw [State.rn, reg_raise_other _ _ (by decide)]
        exact hctrl
      · exact (hother i hi).trans (rbit_congr hint i)
      · exact (rbit_congr (reg_raise_other _ _ (by decide)) i).trans (hbits i hi)
    | false =>
      obtain ⟨hsame, hvec, heq⟩ := timeFrame_doTbLoad s v
      obtain ⟨hr, hl, htck⟩ := doTbLoad_loads hload hp
      generalize doTbLoad v s = t at *
      exact ⟨(congrArg BitVec.toNat (reg_of_regs hr _)).trans hctrl, fun _ _ => ⟨hl, (reg_of_regs hr _).trans hint⟩,
        nofun, nofun, hsame, hbits.of_regs hr, hvec, by rw [htck, hplanes], by rw [htck, hslew], heq⟩

end Sys2Proof.Proofs
end

section
/-!
PROOFS. Moderation intervals and the tails of record rings (R46, R47, R455, R458).
-/

namespace Sys2Proof.Machine

variable {s : State}

theorem mod_setMod (s : State) (k j : Nat) (x : Moderation) : (s.setMod k x).mod j = if j = k then x else s.mod j :=
  AMap.read_write _ _ _ _ _

theorem mod_of_mods {t : State} (h : t.mods = s.mods) (k : Nat) : t.mod k = s.mod k := by
  rw [State.mod, h]; rfl

/-! The end of a moderation interval. -/

/-- The state in which the interval of a moderated cause is over: the timebase has come to its end (log 13). -/
def State.atIntervalEnd (s : State) (key : Nat) : State := s.reach ((s.mod key).since + (s.mod key).span)

section Interval

variable {int bit key : Nat}

theorem endInterval_none (h : (s.mod key).running = false) : s.endInterval int bit key = s := if_pos (by simp [h])

theorem endInterval_due (h : (s.mod key).running = true) (hd : (s.mod key).due = true) :
    s.endInterval int bit key = ((s.atIntervalEnd key).raise int bit).setMod key { s.mod key with
      due := false
      since := (s.atIntervalEnd key).tb.toNat } := by
  rw [State.endInterval]
  simp only [h, hd, Bool.not_true, Bool.false_eq_true, if_false, if_true]
  rfl

theorem endInterval_quiet (h : (s.mod key).running = true) (hd : (s.mod key).due = false) :
    s.endInterval int bit key = (s.atIntervalEnd key).setMod key {} := by
  rw [State.endInterval]
  simp only [h, hd, Bool.not_true, Bool.false_eq_true, if_false]
  rfl

/-- A moderation interval has been brought to its end. -/
def IntervalEnded (int bit key : Nat) (s t : State) : Prop :=
  ((s.mod key).running = true → (s.mod key).due = true →
    t.rbit int bit = true ∧ t.mod key = { s.mod key with
      due := false
      since := t.tb.toNat } ∧ SameRegs [int] s t ∧ SameBits int [bit] s t) ∧
  ((s.mod key).running = true → (s.mod key).due = false → t.mod key = {} ∧ t.regs = s.regs) ∧
  ((s.mod key).running = false → t = s) ∧
  (∀ k, k ≠ key → t.mod k = s.mod k) ∧ KeepsVectors s t ∧ t = { s with
    tb := if (s.mod key).running = true then (s.atIntervalEnd key).tb else s.tb
    regs := t.regs
    mods := t.mods
    host := { s.host with vectors := t.host.vectors } }

theorem intervalEnded_endInterval (hbit : bit < 32) : IntervalEnded int bit key s (s.endInterval int bit key) := by
  cases hr : (s.mod key).running with
  | false =>
    rw [endInterval_none hr]
    exact ⟨by simp [hr], by simp [hr], fun _ => rfl, fun _ _ => rfl, fun _ hv => hv, by simp [hr]⟩
  | true =>
    cases hd : (s.mod key).due with
    | true =>
      obtain ⟨hset, hbits, hregs, hvec, heq⟩ := raise_spec (s.atIntervalEnd key) int bit hbit
      rw [endInterval_due hr hd]
      refine ⟨fun _ _ => ⟨hset, ?_, hregs, hbits⟩, by simp [hd], by simp [hr], fun k hk => ?_, hvec, ?_⟩
      · rw [mod_setMod, if_pos rfl, State.setMod_tb, State.raise_tb]
      · rw [mod_setMod, if_neg hk]
        exact mod_of_mods (State.raise_mods _ _ _) k
      · simp only [hr, if_true, State.setMod, State.raise_mods]
        conv_lhs => rw [heq]
        rfl
    | false =>
      rw [endInterval_quiet hr hd]
      refine ⟨by simp [hd], fun _ _ => ⟨?_, rfl⟩, by simp [hr], fun k hk => ?_, fun _ hv => hv, ?_⟩
      · rw [mod_setMod, if_pos rfl]
      · rw [mod_setMod, if_neg hk]
        rfl
      · simp only [hr, if_true]
        rfl

end Interval

theorem recBit_lt (r : RingId) : (ringRegs r).recBit < 32 := by cases r <;> simp only [ringRegs] <;> omega

/-- Every record ring but those of ATTEND is moderated. -/
theorem doEventModIntervalEnd_eq {r : RingId} (h : ∀ a, r ≠ .attend a) (s : State) :
    doEventModIntervalEnd r s = s.endInterval (ringRegs r).int (ringRegs r).recBit (ringRegs r).key := by
  cases r with
  | attend a => exact absurd rfl (h a)
  | _ => rfl

/-! Tails. -/

theorem doRingTailWrite_taken {r : RingId} {v : Word} (h : (s.reg (ringRegs r).head - v).toNat ≤ 2 ^ s.ringLog r) :
    doRingTailWrite r v s = s.setReg (ringRegs r).tail v := if_pos (decide_eq_true h)

theorem doRingTailWrite_ignored {r : RingId} {v : Word} (h : 2 ^ s.ringLog r < (s.reg (ringRegs r).head - v).toNat) :
    doRingTailWrite r v s = s := if_neg (by simpa [State.tailOk] using h)

theorem doErrTailWrite_ignored {v : Word} (h : s.errOpen < (v - s.reg Reg.ERR_TAIL).toNat) : doErrTailWrite v s = s :=
  if_pos h

/-- Open error records after ERR_TAIL has been set: those from it to ERR_HEAD. -/
def State.openFrom (s : State) (v : Word) : List (Nat × Nat) :=
  s.errs.openRecs.filter (fun r => decide ((BitVec.ofNat 32 r.1 - v).toNat < (s.reg Reg.ERR_HEAD - v).toNat))

theorem doErrTailWrite_taken {v : Word} (h : (v - s.reg Reg.ERR_TAIL).toNat ≤ s.errOpen) :
    doErrTailWrite v s = { s.setReg Reg.ERR_TAIL v with errs := { s.errs with openRecs := s.openFrom v } } :=
  if_neg (Nat.not_lt.2 h)

end Sys2Proof.Machine

namespace Sys2Proof.Proofs

open Sys2Proof Sys2Proof.Machine

/-- Settles O16: the writes of tails by their ranges, and both ends of intervals by `intervalEnded_endInterval`. -/
theorem ringTailsAndIntervals : Obligations.RingTailsAndIntervals := by
  intro s hrun
  have htail : ∀ r v, exec (.ringTailWrite r v) s = .next (doRingTailWrite r v s) := fun r v => exec_of_running hrun rfl
  have hend : ∀ r, exec (.eventModIntervalEnd r) s = .next (doEventModIntervalEnd r s) := fun r => exec_of_running hrun rfl
  have herr : ∀ v, exec (.errTailWrite v) s = .next (doErrTailWrite v s) := fun v => exec_of_running hrun rfl
  refine ⟨fun r v h => ⟨_, htail r v, ?_⟩, fun r v h => by rw [htail, doRingTailWrite_ignored h],
    fun r hr => ⟨_, hend r, ?_⟩, fun a => hend (.attend a), fun v h => ⟨_, herr v, ?errTail⟩,
    fun v h => by rw [herr, doErrTailWrite_ignored h],
    s.endInterval Reg.ERR_INT_STATUS 0 2, exec_of_running (f := fun t => t.endInterval Reg.ERR_INT_STATUS 0 2) hrun rfl, ?errEnd⟩
  · rw [doRingTailWrite_taken h]
    exact ⟨reg_setReg_same s _ v, onlyRegs_setReg s _ v⟩
  · rw [doEventModIntervalEnd_eq hr]
    exact intervalEnded_endInterval (recBit_lt r)
  case errTail =>
    rw [doErrTailWrite_taken h]
    refine ⟨reg_setReg_same s _ v, (onlyRegs_setReg s _ v).1, fun r hr => ?_, rfl⟩
    obtain ⟨hmem, hlt⟩ := List.mem_filter.1 hr
    exact ⟨hmem, of_decide_eq_true hlt⟩
  case errEnd =>
    obtain ⟨hdue, hquiet, hnone, hother, hvec, heq⟩ :=
      intervalEnded_endInterval (s := s) (int := Reg.ERR_INT_STATUS) (bit := 0) (key := 2) (by decide)
    refine ⟨fun hr hd => ?_, hquiet, hnone, hother, hvec, heq⟩
    obtain ⟨hset, hmod, hregs, -⟩ := hdue hr hd
    exact ⟨hset, hmod, hregs⟩

end Sys2Proof.Proofs
end

section
/-!
PROOFS. Ticks (R33 to R35, R38, R52, R68): what the delivery of a tick and the yield of units change, and a grain tick at
which a paused stream asks for its restore.
-/

namespace Sys2Proof.Machine

variable {s : State}

/-! The delivery of a tick (R35, R52). -/

theorem plane_setPlane (s : State) (p q : Nat) (x : Option Plane) :
    (s.setPlane p x).plane q = if q = p then x else s.plane q :=
  AMap.read_write _ _ _ _ _

theorem tbgUsed_ne_tbgPeak (cl b c : Nat) : Reg.TBG_USED cl b ≠ Reg.TBG_PEAK cl c := by
  simp only [Reg.TBG_USED, Reg.TBG_PEAK]
  omega

/-- A plane whose tick has been delivered to a cluster. -/
def Plane.deliveredTo (x : Plane) (cl : Nat) (frame : Bool) : Plane :=
  { x with given := AMap.write (fun _ => 0) x.given (2 * cl + b2n frame) (x.count frame) }

/-- The cycles that the budget's work spent are shown, and their largest value. -/
def State.showUsed (s : State) (cl b used : Nat) : State :=
  let t := s.setN (Reg.TBG_USED cl b) (min used 0xFFFFFFFF)
  if t.rn (Reg.TBG_PEAK cl b) < t.rn (Reg.TBG_USED cl b) then t.setReg (Reg.TBG_PEAK cl b) (t.reg (Reg.TBG_USED cl b)) else t

theorem deliverTick_eq {cl : Fin 96} {p : Fin 4} {frame : Bool} {x : Plane} (h : s.plane p = some x) (used : Nat) :
    deliverTick cl p frame used s =
      (s.setPlane p (some (x.deliveredTo cl frame))).showUsed cl (2 * p + b2n frame) used := by
  rw [deliverTick, h]
  rfl

theorem OnlyRegs.trans {l : List Nat} {t u : State} (h1 : OnlyRegs l s t) (h2 : OnlyRegs l t u) : OnlyRegs l s u := by
  obtain ⟨hregs1, heq1⟩ := h1
  obtain ⟨hregs2, heq2⟩ := h2
  exact ⟨fun a ha => (hregs2 a ha).trans (hregs1 a ha), by rw [heq2, heq1]⟩

theorem onlyRegs_setReg_mem (s : State) {l : List Nat} {a : Nat} (h : a ∈ l) (v : Word) : OnlyRegs l s (s.setReg a v) :=
  ⟨fun _ hb => reg_setReg_other s v (fun he => hb (he ▸ h)), rfl⟩

theorem showUsed_spec (s : State) (cl b used : Nat) :
    (s.showUsed cl b used).rn (Reg.TBG_USED cl b) = min used 0xFFFFFFFF ∧
    (s.showUsed cl b used).rn (Reg.TBG_PEAK cl b) = max (s.rn (Reg.TBG_PEAK cl b)) (min used 0xFFFFFFFF) ∧
    OnlyRegs [Reg.TBG_USED cl b, Reg.TBG_PEAK cl b] s (s.showUsed cl b used) := by
  have hne := tbgUsed_ne_tbgPeak cl b b
  have hlt : min used 0xFFFFFFFF < 2 ^ 32 := by omega
  have hframe : ∀ v, OnlyRegs [Reg.TBG_USED cl b, Reg.TBG_PEAK cl b] s (s.setN (Reg.TBG_USED cl b) v) := fun v =>
    onlyRegs_setReg_mem s (by simp) _
  unfold State.showUsed
  generalize min used 0xFFFFFFFF = m at *
  have hused : (s.setN (Reg.TBG_USED cl b) m).rn (Reg.TBG_USED cl b) = m := by
    rw [rn_setN_same, Nat.mod_eq_of_lt hlt]
  have hpeak : (s.setN (Reg.TBG_USED cl b) m).rn (Reg.TBG_PEAK cl b) = s.rn (Reg.TBG_PEAK cl b) :=
    rn_setN_other s _ hne.symm
  dsimp only
  split
  · next hless =>
    rw [hused, hpeak] at hless
    refine ⟨?_, ?_, (hframe m).trans (onlyRegs_setReg_mem _ (by simp) _)⟩
    · rw [State.rn, reg_setReg_other _ _ hne]
      exact hused
    · rw [State.rn, reg_setReg_same, Nat.max_eq_right hless.le]
      exact hused
  · next hle =>
    rw [hused, hpeak] at hle
    exact ⟨hused, by rw [hpeak, Nat.max_eq_left (Nat.not_lt.1 hle)], hframe m⟩

/-! A cluster with nothing to do at a tick. -/

theorem releaseTicks_of_none {l : List Nat} (h : ∀ n ∈ l, (s.core n).wait = none) (p : Nat) (frame : Bool) (c : Nat) :
    releaseTicks p frame c s l = s := by
  induction l with
  | nil => rfl
  | cons n t ih =>
    rw [List.forall_mem_cons] at h
    rw [releaseTicks, h.1]
    exact ih h.2

section Empty

variable {cl : Nat} (h : ∀ e ∈ s.streams, e.2.cluster ≠ some cl)
include h

theorem tickStreams_of_empty (p : Nat) (frame : Bool) : s.tickStreams cl p frame = [] := by
  have hnone : s.streams.filter (fun e => e.2.cluster == some cl &&
      ((s.graphOf e.2.graph).map (fun g => g.ticked && g.plane == p && g.frame == frame)).getD false) = [] :=
    List.filter_eq_nil_iff.2 (fun e he => by simp [h e he])
  rw [State.tickStreams, hnone]
  rfl

theorem placedOn_of_empty (excl : List Nat) : s.placedOn cl excl = [] :=
  List.filter_eq_nil_iff.2 (fun e he => by simp [h e he])

theorem grainReady_of_empty : s.grainReady cl = false :=
  List.any_eq_false.2 (fun e he => by simp [h e he])

theorem coreWanted_of_empty : s.coreWanted cl = false :=
  List.any_eq_false.2 (fun e he => by simp [h e he])

theorem coresFreed_of_empty : s.coresFreed cl = s := by
  rw [State.coresFreed, placedOn_of_empty h]
  rfl

end Empty

/-- A tick sets nothing going on a cluster without streams whose cores do not wait. -/
theorem tickWork_of_empty {cl : Fin 96} (h : ∀ e ∈ s.streams, e.2.cluster ≠ some cl.val)
    (hcores : ∀ n ∈ coresOf cl, (s.core n).wait = none) (p : Fin 4) (frame : Bool) : s.tickWork cl p frame = s := by
  unfold State.tickWork
  rw [tickStreams_of_empty h]
  simp only [fixTicks, grainReady_of_empty h, Bool.and_false, Bool.false_eq_true, if_false, releaseTicks_of_none hcores,
    coreWanted_of_empty h, Bool.false_and, coresFreed_of_empty h, placedOn_of_empty h, List.map_nil, runDues, leaveAll,
    lookAll]

/-! Units that yield (R38, R96). -/

/-- What unit u of a cluster runs. -/
def State.unitOp (s : State) (cl u : Nat) : Option SavedOp := AMap.read (fun _ => none) (s.wk cl).running u

theorem graph_strm_modStrm (s : State) (h k : Nat) (f : Stream → Stream) (hf : (f (s.strm h)).graph = (s.strm h).graph) :
    ((s.modStrm h f).strm k).graph = (s.strm k).graph := by
  have hread : (s.modStrm h f).strm k = if k = h then f (s.strm h) else s.strm k := AMap.read_write _ _ _ _ _
  rw [hread]
  split
  · next heq => rw [hf, heq]
  · rfl

theorem grainBound_congr {t : State} (hs : t.structure_ = s.structure_) {h : Nat}
    (hg : (t.strm h).graph = (s.strm h).graph) : t.grainBound h = s.grainBound h := by
  rw [State.grainBound, hg, State.graphOf, hs]
  rfl

/-- The part with the operation of a unit saved and the unit idle. -/
def State.unitStopped (s : State) (cl u : Nat) (o : SavedOp) : State :=
  let x := s.saveOp cl u o
  let w := x.2.wk cl
  ((x.2.setWk cl { w with
    running := AMap.write (fun _ => none) w.running u none
    saved := w.saved ++ [x.1] }).setN (unitStatus cl u) 0).setN (unitMode cl u) 0

/-- A stream whose step has yielded. -/
def Stream.yields (x : Stream) : Stream := { x with step := x.step.map (fun r => { r with yielded := true }) }

/-- The part after a unit has yielded, before the yield is counted. -/
def State.unitYielded (s : State) (cl u : Nat) (o : SavedOp) : State :=
  ((s.unitStopped cl u o).modStrm o.handle Stream.yields).itemWaits o.handle

theorem marked_yieldOp (cl : Nat) (s : State) (u : Nat) (o : SavedOp) : Marked (s.unitYielded cl u o) (yieldOp cl s u o) := by
  unfold yieldOp
  dsimp only
  split
  · exact marked_count (s.unitYielded cl u o) _ _ _ _
  · exact marked_count (s.unitYielded cl u o) _ _ _ _

/-- A unit that yields runs nothing; the others run what they ran. -/
theorem unitOp_yieldOp (cl : Nat) (s : State) (u : Nat) (o : SavedOp) (k : Nat) :
    (yieldOp cl s u o).unitOp cl k = if k = u then none else s.unitOp cl k := by
  have hwork : (yieldOp cl s u o).unitOp cl k = (s.unitYielded cl u o).unitOp cl k := by
    rw [State.unitOp, State.wk, marked_yieldOp]
    rfl
  have hwk : (s.unitYielded cl u o).wk cl = { s.wk cl with
      running := AMap.write (fun _ => none) (s.wk cl).running u none
      saved := (s.wk cl).saved ++ [(s.saveOp cl u o).1] } := AMap.read_write_same _ _ _ _
  rw [hwork, State.unitOp, hwk]
  exact AMap.read_write (fun _ => none) (s.wk cl).running u k none

/-- A yield binds no stream's steps otherwise. -/
theorem grainBound_yieldOp (cl : Nat) (s : State) (u : Nat) (o : SavedOp) (h : Nat) :
    (yieldOp cl s u o).grainBound h = s.grainBound h := by
  have hmarked := marked_yieldOp cl s u o
  have hstructure : (s.unitYielded cl u o).structure_ = s.structure_ := by
    simp [State.unitYielded, State.itemWaits, State.modStrm, State.unitStopped, State.saveOp, State.free]
  refine grainBound_congr (by rw [hmarked]; exact hstructure) ?_
  rw [State.strm, hmarked]
  exact graph_strm_modStrm (s.unitStopped cl u o) o.handle h Stream.yields rfl

/-- Of the units of a list those go on whose operations are grain-bound. -/
theorem unitOp_yieldAll (cl : Nat) (l : List Nat) (s : State) (k : Nat) :
    (yieldAll cl s l).unitOp cl k = (s.unitOp cl k).filter (fun o => !l.contains k || s.grainBound o.handle) := by
  induction l generalizing s with
  | nil => cases h : s.unitOp cl k <;> simp [yieldAll, h, Option.filter]
  | cons u t ih =>
    rw [yieldAll]
    split
    · next o ho =>
      change s.unitOp cl u = some o at ho
      split
      · next hg =>
        rw [ih]
        by_cases hk : k = u
        · simp [hk, ho, hg, Option.filter]
        · simp [hk]
      · next hg =>
        rw [ih, unitOp_yieldOp]
        by_cases hk : k = u
        · simp [hk, ho, hg, Option.filter]
        · simp [hk, grainBound_yieldOp]
    · next ho =>
      change s.unitOp cl u = none at ho
      rw [ih]
      by_cases hk : k = u
      · simp [hk, ho]
      · simp [hk]

end Sys2Proof.Machine

namespace Sys2Proof.Proofs

open Sys2Proof Sys2Proof.Machine

/-- A plane of 8,000 grains whose next tick is a frame tick, and a stream of it that was paused while it was swapped out and
whose step is still to be finished for its close. -/
def pausedAtFrameTick : State := { State.reset with
  tck := { planes := [(2, some { f := 8000, g := 20 })] }
  structure_ := { graphs := [{ id := 3, plane := 2, ticked := true, costs := [{ bound := 8, cycles := 5 }] }] }
  streams := [(1, { st := .paused, graph := 3, closing := true, step := some { yielded := true } })] }

/-- The part after the frame tick. -/
def afterFrameTick : State := doGrainTick 2 pausedAtFrameTick

theorem plcNoroom_afterFrameTick : afterFrameTick.reg Reg.PLC_NOROOM ≠ pausedAtFrameTick.reg Reg.PLC_NOROOM := by
  decide +kernel

/-- Refutes O14: no stream is SWAPPED, but one that is PAUSED and off its cluster, with a step that its close waits for, asks
at the frame tick to be restored as well (R262, R275), and a request that finds no room counts in PLC_NOROOM. -/
theorem not_grainTickKeepsTheEdgeRule : ¬ Obligations.GrainTickKeepsTheEdgeRule := by
  intro h
  obtain ⟨-, htick⟩ := h pausedAtFrameTick 2 rfl
  obtain ⟨t, y, hexec, -, -, -, -, -, -, -, -, -, -, -, -, hregs, -⟩ :=
    htick { f := 8000, g := 20 } rfl (by decide) rfl rfl (.inr (by decide))
  have ht : t = afterFrameTick := Host.Outcome.next.inj (hexec.symm.trans (exec_of_running (f := doGrainTick 2) rfl rfl))
  rw [ht] at hregs
  exact plcNoroom_afterFrameTick (hregs Reg.PLC_NOROOM (by decide))

/-- Settles O15: `deliverTick` shows the budget, `tickWork` goes on from there, and yielding leaves what is grain-bound. -/
theorem tickDeliveryShowsTheBudget : Obligations.TickDeliveryShowsTheBudget := by
  refine ⟨fun s cl p frame used hrun => ⟨fun hp => ?none, fun x hp => ?delivered⟩, fun s cl l _ _ => ⟨fun k o ho hg => ?_,
    fun k hk o ho => ?_⟩, fun s cl b hrun => ⟨doTbgPeakClear cl b s, exec_of_running hrun rfl, reg_setReg_same s _ 0,
    onlyRegs_setReg s _ 0⟩⟩
  case none =>
    rw [exec_of_running (f := doTickDelivery cl p frame used) hrun rfl, doTickDelivery, if_pos (by rw [hp]; rfl)]
  case delivered =>
    have hexec : exec (.tickDelivery cl p frame used) s = .next ((deliverTick cl p frame used s).tickWork cl p frame) := by
      rw [exec_of_running (f := doTickDelivery cl p frame used) hrun rfl, doTickDelivery, if_neg (by simp [hp])]
    obtain ⟨hused, hpeak, hregs, heq⟩ := showUsed_spec (s.setPlane p (some (x.deliveredTo cl frame))) cl (2 * p + b2n frame) used
    rw [← deliverTick_eq hp] at hused hpeak hregs heq
    have hplane : ∀ q, (deliverTick cl p frame used s).plane q = if q = p.val then some (x.deliveredTo cl frame) else s.plane q :=
      fun q => by rw [heq]; exact plane_setPlane s p q _
    refine ⟨_, x.deliveredTo cl frame, hexec, hused, hpeak, by rw [hplane, if_pos rfl], AMap.read_write_same _ _ _ _,
      fun q hq => by rw [hplane, if_neg hq], hregs, ?_, fun hs hc => tickWork_of_empty ?_ ?_ p frame⟩
    · have htck : (deliverTick cl p frame used s).tck = (s.setPlane p (some (x.deliveredTo cl frame))).tck := by rw [heq]
      rw [htck]
      exact heq
    · rw [heq]; exact hs
    · rw [heq]; exact hc
  · change (yieldAll cl s l).unitOp cl k = some o
    rw [unitOp_yieldAll, State.unitOp, ho]
    simp [hg, Option.filter]
  · change (yieldAll cl s l).unitOp cl k = some o at ho
    rw [unitOp_yieldAll, Option.filter_eq_some_iff] at ho
    obtain ⟨-, hkeep⟩ := ho
    simpa [hk] using hkeep

end Sys2Proof.Proofs
end

section
/-!
PROOFS. The start of tick-bound steps (R38, R39, R42, R124, R265).
-/

namespace Sys2Proof.Machine

variable {s : State}

theorem strm_setStrm (s : State) (h k : Nat) (x : Stream) : (s.setStrm h x).strm k = if k = h then x else s.strm k :=
  AMap.read_write _ _ _ _ _

/-! Streams that go on at the current tick (R34, R45). -/

/-- A stream takes the current tick's count, or stays as it is. -/
theorem fixTick_cases (s : State) (h : Nat) : s.fixTick h = s ∨
    ∃ g, s.graphOf (s.strm h).graph = some g ∧ (s.strm h).atCurrent = true ∧ s.fixTick h = s.setStrm h { s.strm h with
      nextTick := s.tickCount g.plane g.frame
      atCurrent := false } := by
  unfold State.fixTick
  dsimp only
  split
  · next g hg =>
    cases s.plane g.plane with
    | none => exact .inl (by simp)
    | some x =>
      dsimp only
      split
      · next hcond =>
        simp only [Bool.and_eq_true] at hcond
        obtain ⟨⟨⟨-, hcur⟩, -⟩, -⟩ := hcond
        exact .inr ⟨g, hg, hcur, rfl⟩
      · exact .inl rfl
  · exact .inl rfl

/-- Taking the current tick's count changes the stream's next tick alone. -/
theorem fixTick_spec {v : State} {h : Nat} {g : Graph} (hv : v = s.fixTick h)
    (hg : v.graphOf (v.strm h).graph = some g) :
    s.fixTick h = { s with streams := v.streams } ∧ (∀ k, k ≠ h → v.strm k = s.strm k) ∧
    v.strm h = { s.strm h with
      atCurrent := (v.strm h).atCurrent
      nextTick := (v.strm h).nextTick } ∧
    ((s.strm h).atCurrent = false → v = s) ∧
    ((v.strm h).atCurrent = false → (s.strm h).atCurrent = true → (v.strm h).nextTick = v.tickCount g.plane g.frame) := by
  rcases fixTick_cases s h with heq | ⟨g', hg', hcur, heq⟩
  · obtain rfl : v = s := hv.trans heq
    exact ⟨heq, fun _ _ => rfl, rfl, fun _ => rfl, fun hf ht => by simp [hf] at ht⟩
  · rw [heq] at hv
    have hstrm : v.strm h = { s.strm h with
        nextTick := s.tickCount g'.plane g'.frame
        atCurrent := false } := by rw [hv, strm_setStrm, if_pos rfl]
    have hsame : g' = g := by
      rw [hstrm, hv] at hg
      exact Option.some.inj (hg'.symm.trans hg)
    refine ⟨by rw [heq, hv]; rfl, fun k hk => by rw [hv, strm_setStrm, if_neg hk], by rw [hstrm],
      fun hf => by simp [hcur] at hf, fun _ _ => ?_⟩
    rw [hstrm, hv, hsame]
    rfl

/-! What STEP_START does, by cases, with the stream as `fixTick` leaves it. -/

section Start

variable {v : State} {h : Word} {g : Graph} (hv : v = s.fixTick h.toNat) (hg : v.graphOf (v.strm h.toNat).graph = some g)
  (ht : g.ticked = true)
include hv hg ht

theorem doStepStart_none (hno : v.mayStep h.toNat = false ∨ v.tickHere h.toNat = false) :
    doStepStart h s = s := by
  rw [doStepStart, ← hv]
  simp only [hg, ht]
  rcases hno with hno | hno <;> simp [hno]

variable (hmay : v.mayStep h.toNat = true) (hhere : v.tickHere h.toNat = true)
include hmay hhere

theorem doStepStart_starves (hready : v.stepReady h.toNat = false) :
    doStepStart h s = v.checkStarve h.toNat := by
  rw [doStepStart, ← hv]
  simp [hg, ht, hmay, hhere, hready]

variable (hready : v.stepReady h.toNat = true)
include hready

theorem doStepStart_waits
    (hfirst : v.streams.any (fun e => v.goesFirst h.toNat e.1) = true) :
    doStepStart h s = s := by
  rw [doStepStart, ← hv]
  simp only [hg, ht, hmay, hhere, hready, hfirst, Bool.not_true, Bool.or_self, Bool.false_eq_true, if_false, if_true]

variable (hfirst : v.streams.any (fun e => v.goesFirst h.toNat e.1) = false)
include hfirst

theorem doStepStart_starts
    (hlate : v.tickCount g.plane g.frame - (v.strm h.toNat).nextTick ≤
      ((v.plane g.plane).map (fun p => p.late)).getD 4) :
    doStepStart h s =
      v.beginStep h.toNat g (v.strm h.toNat).nextTick := by
  rw [doStepStart, ← hv]
  simp only [hg, ht, hmay, hhere, hready, hfirst, Nat.not_lt.2 hlate, Bool.not_true, Bool.or_self, Bool.false_eq_true,
    if_false]

/-- A stream that lags by more than its lateness goes on from the state in which it has been brought to the current tick. -/
theorem doStepStart_resyncs {w : State}
    (hlate : ((v.plane g.plane).map (fun p => p.late)).getD 4 <
      v.tickCount g.plane g.frame - (v.strm h.toNat).nextTick)
    (hw : w = (v.resync h.toNat g (v.tickCount g.plane g.frame)).fixTick h.toNat) :
    doStepStart h s = if w.tickReady h.toNat then w.beginStep h.toNat g (w.strm h.toNat).nextTick
      else w.checkStarve h.toNat := by
  rw [doStepStart, ← hv]
  simp only [hg, ht, hmay, hhere, hready, hfirst, hlate, ← hw, Bool.not_true, Bool.or_self, Bool.false_eq_true, if_false, if_true]

end Start

/-! Steps that take their positions (R39, R124, R265). -/

/-- A step that begins. -/
def Stream.firstRun (x : Stream) (i : InputDesc) (tick : Nat) (tb : Dword) : StepRun :=
  let t := takePositions i 0 x.markDue i.posStep x.queue
  { tick := tick, started := tb, positions := segPositions t.segs, ended := t.ended, segs := joinSegs t.segs,
    spent := t.spent, p := x.p, items := x.items }

theorem takeStep_spec (v : State) (h : Nat) {g : Graph} (ht : g.ticked = true) (tick : Nat) :
    ((v.takeStep h g tick).strm h).step = some ((v.strm h).firstRun g.input tick v.tb) ∧
    ((v.takeStep h g tick).strm h).pos = (v.strm h).pos + ((v.strm h).firstRun g.input tick v.tb).positions ∧
    ((v.takeStep h g tick).strm h).steps = (v.strm h).steps + 1 ∧
    ((v.takeStep h g tick).strm h).p = ((v.strm h).p + g.stride) % 2 ^ 48 ∧
    ((v.takeStep h g tick).strm h).nextTick = tick + 1 ∧ ((v.takeStep h g tick).strm h).items = (v.strm h).items ∧
    (∀ k, k ≠ h → (v.takeStep h g tick).strm k = v.strm k) ∧
    v.takeStep h g tick = { v with streams := (v.takeStep h g tick).streams } := by
  unfold State.takeStep
  dsimp only
  rw [strm_setStrm, if_pos rfl]
  exact ⟨rfl, rfl, rfl, rfl, if_pos ht, rfl, fun k hk => by rw [strm_setStrm, if_neg hk], rfl⟩

end Sys2Proof.Machine

namespace Sys2Proof.Proofs

open Sys2Proof Sys2Proof.Machine

/-- Settles O17: the cases of `doStepStart`, and what `takeStep` does to the stream in the two that start a step. -/
theorem tickBoundStepsStart : Obligations.TickBoundStepsStart := by
  intro s v h g late cur hrun hv hg ht hlate hcur
  have hexec : exec (.stepStart h) s = .next (doStepStart h s) := exec_of_running hrun rfl
  obtain ⟨hfix, hothers, hstrm, hstay, hnow⟩ := fixTick_spec hv hg
  subst hlate hcur
  rw [hexec]
  refine ⟨⟨hfix, hothers, hstrm, hstay, hnow⟩, fun hno => ?_, fun hmay hhere hready => ?_,
    fun hmay hhere hready hfirst => ?_,
    fun hmay hhere hready hfirst => ⟨fun hl => ?starts, fun hl => ⟨_, rfl, fun hr => ?resyncs, fun hr => ?starves⟩⟩⟩
  · rw [doStepStart_none hv hg ht hno]
  · rw [doStepStart_starves hv hg ht hmay hhere hready]
  · rw [doStepStart_waits hv hg ht hmay hhere hready hfirst]
  case starts =>
    obtain ⟨hstep, hpos, hsteps, hp, hnext, hitems, hk, heq⟩ := takeStep_spec v h.toNat ht (v.strm h.toNat).nextTick
    have hrest : ∀ l, ({ v with streams := l } : State) = { s with streams := l } := fun l => by rw [hv, hfix]
    have htb : v.tb = s.tb := by rw [hv, hfix]
    rw [doStepStart_starts hv hg ht hmay hhere hready hfirst hl]
    exact ⟨v.takeStep h.toNat g (v.strm h.toNat).nextTick, rfl, _, hstep, rfl, htb, rfl, rfl, hpos, hsteps, hp, hnext,
      hitems, fun k hne => (hk k hne).trans (hothers k hne), heq.trans (hrest _)⟩
  case resyncs =>
    rw [doStepStart_resyncs hv hg ht hmay hhere hready hfirst hl rfl, if_pos hr]
    obtain ⟨hstep, -, hsteps, -, -, -, -, heq⟩ := takeStep_spec
      ((v.resync h.toNat g (v.tickCount g.plane g.frame)).fixTick h.toNat) h.toNat ht _
    exact ⟨_, rfl, _, hstep, rfl, rfl, rfl, hsteps, heq⟩
  case starves => rw [doStepStart_resyncs hv hg ht hmay hhere hready hfirst hl rfl, if_neg (by simp [hr])]

end Sys2Proof.Proofs
end

section
/-!
PROOFS. Loads of Sandplan images (R64, R65, R68, R70): what a read of device memory gives where its granules are sound,
where a host page is not readable and where a granule reads as zeros; the end of a load, and the cases of GO and ABORT.
-/

namespace Sys2Proof.Machine

variable {s : State}

/-! Bytes of a range. -/

theorem bytes_add (s : State) (a m n : Nat) : s.bytes a (m + n) = s.bytes a m ++ s.bytes (a + m) n := by
  induction m generalizing a with
  | zero => rw [Nat.zero_add, Nat.add_zero]; rfl
  | succ m ih =>
    rw [Nat.succ_add, State.bytes, State.bytes, ih, List.cons_append, Nat.add_right_comm a 1 m]
    rfl

/-- A range inside another, read as part of it. -/
theorem slice_bytes (s : State) {a m n k : Nat} (h : m + n ≤ k) : ((s.bytes a k).drop m).take n = s.bytes (a + m) n := by
  obtain ⟨r, rfl⟩ := Nat.exists_eq_add_of_le h
  rw [Nat.add_assoc, bytes_add, bytes_add, List.drop_left' (length_bytes s a m),
    List.take_left' (length_bytes s (a + m) n)]

/-- Granules that follow each other hold the bytes of their range. -/
theorem flatMap_bytes_granules (s : State) (q k : Nat) :
    ((List.range k).map (fun i => (q + i) * 64)).flatMap (fun g => s.bytes g 64) = s.bytes (q * 64) (k * 64) := by
  induction k with
  | zero => rw [Nat.zero_mul]; rfl
  | succ k ih =>
    rw [List.range_succ, List.map_append, List.flatMap_append, ih, Nat.succ_mul, bytes_add, ← Nat.add_mul]
    simp

theorem leVal_lt (l : List Byte) : leVal l < 256 ^ l.length := by
  induction l with
  | nil => exact Nat.one_pos
  | cons b t ih =>
    have hb : b.toNat < 256 := b.isLt
    rw [leVal, List.length_cons, Nat.pow_succ]
    omega

theorem le_lt (b : List Byte) (at_ n : Nat) : le b at_ n < 256 ^ n :=
  (leVal_lt _).trans_le (Nat.pow_le_pow_right (by decide) (List.length_take_le _ _))

/-! What reads depend on. -/

theorem faulty_congr {t : State} (h : t.cond = s.cond) (g : Nat) : t.faulty g = s.faulty g := by
  rw [State.faulty, h]; rfl

theorem listed_congr {t : State} (h : t.cisterns = s.cisterns) (g : Nat) : t.listed g = s.listed g := by
  rw [State.listed, State.cis, h]; rfl

theorem granBad_congr {t : State} {g : Nat} (hf : t.faulty g = s.faulty g) (hc : t.cisterns = s.cisterns) :
    t.granBad g = s.granBad g := by
  rw [State.granBad, State.granBad, State.granSeen, State.granSeen, hf, listed_congr hc]

/-- Memory, its physical condition and the known-bad lists are the same, so that reads find the same. -/
def SameCells (s t : State) : Prop := t.mem = s.mem ∧ t.cond = s.cond ∧ t.cisterns = s.cisterns

section Cells

variable {t : State} (h : SameCells s t) (a n : Nat)
include h

theorem SameCells.bytes : t.bytes a n = s.bytes a n := by
  obtain ⟨hmem, -, -⟩ := h
  exact bytes_congr (fun k _ _ => byte_congr hmem k)

theorem SameCells.hostOk : t.hostOk a n = s.hostOk a n := by
  obtain ⟨-, hcond, -⟩ := h
  rw [State.hostOk, hcond]; rfl

theorem SameCells.granBad : t.granBad a = s.granBad a := by
  obtain ⟨-, hcond, hcis⟩ := h
  exact granBad_congr (faulty_congr hcond a) hcis

theorem SameCells.sound : t.sound a n ↔ s.sound a n := by
  obtain ⟨-, hcond, hcis⟩ := h
  have hbits : ∀ w, t.badBits w = s.badBits w := fun w => by rw [State.badBits, hcond]; rfl
  simp only [State.sound, faulty_congr hcond, hbits, listed_congr hcis]

end Cells

/-! Reads of sound granules. -/

theorem granBad_sound {g : Nat} (h : s.soundGran g) : s.granBad g = false := by
  obtain ⟨hfaulty, hlisted, -⟩ := h
  simp [State.granBad, State.granSeen, hfaulty, hlisted]

theorem readGran_sound {g : Nat} (h : s.soundGran g) (loc : Nat) : s.readGran g loc = (s.bytes g 64, false, s) := by
  unfold State.readGran
  simp only [correct_sound h, granBad_sound h, badWords_sound h]
  split <;> rfl

theorem readGrans_sound {l : List Nat} (h : ∀ g ∈ l, s.soundGran g) (loc : Nat) :
    s.readGrans loc l = (l.flatMap (fun g => s.bytes g 64), 0, s) := by
  induction l with
  | nil => rfl
  | cons g t ih =>
    rw [List.forall_mem_cons] at h
    rw [State.readGrans, readGran_sound h.1]
    dsimp only
    rw [ih h.2]
    rfl

/-- A read inside one range, in host pages that translate or in sound cells, gives the bytes as they lie. -/
theorem readData_sound {a n : Nat} (hone : inOnePlace a n = true) (hhost : hostWindow ≤ a → s.hostOk a n = true)
    (hdev : a < hostWindow → s.sound a n) (loc : Nat) : s.readData loc a n = ⟨s.bytes a n, 0, false, s⟩ := by
  unfold State.readData
  by_cases hn : n = 0
  · subst hn; rfl
  rw [if_neg hn, hone, Bool.not_true, if_neg Bool.false_ne_true]
  by_cases ha : hostWindow ≤ a
  · rw [if_pos ha, if_pos (hhost ha)]
  · have hgrans : ∀ g ∈ granulesOf a n, s.soundGran g := hdev (Nat.lt_of_not_le ha)
    have hslice := slice_bytes s (a := a / 64 * 64) (m := a % 64) (n := n) (k := (a % 64 + n + 63) / 64 * 64) (by omega)
    rw [if_neg ha, readGrans_sound hgrans, granulesOf, if_neg hn, flatMap_bytes_granules]
    rw [Nat.div_add_mod' a 64] at hslice
    dsimp only
    rw [hslice]

/-! Reads that fail. -/

/-- A read in no one range, or in a host page that does not translate, fails and does nothing. -/
theorem readData_fails {a n : Nat} (hn : n ≠ 0)
    (h : inOnePlace a n = false ∨ (hostWindow ≤ a ∧ s.hostOk a n = false)) (loc : Nat) :
    s.readData loc a n = ⟨[], 0, true, s⟩ := by
  unfold State.readData
  rw [if_neg hn]
  cases hone : inOnePlace a n with
  | false => rfl
  | true =>
    obtain ⟨hhost, hbad⟩ : hostWindow ≤ a ∧ s.hostOk a n = false := h.resolve_left (by simp [hone])
    rw [Bool.not_true, if_neg Bool.false_ne_true, if_pos hhost, hbad, if_neg Bool.false_ne_true]

/-! Reads that meet a granule that reads as zeros (R168). -/

theorem placeOf_dram_iff {a d : Nat} :
    placeOf a = .dram d ↔ a < 0x4000000000 ∧ a % 0x1000000000 < 0xC00000000 ∧ a / 0x1000000000 = d := by
  unfold placeOf
  constructor
  · intro h
    split at h
    · next hlt =>
      split at h
      · next hrow => exact ⟨hlt, hrow, Place8.dram.inj h⟩
      · cases h
    · split_ifs at h
  · rintro ⟨hlt, hrow, rfl⟩
    rw [if_pos hlt, if_pos hrow]

/-- The granules of a range in the DRAM of a die lie there too. -/
theorem placeOf_granule {a n d g : Nat} (hone : inOnePlace a n = true) (hd : placeOf a = .dram d)
    (hg : g ∈ granulesOf a n) : placeOf g = .dram d := by
  by_cases hn : n = 0
  · simp [granulesOf, hn] at hg
  have hlast : placeOf (a + n - 1) = .dram d := by simpa [inOnePlace, hn, hd] using hone
  rw [granulesOf, if_neg hn, List.mem_map] at hg
  obtain ⟨i, hi, rfl⟩ := hg
  rw [List.mem_range] at hi
  rw [placeOf_dram_iff] at hd hlast ⊢
  omega

theorem reported_count (s : State) (a n st bit : Nat) : Reported s (s.count a n st bit) := by
  unfold State.count
  dsimp only
  split
  · exact (reported_setReg s _ _).trans (reported_raise _ _ _)
  · exact reported_setReg s _ _

theorem reported_countCe (s : State) (a : Nat) : Reported s (s.countCe a) := by
  unfold State.countCe
  split
  · exact (reported_setPair s _ _).trans (reported_count _ _ _ _ _)
  · exact reported_setReg s _ _
  · exact reported_setReg s _ _
  · exact Reported.refl s

theorem granBad_countCe (s : State) (a g : Nat) : (s.countCe a).granBad g = s.granBad g := by
  have h := reported_countCe s a
  exact granBad_congr (faulty_congr (by rw [h]) g) (by rw [h])

theorem faulty_heal_other {g k : Nat} (h : k ≠ g) : (s.heal g).faulty k = s.faulty k := by
  have hkeep : ∀ c : Nat, (c / 64 * 64 == k && c / 64 * 64 != g) = (c / 64 * 64 == k) := fun c => by
    by_cases hc : c / 64 * 64 = k <;> simp [hc, h]
  simp only [State.faulty, State.heal, List.filter_filter, hkeep]

theorem granWeak_of_granBad {g : Nat} (h : s.granBad g = true) : s.granWeak g = false := by
  simp only [State.granBad, State.granSeen, Bool.or_eq_true, Bool.and_eq_true, beq_iff_eq, decide_eq_true_eq] at h
  cases hl : s.listed g with
  | true => simp [State.granWeak, hl]
  | false =>
    have hlen : (s.faulty g).length ≠ 1 := by
      simp only [hl, Bool.false_eq_true, or_false] at h
      omega
    simp [State.granWeak, hlen]

/-- Correcting a DRAM granule leaves the granules that read as zeros as they are. -/
theorem granBad_correct {g k d : Nat} (hd : placeOf g = .dram d) (h : s.granBad k = true) :
    (s.correct g).granBad k = true := by
  simp only [State.correct, hd]
  split
  · next hweak =>
    have hne : k ≠ g := fun he => by rw [he] at h; rw [granWeak_of_granBad h] at hweak; cases hweak
    rw [granBad_countCe, granBad_congr (s := s) (faulty_heal_other hne) rfl, h]
  · exact h

theorem readGran_zeroed {g d : Nat} (hd : placeOf g = .dram d) (loc : Nat) :
    (s.readGran g loc).2.1 = (s.correct g).granBad g := by
  simp only [State.readGran, hd]
  split
  · next h => exact h.symm
  · next h => exact (Bool.not_eq_true _ ▸ h).symm

theorem readGran_not_zeroed {g d : Nat} (hd : placeOf g = .dram d) (loc : Nat) (h : (s.correct g).granBad g = false) :
    (s.readGran g loc).2.2 = s.correct g := by
  simp only [State.readGran, hd, h]
  rfl

/-- Of DRAM granules, one of which reads as zeros, at least one is delivered as zeros. -/
theorem readGrans_zeroed {l : List Nat} {d : Nat} (hd : ∀ g ∈ l, placeOf g = .dram d)
    (hbad : ∃ g ∈ l, s.granBad g = true) (loc : Nat) : (s.readGrans loc l).2.1 ≠ 0 := by
  induction l generalizing s with
  | nil => simp at hbad
  | cons g t ih =>
    rw [List.forall_mem_cons] at hd
    obtain ⟨hg, ht⟩ := hd
    have hzero := readGran_zeroed (s := s) hg loc
    rw [State.readGrans]
    dsimp only
    cases hcase : (s.correct g).granBad g with
    | true =>
      rw [hzero, hcase, b2n_true]
      omega
    | false =>
      obtain ⟨k, hk, hkbad⟩ := hbad
      have hkbad' := granBad_correct hg hkbad
      have hkt : k ∈ t := (List.mem_cons.1 hk).resolve_left (fun he => by rw [he, hcase] at hkbad'; cases hkbad')
      rw [readGran_not_zeroed hg loc hcase]
      exact fun hsum => ih ht ⟨k, hkt, hkbad'⟩ (Nat.add_eq_zero_iff.1 hsum).2

theorem readData_zeroed {a n d : Nat} (hn : n ≠ 0) (hone : inOnePlace a n = true) (hd : placeOf a = .dram d)
    (hbad : ∃ g ∈ granulesOf a n, s.granBad g = true) (loc : Nat) :
    (s.readData loc a n).failed = false ∧ (s.readData loc a n).zeroed ≠ 0 := by
  have hlow : ¬ hostWindow ≤ a := by
    have hlt := (placeOf_dram_iff.1 hd).1
    unfold hostWindow
    omega
  unfold State.readData
  rw [if_neg hn, hone, Bool.not_true, if_neg Bool.false_ne_true, if_neg hlow]
  exact ⟨rfl, readGrans_zeroed (fun g hg => placeOf_granule hone hd hg) hbad loc⟩

/-! What a read may change (R167 to R172). -/

theorem stored_readGran (s : State) (g loc : Nat) : Stored s (s.readGran g loc).2.2 := by
  have hpair : ∀ d, ErrorReg (Reg.DMEM_UE_READ_LO d) ∧ ErrorReg (Reg.DMEM_UE_READ_LO d + 4) := fun d =>
    ⟨.inl (by simp only [Reg.DMEM_UE_READ_LO, dieBase]; omega),
      .inl (by simp only [Reg.DMEM_UE_READ_LO, dieBase]; omega)⟩
  have hwords : Stored s (if ((s.correct g).badWords g).isEmpty then ((s.correct g).bytes g 64, false, s.correct g)
      else (List.replicate 64 0, true, detectWords loc (s.correct g) ((s.correct g).badWords g))).2.2 := by
    split
    · exact stored_correct s g
    · exact (stored_correct s g).trans (stored_detectWords _ _ _)
  unfold State.readGran
  dsimp only
  split
  · next d _ =>
    split
    · exact ((stored_correct s g).trans (stored_detectDram _ _ _)).trans (stored_setPair _ (hpair d).1 (hpair d).2 _)
    · exact stored_correct s g
  · exact hwords
  · exact hwords
  · exact hwords
  · exact stored_correct s g

theorem stored_readGrans (s : State) (loc : Nat) (l : List Nat) : Stored s (s.readGrans loc l).2.2 := by
  induction l generalizing s with
  | nil => exact .refl s
  | cons g t ih => exact (stored_readGran s g loc).trans (ih _)

/-- A read as data changes nothing but what the errors it finds change. -/
theorem stored_readData (s : State) (loc a n : Nat) : Stored s (s.readData loc a n).st := by
  unfold State.readData
  split
  · exact .refl s
  · split
    · exact .refl s
    · split
      · split <;> exact .refl s
      · exact stored_readGrans s loc _

/-! The end of a load (R64, R65, R68). -/

theorem fld_congr {t : State} {a : Nat} (h : t.reg a = s.reg a) (lo len : Nat) : t.fld a lo len = s.fld a lo len := by
  rw [State.fld, State.rn, h]; rfl

theorem splState_congr {t : State} (h : t.reg Reg.SPL_STATUS = s.reg Reg.SPL_STATUS) : t.splState = s.splState :=
  fld_congr h 8 3

theorem splState_setLoad (s : State) (x : Option Load) : ({ s with load := x } : State).splState = s.splState :=
  splState_congr (reg_of_regs rfl _)

theorem splState_lt (s : State) : s.splState < 8 := bitsAt_lt _ _ _

/-- The registers that the end of a load sets. -/
abbrev loadEndRegs : List Nat := [Reg.SPL_STATUS, Reg.SPL_POOL_STATE, Reg.SPL_INT_STATUS]

/-- A load that did not succeed has ended with a result and a reason: the loader is in the state it was in before, DONE is
raised, and nothing else differs. -/
def LoadRefused (before result reason : Nat) (s t : State) : Prop :=
  t.splState = before ∧ t.fld Reg.SPL_STATUS 28 4 = result ∧ t.fld Reg.SPL_STATUS 16 8 = reason % 256 ∧
  t.rbit Reg.SPL_INT_STATUS 0 = true ∧ SameRegs loadEndRegs s t ∧ t = { s with
    load := none
    regs := t.regs
    host := t.host }

/-- A refused load leaves memory, the structure and the streams. -/
theorem LoadRefused.keeps {before result reason : Nat} {t : State} (h : LoadRefused before result reason s t) :
    t.load = none ∧ t.mem = s.mem ∧ t.structure_ = s.structure_ ∧ t.streams = s.streams := by
  obtain ⟨-, -, -, -, -, heq⟩ := h
  rw [heq]
  exact ⟨rfl, rfl, rfl, rfl⟩

theorem endLoad_of_none (h : s.load = none) (result reason : Nat) : s.endLoad result reason = s := by
  rw [State.endLoad, h]

/-- The loader's state, result and reason, as the end of a load shows them. -/
def State.showLoadEnd (s : State) (state result reason : Nat) : State :=
  ((s.setSplState state).setFld Reg.SPL_STATUS 28 4 result).setFld Reg.SPL_STATUS 16 8 reason

theorem showLoadEnd_spec (s : State) (state result reason : Nat) :
    (s.showLoadEnd state result reason).splState = state % 8 ∧
    (s.showLoadEnd state result reason).fld Reg.SPL_STATUS 28 4 = result % 16 ∧
    (s.showLoadEnd state result reason).fld Reg.SPL_STATUS 16 8 = reason % 256 ∧
    OnlyRegs [Reg.SPL_STATUS] s (s.showLoadEnd state result reason) := by
  refine ⟨?_, ?_, fld_setFld_same _ _ (by decide), ?_⟩
  · rw [State.splState, State.showLoadEnd, fld_setFld_apart _ _ (by decide) (by decide),
      fld_setFld_apart _ _ (by decide) (by decide)]
    exact fld_setFld_same s _ (by decide)
  · rw [State.showLoadEnd, fld_setFld_apart _ _ (by decide) (by decide)]
    exact fld_setFld_same _ _ (by decide)
  · exact ((onlyRegs_setReg s _ _).trans (onlyRegs_setReg _ _ _)).trans (onlyRegs_setReg _ _ _)

theorem endLoad_of_some {l : Load} (h : s.load = some l) {result : Nat} (hres : result ≠ 0) (reason : Nat) :
    s.endLoad result reason =
      ((({ s with load := none } : State).showLoadEnd l.before result reason).showPools 0).raise Reg.SPL_INT_STATUS 0 := by
  rw [State.endLoad, h]
  dsimp only
  rw [if_neg hres]
  rfl

theorem endLoad_refuses {l : Load} (h : s.load = some l) (hbefore : l.before < 8) {result : Nat} (hres : result ≠ 0)
    (hlt : result < 16) (reason : Nat) : LoadRefused l.before result reason s (s.endLoad result reason) := by
  rw [endLoad_of_some h hres]
  obtain ⟨hstate, hresult, hreason, hshown, heq⟩ :=
    showLoadEnd_spec ({ s with load := none } : State) l.before result reason
  generalize ({ s with load := none } : State).showLoadEnd l.before result reason = u at *
  obtain ⟨hdone, -, hraised, -, hraise⟩ := raise_spec (u.showPools 0) Reg.SPL_INT_STATUS 0 (by decide)
  have hpools : OnlyRegs [Reg.SPL_POOL_STATE] u (u.showPools 0) := onlyRegs_setReg u _ _
  have hreg : ((u.showPools 0).raise Reg.SPL_INT_STATUS 0).reg Reg.SPL_STATUS = u.reg Reg.SPL_STATUS :=
    (hraised _ (by decide)).trans (hpools.1 _ (by decide))
  refine ⟨?_, ?_, ?_, hdone, fun a ha => ?_, ?_⟩
  · rw [splState_congr hreg, hstate, Nat.mod_eq_of_lt hbefore]
  · rw [fld_congr hreg, hresult, Nat.mod_eq_of_lt hlt]
  · rw [fld_congr hreg, hreason]
  · simp only [List.mem_cons, List.not_mem_nil, or_false, not_or] at ha
    obtain ⟨hstatus, hpool, hint⟩ := ha
    rw [hraised a (by simpa using hint), hpools.1 a (by simpa using hpool), hshown a (by simpa using hstatus)]
    rfl
  · rw [hraise, hpools.2, heq]

/-! GO (R64, R70). -/

/-- The load that GO starts, from what the loader's registers say. -/
def State.newLoad (s : State) : Load :=
  { src := s.pair Reg.SPL_SRC_LO, dev := s.rbit Reg.SPL_CTRL 2, len := s.fld Reg.SPL_LEN 0 29, before := s.splState }

/-- The part with its new load in FETCH, about to read the header. -/
def State.fetching (s : State) : State := { s with load := some s.newLoad }.setSplState 2

/-- A load with what a header says of its kind, mask and serial number. -/
def Load.withHeader (l : Load) (b : List Byte) : Load :=
  { l with pool := le b 12 4 == 1, mask := le b 40 4, serial := BitVec.ofNat 64 (le b 24 8) }

theorem Load.serial_withHeader (l : Load) (b : List Byte) : (l.withHeader b).serial.toNat = le b 24 8 :=
  (BitVec.toNat_ofNat _ _).trans (Nat.mod_eq_of_lt (le_lt b 24 8))

/-- What GO reads of the image. -/
def State.headRead (s : State) : Rd := s.fetching.readData s.fetching.oasisReader s.newLoad.addr 128

theorem splState_fetching (s : State) : s.fetching.splState = 2 := fld_setFld_same _ _ (by decide)

theorem startLoad_busy (h : s.load.isSome = true ∨ s.splState = 0) : s.startLoad = s.raise Reg.SPL_INT_STATUS 1 := by
  rw [State.startLoad, if_pos (by simpa using h)]

theorem fetching_eq (s : State) : s.fetching = { s with load := some s.newLoad, regs := s.fetching.regs } :=
  (onlyRegs_setReg ({ s with load := some s.newLoad } : State) _ _).2

theorem stored_headRead (s : State) : Stored s.fetching s.headRead.st := stored_readData _ _ _ _

/-- What GO reads changes neither the load nor the structure nor the streams. -/
theorem headRead_keeps (s : State) : s.headRead.st.load = some s.newLoad ∧ s.headRead.st.structure_ = s.structure_ ∧
    s.headRead.st.streams = s.streams := by
  rw [(stored_headRead s).2, fetching_eq]
  exact ⟨rfl, rfl, rfl⟩

theorem endLoad_headRead (s : State) {result : Nat} (hres : result ≠ 0) (hlt : result < 16) (reason : Nat) :
    LoadRefused s.splState result reason s.headRead.st (s.headRead.st.endLoad result reason) :=
  endLoad_refuses (headRead_keeps s).1 (splState_lt s) hres hlt reason

section Start

variable (hfree : s.load = none) (htrained : s.splState ≠ 0)
include hfree htrained

/-- GO with nothing in its way goes on from what `readImage` gives. -/
theorem startLoad_reads {why : Nat} {b : List Byte} {u : State}
    (h : s.fetching.readImage s.newLoad 128 = (why, b, u)) : s.startLoad =
      if why ≠ 0 then u.endLoad 6 why
      else if headerReason b s.newLoad.len ≠ 0 then u.endLoad 8 (headerReason b s.newLoad.len)
      else { u with load := some (s.newLoad.withHeader b) } := by
  have hstart : s.startLoad = match s.fetching.readImage s.newLoad 128 with
      | (why, b, u) => if why ≠ 0 then u.endLoad 6 why
        else if headerReason b s.newLoad.len ≠ 0 then u.endLoad 8 (headerReason b s.newLoad.len)
        else { u with load := some (s.newLoad.withHeader b) } := by
    rw [State.startLoad, if_neg (by simp [hfree, htrained])]
    rfl
  rw [hstart, h]

/-- A header that cannot be read ends the load FAULTED with reason 14. -/
theorem startLoad_of_failed (h : s.headRead.failed = true) :
    LoadRefused s.splState 6 14 s.headRead.st s.startLoad := by
  have hread : s.fetching.readImage s.newLoad 128 = (14, [], s.headRead.st) := if_pos h
  rw [startLoad_reads hfree htrained hread, if_pos (by decide)]
  exact endLoad_headRead s (by decide) (by decide) 14

/-- A header with a granule that reads as zeros ends the load FAULTED with reason 15. -/
theorem startLoad_of_zeroed (h : s.headRead.failed = false) (hz : s.headRead.zeroed ≠ 0) :
    LoadRefused s.splState 6 15 s.headRead.st s.startLoad := by
  have hread : s.fetching.readImage s.newLoad 128 = (15, [], s.headRead.st) :=
    (if_neg (Bool.eq_false_iff.1 h)).trans (if_pos hz)
  rw [startLoad_reads hfree htrained hread, if_pos (by decide)]
  exact endLoad_headRead s (by decide) (by decide) 15

/-- A header that has been read ends the load REJECTED with its reason, or is kept (R64 step 2). -/
theorem startLoad_of_read (h : s.headRead.failed = false) (hz : s.headRead.zeroed = 0) :
    (headerReason s.headRead.bytes s.newLoad.len ≠ 0 →
      LoadRefused s.splState 8 (headerReason s.headRead.bytes s.newLoad.len) s.headRead.st s.startLoad) ∧
    (headerReason s.headRead.bytes s.newLoad.len = 0 →
      s.startLoad = { s.headRead.st with load := some (s.newLoad.withHeader s.headRead.bytes) }) := by
  have hread : s.fetching.readImage s.newLoad 128 = (0, s.headRead.bytes, s.headRead.st) :=
    (if_neg (Bool.eq_false_iff.1 h)).trans (if_neg (not_not_intro hz))
  rw [startLoad_reads hfree htrained hread, if_neg (not_not_intro rfl)]
  refine ⟨fun hbad => ?_, fun hgood => if_neg (not_not_intro hgood)⟩
  rw [if_pos hbad]
  exact endLoad_headRead s (by decide) (by decide) _

/-- However the load goes on, GO leaves the structure and the streams. -/
theorem startLoad_keeps : s.startLoad.structure_ = s.structure_ ∧ s.startLoad.streams = s.streams := by
  obtain ⟨-, hstructure, hstreams⟩ := headRead_keeps s
  have hrefused : ∀ {result reason : Nat}, LoadRefused s.splState result reason s.headRead.st s.startLoad →
      s.startLoad.structure_ = s.structure_ ∧ s.startLoad.streams = s.streams := fun h => by
    obtain ⟨-, -, hstructure', hstreams'⟩ := h.keeps
    exact ⟨hstructure'.trans hstructure, hstreams'.trans hstreams⟩
  cases hf : s.headRead.failed with
  | true => exact hrefused (startLoad_of_failed hfree htrained hf)
  | false =>
    by_cases hz : s.headRead.zeroed = 0
    · obtain ⟨hbad, hgood⟩ := startLoad_of_read hfree htrained hf hz
      by_cases hreason : headerReason s.headRead.bytes s.newLoad.len = 0
      · rw [hgood hreason]
        exact ⟨hstructure, hstreams⟩
      · exact hrefused (hbad hreason)
    · exact hrefused (startLoad_of_zeroed hfree htrained hf hz)

end Start

/-! Writes of SPL_CTRL (R64, R68, R70). -/

/-- The bits of SPL_CTRL that a write stores: FORCE and SRC_DEV. -/
def State.storeSplCtrl (s : State) (v : Nat) : State := s.setN Reg.SPL_CTRL (bitsAt v 1 2 * 2)

/-- Where the image of a load lies that GO starts as it writes `v`. -/
def State.goAddr (s : State) (v : Nat) : Nat :=
  if bitAt v 2 then s.pair Reg.SPL_SRC_LO else hostWindow + s.pair Reg.SPL_SRC_LO

section Stores

variable (s) (v : Nat)

theorem onlyRegs_storeSplCtrl : OnlyRegs [Reg.SPL_CTRL] s (s.storeSplCtrl v) := onlyRegs_setReg s _ _

theorem load_storeSplCtrl : (s.storeSplCtrl v).load = s.load := by rw [(onlyRegs_storeSplCtrl s v).2]

theorem structure_storeSplCtrl : (s.storeSplCtrl v).structure_ = s.structure_ := by rw [(onlyRegs_storeSplCtrl s v).2]

theorem streams_storeSplCtrl : (s.storeSplCtrl v).streams = s.streams := by rw [(onlyRegs_storeSplCtrl s v).2]

theorem splState_storeSplCtrl : (s.storeSplCtrl v).splState = s.splState :=
  splState_congr ((onlyRegs_storeSplCtrl s v).1 _ (by decide))

theorem srcDev_storeSplCtrl : (s.storeSplCtrl v).rbit Reg.SPL_CTRL 2 = bitAt v 2 := by
  rw [State.rbit, State.storeSplCtrl, rn_setN_same]
  simp only [bitAt, bitsAt, Nat.shiftRight_eq_div_pow]
  congr 1
  omega

/-- The load that GO starts takes its source from the registers and from SRC_DEV as written with it. -/
theorem newLoad_storeSplCtrl : (s.storeSplCtrl v).newLoad =
    { src := s.pair Reg.SPL_SRC_LO, dev := bitAt v 2, len := s.fld Reg.SPL_LEN 0 29, before := s.splState } := by
  have hregs := (onlyRegs_storeSplCtrl s v).1
  rw [State.newLoad, srcDev_storeSplCtrl, splState_storeSplCtrl, fld_congr (hregs _ (by decide)),
    pair_congr (hregs _ (by decide)) (hregs _ (by decide))]

theorem addr_newLoad_storeSplCtrl : (s.storeSplCtrl v).newLoad.addr = s.goAddr v := by
  rw [newLoad_storeSplCtrl]; rfl

theorem sameCells_fetching_storeSplCtrl : SameCells s (s.storeSplCtrl v).fetching := by
  rw [fetching_eq, (onlyRegs_storeSplCtrl s v).2]
  exact ⟨rfl, rfl, rfl⟩

theorem headRead_storeSplCtrl : ∃ loc, (s.storeSplCtrl v).headRead =
    (s.storeSplCtrl v).fetching.readData loc (s.goAddr v) 128 :=
  ⟨_, by rw [State.headRead, addr_newLoad_storeSplCtrl]⟩

end Stores

section Go

variable {v : Nat} (hfree : (s.storeSplCtrl v).load = none) (htrained : (s.storeSplCtrl v).splState ≠ 0)
include hfree htrained

theorem go_keeps : (s.storeSplCtrl v).startLoad.structure_ = s.structure_ ∧
    (s.storeSplCtrl v).startLoad.streams = s.streams := by
  rw [← structure_storeSplCtrl s v, ← streams_storeSplCtrl s v]
  exact startLoad_keeps hfree htrained

/-- GO reads a sound header: a bad one ends the load REJECTED with its reason, another is kept. -/
theorem go_header (hone : inOnePlace (s.goAddr v) 128 = true) 
    (hhost : hostWindow ≤ s.goAddr v → s.hostOk (s.goAddr v) 128 = true)
    (hdev : s.goAddr v < hostWindow → s.sound (s.goAddr v) 128) :
    (headerReason (s.bytes (s.goAddr v) 128) (s.fld Reg.SPL_LEN 0 29) ≠ 0 →
      LoadRefused s.splState 8 (headerReason (s.bytes (s.goAddr v) 128) (s.fld Reg.SPL_LEN 0 29))
        (s.storeSplCtrl v).fetching (s.storeSplCtrl v).startLoad) ∧
    (headerReason (s.bytes (s.goAddr v) 128) (s.fld Reg.SPL_LEN 0 29) = 0 →
      (s.storeSplCtrl v).startLoad = { (s.storeSplCtrl v).fetching with
        load := some ((s.storeSplCtrl v).newLoad.withHeader (s.bytes (s.goAddr v) 128)) }) := by
  have hcells := sameCells_fetching_storeSplCtrl s v
  obtain ⟨loc, hread⟩ := headRead_storeSplCtrl s v
  rw [readData_sound hone (by rwa [hcells.hostOk]) (by rwa [hcells.sound]), hcells.bytes] at hread
  have hstart := startLoad_of_read hfree htrained (by rw [hread]) (by rw [hread])
  have hlen : (s.storeSplCtrl v).newLoad.len = s.fld Reg.SPL_LEN 0 29 := by rw [newLoad_storeSplCtrl]
  rwa [hread, hlen, splState_storeSplCtrl] at hstart

/-- GO with a header in no one range, or in a host page that does not translate. -/
theorem go_unreadable (h : inOnePlace (s.goAddr v) 128 = false ∨
      (hostWindow ≤ s.goAddr v ∧ s.hostOk (s.goAddr v) 128 = false)) :
    LoadRefused s.splState 6 14 (s.storeSplCtrl v).fetching (s.storeSplCtrl v).startLoad := by
  obtain ⟨loc, hread⟩ := headRead_storeSplCtrl s v
  rw [readData_fails (by decide) (by rwa [(sameCells_fetching_storeSplCtrl s v).hostOk])] at hread
  have hstart := startLoad_of_failed hfree htrained (by rw [hread])
  rwa [hread, splState_storeSplCtrl] at hstart

/-- GO with a header in DRAM of which a granule reads as zeros. -/
theorem go_zeroed {d : Nat} (hone : inOnePlace (s.goAddr v) 128 = true) (hd : placeOf (s.goAddr v) = .dram d)
    (hbad : ∃ g ∈ granulesOf (s.goAddr v) 128, s.granBad g = true) :
    LoadRefused s.splState 6 15 (s.storeSplCtrl v).headRead.st (s.storeSplCtrl v).startLoad := by
  obtain ⟨loc, hread⟩ := headRead_storeSplCtrl s v
  simp only [← (sameCells_fetching_storeSplCtrl s v).granBad] at hbad
  obtain ⟨hfailed, hzeroed⟩ := readData_zeroed (by decide) hone hd hbad loc
  rw [← hread] at hfailed hzeroed
  rw [← splState_storeSplCtrl s v]
  exact startLoad_of_zeroed hfree htrained hfailed hzeroed

end Go

/-- GO while a load is in progress or before training raises BUSY_ERR. -/
theorem go_busy (h : s.load.isSome = true ∨ s.splState = 0) (v : Nat) :
    (s.storeSplCtrl v).startLoad.rbit Reg.SPL_INT_STATUS 1 = true ∧
    OnlyRegsIrq [Reg.SPL_CTRL, Reg.SPL_INT_STATUS] s (s.storeSplCtrl v).startLoad := by
  obtain ⟨hregs, hstored⟩ := onlyRegs_storeSplCtrl s v
  obtain ⟨hset, -, hraised, hvec, heq⟩ := raise_spec (s.storeSplCtrl v) Reg.SPL_INT_STATUS 1 (by decide)
  rw [startLoad_busy (by rwa [load_storeSplCtrl, splState_storeSplCtrl])]
  refine ⟨hset, fun b hb => ?_, fun w hw => hvec w (by rwa [hstored]), heq.trans (by rw [hstored])⟩
  simp only [List.mem_cons, List.not_mem_nil, or_false, not_or] at hb
  rw [hraised b (by simpa using hb.2), hregs b (by simpa using hb.1)]

theorem writeSplCtrl_go {v : Nat} (hgo : bitAt v 0 = true) (habort : bitAt v 3 = false) :
    s.writeSplCtrl v = (s.storeSplCtrl v).startLoad := by
  simp [State.writeSplCtrl, State.storeSplCtrl, hgo, habort]

theorem writeSplCtrl_abort {v : Nat} (hgo : bitAt v 0 = false) (habort : bitAt v 3 = true) (hdrain : s.splState = 4) :
    s.writeSplCtrl v = (s.storeSplCtrl v).endLoad 8 13 := by
  have hstate := splState_storeSplCtrl s v
  rw [hdrain, State.storeSplCtrl] at hstate
  simp [State.writeSplCtrl, State.storeSplCtrl, hgo, habort, hstate]

/-- Outside a drain, and without ABORT and GO, a write stores its bits and does no more. -/
theorem writeSplCtrl_stores {v : Nat} (hgo : bitAt v 0 = false)
    (h : s.splState ≠ 4 ∨ bitAt v 3 = false ∨ s.load = none) : s.writeSplCtrl v = s.storeSplCtrl v := by
  by_cases hab : bitAt v 3 = true ∧ s.splState = 4
  · obtain ⟨habort, hdrain⟩ := hab
    have hnone : s.load = none := (h.resolve_left (not_not_intro hdrain)).resolve_left (by simp [habort])
    rw [writeSplCtrl_abort hgo habort hdrain, endLoad_of_none (by rw [load_storeSplCtrl, hnone])]
  · have hab' : ¬ (bitAt v 3 = true ∧ (s.storeSplCtrl v).splState = 4) := by rwa [splState_storeSplCtrl]
    rw [State.writeSplCtrl, hgo]
    exact if_neg hab'

/-- ABORT ends a load that drains REJECTED with reason 13 (R68). -/
theorem abort_refuses {l : Load} (hl : s.load = some l) (hbefore : l.before < 8) (v : Nat) :
    LoadRefused l.before 8 13 (s.storeSplCtrl v) ((s.storeSplCtrl v).endLoad 8 13) :=
  endLoad_refuses ((load_storeSplCtrl s v).trans hl) hbefore (by decide) (by decide) 13

end Sys2Proof.Machine

namespace Sys2Proof.Proofs

open Sys2Proof Sys2Proof.Machine

/-- Settles O19: GO starts a load, by what the read of the header gives, and ABORT ends the load of a drain. -/
theorem loadsStartAndAbort : Obligations.LoadsStartAndAbort := by
  intro s v src a hrun hsrc ha
  have hgo : exec (.splGo v) s = .next (s.writeSplCtrl v.toNat) :=
    exec_of_running (f := fun t => t.writeSplCtrl v.toNat) hrun rfl
  have habort : exec (.splAbort v) s = .next (s.writeSplCtrl v.toNat) :=
    exec_of_running (f := fun t => t.writeSplCtrl v.toNat) hrun rfl
  have haddr : s.goAddr v.toNat = a := by rw [ha, hsrc]; rfl
  obtain ⟨hmem, -, -⟩ := sameCells_fetching_storeSplCtrl s v.toNat
  rw [hgo, habort]
  refine ⟨fun h0 h3 hbusy => ?busy, fun h0 h3 hfree htrained => ?starts, fun l h0 h3 hl hdrain hbefore => ?aborts,
    fun h0 h => ?stores⟩
  case busy =>
    rw [writeSplCtrl_go h0 h3]
    exact ⟨_, rfl, go_busy hbusy v.toNat⟩
  case starts =>
    rw [writeSplCtrl_go h0 h3]
    subst haddr
    rw [← load_storeSplCtrl s v.toNat] at hfree
    rw [← splState_storeSplCtrl s v.toNat] at htrained
    obtain ⟨hstructure, hstreams⟩ := go_keeps hfree htrained
    refine ⟨_, rfl, hstructure, hstreams, fun hone hhost hdev => ?header, fun h => ?unreadable,
      fun d hone hd hbad => ?zeroed⟩
    case header =>
      obtain ⟨hbad, hgood⟩ := go_header hfree htrained hone hhost hdev
      refine ⟨fun h => ?_, fun h => ?_⟩
      · rw [hgood h, newLoad_storeSplCtrl]
        exact ⟨(splState_setLoad _ _).trans (splState_fetching _), hmem, _, rfl, hsrc.symm, rfl, rfl, rfl, rfl, rfl,
          Load.serial_withHeader _ _⟩
      · obtain ⟨hnone, hkept, -⟩ := (hbad h).keeps
        obtain ⟨hstate, hresult, hreason, hdone, -⟩ := hbad h
        exact ⟨hnone, hkept.trans hmem, hstate, hresult, hreason, hdone⟩
    case unreadable =>
      have hend := go_unreadable hfree htrained h
      obtain ⟨hnone, hkept, -⟩ := hend.keeps
      obtain ⟨hstate, hresult, hreason, hdone, -⟩ := hend
      exact ⟨hnone, hkept.trans hmem, hstate, hresult, hreason, hdone⟩
    case zeroed =>
      have hend := go_zeroed hfree htrained hone hd hbad
      obtain ⟨hnone, -⟩ := hend.keeps
      obtain ⟨hstate, hresult, hreason, hdone, -⟩ := hend
      exact ⟨hnone, hstate, hresult, hreason, hdone⟩
  case aborts =>
    rw [writeSplCtrl_abort h0 h3 hdrain]
    have hend := abort_refuses hl hbefore v.toNat
    obtain ⟨hnone, -, hstructure, -⟩ := hend.keeps
    obtain ⟨hstate, hresult, hreason, hdone, hsame, -⟩ := hend
    refine ⟨_, rfl, hnone, hstate, hresult, hreason, hdone, hstructure.trans (structure_storeSplCtrl s _),
      fun b hb => ?_⟩
    rw [List.mem_cons, not_or] at hb
    rw [hsame b hb.2, (onlyRegs_storeSplCtrl s _).1 b (by simpa using hb.1)]
  case stores =>
    rw [writeSplCtrl_stores h0 h]
    exact ⟨_, rfl, onlyRegs_storeSplCtrl s v.toNat⟩

end Sys2Proof.Proofs
end

section
/-!
PROOFS. Counter clears and resumption (R96, R98, R100, R117, R136, R138, R153, R178, R179, R203, R258, R285, R355, R369,
R390, R446): what a counter clear leaves, and a saved operation whose item waits until its resume.
-/

namespace Sys2Proof.Machine

variable {s : State}

/-! Counter clears. -/

theorem onlyRegs_zeroRegs (s : State) (l : List Nat) : OnlyRegs l s (s.zeroRegs l) :=
  ⟨fun a ha => by rw [reg_zeroRegs, if_neg ha], zeroRegs_eq s l⟩

theorem reg_zeroRegs_mem (s : State) {l : List Nat} {a : Nat} (h : a ∈ l) : (s.zeroRegs l).reg a = 0 := by
  rw [reg_zeroRegs, if_pos h]

theorem cntClr_of_clear {v : Word} (h : bitAt v.toNat 0 = false) (l : List Nat) : s.cntClr v l = s := if_neg (by simp [h])

theorem cntClr_of_set {v : Word} (h : bitAt v.toNat 0 = true) (l : List Nat) : s.cntClr v l = s.zeroRegs l := if_pos h

/-- The command clears the registers of a list by bit 0 of a word. -/
def ClearsCounters (c : Instr) (v : Word) (l : List Nat) : Prop := ∀ s, exec c s = .next (s.live (fun t => t.cntClr v l))

/-- On a part that runs, such a clear zeroes its list and nothing else, or changes nothing. -/
theorem ClearsCounters.outcome {c : Instr} {v : Word} {l : List Nat} (hc : ClearsCounters c v l) (hrun : s.halted = false) :
    (bitAt v.toNat 0 = false → exec c s = .next s) ∧
    (bitAt v.toNat 0 = true → ∃ t, exec c s = .next t ∧ (∀ a ∈ l, t.reg a = 0) ∧ OnlyRegs l s t) := by
  have hexec : exec c s = .next (s.cntClr v l) := exec_of_running (f := fun t => t.cntClr v l) hrun (hc s)
  refine ⟨fun h => ?_, fun h => ?_⟩
  · rw [hexec, cntClr_of_clear h]
  · rw [hexec, cntClr_of_set h]
    exact ⟨_, rfl, fun a ha => reg_zeroRegs_mem s ha, onlyRegs_zeroRegs s l⟩

/-! The host queues' counters and the mirror's. -/

theorem reg_resetRegs (s : State) (p : Nat → Bool) (a : Nat) :
    (s.resetRegs p).reg a = if p a then regReset a else s.reg a := by
  have hread : (s.resetRegs p).reg a = if !p a then s.reg a else regReset a := AMap.read_filter regReset (fun k => !p k) a
  rw [hread]
  cases p a <;> rfl

theorem doHqCntClr_spec (s : State) (v : Word) :
    (bitAt v.toNat 0 = false → doHqCntClr v s = s) ∧
    (bitAt v.toNat 0 = true → (∀ a, (doHqCntClr v s).reg a = if isHqCounter a then regReset a else s.reg a) ∧
      doHqCntClr v s = { s with regs := (doHqCntClr v s).regs }) := by
  refine ⟨fun h => if_neg (by simp [h]), fun h => ?_⟩
  have hclear : doHqCntClr v s = s.resetRegs isHqCounter := if_pos h
  rw [hclear]
  exact ⟨reg_resetRegs s isHqCounter, rfl⟩

/-- MMR_CTRL takes its stored bit, and MMR_LOST is cleared by CNT_CLR only (R446). -/
theorem doMmrCntClr_spec (s : State) (v : Word) :
    (doMmrCntClr v s).rn Reg.MMR_CTRL = bitsAt v.toNat 0 1 ∧
    (bitAt v.toNat 1 = true → (doMmrCntClr v s).reg Reg.MMR_LOST = 0) ∧
    (bitAt v.toNat 1 = false → (doMmrCntClr v s).reg Reg.MMR_LOST = s.reg Reg.MMR_LOST) ∧
    OnlyRegs [Reg.MMR_CTRL, Reg.MMR_LOST] s (doMmrCntClr v s) := by
  have hne : Reg.MMR_LOST ≠ Reg.MMR_CTRL := by decide
  have hctrl : (s.setN Reg.MMR_CTRL (bitsAt v.toNat 0 1)).rn Reg.MMR_CTRL = bitsAt v.toNat 0 1 := by
    rw [rn_setN_same, Nat.mod_eq_of_lt ((bitsAt_lt v.toNat 0 1).trans (by decide))]
  have hframe : OnlyRegs [Reg.MMR_CTRL, Reg.MMR_LOST] s (s.setN Reg.MMR_CTRL (bitsAt v.toNat 0 1)) :=
    onlyRegs_setReg_mem s (by simp) _
  unfold doMmrCntClr
  dsimp only
  split
  · next hclr =>
    refine ⟨?_, fun _ => reg_setReg_same _ _ _, fun h => by simp [h] at hclr,
      hframe.trans (onlyRegs_setReg_mem _ (by simp) _)⟩
    rw [State.rn, reg_setReg_other _ _ hne.symm]
    exact hctrl
  · next hkeep => exact ⟨hctrl, fun h => absurd h hkeep, fun _ => reg_setReg_other s _ hne, hframe⟩

end Sys2Proof.Machine

namespace Sys2Proof.Proofs

open Sys2Proof Sys2Proof.Machine

/-- Settles O23: the listed commands are `ClearsCounters` of their lists; the others have their own clauses. -/
theorem counterClears : Obligations.CounterClears := by
  intro s v hrun
  refine ⟨?listed, ?snapshots, ?peak, ?mirror, ?queues⟩
  case listed =>
    refine fun p hp => ClearsCounters.outcome (?_ : ClearsCounters p.1 v p.2) hrun
    revert p
    simp only [List.forall_mem_append, List.forall_mem_flatMap, List.forall_mem_map, List.forall_mem_cons,
      List.not_mem_nil, false_implies, implies_true, and_true, and_assoc]
    -- A cluster's units, cores, dies and memory engines in the order of the list, then the blocks with one clear each.
    exact ⟨fun cl _ => ⟨fun _ => rfl, fun _ => rfl, fun _ => rfl⟩, fun cl _ e _ _ => rfl, fun n _ _ => rfl,
      fun d _ _ => rfl, fun e _ _ => rfl, fun e _ _ => rfl,
      fun _ => rfl, fun _ => rfl, fun _ => rfl, fun _ => rfl, fun _ => rfl, fun _ => rfl, fun _ => rfl⟩
  case snapshots =>
    exact ⟨_, exec_of_running (f := doSnpCntClr) hrun rfl, reg_zeroRegs_mem s (by simp),
      reg_zeroRegs_mem s (by simp), onlyRegs_zeroRegs s [Reg.SNP_MISSED, Reg.SNP_FIRED]⟩
  case peak =>
    exact ⟨_, exec_of_running (f := fun t => t.setN Reg.PWR_PEAK 0) hrun rfl, reg_setReg_same s _ _, onlyRegs_setReg s _ _⟩
  case mirror => exact ⟨_, exec_of_running (f := doMmrCntClr v) hrun rfl, doMmrCntClr_spec s v⟩
  case queues => exact ⟨_, exec_of_running (f := doHqCntClr v) hrun rfl, doHqCntClr_spec s v⟩

/-- Cluster 5 holds a saved vector operation of stream 1, whose step yielded and whose item, the only one, waits for its
start. -/
def savedWithWaitingItem : State := { State.reset with
  work := [(5, { saved := [{ id := 6, unit := 2, handle := 1 }] })]
  streams := [(1, { st := .active, cluster := some 5, step := some { yielded := true } })]
  place := { items := [{ handle := 1, cluster := 5 }] } }

/-- The item comes first and starts again, so that the operation leaves the saved list. -/
theorem saved_engineResume_waitingItem : ((doEngineResume 5 2 6 savedWithWaitingItem).wk 5).saved = [] := by
  decide +kernel

/-- Refutes O24: where the item that waits comes first on its cluster, ENGINE_RESUME starts it again (R355) and resumes its
operation, so that the command does not leave the part as it was. -/
theorem not_savedOperationsResume : ¬ Obligations.SavedOperationsResume := by
  intro h
  obtain ⟨-, hheld, -⟩ := h savedWithWaitingItem 5 2 6 rfl
  have hnone : exec (.engineResume 5 2 6) savedWithWaitingItem = .next savedWithWaitingItem :=
    hheld { id := 6, unit := 2, handle := 1 } rfl (.inr (.inr rfl))
  have hsame : doEngineResume 5 2 6 savedWithWaitingItem = savedWithWaitingItem :=
    Host.Outcome.next.inj ((exec_of_running (f := doEngineResume 5 2 6) rfl rfl).symm.trans hnone)
  have hsaved := saved_engineResume_waitingItem
  rw [hsame] at hsaved
  exact absurd hsaved (by decide)

end Sys2Proof.Proofs
end

section
/-!
PROOFS. Watch slots, the drift test and the cairn slots (R114, R117, R137, R201, R204): what the clears of watch slots
leave, the start and the end of a drift test, and the writes and restarts of cairn slots.
-/

namespace Sys2Proof.Machine

variable {s : State}

/-! Frames of registers and vectors. -/

theorem OnlyRegs.mono {l l' : List Nat} {t : State} (h : OnlyRegs l s t) (hl : l ⊆ l') : OnlyRegs l' s t :=
  ⟨fun a ha => h.1 a (fun hm => ha (hl hm)), h.2⟩

theorem OnlyRegs.irq {l : List Nat} {t : State} (h : OnlyRegs l s t) : OnlyRegsIrq l s t := by
  obtain ⟨hregs, heq⟩ := h
  have hhost : t.host = s.host := by rw [heq]
  exact ⟨hregs, fun _ hv => hhost ▸ hv, by rw [hhost]; exact heq⟩

theorem OnlyRegsIrq.refl (l : List Nat) (s : State) : OnlyRegsIrq l s s := (onlyRegs_refl l s).irq

theorem OnlyRegsIrq.mono {l l' : List Nat} {t : State} (h : OnlyRegsIrq l s t) (hl : l ⊆ l') : OnlyRegsIrq l' s t :=
  ⟨fun a ha => h.1 a (fun hm => ha (hl hm)), h.2⟩

theorem OnlyRegsIrq.trans {l : List Nat} {t u : State} (h1 : OnlyRegsIrq l s t) (h2 : OnlyRegsIrq l t u) :
    OnlyRegsIrq l s u := by
  obtain ⟨hregs1, hvec1, heq1⟩ := h1
  obtain ⟨hregs2, hvec2, heq2⟩ := h2
  exact ⟨fun a ha => (hregs2 a ha).trans (hregs1 a ha), fun v hv => hvec2 v (hvec1 v hv), by rw [heq2, heq1]⟩

/-! Watch slots (R114, R117). -/

theorem le_of_mem_wordsFrom {lo hi a : Nat} (h : a ∈ wordsFrom lo hi) : lo ≤ a := by
  obtain ⟨i, -, rfl⟩ := List.mem_map.1 h
  exact Nat.le_add_right _ _

/-- A slot's selection stands below the registers that its clear zeroes. -/
theorem wsel_not_mem_qstSlot (cl n : Nat) : Reg.QST_WSELn cl n ∉ qstSlot cl n := fun h => by
  have hle := le_of_mem_wordsFrom h
  simp only [Reg.QST_WSELn, Reg.QST_WCLIPn] at hle
  omega

/-- Writing a selection stores its fields and zeroes the slot. -/
theorem wselWrite_spec (s : State) (cl n : Nat) (v : Word) :
    ((s.setReg (Reg.QST_WSELn cl n) (wselFields v)).zeroRegs (qstSlot cl n)).reg (Reg.QST_WSELn cl n) = wselFields v ∧
    OnlyRegs (Reg.QST_WSELn cl n :: qstSlot cl n) s
      ((s.setReg (Reg.QST_WSELn cl n) (wselFields v)).zeroRegs (qstSlot cl n)) := by
  refine ⟨?_, (onlyRegs_setReg_mem s (by simp) _).trans ((onlyRegs_zeroRegs _ _).mono (List.subset_cons_self _ _))⟩
  rw [reg_zeroRegs, if_neg (wsel_not_mem_qstSlot cl n), reg_setReg_same]

theorem reg_cntClr (s : State) (v : Word) (l : List Nat) (a : Nat) :
    (s.cntClr v l).reg a = if bitAt v.toNat 0 && l.contains a then 0 else s.reg a := by
  cases h : bitAt v.toNat 0
  · simp [cntClr_of_clear h]
  · simp [cntClr_of_set h, reg_zeroRegs]

theorem onlyRegs_cntClr (s : State) (v : Word) (l : List Nat) : OnlyRegs l s (s.cntClr v l) := by
  unfold State.cntClr
  split
  · exact onlyRegs_zeroRegs s l
  · exact onlyRegs_refl l s

/-- Each slot of the list whose bit is set reads zero, and every other register as before. -/
theorem reg_clearSlots (s : State) (cl : Nat) (v : Word) (l : List Nat) (a : Nat) :
    (clearSlots cl v s l).reg a =
      if l.any (fun n => bitAt v.toNat (1 + n) && (qstSlot cl n).contains a) then 0 else s.reg a := by
  induction l generalizing s with
  | nil => rfl
  | cons n l ih =>
    rw [clearSlots, ih]
    cases hbit : bitAt v.toNat (1 + n)
    · simp [hbit]
    · by_cases hslot : a ∈ qstSlot cl n <;> simp [hbit, reg_zeroRegs, hslot]

theorem onlyRegs_clearSlots (s : State) (cl : Nat) (v : Word) (l : List Nat) :
    OnlyRegs (l.flatMap (qstSlot cl)) s (clearSlots cl v s l) := by
  induction l generalizing s with
  | nil => exact onlyRegs_refl _ s
  | cons n l ih =>
    refine OnlyRegs.trans ?_ ((ih _).mono (List.subset_append_right _ _))
    split
    · exact (onlyRegs_zeroRegs s _).mono (List.subset_append_left _ _)
    · exact onlyRegs_refl _ s

/-- What QST_CNT_CLR leaves: the counters fall by bit 0, then the slots by their bits. -/
theorem qstCntClr_spec (s : State) (cl : Nat) (v : Word) :
    clearSlots cl v (s.cntClr v (qstCounters cl)) (List.range 8) =
      { s with regs := (clearSlots cl v (s.cntClr v (qstCounters cl)) (List.range 8)).regs } ∧
    ∀ a, (clearSlots cl v (s.cntClr v (qstCounters cl)) (List.range 8)).reg a =
      if (bitAt v.toNat 0 && (qstCounters cl).contains a) ||
        (List.range 8).any (fun n => bitAt v.toNat (1 + n) && (qstSlot cl n).contains a) then 0 else s.reg a := by
  have hframe := ((onlyRegs_cntClr s v (qstCounters cl)).mono (List.subset_append_left _ _)).trans
    ((onlyRegs_clearSlots _ cl v (List.range 8)).mono (List.subset_append_right _ _))
  refine ⟨hframe.2, fun a => ?_⟩
  rw [reg_clearSlots, reg_cntClr]
  cases (List.range 8).any (fun n => bitAt v.toNat (1 + n) && (qstSlot cl n).contains a) <;> simp

/-! The drift test (R137). -/

/-- A cluster's drift generator shows DONE and STATE. -/
def State.showDrift (s : State) (cl : Nat) (done : Bool) (state : Nat) : State :=
  (s.setBit (Reg.DRF_TCTRL cl) 1 done).setFld (Reg.DRF_STATUS cl) 0 3 state

theorem showDrift_spec (s : State) (cl : Nat) (done : Bool) {state : Nat} (h : state < 2 ^ 3) :
    (s.showDrift cl done state).rbit (Reg.DRF_TCTRL cl) 1 = done ∧
    (s.showDrift cl done state).fld (Reg.DRF_STATUS cl) 0 3 = state ∧
    OnlyRegs [Reg.DRF_TCTRL cl, Reg.DRF_STATUS cl] s (s.showDrift cl done state) := by
  have hne : Reg.DRF_TCTRL cl ≠ Reg.DRF_STATUS cl := by simp only [Reg.DRF_TCTRL, Reg.DRF_STATUS]; omega
  refine ⟨?_, (fld_setFld_same _ _ (by decide)).trans (Nat.mod_eq_of_lt h),
    (onlyRegs_setReg_mem s (by simp) _).trans (onlyRegs_setReg_mem _ (by simp) _)⟩
  rw [State.showDrift, rbit_congr (reg_setFld_other _ _ _ _ hne), rbit_setBit _ _ _ (by decide), if_pos rfl]

theorem drfTout_not_shown (cl i : Nat) : Reg.DRF_TOUTi cl i ∉ [Reg.DRF_TCTRL cl, Reg.DRF_STATUS cl] := by
  simp only [Reg.DRF_TOUTi, Reg.DRF_TCTRL, Reg.DRF_STATUS, List.mem_cons, List.not_mem_nil, or_false]
  omega

/-- Four consecutive registers take the words of a result. -/
def State.setFour (s : State) (r : Nat → Nat) (w : W4) : State :=
  (((s.setReg (r 0) w.w0).setReg (r 1) w.w1).setReg (r 2) w.w2).setReg (r 3) w.w3

theorem four_setFour {r : Nat → Nat} (hr : r.Injective) (s : State) (w : W4) : (s.setFour r w).four r = w := by
  simp [State.four, State.setFour, reg_setReg, hr.eq_iff]

theorem onlyRegs_setFour (s : State) (r : Nat → Nat) (w : W4) : OnlyRegs [r 0, r 1, r 2, r 3] s (s.setFour r w) :=
  (((onlyRegs_setReg_mem s (by simp) _).trans (onlyRegs_setReg_mem _ (by simp) _)).trans
    (onlyRegs_setReg_mem _ (by simp) _)).trans (onlyRegs_setReg_mem _ (by simp) _)

theorem four_congr {t : State} {r : Nat → Nat} (h : ∀ i, t.reg (r i) = s.reg (r i)) : t.four r = s.four r := by
  simp only [State.four, h]

theorem drfTout_injective (cl : Nat) : (Reg.DRF_TOUTi cl).Injective := fun i j h => by
  simp only [Reg.DRF_TOUTi] at h
  omega

/-- These clusters' drift tests run. -/
def State.setTests (s : State) (l : List Nat) : State := { s with drfTests := l }

theorem reg_setTests (s : State) (l : List Nat) (a : Nat) : (s.setTests l).reg a = s.reg a := reg_of_regs rfl a

theorem OnlyRegs.setTests_eq {l : List Nat} {u : State} (h : OnlyRegs l s u) (tests : List Nat) :
    u.setTests tests = { s with
      regs := (u.setTests tests).regs
      drfTests := (u.setTests tests).drfTests } := by
  obtain ⟨-, heq⟩ := h
  rw [State.setTests, heq]

theorem doDrfTestGo_gated {cl : Fin 96} (hg : s.gated cl = true) : doDrfTestGo cl s = s := if_pos hg

theorem doDrfTestGo_running {cl : Fin 96} (hg : s.gated cl = false) : doDrfTestGo cl s =
    (s.showDrift cl false 1).setTests (cl.val :: s.drfTests.filter (fun c => c != cl.val)) :=
  if_neg (by simp [hg])

/-- A test that does not run, or whose cluster is gated, has no end. -/
theorem doDrfTestDone_ignored {cl : Fin 96} (h : cl.val ∉ s.drfTests ∨ s.gated cl = true) : doDrfTestDone cl s = s := by
  refine if_neg ?_
  rcases h with h | h <;> simp [h]

theorem doDrfTestDone_running {cl : Fin 96} (hc : cl.val ∈ s.drfTests) (hg : s.gated cl = false) :
    doDrfTestDone cl s = ((s.setFour (Reg.DRF_TOUTi cl) (mix (s.four (Reg.DRF_TKEYi cl)) (s.four (Reg.DRF_TCTRi cl)))).showDrift
      cl true 0).setTests (s.drfTests.filter (fun c => c != cl.val)) :=
  if_pos (by simp [hc, hg])

theorem doDrfTestGo_spec {cl : Fin 96} (hg : s.gated cl = false) : ∃ t, doDrfTestGo cl s = t ∧
    t.rbit (Reg.DRF_TCTRL cl) 1 = false ∧ t.fld (Reg.DRF_STATUS cl) 0 3 = 1 ∧ cl.val ∈ t.drfTests ∧
    SameRegs [Reg.DRF_TCTRL cl, Reg.DRF_STATUS cl] s t ∧ t = { s with
      regs := t.regs
      drfTests := t.drfTests } := by
  refine ⟨_, doDrfTestGo_running hg, ?_⟩
  obtain ⟨hdone, hstate, hframe⟩ := showDrift_spec s cl false (by decide : 1 < 2 ^ 3)
  generalize s.showDrift cl false 1 = u at *
  have hreg := reg_setTests u (cl.val :: s.drfTests.filter (fun c => c != cl.val))
  exact ⟨(rbit_congr (hreg _) 1).trans hdone, (fld_congr (hreg _) 0 3).trans hstate, List.mem_cons_self,
    fun a ha => (hreg a).trans (hframe.1 a ha), hframe.setTests_eq _⟩

theorem doDrfTestDone_spec {cl : Fin 96} (hc : cl.val ∈ s.drfTests) (hg : s.gated cl = false) : ∃ t, doDrfTestDone cl s = t ∧
    t.four (Reg.DRF_TOUTi cl) = mix (s.four (Reg.DRF_TKEYi cl)) (s.four (Reg.DRF_TCTRi cl)) ∧
    t.rbit (Reg.DRF_TCTRL cl) 1 = true ∧ t.fld (Reg.DRF_STATUS cl) 0 3 = 0 ∧ cl.val ∉ t.drfTests ∧
    SameRegs [Reg.DRF_TOUTi cl 0, Reg.DRF_TOUTi cl 1, Reg.DRF_TOUTi cl 2, Reg.DRF_TOUTi cl 3, Reg.DRF_TCTRL cl,
      Reg.DRF_STATUS cl] s t ∧ t = { s with
      regs := t.regs
      drfTests := t.drfTests } := by
  refine ⟨_, doDrfTestDone_running hc hg, ?_⟩
  generalize mix (s.four (Reg.DRF_TKEYi cl)) (s.four (Reg.DRF_TCTRi cl)) = w
  obtain ⟨hdone, hstate, hshow⟩ := showDrift_spec (s.setFour (Reg.DRF_TOUTi cl) w) cl true (by decide : 0 < 2 ^ 3)
  have hout := (four_congr (fun i => hshow.1 _ (drfTout_not_shown cl i))).trans (four_setFour (drfTout_injective cl) s w)
  have hframe := ((onlyRegs_setFour s (Reg.DRF_TOUTi cl) w).mono (List.subset_append_left _ _)).trans
    (hshow.mono (List.subset_append_right _ _))
  generalize (s.setFour (Reg.DRF_TOUTi cl) w).showDrift cl true 0 = u at *
  have hreg := reg_setTests u (s.drfTests.filter (fun c => c != cl.val))
  exact ⟨(four_congr (fun i => hreg _)).trans hout, (rbit_congr (hreg _) 1).trans hdone,
    (fld_congr (hreg _) 0 3).trans hstate, by simp [State.setTests], fun a ha => (hreg a).trans (hframe.1 a ha),
    hframe.setTests_eq _⟩

/-! Cairn slots (R201, R204). -/

theorem doCrnPairHighWrite_held {e : Fin 104} {i : Fin 4} (hheld : s.crnHeld e i = true) (pair : Fin 4) (v : Word) :
    doCrnPairHighWrite e i pair v s = s.raise (Reg.CRN_INT_STATUS e) 0 := if_pos hheld

/-- The low word held for a pair, or in force, and the high word take effect together, and no low word is held. -/
theorem doCrnPairHighWrite_free {e : Fin 104} {i : Fin 4} (hheld : s.crnHeld e i = false) (pair : Fin 4) (v : Word) :
    doCrnPairHighWrite e i pair v s =
      ((s.setCar e { s.car e with
        latch := AMap.write (fun _ => none) (s.car e).latch (4 * i + pair) none }).setReg (crnPairLo e i pair)
          ((AMap.read (fun _ => none) (s.car e).latch (4 * i + pair)).getD (s.reg (crnPairLo e i pair)))).setReg
        (crnPairLo e i pair + 4) v := if_neg (by simp [hheld])

theorem car_setCar_same (s : State) (e : Nat) (x : Caravan) : (s.setCar e x).car e = x := AMap.read_write_same _ _ _ _
theorem car_setCar_other (s : State) {e k : Nat} (x : Caravan) (h : k ≠ e) : (s.setCar e x).car k = s.car k :=
  AMap.read_write_other _ _ _ h

theorem doCrnPairHighWrite_spec {e : Fin 104} {i : Fin 4} (hheld : s.crnHeld e i = false) (pair : Fin 4) (v : Word) :
    ∃ t, doCrnPairHighWrite e i pair v s = t ∧
      t.reg (crnPairLo e i pair) = (AMap.read (fun _ => none) (s.car e).latch (4 * i + pair)).getD (s.reg (crnPairLo e i pair)) ∧
      t.reg (crnPairLo e i pair + 4) = v ∧ AMap.read (fun _ => none) (t.car e).latch (4 * i + pair) = none ∧
      (t.car e).ctxs = (s.car e).ctxs ∧ (t.car e).waiting = (s.car e).waiting ∧ (∀ k, k ≠ e.val → t.car k = s.car k) ∧
      SameRegs [crnPairLo e i pair, crnPairLo e i pair + 4] s t ∧ t = { s with
        regs := t.regs
        caravans := t.caravans } := by
  refine ⟨_, doCrnPairHighWrite_free hheld pair v, ?_⟩
  generalize (AMap.read (fun _ => none) (s.car e).latch (4 * i + pair)).getD (s.reg (crnPairLo e i pair)) = lo
  generalize hu : s.setCar e { s.car e with latch := AMap.write (fun _ => none) (s.car e).latch (4 * i + pair) none } = u
  have hcar : u.car e = { s.car e with latch := AMap.write (fun _ => none) (s.car e).latch (4 * i + pair) none } := by
    rw [← hu, car_setCar_same]
  have hwords : OnlyRegs [crnPairLo e i pair, crnPairLo e i pair + 4] u
      ((u.setReg (crnPairLo e i pair) lo).setReg (crnPairLo e i pair + 4) v) :=
    (onlyRegs_setReg_mem u (by simp) lo).trans (onlyRegs_setReg_mem _ (by simp) v)
  have hcars : ∀ k, ((u.setReg (crnPairLo e i pair) lo).setReg (crnPairLo e i pair + 4) v).car k = u.car k := fun _ => rfl
  refine ⟨by rw [reg_setReg_other _ _ (by omega), reg_setReg_same], reg_setReg_same _ _ _, ?_, ?_, ?_, fun k hk => ?_,
    fun a ha => ?_, ?_⟩
  · rw [hcars, hcar, AMap.read_write_same]
  · rw [hcars, hcar]
  · rw [hcars, hcar]
  · rw [hcars, ← hu, car_setCar_other s _ hk]
  · exact (hwords.1 a ha).trans (by rw [← hu]; rfl)
  · rw [← hu]; rfl

/-- The registers that a restart of a slot sets: its value and its byte count. -/
def crnRunRegs (e i : Nat) : List Nat :=
  [Reg.CRN_VALUEs_LO e i, Reg.CRN_VALUEs_LO e i + 4, Reg.CRN_BYTESs_LO e i, Reg.CRN_BYTESs_LO e i + 4]

theorem mem_crnRunRegs {e i a : Nat} : a ∈ crnRunRegs e i ↔
    ∃ o, (o = 0x60 ∨ o = 0x64 ∨ o = 0x70 ∨ o = 0x74) ∧ a = carBase e + 0x1000 + o + i * 0x40 := by
  simp only [crnRunRegs, Reg.CRN_VALUEs_LO, Reg.CRN_BYTESs_LO, List.mem_cons, List.not_mem_nil, or_false,
    or_and_right, exists_or, exists_eq_left]
  omega

/-- What a restart of a slot puts into its value (R199). -/
def State.crnInitial (s : State) (e i : Nat) : Nat := s.pair (Reg.CRN_INITs_LO e i) % 2 ^ s.fld (Reg.CRN_CFGs e i) 0 7

/-- A slot's value and byte count are its registers alone. -/
theorem crnRunRegs_not_mem {e i a : Nat} (ha : a ∈ crnRunRegs e i) {l : List Nat} (hi : i ∉ l) :
    a ∉ Reg.CRN_INT_STATUS e :: l.flatMap (crnRunRegs e) := by
  obtain ⟨o, ho, rfl⟩ := mem_crnRunRegs.1 ha
  simp only [List.mem_cons, List.mem_flatMap, mem_crnRunRegs, Reg.CRN_INT_STATUS]
  rintro (h | ⟨j, hj, p, hp, h⟩)
  · omega
  · have hji : j = i := by omega
    exact hi (hji ▸ hj)

/-- A slot whose registers stay keeps its value and its byte count. -/
theorem crnRun_congr {t : State} {e i : Nat} (h : ∀ a ∈ crnRunRegs e i, t.reg a = s.reg a) :
    t.pair (Reg.CRN_VALUEs_LO e i) = s.pair (Reg.CRN_VALUEs_LO e i) ∧
    t.pair (Reg.CRN_BYTESs_LO e i) = s.pair (Reg.CRN_BYTESs_LO e i) :=
  ⟨pair_congr (h _ (by simp [crnRunRegs])) (h _ (by simp [crnRunRegs])),
    pair_congr (h _ (by simp [crnRunRegs])) (h _ (by simp [crnRunRegs]))⟩

/-- A restart of slots leaves every register of the unit that is neither theirs nor the interrupt status. -/
theorem SameRegs.reg_crn {t : State} {e : Nat} {l : List Nat}
    (h : SameRegs (Reg.CRN_INT_STATUS e :: l.flatMap (crnRunRegs e)) s t) {a : Nat}
    (ha : ∃ o, a = carBase e + 0x1000 + o ∧ o % 0x40 < 0x20 ∧ o ≠ 8) : t.reg a = s.reg a := by
  obtain ⟨o, rfl, hlow, hint⟩ := ha
  refine h _ ?_
  simp only [List.mem_cons, List.mem_flatMap, mem_crnRunRegs, Reg.CRN_INT_STATUS]
  rintro (h | ⟨j, -, p, hp, h⟩) <;> omega

/-- A restart of slots changes neither which slots are held nor what a restart puts into them. -/
theorem SameRegs.crn_inputs {t : State} {e : Nat} {l : List Nat}
    (h : SameRegs (Reg.CRN_INT_STATUS e :: l.flatMap (crnRunRegs e)) s t) (i : Nat) :
    t.crnHeld e i = s.crnHeld e i ∧ t.crnInitial e i = s.crnInitial e i := by
  have hstatus : t.reg (Reg.CRN_STATUS e) = s.reg (Reg.CRN_STATUS e) := h.reg_crn ⟨0, rfl, by decide, by decide⟩
  have hcfg : t.reg (Reg.CRN_CFGs e i) = s.reg (Reg.CRN_CFGs e i) :=
    h.reg_crn ⟨0x40 + i * 0x40, by simp only [Reg.CRN_CFGs]; omega, by omega, by omega⟩
  have hlo : t.reg (Reg.CRN_INITs_LO e i) = s.reg (Reg.CRN_INITs_LO e i) :=
    h.reg_crn ⟨0x50 + i * 0x40, by simp only [Reg.CRN_INITs_LO]; omega, by omega, by omega⟩
  have hhi : t.reg (Reg.CRN_INITs_LO e i + 4) = s.reg (Reg.CRN_INITs_LO e i + 4) :=
    h.reg_crn ⟨0x54 + i * 0x40, by simp only [Reg.CRN_INITs_LO]; omega, by omega, by omega⟩
  exact ⟨rbit_congr hstatus i, by rw [State.crnInitial, State.crnInitial, pair_congr hlo hhi, fld_congr hcfg]⟩

theorem crnReload_spec (s : State) (e i : Nat) :
    (s.crnReload e i).pair (Reg.CRN_VALUEs_LO e i) = s.crnInitial e i ∧
    (s.crnReload e i).pair (Reg.CRN_BYTESs_LO e i) = 0 ∧ OnlyRegs (crnRunRegs e i) s (s.crnReload e i) := by
  have hset : s.crnReload e i =
      (s.setPair (Reg.CRN_VALUEs_LO e i) (s.crnInitial e i)).setPair (Reg.CRN_BYTESs_LO e i) 0 := rfl
  have hlt : s.crnInitial e i < 2 ^ 64 := (Nat.mod_le _ _).trans_lt (pair_lt s _)
  have hvalue : Reg.CRN_VALUEs_LO e i + 16 = Reg.CRN_BYTESs_LO e i := by
    simp only [Reg.CRN_VALUEs_LO, Reg.CRN_BYTESs_LO]; omega
  rw [hset]
  refine ⟨?_, pair_setPair_same _ _ _, ?_⟩
  · rw [pair_congr (reg_setPair_other _ _ (by omega) (by omega)) (reg_setPair_other _ _ (by omega) (by omega)),
      pair_setPair_same, Nat.mod_eq_of_lt hlt]
  · exact (((onlyRegs_setReg_mem s (by simp [crnRunRegs]) _).trans (onlyRegs_setReg_mem _ (by simp [crnRunRegs]) _)).trans
      (onlyRegs_setReg_mem _ (by simp [crnRunRegs]) _)).trans (onlyRegs_setReg_mem _ (by simp [crnRunRegs]) _)

/-- CRN_RESTART of a word restarts the slot: it names the slot, and no scan holds it (R201). -/
def State.crnRestarts (s : State) (e : Nat) (v : Word) (i : Nat) : Bool := bitAt v.toNat i && !s.crnHeld e i

/-- What CRN_RESTART of a word leaves of a list of slots: those that it restarts have their initial value and no bytes, one
that it names and a scan holds has raised the interrupt, and nothing else differs. -/
structure CrnRestarted (e : Nat) (v : Word) (l : List Nat) (s t : State) : Prop where
  reloaded : ∀ i ∈ l, s.crnRestarts e v i = true →
    t.pair (Reg.CRN_VALUEs_LO e i) = s.crnInitial e i ∧ t.pair (Reg.CRN_BYTESs_LO e i) = 0
  refused : ∀ i ∈ l, bitAt v.toNat i = true → s.crnHeld e i = true → t.rbit (Reg.CRN_INT_STATUS e) 0 = true
  noted : s.rbit (Reg.CRN_INT_STATUS e) 0 = true → t.rbit (Reg.CRN_INT_STATUS e) 0 = true
  frame : OnlyRegsIrq (Reg.CRN_INT_STATUS e :: (l.filter (s.crnRestarts e v)).flatMap (crnRunRegs e)) s t

/-- The slots of a list are restarted one after another: no slot's registers are another's. -/
theorem CrnRestarted.cons {t u : State} {e i : Nat} {v : Word} {l : List Nat} (hi : i ∉ l)
    (h1 : CrnRestarted e v [i] s u) (h2 : CrnRestarted e v l u t) : CrnRestarted e v (i :: l) s t := by
  have hin := h1.frame.1.crn_inputs
  have hrestarts : u.crnRestarts e v = s.crnRestarts e v := funext fun j => by simp only [State.crnRestarts, (hin j).1]
  have hframe := h2.frame
  rw [hrestarts] at hframe
  refine ⟨fun j hj hjr => ?reloaded, fun j hj hbit hheld => ?refused, fun h => h2.noted (h1.noted h), ?frame⟩
  case reloaded =>
    rcases List.mem_cons.1 hj with rfl | hjl
    · have hkeep := crnRun_congr fun a ha => hframe.1 a (crnRunRegs_not_mem ha fun hm => hi (List.mem_of_mem_filter hm))
      rw [hkeep.1, hkeep.2]
      exact h1.reloaded j (List.mem_singleton_self j) hjr
    · rw [← (hin j).2]
      exact h2.reloaded j hjl (by rw [hrestarts]; exact hjr)
  case refused =>
    rcases List.mem_cons.1 hj with rfl | hjl
    · exact h2.noted (h1.refused j (List.mem_singleton_self j) hbit hheld)
    · exact h2.refused j hjl hbit ((hin j).1.trans hheld)
  case frame =>
    rw [← List.singleton_append (x := i), List.filter_append, List.flatMap_append]
    exact (h1.frame.mono (List.cons_subset_cons _ (List.subset_append_left _ _))).trans
      (hframe.mono (List.cons_subset_cons _ (List.subset_append_right _ _)))

/-- One slot: it is not named, it is held, or it is reloaded. -/
theorem crnRestarted_singleton (s : State) (e i : Nat) (v : Word) : CrnRestarted e v [i] s (restartSlots e v s [i]) := by
  unfold restartSlots restartSlots
  cases hbit : bitAt v.toNat i with
  | false =>
    have hno : s.crnRestarts e v i = false := by simp [State.crnRestarts, hbit]
    rw [if_neg Bool.false_ne_true]
    exact ⟨by simp [hno], by simp [hbit], id, OnlyRegsIrq.refl _ _⟩
  | true =>
    rw [if_pos rfl]
    cases hheld : s.crnHeld e i with
    | true =>
      have hno : s.crnRestarts e v i = false := by simp [State.crnRestarts, hheld]
      obtain ⟨hint, -, hframe⟩ := raise_spec s (Reg.CRN_INT_STATUS e) 0 (by decide)
      rw [if_pos rfl]
      exact ⟨by simp [hno], fun _ _ _ _ => hint, fun _ => hint, by simpa [hno] using hframe⟩
    | false =>
      have hyes : s.crnRestarts e v i = true := by simp [State.crnRestarts, hbit, hheld]
      obtain ⟨hvalue, hbytes, hframe⟩ := crnReload_spec s e i
      have hint : (s.crnReload e i).reg (Reg.CRN_INT_STATUS e) = s.reg (Reg.CRN_INT_STATUS e) := hframe.1 _ (by
        simp only [mem_crnRunRegs, Reg.CRN_INT_STATUS]
        omega)
      rw [if_neg Bool.false_ne_true]
      exact ⟨by simp [hvalue, hbytes], by simp [hheld], fun h => (rbit_congr hint 0).trans h,
        hframe.irq.mono (by simp [hyes])⟩

theorem crnRestarted_restartSlots {l : List Nat} (hl : l.Nodup) (s : State) (e : Nat) (v : Word) :
    CrnRestarted e v l s (restartSlots e v s l) := by
  induction l generalizing s with
  | nil => exact ⟨by simp, by simp, id, OnlyRegsIrq.refl _ _⟩
  | cons i l ih =>
    obtain ⟨hi, hl⟩ := List.nodup_cons.1 hl
    exact (crnRestarted_singleton s e i v).cons hi (ih hl _)

end Sys2Proof.Machine

namespace Sys2Proof.Proofs

open Sys2Proof Sys2Proof.Machine

/-- Settles O25: clears of watch slots zero lists of registers, a drift test shows its start and its end, and the slots of
CRN_RESTART are restarted one after another. -/
theorem watchSlotsDriftTestAndCairnSlots : Obligations.WatchSlotsDriftTestAndCairnSlots := by
  refine ⟨fun s cl hrun => ⟨fun n => ?slotClear, fun n v => ?wsel, fun v => ?cntClr, fun hg => ?goGated, fun hg => ?go,
    fun h => ?doneIgnored, fun hc hg => ?done⟩, fun s e i pair v hrun => ⟨fun hheld => ?pairHeld, fun hfree => ?pairFree⟩,
    fun s e v hrun => ?restart⟩
  case slotClear =>
    exact ⟨_, exec_of_running (f := fun t => t.zeroRegs (qstSlot cl n)) hrun rfl, fun _ ha => reg_zeroRegs_mem s ha,
      onlyRegs_zeroRegs s _⟩
  case wsel =>
    obtain ⟨hsel, hframe⟩ := wselWrite_spec s cl n v
    exact ⟨_, exec_of_running (f := fun t => (t.setReg (Reg.QST_WSELn cl n) (wselFields v)).zeroRegs (qstSlot cl n)) hrun rfl,
      hsel, fun _ ha => reg_zeroRegs_mem _ ha, hframe⟩
  case cntClr =>
    exact ⟨_, exec_of_running (f := fun t => clearSlots cl v (t.cntClr v (qstCounters cl)) (List.range 8)) hrun rfl,
      qstCntClr_spec s cl v⟩
  case goGated => rw [exec_of_running (f := doDrfTestGo cl) hrun rfl, doDrfTestGo_gated hg]
  case go =>
    obtain ⟨t, rfl, ht⟩ := doDrfTestGo_spec hg
    exact ⟨_, exec_of_running (f := doDrfTestGo cl) hrun rfl, ht⟩
  case doneIgnored => rw [exec_of_running (f := doDrfTestDone cl) hrun rfl, doDrfTestDone_ignored h]
  case done =>
    obtain ⟨t, rfl, ht⟩ := doDrfTestDone_spec hc hg
    exact ⟨_, exec_of_running (f := doDrfTestDone cl) hrun rfl, ht⟩
  case pairHeld =>
    obtain ⟨hint, -, hframe⟩ := raise_spec s (Reg.CRN_INT_STATUS e) 0 (by decide)
    refine ⟨_, ?_, hint, hframe⟩
    rw [exec_of_running (f := doCrnPairHighWrite e i pair v) hrun rfl, doCrnPairHighWrite_held hheld]
  case pairFree =>
    obtain ⟨t, rfl, ht⟩ := doCrnPairHighWrite_spec hfree pair v
    exact ⟨_, exec_of_running (f := doCrnPairHighWrite e i pair v) hrun rfl, ht⟩
  case restart =>
    refine ⟨_, exec_of_running (f := fun t => restartSlots e v t (List.range 4)) hrun rfl, ?_⟩
    obtain ⟨hreloaded, hrefused, -, hframe⟩ := crnRestarted_restartSlots List.nodup_range s e v
    refine ⟨fun i hi hbit hheld => hreloaded i (List.mem_range.2 hi) (by simp [State.crnRestarts, hbit, hheld]),
      fun i hi hno => ?kept, fun i hi => hrefused i (List.mem_range.2 hi), ?frame⟩
    case kept =>
      refine crnRun_congr fun a ha => hframe.1 a (crnRunRegs_not_mem ha fun hm => ?_)
      have hyes := (List.mem_filter.1 hm).2
      rcases hno with hno | hno <;> simp [State.crnRestarts, hno] at hyes
    case frame =>
      exact hframe.mono (List.cons_subset_cons _ (List.filter_sublist.flatMap _).subset)

end Sys2Proof.Proofs
end

section
/-!
PROOFS. The nomad cores (R139 to R142): where a core stands at an instruction, what retiring changes, and the integer
instructions.
-/

namespace Sys2Proof.Machine

variable {s : State} {n w : Nat} {k : NmdKind}

/-! A core at an instruction. -/

/-- An instruction of a kind stands at a core that holds an invocation and does not wait, in a word of 32 bits that can be
fetched. -/
theorem hartAt_eq_some_iff : s.hartAt n k = some (s.hart n, w) ↔
    (s.core n).inv.isSome = true ∧ (s.core n).wait = none ∧ (s.hart n).fetch = (w, 4, none) ∧ nmdKind w = k := by
  unfold State.hartAt State.hart
  dsimp only
  cases hinv : (s.core n).inv with
  | none => simp
  | some v =>
    cases hwait : (s.core n).wait with
    | some x => simp
    | none =>
      simp only [Option.isNone_some, Option.isSome_none, Bool.or_self, Bool.false_eq_true, if_false, Option.isSome_some,
        true_and]
      split
      · next w' hfetch =>
        rw [hfetch]
        by_cases hk : nmdKind w' = k
        · rw [if_pos hk]
          simp only [Option.some.injEq, Prod.mk.injEq, true_and, and_true]
          exact ⟨fun h => ⟨h, h ▸ hk⟩, fun h => h.1⟩
        · rw [if_neg hk]
          simp only [reduceCtorEq, Prod.mk.injEq, and_true, false_iff]
          exact fun h => hk (h.1 ▸ h.2)
      · next hfetch =>
        exact iff_of_false (by simp) fun h => hfetch w h.1

/-- An idle or waiting core stands at no instruction. -/
theorem hartAt_of_idle (h : (s.core n).inv = none ∨ (s.core n).wait.isSome = true) : s.hartAt n k = none :=
  if_pos (by simpa using h)

theorem onKind_of_idle (h : (s.core n).inv = none ∨ (s.core n).wait.isSome = true) (f : Hart → Nat → State) :
    s.onKind n k f = s := by
  rw [State.onKind, hartAt_of_idle h]

theorem doRv64_of_idle (h : (s.core n).inv = none ∨ (s.core n).wait.isSome = true) : doRv64 n s = s :=
  if_pos (by simpa using h)

/-- A command that would leave the part as it is does so whether the part is halted or not. -/
theorem exec_of_unchanged {c : Instr} {f : State → State} (hf : f s = s) (hc : exec c s = .next (s.live f)) :
    exec c s = .next s := by
  rw [hc, State.live, hf, ite_self]

theorem onKind_of_coreAt (h : s.coreAt n k w) (f : Hart → Nat → State) : s.onKind n k f = f (s.hart n) w := by
  obtain ⟨-, hdog, hat⟩ := h
  rw [State.onKind, hat]
  exact if_neg (by simp [hdog])

/-- What a command of an instruction does at its instruction. -/
theorem exec_of_coreAt {c : Instr} {f : Hart → Nat → State} (h : s.coreAt n k w)
    (hc : exec c s = .next (s.live (fun t => t.onKind n k f))) : exec c s = .next (f (s.hart n) w) := by
  rw [exec_of_running h.1 hc, onKind_of_coreAt h]

/-- At an instruction with no command of its own the core executes the word there. -/
theorem doRv64_of_coreAt (h : s.coreAt n .rv w) : doRv64 n s = ((s.hart n).scalar Hart.vector w 4).settle := by
  obtain ⟨-, hdog, hat⟩ := h
  obtain ⟨hinv, hwait, hfetch, hkind⟩ := hartAt_eq_some_iff.1 hat
  unfold State.hart at hfetch ⊢
  unfold doRv64
  rw [if_neg (by simp [hwait, Option.isSome_iff_ne_none.1 hinv]), if_neg (by simp [hdog])]
  simp only [hfetch, if_pos hkind]

/-- A compressed instruction does what the instruction it stands for does, two bytes long. -/
theorem doRv64_of_compressed {x : Nat} (hdog : s.watchdog n = false) (hinv : (s.core n).inv.isSome = true)
    (hwait : (s.core n).wait = none) (hfetch : (s.hart n).fetch = (w, 2, none)) (hx : expandC w = some x) :
    doRv64 n s = ((s.hart n).scalar Hart.vector x 2).settle := by
  unfold State.hart at hfetch ⊢
  unfold doRv64
  rw [if_neg (by simp [hwait, Option.isSome_iff_ne_none.1 hinv]), if_neg (by simp [hdog])]
  simp only [hfetch, hx]

/-! What retiring changes. -/

theorem core_setCore (s : State) (n k : Nat) (c : Core) : (s.setCore n c).core k = if k = n then c else s.core k :=
  AMap.read_write _ _ _ _ _

theorem onlyRegs_setPair_mem (s : State) {l : List Nat} {a : Nat} (h : a ∈ l) (h4 : a + 4 ∈ l) (v : Nat) :
    OnlyRegs l s (s.setPair a v) :=
  (onlyRegs_setReg_mem s h _).trans (onlyRegs_setReg_mem _ h4 _)

theorem pair_setPair_other (s : State) {a b : Nat} (v : Nat) (h : b + 4 < a ∨ a + 4 < b) :
    (s.setPair a v).pair b = s.pair b :=
  pair_congr (reg_setPair_other s v (by omega) (by omega)) (reg_setPair_other s v (by omega) (by omega))

/-- The registers of a retiring core: its pc, its count of instructions and its count of cycles, one after another. -/
def State.countRetired (s : State) (n pc cycles : Nat) : State :=
  ((s.setPair (Reg.NMD_PC_LO n) pc).bump64 (Reg.NMD_INSTRET_LO n) 1).bump64 (Reg.NMD_BUSY_LO n) cycles

theorem countRetired_spec (s : State) (n pc cycles : Nat) :
    (s.countRetired n pc cycles).pair (Reg.NMD_PC_LO n) = pc % 2 ^ 64 ∧
    (s.countRetired n pc cycles).pair (Reg.NMD_INSTRET_LO n) = (s.pair (Reg.NMD_INSTRET_LO n) + 1) % 2 ^ 64 ∧
    OnlyRegs (retireRegs n) s (s.countRetired n pc cycles) := by
  have hpair (t : State) {a : Nat} (ha : a ∈ [Reg.NMD_PC_LO n, Reg.NMD_INSTRET_LO n, Reg.NMD_BUSY_LO n]) (v : Nat) :
      OnlyRegs (retireRegs n) t (t.setPair a v) := by
    simp only [List.mem_cons, List.not_mem_nil, or_false] at ha
    refine onlyRegs_setPair_mem t ?_ ?_ v <;> rcases ha with rfl | rfl | rfl <;> simp [retireRegs]
  refine ⟨?pc, ?instret, ((hpair _ (by simp) _).trans (hpair _ (by simp) _)).trans (hpair _ (by simp) _)⟩
  case pc =>
    rw [State.countRetired, State.bump64, pair_setPair_other _ _ (by simp only [Reg.NMD_PC_LO, Reg.NMD_BUSY_LO]; omega),
      State.bump64, pair_setPair_other _ _ (by simp only [Reg.NMD_PC_LO, Reg.NMD_INSTRET_LO]; omega), pair_setPair_same]
  case instret =>
    rw [State.countRetired, State.bump64,
      pair_setPair_other _ _ (by simp only [Reg.NMD_INSTRET_LO, Reg.NMD_BUSY_LO]; omega), pair_bump64_same,
      pair_setPair_other _ _ (by simp only [Reg.NMD_PC_LO, Reg.NMD_INSTRET_LO]; omega)]

/-- The core that an instruction leaves with its cycles counted. -/
def Core.retired (c : Core) (pc : Dword) (cycles : Nat) : Core := { c with
  pc := pc
  wait := none
  inv := c.inv.map (fun v => { v with
    instret := v.instret + 1
    cycles := (v.cycles + cycles) % 2 ^ 64 }) }

theorem retireTo_eq (s : State) (n : Nat) (pc : Dword) (c : Core) :
    s.retireTo n pc c = ((s.free.2.setCore n (c.retired pc s.free.1.toNat)).countRetired n c.pc.toNat s.free.1.toNat) := by
  unfold State.retireTo State.countRetired Core.retired
  rfl

theorem core_of_cores {t : State} (h : t.cores = s.cores) (k : Nat) : t.core k = s.core k := by
  rw [State.core, h, State.core]

theorem core_retireTo (s : State) (n : Nat) (pc : Dword) (c : Core) (k : Nat) :
    (s.retireTo n pc c).core k = if k = n then c.retired pc s.free.1.toNat else s.core k := by
  have hcores : (s.retireTo n pc c).cores = (s.setCore n (c.retired pc s.free.1.toNat)).cores := by
    rw [retireTo_eq]
    simp only [State.countRetired, State.bump64, State.setPair_cores, State.setCore, State.free]
  rw [core_of_cores hcores, core_setCore]

/-- Retiring advances the core and counts; nothing of the rest of the part differs. -/
theorem retireTo_spec (s : State) (n : Nat) (pc : Dword) (c : Core) :
    RetiredAt s (s.retireTo n pc c) n pc c [] ∧ (s.retireTo n pc c).objs = s.objs := by
  obtain ⟨hpc, hinstret, hregs, hframe⟩ :=
    countRetired_spec (s.free.2.setCore n (c.retired pc s.free.1.toNat)) n c.pc.toNat s.free.1.toNat
  rw [← retireTo_eq] at hpc hinstret hregs hframe
  refine ⟨⟨⟨?cycles, ?core⟩, hpc.trans (Nat.mod_eq_of_lt c.pc.isLt), hinstret, fun k hk => ?others, ?regs, ?frame⟩,
    ?objs⟩
  case cycles => exact ((c.inv.getD {}).cycles + s.free.1.toNat) % 2 ^ 64
  case core =>
    rw [core_retireTo, if_pos rfl, Core.retired]
    cases c.inv <;> rfl
  case others => rw [core_retireTo, if_neg hk]
  case regs => rwa [List.append_nil]
  case frame =>
    rw [hframe]
    simp only [State.setCore, State.free]
  case objs => rw [hframe]; rfl

/-! Words of instructions (log 28). -/

section Fields

variable {op f3 f7 rd rs1 rs2 : Nat}

theorem encR_fields (hop : op < 128) (hf3 : f3 < 8) (hf7 : f7 < 128) (hrd : rd < 32) (hrs1 : rs1 < 32) (hrs2 : rs2 < 32) :
    encR op f3 f7 rd rs1 rs2 % 128 = op ∧ bitsAt (encR op f3 f7 rd rs1 rs2) 7 5 = rd ∧
    bitsAt (encR op f3 f7 rd rs1 rs2) 12 3 = f3 ∧ bitsAt (encR op f3 f7 rd rs1 rs2) 15 5 = rs1 ∧
    bitsAt (encR op f3 f7 rd rs1 rs2) 20 5 = rs2 ∧ bitsAt (encR op f3 f7 rd rs1 rs2) 25 7 = f7 ∧
    bitsAt (encR op f3 f7 rd rs1 rs2) 20 12 = rs2 + 32 * f7 := by
  simp only [bitsAt, encR, Nat.shiftRight_eq_div_pow]
  omega

/-- The immediate of the I form lies where the R form has funct7 and its second source. -/
theorem encI_eq_encR (op f3 rd rs1 imm : Nat) : encI op f3 rd rs1 imm = encR op f3 (imm % 4096 / 32) rd rs1 (imm % 32) := by
  simp only [encI, encR]
  omega

/-- The parts into which the B form divides funct7 and the destination. -/
theorem encR_parts (hop : op < 128) (hf3 : f3 < 8) (hf7 : f7 < 128) (hrd : rd < 32) (hrs1 : rs1 < 32) (hrs2 : rs2 < 32) :
    bitsAt (encR op f3 f7 rd rs1 rs2) 31 1 = f7 / 64 ∧ bitsAt (encR op f3 f7 rd rs1 rs2) 7 1 = rd % 2 ∧
    bitsAt (encR op f3 f7 rd rs1 rs2) 25 6 = f7 % 64 ∧ bitsAt (encR op f3 f7 rd rs1 rs2) 8 4 = rd / 2 := by
  simp only [bitsAt, encR, Nat.shiftRight_eq_div_pow]
  omega

/-- A branch's word gives its even offset back, bit by bit where the B form scatters it. -/
theorem encB_offset {ofs : Nat} (hofs : ofs < 2 ^ 13) (heven : ofs % 2 = 0) (hf3 : f3 < 8) (hrs1 : rs1 < 32)
    (hrs2 : rs2 < 32) :
    bitsAt (encB f3 rs1 rs2 ofs) 31 1 * 2 ^ 12 + bitsAt (encB f3 rs1 rs2 ofs) 7 1 * 2 ^ 11 +
      bitsAt (encB f3 rs1 rs2 ofs) 25 6 * 32 + bitsAt (encB f3 rs1 rs2 ofs) 8 4 * 2 = ofs := by
  have hparts : bitsAt ofs 12 1 * 2 ^ 12 + bitsAt ofs 11 1 * 2 ^ 11 + bitsAt ofs 5 6 * 32 + bitsAt ofs 1 4 * 2 = ofs := by
    simp only [bitsAt, Nat.shiftRight_eq_div_pow]
    omega
  have hsign := bitsAt_lt ofs 12 1
  have htop := bitsAt_lt ofs 11 1
  have hhigh := bitsAt_lt ofs 5 6
  have hlow := bitsAt_lt ofs 1 4
  unfold encB
  generalize bitsAt ofs 12 1 = b12, bitsAt ofs 11 1 = b11, bitsAt ofs 5 6 = b5, bitsAt ofs 1 4 = b1 at *
  obtain ⟨h31, h7, h25, h8⟩ := encR_parts (op := 0x63) (f7 := b12 * 64 + b5) (rd := b1 * 2 + b11) (by omega) hf3
    (by omega) (by omega) hrs1 hrs2
  rw [h31, h7, h25, h8, ← hparts]
  clear h31 h7 h25 h8 hparts
  omega

end Fields

/-! Sign extension. -/

theorem ofNat_wrapInt (v : Int) : BitVec.ofNat 64 (wrapInt 64 v) = BitVec.ofInt 64 v := by
  apply BitVec.eq_of_toNat_eq
  rw [BitVec.toNat_ofNat, BitVec.toNat_ofInt, wrapInt]
  omega

theorem signed_toNat {m : Nat} (x : BitVec m) : signed m x.toNat = x.toInt := by
  have hmsb : bitAt x.toNat (m - 1) = x.msb := by
    rw [bitAt_eq_testBit, BitVec.msb_eq_getLsbD_last, BitVec.getLsbD]
  rw [signed, hmsb, BitVec.toInt_eq_msb_cond, Nat.mod_eq_of_lt x.isLt]

theorem ofNat_sx {m : Nat} (x : BitVec m) : BitVec.ofNat 64 (sx m x.toNat) = x.signExtend 64 := by
  rw [sx, ofNat_wrapInt, signed_toNat]
  rfl

theorem ofNat_mod64 (v : Nat) : BitVec.ofNat 64 (mod64 v) = BitVec.ofNat 64 v := by
  apply BitVec.eq_of_toNat_eq
  simp [mod64]

/-! The instructions of `Obligations.NomadIntegerInstructions`. -/

variable (h : Hart) (vec : Hart → Nat → Rv) (len : Nat)

theorem scalar_op (hw : w % 128 = 0x33) : h.scalar vec w len =
    h.wrOpt w (bitsAt w 7 5) (opRR (bitsAt w 25 7) (bitsAt w 12 3) (h.x (bitsAt w 15 5)) (h.x (bitsAt w 20 5))) len := by
  simp only [Hart.scalar, hw]

theorem scalar_opImm (hw : w % 128 = 0x13) : h.scalar vec w len =
    h.wrOpt w (bitsAt w 7 5) (opRI (bitsAt w 12 3) (bitsAt w 20 12) (h.x (bitsAt w 15 5))) len := by
  simp only [Hart.scalar, hw]

theorem scalar_load (hw : w % 128 = 0x03) : h.scalar vec w len =
    h.iLoad w (bitsAt w 12 3) (bitsAt w 7 5) (mod64 (h.x (bitsAt w 15 5) + sx 12 (bitsAt w 20 12))) len := by
  simp only [Hart.scalar, hw]

theorem scalar_store (hw : w % 128 = 0x23) (hf3 : bitsAt w 12 3 ≤ 3) : h.scalar vec w len =
    h.memWrite (mod64 (h.x (bitsAt w 15 5) + sx 12 (bitsAt w 25 7 * 32 + bitsAt w 7 5))) (2 ^ bitsAt w 12 3)
      (h.x (bitsAt w 20 5)) len := by
  simp only [Hart.scalar, hw, if_neg (Nat.not_lt.2 hf3)]

theorem scalar_beq (hw : w % 128 = 0x63) (hf3 : bitsAt w 12 3 = 0) : h.scalar vec w len =
    .next h (if h.x (bitsAt w 15 5) == h.x (bitsAt w 20 5) then BitVec.ofNat 64 (h.c.pc.toNat +
      sx 13 (bitsAt w 31 1 * 2 ^ 12 + bitsAt w 7 1 * 2 ^ 11 + bitsAt w 25 6 * 32 + bitsAt w 8 4 * 2))
    else h.pcPlus len) := by
  simp only [Hart.scalar, hw, hf3, branchTaken]

/-- The effective address of a load or store with displacement 0. -/
theorem mod64_add_sx_zero (a : Dword) : mod64 (a.toNat + sx 12 0) = a.toNat := Nat.mod_eq_of_lt a.isLt

/-- What a register is given as a number it holds modulo 2^64. -/
theorem wr_eq (h : Hart) (rd v len : Nat) :
    h.wr rd v len = .next { h with c := h.c.setX rd (BitVec.ofNat 64 v) } (h.pcPlus len) := by
  rw [Hart.wr, Hart.setX, ofNat_mod64]

@[simp] theorem pc_setX (c : Core) (i : Nat) (v : Dword) : (c.setX i v).pc = c.pc := by
  unfold Core.setX; split <;> rfl

@[simp] theorem pc_setBytes (c : Core) (a : Nat) (l : List Byte) : (c.setBytes a l).pc = c.pc := by
  induction l generalizing c a with
  | nil => rfl
  | cons b t ih => rw [Core.setBytes, ih]

/-- The operations of 64 bits of the statement, by funct7 and funct3. -/
def intOps : List (Nat × Nat × (Dword → Dword → Dword)) :=
  [(0, 0, fun a b => a + b), (0x20, 0, fun a b => a - b), (0, 4, fun a b => a ^^^ b),
    (0, 6, fun a b => a ||| b), (0, 7, fun a b => a &&& b), (1, 0, fun a b => a * b)]

/-- They are the operations on numbers modulo 2^64. -/
theorem opRR_intOps {f7 f3 : Nat} {op : Dword → Dword → Dword} (hop : (f7, f3, op) ∈ intOps) (a b : Dword) :
    ∃ v, opRR f7 f3 a.toNat b.toNat = some v ∧ BitVec.ofNat 64 v = op a b := by
  simp only [intOps, List.mem_cons, Prod.mk.injEq, List.not_mem_nil, or_false] at hop
  rcases hop with ⟨rfl, rfl, rfl⟩ | ⟨rfl, rfl, rfl⟩ | ⟨rfl, rfl, rfl⟩ | ⟨rfl, rfl, rfl⟩ |
    ⟨rfl, rfl, rfl⟩ | ⟨rfl, rfl, rfl⟩
  all_goals refine ⟨_, rfl, BitVec.eq_of_toNat_eq ?_⟩
  · simp
  · simp only [BitVec.toNat_ofNat, BitVec.toNat_sub]
    omega
  · rw [BitVec.toNat_ofNat, Nat.mod_eq_of_lt (Nat.xor_lt_two_pow a.isLt b.isLt), BitVec.toNat_xor]
  · rw [BitVec.toNat_ofNat, Nat.mod_eq_of_lt (Nat.or_lt_two_pow a.isLt b.isLt), BitVec.toNat_or]
  · rw [BitVec.toNat_ofNat, Nat.mod_eq_of_lt (Nat.and_lt_two_pow _ b.isLt), BitVec.toNat_and]
  · simp

theorem intOps_fields {f7 f3 : Nat} {op : Dword → Dword → Dword} (hop : (f7, f3, op) ∈ intOps) :
    f7 < 128 ∧ f3 < 8 := by
  simp only [intOps, List.mem_cons, Prod.mk.injEq, List.not_mem_nil, or_false] at hop
  omega

/-- A local address outside text of eight aligned bytes. -/
def Hart.LocalDword (h : Hart) (a : Nat) : Prop := a % 8 = 0 ∧ a + 8 ≤ 0x10000 ∧ h.inv.textLen ≤ a

theorem load_local {h : Hart} {a : Nat} (ha : h.LocalDword a) (hgood : localGran h.n a ∉ h.s.cond.locals) :
    h.load a 8 8 = .ok (h.c.bytes a 8) h := by
  obtain ⟨hal, hin, htext⟩ := ha
  have hspot : h.spot a 8 = .local_ := if_pos hin
  rw [Hart.load, if_neg (by simpa using hal), hspot]
  simp only [if_neg (Nat.not_lt.2 htext), List.contains_eq_mem, decide_eq_true_eq, if_neg hgood]

theorem store_local {h : Hart} {a : Nat} (ha : h.LocalDword a) (v : Nat) :
    h.store a 8 (leBytes 8 v) = .ok [] { h with c := h.c.setBytes a (leBytes 8 v) } := by
  obtain ⟨hal, hin, htext⟩ := ha
  have hspot : h.spot a (leBytes 8 v).length = .local_ := if_pos (by rwa [length_leBytes])
  rw [Hart.store, if_neg (by simpa using hal), hspot]
  simp only [if_neg (Nat.not_lt.2 htext)]

/-! The words of the statement, executed. -/

section Words

variable (h : Hart) (vec : Hart → Nat → Rv)

theorem scalar_intOp {f7 f3 : Nat} {op : Dword → Dword → Dword} (hop : (f7, f3, op) ∈ intOps)
    (rd rs1 rs2 : Fin 32) : h.scalar vec (encR 0x33 f3 f7 rd rs1 rs2) 4 =
      .next { h with c := h.c.setX rd (op (h.c.xr rs1) (h.c.xr rs2)) } (h.pcPlus 4) := by
  obtain ⟨hf7, hf3⟩ := intOps_fields hop
  obtain ⟨hopc, hrd, hfun3, hrs1, hrs2, hfun7, -⟩ := encR_fields (op := 0x33) (by omega) hf3 hf7 rd.isLt
    rs1.isLt rs2.isLt
  obtain ⟨v, hv, hval⟩ := opRR_intOps hop (h.c.xr rs1) (h.c.xr rs2)
  rw [scalar_op h vec 4 hopc, hrd, hfun3, hrs1, hrs2, hfun7, Hart.x, Hart.x, hv, Hart.wrOpt, wr_eq, hval]

theorem scalar_addi (rd rs1 : Fin 32) (imm : BitVec 12) : h.scalar vec (encI 0x13 0 rd rs1 imm.toNat) 4 =
    .next { h with c := h.c.setX rd (h.c.xr rs1 + imm.signExtend 64) } (h.pcPlus 4) := by
  obtain ⟨hopc, hrd, hfun3, hrs1, -, -, himm⟩ := encR_fields (op := 0x13) (f3 := 0) (f7 := imm.toNat % 4096 / 32)
    (rs2 := imm.toNat % 32) (by omega) (by omega) (by omega) rd.isLt rs1.isLt (by omega)
  rw [encI_eq_encR, scalar_opImm h vec 4 hopc, hrd, hfun3, hrs1, himm,
    show imm.toNat % 32 + 32 * (imm.toNat % 4096 / 32) = imm.toNat by omega]
  rw [opRI, Hart.wrOpt, wr_eq, BitVec.ofNat_add, ofNat_sx, Hart.x, BitVec.ofNat_toNat, BitVec.setWidth_eq]

theorem scalar_beq_word (rs1 rs2 : Fin 32) {ofs : BitVec 13} (heven : ofs.toNat % 2 = 0) :
    h.scalar vec (encB 0 rs1 rs2 ofs.toNat) 4 =
      .next h (if h.c.xr rs1 = h.c.xr rs2 then h.c.pc + ofs.signExtend 64 else h.c.pc + 4) := by
  have hf7 : bitsAt ofs.toNat 12 1 * 64 + bitsAt ofs.toNat 5 6 < 128 := by
    have hsign := bitsAt_lt ofs.toNat 12 1
    have hhigh := bitsAt_lt ofs.toNat 5 6
    omega
  have hrd : bitsAt ofs.toNat 1 4 * 2 + bitsAt ofs.toNat 11 1 < 32 := by
    have htop := bitsAt_lt ofs.toNat 11 1
    have hlow := bitsAt_lt ofs.toNat 1 4
    omega
  obtain ⟨hopc, -, hfun3, hrs1, hrs2, -, -⟩ :=
    encR_fields (op := 0x63) (f3 := 0) (by omega) (by omega) hf7 hrd rs1.isLt rs2.isLt
  rw [← encB] at hopc hfun3 hrs1 hrs2
  rw [scalar_beq h vec 4 hopc hfun3, hrs1, hrs2, encB_offset ofs.isLt heven (by omega) rs1.isLt rs2.isLt, BitVec.ofNat_add,
    ofNat_sx, BitVec.ofNat_toNat, BitVec.setWidth_eq]
  simp only [Hart.x, Hart.pcPlus, beq_iff_eq, BitVec.toNat_inj]
  rfl

theorem scalar_ld (rd rs1 : Fin 32) (ha : h.LocalDword (h.c.xr rs1).toNat)
    (hgood : localGran h.n (h.c.xr rs1).toNat ∉ h.s.cond.locals) : h.scalar vec (encI 0x03 3 rd rs1 0) 4 =
    .next { h with c := h.c.setX rd (BitVec.ofNat 64 (leVal (h.c.bytes (h.c.xr rs1).toNat 8))) } (h.pcPlus 4) := by
  obtain ⟨hopc, hrd, hfun3, hrs1, -, -, himm⟩ := encR_fields (op := 0x03) (f3 := 3) (f7 := 0) (rs2 := 0)
    (by omega) (by omega) (by omega) rd.isLt rs1.isLt (by omega)
  have haddr : mod64 (h.x rs1 + sx 12 (0 + 32 * 0)) = (h.c.xr rs1).toNat := mod64_add_sx_zero _
  rw [encI_eq_encR, scalar_load h vec 4 hopc, hrd, hfun3, hrs1, himm, haddr, Hart.iLoad]
  simp only [load_local ha hgood, wr_eq, id]

theorem scalar_sd (rs1 rs2 : Fin 32) (ha : h.LocalDword (h.c.xr rs1).toNat) : h.scalar vec (encS 0x23 3 rs1 rs2 0) 4 =
    .next { h with c := h.c.setBytes (h.c.xr rs1).toNat (leBytes 8 (h.c.xr rs2).toNat) } (h.pcPlus 4) := by
  obtain ⟨hopc, hrd, hfun3, hrs1, hrs2, hfun7, -⟩ := encR_fields (op := 0x23) (f3 := 3) (f7 := 0) (rd := 0)
    (by omega) (by omega) (by omega) (by omega) rs1.isLt rs2.isLt
  have haddr : mod64 (h.x rs1 + sx 12 (0 * 32 + 0)) = (h.c.xr rs1).toNat := mod64_add_sx_zero _
  rw [encS, scalar_store h vec 4 hopc (by rw [hfun3]), hrd, hfun3, hrs1, hrs2, hfun7, haddr, Hart.memWrite]
  simp only [Hart.x, Nat.reducePow, store_local ha, Hart.pcPlus, pc_setBytes]

end Words

/-- An instruction that goes on with a changed core retires, and the cluster's barriers and queues stay. -/
theorem retiredAt_of_next (h : s.coreAt n .rv w) {c : Core} {pc : Dword}
    (hnext : (s.hart n).scalar Hart.vector w 4 = .next { s.hart n with c := c } pc) :
    ∃ t, doRv64 n s = t ∧ RetiredAt s t n pc c [] ∧ t.objs = s.objs :=
  ⟨_, (doRv64_of_coreAt h).trans (by rw [hnext]; rfl), retireTo_spec s n pc c⟩

/-- One that goes on at the next instruction. -/
theorem retired_of_next (h : s.coreAt n .rv w) {c : Core} (hpc : c.pc = (s.core n).pc)
    (hnext : (s.hart n).scalar Hart.vector w 4 = .next { s.hart n with c := c } ((s.hart n).pcPlus 4)) :
    ∃ t, doRv64 n s = t ∧ Retired s t n c ∧ t.objs = s.objs := by
  unfold Retired
  rw [hpc]
  exact retiredAt_of_next h hnext

end Sys2Proof.Machine

namespace Sys2Proof.Proofs

open Sys2Proof Sys2Proof.Machine

/-- Settles O26: a word's fields select its operation, whose result retires; a compressed word is executed as the one it
stands for, and an idle core executes none. -/
theorem nomadIntegerInstructions : Obligations.NomadIntegerInstructions := by
  intro s n w
  refine ⟨fun hat => ?_, ?compressed, ?idle⟩
  case compressed =>
    intro x hrun hdog hinv hwait hfetch hx
    rw [exec_of_running (f := doRv64 n) hrun rfl, doRv64_of_compressed hdog hinv hwait hfetch hx]
  case idle =>
    intro c hc hidle
    simp only [List.mem_cons, List.not_mem_nil, or_false] at hc
    rcases hc with rfl | rfl | rfl | rfl | rfl | rfl | rfl | rfl | rfl | rfl | rfl | rfl
    · exact exec_of_unchanged (doRv64_of_idle hidle) rfl
    all_goals exact exec_of_unchanged (onKind_of_idle hidle _) rfl
  have hexec : exec (.nmdRv64Instruction n) s = .next (doRv64 n s) := exec_of_running hat.1 rfl
  rw [hexec]
  simp only [Host.Outcome.next.injEq]
  refine ⟨fun x pc hnext => ?next, fun f7 f3 rd rs1 rs2 op hw hop => ?op, fun rd rs1 imm hw => ?addi,
    fun rs1 rs2 ofs heven hw => ?beq, fun rd rs1 a hw ha hal hin htext hgood => ?ld,
    fun rs1 rs2 a hw ha hal hin htext => ?sd⟩
  case next => rw [doRv64_of_coreAt hat, hnext, Rv.settle]
  case op =>
    subst hw
    exact retired_of_next hat (pc_setX _ _ _) (scalar_intOp (s.hart n) _ hop rd rs1 rs2)
  case addi =>
    subst hw
    exact retired_of_next hat (pc_setX _ _ _) (scalar_addi (s.hart n) _ rd rs1 imm)
  case beq =>
    subst hw
    exact retiredAt_of_next hat (scalar_beq_word (s.hart n) _ rs1 rs2 heven)
  case ld =>
    subst hw ha
    exact retired_of_next hat (pc_setX _ _ _) (scalar_ld (s.hart n) _ rd rs1 ⟨hal, hin, htext⟩ hgood)
  case sd =>
    subst hw ha
    exact retired_of_next hat (pc_setBytes _ _ _) (scalar_sd (s.hart n) _ rs1 rs2 ⟨hal, hin, htext⟩)

end Sys2Proof.Proofs
end

section
/-!
PROOFS. Draws, marks and reductions of a nomad core (R145, R147, R148).
-/

namespace Sys2Proof.Machine

variable {s : State} {n w : Nat}

/-! Retiring beside other changes. -/

/-- Other registers may be written once an instruction has retired. -/
theorem RetiredAt.with_regs {t u : State} {pc : Dword} {c : Core} {l : List Nat} (h : RetiredAt s u n pc c [])
    (ht : OnlyRegs l u t) (hl : ∀ a ∈ retireRegs n, a ∉ l) : RetiredAt s t n pc c l := by
  obtain ⟨hcore, hpc, hinstret, hothers, hregs, hframe⟩ := h
  obtain ⟨hkeep, heq⟩ := ht
  have hcores : t.cores = u.cores := by rw [heq]
  have hkept {a : Nat} (ha : a ∈ retireRegs n) : t.reg a = u.reg a := hkeep a (hl a ha)
  refine ⟨?core, (pair_congr (hkept ?_) (hkept ?_)).trans hpc, (pair_congr (hkept ?_) (hkept ?_)).trans hinstret,
    fun k hk => (core_of_cores hcores k).trans (hothers k hk), fun a ha => ?regs, by rw [heq, hframe]⟩
  case core => rwa [core_of_cores hcores]
  case regs =>
    rw [List.mem_append, not_or] at ha
    rw [hkeep a ha.2, hregs a (by simpa using ha.1)]
  all_goals simp [retireRegs]

/-- A free value may be drawn before an instruction retires. -/
theorem RetiredAt.of_free {t : State} {pc : Dword} {c : Core} {l : List Nat} (h : RetiredAt s.free.2 t n pc c l) :
    RetiredAt s t n pc c l := h

/-! Draws. -/

/-- The number of evaluations counts, and with it the cycles waited, which are free (Table 06-7). -/
theorem countEvals_spec (s : State) (cl : Nat) :
    (s.countEvals cl 1).pair (Reg.DRF_EVAL_LO cl) = (s.pair (Reg.DRF_EVAL_LO cl) + 1) % 2 ^ 64 ∧
    OnlyRegs [Reg.DRF_EVAL_LO cl, Reg.DRF_EVAL_LO cl + 4, Reg.DRF_STALL cl] s.free.2 (s.countEvals cl 1) := by
  have heq : s.countEvals cl 1 =
      (s.free.2.bump64 (Reg.DRF_EVAL_LO cl) 1).bump (Reg.DRF_STALL cl) (s.free.1.toNat % 2 ^ 32) := rfl
  rw [heq]
  refine ⟨?_, (onlyRegs_setPair_mem _ (by simp) (by simp) _).trans (onlyRegs_setReg_mem _ (by simp) _)⟩
  have hapart : Reg.DRF_EVAL_LO cl + 4 < Reg.DRF_STALL cl := by
    simp only [Reg.DRF_EVAL_LO, Reg.DRF_STALL]
    omega
  rw [pair_congr (reg_bump_other _ _ (by omega)) (reg_bump_other _ _ (by omega)), pair_bump64_same]
  rfl

/-- Key and counter of a draw of an invocation at an element index (R147). -/
def Invocation.drawKey (v : Invocation) (e : Nat) : List Word :=
  (driftKey v.seed v.drift).words ++ (driftCtr e v.tensor v.drawPos).words

/-- The words of the drift evaluation that such a draw makes. -/
def Invocation.drawWords (v : Invocation) (e : Nat) : List Word :=
  ((⟨v.seed, v.drift, v.tensor, v.drawPos⟩ : DrawCtx).eval e).words

/-- An instruction that writes an integer register and goes on retires with it. -/
theorem finish_spec (h : Hart) (rd : Nat) (v : Dword) :
    Retired h.s (h.finish rd v) h.n (h.c.setX rd v) ∧ (h.finish rd v).objs = h.s.objs := by
  unfold Retired
  rw [pc_setX]
  exact retireTo_spec h.s h.n (h.c.pc + 4) (h.c.setX rd v)

theorem doDraw_reused {h : Hart} {v : Invocation} (hv : h.inv = v) (hkey : h.c.lastKey = v.drawKey (h.x (rs1Of w))) :
    doDraw h w = h.finish (rdOf w) (((h.c.lastOut[h.x (rs2Of w) % 4]?).getD 0).setWidth 64) := by
  unfold Invocation.drawKey at hkey
  unfold doDraw
  simp only [hv, ← hkey, beq_self_eq_true, if_true]
  rfl

/-- A register write and the words of the last evaluation do not meet. -/
theorem setX_with_last (c : Core) (i : Nat) (v : Dword) (key out : List Word) :
    ({ c with lastKey := key, lastOut := out } : Core).setX i v = { c.setX i v with lastKey := key, lastOut := out } := by
  unfold Core.setX; split <;> rfl

@[simp] theorem inv_setX (c : Core) (i : Nat) (v : Dword) : (c.setX i v).inv = c.inv := by
  unfold Core.setX; split <;> rfl

theorem doDraw_evaluates {h : Hart} {v : Invocation} (hv : h.inv = v)
    (hkey : h.c.lastKey ≠ v.drawKey (h.x (rs1Of w))) :
    doDraw h w = (h.s.countEvals h.cl 1).retireTo h.n (h.c.pc + 4)
      { h.c.setX (rdOf w) ((((v.drawWords (h.x (rs1Of w)))[h.x (rs2Of w) % 4]?).getD 0).setWidth 64) with
        lastKey := v.drawKey (h.x (rs1Of w))
        lastOut := v.drawWords (h.x (rs1Of w)) } := by
  have hnew : (h.c.lastKey == v.drawKey (h.x (rs1Of w))) = false := beq_false_of_ne hkey
  rw [← setX_with_last]
  unfold Invocation.drawKey at hnew ⊢
  unfold doDraw Invocation.drawWords
  simp only [hv, hnew, Bool.false_eq_true, if_false]

/-- A fresh draw counts one evaluation and retires with its word (R147). -/
theorem retires_with_evaluation (s : State) (n : Nat) (c : Core) (pc : Dword) {v : Invocation} (hinv : c.inv = some v) :
    ∃ t k, (s.countEvals (n / 4) 1).retireTo n pc c = t ∧
      t.core n = { c with
        pc := pc
        wait := none
        inv := some { v with
          instret := v.instret + 1
          cycles := k } } ∧
      t.pair (Reg.DRF_EVAL_LO (n / 4)) = (s.pair (Reg.DRF_EVAL_LO (n / 4)) + 1) % 2 ^ 64 ∧
      (∀ j, j ≠ n → t.core j = s.core j) ∧ t.mem = s.mem ∧ t.streams = s.streams ∧
      SameRegs (retireRegs n ++ [Reg.DRF_EVAL_LO (n / 4), Reg.DRF_EVAL_LO (n / 4) + 4, Reg.DRF_STALL (n / 4)]) s t := by
  obtain ⟨heval, hkeep, heq⟩ := countEvals_spec s (n / 4)
  obtain ⟨⟨⟨k, hcore⟩, -, -, hothers, hregs, hframe⟩, -⟩ := retireTo_spec (s.countEvals (n / 4) 1) n pc c
  have hcores : (s.countEvals (n / 4) 1).cores = s.cores := by rw [heq]; rfl
  have hmem : (s.countEvals (n / 4) 1).mem = s.mem := by rw [heq]; rfl
  have hstreams : (s.countEvals (n / 4) 1).streams = s.streams := by rw [heq]; rfl
  refine ⟨_, k, rfl, ?core, ?eval, fun j hj => (hothers j hj).trans (core_of_cores hcores j), ?mem, ?streams,
    fun a ha => ?regs⟩
  case core => rw [hcore, hinv]; rfl
  case eval =>
    rw [← heval]
    refine pair_congr (hregs _ ?_) (hregs _ ?_)
    all_goals
      simp only [retireRegs, List.append_nil, List.mem_cons, List.not_mem_nil, or_false, Reg.DRF_EVAL_LO,
        Reg.NMD_PC_LO, Reg.NMD_BUSY_LO, Reg.NMD_INSTRET_LO, nmdBase]
      omega
  case mem => rw [hframe, hmem]
  case streams => rw [hframe, hstreams]
  case regs =>
    rw [List.mem_append, not_or] at ha
    rw [hregs a (by simpa using ha.1), hkeep a ha.2]
    rfl

/-! Marks and reductions. -/

theorem OnlyRegs.objs {l : List Nat} {t : State} (h : OnlyRegs l s t) : t.objs = s.objs := by rw [h.2]

theorem doMark_eq (h : Hart) (w : Nat) : doMark h w =
    ((h.s.retireTo h.n (h.c.pc + 4) h.c).setN (Reg.NMD_MARK h.n) (h.x (rs1Of w))).setPair (Reg.NMD_MARK_TB_LO h.n)
      (h.s.retireTo h.n (h.c.pc + 4) h.c).tb.toNat := rfl

theorem tb_retireTo (s : State) (n : Nat) (pc : Dword) (c : Core) : (s.retireTo n pc c).tb = s.tb := by
  obtain ⟨⟨-, -, -, -, -, hframe⟩, -⟩ := retireTo_spec s n pc c
  rw [hframe]

theorem doMark_spec (h : Hart) (w : Nat) :
    (doMark h w).reg (Reg.NMD_MARK h.n) = (h.c.xr (rs1Of w)).setWidth 32 ∧
    (doMark h w).pair (Reg.NMD_MARK_TB_LO h.n) = h.s.tb.toNat ∧
    RetiredAt h.s (doMark h w) h.n (h.c.pc + 4) h.c
      [Reg.NMD_MARK h.n, Reg.NMD_MARK_TB_LO h.n, Reg.NMD_MARK_TB_LO h.n + 4] ∧
    (doMark h w).objs = h.s.objs := by
  obtain ⟨hretired, hobjs⟩ := retireTo_spec h.s h.n (h.c.pc + 4) h.c
  have hmark : OnlyRegs [Reg.NMD_MARK h.n, Reg.NMD_MARK_TB_LO h.n, Reg.NMD_MARK_TB_LO h.n + 4]
      (h.s.retireTo h.n (h.c.pc + 4) h.c) (doMark h w) :=
    (onlyRegs_setReg_mem _ (by simp) _).trans (onlyRegs_setPair_mem _ (by simp) (by simp) _)
  refine ⟨?mark, ?timebase, hretired.with_regs hmark ?apart, hmark.objs.trans hobjs⟩
  case mark =>
    have hapart : Reg.NMD_MARK h.n < Reg.NMD_MARK_TB_LO h.n := by
      simp only [Reg.NMD_MARK, Reg.NMD_MARK_TB_LO]
      omega
    rw [doMark_eq, reg_setPair_other _ _ (by omega) (by omega), reg_setN, if_pos rfl]
    exact BitVec.ofNat_toNat _ _
  case timebase => rw [doMark_eq, pair_setPair_same, tb_retireTo, Nat.mod_eq_of_lt h.s.tb.isLt]
  case apart =>
    simp only [retireRegs, List.mem_cons, List.not_mem_nil, or_false, Reg.NMD_PC_LO, Reg.NMD_BUSY_LO, Reg.NMD_INSTRET_LO,
      Reg.NMD_MARK, Reg.NMD_MARK_TB_LO]
    omega

/-- A new accumulator retires its instruction. -/
theorem reduced_spec (h : Hart) (r : RedAcc) :
    Retired h.s (h.reduced (some r)) h.n { h.c with red := r } ∧ (h.reduced (some r)).objs = h.s.objs :=
  retireTo_spec h.s h.n (h.c.pc + 4) { h.c with red := r }

theorem doRbegin_spec {h : Hart} (hlast : h.c.red.lastFed = false) : ∃ t op, doRbegin h w = t ∧
    Retired h.s t h.n { h.c with red := { op := op } } ∧ t.objs = h.s.objs ∧ op ≤ 4 ∧
    (h.x (rs1Of w) % 8 ≤ 4 → op = h.x (rs1Of w) % 8) := by
  unfold doRbegin
  dsimp only
  rw [if_neg (by simp [hlast])]
  split
  · next hop =>
    obtain ⟨hretired, hobjs⟩ := reduced_spec h { op := h.x (rs1Of w) % 8 }
    exact ⟨_, _, rfl, hretired, hobjs, hop, fun _ => rfl⟩
  · next hop =>
    obtain ⟨hretired, hobjs⟩ := reduced_spec { h with s := h.s.free.2 } { op := h.s.free.1.toNat % 5 }
    exact ⟨_, _, rfl, hretired.of_free, hobjs, by omega, fun h => absurd h hop⟩

theorem rfeed_out_of_order {r : RedAcc} {i : Nat} (hstarted : r.started = true) (hi : i ≠ r.nextElem) (m : RMode)
    (xs ys : List Word) : r.rfeed m i xs ys = none := by
  unfold RedAcc.rfeed
  split
  · rfl
  · exact if_pos ⟨hstarted, hi⟩

theorem rnode_misaligned {b j : Nat} (hb : b % 2 ^ j ≠ 0) (r : RedAcc) (m : RMode) (last : Bool) (x : Word) :
    r.rnode m b j last x = none := if_pos (.inr (.inl hb))

theorem inv_hart {v : Invocation} (hinv : (s.core n).inv = some v) : (s.hart n).inv = v := by
  rw [Hart.inv, State.hart, hinv, Option.getD_some]

end Sys2Proof.Machine

namespace Sys2Proof.Proofs

open Sys2Proof Sys2Proof.Machine

/-- Settles O28: a draw reuses the last words or counts an evaluation, a mark writes its registers once it has retired, and
every reduction retires with the accumulator that it leaves. -/
theorem nomadDrawsMarksAndReduces : Obligations.NomadDrawsMarksAndReduces := by
  refine ⟨?instructions, fun r m i xs ys hstarted hi => rfeed_out_of_order hstarted hi m xs ys,
    fun r m b j last x hb => rnode_misaligned hb r m last x⟩
  rintro s n w v c rfl hinv
  have hv : (s.hart n).inv = v := inv_hart hinv
  refine ⟨?draw, fun hat => ?mark, fun hat hlast => ?rbegin, fun hat r hr => ?rfeed, fun hat r hr => ?rnode,
    fun hat => ?rend⟩
  case draw =>
    rintro hat key rfl
    refine ⟨fun hnew => ?evaluates, fun hsame => ?reused⟩
    case evaluates =>
      rw [exec_of_coreAt (f := doDraw) hat rfl, doDraw_evaluates hv hnew]
      simp only [Host.Outcome.next.injEq]
      exact retires_with_evaluation s n _ ((s.core n).pc + 4) ((inv_setX _ _ _).trans hinv)
    case reused =>
      rw [exec_of_coreAt (f := doDraw) hat rfl, doDraw_reused hv hsame]
      exact ⟨_, rfl, finish_spec (s.hart n) (rdOf w) _⟩
  case mark => exact ⟨_, exec_of_coreAt (f := doMark) hat rfl, doMark_spec (s.hart n) w⟩
  case rbegin =>
    obtain ⟨t, op, rfl, ht⟩ := doRbegin_spec (h := s.hart n) (w := w) hlast
    exact ⟨_, op, exec_of_coreAt (f := doRbegin) hat rfl, ht⟩
  case rfeed =>
    have hreduced : doRfeed (s.hart n) w = (s.hart n).reduced (some r) := congrArg _ hr
    rw [exec_of_coreAt (f := doRfeed) hat rfl, hreduced]
    exact ⟨_, rfl, reduced_spec (s.hart n) r⟩
  case rnode =>
    have hreduced : doRnode (s.hart n) w = (s.hart n).reduced (some r) := congrArg _ hr
    rw [exec_of_coreAt (f := doRnode) hat rfl, hreduced]
    exact ⟨_, rfl, reduced_spec (s.hart n) r⟩
  case rend =>
    exact ⟨_, exec_of_coreAt (f := doRend) hat rfl,
      reduced_spec ((s.hart n).setF (rdOf w) (boxed 32 ((s.core n).red.rend (s.hart n).redMode).toNat)) {}⟩

end Sys2Proof.Proofs
end

section
/-!
PROOFS. The end of a share (R144, R147) and the resume of a saved invocation (R150, R355): a state of each kind of which its
statement does not hold.
-/

namespace Sys2Proof.Machine

variable {s : State} {n cl w : Nat}

/-! The end of a share. -/

/-- Where every step that waits for cores has been given them, none tries again. -/
theorem retryKernels_of_sent (h : ∀ k x, (s.strm k).step = some x → x.wait ≠ .kernel ∨ x.sent = true) (l : List Nat) :
    retryKernels cl s l = s := by
  induction l with
  | nil => rfl
  | cons k t ih =>
    rw [retryKernels]
    cases hstep : (s.strm k).step with
    | none => exact ih
    | some x =>
      have hnot : ¬((s.strm k).cluster = some cl ∧ x.wait = .kernel ∧ (!x.sent) = true) := by
        rintro ⟨-, hwait, hunsent⟩
        rcases h k x hstep with hx | hx
        · exact hx hwait
        · simp [hx] at hunsent
      simp only [if_neg hnot]
      exact ih

theorem coresFreed_of_sent (h : ∀ k x, (s.strm k).step = some x → x.wait ≠ .kernel ∨ x.sent = true) :
    s.coresFreed cl = s := retryKernels_of_sent h _

/-- What a handle names depends on the package's ID alone. -/
theorem sidOf_congr {t : State} (hfab : t.fab = s.fab) (hstatus : t.reg Reg.ERG_STATUS = s.reg Reg.ERG_STATUS)
    (hreq : t.reg Reg.ERG_ID_REQ = s.reg Reg.ERG_ID_REQ) (g : Nat) : t.sidOf g = s.sidOf g := by
  rw [State.sidOf, State.deviceId, hfab, fld_congr hstatus, fld_congr hreq]
  rfl

/-- The registers of the cores lie in the windows of the dies (R9). -/
theorem le_nmdBase (n : Nat) : 0x1000000 ≤ nmdBase n := by
  simp only [nmdBase, clBase, dieBase]
  omega

theorem strm_of_streams {t : State} (h : t.streams = s.streams) (k : Nat) : t.strm k = s.strm k := by
  rw [State.strm, h, State.strm]

theorem streams_freeCore (s : State) (n : Nat) : (s.freeCore n).streams = s.streams := by
  rw [State.freeCore, State.setN_streams, State.setN_streams, State.clearCore, State.setCore_streams]

theorem core_freeCore (s : State) (n : Nat) :
    (s.freeCore n).core n = { lastKey := (s.core n).lastKey, lastOut := (s.core n).lastOut } := by
  have hcores : (s.freeCore n).cores = (s.clearCore n).cores := by
    rw [State.freeCore, State.setN_cores, State.setN_cores]
  rw [core_of_cores hcores, State.clearCore, core_setCore, if_pos rfl]

theorem reg_freeCore_low (s : State) (n : Nat) {a : Nat} (ha : a < 0x1000000) : (s.freeCore n).reg a = s.reg a := by
  have hbase := le_nmdBase n
  have hclear : (s.clearCore n).regs = s.regs := State.setCore_regs s n _
  rw [State.freeCore, reg_setN, if_neg (by simp only [Reg.NMD_KERNEL]; omega), reg_setN,
    if_neg (by simp only [Reg.NMD_STATUS]; omega), reg_of_regs hclear]

theorem sidOf_freeCore (s : State) (n g : Nat) : (s.freeCore n).sidOf g = s.sidOf g :=
  sidOf_congr (by rw [State.freeCore, State.setN_fab, State.setN_fab, State.clearCore, State.setCore_fab])
    (reg_freeCore_low s n (by decide)) (reg_freeCore_low s n (by decide)) g

theorem run_of_step {h : Nat} {r : StepRun} (hstep : (s.strm h).step = some r) : s.run h = r := by
  rw [State.run, hstep, Option.getD_some]

theorem strm_setRun (s : State) (h k : Nat) (r : StepRun) :
    (s.setRun h r).strm k = if k = h then { s.strm h with step := some r } else s.strm k := strm_setStrm _ _ _ _

/-- With one of several shares its step has one less to wait for, and nothing else happens. -/
theorem shareEnded_of_more {v : Invocation} {h : Nat} {r : StepRun} (hsid : s.sidOf v.handle = some h)
    (hstep : (s.strm h).step = some r) (hwait : r.wait = .kernel) (hjobs : 1 < r.jobs)
    (hsent : ∀ k x, (s.strm k).step = some x → x.wait ≠ .kernel ∨ x.sent = true) :
    s.shareEnded n v false = (s.freeCore n).setRun h { r with jobs := r.jobs - 1 } := by
  have hstrm := strm_of_streams (streams_freeCore s n)
  have hrun : (s.freeCore n).run h = r := run_of_step (by rw [hstrm, hstep])
  have hgiven : ∀ k x, (((s.freeCore n).setRun h { r with jobs := r.jobs - 1 }).strm k).step = some x →
      x.wait ≠ .kernel ∨ x.sent = true := by
    intro k x hx
    rw [strm_setRun, hstrm, hstrm] at hx
    split at hx
    · cases hx
      exact hsent h r hstep
    · exact hsent k x hx
  unfold State.shareEnded
  simp only [sidOf_freeCore, hsid, Bool.false_eq_true, if_false, hrun, if_neg (not_not.2 hwait), if_neg (Nat.not_le.2 hjobs)]
  exact coresFreed_of_sent hgiven

/-- The core that ends such a share keeps the words of its last evaluation (R147). -/
theorem core_shareEnded_of_more {v : Invocation} {h : Nat} {r : StepRun} (hsid : s.sidOf v.handle = some h)
    (hstep : (s.strm h).step = some r) (hwait : r.wait = .kernel) (hjobs : 1 < r.jobs)
    (hsent : ∀ k x, (s.strm k).step = some x → x.wait ≠ .kernel ∨ x.sent = true) :
    (s.shareEnded n v false).core n = { lastKey := (s.core n).lastKey, lastOut := (s.core n).lastOut } := by
  have hcores : ((s.freeCore n).setRun h { r with jobs := r.jobs - 1 }).cores = (s.freeCore n).cores := rfl
  rw [shareEnded_of_more hsid hstep hwait hjobs hsent, core_of_cores hcores, core_freeCore]

theorem doEcall_of_ok {h : Hart} (ha0 : h.x 10 = 0) : doEcall h w = (h.finish 0 0).shareEnded h.n h.inv false := by
  rw [doEcall, ha0]; rfl

/-- A retired instruction leaves what handles name and the steps in progress. -/
theorem finish_keeps (h : Hart) (rd : Nat) (v : Dword) :
    (∀ g, (h.finish rd v).sidOf g = h.s.sidOf g) ∧ ∀ k, (h.finish rd v).strm k = h.s.strm k := by
  obtain ⟨⟨-, -, -, -, hregs, hframe⟩, -⟩ := finish_spec h rd v
  have hbase := le_nmdBase h.n
  have hlow {a : Nat} (ha : a < 0x1000000) : (h.finish rd v).reg a = h.s.reg a := hregs a (by
    simp only [retireRegs, List.append_nil, List.mem_cons, List.not_mem_nil, or_false, Reg.NMD_PC_LO, Reg.NMD_BUSY_LO,
      Reg.NMD_INSTRET_LO]
    omega)
  refine ⟨fun g => sidOf_congr ?_ (hlow (by decide)) (hlow (by decide)) g, fun k => strm_of_streams ?_ k⟩
  · rw [hframe]
  · rw [hframe]

/-- ecall with a0 0 ends one of several shares, and the core keeps the words of its last evaluation (R144, R147). -/
theorem lastKey_doEcall {h : Hart} {k : Nat} {r : StepRun} (ha0 : h.x 10 = 0) (hsid : h.s.sidOf h.inv.handle = some k)
    (hstep : (h.s.strm k).step = some r) (hwait : r.wait = .kernel) (hjobs : 1 < r.jobs)
    (hsent : ∀ j x, (h.s.strm j).step = some x → x.wait ≠ .kernel ∨ x.sent = true) :
    ((doEcall h w).core h.n).lastKey = h.c.lastKey := by
  obtain ⟨⟨⟨cycles, hcore⟩, -⟩, -⟩ := finish_spec h 0 0
  obtain ⟨hsids, hstrms⟩ := finish_keeps h 0 0
  rw [doEcall_of_ok ha0, core_shareEnded_of_more (by rw [hsids, hsid]) (by rw [hstrms, hstep]) hwait hjobs
    (fun j x hx => hsent j x (by rwa [hstrms] at hx)), hcore]
  rfl

end Sys2Proof.Machine

namespace Sys2Proof.Proofs

open Sys2Proof Sys2Proof.Machine

/-- Core 4 at an ecall with a0 0; its last draw was of element 0. -/
def coreAfterDraw : Core := {
  mem := [(0, 0x73)]
  lastKey := (driftKey 0 0).words ++ (driftCtr 0 0 0).words
  lastOut := ((⟨0, 0, 0, 0⟩ : DrawCtx).eval 0).words
  inv := some { handle := 1, textLen := 4 } }

/-- A step that waits for two cores of its kernel. -/
def stepOfTwoShares : StepRun := { wait := .kernel, sent := true, jobs := 2 }

/-- The step of stream 1 waits for that core and for one more. -/
def endingShare : State := { State.reset with
  cores := [(4, coreAfterDraw)]
  streams := [(1, { st := .active, step := some stepOfTwoShares })] }

theorem coreAt_endingShare : endingShare.coreAt 4 .ecall 0x73 :=
  ⟨by decide +kernel, by decide +kernel, hartAt_eq_some_iff.2 (by decide +kernel)⟩

/-- The one step there that waits for cores has been given them. -/
theorem sent_endingShare {k : Nat} {x : StepRun} (h : (endingShare.strm k).step = some x) : x.sent = true := by
  have hstrm : endingShare.strm k = if 1 = k then { st := .active, step := some stepOfTwoShares } else {} := rfl
  rw [hstrm] at h
  split at h <;> cases h
  rfl

/-- Refutes O27: ecall frees the core, but the words of its last drift evaluation stay its own (R147), so that it is not left
as a core that has run nothing. -/
theorem not_nomadCoresSynchronise : ¬ Obligations.NomadCoresSynchronise := by
  intro h
  obtain ⟨-, -, -, -, -, -, hend⟩ := h endingShare 4 0x73 { handle := 1, textLen := 4 } coreAfterDraw rfl rfl
  have hsent (k : Nat) (x : StepRun) (hx : (endingShare.strm k).step = some x) : x.wait ≠ .kernel ∨ x.sent = true :=
    .inr (sent_endingShare hx)
  obtain ⟨t, hexec, hcore, -⟩ := hend coreAt_endingShare 1 stepOfTwoShares (.inl rfl)
    (by decide +kernel) rfl rfl rfl (by decide) hsent
  have ht : doEcall (endingShare.hart 4) 0x73 = t :=
    Host.Outcome.next.inj ((exec_of_coreAt (f := doEcall) coreAt_endingShare rfl).symm.trans hexec)
  have hkept : (t.core 4).lastKey = coreAfterDraw.lastKey := ht ▸ lastKey_doEcall (h := endingShare.hart 4) (k := 1)
    (r := stepOfTwoShares) rfl (by decide +kernel) rfl rfl (by decide) hsent
  rw [show t.core 4 = {} from hcore] at hkept
  exact absurd hkept (by decide +kernel)

/-- A step that waits for the one core of its kernel, which was saved when the step yielded. -/
def yieldedStep : StepRun := { wait := .kernel, sent := true, jobs := 1, yielded := true }

/-- Cluster 1 holds saved invocation 12 of stream 1, whose step yielded and whose item, the only one, waits for its start. -/
def savedBehindItem : State := { State.reset with
  savedCores := [(12, 1, { inv := some { handle := 1 } })]
  streams := [(1, { st := .active, cluster := some 1, step := some yieldedStep })]
  place := { items := [{ handle := 1, cluster := 1 }] } }

/-- The item comes first and starts again, so that the invocation leaves the saved list. -/
theorem saved_nmdResume_savedBehindItem : (doNmdResume 4 12 savedBehindItem).savedCores = [] := by decide +kernel

/-- Refutes O29: where the item that has not started comes first on its cluster, NMD_RESUME starts it (R355) and resumes its
invocation, so that the command does not leave the part as it was. -/
theorem not_nomadFaultsStopTheNode : ¬ Obligations.NomadFaultsStopTheNode := by
  intro h
  obtain ⟨-, hresume⟩ := h savedBehindItem 4
  obtain ⟨-, hheld, -⟩ := hresume 12 rfl
  have hnone : exec (.nmdResume 4 12) savedBehindItem = .next savedBehindItem :=
    hheld { inv := some { handle := 1 } } { handle := 1 } rfl rfl (.inr ⟨1, rfl, .inr rfl⟩)
  have hsame : doNmdResume 4 12 savedBehindItem = savedBehindItem :=
    Host.Outcome.next.inj ((exec_of_running (f := doNmdResume 4 12) rfl rfl).symm.trans hnone)
  have hsaved := saved_nmdResume_savedBehindItem
  rw [hsame] at hsaved
  exact absurd hsaved (by decide)

end Sys2Proof.Proofs
end

section
/-!
PROOFS. Storing and reading bonded memory (R157, R166 to R172): stores over sound cells, granules that are corrected or
delivered as zeros, and the registers in which each is counted.
-/

namespace Sys2Proof.Machine

variable {s : State}

/-! Stores over sound cells. -/

/-- Nothing differs but bytes, cells that came to hold new data, and free values drawn for them (R171). -/
def Renewed (s t : State) : Prop :=
  t.cond.symbols ⊆ s.cond.symbols ∧ t.cond.bits ⊆ s.cond.bits ∧ t = { s with
    mem := t.mem
    cond := { s.cond with
      symbols := t.cond.symbols
      bits := t.cond.bits }
    freeCtr := t.freeCtr }

theorem eraseDups_eq_nil {l : List Nat} : l.eraseDups = [] ↔ l = [] := by
  cases l with
  | nil => simp
  | cons x t => simp [List.eraseDups_cons]

theorem Renewed.refl (s : State) : Renewed s s := ⟨fun _ h => h, fun _ h => h, rfl⟩

theorem Renewed.trans {t u : State} (h1 : Renewed s t) (h2 : Renewed t u) : Renewed s u := by
  obtain ⟨hsym, hbit, heq⟩ := h1
  obtain ⟨hsym', hbit', heq'⟩ := h2
  exact ⟨fun _ hc => hsym (hsym' hc), fun _ hc => hbit (hbit' hc), by rw [heq', heq]⟩

theorem renewed_setBytes (s : State) (a : Nat) (l : List Byte) : Renewed s (s.setBytes a l) := by
  rw [setBytes_eq]
  exact ⟨fun _ h => h, fun _ h => h, rfl⟩

theorem renewed_freshCells (s : State) (lo hi : Nat) : Renewed s (s.freshCells lo hi) := by
  unfold State.freshCells
  split
  · exact ⟨fun _ hc => List.mem_of_mem_filter hc, fun _ hc => List.mem_of_mem_filter hc, rfl⟩
  · exact .refl s

section Kept

variable {t : State} (h : Renewed s t)
include h

theorem Renewed.regs : t.regs = s.regs := by rw [h.2.2]
theorem Renewed.cisterns : t.cisterns = s.cisterns := by rw [h.2.2]
theorem Renewed.streams : t.streams = s.streams := by rw [h.2.2]
theorem Renewed.objs : t.objs = s.objs := by rw [h.2.2]

theorem Renewed.hostOk (a n : Nat) : t.hostOk a n = s.hostOk a n := by rw [h.2.2]; rfl

theorem Renewed.faulty {g : Nat} (hg : s.faulty g = []) : t.faulty g = [] := by
  obtain ⟨hsym, -, -⟩ := h
  simp only [State.faulty, eraseDups_eq_nil, List.filter_eq_nil_iff] at hg ⊢
  exact fun c hc => hg c (hsym hc)

theorem Renewed.badBits {w : Nat} (hw : s.badBits w = []) : t.badBits w = [] := by
  obtain ⟨-, hbit, -⟩ := h
  simp only [State.badBits, eraseDups_eq_nil, List.map_eq_nil_iff, List.filter_eq_nil_iff] at hw ⊢
  exact fun c hc => hw c (hbit hc)

/-- Sound cells stay sound. -/
theorem Renewed.sound {a n : Nat} (hs : s.sound a n) : t.sound a n := fun g hg => by
  obtain ⟨hfaulty, hlisted, hbits⟩ := hs g hg
  exact ⟨h.faulty hfaulty, (listed_congr h.cisterns g).trans hlisted, fun w hw => h.badBits (hbits w hw)⟩

end Kept

/-- A store over sound cells of one place changes bytes and renews cells, and nothing else. -/
theorem renewed_writeData {a : Nat} {l : List Byte} (hs : s.sound a l.length) (loc : Nat) :
    Renewed s (s.writeData loc a l) := by
  by_cases hl : l = []
  · subst hl; exact .refl s
  have hn : l.length ≠ 0 := by simpa using hl
  have hprep : ∀ (p : Prop) [Decidable p] (g : Nat), g ∈ granulesOf a l.length →
      (if p then s.prepareGran loc g else s) = s := fun p _ g hg => by
    rw [prepareGran_sound (hs g hg), ite_self]
  have hfirst : a / 64 * 64 ∈ granulesOf a l.length := mem_granulesOf le_rfl (by omega) (by omega) hn
  have hlast : (a + l.length - 1) / 64 * 64 ∈ granulesOf a l.length :=
    mem_granulesOf (by omega) (by omega) (by omega) hn
  unfold State.writeData
  split
  · exact .refl s
  · split
    · exact .refl s
    · simp only [hprep _ _ hfirst, hprep _ _ hlast]
      exact (renewed_setBytes s a l).trans (renewed_freshCells _ _ _)

/-- Data outside every range, or for register space, is stored nowhere (R157). -/
theorem writeData_nowhere {a : Nat} {l : List Byte} (h : inOnePlace a l.length = false ∨ placeOf a = .regs) (loc : Nat) :
    s.writeData loc a l = s := by
  have hno : (!inOnePlace a l.length || placeOf a == .regs) = true := by
    rcases h with h | h <;> simp [h]
  unfold State.writeData
  rw [if_pos hno, ite_self]

/-! Memory's canonical form. -/

theorem wf_setBytes (h : Memory.wf s.mem = true) (a : Nat) (l : List Byte) : Memory.wf (s.setBytes a l).mem = true := by
  induction l generalizing s a with
  | nil => exact h
  | cons b t ih => exact ih (s := s.setByte a b) (AMap.wf_write _ h _ _) _

theorem wf_dropIndex (h : Memory.wf s.mem = true) (l : List Nat) : Memory.wf (dropIndex l s).mem = true := by
  unfold dropIndex
  induction l generalizing s with
  | nil => exact h
  | cons r t ih =>
    refine ih ?_
    dsimp only
    split
    · exact wf_setBytes (wf_setBytes h _ _) _ _
    · exact wf_setBytes h _ _

/-- What a first detection changes once the granule is listed. -/
theorem marked_noteUe_listed (s : State) (a : Nat) (ctl : Bool) : Marked (s.listBad a) (s.noteUe a ctl) :=
  (marked_countUe (s.listBad a) _ _ _).trans (marked_report _ _ _ _ _ _)

theorem wf_detectDram (h : Memory.wf s.mem = true) (a : Nat) (ctl : Bool) : Memory.wf (s.detectDram a ctl).mem = true := by
  have hnote : Memory.wf (s.noteUe a ctl).mem = true := by
    rw [(marked_noteUe_listed s a ctl).mem]
    exact wf_dropIndex (s := s.putBad a) h _
  unfold State.detectDram
  split
  · exact h
  · split
    · exact hnote
    · rw [(marked_retireFrame _ _).mem]
      exact hnote

theorem wf_prepareGran (h : Memory.wf s.mem = true) (loc a : Nat) : Memory.wf (s.prepareGran loc a).mem = true := by
  have hc : Memory.wf (s.correct a).mem = true := by rw [(marked_correct s a).mem]; exact h
  have hwords : Memory.wf (if ((s.correct a).badWords a).isEmpty then s.correct a
      else (detectWords loc (s.correct a) ((s.correct a).badWords a)).setBytes a (List.replicate 64 0)).mem = true := by
    split
    · exact hc
    · refine wf_setBytes ?_ _ _
      rw [(marked_detectWords _ _ _).mem]
      exact hc
  unfold State.prepareGran
  dsimp only
  split
  · split
    · exact wf_setBytes (wf_detectDram hc _ _) _ _
    · exact hc
  · exact hwords
  · exact hwords
  · exact hwords
  · exact hc

theorem wf_writeData (h : Memory.wf s.mem = true) (loc a : Nat) (l : List Byte) :
    Memory.wf (s.writeData loc a l).mem = true := by
  have hp : ∀ (t : State) (p : Prop) [Decidable p] (g : Nat), Memory.wf t.mem = true →
      Memory.wf (if p then t.prepareGran loc g else t).mem = true := fun t p _ g ht => by
    split
    · exact wf_prepareGran ht loc g
    · exact ht
  unfold State.writeData
  split
  · exact h
  · split
    · exact h
    · rw [mem_freshCells]
      exact wf_setBytes (hp _ _ _ (hp _ _ _ h)) _ _

/-! One granule read as data. -/

theorem readData_granule {a : Nat} {b : List Byte} {z : Bool} {t : State} {loc : Nat} (halign : a % 64 = 0)
    (hone : inOnePlace a 64 = true) (hlow : a < hostWindow) (hb : b.length = 64) (h : s.readGran a loc = (b, z, t)) :
    s.readData loc a 64 = ⟨b, b2n z, false, t⟩ := by
  have hgran : granulesOf a 64 = [a] := by
    have ha : a / 64 * 64 = a := by omega
    simp [granulesOf, halign, ha]
  unfold State.readData
  rw [if_neg (by decide), hone, Bool.not_true, if_neg Bool.false_ne_true, if_neg (by omega), hgran, State.readGrans, h]
  simp [State.readGrans, halign, List.take_of_length_le hb.le]

theorem granule_dram {a d : Nat} (halign : a % 64 = 0) (hd : placeOf a = .dram d) :
    inOnePlace a 64 = true ∧ a < hostWindow := by
  have hd' := placeOf_dram_iff.1 hd
  have hlast : placeOf (a + 63) = .dram d := placeOf_dram_iff.2 (by omega)
  exact ⟨by simp [inOnePlace, hd, hlast], by unfold hostWindow; omega⟩

theorem heal_faulty (s : State) (a : Nat) : (s.heal a).faulty a = [] := by
  simp [State.faulty, State.heal, List.filter_filter, eraseDups_eq_nil]

theorem granBad_corrected {a : Nat} (hweak : s.granWeak a = true) : ((s.heal a).countCe a).granBad a = false := by
  have hlisted : s.listed a = false := by
    simp only [State.granWeak, Bool.and_eq_true, Bool.not_eq_true'] at hweak
    exact hweak.2
  rw [granBad_countCe, State.granBad, State.granSeen, heal_faulty, listed_congr (s := s) (t := s.heal a) rfl, hlisted]
  rfl

/-- A granule with one symbol in error reads as it lies, and is corrected (R167). -/
theorem readGran_weak {a d : Nat} (hd : placeOf a = .dram d) (hweak : s.granWeak a = true) (loc : Nat) :
    s.readGran a loc = (s.bytes a 64, false, (s.heal a).countCe a) := by
  have hmem : ((s.heal a).countCe a).mem = s.mem := reported_mem (s.heal a) (reported_countCe _ _)
  simp only [State.readGran, State.correct, hd, hweak, if_true, granBad_corrected hweak, Bool.false_eq_true, if_false]
  rw [bytes_congr (fun k _ _ => byte_congr hmem k)]

/-- An uncorrectable granule is delivered as zeros, once it is detected and counted (R168, R169). -/
theorem readGran_bad {a d : Nat} (hd : placeOf a = .dram d) (hbad : s.granBad a = true) (loc : Nat) :
    s.readGran a loc = (List.replicate 64 0, true, (s.detectDram a false).bump64 (Reg.DMEM_UE_READ_LO d) 1) := by
  simp only [State.readGran, State.correct, hd, granWeak_of_granBad hbad, Bool.false_eq_true, if_false, hbad, if_true]

/-! Where errors are counted. -/

theorem reg_count_other {a st b : Nat} (n bit : Nat) (h : b ≠ a) (hst : b ≠ st) : (s.count a n st bit).reg b = s.reg b := by
  unfold State.count
  dsimp only
  split
  · rw [reg_raise_other _ _ hst, reg_bump_other _ _ h]
  · exact reg_bump_other _ _ h

/-- The registers of snapshot triggers. -/
abbrev SnapReg (a : Nat) : Prop := 0x601000 ≤ a ∧ a < 0x602000

theorem reg_missTrigger {b : Nat} (h : ¬ SnapReg b) : s.missTrigger.reg b = s.reg b := by
  have hm : b ≠ Reg.SNP_MISSED := fun he => h (he ▸ by decide)
  have hi : b ≠ Reg.SNP_INT_STATUS := fun he => h (he ▸ by decide)
  rw [State.missTrigger, reg_raise_other _ _ hi, reg_bump_other _ _ hm]

theorem reg_pendTrigger {b : Nat} (h : ¬ SnapReg b) (x : Trigger) : (s.pendTrigger x).reg b = s.reg b := by
  have ht : b ≠ Reg.SNP_TB_LO := fun he => h (he ▸ by decide)
  have ht4 : b ≠ Reg.SNP_TB_LO + 4 := fun he => h (he ▸ by decide)
  have hn : b ≠ Reg.SNP_NUM := fun he => h (he ▸ by decide)
  have hs : b ≠ Reg.SNP_STATUS := fun he => h (he ▸ by decide)
  rw [State.pendTrigger]
  dsimp only
  rw [reg_setBit_other _ _ _ hs, State.showTrigger, reg_setFld_other _ _ _ _ hs, reg_setN, if_neg hn,
    reg_setPair_other _ _ ht ht4]
  rfl

theorem reg_offerTrigger {b : Nat} (h : ¬ SnapReg b) (x : Trigger) : (s.offerTrigger x).2.reg b = s.reg b := by
  unfold State.offerTrigger
  split
  · exact reg_missTrigger h
  · split
    · exact reg_pendTrigger h x
    · split
      · exact (reg_pendTrigger h x).trans (reg_missTrigger h)
      · exact reg_missTrigger h

theorem reg_takeNumber {b : Nat} (h : ¬ SnapReg b) : s.takeNumber.2.reg b = s.reg b := by
  have hn : b ≠ Reg.SNP_NUM_NEXT := fun he => h (he ▸ by decide)
  unfold State.takeNumber
  dsimp only
  rw [reg_setN, if_neg hn]
  rfl

/-- A report changes no register but those of snapshot triggers (R452, R461). -/
theorem reg_report {b : Nat} (h : ¬ SnapReg b) (cls code loc skind suspect : Nat) :
    (s.report cls code loc skind suspect).reg b = s.reg b := by
  have hc : ∀ (t : State) (die : Nat) (r : ErrWin), (t.collect die r).reg b = t.reg b := fun t die r => by
    unfold State.collect
    split <;> rfl
  unfold State.report
  dsimp only
  rw [hc]
  unfold State.errorTrigger
  split
  · unfold State.originate
    dsimp only
    rw [reg_offerTrigger h]
    split
    · rw [reg_sendAll, reg_takeNumber h]
    · exact reg_takeNumber h
  · rfl

/-- The registers of die d that the loss of a bank may change: its tables and counts, interrupts, and those of snapshot
triggers. -/
abbrev BankReg (d a : Nat) : Prop :=
  a = Reg.DMEM_INT_STATUS d ∨ a = Reg.DMEM_RET_BANKS d ∨
    (Reg.DMEM_BANKRETi d 0 ≤ a ∧ a ≤ Reg.DMEM_BANKRETi d 64) ∨ SnapReg a

/-- The registers of die d that the retirement of a frame may change. -/
abbrev RetireReg (d a : Nat) : Prop := a = Reg.DMEM_STATUS d ∨ a = Reg.DMEM_RET_FRAMES d ∨ BankReg d a

theorem reg_retireBank {d ch k a : Nat} (hch : ch < 32) (hk : k < 96) (h : ¬ BankReg d a) :
    (s.retireBank d ch k).reg a = s.reg a := by
  have hi : bankNo ch k / 32 ≤ 64 := by unfold bankNo; omega
  simp only [BankReg, Reg.DMEM_BANKRETi, not_or] at h
  obtain ⟨hint, hbanks, hret, hsnap⟩ := h
  have hbit : a ≠ Reg.DMEM_BANKRETi d (bankNo ch k / 32) := by unfold Reg.DMEM_BANKRETi; omega
  unfold State.retireBank
  split
  · rfl
  · rw [State.loseBank, reg_report hsnap, reg_raise_other _ _ hint, reg_bump_other _ _ hbanks, reg_setBit_other _ _ _ hbit]

theorem reg_showRetired {d a : Nat} (h : ¬ RetireReg d a) : (s.showRetired d).reg a = s.reg a := by
  simp only [RetireReg, BankReg, not_or] at h
  obtain ⟨hstatus, hframes, hint, -, -, -⟩ := h
  unfold State.showRetired
  dsimp only
  split
  · rw [reg_raise_other _ _ hint, reg_setBit_other _ _ _ hstatus, reg_setN, if_neg hframes]
  · rw [reg_setN, if_neg hframes]

theorem bank_lt (f : Nat) : bitsAt f 17 5 < 32 ∧ bankOf f < 96 := by
  have hrow := bitsAt_lt f 0 17
  exact ⟨bitsAt_lt f 17 5, by unfold bankOf; omega⟩

theorem reg_checkBank {f a : Nat} (h : ¬ BankReg (bitsAt f 22 2) a) : (s.checkBank f).reg a = s.reg a := by
  obtain ⟨hch, hbank⟩ := bank_lt f
  unfold State.checkBank
  split
  · exact reg_retireBank hch hbank h
  · rfl

theorem reg_retireFrame {f a : Nat} (h : ¬ RetireReg (bitsAt f 22 2) a) : (s.retireFrame f).reg a = s.reg a := by
  obtain ⟨hch, hbank⟩ := bank_lt f
  have hlost : ¬ BankReg (bitsAt f 22 2) a := fun hb => h (.inr (.inr hb))
  unfold State.retireFrame
  split
  · rfl
  · split
    · rw [reg_retireBank hch hbank hlost]
      rfl
    · rw [reg_checkBank hlost, reg_showRetired h]
      rfl

/-- The registers that count a first detection in die d, by the cistern engine e, and those of snapshot triggers. -/
abbrev DetectReg (d e a : Nat) : Prop :=
  a = Reg.DMEM_UE_LO d ∨ a = Reg.DMEM_UE_LO d + 4 ∨ a = Reg.DMEM_LAST_UE_LO d ∨ a = Reg.DMEM_LAST_UE_LO d + 4 ∨
    a = Reg.DMEM_INT_STATUS d ∨ a = Reg.CIS_UE e ∨ a = Reg.CIS_INT_STATUS e ∨ SnapReg a

/-- Taking blocks out of the index changes bytes only. -/
theorem dropIndex_eq (l : List Nat) (s : State) : dropIndex l s = { s with mem := (dropIndex l s).mem } := by
  unfold dropIndex
  induction l generalizing s with
  | nil => rfl
  | cons r t ih =>
    rw [List.foldl_cons, ih]
    dsimp only
    split
    · rw [setBytes_eq, setBytes_eq s]
    · rw [setBytes_eq]

theorem regs_dropIndex (l : List Nat) (s : State) : (dropIndex l s).regs = s.regs := by rw [dropIndex_eq]

theorem regs_listBad (s : State) (a : Nat) : (s.listBad a).regs = s.regs := regs_dropIndex _ _

theorem reg_countUe {d e a k : Nat} (h : ¬ DetectReg d e k) : (s.countUe d e a).reg k = s.reg k := by
  simp only [DetectReg, not_or] at h
  obtain ⟨hue, hue4, hlast, hlast4, hint, hcue, hcint, -⟩ := h
  rw [State.countUe, reg_raise_other _ _ hcint, reg_count_other _ _ hcue hcint, reg_raise_other _ _ hint,
    reg_setPair_other _ _ hlast hlast4, reg_bump64_other _ _ hue hue4]

theorem reg_noteUe {a k : Nat} (h : ¬ DetectReg (a / 0x1000000000) (cisternOf a) k) (ctl : Bool) :
    (s.noteUe a ctl).reg k = s.reg k := by
  have hsnap : ¬ SnapReg k := fun hk => h (.inr (.inr (.inr (.inr (.inr (.inr (.inr hk)))))))
  rw [State.noteUe, reg_report hsnap, reg_countUe h, reg_of_regs (regs_listBad s a)]

theorem frameOf_die {a d : Nat} (hd : placeOf a = .dram d) : bitsAt (frameOf a) 22 2 = d := by
  have hd' := placeOf_dram_iff.1 hd
  have hch : channelOf a < 32 := bitsAt_lt _ _ _
  simp only [bitsAt, frameOf, Nat.shiftRight_eq_div_pow]
  omega

theorem reg_detectDram {a d k : Nat} (hd : placeOf a = .dram d) (h : ¬ DetectReg d (cisternOf a) k)
    (hret : ¬ RetireReg d k) (ctl : Bool) : (s.detectDram a ctl).reg k = s.reg k := by
  have hdie : a / 0x1000000000 = d := (placeOf_dram_iff.1 hd).2.2
  have hnote : (s.noteUe a ctl).reg k = s.reg k := reg_noteUe (hdie ▸ h) ctl
  unfold State.detectDram
  split
  · rfl
  · split
    · exact hnote
    · rw [reg_retireFrame (by rw [frameOf_die hd]; exact hret), hnote]

theorem dram_lt {a d : Nat} (hd : placeOf a = .dram d) : d < 4 ∧ cisternOf a = 32 * d + channelOf a ∧ channelOf a < 32 := by
  have hd' := placeOf_dram_iff.1 hd
  have hch : channelOf a < 32 := bitsAt_lt _ _ _
  exact ⟨by omega, by unfold cisternOf; omega, hch⟩

/-- The pair that counts zeroed reads is apart from what a detection changes. -/
theorem pair_ueRead_detectDram {a d : Nat} (hd : placeOf a = .dram d) (ctl : Bool) :
    (s.detectDram a ctl).pair (Reg.DMEM_UE_READ_LO d) = s.pair (Reg.DMEM_UE_READ_LO d) := by
  obtain ⟨hlt, he, hch⟩ := dram_lt hd
  have hnote : ∀ k, k = 0 ∨ k = 4 → ¬ DetectReg d (cisternOf a) (Reg.DMEM_UE_READ_LO d + k) := fun k hk => by
    simp only [DetectReg, Reg.DMEM_UE_READ_LO, Reg.DMEM_INT_STATUS, Reg.DMEM_UE_LO, Reg.DMEM_LAST_UE_LO, Reg.CIS_UE,
      Reg.CIS_INT_STATUS, cisBase, dieBase, he]
    omega
  have hret : ∀ k, k = 0 ∨ k = 4 → ¬ RetireReg d (Reg.DMEM_UE_READ_LO d + k) := fun k hk => by
    simp only [RetireReg, BankReg, Reg.DMEM_UE_READ_LO, Reg.DMEM_STATUS, Reg.DMEM_INT_STATUS, Reg.DMEM_RET_FRAMES,
      Reg.DMEM_RET_BANKS, Reg.DMEM_BANKRETi, dieBase]
    omega
  exact pair_congr (reg_detectDram hd (hnote 0 (.inl rfl)) (hret 0 (.inl rfl)) ctl)
    (reg_detectDram hd (hnote 4 (.inr rfl)) (hret 4 (.inr rfl)) ctl)

theorem pair_countCe {a d : Nat} (hd : placeOf a = .dram d) :
    (s.countCe a).pair (Reg.DMEM_CE_LO d) = (s.pair (Reg.DMEM_CE_LO d) + 1) % 2 ^ 64 := by
  obtain ⟨hlt, he, hch⟩ := dram_lt hd
  have hapart : Reg.DMEM_CE_LO d + 4 < Reg.CIS_CE (cisternOf a) ∧
      Reg.DMEM_CE_LO d + 4 < Reg.CIS_INT_STATUS (cisternOf a) := by
    simp only [Reg.DMEM_CE_LO, Reg.CIS_CE, Reg.CIS_INT_STATUS, cisBase, dieBase, he]
    omega
  obtain ⟨hce, hint⟩ := hapart
  simp only [State.countCe, hd]
  rw [pair_congr (reg_count_other _ _ (by omega) (by omega)) (reg_count_other _ _ hce.ne hint.ne), pair_bump64_same]

/-! Granules of a cluster's store (R172). -/

theorem placeOf_cluster_iff {a i : Nat} :
    placeOf a = .cluster i ↔ 0x10000000000 ≤ a ∧ a < 0x10000000000 + 96 * 0x800000 ∧ (a - 0x10000000000) / 0x800000 = i := by
  unfold placeOf
  constructor
  · intro h
    split at h
    · split_ifs at h
    · split at h
      · next hin => exact ⟨hin.1, hin.2, Place8.cluster.inj h⟩
      · split_ifs at h
  · rintro ⟨hlo, hhi, rfl⟩
    rw [if_neg (by omega), if_pos ⟨hlo, hhi⟩]

theorem granule_cluster {a i : Nat} (halign : a % 64 = 0) (hi : placeOf a = .cluster i) :
    inOnePlace a 64 = true ∧ a < hostWindow ∧ ∀ w ∈ granWords a, placeOf w = .cluster i := by
  have hi' := placeOf_cluster_iff.1 hi
  have hlast : placeOf (a + 63) = .cluster i := placeOf_cluster_iff.2 (by omega)
  refine ⟨by simp [inOnePlace, hi, hlast], by unfold hostWindow; omega, fun w hw => ?_⟩
  simp only [granWords, List.mem_map, List.mem_range] at hw
  obtain ⟨k, hk, rfl⟩ := hw
  exact placeOf_cluster_iff.2 (by omega)

theorem badBits_congr {t : State} (h : t.cond = s.cond) (w : Nat) : t.badBits w = s.badBits w := by
  rw [State.badBits, h]; rfl

theorem wordBad_congr {t : State} {w : Nat} (h : t.badBits w = s.badBits w) : t.wordBad w = s.wordBad w := by
  rw [State.wordBad, State.wordBad, h]

theorem badBits_healWord (s : State) (v w : Nat) : (s.healWord v).badBits w = if w = v then [] else s.badBits w := by
  by_cases hw : w = v
  · subst hw
    simp [State.badBits, State.healWord, List.filter_filter, eraseDups_eq_nil]
  · have hkeep : ∀ b : Nat × Nat, (b.1 == w && b.1 != v) = (b.1 == w) := fun b => by
      by_cases hb : b.1 = w <;> simp [hb, hw]
    simp only [State.badBits, State.healWord, List.filter_filter, hkeep, if_neg hw]

/-- Correcting words leaves the words that are uncorrectable as they are. -/
theorem wordBad_correctWords (l : List Nat) (s : State) (w : Nat) : (correctWords s l).wordBad w = s.wordBad w := by
  induction l generalizing s with
  | nil => rfl
  | cons v t ih =>
    rw [correctWords, ih]
    split
    · next hweak =>
      have hcond : ((s.healWord v).countCe v).cond = (s.healWord v).cond := by rw [reported_countCe (s.healWord v) v]
      rw [wordBad_congr (badBits_congr hcond w)]
      by_cases hw : w = v
      · subst hw
        have hone : (s.badBits w).length = 1 := by simpa [State.wordWeak] using hweak
        simp [State.wordBad, badBits_healWord, hone]
      · exact wordBad_congr (by rw [badBits_healWord, if_neg hw])
    · rfl

theorem badWords_correct {a i : Nat} (hi : placeOf a = .cluster i) : (s.correct a).badWords a = s.badWords a := by
  have hwords : ∀ w, (s.correct a).wordBad w = s.wordBad w := fun w => by
    simp only [State.correct, hi, wordBad_correctWords]
  rw [State.badWords, State.badWords, funext hwords]

theorem rn_sramUe_correctWords {i : Nat} {l : List Nat} (hl : ∀ w ∈ l, placeOf w = .cluster i) :
    (correctWords s l).rn (Reg.DMEM_SRAM_UE (i / 24)) = s.rn (Reg.DMEM_SRAM_UE (i / 24)) := by
  induction l generalizing s with
  | nil => rfl
  | cons w t ih =>
    rw [List.forall_mem_cons] at hl
    rw [correctWords, ih hl.2]
    split
    · have hne : Reg.DMEM_SRAM_UE (i / 24) ≠ Reg.DMEM_SRAM_CE (i / 24) := by
        simp only [Reg.DMEM_SRAM_UE, Reg.DMEM_SRAM_CE]; omega
      simp only [State.countCe, hl.1, State.rn, reg_bump_other _ _ hne]
      rfl
    · rfl

/-- Each uncorrectable word counts once at the die that holds the store. -/
theorem rn_sramUe_detectWords {i : Nat} {l : List Nat} (hl : ∀ w ∈ l, placeOf w = .cluster i) (loc : Nat) :
    (detectWords loc s l).rn (Reg.DMEM_SRAM_UE (i / 24)) =
      min (s.rn (Reg.DMEM_SRAM_UE (i / 24)) + l.length) 0xFFFFFFFF := by
  have hint : Reg.DMEM_SRAM_UE (i / 24) ≠ Reg.DMEM_INT_STATUS (i / 24) := by
    simp only [Reg.DMEM_SRAM_UE, Reg.DMEM_INT_STATUS]; omega
  have hsnap : ¬ SnapReg (Reg.DMEM_SRAM_UE (i / 24)) := by
    simp only [SnapReg, Reg.DMEM_SRAM_UE, dieBase]; omega
  induction l generalizing s with
  | nil =>
    have hlt := rn_lt s (Reg.DMEM_SRAM_UE (i / 24))
    simp only [detectWords, List.length_nil]
    omega
  | cons w t ih =>
    rw [List.forall_mem_cons] at hl
    have hone : (s.detectSram w loc).rn (Reg.DMEM_SRAM_UE (i / 24)) =
        min (s.rn (Reg.DMEM_SRAM_UE (i / 24)) + 1) 0xFFFFFFFF := by
      simp only [State.detectSram, State.countSramUe, hl.1]
      rw [State.rn, reg_report hsnap, reg_raise_other _ _ hint]
      exact rn_bump_same _ _ _
    rw [detectWords, ih hl.2, hone, List.length_cons]
    omega

/-- A granule of a cluster's store with an uncorrectable word is delivered as zeros (R172). -/
theorem readGran_badWords {a i : Nat} (hi : placeOf a = .cluster i) (hbad : s.badWords a ≠ []) (loc : Nat) :
    s.readGran a loc = (List.replicate 64 0, true, detectWords loc (s.correct a) (s.badWords a)) := by
  have hne : (s.badWords a).isEmpty = false := by simpa using hbad
  unfold State.readGran
  simp only [hi, badWords_correct hi, hne, Bool.false_eq_true, if_false]

end Sys2Proof.Machine
end

section
/-!
PROOFS. The statement about storing and reading bonded memory.
-/

namespace Sys2Proof.Proofs

open Sys2Proof Sys2Proof.Machine

/-- Settles O6: stores over sound cells change nothing but bytes; the other clauses are the cases of a read of one granule,
and the stores and reads outside every range. -/
theorem storedDataReadsBackAndBadGranulesReadZero : Obligations.StoredDataReadsBackAndBadGranulesReadZero := by
  unfold Obligations.StoredDataReadsBackAndBadGranulesReadZero
  refine ⟨fun s loc a l hl hone hregs hs hhost => ?_, fun s loc a d halign hd hweak => ?_, fun s loc a d halign hd hbad => ?_,
    fun s loc a i halign hi hbad => ?_, fun s loc a l h => writeData_nowhere h loc, fun s loc a n hn h => ?_,
    fun s loc a l h => wf_writeData h loc a l⟩
  · have hrenewed := renewed_writeData hs loc
    obtain ⟨hread, hother⟩ := writeData_sound hone hregs hs loc
    refine ⟨hread, hother, hrenewed.regs, _, rfl, ?_⟩
    rw [readData_sound hone (fun _ => by rw [hrenewed.hostOk, State.hostOk, hhost]; rfl) (fun _ => hrenewed.sound hs)]
    exact ⟨hread, rfl, rfl, rfl⟩
  · obtain ⟨hone, hlow⟩ := granule_dram halign hd
    refine ⟨_, (readData_granule halign hone hlow (length_bytes s a 64) (readGran_weak hd hweak loc)).symm, ?_⟩
    have hcounted := reported_countCe (s.heal a) a
    have hpair : (s.heal a).pair (Reg.DMEM_CE_LO d) = s.pair (Reg.DMEM_CE_LO d) := pair_congr rfl rfl
    dsimp only
    refine ⟨rfl, rfl, rfl, ?_, ?_, reported_mem (s.heal a) hcounted⟩
    · rw [faulty_congr (s := s.heal a) (by rw [hcounted]), heal_faulty]
    · rw [pair_countCe hd, hpair]
  · obtain ⟨hone, hlow⟩ := granule_dram halign hd
    refine ⟨_, (readData_granule halign hone hlow (by simp) (readGran_bad hd hbad loc)).symm, ?_⟩
    dsimp only
    refine ⟨rfl, rfl, rfl, ?_, fun hrec => ?_⟩
    · rw [pair_bump64_same, pair_ueRead_detectDram hd]
    · rw [State.bump64_mem, (marked_detectDram s hrec a false).mem]
  · obtain ⟨hone, hlow, hwords⟩ := granule_cluster halign hi
    have hbadWords : ∀ w ∈ s.badWords a, placeOf w = .cluster i := fun w hw => hwords w (List.mem_of_mem_filter hw)
    refine ⟨_, (readData_granule halign hone hlow (by simp) (readGran_badWords hi hbad loc)).symm, ?_⟩
    dsimp only
    refine ⟨rfl, rfl, rfl, ?_, ((marked_correct s a).trans (marked_detectWords _ loc _)).mem⟩
    rw [rn_sramUe_detectWords hbadWords, State.correct, hi]
    simp only [rn_sramUe_correctWords hwords]
  · rw [readData_fails hn (.inl h)]
    exact ⟨rfl, rfl⟩

end Sys2Proof.Proofs
end

section
/-!
PROOFS. Retirement of frames and banks, stack temperature and patrol scrubbing (R167, R169, R173, R175, R176, R178).
-/

namespace Sys2Proof.Machine

variable {s : State}

/-! Retirement. -/

theorem die_of_frameOfDie {d : Nat} {v : Word} (h : frameOfDie d v = true) : bitsAt v.toNat 22 2 = d := by
  simp only [frameOfDie, Bool.and_eq_true, beq_iff_eq] at h
  exact h.1.2

theorem reported_retireBank (s : State) (d ch k : Nat) : Reported s (s.retireBank d ch k) := by
  unfold State.retireBank
  split
  · exact .refl s
  · exact (((reported_setReg s _ _).trans (reported_setReg _ _ _)).trans (reported_raise _ _ _)).trans
      (report_spec _ _ _ _ _ _)

theorem reported_showRetired (s : State) (d : Nat) : Reported s (s.showRetired d) := by
  unfold State.showRetired
  dsimp only
  split
  · exact ((reported_setReg s _ _).trans (reported_setReg _ _ _)).trans (reported_raise _ _ _)
  · exact reported_setReg s _ _

theorem reported_checkBank (s : State) (f : Nat) : Reported s (s.checkBank f) := by
  unfold State.checkBank
  split
  · exact reported_retireBank s _ _ _
  · exact .refl s

/-- The bank that a frame's retirement takes out of use is the frame's. -/
theorem bankRetired_retireBank (s : State) (f : Nat) :
    (s.retireBank (bitsAt f 22 2) (bitsAt f 17 5) (bankOf f)).bankRetired f = true := by
  unfold State.retireBank
  split
  · next h => exact h
  · obtain ⟨hch, hbank⟩ := bank_lt f
    have hdie : bitsAt f 22 2 < 4 := bitsAt_lt f 22 2
    have hi : bankNo (bitsAt f 17 5) (bankOf f) / 32 ≤ 64 := by unfold bankNo; omega
    unfold State.bankRetired State.loseBank
    dsimp only
    rw [← bankNo]
    generalize hb : Reg.DMEM_BANKRETi (bitsAt f 22 2) (bankNo (bitsAt f 17 5) (bankOf f) / 32) = b
    have hapart : b ≠ Reg.DMEM_INT_STATUS (bitsAt f 22 2) ∧ b ≠ Reg.DMEM_RET_BANKS (bitsAt f 22 2) ∧ ¬ SnapReg b := by
      simp only [← hb, SnapReg, Reg.DMEM_BANKRETi, Reg.DMEM_INT_STATUS, Reg.DMEM_RET_BANKS, dieBase]
      omega
    obtain ⟨hint, hbanks, hsnap⟩ := hapart
    rw [rbit_congr ((reg_report hsnap _ _ _ _ _).trans ((reg_raise_other _ _ hint).trans (reg_bump_other _ _ hbanks))),
      rbit_setBit s _ _ (Nat.mod_lt _ (by decide)), if_pos rfl]

/-- With a full table the frame's bank retires (R175). -/
theorem retireFrame_full {f : Nat} (hgone : s.frameGone f = false) (hfull : 4096 ≤ (s.retiredOf (bitsAt f 22 2)).length) :
    s.retireFrame f = (s.forgetFrame f).retireBank (bitsAt f 22 2) (bitsAt f 17 5) (bankOf f) := by
  rw [State.retireFrame, hgone, if_neg Bool.false_ne_true, if_pos hfull]

/-- With room in the table the frame joins it, and its bank is looked at (R173). -/
theorem retireFrame_joins {f : Nat} (hgone : s.frameGone f = false) (hroom : (s.retiredOf (bitsAt f 22 2)).length < 4096) :
    s.retireFrame f = ((s.listRetired f).showRetired (bitsAt f 22 2)).checkBank f := by
  rw [State.retireFrame, hgone, if_neg Bool.false_ne_true, if_neg (by omega)]

theorem reported_joins (s : State) (f : Nat) :
    Reported (s.listRetired f) (((s.listRetired f).showRetired (bitsAt f 22 2)).checkBank f) :=
  (reported_showRetired _ _).trans (reported_checkBank _ _)

theorem length_retiredOf_listRetired (s : State) (f : Nat) :
    ((s.listRetired f).retiredOf (bitsAt f 22 2)).length = (s.retiredOf (bitsAt f 22 2)).length + 1 := by
  simp [State.retiredOf, State.listRetired, List.filter_append]

theorem rn_retFrames_retireFrame {f : Nat} (hgone : s.frameGone f = false)
    (hroom : (s.retiredOf (bitsAt f 22 2)).length < 4096) :
    (s.retireFrame f).rn (Reg.DMEM_RET_FRAMES (bitsAt f 22 2)) = (s.retiredOf (bitsAt f 22 2)).length + 1 := by
  have hdie : bitsAt f 22 2 < 4 := bitsAt_lt f 22 2
  have hbank : ¬ BankReg (bitsAt f 22 2) (Reg.DMEM_RET_FRAMES (bitsAt f 22 2)) := by
    simp only [BankReg, SnapReg, Reg.DMEM_INT_STATUS, Reg.DMEM_RET_BANKS, Reg.DMEM_BANKRETi, Reg.DMEM_RET_FRAMES, dieBase]
    omega
  have hint : Reg.DMEM_RET_FRAMES (bitsAt f 22 2) ≠ Reg.DMEM_INT_STATUS (bitsAt f 22 2) := fun he => hbank (.inl he)
  have hstatus : Reg.DMEM_RET_FRAMES (bitsAt f 22 2) ≠ Reg.DMEM_STATUS (bitsAt f 22 2) := by
    simp only [Reg.DMEM_RET_FRAMES, Reg.DMEM_STATUS]; omega
  have hshown : ((s.listRetired f).showRetired (bitsAt f 22 2)).reg (Reg.DMEM_RET_FRAMES (bitsAt f 22 2)) =
      BitVec.ofNat 32 ((s.retiredOf (bitsAt f 22 2)).length + 1) := by
    unfold State.showRetired
    dsimp only
    split
    · rw [reg_raise_other _ _ hint, reg_setBit_other _ _ _ hstatus, reg_setN, if_pos rfl, length_retiredOf_listRetired]
    · rw [reg_setN, if_pos rfl, length_retiredOf_listRetired]
  rw [retireFrame_joins hgone hroom, State.rn, reg_checkBank hbank, hshown, BitVec.toNat_ofNat]
  omega

/-- A bank that has lost its threshold of frames, this one included, retires (R173). -/
theorem bankRetired_retireFrame {f : Nat} (hgone : s.frameGone f = false)
    (hroom : (s.retiredOf (bitsAt f 22 2)).length < 4096)
    (hlost : max 1 (s.fld (Reg.DMEM_BANK_THRESH (bitsAt f 22 2)) 0 8) ≤ (s.listRetired f).bankLosses f) :
    (s.retireFrame f).bankRetired f = true := by
  have hdie : bitsAt f 22 2 < 4 := bitsAt_lt f 22 2
  have hshown := reported_showRetired (s.listRetired f) (bitsAt f 22 2)
  have hthresh : ¬ RetireReg (bitsAt f 22 2) (Reg.DMEM_BANK_THRESH (bitsAt f 22 2)) := by
    simp only [RetireReg, BankReg, SnapReg, Reg.DMEM_STATUS, Reg.DMEM_INT_STATUS, Reg.DMEM_RET_BANKS, Reg.DMEM_BANKRETi,
      Reg.DMEM_RET_FRAMES, Reg.DMEM_BANK_THRESH, dieBase]
    omega
  have hlosses : ((s.listRetired f).showRetired (bitsAt f 22 2)).bankLosses f = (s.listRetired f).bankLosses f := by
    rw [State.bankLosses, hshown]; rfl
  have hfld : ((s.listRetired f).showRetired (bitsAt f 22 2)).fld (Reg.DMEM_BANK_THRESH (bitsAt f 22 2)) 0 8 =
      s.fld (Reg.DMEM_BANK_THRESH (bitsAt f 22 2)) 0 8 :=
    (fld_congr (s := s.listRetired f) (reg_showRetired hthresh) 0 8).trans (fld_congr (s := s) rfl 0 8)
  rw [retireFrame_joins hgone hroom, State.checkBank, hfld, hlosses, if_pos hlost]
  exact bankRetired_retireBank _ f

/-! Stack temperature (R176). -/

theorem reg_stackTemp {d : Nat} (x : Nat) :
    (s.stackTemp d x).reg (Reg.DMEM_TEMP d) = BitVec.ofNat 32 (min x 255 + refreshCode x * 2 ^ 16) := by
  have hint : Reg.DMEM_TEMP d ≠ Reg.DMEM_INT_STATUS d := by simp only [Reg.DMEM_TEMP, Reg.DMEM_INT_STATUS]; omega
  unfold State.stackTemp
  dsimp only
  split
  · rw [reg_setN, if_pos rfl]
  · rw [reg_raise_other _ _ hint, reg_setN, if_pos rfl]

theorem refreshCode_lt (x : Nat) : refreshCode x < 3 := by
  unfold refreshCode
  split_ifs <;> decide

/-- TEMP and the refresh code of a reading. -/
theorem fld_stackTemp {d : Nat} (x : Nat) : (s.stackTemp d x).fld (Reg.DMEM_TEMP d) 0 8 = min x 255 ∧
    (s.stackTemp d x).fld (Reg.DMEM_TEMP d) 16 2 = refreshCode x := by
  have hcode := refreshCode_lt x
  simp only [State.fld, State.rn, reg_stackTemp, BitVec.toNat_ofNat, bitsAt, Nat.shiftRight_eq_div_pow]
  omega

theorem stackTemp_spec (s : State) (d x : Nat) :
    (refreshCode x ≠ s.fld (Reg.DMEM_TEMP d) 16 2 → (s.stackTemp d x).rbit (Reg.DMEM_INT_STATUS d) 0 = true) ∧
    OnlyRegsIrq [Reg.DMEM_TEMP d, Reg.DMEM_INT_STATUS d] s (s.stackTemp d x) := by
  have hset : OnlyRegsIrq [Reg.DMEM_TEMP d, Reg.DMEM_INT_STATUS d] s
      (s.setN (Reg.DMEM_TEMP d) (min x 255 + refreshCode x * 2 ^ 16)) :=
    (onlyRegs_setReg_mem s (List.mem_cons_self ..) _).irq
  unfold State.stackTemp
  dsimp only
  split
  · next h => exact ⟨fun hne => absurd h hne, hset⟩
  · obtain ⟨hbit, -, hraised⟩ := raise_spec (s.setN (Reg.DMEM_TEMP d) (min x 255 + refreshCode x * 2 ^ 16))
      (Reg.DMEM_INT_STATUS d) 0 (by decide)
    exact ⟨fun _ => hbit, hset.trans (hraised.mono (by simp))⟩

/-! Patrol scrubbing (R176). -/

theorem placeOf_scrubbed {d ofs : Nat} (hd : d < 4) (hofs : ofs < 0xC00000000) :
    placeOf (dramBase d + ofs / 64 * 64) = .dram d := by
  rw [placeOf_dram_iff]
  unfold dramBase
  omega

/-- The part with SCRUBBING as the scrub of an offset leaves it. -/
def State.scrubbing (s : State) (d ofs : Nat) : State :=
  s.setBit (Reg.DMEM_STATUS d) 3 (decide (ofs / 64 * 64 < s.lastScrub d))

theorem onlyRegs_setBit (s : State) (a i : Nat) (b : Bool) : OnlyRegs [a] s (s.setBit a i b) :=
  onlyRegs_setReg_mem s (List.mem_cons_self ..) _

theorem onlyRegs_scrubbing (s : State) (d ofs : Nat) : OnlyRegs [Reg.DMEM_STATUS d] s (s.scrubbing d ofs) := by
  unfold State.scrubbing
  exact onlyRegs_setBit s _ _ _

theorem sameCells_scrubbing (s : State) (d ofs : Nat) : SameCells s (s.scrubbing d ofs) := by
  rw [(onlyRegs_scrubbing s d ofs).2]
  exact ⟨rfl, rfl, rfl⟩

theorem rbit_scrubbing (s : State) (d ofs : Nat) :
    (s.scrubbing d ofs).rbit (Reg.DMEM_STATUS d) 3 = decide (ofs / 64 * 64 < s.lastScrub d) := by
  rw [State.scrubbing, rbit_setBit s 3 _ (by decide), if_pos rfl]

theorem doPatrolScrub_none {d : Fin 4} {ofs : Nat} (h : s.rbit (Reg.DMEM_STATUS d) 2 = true ∨
    s.fld (Reg.DMEM_SCRUB d) 0 8 = 0 ∨ 0xC00000000 ≤ ofs) : doPatrolScrub d ofs s = s := by
  unfold doPatrolScrub
  dsimp only
  refine if_pos ?_
  rcases h with h | h | h <;> simp [h]

/-- The demand read of the scrubbed granule: it is corrected, or detected. -/
def State.scrubGran (s : State) (a : Nat) : State :=
  if (s.correct a).granBad a then (s.correct a).detectDram a false else s.correct a

theorem doPatrolScrub_reads {d : Fin 4} {ofs a : Nat} (hself : s.rbit (Reg.DMEM_STATUS d) 2 = false)
    (hhours : s.fld (Reg.DMEM_SCRUB d) 0 8 ≠ 0) (hofs : ofs < 0xC00000000)
    (hch : s.rbit (Reg.DMEM_CH_OK d) (channelOf a) = true) (ha : a = dramBase d + ofs / 64 * 64) :
    doPatrolScrub d ofs s = (s.scrubbing d ofs).scrubGran a := by
  subst ha
  unfold doPatrolScrub State.scrubGran State.scrubbing
  dsimp only
  rw [if_neg (by simp [hself, hhours, hch, Nat.not_le.2 hofs])]

section Scrub

variable {a d : Nat} (hd : placeOf a = .dram d)
include hd

theorem correct_of_not_weak (hweak : s.granWeak a = false) : s.correct a = s := by
  rw [State.correct, hd]
  exact if_neg (Bool.eq_false_iff.1 hweak)

theorem scrubGran_sound (hbad : s.granBad a = false) (hweak : s.granWeak a = false) : s.scrubGran a = s := by
  rw [State.scrubGran, correct_of_not_weak hd hweak, hbad, if_neg Bool.false_ne_true]

theorem scrubGran_weak (hweak : s.granWeak a = true) : s.scrubGran a = (s.heal a).countCe a := by
  have hcorrect : s.correct a = (s.heal a).countCe a := by
    rw [State.correct, hd]
    exact if_pos hweak
  rw [State.scrubGran, hcorrect, granBad_corrected hweak, if_neg Bool.false_ne_true]

theorem scrubGran_bad (hbad : s.granBad a = true) : s.scrubGran a = s.detectDram a false := by
  rw [State.scrubGran, correct_of_not_weak hd (granWeak_of_granBad hbad), hbad, if_pos rfl]

end Scrub

theorem SameCells.granWeak {t : State} (h : SameCells s t) (a : Nat) : t.granWeak a = s.granWeak a := by
  obtain ⟨-, hcond, hcis⟩ := h
  rw [State.granWeak, State.granWeak, faulty_congr hcond, listed_congr hcis]

theorem detectDram_listed {a : Nat} (hlisted : s.listed a = true) (ctl : Bool) : s.detectDram a ctl = s := if_pos hlisted

/-! A first detection (R169, R173). -/

theorem rbit_raise_of_set {a i b j : Nat} (hi : i < 32) (h : s.rbit a j = true) : (s.raise b i).rbit a j = true := by
  obtain ⟨hset, hsame, hother, -, -⟩ := raise_spec s b i hi
  by_cases hab : a = b
  · subst hab
    by_cases hji : j = i
    · subst hji; exact hset
    · rw [hsame j (by simpa using hji), h]
  · rw [rbit_congr (hother a (by simpa using hab)), h]

theorem rbit_count_of_set {a b st i j n : Nat} (hi : i < 32) (hne : a ≠ b) (h : s.rbit a j = true) :
    (s.count b n st i).rbit a j = true := by
  have hbump : (s.bump b n).rbit a j = true := by rw [rbit_congr (reg_bump_other s n hne), h]
  unfold State.count
  dsimp only
  split
  · exact rbit_raise_of_set hi hbump
  · exact hbump

/-- Retiring a frame leaves SCRUBBING as it is. -/
theorem rbit_status_retireFrame (s : State) (f d : Nat) :
    (s.retireFrame f).rbit (Reg.DMEM_STATUS d) 3 = s.rbit (Reg.DMEM_STATUS d) 3 := by
  obtain ⟨hch, hbank⟩ := bank_lt f
  have hdie : bitsAt f 22 2 < 4 := bitsAt_lt f 22 2
  have hlost : ¬ BankReg (bitsAt f 22 2) (Reg.DMEM_STATUS d) := by
    simp only [BankReg, SnapReg, Reg.DMEM_STATUS, Reg.DMEM_INT_STATUS, Reg.DMEM_RET_BANKS, Reg.DMEM_BANKRETi, dieBase]
    omega
  have hint : Reg.DMEM_STATUS d ≠ Reg.DMEM_INT_STATUS (bitsAt f 22 2) := fun he => hlost (.inl he)
  have hframes : Reg.DMEM_STATUS d ≠ Reg.DMEM_RET_FRAMES (bitsAt f 22 2) := by
    simp only [Reg.DMEM_STATUS, Reg.DMEM_RET_FRAMES, dieBase]; omega
  have hset : ∀ (t : State) (n : Nat), (t.setN (Reg.DMEM_RET_FRAMES (bitsAt f 22 2)) n).rbit (Reg.DMEM_STATUS d) 3 =
      t.rbit (Reg.DMEM_STATUS d) 3 := fun t n => rbit_congr (by rw [reg_setN, if_neg hframes]) _
  have hshown : ∀ t : State, (t.showRetired (bitsAt f 22 2)).rbit (Reg.DMEM_STATUS d) 3 = t.rbit (Reg.DMEM_STATUS d) 3 :=
    fun t => by
      unfold State.showRetired
      dsimp only
      split
      · rw [rbit_congr (reg_raise_other _ _ hint)]
        by_cases hd : d = bitsAt f 22 2
        · rw [← hd] at hset ⊢
          rw [rbit_setBit _ 3 _ (by decide), if_neg (by decide), hset]
        · rw [rbit_congr (reg_setBit_other _ _ _ (by simp only [Reg.DMEM_STATUS, dieBase]; omega)), hset]
      · exact hset t _
  unfold State.retireFrame
  split
  · rfl
  · split
    · exact (rbit_congr (reg_retireBank hch hbank hlost) _).trans (rbit_congr rfl _)
    · exact ((rbit_congr (reg_checkBank hlost) _).trans (hshown _)).trans (rbit_congr rfl _)

/-- A retirement keeps every interrupt of its die that is set. -/
theorem rbit_int_retireBank {d ch k j : Nat} (hch : ch < 32) (hk : k < 96) (h : s.rbit (Reg.DMEM_INT_STATUS d) j = true) :
    (s.retireBank d ch k).rbit (Reg.DMEM_INT_STATUS d) j = true := by
  have hi : bankNo ch k / 32 ≤ 64 := by unfold bankNo; omega
  have hapart : Reg.DMEM_INT_STATUS d ≠ Reg.DMEM_BANKRETi d (bankNo ch k / 32) ∧
      Reg.DMEM_INT_STATUS d ≠ Reg.DMEM_RET_BANKS d ∧ ¬ SnapReg (Reg.DMEM_INT_STATUS d) := by
    simp only [SnapReg, Reg.DMEM_BANKRETi, Reg.DMEM_INT_STATUS, Reg.DMEM_RET_BANKS, dieBase]
    omega
  obtain ⟨hbit, hbanks, hsnap⟩ := hapart
  unfold State.retireBank State.loseBank
  split
  · exact h
  · rw [rbit_congr (reg_report hsnap _ _ _ _ _)]
    exact rbit_raise_of_set (by decide)
      ((rbit_congr ((reg_bump_other _ _ hbanks).trans (reg_setBit_other _ _ _ hbit)) _).trans h)

theorem rbit_int_showRetired {d j : Nat} (h : s.rbit (Reg.DMEM_INT_STATUS d) j = true) :
    (s.showRetired d).rbit (Reg.DMEM_INT_STATUS d) j = true := by
  have hapart : Reg.DMEM_INT_STATUS d ≠ Reg.DMEM_STATUS d ∧ Reg.DMEM_INT_STATUS d ≠ Reg.DMEM_RET_FRAMES d := by
    simp only [Reg.DMEM_INT_STATUS, Reg.DMEM_STATUS, Reg.DMEM_RET_FRAMES]
    omega
  obtain ⟨hstatus, hframes⟩ := hapart
  have hset : (s.setN (Reg.DMEM_RET_FRAMES d) (s.retiredOf d).length).rbit (Reg.DMEM_INT_STATUS d) j = true :=
    (rbit_congr (by rw [reg_setN, if_neg hframes]) _).trans h
  unfold State.showRetired
  dsimp only
  split
  · exact rbit_raise_of_set (by decide) ((rbit_congr (reg_setBit_other _ _ _ hstatus) _).trans hset)
  · exact hset

theorem rbit_int_retireFrame {f j : Nat} (h : s.rbit (Reg.DMEM_INT_STATUS (bitsAt f 22 2)) j = true) :
    (s.retireFrame f).rbit (Reg.DMEM_INT_STATUS (bitsAt f 22 2)) j = true := by
  obtain ⟨hch, hbank⟩ := bank_lt f
  have hforget : (s.forgetFrame f).rbit (Reg.DMEM_INT_STATUS (bitsAt f 22 2)) j = true := (rbit_congr rfl _).trans h
  have hlisted : (s.listRetired f).rbit (Reg.DMEM_INT_STATUS (bitsAt f 22 2)) j = true := (rbit_congr rfl _).trans h
  unfold State.retireFrame State.checkBank
  split
  · exact hforget
  · split
    · exact rbit_int_retireBank hch hbank hforget
    · split
      · exact rbit_int_retireBank hch hbank (rbit_int_showRetired hlisted)
      · exact rbit_int_showRetired hlisted

/-! The frames that are held. -/

section Held

variable {t : State} (hch : ∀ d, t.reg (Reg.DMEM_CH_OK d) = s.reg (Reg.DMEM_CH_OK d))
include hch

theorem liveChannels_congr (d : Nat) : t.liveChannels d = s.liveChannels d := by
  simp only [State.liveChannels, rbit_congr (hch d)]

theorem weightPieces_congr (addr off n : Nat) : t.weightPieces addr off n = s.weightPieces addr off n := by
  simp only [State.weightPieces, State.livePlace, State.liveFrame, liveChannels_congr hch]

theorem weightMeets_congr (w : Weight) (a n : Nat) : t.weightMeets w a n = s.weightMeets w a n := by
  simp only [State.weightMeets, weightPieces_congr hch]

/-- Marking weights DAMAGED does not change which frames are held. -/
theorem frameHeld_congr {g : Weight → Bool} (hstruct : t.structure_ = s.structure_) (hpools : t.pools = s.pools)
    (hweights : t.weights = s.weights.map (fun w => if g w then { w with damaged := true } else w)) (f : Nat) :
    t.frameHeld f = s.frameHeld f := by
  have hmeets : ∀ w : Weight, s.weightMeets (if g w then { w with damaged := true } else w) (frameAddr f) 0x4000 =
      s.weightMeets w (frameAddr f) 0x4000 := fun w => by split <;> rfl
  simp only [State.frameHeld, State.inCarve, State.channels, hstruct, hpools, hweights, liveChannels_congr hch, List.any_map,
    Function.comp_def, weightMeets_congr hch, hmeets]
  rfl

end Held

/-! What a first detection counts, and the granule it lists. -/

theorem reported_noteUe (s : State) (a : Nat) (ctl : Bool) : Reported (s.listBad a) (s.noteUe a ctl) :=
  ((((((reported_setPair _ _ _).trans (reported_setPair _ _ _)).trans (reported_raise _ _ _)).trans
    (reported_count _ _ _ _ _)).trans (reported_raise _ _ _))).trans (report_spec _ _ _ _ _ _)

theorem listBad_eq (s : State) (a : Nat) : s.listBad a = { s.putBad a with mem := (s.listBad a).mem } := dropIndex_eq _ _

theorem listed_noteUe (s : State) (a : Nat) (ctl : Bool) : (s.noteUe a ctl).listed a = true := by
  have hcis : (s.noteUe a ctl).cisterns = (s.putBad a).cisterns := by rw [reported_noteUe, listBad_eq]
  have hlast : ((s.putBad a).cis (cisternOf a)).bad = keepLast 32 ((s.cis (cisternOf a)).bad ++ [a]) := by
    simp only [State.putBad, State.setCis, State.cis, AMap.read_write_same]
  rw [listed_congr hcis, State.listed, hlast, keepLast, List.drop_append_of_le_length (by simp), List.contains_iff_mem]
  exact List.mem_append_right _ (List.mem_singleton.2 rfl)

section Counts

variable {d e a : Nat} (he : e / 32 = d)
include he

theorem pair_ue_countUe : (s.countUe d e a).pair (Reg.DMEM_UE_LO d) = (s.pair (Reg.DMEM_UE_LO d) + 1) % 2 ^ 64 := by
  have hreg : ∀ k, k = 0 ∨ k = 4 → (s.countUe d e a).reg (Reg.DMEM_UE_LO d + k) =
      (s.bump64 (Reg.DMEM_UE_LO d) 1).reg (Reg.DMEM_UE_LO d + k) := fun k hk => by
    have hapart : Reg.DMEM_UE_LO d + 4 < Reg.DMEM_LAST_UE_LO d ∧ Reg.DMEM_INT_STATUS d < Reg.DMEM_UE_LO d ∧
        Reg.DMEM_UE_LO d + 4 < Reg.CIS_UE e ∧ Reg.DMEM_UE_LO d + 4 < Reg.CIS_INT_STATUS e := by
      simp only [Reg.DMEM_UE_LO, Reg.DMEM_LAST_UE_LO, Reg.DMEM_INT_STATUS, Reg.CIS_UE, Reg.CIS_INT_STATUS, cisBase, dieBase]
      omega
    obtain ⟨hlast, hint, hue, hcint⟩ := hapart
    rw [State.countUe, reg_raise_other _ _ (by omega), reg_count_other _ _ (by omega) (by omega),
      reg_raise_other _ _ (by omega), reg_setPair_other _ _ (by omega) (by omega)]
  exact (pair_congr (hreg 0 (.inl rfl)) (hreg 4 (.inr rfl))).trans (pair_bump64_same s _ _)

theorem pair_lastUe_countUe (ha : a < 2 ^ 64) : (s.countUe d e a).pair (Reg.DMEM_LAST_UE_LO d) = a := by
  have hreg : ∀ k, k = 0 ∨ k = 4 → (s.countUe d e a).reg (Reg.DMEM_LAST_UE_LO d + k) =
      ((s.bump64 (Reg.DMEM_UE_LO d) 1).setPair (Reg.DMEM_LAST_UE_LO d) a).reg (Reg.DMEM_LAST_UE_LO d + k) := fun k hk => by
    have hapart : Reg.DMEM_INT_STATUS d < Reg.DMEM_LAST_UE_LO d ∧
        Reg.DMEM_LAST_UE_LO d + 4 < Reg.CIS_UE e ∧ Reg.DMEM_LAST_UE_LO d + 4 < Reg.CIS_INT_STATUS e := by
      simp only [Reg.DMEM_LAST_UE_LO, Reg.DMEM_INT_STATUS, Reg.CIS_UE, Reg.CIS_INT_STATUS, cisBase, dieBase]
      omega
    obtain ⟨hint, hue, hcint⟩ := hapart
    rw [State.countUe, reg_raise_other _ _ (by omega), reg_count_other _ _ (by omega) (by omega), reg_raise_other _ _ (by omega)]
  exact ((pair_congr (hreg 0 (.inl rfl)) (hreg 4 (.inr rfl))).trans (pair_setPair_same _ _ _)).trans (Nat.mod_eq_of_lt ha)

theorem rbit_int_countUe : (s.countUe d e a).rbit (Reg.DMEM_INT_STATUS d) 1 = true := by
  have hue : Reg.DMEM_INT_STATUS d ≠ Reg.CIS_UE e := by
    simp only [Reg.DMEM_INT_STATUS, Reg.CIS_UE, cisBase, dieBase]
    omega
  rw [State.countUe]
  refine rbit_raise_of_set (by decide) (rbit_count_of_set (by decide) hue ?_)
  exact (raise_spec _ _ 1 (by decide)).1

end Counts

section Detect

variable {a d : Nat} (hd : placeOf a = .dram d)
include hd

theorem rbit_status_detectDram (ctl : Bool) :
    (s.detectDram a ctl).rbit (Reg.DMEM_STATUS d) 3 = s.rbit (Reg.DMEM_STATUS d) 3 := by
  obtain ⟨hlt, he, hch⟩ := dram_lt hd
  have hdie : a / 0x1000000000 = d := (placeOf_dram_iff.1 hd).2.2
  have hapart : ¬ DetectReg (a / 0x1000000000) (cisternOf a) (Reg.DMEM_STATUS d) := by
    rw [hdie]
    simp only [DetectReg, SnapReg, Reg.DMEM_STATUS, Reg.DMEM_INT_STATUS, Reg.DMEM_UE_LO, Reg.DMEM_LAST_UE_LO, Reg.CIS_UE,
      Reg.CIS_INT_STATUS, cisBase, dieBase, he]
    omega
  have hnote : (s.noteUe a ctl).rbit (Reg.DMEM_STATUS d) 3 = s.rbit (Reg.DMEM_STATUS d) 3 :=
    rbit_congr (reg_noteUe hapart ctl) _
  unfold State.detectDram
  split
  · rfl
  · split
    · exact hnote
    · rw [rbit_status_retireFrame, hnote]

theorem chOk_noteUe (ctl : Bool) (d' : Nat) : (s.noteUe a ctl).reg (Reg.DMEM_CH_OK d') = s.reg (Reg.DMEM_CH_OK d') := by
  obtain ⟨hlt, he, hch⟩ := dram_lt hd
  have hdie : a / 0x1000000000 = d := (placeOf_dram_iff.1 hd).2.2
  refine reg_noteUe ?_ ctl
  rw [hdie]
  simp only [DetectReg, SnapReg, Reg.DMEM_CH_OK, Reg.DMEM_INT_STATUS, Reg.DMEM_UE_LO, Reg.DMEM_LAST_UE_LO, Reg.CIS_UE,
    Reg.CIS_INT_STATUS, cisBase, dieBase, he]
  omega

/-- Listing a granule does not change which frames are held. -/
theorem frameHeld_noteUe (ctl : Bool) (f : Nat) : (s.noteUe a ctl).frameHeld f = s.frameHeld f := by
  have hweights : (s.noteUe a ctl).weights = (s.putBad a).weights := by rw [reported_noteUe, listBad_eq]
  have hkeeps := (stored_noteUe s a ctl).2
  exact frameHeld_congr (g := fun w => s.weightMeets w a 64) (chOk_noteUe hd ctl) (by rw [hkeeps]) (by rw [hkeeps]) hweights f

omit hd in
theorem snapReg_apart : ¬ SnapReg (Reg.DMEM_UE_LO d) ∧ ¬ SnapReg (Reg.DMEM_UE_LO d + 4) ∧
    ¬ SnapReg (Reg.DMEM_LAST_UE_LO d) ∧ ¬ SnapReg (Reg.DMEM_LAST_UE_LO d + 4) ∧ ¬ SnapReg (Reg.DMEM_INT_STATUS d) := by
  simp only [SnapReg, Reg.DMEM_UE_LO, Reg.DMEM_LAST_UE_LO, Reg.DMEM_INT_STATUS, dieBase]
  omega

/-- A first detection counts once, shows its address and raises the interrupt (R169). -/
theorem counts_noteUe (ctl : Bool) :
    (s.noteUe a ctl).pair (Reg.DMEM_UE_LO d) = (s.pair (Reg.DMEM_UE_LO d) + 1) % 2 ^ 64 ∧
    (s.noteUe a ctl).pair (Reg.DMEM_LAST_UE_LO d) = a ∧ (s.noteUe a ctl).rbit (Reg.DMEM_INT_STATUS d) 1 = true := by
  obtain ⟨hlt, he, hch⟩ := dram_lt hd
  obtain ⟨hlow, -, hdie⟩ := placeOf_dram_iff.1 hd
  obtain ⟨hue, hue4, hlast, hlast4, hint⟩ := snapReg_apart (d := d)
  have heng : cisternOf a / 32 = d := by omega
  have hpair : (s.listBad a).pair (Reg.DMEM_UE_LO d) = s.pair (Reg.DMEM_UE_LO d) :=
    pair_congr (reg_of_regs (regs_listBad s a) _) (reg_of_regs (regs_listBad s a) _)
  rw [State.noteUe, hdie]
  refine ⟨?_, ?_, ?_⟩
  · rw [pair_congr (reg_report hue _ _ _ _ _) (reg_report hue4 _ _ _ _ _), pair_ue_countUe heng, hpair]
  · rw [pair_congr (reg_report hlast _ _ _ _ _) (reg_report hlast4 _ _ _ _ _), pair_lastUe_countUe heng (by omega)]
  · rw [rbit_congr (reg_report hint _ _ _ _ _), rbit_int_countUe heng]

theorem counts_detectDram (hlisted : s.listed a = false) (ctl : Bool) :
    (s.detectDram a ctl).pair (Reg.DMEM_UE_LO d) = (s.pair (Reg.DMEM_UE_LO d) + 1) % 2 ^ 64 ∧
    (s.detectDram a ctl).pair (Reg.DMEM_LAST_UE_LO d) = a ∧ (s.detectDram a ctl).rbit (Reg.DMEM_INT_STATUS d) 1 = true := by
  have hret : ∀ k, (k = Reg.DMEM_UE_LO d ∨ k = Reg.DMEM_UE_LO d + 4 ∨ k = Reg.DMEM_LAST_UE_LO d ∨
      k = Reg.DMEM_LAST_UE_LO d + 4) → ¬ RetireReg (bitsAt (frameOf a) 22 2) k := by
    rw [frameOf_die hd]
    simp only [RetireReg, BankReg, SnapReg, Reg.DMEM_UE_LO, Reg.DMEM_LAST_UE_LO, Reg.DMEM_STATUS, Reg.DMEM_INT_STATUS,
      Reg.DMEM_RET_FRAMES, Reg.DMEM_RET_BANKS, Reg.DMEM_BANKRETi, dieBase]
    omega
  obtain ⟨hue, hlast, hint⟩ := counts_noteUe (s := s) hd ctl
  unfold State.detectDram
  rw [if_neg (by rw [← State.listed, hlisted]; exact Bool.false_ne_true)]
  split
  · exact ⟨hue, hlast, hint⟩
  · refine ⟨?_, ?_, ?_⟩
    · rw [pair_congr (reg_retireFrame (hret _ (by simp))) (reg_retireFrame (hret _ (by simp))), hue]
    · rw [pair_congr (reg_retireFrame (hret _ (by simp))) (reg_retireFrame (hret _ (by simp))), hlast]
    · rw [← frameOf_die hd] at hint ⊢
      exact rbit_int_retireFrame hint

/-- The granule of a held frame stays on the list. -/
theorem listed_detectDram (hheld : s.frameHeld (frameOf a) = true) (ctl : Bool) : (s.detectDram a ctl).listed a = true := by
  unfold State.detectDram
  split
  · next h => exact h
  · rw [frameHeld_noteUe hd, hheld, if_pos rfl]
    exact listed_noteUe s a ctl

/-! The scrubbed granule. -/

theorem rbit_status_scrubGran : (s.scrubGran a).rbit (Reg.DMEM_STATUS d) 3 = s.rbit (Reg.DMEM_STATUS d) 3 := by
  obtain ⟨hlt, he, hch⟩ := dram_lt hd
  have hapart : Reg.DMEM_STATUS d ≠ Reg.CIS_CE (cisternOf a) ∧ Reg.DMEM_STATUS d ≠ Reg.CIS_INT_STATUS (cisternOf a) ∧
      Reg.DMEM_STATUS d ≠ Reg.DMEM_CE_LO d ∧ Reg.DMEM_STATUS d ≠ Reg.DMEM_CE_LO d + 4 := by
    simp only [Reg.DMEM_STATUS, Reg.DMEM_CE_LO, Reg.CIS_CE, Reg.CIS_INT_STATUS, cisBase, dieBase, he]
    omega
  obtain ⟨hce, hint, hlo, hhi⟩ := hapart
  cases hbad : s.granBad a with
  | true => rw [scrubGran_bad hd hbad, rbit_status_detectDram hd]
  | false =>
    cases hweak : s.granWeak a with
    | false => rw [scrubGran_sound hd hbad hweak]
    | true =>
      rw [scrubGran_weak hd hweak, State.countCe, hd]
      exact (rbit_congr ((reg_count_other _ _ hce hint).trans (reg_bump64_other _ _ hlo hhi)) _).trans (rbit_congr rfl _)

theorem mem_scrubGran (h : s.granBad a = false ∨ s.listed a = true ∨ s.noRecords) : (s.scrubGran a).mem = s.mem := by
  cases hbad : s.granBad a with
  | true =>
    rw [scrubGran_bad hd hbad]
    rcases h with h | h | h
    · exact absurd hbad (by simp [h])
    · rw [detectDram_listed h]
    · exact (marked_detectDram s h a false).mem
  | false =>
    cases hweak : s.granWeak a with
    | false => rw [scrubGran_sound hd hbad hweak]
    | true =>
      rw [scrubGran_weak hd hweak]
      exact reported_mem (s.heal a) (reported_countCe _ _)

theorem ce_scrubGran (hweak : s.granWeak a = true) : (s.scrubGran a).faulty a = [] ∧
    (s.scrubGran a).pair (Reg.DMEM_CE_LO d) = (s.pair (Reg.DMEM_CE_LO d) + 1) % 2 ^ 64 := by
  rw [scrubGran_weak hd hweak, pair_countCe hd]
  refine ⟨?_, by rw [pair_congr (s := s) (t := s.heal a) rfl rfl]⟩
  have hcond : ((s.heal a).countCe a).cond = (s.heal a).cond := by rw [reported_countCe]
  rw [faulty_congr hcond, heal_faulty]

end Detect

/-- SCRUBBING plays no part in which frames are held. -/
theorem frameHeld_scrubbing (s : State) (d ofs f : Nat) : (s.scrubbing d ofs).frameHeld f = s.frameHeld f := by
  have hregs := onlyRegs_scrubbing s d ofs
  have hok : ∀ d', Reg.DMEM_CH_OK d' ∉ [Reg.DMEM_STATUS d] := fun d' => by
    simp only [Reg.DMEM_CH_OK, Reg.DMEM_STATUS, dieBase, List.mem_singleton]
    omega
  refine frameHeld_congr (g := fun _ => false) (fun d' => hregs.1 _ (hok d')) (by rw [hregs.2]) (by rw [hregs.2]) ?_ f
  simp [show (s.scrubbing d ofs).weights = s.weights by rw [hregs.2]]

theorem stored_scrubGran (s : State) (a : Nat) : Stored s (s.scrubGran a) := by
  unfold State.scrubGran
  split
  · exact (stored_correct s a).trans (stored_detectDram _ _ _)
  · exact stored_correct s a

theorem frameGone_retireFrame {f : Nat} (hgone : s.frameGone f = false)
    (hroom : (s.retiredOf (bitsAt f 22 2)).length < 4096) : (s.retireFrame f).frameGone f = true := by
  have hretired : (s.retireFrame f).retired = s.retired ++ [f] := by
    rw [retireFrame_joins hgone hroom, reported_joins]; rfl
  rw [State.frameGone, hretired]
  simp

end Sys2Proof.Machine
end

section
/-!
PROOFS. The obligation on the upkeep of bonded memory (O32).
-/

namespace Sys2Proof.Proofs
open Sys2Proof Sys2Proof.Machine

/-- Settles O32: each command's effect, with the scrubbed granule sound, correctable or uncorrectable. -/
theorem bondedMemoryIsKept : Obligations.BondedMemoryIsKept := by
  intro s d hr
  have hretire : ∀ v, exec (.dmemRetire d v) s = .next (doDmemRetire d v s) := fun v =>
    exec_of_running (f := doDmemRetire d v) hr rfl
  have htemp : ∀ x, exec (.stackTempRead d x) s = .next (doStackTempRead d x s) := fun x =>
    exec_of_running (f := doStackTempRead d x) hr rfl
  have hscrub : ∀ ofs, exec (.patrolScrub d ofs) s = .next (doPatrolScrub d ofs s) := fun ofs =>
    exec_of_running (f := doPatrolScrub d ofs) hr rfl
  have hfree : ∀ v, frameOfDie d v = true → s.frameGone v.toNat = false → s.frameHeld v.toNat = false →
      exec (.dmemRetire d v) s = .next (s.retireFrame v.toNat) := fun v hv hgone hheld => by
    rw [hretire, doDmemRetire, hv, hgone, hheld]
    rfl
  refine ⟨fun v h => ?_, fun v hv hgone hheld => ?_, fun v hv hgone hheld hfull => ?_, fun v hv hgone hheld hroom => ?_,
    exec_of_running (f := fun t => t) hr rfl, fun x h => ?_, fun x hself htrained => ?_, fun ofs h => ?_,
    fun ofs a hself hhours hofs hch ha => ?_⟩
  · rw [hretire, doDmemRetire]
    rcases h with h | h <;> simp [h]
  · refine ⟨_, hretire v, ?_⟩
    simp only [doDmemRetire, hv, hgone, hheld, Bool.not_true, Bool.false_eq_true, if_false, if_true]
    split
    · next h => exact ⟨rfl, List.contains_iff_mem.1 h, fun _ hf => hf⟩
    · exact ⟨rfl, List.mem_append_right _ (List.mem_singleton.2 rfl), fun _ hf => List.mem_append_left _ hf⟩
  · have hdie := die_of_frameOfDie hv
    have hloss := retireFrame_full hgone (by rw [hdie]; exact hfull)
    have hkeeps := reported_retireBank (s.forgetFrame v.toNat) (bitsAt v.toNat 22 2) (bitsAt v.toNat 17 5) (bankOf v.toNat)
    refine ⟨_, hfree v hv hgone hheld, ?_⟩
    rw [hloss]
    exact ⟨by rw [hkeeps]; rfl, bankRetired_retireBank _ _, by rw [hkeeps]; rfl, by rw [hkeeps]; rfl⟩
  · have hdie := die_of_frameOfDie hv
    rw [← hdie] at hroom ⊢
    have hjoins := retireFrame_joins hgone hroom
    have hkeeps := reported_joins s v.toNat
    refine ⟨_, hfree v hv hgone hheld, ?_, rn_retFrames_retireFrame hgone hroom, ?_, frameGone_retireFrame hgone hroom,
      bankRetired_retireFrame hgone hroom, ?_, ?_, ?_⟩
    · rw [hjoins, hkeeps]; rfl
    · rw [hjoins, hkeeps]
      simp [State.listRetired]
    all_goals rw [hjoins, hkeeps]; rfl
  · rw [htemp, doStackTempRead]
    rcases h with h | h <;> simp [h]
  · obtain ⟨hdegrees, hcode⟩ := fld_stackTemp (s := s) (d := d.val) x
    obtain ⟨hint, hframe⟩ := stackTemp_spec s d x
    refine ⟨_, htemp x, ?_⟩
    rw [doStackTempRead, hself, htrained, if_neg (by decide)]
    exact ⟨hdegrees, hcode, fun hne => hint (hcode ▸ hne), hframe⟩
  · rw [hscrub, doPatrolScrub_none h]
  · have hd : placeOf a = .dram d := ha ▸ placeOf_scrubbed d.isLt hofs
    have hcells := sameCells_scrubbing s d ofs
    have hregs := onlyRegs_scrubbing s d ofs
    have hbad := hcells.granBad a
    have hweak := hcells.granWeak a
    have hlisted : (s.scrubbing d ofs).listed a = s.listed a := listed_congr hcells.2.2 a
    have hpair : ∀ k, Reg.DMEM_STATUS d < k → (s.scrubbing d ofs).pair k = s.pair k := fun k hk =>
      pair_congr (hregs.1 _ (by simp; omega)) (hregs.1 _ (by simp; omega))
    have hcounts : Reg.DMEM_STATUS d < Reg.DMEM_CE_LO d ∧ Reg.DMEM_STATUS d < Reg.DMEM_UE_LO d := by
      simp only [Reg.DMEM_STATUS, Reg.DMEM_CE_LO, Reg.DMEM_UE_LO]; omega
    rw [← hpair _ hcounts.1, ← hpair _ hcounts.2, ← hbad, ← hweak, ← hlisted]
    refine ⟨_, hscrub ofs, ?_⟩
    rw [doPatrolScrub_reads hself hhours hofs hch ha]
    refine ⟨?_, (rbit_status_scrubGran hd).trans (rbit_scrubbing s d ofs), fun h => ?_, fun hb hw => ?_,
      fun hw => ce_scrubGran hd hw, fun hb hl => ?_⟩
    · rw [(stored_scrubGran _ a).2, hregs.2]
    · have hrecs : (s.scrubbing d ofs).streams = s.streams := by rw [hregs.2]
      rw [State.noRecords, ← hrecs] at h
      rw [mem_scrubGran hd h, hcells.1]
    · rw [scrubGran_sound hd hb hw]
      exact hregs
    · rw [scrubGran_bad hd hb]
      obtain ⟨hue, hlast, hint⟩ := counts_detectDram hd hl false
      refine ⟨hue, hlast, hint, fun hheld => listed_detectDram hd ?_ false⟩
      rw [← hheld]
      exact frameHeld_scrubbing s d ofs _

end Sys2Proof.Proofs
end

section
/-!
PROOFS. Pieces of memory: the frames that a cistern engine walks (R155, R162), and reads and stores over sound pieces.
-/

namespace Sys2Proof.Machine

variable {s : State}

/-! The pieces of a range of the engine's channel. -/

/-- Where piece j of a range that begins at offset `off` of a frame begins in its own frame, and where it ends. -/
def runStart (off j : Nat) : Nat := if j = 0 then off else 0
def runLength (off n j : Nat) : Nat := min (off + n) ((j + 1) * 16384) - (if j = 0 then off else j * 16384)

theorem pageRuns_eq {f off n : Nat} (h : off < 16384) : pageRuns f off n =
    (List.range ((off + n + 16383) / 16384)).map (fun j => (frameAddr (f + j) + runStart off j, runLength off n j)) := by
  have hdiv : off / 16384 = 0 := by omega
  have hmod : off % 16384 = off := by omega
  unfold pageRuns
  rw [hmod, hdiv]
  refine List.map_congr_left fun j _ => ?_
  have hat : ∀ lo, lo = (if j = 0 then off else j * 16384) → lo / 16384 = j ∧ lo % 16384 = runStart off j := fun lo hlo => by
    unfold runStart
    split at hlo <;> simp_all
  obtain ⟨hframe, hbyte⟩ := hat _ rfl
  simp only [pageByte, runLength, Nat.zero_add, hframe, hbyte]

theorem runStart_add_runLength {off : Nat} (h : off < 16384) (n j : Nat) : runStart off j + runLength off n j ≤ 16384 := by
  unfold runStart runLength
  split_ifs with hj <;> omega

/-- Together the pieces have the range's length. -/
theorem sum_runLength {off : Nat} (h : off < 16384) (n k : Nat) :
    ((List.range k).map (runLength off n)).sum = min (off + n) (k * 16384) - off := by
  induction k with
  | zero => simp
  | succ k ih =>
    rw [List.range_succ, List.map_append, List.sum_append, ih]
    simp only [List.map_cons, List.map_nil, List.sum_cons, List.sum_nil, runLength]
    split_ifs with hk <;> omega

theorem frameAddr_row {f j : Nat} (h : f % 2 ^ 17 + j < 2 ^ 17) : frameAddr (f + j) = frameAddr f + j * 2 ^ 19 := by
  have hrow : bitsAt (f + j) 0 17 = bitsAt f 0 17 + j := by
    simp only [bitsAt, Nat.shiftRight_eq_div_pow]
    omega
  have hch : bitsAt (f + j) 17 5 = bitsAt f 17 5 := by
    simp only [bitsAt, Nat.shiftRight_eq_div_pow]
    omega
  have hdie : bitsAt (f + j) 22 2 = bitsAt f 22 2 := by
    simp only [bitsAt, Nat.shiftRight_eq_div_pow]
    omega
  simp only [frameAddr, hrow, hch, hdie]
  omega

theorem apart_pageRuns {f off n : Nat} (h : off < 16384) (hrows : f % 2 ^ 17 + (off + n + 16383) / 16384 ≤ 2 ^ 17) :
    Apart (pageRuns f off n) := by
  rw [pageRuns_eq h, Apart, List.pairwise_map]
  refine List.pairwise_lt_range.imp_of_mem fun {i j} hi hj hij => .inl ?_
  have hend := runStart_add_runLength h n i
  rw [List.mem_range] at hi hj
  rw [frameAddr_row (by omega), frameAddr_row (by omega)]
  omega

/-- The pieces of a range in the engine's channel do not meet, and have the range's length. -/
theorem channelRuns_spec {e a n : Nat} (h : inChannel e a n = true) :
    Apart (channelRuns a n) ∧ ((channelRuns a n).map Prod.snd).sum = n := by
  have hoff : a % 16384 < 16384 := Nat.mod_lt _ (by decide)
  simp only [inChannel, Bool.and_eq_true, decide_eq_true_eq] at h
  obtain ⟨-, hrows⟩ := h
  have hrow : frameOf a % 2 ^ 17 ≤ a % 0x1000000000 / 2 ^ 19 := by
    have hlt : a % 0x1000000000 / 2 ^ 19 < 2 ^ 17 := by omega
    unfold frameOf
    omega
  refine ⟨apart_pageRuns hoff (by omega), ?_⟩
  rw [channelRuns, pageRuns_eq hoff, List.map_map]
  exact (sum_runLength hoff n ((a % 16384 + n + 16383) / 16384)).trans (by omega)

/-! Reads and stores over sound pieces. -/

theorem length_runBytes (s : State) (l : List (Nat × Nat)) : (s.runBytes l).length = (l.map Prod.snd).sum := by
  induction l with
  | nil => rfl
  | cons p t ih =>
    rw [State.runBytes] at ih ⊢
    rw [List.flatMap_cons, List.length_append, length_bytes, ih]
    rfl

theorem lt_hostWindow {a : Nat} (hone : placeOf a ≠ .none) (hhost : placeOf a ≠ .host) : a < hostWindow := by
  by_contra hge
  rw [Nat.not_lt] at hge
  unfold hostWindow at hge
  revert hone hhost
  unfold placeOf
  rw [if_neg (by omega), if_neg (by omega), if_neg (by omega), if_neg (by omega), if_neg (by omega)]
  split <;> simp

theorem readRuns_sound {l : List (Nat × Nat)} (h : s.soundRuns l) (loc : Nat) :
    s.readRuns loc l = ⟨s.runBytes l, 0, false, s⟩ := by
  induction l with
  | nil => rfl
  | cons p t ih =>
    obtain ⟨a, n⟩ := p
    have hrest := ih fun q hq => h q (List.mem_cons_of_mem _ hq)
    have hread : s.readData loc a n = ⟨s.bytes a n, 0, false, s⟩ := by
      by_cases hn : n = 0
      · subst hn; rfl
      · obtain ⟨hone, -, hhost, hsound⟩ := h (a, n) (List.mem_cons_self ..) hn
        have hlow : a < hostWindow := lt_hostWindow (by simp only [inOnePlace, Bool.and_eq_true] at hone; simpa using hone.1) hhost
        exact readData_sound hone (fun hge => absurd hlow (Nat.not_lt.2 hge)) (fun _ => hsound) loc
    rw [State.readRuns, hread]
    dsimp only
    rw [hrest]
    rfl

/-- No granule of a sound piece is delivered as zeros. -/
theorem badIn_sound {a n : Nat} (h : n ≠ 0 → s.sound a n) : s.badIn a n = [] := by
  unfold State.badIn
  split
  · rfl
  · rw [List.filter_eq_nil_iff]
    intro g hg
    have hn : n ≠ 0 := by rintro rfl; simp [granulesOf] at hg
    have hgran : s.soundGran g := h hn g hg
    rw [granBad_sound hgran, badWords_sound hgran]
    split <;> simp

theorem Renewed.soundRuns {t : State} (h : Renewed s t) {l : List (Nat × Nat)} (hs : s.soundRuns l) : t.soundRuns l :=
  fun p hp hn => by
    obtain ⟨hone, hregs, hhost, hsound⟩ := hs p hp hn
    exact ⟨hone, hregs, hhost, h.sound hsound⟩

theorem writeRuns_sound {l : List (Nat × Nat)} {b : List Byte} (hs : s.soundRuns l) (hapart : Apart l)
    (hlen : b.length = (l.map Prod.snd).sum) (loc : Nat) : Renewed s (s.writeRuns loc l b) ∧
    (s.writeRuns loc l b).runBytes l = b ∧ SameOutside l s (s.writeRuns loc l b) := by
  induction l generalizing s b with
  | nil => exact ⟨.refl s, (List.length_eq_zero_iff.1 hlen).symm, fun _ _ => rfl⟩
  | cons p t ih =>
    obtain ⟨a, n⟩ := p
    rw [List.map_cons, List.sum_cons] at hlen
    obtain ⟨hfirst, hrest⟩ := List.pairwise_cons.1 hapart
    have htake : (b.take n).length = n := by rw [List.length_take]; omega
    have hstore : Renewed s (s.writeData loc a (b.take n)) ∧ (s.writeData loc a (b.take n)).bytes a n = b.take n ∧
        SameBytes a n s (s.writeData loc a (b.take n)) := by
      by_cases hn : n = 0
      · subst hn; exact ⟨.refl s, rfl, fun _ _ => rfl⟩
      · obtain ⟨hone, hregs, -, hsound⟩ := hs (a, n) (List.mem_cons_self ..) hn
        rw [← htake] at hone hsound
        obtain ⟨hread, hsame⟩ := writeData_sound hone hregs hsound loc
        rw [htake] at hread hsame
        exact ⟨renewed_writeData hsound loc, hread, hsame⟩
    obtain ⟨hrenewed, hread, hsame⟩ := hstore
    have htail : (t.map Prod.snd).sum = (b.drop n).length := by rw [List.length_drop]; omega
    obtain ⟨hrenewed', hread', hsame'⟩ := ih (s := s.writeData loc a (b.take n))
      (hrenewed.soundRuns fun q hq => hs q (List.mem_cons_of_mem _ hq)) hrest htail.symm
    have hkept : (s.writeRuns loc ((a, n) :: t) b).bytes a n = (s.writeData loc a (b.take n)).bytes a n :=
      bytes_congr fun k hlo hhi => hsame' k fun q hq => by
        have hq' := hfirst q hq
        dsimp only at hq'
        omega
    refine ⟨hrenewed.trans hrenewed', ?_, fun k hk => ?_⟩
    · rw [State.runBytes, List.flatMap_cons, hkept, hread]
      exact (congrArg _ hread').trans (List.take_append_drop n b)
    · exact (hsame' k fun q hq => hk q (List.mem_cons_of_mem _ hq)).trans (hsame k (hk (a, n) (List.mem_cons_self ..)))

end Sys2Proof.Machine
end

section
/-!
PROOFS. Work items of the cistern engines (R112, R162 to R165): their order, the work of each, and the start of one.
-/

namespace Sys2Proof.Machine

variable {s : State}

/-! The order of a queue (R164). -/

/-- Item a starts before item b, whichever of the two arrived first. -/
abbrev WorkItem.ahead (a b : WorkItem) : Prop :=
  ((a.ticked && !b.ticked) || (a.ticked == b.ticked && decide (b.prio < a.prio))) = true

theorem WorkItem.first_iff {a b : WorkItem} : a.first b = true ↔
    (b.ticked = true → a.ticked = true) ∧ (a.ticked = b.ticked → b.prio ≤ a.prio) := by
  unfold WorkItem.first
  cases ha : a.ticked <;> cases hb : b.ticked <;> simp

theorem WorkItem.ahead_iff {a b : WorkItem} : a.ahead b ↔
    (b.ticked = true → a.ticked = true) ∧ (a.ticked = b.ticked → b.prio < a.prio) := by
  unfold WorkItem.ahead
  cases ha : a.ticked <;> cases hb : b.ticked <;> simp

theorem WorkItem.ahead_of_not_first {a b : WorkItem} (h : a.first b = false) : b.ahead a := by
  rw [← Bool.not_eq_true, WorkItem.first_iff] at h
  rw [WorkItem.ahead_iff]
  grind

theorem WorkItem.first_of_ahead {a b : WorkItem} (h : a.ahead b) : a.first b = true := by
  rw [WorkItem.ahead_iff] at h
  exact WorkItem.first_iff.2 ⟨h.1, fun ht => (h.2 ht).le⟩

theorem WorkItem.first_trans {a b c : WorkItem} (h1 : a.first b = true) (h2 : b.first c = true) : a.first c = true := by
  rw [WorkItem.first_iff] at *
  cases hb : b.ticked <;> grind

theorem popItem_eq_none {q : List WorkItem} : popItem q = none ↔ q = [] := by
  cases q with
  | nil => simp [popItem]
  | cons i t =>
    unfold popItem
    split
    · simp
    · split <;> simp

/-- The item that leaves a queue goes ahead of all that arrived before it, and first of those that arrived later. -/
theorem popItem_spec {q rest : List WorkItem} {i : WorkItem} (h : popItem q = some (i, rest)) :
    ∃ a b, q = a ++ i :: b ∧ rest = a ++ b ∧ (∀ j ∈ a, i.ahead j) ∧ ∀ j ∈ b, i.first j = true := by
  induction q generalizing i rest with
  | nil => exact absurd h (by simp [popItem])
  | cons x t ih =>
    unfold popItem at h
    split at h
    · next hnone =>
      rw [popItem_eq_none] at hnone
      obtain ⟨rfl, rfl⟩ : x = i ∧ [] = rest := by simpa using h
      exact ⟨[], [], by rw [hnone]; rfl, rfl, by simp, by simp⟩
    · next j l hsome =>
      obtain ⟨a, b, rfl, rfl, hbefore, hafter⟩ := ih hsome
      split at h
      · next hfirst =>
        obtain ⟨rfl, rfl⟩ : x = i ∧ a ++ j :: b = rest := by simpa using h
        refine ⟨[], a ++ j :: b, rfl, rfl, by simp, fun k hk => ?_⟩
        rw [List.mem_append, List.mem_cons] at hk
        rcases hk with hk | rfl | hk
        · exact WorkItem.first_trans hfirst (WorkItem.first_of_ahead (hbefore k hk))
        · exact hfirst
        · exact WorkItem.first_trans hfirst (hafter k hk)
      · next hfirst =>
        obtain ⟨rfl, rfl⟩ : j = i ∧ x :: (a ++ b) = rest := by simpa using h
        refine ⟨x :: a, b, rfl, rfl, fun k hk => ?_, hafter⟩
        rcases List.mem_cons.1 hk with rfl | hk
        · exact WorkItem.ahead_of_not_first (Bool.eq_false_iff.2 hfirst)
        · exact hbefore k hk

/-! What an engine accepts (R162). -/

theorem WorkItem.refuse_of_badForm {i : WorkItem} (h : i.formOk = false) (e : Nat) : i.refuse e = some 8 := by
  simp [WorkItem.refuse, h]

theorem WorkItem.refuse_status {i : WorkItem} {e st : Nat} (h : i.refuse e = some st) : st = 8 ∨ st = 6 := by
  unfold WorkItem.refuse at h
  dsimp only at h
  split at h
  · exact .inl (by simpa using h.symm)
  · split at h
    · exact .inr (by simpa using h.symm)
    · exact absurd h (by simp)

theorem WorkItem.dstOk_of_refuse {i : WorkItem} {e : Nat} (h : i.refuse e = none) : i.dstOk e = true := by
  unfold WorkItem.refuse at h
  dsimp only at h
  split at h
  · exact absurd h (by simp)
  · next haccepted =>
    split at h
    · exact absurd h (by simp)
    · next hthere => simp_all

/-- What an accepted item writes lies in pieces that do not meet. -/
theorem WorkItem.dstRuns_spec {i : WorkItem} {e : Nat} (h : i.refuse e = none) :
    Apart i.dstRuns ∧ (i.dstRuns.map Prod.snd).sum = i.outBytes := by
  have hok := WorkItem.dstOk_of_refuse h
  unfold WorkItem.dstRuns
  split
  · next d hd => exact channelRuns_spec (e := e) (by simpa [WorkItem.dstOk, hd] using hok)
  · exact ⟨by simp [Apart], by simp⟩

/-! The work of an item. -/

theorem doItem_denied {i : WorkItem} (h : i.denied = true) (e : Nat) : s.doItem e i = (8, 0, s) := by
  rw [State.doItem, if_pos h]

theorem doItem_move {i : WorkItem} (h : i.denied = false) (hop : i.op = 2 ∨ i.op = 4 ∨ i.op = 5) (e : Nat) :
    s.doItem e i = s.moveItem e i := by
  rw [State.doItem, if_neg (by simp [h]), if_neg (by omega), if_neg (by omega), if_neg (by omega), if_neg (by omega)]

theorem length_qscanRows (fmt n r k : Nat) (l : List Byte) : (qscanRows fmt n r k l).length = 8 * k := by
  induction k generalizing l with
  | zero => rfl
  | succ k ih =>
    simp only [qscanRows, List.length_append, length_leBytes, ih]
    omega

/-- No granule given as zeros to an item's stream marks at most that stream. -/
theorem zeroHandle_nil (s : State) (hdl : Nat) : s.zeroHandle hdl [] = { s with streams := (s.zeroHandle hdl []).streams } := by
  unfold State.zeroHandle State.zeroSeen
  split
  · rfl
  · split
    · rfl
    · split <;> rfl

/-- The bytes that an accepted item writes. -/
theorem moveItem_spec {e : Nat} {i : WorkItem} {w : List Byte} (hok : i.refuse e = none)
    (hsrc : i.op ≠ 4 → s.soundRuns i.srcRuns) (hdst : s.soundRuns i.dstRuns)
    (hw : (i.op, w) ∈ ([(4, fillBytes i.param i.length), (5, s.runBytes i.srcRuns),
      (2, qscanRows (bitsAt i.param 0 4) (bitsAt i.param 8 24) i.scanRow
        (i.length / max 1 i.scanRow) (s.runBytes i.srcRuns))] : List (Nat × List Byte))) :
    ∃ u, s.moveItem e i = (0, 0, u) ∧ u.runBytes i.dstRuns = w ∧ SameOutside i.dstRuns s u ∧ u.cisterns = s.cisterns ∧
      u.regs = s.regs := by
  obtain ⟨hapart, hsum⟩ := WorkItem.dstRuns_spec hok
  have hbad : i.op ≠ 4 → i.srcRuns.flatMap (fun p => s.badIn p.1 p.2) = [] := fun hop =>
    List.flatMap_eq_nil_iff.2 fun p hp => badIn_sound fun hn => (hsrc hop p hp hn).2.2.2
  have hstore : ∀ v : State, v = { s with streams := v.streams } → w.length = i.outBytes →
      (v.writeRuns (s.cisLoc e) i.dstRuns w).runBytes i.dstRuns = w ∧
      SameOutside i.dstRuns s (v.writeRuns (s.cisLoc e) i.dstRuns w) ∧
      (v.writeRuns (s.cisLoc e) i.dstRuns w).cisterns = s.cisterns ∧
      (v.writeRuns (s.cisLoc e) i.dstRuns w).regs = s.regs := fun v hv hlen => by
    have hcells : SameCells s v := by rw [hv]; exact ⟨rfl, rfl, rfl⟩
    have hsound : v.soundRuns i.dstRuns := fun p hp hn => by
      obtain ⟨hone, hregs, hhost, hcell⟩ := hdst p hp hn
      exact ⟨hone, hregs, hhost, (hcells.sound p.1 p.2).2 hcell⟩
    obtain ⟨hrenewed, hread, hsame⟩ := writeRuns_sound hsound hapart (hlen.trans hsum.symm) (s.cisLoc e)
    exact ⟨hread, fun k hk => (hsame k hk).trans (byte_congr hcells.1 k), hrenewed.cisterns.trans hcells.2.2,
      hrenewed.regs.trans (by rw [hv])⟩
  simp only [List.mem_cons, Prod.mk.injEq, List.not_mem_nil, or_false] at hw
  unfold State.moveItem
  rw [hok]
  dsimp only
  rcases hw with ⟨hop, rfl⟩ | ⟨hop, rfl⟩ | ⟨hop, rfl⟩
  · rw [if_pos hop]
    exact ⟨_, rfl, hstore s rfl (by simp [fillBytes, WorkItem.outBytes, hop])⟩
  · rw [if_neg (by omega), hbad (by omega), readRuns_sound (hsrc (by omega)), if_pos rfl, if_pos hop]
    refine ⟨_, rfl, hstore _ (zeroHandle_nil s _) ?_⟩
    simp [length_runBytes, WorkItem.srcRuns, WorkItem.outBytes, hop]
  · rw [if_neg (by omega), hbad (by omega), readRuns_sound (hsrc (by omega)), if_pos rfl, if_neg (by omega)]
    refine ⟨_, rfl, hstore _ (zeroHandle_nil s _) ?_⟩
    rw [length_qscanRows, WorkItem.outBytes, if_pos hop]

/-! The engine after its item's work. -/

theorem cis_congr {t : State} (h : t.cisterns = s.cisterns) (k : Nat) : t.cis k = s.cis k := by
  rw [State.cis, h]; rfl

@[simp] theorem cis_setCis (s : State) (e : Nat) (x : Cistern) : (s.setCis e x).cis e = x :=
  AMap.read_write_same _ _ _ _

theorem cis_setCis_other (s : State) {e k : Nat} (x : Cistern) (h : k ≠ e) : (s.setCis e x).cis k = s.cis k :=
  AMap.read_write_other _ _ _ h

/-- An item's work has left state u with status st and z granules given as zeros: the n bytes it reads are counted, and it
runs on. -/
def State.itemRan (u : State) (e : Nat) (i : WorkItem) (st z n : Nat) : State :=
  let v := if st = 8 ∨ st = 6 then u else u.bump64 (Reg.CIS_BYTES_LO e) n
  v.setCis e { v.cis e with running := some { item := i, status := st, zeroed := z } }

theorem runItem_eq {e st z : Nat} {i : WorkItem} {u : State} (h : s.doItem e i = (st, z, u)) :
    s.runItem e i = u.itemRan e i st z (s.itemReads i e) := by
  rw [State.runItem, h]
  rfl

section Ran

variable (u : State) (e : Nat) (i : WorkItem) (st z n : Nat)

theorem itemRan_eq : u.itemRan e i st z n = { u with
    regs := (u.itemRan e i st z n).regs
    cisterns := (u.setCis e { u.cis e with running := some { item := i, status := st, zeroed := z } }).cisterns } := by
  have hkeeps : ∀ v : State, v = { u with regs := v.regs } → ∀ x : Option CisRun,
      v.setCis e { v.cis e with running := x } = { u with
        regs := (v.setCis e { v.cis e with running := x }).regs
        cisterns := (u.setCis e { u.cis e with running := x }).cisterns } := fun v hv x => by
    rw [hv]; rfl
  unfold State.itemRan
  dsimp only
  split
  · exact hkeeps u rfl _
  · exact hkeeps _ (onlyRegs_setPair_mem u (l := [Reg.CIS_BYTES_LO e, Reg.CIS_BYTES_LO e + 4]) (by simp) (by simp) _).2 _

theorem streams_itemRan : (u.itemRan e i st z n).streams = u.streams := by rw [itemRan_eq]
theorem mem_itemRan : (u.itemRan e i st z n).mem = u.mem := by rw [itemRan_eq]
theorem place_itemRan : (u.itemRan e i st z n).place = u.place := by rw [itemRan_eq]

theorem cis_itemRan : (u.itemRan e i st z n).cis e =
    { u.cis e with running := some { item := i, status := st, zeroed := z } } := by
  rw [itemRan_eq]
  exact (cis_congr (s := u.setCis e _) rfl e).trans (cis_setCis u e _)

theorem cis_itemRan_other {k : Nat} (h : k ≠ e) : (u.itemRan e i st z n).cis k = u.cis k := by
  rw [itemRan_eq]
  exact (cis_congr (s := u.setCis e _) rfl k).trans (cis_setCis_other u _ h)

theorem sameRegs_itemRan : SameRegs [Reg.CIS_BYTES_LO e, Reg.CIS_BYTES_LO e + 4] u (u.itemRan e i st z n) := fun a ha => by
  simp only [List.mem_cons, List.not_mem_nil, or_false, not_or] at ha
  unfold State.itemRan
  dsimp only
  rw [reg_of_regs (State.setCis_regs _ _ _)]
  split
  · rfl
  · exact reg_bump64_other _ _ ha.1 ha.2

theorem regs_itemRan (h : st = 8 ∨ st = 6) : (u.itemRan e i st z n).regs = u.regs := by
  rw [State.itemRan, if_pos h]
  rfl

theorem pair_itemRan (h : ¬ (st = 8 ∨ st = 6)) : (u.itemRan e i st z n).pair (Reg.CIS_BYTES_LO e) =
    (u.pair (Reg.CIS_BYTES_LO e) + n) % 2 ^ 64 := by
  rw [State.itemRan, if_neg h]
  have hregs : ∀ a, ((u.bump64 (Reg.CIS_BYTES_LO e) n).setCis e
      { (u.bump64 (Reg.CIS_BYTES_LO e) n).cis e with running := some { item := i, status := st, zeroed := z } }).reg a =
      (u.bump64 (Reg.CIS_BYTES_LO e) n).reg a := fun a => reg_of_regs (State.setCis_regs _ _ _) a
  exact (pair_congr (hregs _) (hregs _)).trans (pair_bump64_same u _ _)

end Ran

/-! The start of an item. -/

theorem itemHeld_eq_false {i : WorkItem} (h : i.denied = true ∨ 1 < i.op) : s.itemHeld i = false := by
  rw [State.itemHeld, if_pos h]

theorem startItemOn_runs {e : Nat} {i : WorkItem} {rest : List WorkItem} (h : (s.begun e i rest).itemHeld i = false) :
    s.startItemOn e i rest = (s.begun e i rest).runItem e i := by
  rw [State.startItemOn, ← State.begun, h, if_neg Bool.false_ne_true]

theorem startItemOn_held {e : Nat} {i : WorkItem} {rest : List WorkItem} (h : (s.begun e i rest).itemHeld i = true) :
    s.startItemOn e i rest = ((s.begun e i rest).holdItem i).setCis e { ((s.begun e i rest).holdItem i).cis e with
      running := some { item := i, held := true } } := by
  rw [State.startItemOn, ← State.begun, h, if_pos rfl]

theorem running_startItemOn (s : State) (e : Nat) (i : WorkItem) (rest : List WorkItem) :
    ∃ x, ((s.startItemOn e i rest).cis e).running = some x ∧ x.item = i ∧ x.slices = 0 := by
  cases h : (s.begun e i rest).itemHeld i with
  | true =>
    rw [startItemOn_held h, cis_setCis]
    exact ⟨_, rfl, rfl, rfl⟩
  | false =>
    rw [startItemOn_runs h, runItem_eq (e := e) (i := i) rfl, cis_itemRan]
    exact ⟨_, rfl, rfl, rfl⟩

theorem startCistern_idle {op : Nat} {e : Fin 128}
    (h : (s.cis e).running.isSome = true ∨ s.cisRuns e = false ∨ (s.cis e).queue = []) : startCistern op e s = s := by
  unfold startCistern
  dsimp only
  split
  · rfl
  · next hfree =>
    have hempty : (s.cis e).queue = [] := by
      rcases h with h | h | h
      · simp [h] at hfree
      · simp [h] at hfree
      · exact h
    rw [hempty]
    rfl

theorem startCistern_pops {op : Nat} {e : Fin 128} {i : WorkItem} {rest : List WorkItem}
    (hfree : (s.cis e).running = none) (hruns : s.cisRuns e = true) (hpop : popItem (s.cis e).queue = some (i, rest)) :
    startCistern op e s = if i.op = op ∨ i.denied then s.startItemOn e i rest else s := by
  unfold startCistern
  dsimp only
  rw [hfree, hruns, hpop, if_neg (by decide)]

/-- The commands that start an item are the engine's start for their operation. -/
theorem exec_startCistern {e : Fin 128} {c : Instr} {op : Nat} (hr : s.halted = false)
    (h : (c, op) ∈ ([(.cisternAttn e, 0), (.cisternExpand e, 1), (.cisternQscan e, 2), (.cisternProbe e, 3),
      (.cisternFill e, 4), (.cisternCopy e, 5)] : List (Instr × Nat))) : exec c s = .next (startCistern op e s) := by
  have hexec : exec c s = .next (s.live (startCistern op e)) := by
    simp only [List.mem_cons, Prod.mk.injEq, List.not_mem_nil, or_false] at h
    rcases h with ⟨rfl, rfl⟩ | ⟨rfl, rfl⟩ | ⟨rfl, rfl⟩ | ⟨rfl, rfl⟩ | ⟨rfl, rfl⟩ | ⟨rfl, rfl⟩ <;> rfl
  exact exec_of_running hr hexec

/-- Taking an item off the queue leaves sound granules sound. -/
theorem soundGran_begun (s : State) (e : Nat) (i : WorkItem) (rest : List WorkItem) (g : Nat) :
    (s.begun e i rest).soundGran g ↔ s.soundGran g := by
  have hbad : ∀ k, ((s.begun e i rest).cis k).bad = (s.cis k).bad := fun k => by
    rw [State.begun]
    by_cases hk : k = e
    · subst hk
      rw [cis_setCis]
      rfl
    · rw [cis_setCis_other _ _ hk]
  have hlisted : (s.begun e i rest).listed g = s.listed g := by rw [State.listed, hbad]; rfl
  have hbits : ∀ w, (s.begun e i rest).badBits w = s.badBits w := badBits_congr rfl
  simp only [State.soundGran, hlisted, hbits]
  rfl

theorem soundRuns_begun {e : Nat} {i : WorkItem} {rest : List WorkItem} {l : List (Nat × Nat)} (h : s.soundRuns l) :
    (s.begun e i rest).soundRuns l := fun p hp hn => by
  obtain ⟨hone, hregs, hhost, hsound⟩ := h p hp hn
  exact ⟨hone, hregs, hhost, fun g hg => (soundGran_begun s e i rest g).2 (hsound g hg)⟩

theorem runBytes_congr {t : State} (h : t.mem = s.mem) (l : List (Nat × Nat)) : t.runBytes l = s.runBytes l := by
  have hb : ∀ a n, t.bytes a n = s.bytes a n := fun a n => bytes_congr fun k _ _ => byte_congr h k
  simp only [State.runBytes, hb]

/-- An accepted FILL, COPY or QSCAN item that starts (R162). -/
theorem startItemOn_moves {e : Nat} {i : WorkItem} {rest : List WorkItem} {w : List Byte} (hden : i.denied = false)
    (hok : i.refuse e = none) (hsrc : i.op ≠ 4 → s.soundRuns i.srcRuns) (hdst : s.soundRuns i.dstRuns)
    (hw : (i.op, w) ∈ ([(4, fillBytes i.param i.length), (5, s.runBytes i.srcRuns),
      (2, qscanRows (bitsAt i.param 0 4) (bitsAt i.param 8 24) i.scanRow
        (i.length / max 1 i.scanRow) (s.runBytes i.srcRuns))] : List (Nat × List Byte))) :
    (s.startItemOn e i rest).runBytes i.dstRuns = w ∧ SameOutside i.dstRuns s (s.startItemOn e i rest) ∧
    (s.startItemOn e i rest).cis e = { (s.begun e i rest).cis e with running := some { item := i } } ∧
    (s.startItemOn e i rest).pair (Reg.CIS_BYTES_LO e) = (s.pair (Reg.CIS_BYTES_LO e) + s.itemReads i e) % 2 ^ 64 ∧
    ∀ k, k ≠ e → (s.startItemOn e i rest).cis k = s.cis k := by
  have hop : i.op = 2 ∨ i.op = 4 ∨ i.op = 5 := by
    simp only [List.mem_cons, Prod.mk.injEq, List.not_mem_nil, or_false] at hw
    omega
  have hreads : (s.begun e i rest).itemReads i e = s.itemReads i e := by
    unfold State.itemReads
    rw [if_neg (c := i.op = 3) (by omega), if_neg (c := i.op = 3) (by omega)]
  rw [← runBytes_congr (s := s) (t := s.begun e i rest) rfl] at hw
  obtain ⟨u, hmove, hread, hsame, hcis, hregs⟩ := moveItem_spec (s := s.begun e i rest) hok
    (fun h => soundRuns_begun (hsrc h)) (soundRuns_begun hdst) hw
  rw [startItemOn_runs (itemHeld_eq_false (.inr (by omega))), runItem_eq ((doItem_move hden hop e).trans hmove), hreads]
  have hmem := mem_itemRan u e i 0 0 (s.itemReads i e)
  have hpair : u.pair (Reg.CIS_BYTES_LO e) = s.pair (Reg.CIS_BYTES_LO e) :=
    pair_congr (reg_of_regs hregs _) (reg_of_regs hregs _)
  refine ⟨(runBytes_congr hmem _).trans hread, fun k hk => (byte_congr hmem k).trans (hsame k hk), ?_, ?_, fun k hk => ?_⟩
  · rw [cis_itemRan, cis_congr hcis]
  · rw [pair_itemRan _ _ _ _ _ _ (by decide), hpair]
  · rw [cis_itemRan_other _ _ _ _ _ _ hk, cis_congr hcis, State.begun, cis_setCis_other _ _ hk]

/-- An item that the part denies or refuses leaves everything else alone. -/
theorem startItemOn_refused {e st : Nat} {i : WorkItem} {rest : List WorkItem}
    (h : (i.denied = true ∧ st = 8) ∨ ((i.op = 2 ∨ i.op = 4 ∨ i.op = 5) ∧ i.refuse e = some st)) :
    (s.startItemOn e i rest).mem = s.mem ∧
    ((s.startItemOn e i rest).cis e).running = some { item := i, status := st } ∧
    (s.startItemOn e i rest).streams = s.streams ∧ (s.startItemOn e i rest).regs = s.regs := by
  have hheld : (s.begun e i rest).itemHeld i = false := by
    rcases h with ⟨hden, -⟩ | ⟨hop, -⟩
    · exact itemHeld_eq_false (.inl hden)
    · exact itemHeld_eq_false (.inr (by omega))
  have hwork : (s.begun e i rest).doItem e i = (st, 0, s.begun e i rest) ∧ (st = 8 ∨ st = 6) := by
    cases hden : i.denied with
    | true =>
      have hst : st = 8 := by
        rcases h with ⟨-, hst⟩ | ⟨-, hrefuse⟩
        · exact hst
        · simpa [WorkItem.refuse, hden] using hrefuse.symm
      exact ⟨by rw [doItem_denied hden, hst], .inl hst⟩
    | false =>
      obtain ⟨hop, hrefuse⟩ := h.resolve_left (by simp [hden])
      exact ⟨by rw [doItem_move hden hop, State.moveItem, hrefuse], WorkItem.refuse_status hrefuse⟩
  obtain ⟨hwork, hst⟩ := hwork
  rw [startItemOn_runs hheld, runItem_eq hwork]
  refine ⟨mem_itemRan .., by rw [cis_itemRan], streams_itemRan .., ?_⟩
  rw [regs_itemRan _ _ _ _ _ _ hst]
  rfl

/-- An ATTN or EXPAND item whose step goes on gives it what R216 and R217 form, and tells what it gave as zeros. -/
theorem doItem_step {e h : Nat} {i : WorkItem} {u : State} (hden : i.denied = false) (hop : i.op ≤ 1)
    (hstep : s.itemStep i = some h) (hgoes : s.stopped h = false)
    (hu : u = if i.op = 0 then s.attnItem h (s.cisLoc e) i else s.expandItem h (s.cisLoc e) i) :
    s.doItem e i = s.itemResult u h := by
  rw [State.doItem, if_neg (by simp [hden]), hstep, if_neg (by simp [hgoes])]
  dsimp only
  by_cases h0 : i.op = 0
  · rw [if_pos h0, hu, if_pos h0]
  · rw [if_neg h0, if_pos (by omega), hu, if_neg h0]

theorem doItem_probe {e h : Nat} {i : WorkItem} (hden : i.denied = false) (hop : i.op = 3) (hsid : s.sidOf i.handle = some h) :
    s.doItem e i = ((s.probeItem (s.cisLoc e) h).1, 0, (s.probeItem (s.cisLoc e) h).2) := by
  rw [State.doItem, if_neg (by simp [hden]), if_neg (by omega), if_neg (by omega), if_neg (by omega), if_pos hop, hsid]

end Sys2Proof.Machine
end

section
/-!
PROOFS. The obligation on the start of work items (O30).
-/

namespace Sys2Proof.Proofs
open Sys2Proof Sys2Proof.Machine

/-- Settles O30: the start of an item by its operation, over the item's own ranges. -/
theorem cisternItemsStart : Obligations.CisternItemsStart := by
  refine ⟨fun q rest i h => ?_, fun i e hop hlen => ?_, fun s e c op hr hc => ?_⟩
  · obtain ⟨a, b, hq, hrest, hbefore, hafter⟩ := popItem_spec h
    exact ⟨a, b, hq, hrest, fun j hj => by rw [Bool.decide_eq_true]; exact hbefore j hj,
      fun j hj => by rw [Bool.decide_eq_true]; exact hafter j hj⟩
  · exact WorkItem.refuse_of_badForm (by rcases hop with h | h <;> simp [WorkItem.formOk, h, hlen]) e
  · have hexec := exec_startCistern hr hc
    refine ⟨fun h => ?_, fun i rest hfree hruns hpop => ?_⟩
    · rw [hexec, startCistern_idle h]
    · have hstart : i.op = op ∨ i.denied = true → exec c s = .next (s.startItemOn e i rest) := fun h => by
        rw [hexec, startCistern_pops hfree hruns hpop, if_pos h]
      refine ⟨fun hne hden => ?_, fun h => ?_, fun st h => ?_, fun hop hden w hok hsrc hdst hw => ?_,
        fun hop hden h hle hstep => ⟨fun hheld => ?_, fun u hheld hgoes hu => ?_⟩, fun hop hden h u h3 hsid hu => ?_⟩
      · rw [hexec, startCistern_pops hfree hruns hpop, if_neg (by simp [hne, hden])]
      · obtain ⟨x, hx⟩ := running_startItemOn s e i rest
        exact ⟨_, x, hstart h, hx⟩
      · obtain ⟨hmem, hrunning, hstreams, hregs⟩ := startItemOn_refused (s := s) (rest := rest) (i := i) (e := e) (st := st) (by
          rcases h with h | ⟨hop, h2, hrefuse⟩
          · exact .inl h
          · exact .inr ⟨hop ▸ h2, hrefuse⟩)
        exact ⟨_, hstart (by tauto), hmem, hrunning, hstreams, fun a _ => reg_of_regs hregs a⟩
      · subst hop
        obtain ⟨hread, hsame, hcis, hpair, hother⟩ := startItemOn_moves (rest := rest) hden hok hsrc hdst hw
        exact ⟨_, hstart (.inl rfl), hread, hsame, hcis, hpair, hother⟩
      · refine ⟨_, { item := i, held := true }, hstart (.inl hop), ?_, rfl, rfl⟩
        rw [startItemOn_held hheld, cis_setCis]
      · subst hop
        have hwork := doItem_step (s := s.begun e i rest) (e := e) hden hle hstep hgoes hu
        refine ⟨_, _, (hstart (.inl rfl)).trans (congrArg _ ((startItemOn_runs hheld).trans (runItem_eq hwork))),
          congrArg Cistern.running (cis_itemRan u e i _ _ _), rfl, rfl, rfl, fun hend => ⟨rfl, ?_⟩, streams_itemRan ..,
          mem_itemRan .., place_itemRan .., sameRegs_itemRan u e i _ _ _⟩
        rw [hend, Bool.false_and, if_neg Bool.false_ne_true]
      · subst hop
        have hheld : (s.begun e i rest).itemHeld i = false := itemHeld_eq_false (.inr (by omega))
        have hwork : (s.begun e i rest).doItem e i = (u.1, 0, u.2) := hu ▸ doItem_probe hden h3 hsid
        refine ⟨_, _, (hstart (.inl rfl)).trans (congrArg _ ((startItemOn_runs hheld).trans (runItem_eq hwork))),
          congrArg Cistern.running (cis_itemRan u.2 e i _ _ _), rfl, rfl, rfl, rfl, streams_itemRan .., mem_itemRan ..,
          sameRegs_itemRan u.2 e i _ _ _⟩

end Sys2Proof.Proofs
end

section
/-!
PROOFS. The obligation on commands of a sequence's cache (O42): its clause on KV_ATTACH against a token buffer in an
uncorrectable granule.
-/

namespace Sys2Proof.Proofs
open Sys2Proof Sys2Proof.Machine

/-- An indexed cache declaration of 16 KiB pages and at most 1,024 positions. -/
def indexedCache : BitVec 512 := BitVec.ofNat 512
  (2 ^ 23 + 2 ^ 32 + 2 ^ 64 + 2 ^ 80 + 16 * 2 ^ 96 + 16 * 2 ^ 128 + 2 ^ 144 + 1024 * 2 ^ 160 + 2 ^ 192)

/-- KV_ATTACH of stream 1 with 128 tokens that stand at 0xE000. -/
def attachCmd : BitVec 512 := BitVec.ofNat 512 (0x18 + 2 ^ 32 + 0xE000 * 2 ^ 64 + 128 * 2 ^ 128)

/-- Stream 1 has an empty indexed cache, and the first granule of the tokens, in channel 3, holds two symbols in error. -/
def attachingBadTokens : State := { State.reset with
  structure_ := { State.reset.structure_ with
    graphs := [{ id := 3, nodes := [{ node := .cache indexedCache }] }]
    pools := [{ kind := 0, mask := 3 }] }
  streams := [(1, { st := .active, graph := 3, kv := { list := 0x4000, cap := 8, st := .resident } })]
  cond := { symbols := [0xE000, 0xE002] } }

/-- The part once the cache's list has been read, and its read of the tokens. -/
def listChecked : State := ((attachingBadTokens.startCmd 0 0 attachCmd).cacheRead 1).2
def tokensRead : Rd := listChecked.readData listChecked.oasisReader (db attachCmd 8 8) 512

/-- The part after the command. -/
def attachedBadTokens : State := attachingBadTokens.command 0x18 0 0 attachCmd (fun u => u.named 0 0 attachCmd)

theorem ready_attachingBadTokens : attachingBadTokens.ready 0 0 attachCmd 0x18 1 := by
  simp only [State.ready, State.turn]
  decide +kernel

theorem cacheRead_attachingBadTokens :
    (attachingBadTokens.startCmd 0 0 attachCmd).cacheRead 1 = (true, listChecked) := by
  have hok : ((attachingBadTokens.startCmd 0 0 attachCmd).cacheRead 1).1 = true := by decide +kernel
  unfold listChecked
  rw [← hok]

/-- The read of the tokens lists the granule in channel 3. -/
theorem tokensRead_spec : tokensRead.failed = false ∧ (tokensRead.st.cis 3).bad = [0xE000] := by decide +kernel

/-- The PROBE item is given to the engine of channel 3, on whose list the granule does not stand. -/
theorem attachedBadTokens_spec : attachedBadTokens.cisterns = [(3, attachedBadTokens.cis 3)] ∧
    (attachedBadTokens.cis 3).bad = [] := by decide +kernel

theorem cis_attachedBadTokens_other {e : Nat} (he : e ≠ 3) : attachedBadTokens.cis e = {} := by
  rw [State.cis, attachedBadTokens_spec.1]
  simp [AMap.read, he.symm]

/-- An engine that is given an item keeps its known-bad list. -/
theorem bad_of_given {c x : Cistern} {i : WorkItem} (h : x = if c.queue.length < 64 then { c with queue := c.queue ++ [i] }
    else { c with waiting := c.waiting ++ [i] }) : x.bad = c.bad := by
  rw [h]
  split <;> rfl

/-- Refutes O42: the read of the tokens for the first PROBE item may be the first to find a granule uncorrectable, yet the
engine is given the item in the state before that read, so that its known-bad list is not the one that the read leaves. -/
theorem not_cachesArePinnedTruncatedAndShared : ¬ Obligations.CachesArePinnedTruncatedAndShared := by
  rintro ⟨-, hcaches⟩
  obtain ⟨-, -, -, -, hattach⟩ := hcaches attachingBadTokens _ listChecked true 0 0 attachCmd 1 _ (kvDecl indexedCache) rfl
    (by decide +kernel) rfl cacheRead_attachingBadTokens
  obtain ⟨-, hreads⟩ := hattach ready_attachingBadTokens
  obtain ⟨-, -, hprobe⟩ := hreads (by decide +kernel) (by decide +kernel) (by decide +kernel) (by decide +kernel)
    (by decide +kernel)
  obtain ⟨-, hgiven⟩ := hprobe tokensRead rfl (by decide +kernel) (by decide +kernel) rfl
  obtain ⟨t, e, i, hexec, -, -, hcis, -⟩ := hgiven tokensRead_spec.1
  have hrun : exec (.kvAttach 0 0 attachCmd) attachingBadTokens = .next attachedBadTokens :=
    exec_of_running (f := fun s => s.command 0x18 0 0 attachCmd (fun u => u.named 0 0 attachCmd)) rfl rfl
  obtain rfl : attachedBadTokens = t := Host.Outcome.next.inj (hrun.symm.trans hexec)
  by_cases he : e = 3
  · rw [he] at hcis
    have hbad := bad_of_given hcis
    rw [attachedBadTokens_spec.2, tokensRead_spec.2] at hbad
    exact absurd hbad (by decide)
  · rw [cis_attachedBadTokens_other he] at hcis
    split at hcis
    · exact absurd (congrArg Cistern.queue hcis) (by simp)
    · exact absurd (congrArg Cistern.waiting hcis) (by simp)

end Sys2Proof.Proofs
end

section
/-!
PROOFS. What reads and stores leave of the cistern engines and of the fabric: known-bad lists and messages sent are all
that they change there (R169, R172).
-/

namespace Sys2Proof.Machine

variable {s : State}

/-- Of the cistern engines only known-bad lists differ, and of the fabric only messages sent. -/
def ListsOnly (s t : State) : Prop :=
  (∀ k, t.cis k = { s.cis k with bad := (t.cis k).bad }) ∧ t.fab = { s.fab with sent := t.fab.sent }

theorem ListsOnly.trans {t u : State} (h1 : ListsOnly s t) (h2 : ListsOnly t u) : ListsOnly s u :=
  ⟨fun k => by rw [h2.1 k, h1.1 k], by rw [h2.2, h1.2]⟩

theorem listsOnly_of_same {t : State} (hcis : t.cisterns = s.cisterns) (hfab : t.fab = s.fab) : ListsOnly s t :=
  ⟨fun k => by rw [cis_congr hcis], by rw [hfab]⟩

theorem ListsOnly.refl (s : State) : ListsOnly s s := listsOnly_of_same rfl rfl

theorem listsOnly_of_reported {t : State} (h : Reported s t) : ListsOnly s t := by
  have hcis : t.cisterns = s.cisterns := by rw [h]
  exact ⟨fun k => by rw [cis_congr hcis], by rw [h]⟩

variable (s)

theorem listsOnly_setBad (e : Nat) (l : List Nat) : ListsOnly s (s.setCis e { s.cis e with bad := l }) :=
  ⟨fun k => by
    by_cases hk : k = e
    · subst hk; rw [cis_setCis]
    · rw [cis_setCis_other _ _ hk], rfl⟩

theorem listsOnly_setBytes (a : Nat) (l : List Byte) : ListsOnly s (s.setBytes a l) := by
  rw [setBytes_eq]
  exact listsOnly_of_same rfl rfl

theorem listsOnly_noteUe (a : Nat) (ctl : Bool) : ListsOnly s (s.noteUe a ctl) := by
  have hput : ListsOnly s (s.putBad a) :=
    (listsOnly_setBad s (cisternOf a) _).trans (listsOnly_of_same rfl rfl)
  refine hput.trans (ListsOnly.trans (t := s.listBad a) ?_ (listsOnly_of_reported (reported_noteUe s a ctl)))
  rw [listBad_eq]
  exact listsOnly_of_same rfl rfl

theorem listsOnly_retireFrame (f : Nat) : ListsOnly s (s.retireFrame f) := by
  have hforget : ListsOnly s (s.forgetFrame f) := listsOnly_setBad s _ _
  unfold State.retireFrame
  split
  · exact hforget
  · split
    · exact hforget.trans (listsOnly_of_reported (reported_retireBank _ _ _ _))
    · exact (hforget.trans (listsOnly_of_same (t := s.listRetired f) rfl rfl)).trans
        (listsOnly_of_reported (reported_joins s f))

theorem listsOnly_detectDram (a : Nat) (ctl : Bool) : ListsOnly s (s.detectDram a ctl) := by
  unfold State.detectDram
  split
  · exact .refl s
  · split
    · exact listsOnly_noteUe s a ctl
    · exact (listsOnly_noteUe s a ctl).trans (listsOnly_retireFrame _ _)

theorem reported_detectWords (loc : Nat) (l : List Nat) : Reported s (detectWords loc s l) := by
  induction l generalizing s with
  | nil => exact .refl s
  | cons w t ih =>
    have hcount : Reported s (s.countSramUe w) := by
      unfold State.countSramUe
      split
      · exact (reported_setReg s _ _).trans (reported_raise _ _ _)
      · exact (reported_setReg s _ _).trans (reported_raise _ _ _)
      · exact reported_count s _ _ _ _
    exact (hcount.trans (report_spec _ _ _ _ _ _)).trans (ih (s.detectSram w loc))

theorem listsOnly_correctWords (l : List Nat) : ListsOnly s (correctWords s l) := by
  induction l generalizing s with
  | nil => exact .refl s
  | cons w t ih =>
    refine ListsOnly.trans ?_ (ih _)
    split
    · exact (listsOnly_of_same (t := s.healWord w) rfl rfl).trans (listsOnly_of_reported (reported_countCe _ _))
    · exact .refl s

theorem listsOnly_correct (a : Nat) : ListsOnly s (s.correct a) := by
  unfold State.correct
  split
  · split
    · exact (listsOnly_of_same (t := s.heal a) rfl rfl).trans (listsOnly_of_reported (reported_countCe _ _))
    · exact .refl s
  · exact listsOnly_correctWords s _
  · exact listsOnly_correctWords s _
  · exact listsOnly_correctWords s _
  · exact .refl s

theorem listsOnly_prepareGran (loc a : Nat) : ListsOnly s (s.prepareGran loc a) := by
  have hwords : ListsOnly s (if ((s.correct a).badWords a).isEmpty then s.correct a
      else (detectWords loc (s.correct a) ((s.correct a).badWords a)).setBytes a (List.replicate 64 0)) := by
    split
    · exact listsOnly_correct s a
    · exact ((listsOnly_correct s a).trans (listsOnly_of_reported (reported_detectWords _ _ _))).trans
        (listsOnly_setBytes _ _ _)
  unfold State.prepareGran
  dsimp only
  split
  · split
    · exact ((listsOnly_correct s a).trans (listsOnly_detectDram _ _ _)).trans (listsOnly_setBytes _ _ _)
    · exact listsOnly_correct s a
  · exact hwords
  · exact hwords
  · exact hwords
  · exact listsOnly_correct s a

theorem listsOnly_writeData (loc a : Nat) (l : List Byte) : ListsOnly s (s.writeData loc a l) := by
  have hp : ∀ (t : State) (p : Prop) [Decidable p] (g : Nat), ListsOnly t (if p then t.prepareGran loc g else t) :=
    fun t p _ g => by
      split
      · exact listsOnly_prepareGran t loc g
      · exact .refl t
  have hfresh : ∀ (t : State) (lo hi : Nat), ListsOnly t (t.freshCells lo hi) := fun t lo hi => by
    unfold State.freshCells
    split
    · exact listsOnly_of_same rfl rfl
    · exact .refl t
  unfold State.writeData
  split
  · exact .refl s
  · split
    · exact .refl s
    · exact (((hp s _ _).trans (hp _ _ _)).trans (listsOnly_setBytes _ _ _)).trans (hfresh _ _ _)

theorem listsOnly_readGran (a loc : Nat) : ListsOnly s (s.readGran a loc).2.2 := by
  have hwords : ListsOnly s (if ((s.correct a).badWords a).isEmpty then ((s.correct a).bytes a 64, false, s.correct a)
      else (List.replicate 64 0, true, detectWords loc (s.correct a) ((s.correct a).badWords a))).2.2 := by
    split
    · exact listsOnly_correct s a
    · exact (listsOnly_correct s a).trans (listsOnly_of_reported (reported_detectWords _ _ _))
  unfold State.readGran
  dsimp only
  split
  · split
    · exact ((listsOnly_correct s a).trans (listsOnly_detectDram _ _ _)).trans
        (listsOnly_of_reported (reported_setPair _ _ _))
    · exact listsOnly_correct s a
  · exact hwords
  · exact hwords
  · exact hwords
  · exact listsOnly_correct s a

theorem listsOnly_readData (loc a n : Nat) : ListsOnly s (s.readData loc a n).st := by
  have hgrans : ∀ (l : List Nat) (t : State), ListsOnly t (t.readGrans loc l).2.2 := fun l => by
    induction l with
    | nil => exact .refl
    | cons g t ih => exact fun u => (listsOnly_readGran u g loc).trans (ih _)
  unfold State.readData
  split
  · exact .refl s
  · split
    · exact .refl s
    · split
      · split <;> exact .refl s
      · exact hgrans _ s

/-- A control read leaves no more than a read as data does (R170). -/
theorem listsOnly_readCtl (loc a n : Nat) : ListsOnly s (s.readCtl loc a n).st := by
  have hcorrect : ∀ (l : List Nat) (t : State), ListsOnly t (l.foldl State.correct t) := fun l => by
    induction l with
    | nil => exact ListsOnly.refl
    | cons g l ih => exact fun t => (listsOnly_correct t g).trans (ih _)
  unfold State.readCtl
  split
  · exact .refl s
  · split
    · split <;> exact .refl s
    · dsimp only
      split
      · refine (hcorrect (granulesOf a n) s).trans ?_
        split
        · exact listsOnly_detectDram _ _ _
        · exact listsOnly_of_reported (reported_detectWords _ _ _)
      · exact hcorrect _ s

theorem listsOnly_readRuns (loc : Nat) (l : List (Nat × Nat)) : ListsOnly s (s.readRuns loc l).st := by
  induction l generalizing s with
  | nil => exact .refl s
  | cons p t ih => exact (listsOnly_readData s loc p.1 p.2).trans (ih _)

theorem listsOnly_writeRuns (loc : Nat) (l : List (Nat × Nat)) (b : List Byte) : ListsOnly s (s.writeRuns loc l b) := by
  induction l generalizing s b with
  | nil => exact .refl s
  | cons p t ih => exact (listsOnly_writeData s loc p.1 _).trans (ih _ _)

theorem listsOnly_retireRun (f n : Nat) : ListsOnly s (s.retireRun f n) := by
  induction n generalizing s f with
  | zero => exact .refl s
  | succ n ih =>
    refine ListsOnly.trans ?_ (ih _ _)
    unfold State.retireIfDue
    split
    · exact listsOnly_retireFrame s f
    · exact .refl s

end Sys2Proof.Machine
end

section
/-!
PROOFS. The items that gave way (R165): an item's work, and what it asks of caches and commands, leaves them as they are.
-/

namespace Sys2Proof.Machine

variable {s : State}

/-- On every cistern engine the same items have given way. -/
def SameWay (s t : State) : Prop := ∀ k, (t.cis k).gaveWay = (s.cis k).gaveWay

theorem SameWay.trans {t u : State} (h1 : SameWay s t) (h2 : SameWay t u) : SameWay s u := fun k => (h2 k).trans (h1 k)

theorem SameWay.refl (s : State) : SameWay s s := fun _ => rfl

theorem sameWay_of_same {t : State} (h : t.cisterns = s.cisterns) : SameWay s t := fun k => by rw [cis_congr h]

theorem sameWay_of_listsOnly {t : State} (h : ListsOnly s t) : SameWay s t := fun k => by rw [h.1]

theorem sameWay_of_reported {t : State} (h : Reported s t) : SameWay s t := sameWay_of_listsOnly (listsOnly_of_reported h)

theorem SameWay.foldl {α : Type} {f : State → α → State} (h : ∀ t x, SameWay t (f t x)) (l : List α) (s : State) :
    SameWay s (l.foldl f s) := by
  induction l generalizing s with
  | nil => exact .refl s
  | cons x t ih => exact (h s x).trans (ih _)

variable (s)

theorem sameWay_setCis (e : Nat) {x : Cistern} (hx : x.gaveWay = (s.cis e).gaveWay) : SameWay s (s.setCis e x) := fun k => by
  by_cases hk : k = e
  · subst hk; rw [cis_setCis, hx]
  · rw [cis_setCis_other _ _ hk]

/-! Registers, streams and bytes. -/

theorem sameWay_setN (a v : Nat) : SameWay s (s.setN a v) := sameWay_of_same rfl
theorem sameWay_setBit (a i : Nat) (b : Bool) : SameWay s (s.setBit a i b) := sameWay_of_reported (reported_setReg s _ _)
theorem sameWay_setPair (a v : Nat) : SameWay s (s.setPair a v) := sameWay_of_reported (reported_setPair s a v)
theorem sameWay_raise (a i : Nat) : SameWay s (s.raise a i) := sameWay_of_reported (reported_raise s a i)
theorem sameWay_count (a n st bit : Nat) : SameWay s (s.count a n st bit) := sameWay_of_reported (reported_count s _ _ _ _)
theorem sameWay_setStrm (h : Nat) (x : Stream) : SameWay s (s.setStrm h x) := sameWay_of_same rfl
theorem sameWay_setKv (h : Nat) (v : KvSeq) : SameWay s (s.setKv h v) := sameWay_setStrm s h _
theorem sameWay_setRun (h : Nat) (r : StepRun) : SameWay s (s.setRun h r) := sameWay_setStrm s h _
theorem sameWay_fail (h code : Nat) : SameWay s (s.fail h code) := sameWay_setRun s h _

theorem sameWay_setKvEnt (h i : Nat) (e : KvEntry) : SameWay s (s.setKvEnt h i e) :=
  sameWay_of_listsOnly (listsOnly_writeData s _ _ _)
theorem sameWay_setRefCnt (r n : Nat) : SameWay s (s.setRefCnt r n) := sameWay_of_listsOnly (listsOnly_writeData s _ _ _)
theorem sameWay_writePage (loc f off : Nat) (l : List Byte) : SameWay s (s.writePage loc f off l) :=
  sameWay_of_listsOnly (listsOnly_writeRuns s _ _ _)
theorem sameWay_readCtl (loc a n : Nat) : SameWay s (s.readCtl loc a n).st :=
  sameWay_of_listsOnly (listsOnly_readCtl s _ _ _)
theorem sameWay_readData (loc a n : Nat) : SameWay s (s.readData loc a n).st :=
  sameWay_of_listsOnly (listsOnly_readData s _ _ _)

theorem sameWay_zeroSeen (h : Nat) (l : List Nat) : SameWay s (s.zeroSeen h l) := by
  unfold State.zeroSeen
  split
  · exact .refl s
  · exact sameWay_setStrm s h _

theorem sameWay_zeroHandle (hdl : Nat) (l : List Nat) : SameWay s (s.zeroHandle hdl l) := by
  unfold State.zeroHandle
  split
  · exact .refl s
  · split
    · exact sameWay_zeroSeen s _ l
    · split
      · exact .refl s
      · exact sameWay_setStrm s _ _

/-! Pages and swap units (R236, R249 to R251). -/

theorem sameWay_lowerLows (d : Nat) (l : List Nat) : SameWay s (lowerLows d s l) := by
  induction l generalizing s with
  | nil => exact .refl s
  | cons i t ih =>
    refine SameWay.trans ?_ (ih _)
    split
    · exact sameWay_setN s _ _
    · exact .refl s

theorem sameWay_setPools (p : List PagePool) : SameWay s { s with pools := p } := sameWay_of_same rfl

theorem sameWay_freeRun (f n : Nat) : SameWay s (s.freeRun f n) := by
  unfold State.freeRun
  dsimp only
  exact ((sameWay_lowerLows s _ _).trans (sameWay_setPools _ _)).trans (sameWay_of_listsOnly (listsOnly_retireRun _ f n))

theorem sameWay_takeRun (f n : Nat) : SameWay s (s.takeRun f n) := by
  unfold State.takeRun
  dsimp only
  exact (sameWay_setPools s _).trans (sameWay_lowerLows _ _ _)

theorem sameWay_freeSwap (f u : Nat) : SameWay s (s.freeSwap f u) := by
  have hswaps : ∀ m, SameWay s { s with swaps := m } := fun _ => sameWay_of_same rfl
  unfold State.freeSwap State.setSwapRuns
  dsimp only
  exact (hswaps _).trans (sameWay_setN _ _ _)

theorem sameWay_givePage {h i f : Nat} {t : State} (hgive : s.givePage h i = some (f, t)) : SameWay s t := by
  unfold State.givePage at hgive
  dsimp only at hgive
  split at hgive
  · cases hgive
  · split at hgive
    · cases hgive
    · split at hgive
      · cases hgive
      · obtain ⟨rfl, rfl⟩ : _ = f ∧ _ = t := by simpa using hgive
        exact (sameWay_setStrm s h _).trans (sameWay_takeRun _ _ _)

theorem sameWay_landPage (h i f : Nat) : SameWay s (s.landPage h i f) := by
  unfold State.landPage
  split
  · exact sameWay_setKvEnt s h i _
  · exact sameWay_setKv s h _

theorem sameWay_grantList (h : Nat) (l : List Nat) : SameWay s (grantList h s l) := by
  induction l generalizing s with
  | nil => exact sameWay_setKv s h _
  | cons i t ih =>
    unfold grantList
    split
    · next f u hgive => exact ((sameWay_givePage s hgive).trans (sameWay_landPage u h i f)).trans (ih _)
    · exact sameWay_setKv s h _

/-! Staged positions are written out. -/

theorem sameWay_zeroSpan (k : KvDecl) (page : Nat → Option Nat) (t0 t1 : Nat) (l : List Nat) :
    SameWay s (zeroSpan k page t0 t1 s l) := by
  have hruns : ∀ (f : Nat) (r : List (Nat × Nat)) (u : State), SameWay u (zeroRuns f u r) := fun f r => by
    induction r with
    | nil => exact .refl
    | cons p t ih => exact fun u => (sameWay_writePage u _ _ _ _).trans (ih _)
  induction l generalizing s with
  | nil => exact .refl s
  | cons g t ih =>
    refine SameWay.trans ?_ (ih _)
    split
    · exact hruns _ _ s
    · exact .refl s

theorem sameWay_flushBytes (k : KvDecl) (page : Nat → Option Nat) (m : AMap Byte) : SameWay s (flushBytes k page s m) := by
  induction m generalizing s with
  | nil => exact .refl s
  | cons x t ih =>
    refine SameWay.trans ?_ (ih _)
    split
    · exact sameWay_writePage s _ _ _ _
    · exact .refl s

theorem sameWay_flushFirst (h : Nat) (k : KvDecl) : SameWay s (s.flushFirst h k) := by
  have hblock : ∀ b, SameWay s (s.flushBlock h b k) := fun b => by
    unfold State.flushBlock
    dsimp only
    split
    · exact .refl s
    · exact ((sameWay_zeroSpan s _ _ _ _ _).trans (sameWay_flushBytes _ _ _ _)).trans (sameWay_setKv _ h _)
  unfold State.flushFirst
  split
  · exact .refl s
  · dsimp only
    split
    · exact hblock _
    · exact sameWay_setKv s h _

theorem sameWay_flushUpTo (h top : Nat) (k : KvDecl) (n : Nat) : SameWay s (flushUpTo h top k n s) := by
  induction n generalizing s with
  | zero => exact .refl s
  | succ n ih =>
    unfold flushUpTo
    split
    · exact .refl s
    · split
      · exact (sameWay_flushFirst s h k).trans (ih _)
      · exact .refl s

theorem sameWay_flushSet (h : Nat) : SameWay s (s.flushSet h) := by
  unfold State.flushSet
  split
  · exact (sameWay_flushUpTo s h _ _ _).trans (sameWay_setKv _ h _)
  · exact .refl s

/-! A restore is asked for (R227, R251). -/

theorem sameWay_chooseVictims (h n : Nat) : SameWay s (chooseVictims h n s).2 := by
  have hmark : ∀ (t : State) (v : Nat), SameWay t (t.markVictim v) := fun t v => by
    unfold State.markVictim
    split
    · exact .refl t
    · exact ((sameWay_flushSet t v).trans (sameWay_setKv _ v _)).trans (sameWay_setBit _ _ _ _)
  induction n generalizing s with
  | zero => exact .refl s
  | succ n ih =>
    unfold chooseVictims
    split
    · exact .refl s
    · split
      · exact .refl s
      · exact (hmark s _).trans (ih _)

theorem sameWay_wantPages (h : Nat) (l : List Nat) : SameWay s (s.wantPages h l).2 := by
  have hgrant : SameWay s ((s.setKv h { (s.strm h).kv with need := l, since := s.tb.toNat }).grant h) :=
    (sameWay_setKv s h _).trans (sameWay_grantList _ h _)
  unfold State.wantPages
  dsimp only
  split
  · exact hgrant
  · split
    · exact hgrant.trans (sameWay_chooseVictims _ _ _)
    · dsimp only
      refine SameWay.trans (SameWay.trans (SameWay.trans ?_ (sameWay_setKv _ h _)) (sameWay_count _ _ _ _ _)) (sameWay_raise _ _ _)
      exact hgrant.trans (sameWay_chooseVictims _ _ _)

theorem sameWay_cutRestore (h : Nat) : SameWay s (s.cutRestore h) := by
  have hback : ∀ (k : KvDecl) (l : List (Nat × Nat)) (t : State), SameWay t (bringBack h k t l) := fun k l => by
    induction l with
    | nil => exact .refl
    | cons p l ih =>
      refine fun t => ?_
      unfold bringBack
      dsimp only
      split
      · exact ih t
      · exact ((((sameWay_writePage t _ _ _ _).trans (sameWay_setKvEnt _ h _ _)).trans (sameWay_freeSwap _ _ _)).trans
          (sameWay_setPair _ _ _)).trans (ih _)
  have hdrop : ∀ (k : KvDecl) (l : List (Nat × Nat)) (t : State), SameWay t (dropGranted h k t l) := fun k l => by
    induction l with
    | nil => exact .refl
    | cons p l ih =>
      refine fun t => SameWay.trans ?_ (ih _)
      split
      · exact sameWay_freeRun t _ _
      · exact .refl t
  unfold State.cutRestore
  split
  · exact .refl s
  · exact ((hback _ _ s).trans (hdrop _ _ _)).trans (sameWay_setKv _ h _)

theorem sameWay_askRestore (h : Nat) : SameWay s (s.askRestore h).2 := by
  have hwant : ∀ l, SameWay s
      (((s.setKv h { (s.strm h).kv with st := .restore, swapOut := [] }).showSwapping).wantPages h l).2 := fun l =>
    ((sameWay_setKv s h _).trans (sameWay_setBit _ _ _ _)).trans (sameWay_wantPages _ h l)
  unfold State.askRestore
  dsimp only
  split
  · exact (hwant _).trans (sameWay_cutRestore _ h)
  · exact hwant _

theorem sameWay_holdItem (i : WorkItem) : SameWay s (s.holdItem i) := by
  unfold State.holdItem
  split
  · exact .refl s
  · next h _ =>
    split
    · exact .refl s
    · dsimp only
      split
      · exact (sameWay_askRestore s h).trans (sameWay_fail _ h 3)
      · exact sameWay_askRestore s h

/-! What an attention item reads (R216, R217). -/

theorem sameWay_stepRead (h loc : Nat) (l : List (Nat × Nat)) : SameWay s (s.stepRead h loc l).2 := by
  have hread := sameWay_of_listsOnly (listsOnly_readRuns s loc l)
  unfold State.stepRead
  dsimp only
  split
  · exact hread.trans (sameWay_fail _ h 6)
  · exact hread.trans (sameWay_zeroSeen _ h _)

theorem sameWay_opRead (h loc : Nat) (op : Operand) (o n : Nat) : SameWay s (s.opRead h loc op o n).2 := by
  unfold State.opRead
  split
  · exact .refl s
  · split
    · exact sameWay_stepRead s h loc _
    · exact sameWay_fail s h 6

theorem sameWay_rowRead (h loc : Nat) (o : Operand) (rb row : Nat) : SameWay s (s.rowRead h loc o rb row).2 := by
  unfold State.rowRead
  split
  · exact .refl s
  · split
    · exact .refl s
    · exact sameWay_fail s h 6
  · split
    · exact sameWay_stepRead s h loc _
    · exact sameWay_fail s h 6

theorem sameWay_rowsRead (h loc : Nat) (o : Operand) (rb n i : Nat) : SameWay s (s.rowsRead h loc o rb n i).2 := by
  induction n generalizing s i with
  | zero => exact .refl s
  | succ n ih =>
    have hrow := sameWay_rowRead s h loc o rb i
    unfold State.rowsRead
    split
    · next b u heq => rw [heq] at hrow; exact hrow.trans (ih u (i + 1))
    · next u heq => rw [heq] at hrow; exact hrow

theorem sameWay_denseRows (h loc : Nat) (n : NodeRec) (slot rb r0 cnt : Nat) :
    SameWay s (s.denseRows h loc n slot rb r0 cnt).2 := by
  unfold State.denseRows
  split
  · exact sameWay_rowsRead s h loc _ _ _ _
  · exact sameWay_fail s h 6

theorem sameWay_biasRows (h loc : Nat) (o : Operand) (n i m : Nat) : SameWay s (s.biasRows h loc o n i m).2 := by
  induction m generalizing s i with
  | zero => exact .refl s
  | succ m ih =>
    have hrow := sameWay_opRead s h loc o (512 * i) n
    unfold State.biasRows
    split
    · next b u heq => rw [heq] at hrow; exact hrow.trans (ih u (i + 1))
    · next u heq => rw [heq] at hrow; exact hrow

theorem SameWay.foldPairs {α β : Type} {f : β × State → α → β × State} (h : ∀ a x, SameWay a.2 (f a x).2) (l : List α)
    (a : β × State) : SameWay a.2 (l.foldl f a).2 := by
  induction l generalizing a with
  | nil => exact .refl a.2
  | cons x t ih => exact (h a x).trans (ih _)

theorem sameWay_maskRows (h loc : Nat) (x : AttnJob) : SameWay s (s.maskRows h loc x).2.2 := by
  unfold State.maskRows
  split
  next bt s1 hbias =>
    have hbefore : SameWay s s1 := by
      split at hbias
      · split at hbias
        · next o _ =>
          have hrows := sameWay_biasRows s h loc o (if x.d.signed then 512 else 256) 0 x.d.heads
          rw [hbias] at hrows
          exact hrows
        · exact (Prod.mk.inj hbias).2 ▸ sameWay_fail s h 6
      · exact (Prod.mk.inj hbias).2 ▸ SameWay.refl s
    refine hbefore.trans ?_
    split
    next bm s2 hmask =>
      split at hmask
      · split at hmask
        · next o _ =>
          refine congrArg Prod.snd hmask ▸ SameWay.foldPairs (fun a i => ?_) _ _
          have hread := sameWay_opRead a.2 h loc o (x.e.bmOfs + i * x.d.bmStride) x.d.bmStride
          split
          · next heq => rw [heq] at hread; exact hread
          · next heq => rw [heq] at hread; exact hread
        · exact (Prod.mk.inj hmask).2 ▸ sameWay_fail s1 h 6
      · exact (Prod.mk.inj hmask).2 ▸ SameWay.refl s1

theorem sameWay_upRows (h loc : Nat) (x : AttnJob) : SameWay s (s.upRows h loc x).2 := by
  unfold State.upRows
  split
  · exact .refl s
  · split
    · exact sameWay_rowsRead s h loc _ _ _ _
    · exact sameWay_fail s h 6

theorem sameWay_pagedBlock (h loc : Nat) (x : AttnJob) (k : KvDecl) (j : Nat) : SameWay s (s.pagedBlock h loc x k j).2 := by
  have hlist : ∀ (t : State) (a : Nat), SameWay t (t.kvListError h loc a) := fun t a =>
    (sameWay_of_reported ((report_spec t _ _ _ _ _).trans (reported_raise _ _ _))).trans (sameWay_fail _ h 6)
  have hpieces : ∀ (l : List (Nat × Nat)) (t : State), SameWay t (stepPieces h loc t l).2 := fun l => by
    induction l with
    | nil => exact .refl
    | cons p l ih =>
      intro t
      have hpiece := sameWay_stepRead t h loc [(p.1, p.2)]
      unfold stepPieces
      split
      · next b u heq => rw [heq] at hpiece; exact hpiece.trans (ih u)
      · next u heq => rw [heq] at hpiece; exact hpiece
  have hread := sameWay_readCtl s loc
  unfold State.pagedBlock
  split
  · exact .refl s
  · dsimp only
    split
    · exact (hread _ _).trans (sameWay_fail _ h 6)
    · split
      · exact (hread _ _).trans (hlist _ _)
      · exact (hread _ _).trans (hpieces _ _)

theorem sameWay_blockRows (h loc : Nat) (x : AttnJob) (up : List (List Word)) (j : Nat) :
    SameWay s (s.blockRows h loc x up j).2 := by
  unfold State.blockRows
  dsimp only
  split
  · split
    · exact sameWay_fail s h 6
    · split
      · exact .refl s
      · exact sameWay_pagedBlock s h loc x _ j
  · exact (sameWay_denseRows s h loc _ _ _ _ _).trans (sameWay_denseRows _ h loc _ _ _ _ _)

theorem sameWay_blocksRows (h loc : Nat) (x : AttnJob) (up : List (List Word)) (l : List Nat) :
    SameWay s (blocksRows h loc x up s l).2 := by
  induction l generalizing s with
  | nil => exact .refl s
  | cons j t ih =>
    have hblock := sameWay_blockRows s h loc x up j
    unfold blocksRows
    dsimp only
    split
    · exact hblock
    · exact hblock.trans (ih _)

theorem sameWay_attnItem (h loc : Nat) (i : WorkItem) : SameWay s (s.attnItem h loc i) := by
  unfold State.attnItem
  split
  · exact .refl s
  · next x _ =>
    have hread : SameWay s (blocksRows h loc x (((s.queryRows h loc x (x.d.slot 0) x.d.dk).2.maskRows h loc x).2.2.upRows h loc x).1
        (((s.queryRows h loc x (x.d.slot 0) x.d.dk).2.maskRows h loc x).2.2.upRows h loc x).2
        ((List.range (bitsAt i.param2 0 32)).map (fun j => i.param + j))).2 :=
      (((sameWay_denseRows s h loc _ _ _ _ _).trans (sameWay_maskRows _ h loc x)).trans (sameWay_upRows _ h loc x)).trans
        (sameWay_blocksRows _ h loc x _ _)
    dsimp only
    split
    · exact hread
    · exact hread.trans (sameWay_setRun _ h _)

theorem sameWay_expandItem (h loc : Nat) (i : WorkItem) : SameWay s (s.expandItem h loc i) := by
  unfold State.expandItem
  split
  · exact .refl s
  · next x _ =>
    have hread : SameWay s (blocksRows h loc x (s.upRows h loc x).1 (s.upRows h loc x).2
        ((List.range (bitsAt i.param2 0 32)).map (fun j => i.param + j))).2 :=
      (sameWay_upRows s h loc x).trans (sameWay_blocksRows _ h loc x _ _)
    dsimp only
    split
    · exact hread
    · exact hread.trans (sameWay_setRun _ h _)

/-! The end of a command, and the next PROBE item of an attach (R248, R385). -/

theorem sameWay_cqWrite (f q : Nat) (e : CplEntry) : SameWay s (s.cqWrite f q e) := by
  have hsignal : ∀ t : State, SameWay t (t.cqSignal f q) := fun t => by
    have hstate : ∀ x, SameWay t (t.setCqState f q x) := fun _ => sameWay_of_same rfl
    have hvector : ∀ (u : State) (i : Nat), SameWay u (u.raiseFnVector f i) := fun u i => by
      unfold State.raiseFnVector
      split
      · exact sameWay_of_reported (reported_raiseVector u _)
      · exact .refl u
    unfold State.cqSignal
    dsimp only
    split
    · exact (hstate _).trans (hvector _ _)
    · exact hstate _
  unfold State.cqWrite
  dsimp only
  split
  · exact (sameWay_setBit s _ _ _).trans (sameWay_setBit _ _ _ _)
  · refine SameWay.trans (SameWay.trans ?_ (sameWay_setBit _ _ _ _)) (hsignal _)
    have hstored : ∀ (b : List Byte) (a v : Nat), SameWay s ((s.setBytes a b).setFld (Reg.HQ_CQq_STATUS f q) 0 16 v) :=
      fun b a v => (sameWay_of_listsOnly (listsOnly_setBytes s a b)).trans (sameWay_setN _ _ _)
    split
    · exact (hstored _ _ _).trans (sameWay_setN _ _ _)
    · exact hstored _ _ _

theorem sameWay_endCmd (f q : Nat) (d : BitVec 512) (status result : Nat) : SameWay s (s.endCmd f q d status result) := by
  have hpost : ∀ (t : State) (c : Nat) (e : CplEntry), SameWay t (t.post f c e) := fun t c e => by
    unfold State.post
    split
    · exact .refl t
    · split
      · split
        · exact sameWay_count t _ _ _ _
        · exact sameWay_of_same rfl
      · exact sameWay_cqWrite t f c e
  have hcounted : ∀ t : State, SameWay t (if status = 8 then t.count (Reg.HQ_FNf_REJ f) 1 Reg.HQ_INT_STATUS 3 else t) :=
    fun t => by
      split
      · exact sameWay_count t _ _ _ _
      · exact .refl t
  have hdone : SameWay s { s with host := { s.host with fetched := dropDone f q d s.host.fetched } } := sameWay_of_same rfl
  unfold State.endCmd
  dsimp only
  split
  · exact (hdone.trans (sameWay_count _ _ _ _ _)).trans (hcounted _)
  · exact ((hdone.trans (sameWay_count _ _ _ _ _)).trans (hcounted _)).trans (hpost _ _ _)

theorem sameWay_endAttach (h f q : Nat) (d : BitVec 512) (n st : Nat) : SameWay s (s.endAttach h f q d n st) :=
  (sameWay_setStrm s h _).trans (sameWay_endCmd _ f q d st n)

theorem sameWay_giveItem (e : Nat) (i : WorkItem) : SameWay s (s.giveItem e i) := by
  refine (sameWay_setCis s e (x := if (s.cis e).queue.length < 64 then { s.cis e with queue := (s.cis e).queue ++ [i] }
    else { s.cis e with waiting := (s.cis e).waiting ++ [i] }) ?_).trans (sameWay_of_same rfl)
  split <;> rfl

theorem sameWay_attachNext (h : Nat) : SameWay s (s.attachNext h) := by
  unfold State.attachNext
  split
  · dsimp only
    split
    · split
      · exact (sameWay_readData s _ _ _).trans (sameWay_endAttach _ h _ _ _ _ _)
      · exact sameWay_giveItem s _ _
    · exact sameWay_endAttach s h _ _ _ _ _
  · exact .refl s

theorem sameWay_matchIn (loc : Nat) (hash : Dword) (tenant model parent : Nat) (tok : List Word) (l : List Nat) :
    SameWay s (matchIn loc hash tenant model parent tok s l).st := by
  induction l generalizing s with
  | nil => exact .refl s
  | cons a l ih =>
    have hread := sameWay_readCtl s loc (s.entryRec a) 576
    unfold matchIn
    dsimp only
    split
    · split
      · exact hread
      · split
        · exact hread
        · exact hread.trans (ih _)
    · exact ih s

/-- A look-up, with the reads of its records left open: what is said of its state needs only this. -/
theorem lookUp_eq (loc : Nat) (hash : Dword) (tenant model parent : Nat) (tok : List Word) :
    ∃ l, s.lookUp loc hash tenant model parent tok = if !s.pfxEn then { st := s }
      else if (s.readCtl loc (s.bucket hash.toNat) 64).failed then
        { failed := true, reads := [(s.bucket hash.toNat, 64)], st := (s.readCtl loc (s.bucket hash.toNat) 64).st }
      else { matchIn loc hash tenant model parent tok (s.readCtl loc (s.bucket hash.toNat) 64).st
          ((s.readCtl loc (s.bucket hash.toNat) 64).st.bucketEntries hash.toNat) with reads := l } := ⟨_, rfl⟩

theorem sameWay_found (c : Bool) {b : Rd} {p : Probed} (l l' : List (Nat × Nat)) (hb : SameWay s b.st) (hp : SameWay s p.st) :
    SameWay s (if c then { st := s } else if b.failed then { failed := true, reads := l, st := b.st }
      else { p with reads := l' } : Probed).st := by
  split
  · exact .refl s
  · split
    · exact hb
    · exact hp

theorem sameWay_lookUp (loc : Nat) (hash : Dword) (tenant model parent : Nat) (tok : List Word) :
    SameWay s (s.lookUp loc hash tenant model parent tok).st := by
  obtain ⟨l, hl⟩ := lookUp_eq s loc hash tenant model parent tok
  have hread := sameWay_readCtl s loc (s.bucket hash.toNat) 64
  have hmatch := sameWay_matchIn (s.readCtl loc (s.bucket hash.toNat) 64).st loc hash tenant model parent tok
    ((s.readCtl loc (s.bucket hash.toNat) 64).st.bucketEntries hash.toNat)
  rw [hl]
  exact sameWay_found s (!s.pfxEn) _ l hread (hread.trans hmatch)

theorem sameWay_probe (loc : Nat) (hash : Dword) (tenant model parent : Nat) (tok : List Word) :
    SameWay s (s.probe loc hash tenant model parent tok).st :=
  (sameWay_lookUp s loc hash tenant model parent tok).trans (sameWay_count _ _ _ _ _)

end Sys2Proof.Machine
end

section
/-!
PROOFS. The items that gave way, over an item's work and its start (R164, R165).
-/

namespace Sys2Proof.Machine

variable (s : State)

/-- A probe that finds the record at `a`: its pages join the sequence's list, and the context grows by the block whose
tokens are `r`'s bytes (R248). -/
def State.probeHit (s1 : State) (h f q : Nat) (d : BitVec 512) (n : Nat) (k : KvDecl) (v : KvSeq) (r : Rd) (hash : Dword)
    (a : Nat) : State :=
  let b := k.listBlock (v.ctx / 128)
  let s2 := (s1.recPages a).zipIdx.foldl (fun u x => u.setKvEnt h (b * k.groups + x.2) ⟨1, true, x.1⟩) s1
  let s3 := (s2.setRefCnt a (s2.refCnt a + 1)).count Reg.KVC_PFX_HIT 1 Reg.KVC_INT_STATUS 4
  let s4 := s3.modStrm h (fun x => { x with
    attach := some (f, q, d, n + 128)
    kv := { x.kv with
      ctx := v.ctx + 128
      recs := (b, a) :: v.recs
      allTokens := v.allTokens ++ wordsOf r.bytes 128
      lastHash := hash
      staging := v.staging.map (fun g => { g with start := v.ctx + 128, tokens := [] })
      tokens := [] } })
  s4.attachNext h

/-- What a PROBE item does once its tokens `r` are read and the look-up gave `p`. -/
def State.afterProbe (h f q : Nat) (d : BitVec 512) (n : Nat) (k : KvDecl) (v : KvSeq) (r : Rd) (hash : Dword)
    (p : Probed) : Nat × State :=
  if r.failed ∨ p.failed then (6, p.st.endAttach h f q d n 6)
  else match p.found with
    | none =>
      (0, (p.st.count Reg.KVC_PFX_MISS 1 Reg.KVC_INT_STATUS 4).endAttach h f q d n (if n = 0 then 7 else 0))
    | some a => (0, p.st.probeHit h f q d n k v r hash a)

theorem sameWay_probeHit (h f q : Nat) (d : BitVec 512) (n : Nat) (k : KvDecl) (v : KvSeq) (r : Rd) (hash : Dword) (a : Nat) :
    SameWay s (s.probeHit h f q d n k v r hash a) := by
  have hents := SameWay.foldl (f := fun u (x : Nat × Nat) =>
      u.setKvEnt h (k.listBlock (v.ctx / 128) * k.groups + x.2) ⟨1, true, x.1⟩)
    (fun t x => sameWay_setKvEnt t _ _ _) (s.recPages a).zipIdx s
  unfold State.probeHit
  dsimp only
  exact (((hents.trans (sameWay_setRefCnt _ _ _)).trans (sameWay_count _ _ _ _ _)).trans (sameWay_setStrm _ _ _)).trans
    (sameWay_attachNext _ _)

theorem sameWay_afterProbe (h f q : Nat) (d : BitVec 512) (n : Nat) (k : KvDecl) (v : KvSeq) (r : Rd) (hash : Dword)
    (p : Probed) : SameWay p.st (State.afterProbe h f q d n k v r hash p).2 := by
  unfold State.afterProbe
  split
  · exact sameWay_endAttach _ h f q d n 6
  · split
    · exact (sameWay_count _ _ _ _ _).trans (sameWay_endAttach _ h f q d n _)
    · next a _ => exact sameWay_probeHit p.st h f q d n k v r hash a

/-- A PROBE item reads the block's tokens, looks its record up from a state with the same items given way, and acts on
what it finds. -/
theorem probeItem_eq (loc h : Nat) : s.probeItem loc h = (8, s) ∨
    ∃ f q d n k v r hash p, SameWay s p.st ∧ s.probeItem loc h = State.afterProbe h f q d n k v r hash p := by
  unfold State.probeItem
  split
  case h_2 => exact .inl rfl
  case h_1 f q d n k _ _ =>
    have hread := sameWay_readData s loc (db d 8 8 + 4 * n) 512
    refine .inr ⟨f, q, d, n, k, (s.strm h).kv, s.readData loc (db d 8 8 + 4 * n) 512,
      (s.readData loc (db d 8 8 + 4 * n) 512).st.attachHash h k (s.readData loc (db d 8 8 + 4 * n) 512).bytes, _, ?_, rfl⟩
    split
    · exact hread.trans (sameWay_probe _ _ _ _ _ _ _)
    · exact hread

theorem sameWay_probeItem (loc h : Nat) : SameWay s (s.probeItem loc h).2 := by
  rcases probeItem_eq s loc h with heq | ⟨f, q, d, n, k, v, r, hash, p, hp, heq⟩
  · rw [heq]
    exact .refl s
  · rw [heq]
    exact hp.trans (sameWay_afterProbe h f q d n k v r hash p)

theorem sameWay_moveItem (e : Nat) (i : WorkItem) : SameWay s (s.moveItem e i).2.2 := by
  unfold State.moveItem
  split
  · exact .refl s
  · split
    · exact sameWay_of_listsOnly (listsOnly_writeRuns s _ _ _)
    · dsimp only
      exact (sameWay_of_listsOnly (listsOnly_readRuns s _ _)).trans ((sameWay_zeroHandle _ _ _).trans
        (sameWay_of_listsOnly (listsOnly_writeRuns _ _ _ _)))

/-- What an item's work can be: nothing, an ATTN or EXPAND item's part of its step, a PROBE item's look-up, or bytes moved. -/
theorem doItem_cases (e : Nat) (i : WorkItem) : (s.doItem e i).2.2 = s ∨
    (∃ h, (s.doItem e i).2.2 = s.attnItem h (s.cisLoc e) i) ∨ (∃ h, (s.doItem e i).2.2 = s.expandItem h (s.cisLoc e) i) ∨
    (∃ h, (s.doItem e i).2.2 = (s.probeItem (s.cisLoc e) h).2) ∨ (s.doItem e i).2.2 = (s.moveItem e i).2.2 := by
  unfold State.doItem
  split
  · exact .inl rfl
  · split
    · exact .inl rfl
    · split
      · split
        · next h _ => exact .inr (.inl ⟨h, rfl⟩)
        · exact .inl rfl
      · split
        · split
          · next h _ => exact .inr (.inr (.inl ⟨h, rfl⟩))
          · exact .inl rfl
        · split
          · split
            · next h _ => exact .inr (.inr (.inr (.inl ⟨h, rfl⟩)))
            · exact .inl rfl
          · exact .inr (.inr (.inr (.inr rfl)))

theorem sameWay_doItem (e : Nat) (i : WorkItem) : SameWay s (s.doItem e i).2.2 := by
  rcases doItem_cases s e i with heq | ⟨h, heq⟩ | ⟨h, heq⟩ | ⟨h, heq⟩ | heq <;> rw [heq]
  · exact .refl s
  · exact sameWay_attnItem s h _ i
  · exact sameWay_expandItem s h _ i
  · exact sameWay_probeItem s _ h
  · exact sameWay_moveItem s e i

theorem sameWay_itemRan (e : Nat) (i : WorkItem) (st z n : Nat) : SameWay s (s.itemRan e i st z n) := fun k => by
  by_cases hk : k = e
  · rw [hk, cis_itemRan]
  · rw [cis_itemRan_other _ _ _ _ _ _ hk]

theorem sameWay_runItem (e : Nat) (i : WorkItem) : SameWay s (s.runItem e i) := by
  obtain ⟨st, z, u, hwork⟩ : ∃ st z u, s.doItem e i = (st, z, u) := ⟨_, _, _, rfl⟩
  have hway := sameWay_doItem s e i
  rw [hwork] at hway
  rw [runItem_eq hwork]
  exact SameWay.trans hway (sameWay_itemRan u e i st z _)

/-- A start changes what gave way only as the queue's next item is taken in. -/
theorem gaveWay_startItemOn (e : Nat) (i : WorkItem) (rest : List WorkItem) :
    ((s.startItemOn e i rest).cis e).gaveWay = (s.cis e).gaveWay := by
  have hbegun : ((s.begun e i rest).cis e).gaveWay = (s.cis e).gaveWay := by
    rw [State.begun, cis_setCis]
    rfl
  cases h : (s.begun e i rest).itemHeld i with
  | true =>
    rw [startItemOn_held h, cis_setCis]
    exact (sameWay_holdItem _ i e).trans hbegun
  | false =>
    rw [startItemOn_runs h]
    exact (sameWay_runItem _ e i e).trans hbegun

end Sys2Proof.Machine
end

section
/-!
PROOFS. The end of an item (R163 to R165, R192): the engine let go, the counts, the record, the arrival and the step.
-/

namespace Sys2Proof.Machine

variable {s : State}

/-! The engine and its counts. -/

/-- Engine e has let its item go, and its die is marked busy. -/
def State.letGo (s : State) (e : Nat) : State := (s.free.2.setCis e (s.cis e).goOn).dieBusy (e / 32)

/-- The item of run r, let go by engine e, is counted. -/
def State.itemCounted (s : State) (e : Nat) (r : CisRun) : State :=
  let u := (s.letGo e).bump64 (Reg.CIS_BUSY_LO e) (s.free.1.toNat % 2 ^ 32)
  if r.status = 8 then u.rejectItem e else u.bump64 (Reg.CIS_ITEMS_LO e) 1

/-- The record of an item lies at COMPL, where that is aligned. -/
def State.recordWritten (s : State) (r : CisRun) : State :=
  if r.item.compl % 16 = 0 then
    s.writeData (s.locPath (r.item.engine / 32) 0 0 9 (r.item.engine % 32)) r.item.compl
      (itemRecord r.status r.zeroed r.item.handle s.tb)
  else s

theorem completeItem_eq {e : Fin 128} {r : CisRun} (h : (s.cis e).running = some r) :
    s.completeItem e = (((s.itemCounted e r).recordWritten r).itemArrival r.item).itemDone r.item := by
  rw [State.completeItem, h]
  rfl

theorem cis_letGo (s : State) (e : Nat) : (s.letGo e).cis e = (s.cis e).goOn := cis_setCis _ e _

theorem cis_letGo_other (s : State) {e k : Nat} (h : k ≠ e) : (s.letGo e).cis k = s.cis k := cis_setCis_other _ _ h

theorem bad_goOn (c : Cistern) : c.goOn.bad = c.bad := by
  unfold Cistern.goOn
  split
  · split <;> rfl
  · rfl

theorem reported_rejectItem (s : State) (e : Nat) : Reported s (s.rejectItem e) :=
  ((reported_count s _ _ _ _).trans (reported_raise _ _ _)).trans (reported_setPair _ _ _)

theorem reported_itemCounted (s : State) (e : Nat) (r : CisRun) : Reported (s.letGo e) (s.itemCounted e r) := by
  unfold State.itemCounted
  dsimp only
  split
  · exact (reported_setPair _ _ _).trans (reported_rejectItem _ _)
  · exact (reported_setPair _ _ _).trans (reported_setPair _ _ _)

section Counted

variable (s) (e : Nat) (r : CisRun)

theorem cis_itemCounted : (s.itemCounted e r).cis e = (s.cis e).goOn := by
  rw [reported_itemCounted]
  exact cis_letGo s e

theorem cis_itemCounted_other {k : Nat} (h : k ≠ e) : (s.itemCounted e r).cis k = s.cis k := by
  rw [reported_itemCounted]
  exact cis_letGo_other s h

theorem mem_itemCounted : (s.itemCounted e r).mem = s.mem := by rw [reported_itemCounted]; rfl
theorem streams_itemCounted : (s.itemCounted e r).streams = s.streams := by rw [reported_itemCounted]; rfl
theorem objs_itemCounted : (s.itemCounted e r).objs = s.objs := by rw [reported_itemCounted]; rfl
theorem tb_itemCounted : (s.itemCounted e r).tb = s.tb := by rw [reported_itemCounted]; rfl
theorem cond_itemCounted : (s.itemCounted e r).cond = s.cond := by rw [reported_itemCounted]; rfl
theorem granted_itemCounted : (s.itemCounted e r).fab.granted = s.fab.granted := by rw [reported_itemCounted]; rfl

theorem sound_itemCounted {a n : Nat} (hs : s.sound a n) : (s.itemCounted e r).sound a n := fun g hg => by
  obtain ⟨hfaulty, hlisted, hbits⟩ := hs g hg
  have hbad : ∀ k, ((s.itemCounted e r).cis k).bad = (s.cis k).bad := fun k => by
    by_cases hk : k = e
    · rw [hk, cis_itemCounted, bad_goOn]
    · rw [cis_itemCounted_other _ _ _ hk]
  refine ⟨(faulty_congr (cond_itemCounted s e r) g).trans hfaulty, ?_, fun w hw =>
    (badBits_congr (cond_itemCounted s e r) w).trans (hbits w hw)⟩
  rw [State.listed, hbad]
  exact hlisted

theorem reg_letGo (a : Nat) : (s.letGo e).reg a = s.reg a := rfl

theorem reg_itemCounted_of_done (hst : r.status ≠ 8) {a : Nat} (ha : a ∉ [Reg.CIS_BUSY_LO e, Reg.CIS_BUSY_LO e + 4,
    Reg.CIS_ITEMS_LO e, Reg.CIS_ITEMS_LO e + 4]) : (s.itemCounted e r).reg a = s.reg a := by
  simp only [List.mem_cons, List.not_mem_nil, or_false, not_or] at ha
  obtain ⟨hbusy, hbusy', hitems, hitems'⟩ := ha
  rw [State.itemCounted]
  rw [if_neg hst, reg_bump64_other _ _ hitems hitems', reg_bump64_other _ _ hbusy hbusy', reg_letGo]

theorem pair_items_itemCounted : (s.itemCounted e r).pair (Reg.CIS_ITEMS_LO e) =
    (s.pair (Reg.CIS_ITEMS_LO e) + 1) % 2 ^ 64 := by
  have hbusy : ∀ n, ((s.letGo e).bump64 (Reg.CIS_BUSY_LO e) n).pair (Reg.CIS_ITEMS_LO e) = s.pair (Reg.CIS_ITEMS_LO e) :=
    fun n => pair_setPair_other _ _ (by simp only [Reg.CIS_ITEMS_LO, Reg.CIS_BUSY_LO]; omega)
  have hreject : ∀ (t : State) (n : Nat), n = Reg.CIS_ITEMS_LO e ∨ n = Reg.CIS_ITEMS_LO e + 4 →
      ((t.count (Reg.CIS_REJECT e) 1 (Reg.CIS_INT_STATUS e) 2).raise (Reg.CIS_INT_STATUS e) 1).reg n = t.reg n :=
    fun t n hn => by
      simp only [Reg.CIS_ITEMS_LO] at hn
      rw [reg_raise_other _ _ (by simp only [Reg.CIS_INT_STATUS]; omega), reg_count_other _ _
        (by simp only [Reg.CIS_REJECT]; omega) (by simp only [Reg.CIS_INT_STATUS]; omega)]
  rw [State.itemCounted]
  split
  · rw [State.rejectItem, pair_bump64_same, pair_congr (hreject _ _ (.inl rfl)) (hreject _ _ (.inr rfl)), hbusy]
  · rw [pair_bump64_same, hbusy]

theorem rn_reject_itemCounted : (s.itemCounted e r).rn (Reg.CIS_REJECT e) =
    if r.status = 8 then min (s.rn (Reg.CIS_REJECT e) + 1) 0xFFFFFFFF else s.rn (Reg.CIS_REJECT e) := by
  have hbusy : ∀ n, ((s.letGo e).bump64 (Reg.CIS_BUSY_LO e) n).reg (Reg.CIS_REJECT e) = s.reg (Reg.CIS_REJECT e) := fun n =>
    reg_bump64_other _ _ (by simp only [Reg.CIS_REJECT, Reg.CIS_BUSY_LO]; omega)
      (by simp only [Reg.CIS_REJECT, Reg.CIS_BUSY_LO]; omega)
  have hitems : ∀ (t : State) n, (t.bump64 (Reg.CIS_ITEMS_LO e) n).reg (Reg.CIS_REJECT e) = t.reg (Reg.CIS_REJECT e) :=
    fun t n => reg_bump64_other _ _ (by simp only [Reg.CIS_REJECT, Reg.CIS_ITEMS_LO]; omega)
      (by simp only [Reg.CIS_REJECT, Reg.CIS_ITEMS_LO]; omega)
  have hapart : Reg.CIS_REJECT e ≠ Reg.CIS_INT_STATUS e := by simp only [Reg.CIS_REJECT, Reg.CIS_INT_STATUS]; omega
  rw [State.itemCounted]
  split
  · obtain ⟨hcount, -⟩ := count_spec ((s.letGo e).bump64 (Reg.CIS_BUSY_LO e) (s.free.1.toNat % 2 ^ 32)) (Reg.CIS_REJECT e) 1
      (Reg.CIS_INT_STATUS e) 2 (by decide) hapart
    rw [State.rn, State.rejectItem, hitems, reg_raise_other _ _ hapart, ← State.rn, hcount, State.rn, hbusy, ← State.rn]
  · rw [State.rn, hitems, hbusy, ← State.rn]

theorem rbit_reject_itemCounted (hst : r.status = 8) : (s.itemCounted e r).rbit (Reg.CIS_INT_STATUS e) 1 = true := by
  rw [State.itemCounted]
  rw [if_pos hst, State.rejectItem, rbit_congr (reg_bump64_other _ _
    (by simp only [Reg.CIS_INT_STATUS, Reg.CIS_ITEMS_LO]; omega) (by simp only [Reg.CIS_INT_STATUS, Reg.CIS_ITEMS_LO]; omega))]
  exact (raise_spec _ _ 1 (by decide)).1

end Counted

/-! The record (R163, log 38). -/

theorem length_itemRecord (status zeroed handle : Nat) (tb : Dword) : (itemRecord status zeroed handle tb).length = 16 := by
  simp only [itemRecord, List.length_append, length_leBytes]

theorem recordWritten_nowhere {r : CisRun}
    (h : r.item.compl % 16 ≠ 0 ∨ inOnePlace r.item.compl 16 = false ∨ placeOf r.item.compl = .regs) :
    s.recordWritten r = s := by
  unfold State.recordWritten
  split
  · next halign => exact writeData_nowhere (by rw [length_itemRecord]; exact h.resolve_left (not_not_intro halign)) _
  · rfl

theorem stored_recordWritten (s : State) (r : CisRun) : Stored s (s.recordWritten r) := by
  unfold State.recordWritten
  split
  · exact stored_writeData s _ _ _
  · exact .refl s

theorem listsOnly_recordWritten (s : State) (r : CisRun) : ListsOnly s (s.recordWritten r) := by
  unfold State.recordWritten
  split
  · exact listsOnly_writeData s _ _ _
  · exact .refl s

/-- A record in one range over sound cells reads back, and nothing but its bytes and cells differs. -/
theorem recordWritten_spec {r : CisRun} (halign : r.item.compl % 16 = 0) (hone : inOnePlace r.item.compl 16 = true)
    (hregs : placeOf r.item.compl ≠ .regs) (hs : s.sound r.item.compl 16) :
    (s.recordWritten r).bytes r.item.compl 16 = itemRecord r.status r.zeroed r.item.handle s.tb ∧
    SameBytes r.item.compl 16 s (s.recordWritten r) ∧ Renewed s (s.recordWritten r) := by
  have hlen := length_itemRecord r.status r.zeroed r.item.handle s.tb
  unfold State.recordWritten
  rw [if_pos halign]
  rw [← hlen] at hone hs
  obtain ⟨hread, hsame⟩ := writeData_sound hone hregs hs (s.locPath (r.item.engine / 32) 0 0 9 (r.item.engine % 32))
  have hrenewed := renewed_writeData hs (s.locPath (r.item.engine / 32) 0 0 9 (r.item.engine % 32))
  rw [hlen] at hread hsame
  exact ⟨hread, hsame, hrenewed⟩

end Sys2Proof.Machine
end

section
/-!
PROOFS. The arrival that an item makes (R145, R163): a barrier's cores wake, and nothing beyond cores and their registers
differs.
-/

namespace Sys2Proof.Machine

variable {s : State}

/-- A register of a Nomad core. -/
def CoreReg (a : Nat) : Prop := ∃ n, nmdBase n ≤ a ∧ a < nmdBase n + 0x400

theorem CoreReg.place {a : Nat} (h : CoreReg a) : 0x1000000 ≤ a ∧ 0x200000 ≤ a % 0x800000 := by
  obtain ⟨n, hlo, hhi⟩ := h
  simp only [nmdBase, clBase, dieBase] at hlo hhi
  omega

theorem not_coreReg_cis {e k : Nat} (hk : k < 0x1000) : ¬ CoreReg (cisBase e + k) := fun h => by
  have hplace := h.place
  simp only [cisBase, dieBase] at hplace
  omega

/-- Only cores, their registers and what the part reports differ, and free values are drawn. -/
def Woken (s t : State) : Prop := (∀ a, ¬ CoreReg a → t.reg a = s.reg a) ∧ t = { s with
  regs := t.regs
  errs := t.errs
  snap := t.snap
  fab := { s.fab with sent := t.fab.sent }
  host := t.host
  cores := t.cores
  freeCtr := t.freeCtr }

theorem Woken.trans {t u : State} (h1 : Woken s t) (h2 : Woken t u) : Woken s u := by
  obtain ⟨hregs, heq⟩ := h1
  obtain ⟨hregs', heq'⟩ := h2
  exact ⟨fun a ha => (hregs' a ha).trans (hregs a ha), by rw [heq', heq]⟩

theorem Woken.refl (s : State) : Woken s s := ⟨fun _ _ => rfl, rfl⟩

theorem woken_of_reported {t : State} (h : Reported s t) (hregs : ∀ a, ¬ CoreReg a → t.reg a = s.reg a) : Woken s t :=
  ⟨hregs, by rw [h]⟩

section Kept

variable {t : State} (h : Woken s t)
include h

theorem Woken.mem : t.mem = s.mem := by rw [h.2]
theorem Woken.streams : t.streams = s.streams := by rw [h.2]
theorem Woken.cisterns : t.cisterns = s.cisterns := by rw [h.2]
theorem Woken.objs : t.objs = s.objs := by rw [h.2]
theorem Woken.granted : t.fab.granted = s.fab.granted := by rw [h.2]

end Kept

variable (s)

theorem woken_setPair {a : Nat} (ha : CoreReg a) (ha' : CoreReg (a + 4)) (v : Nat) : Woken s (s.setPair a v) :=
  woken_of_reported (reported_setPair s a v) fun _ hb =>
    reg_setPair_other _ _ (fun h => hb (h ▸ ha)) (fun h => hb (h ▸ ha'))

theorem woken_setFld {a : Nat} (ha : CoreReg a) (lo len v : Nat) : Woken s (s.setFld a lo len v) :=
  woken_of_reported (reported_setReg s _ _) fun _ hb => reg_setFld_other _ _ _ _ (fun h => hb (h ▸ ha))

theorem woken_count {a st : Nat} (ha : CoreReg a) (hst : CoreReg st) (n bit : Nat) : Woken s (s.count a n st bit) :=
  woken_of_reported (reported_count s a n st bit) fun _ hb =>
    reg_count_other _ _ (fun h => hb (h ▸ ha)) (fun h => hb (h ▸ hst))

theorem coreReg_nmdBase (n k : Nat) (hk : k < 0x400) : CoreReg (nmdBase n + k) := ⟨n, by omega, by omega⟩

theorem woken_retireTo (n : Nat) (pc : Dword) (c : Core) : Woken s (s.retireTo n pc c) := by
  have hcore : Woken s (s.free.2.setCore n (c.retired pc s.free.1.toNat)) := ⟨fun _ _ => rfl, rfl⟩
  rw [retireTo_eq]
  exact ((hcore.trans (woken_setPair _ (coreReg_nmdBase n 0x8 (by decide)) (coreReg_nmdBase n 0xC (by decide)) _)).trans
    (woken_setPair _ (coreReg_nmdBase n 0x18 (by decide)) (coreReg_nmdBase n 0x1C (by decide)) _)).trans
    (woken_setPair _ (coreReg_nmdBase n 0x10 (by decide)) (coreReg_nmdBase n 0x14 (by decide)) _)

theorem woken_releaseCore (n rd : Nat) (v : Dword) : Woken s (s.releaseCore n rd v) := by
  have hfree : Woken s s.free.2 := ⟨fun _ _ => rfl, rfl⟩
  exact ((hfree.trans (woken_retireTo _ n _ _)).trans (woken_setFld _ (coreReg_nmdBase n 0 (by decide)) 0 3 1)).trans
    (woken_count _ (coreReg_nmdBase n 0x20 (by decide)) (coreReg_nmdBase n 0x50 (by decide)) _ _)

theorem woken_releaseBar (cl i : Nat) (l : List Nat) : Woken s (releaseBar cl i s l) := by
  induction l generalizing s with
  | nil => exact .refl s
  | cons n t ih =>
    unfold releaseBar
    split
    · refine Woken.trans ?_ (ih _)
      split
      · exact woken_releaseCore s n _ _
      · exact .refl s
    · exact ih s

/-- An arrival is the barrier's, and wakes what waits there. -/
theorem woken_arriveBar (cl i : Nat) : Woken (s.setBar cl i (s.bar cl i).arrived) (s.arriveBar cl i) := by
  unfold State.arriveBar Barrier.arrived
  dsimp only
  split
  · exact woken_releaseBar _ cl i _
  · exact .refl _

theorem bar_setBar (cl i : Nat) (b : Barrier) : (s.setBar cl i b).bar cl i = b := by
  unfold State.bar State.setBar State.cl State.setCl
  rw [AMap.read_write_same]
  exact AMap.read_write_same _ _ _ _

theorem bar_of_objs {t : State} (h : t.objs = s.objs) (cl i : Nat) : t.bar cl i = s.bar cl i := by
  rw [State.bar, State.cl, h]
  rfl

/-! The arrival of an item. -/

variable (i : WorkItem)

/-- Where an item arrives, one barrier differs, and otherwise cores alone. -/
theorem itemArrival_spec : ∃ t, Woken t (s.itemArrival i) ∧ t = { s with objs := t.objs } ∧ (i.barEn = false → t = s) ∧
    (i.barEn = true → i.cluster < 96 → t.bar i.cluster i.barrier = (s.bar i.cluster i.barrier).arrived) := by
  unfold State.itemArrival
  split
  · next h =>
    exact ⟨_, woken_arriveBar s _ _, rfl, fun hb => absurd (hb.symm.trans h.1) (by decide), fun _ _ => bar_setBar ..⟩
  · next h => exact ⟨s, .refl s, rfl, fun _ => rfl, fun hb hcl => absurd ⟨hb, hcl⟩ h⟩

theorem itemArrival_none (h : i.barEn = false) : s.itemArrival i = s := by
  rw [State.itemArrival, if_neg (by simp [h])]

theorem mem_itemArrival : (s.itemArrival i).mem = s.mem := by
  obtain ⟨t, hwoken, heq, -, -⟩ := itemArrival_spec s i
  rw [hwoken.mem, heq]

theorem streams_itemArrival : (s.itemArrival i).streams = s.streams := by
  obtain ⟨t, hwoken, heq, -, -⟩ := itemArrival_spec s i
  rw [hwoken.streams, heq]

theorem cis_itemArrival (k : Nat) : (s.itemArrival i).cis k = s.cis k := by
  obtain ⟨t, hwoken, heq, -, -⟩ := itemArrival_spec s i
  rw [cis_congr hwoken.cisterns, heq]
  rfl

theorem granted_itemArrival : (s.itemArrival i).fab.granted = s.fab.granted := by
  obtain ⟨t, hwoken, heq, -, -⟩ := itemArrival_spec s i
  rw [hwoken.granted, heq]

theorem reg_itemArrival {a : Nat} (ha : ¬ CoreReg a) : (s.itemArrival i).reg a = s.reg a := by
  obtain ⟨t, hwoken, heq, -, -⟩ := itemArrival_spec s i
  rw [hwoken.1 a ha, heq]
  rfl

theorem bar_itemArrival (hb : i.barEn = true) (hcl : i.cluster < 96) :
    (s.itemArrival i).bar i.cluster i.barrier = (s.bar i.cluster i.barrier).arrived := by
  obtain ⟨t, hwoken, -, -, hbar⟩ := itemArrival_spec s i
  rw [bar_of_objs _ hwoken.objs, hbar hb hcl]

end Sys2Proof.Machine
end

section
/-!
PROOFS. What an engine's slice and its item's end do (R163 to R165, R192).
-/

namespace Sys2Proof.Machine

variable {s : State}

/-! An item that has ended: counted, recorded and arrived. -/

/-- The part once the item of run r has left engine e, before its step takes note. -/
def State.itemEnded (s : State) (e : Nat) (r : CisRun) : State := ((s.itemCounted e r).recordWritten r).itemArrival r.item

section Ended

variable (s) (e : Nat) (r : CisRun)

theorem streams_itemEnded : (s.itemEnded e r).streams = s.streams := by
  have hwritten : ((s.itemCounted e r).recordWritten r).streams = (s.itemCounted e r).streams := by
    rw [(stored_recordWritten (s.itemCounted e r) r).2]
  rw [State.itemEnded, streams_itemArrival, hwritten, streams_itemCounted]

theorem granted_itemEnded : (s.itemEnded e r).fab.granted = s.fab.granted := by
  obtain ⟨-, hfab⟩ := listsOnly_recordWritten (s.itemCounted e r) r
  rw [State.itemEnded, granted_itemArrival, hfab]
  exact granted_itemCounted s e r

/-- An item's end leaves the registers outside the dies alone, but for those of errors. -/
theorem reg_itemEnded {a : Nat} (ha : ¬ ErrorReg a) : (s.itemEnded e r).reg a = s.reg a := by
  have hlow : a < 0x1000000 := Nat.lt_of_not_le fun h => ha (.inl h)
  have hcis : ∀ k, k < 0x1000 → a ≠ cisBase e + k := fun k _ h => by
    simp only [cisBase, dieBase] at h
    omega
  have hbump : ∀ (t : State) (k n : Nat), k + 4 < 0x1000 → (t.bump64 (cisBase e + k) n).reg a = t.reg a :=
    fun t k n hk => reg_bump64_other _ _ (hcis k (by omega)) (hcis (k + 4) hk)
  have hcounted : (s.itemCounted e r).reg a = s.reg a := by
    rw [State.itemCounted]
    split
    · rw [State.rejectItem, Reg.CIS_ITEMS_LO, hbump _ _ _ (by decide),
        reg_raise_other (a := Reg.CIS_INT_STATUS e) _ _ (hcis 0x40 (by decide)),
        reg_count_other (a := Reg.CIS_REJECT e) (st := Reg.CIS_INT_STATUS e) _ _ (hcis 0x30 (by decide))
          (hcis 0x40 (by decide)),
        Reg.CIS_BUSY_LO, hbump _ _ _ (by decide), reg_letGo]
    · rw [Reg.CIS_ITEMS_LO, hbump _ _ _ (by decide), Reg.CIS_BUSY_LO, hbump _ _ _ (by decide), reg_letGo]
  rw [State.itemEnded, reg_itemArrival _ _ (fun h => Nat.not_le.2 hlow h.place.1),
    (stored_recordWritten (s.itemCounted e r) r).1 a ha, hcounted]

theorem strm_itemEnded (h : Nat) : (s.itemEnded e r).strm h = s.strm h := strm_of_streams (streams_itemEnded s e r) h

theorem deviceId_itemEnded : (s.itemEnded e r).deviceId = s.deviceId := by
  have hstatus : (s.itemEnded e r).fld Reg.ERG_STATUS 16 12 = s.fld Reg.ERG_STATUS 16 12 :=
    fld_congr (reg_itemEnded s e r (by decide)) _ _
  have hreq : (s.itemEnded e r).fld Reg.ERG_ID_REQ 0 12 = s.fld Reg.ERG_ID_REQ 0 12 :=
    fld_congr (reg_itemEnded s e r (by decide)) _ _
  rw [State.deviceId, granted_itemEnded, hstatus, hreq]
  rfl

theorem itemStep_itemEnded (i : WorkItem) : (s.itemEnded e r).itemStep i = s.itemStep i := by
  rw [State.itemStep, State.sidOf, deviceId_itemEnded]
  simp only [strm_itemEnded]
  rfl

variable {r} in
/-- An item whose record is written nowhere leaves memory alone, and of the engines only its own. -/
theorem itemEnded_nowhere (h : r.item.compl % 16 ≠ 0 ∨ inOnePlace r.item.compl 16 = false ∨ placeOf r.item.compl = .regs) :
    (s.itemEnded e r).mem = s.mem ∧ (s.itemEnded e r).cis e = (s.cis e).goOn := by
  rw [State.itemEnded, recordWritten_nowhere h, mem_itemArrival, cis_itemArrival]
  exact ⟨mem_itemCounted s e r, cis_itemCounted s e r⟩

end Ended

theorem completeItem_ended {e : Fin 128} {r : CisRun} (h : (s.cis e).running = some r) :
    s.completeItem e = (s.itemEnded e r).itemDone r.item := completeItem_eq h

theorem itemDone_alone {i : WorkItem} (h : 2 ≤ i.op ∨ i.denied = true) : s.itemDone i = s := by
  have hnot : ¬ (i.op ≤ 1 ∧ (!i.denied) = true) := by
    rintro ⟨hop, hden⟩
    rcases h with h | h
    · omega
    · simp [h] at hden
  rw [State.itemDone, if_neg hnot]

/-- The step that waits for an item has one less to wait for, and goes on with the last. -/
theorem itemDone_step {i : WorkItem} {h : Nat} {x : StepRun} (hop : i.op ≤ 1) (hden : i.denied = false)
    (hstep : s.itemStep i = some h) (hrun : (s.strm h).step = some x) : s.itemDone i =
      if x.jobs ≤ 1 then (s.setRun h { x with jobs := x.jobs - 1 }).goOn h false
      else s.setRun h { x with jobs := x.jobs - 1 } := by
  have hx : s.run h = x := by rw [State.run, hrun]; rfl
  have hjob : i.op ≤ 1 ∧ (!i.denied) = true := ⟨hop, by rw [hden]; rfl⟩
  rw [State.itemDone, if_pos hjob, hstep]
  dsimp only
  rw [hx]

/-! The record of an item over sound cells. -/

section Recorded

variable {e : Nat} {r : CisRun} (halign : r.item.compl % 16 = 0) (hone : inOnePlace r.item.compl 16 = true)
  (hregs : placeOf r.item.compl ≠ .regs) (hs : s.sound r.item.compl 16)
include halign hone hregs hs

theorem record_itemEnded : (s.itemEnded e r).bytes r.item.compl 16 = itemRecord r.status r.zeroed r.item.handle s.tb ∧
    SameBytes r.item.compl 16 s (s.itemEnded e r) := by
  obtain ⟨hread, hsame, -⟩ := recordWritten_spec halign hone hregs (sound_itemCounted s e r hs)
  have hbyte := byte_congr (mem_itemArrival ((s.itemCounted e r).recordWritten r) r.item)
  refine ⟨?_, fun k hk => ?_⟩
  · rw [State.itemEnded, bytes_congr (fun k _ _ => hbyte k), hread, tb_itemCounted]
  · rw [State.itemEnded, hbyte, hsame k hk, byte_congr (mem_itemCounted s e r)]

theorem renewed_record : Renewed (s.itemCounted e r) ((s.itemCounted e r).recordWritten r) :=
  (recordWritten_spec halign hone hregs (sound_itemCounted s e r hs)).2.2

theorem cis_itemEnded (k : Nat) : (s.itemEnded e r).cis k = (s.itemCounted e r).cis k := by
  rw [State.itemEnded, cis_itemArrival, cis_congr (renewed_record halign hone hregs hs).cisterns]

/-- The engine's registers are those left by the counts. -/
theorem reg_cis_itemEnded {k : Nat} (hk : k < 0x1000) :
    (s.itemEnded e r).reg (cisBase e + k) = (s.itemCounted e r).reg (cisBase e + k) := by
  rw [State.itemEnded, reg_itemArrival _ _ (not_coreReg_cis hk), reg_of_regs (renewed_record halign hone hregs hs).regs]

theorem arrival_itemEnded : (r.item.barEn = false → (s.itemEnded e r).objs = s.objs) ∧
    (r.item.barEn = true → r.item.cluster < 96 →
      (s.itemEnded e r).bar r.item.cluster r.item.barrier = (s.bar r.item.cluster r.item.barrier).arrived) := by
  have hobjs : ((s.itemCounted e r).recordWritten r).objs = s.objs :=
    (renewed_record halign hone hregs hs).objs.trans (objs_itemCounted s e r)
  refine ⟨fun hb => ?_, fun hb hcl => ?_⟩
  · rw [State.itemEnded, itemArrival_none _ _ hb, hobjs]
  · rw [State.itemEnded, bar_itemArrival _ _ hb hcl, bar_of_objs _ hobjs]

end Recorded

/-! The commands. -/

section Commands

variable {e : Fin 128} (hh : s.halted = false)
include hh

theorem exec_cisternSliceEnd : exec (.cisternSliceEnd e) s = .next (doCisternSliceEnd e s) := exec_of_running hh rfl

theorem exec_cisternItemComplete : exec (.cisternItemComplete e) s = .next (doCisternItemComplete e s) :=
  exec_of_running hh rfl

omit hh
variable {r : CisRun} (hr : (s.cis e).running = some r)
include hr

theorem doCisternItemComplete_done (h : r.held = false) : doCisternItemComplete e s = (s.itemEnded e r).itemDone r.item := by
  rw [doCisternItemComplete, hr]
  dsimp only
  rw [h]
  exact (if_pos rfl).trans (completeItem_ended hr)

theorem doCisternItemComplete_held (h : r.held = true) : doCisternItemComplete e s =
    if s.itemHeld r.item then s else (s.runItem e r.item).completeItem e := by
  rw [doCisternItemComplete, hr]
  dsimp only
  rw [h]
  exact if_neg Bool.false_ne_true

/-- With no grain-bound item queued, or with one running, the slice ends and the item goes on. -/
theorem doCisternSliceEnd_goesOn (h : r.item.ticked = true ∨ (s.cis e).queue.all (fun i => !i.ticked) = true) :
    doCisternSliceEnd e s = s.setCis e { s.cis e with running := some { r with slices := r.slices + 1 } } := by
  have hnone : (if r.item.ticked then none else (popItem (s.cis e).queue).filter (fun x => x.1.ticked)) = none := by
    split
    · rfl
    · next hnot =>
      have hall := h.resolve_left hnot
      rw [Option.filter_eq_none_iff]
      rintro ⟨i, rest⟩ hpop
      obtain ⟨a, b, hq, -, -, -⟩ := popItem_spec hpop
      have hi := List.all_eq_true.1 hall i (by simp [hq])
      simpa using hi
  rw [doCisternSliceEnd, hr]
  dsimp only
  rw [hnone]

/-- A grain-bound item that is queued takes the place of one that is not. -/
theorem doCisternSliceEnd_givesWay {i : WorkItem} {rest : List WorkItem} (h : r.item.ticked = false)
    (hpop : popItem (s.cis e).queue = some (i, rest)) (hi : i.ticked = true) :
    doCisternSliceEnd e s = (s.setCis e { s.cis e with
      running := none
      gaveWay := (s.cis e).gaveWay ++ [{ r with slices := r.slices + 1 }] }).startItemOn e i rest := by
  have hsome : (if r.item.ticked then none else (popItem (s.cis e).queue).filter (fun x => x.1.ticked)) = some (i, rest) := by
    rw [h, hpop, if_neg Bool.false_ne_true, Option.filter_some, if_pos hi]
  rw [doCisternSliceEnd, hr]
  dsimp only
  rw [hsome]

end Commands

end Sys2Proof.Machine

namespace Sys2Proof.Proofs
open Sys2Proof Sys2Proof.Machine

/-- Settles O31: the slice's end by what is queued, and the item's end as its engine, its counts, its record, its arrival
and its step, in turn. -/
theorem cisternSlicesAndCompletion : Obligations.CisternSlicesAndCompletion := by
  intro s e hh
  have hslice := exec_cisternSliceEnd (s := s) (e := e) hh
  have hcomplete := exec_cisternItemComplete (s := s) (e := e) hh
  refine ⟨fun hidle => ⟨?_, ?_⟩, fun r hr => ⟨fun hon => ?_, fun i rest hnot hpop hi => ?_, fun hheld hwaits => ?_,
    fun hheld hback => ?_, fun hnot => ?_, fun hnot halone halign hone hregs hs => ?_, fun h x hnot hop hden hstep hrun => ?_⟩,
    fun c => ⟨fun hstop => ?_, fun r l hway hqueue => ?_⟩⟩
  · rw [hslice, doCisternSliceEnd, hidle]
  · rw [hcomplete, doCisternItemComplete, hidle]
  · exact ⟨_, hslice.trans (congrArg _ (doCisternSliceEnd_goesOn hr hon)), cis_setCis s e _,
      fun k hk => cis_setCis_other s _ hk, rfl⟩
  · obtain ⟨x, hx, hitem, -⟩ := running_startItemOn (s.setCis e { s.cis e with
      running := none
      gaveWay := (s.cis e).gaveWay ++ [{ r with slices := r.slices + 1 }] }) e i rest
    exact ⟨_, x, hslice.trans (congrArg _ (doCisternSliceEnd_givesWay hr hnot hpop hi)), hx, hitem,
      (gaveWay_startItemOn _ e i rest).trans (congrArg Cistern.gaveWay (cis_setCis s e _))⟩
  · rw [hcomplete, doCisternItemComplete_held hr hheld, if_pos hwaits]
  · rw [hcomplete, doCisternItemComplete_held hr hheld, hback, if_neg Bool.false_ne_true]
  · refine ⟨_, hcomplete.trans (congrArg _ (doCisternItemComplete_done hr hnot)), fun halone => ?_⟩
    rw [itemDone_alone halone]
    exact ⟨streams_itemEnded s e r, itemEnded_nowhere s e⟩
  · have hdone : exec (.cisternItemComplete e) s = .next (s.itemEnded e r) := by
      rw [hcomplete, doCisternItemComplete_done hr hnot, itemDone_alone halone]
    obtain ⟨hread, hsame⟩ := record_itemEnded (e := e) halign hone hregs hs
    have hcis := cis_itemEnded (e := e) halign hone hregs hs
    have hreg := fun k => reg_cis_itemEnded (e := e) (k := k) halign hone hregs hs
    obtain ⟨hobjs, hbar⟩ := arrival_itemEnded (e := e) halign hone hregs hs
    refine ⟨_, hdone, hread, hsame, (hcis e).trans (cis_itemCounted s e r),
      fun k hk => (hcis k).trans (cis_itemCounted_other s e r hk), streams_itemEnded s e r, ?_, ?_,
      fun hst => ?_, hobjs, hbar⟩
    · exact (pair_congr (hreg 0x18 (by decide)) (hreg 0x1C (by decide))).trans (pair_items_itemCounted s e r)
    · exact (congrArg BitVec.toNat (hreg 0x30 (by decide))).trans (rn_reject_itemCounted s e r)
    · exact (rbit_congr (hreg 0x40 (by decide)) 1).trans (rbit_reject_itemCounted s e r hst)
  · refine ⟨(s.itemEnded e r).setRun h { x with jobs := x.jobs - 1 }, ?_, ?_, fun k hk => ?_, fun hno => ?_⟩
    · rw [hcomplete, doCisternItemComplete_done hr hnot,
        itemDone_step hop hden ((itemStep_itemEnded s e r _).trans hstep)
          ((congrArg Stream.step (strm_itemEnded s e r h)).trans hrun)]
    · rw [strm_setRun, if_pos rfl]
    · rw [strm_setRun, if_neg hk, strm_itemEnded]
    · obtain ⟨hmem, hcis⟩ := itemEnded_nowhere s e (r := r) (.inr (.inl hno))
      refine ⟨hcis, hmem, fun hst hbar a ha => ?_⟩
      have hended : s.itemEnded e r = s.itemCounted e r := by
        rw [State.itemEnded, recordWritten_nowhere (.inr (.inl hno)), itemArrival_none _ _ hbar]
      exact (congrArg (fun t : State => t.reg a) hended).trans (reg_itemCounted_of_done s e r hst ha)
  · unfold Cistern.goOn
    split
    · next r l hway => rw [if_pos (hstop.resolve_left (by simp [hway]))]
    · rfl
  · rw [Cistern.goOn, hway]
    exact if_neg (by simp [hqueue])

end Sys2Proof.Proofs
end

section
/-!
PROOFS. What errors found in memory leave of the registers of other units, and what a control read changes (R166 to R173).
-/

namespace Sys2Proof.Machine

variable {s : State}

/-! Registers of units beside memory. -/

theorem reg_setBytes (p : Nat) (l : List Byte) (a : Nat) : (s.setBytes p l).reg a = s.reg a := by
  rw [setBytes_eq]
  rfl

/-- A register that no error found in memory changes: none of a die's memory or cistern engines, of snapshot triggers, or of
the always-on store's count. -/
def UnitReg (a : Nat) : Prop :=
  (a < 0x1000000 ∨ 0x200000 ≤ a % 0x800000) ∧ ¬ SnapReg a ∧ a ≠ Reg.RPL_AON_UE ∧ a ≠ Reg.RPL_INT_STATUS

/-- The registers of a Caravan engine and of its cairn unit's first slots are such registers. -/
theorem unitReg_car (e : Fin 104) {k : Nat} (hk : k < 0x2000) : UnitReg (carBase e + k) := by
  have hlow : carBase e + k < 0x90000 ∨ 0x1000000 ≤ carBase e + k ∧ 0x200000 ≤ (carBase e + k) % 0x800000 := by
    simp only [carBase, clBase, dieBase]
    split <;> omega
  simp only [UnitReg, SnapReg, Reg.RPL_AON_UE, Reg.RPL_INT_STATUS]
  omega

section Unit

variable {a : Nat} (h : UnitReg a)
include h

theorem UnitReg.not_snapReg : ¬ SnapReg a := h.2.1

theorem UnitReg.not_detectReg (d e : Nat) : ¬ DetectReg d e a := by
  obtain ⟨hplace, hsnap, -, -⟩ := h
  simp only [DetectReg, Reg.DMEM_UE_LO, Reg.DMEM_LAST_UE_LO, Reg.DMEM_INT_STATUS, Reg.CIS_UE, Reg.CIS_INT_STATUS, cisBase,
    dieBase]
  omega

theorem UnitReg.not_retireReg (d : Nat) : ¬ RetireReg d a := by
  obtain ⟨hplace, hsnap, -, -⟩ := h
  simp only [RetireReg, BankReg, Reg.DMEM_STATUS, Reg.DMEM_RET_FRAMES, Reg.DMEM_INT_STATUS, Reg.DMEM_RET_BANKS,
    Reg.DMEM_BANKRETi, dieBase]
  omega

theorem UnitReg.ne_countCe (d e : Nat) : (a ≠ Reg.CIS_CE e ∧ a ≠ Reg.CIS_INT_STATUS e) ∧
    (a ≠ Reg.DMEM_CE_LO d ∧ a ≠ Reg.DMEM_CE_LO d + 4) ∧ a ≠ Reg.DMEM_SRAM_CE d := by
  obtain ⟨hplace, -⟩ := h
  simp only [Reg.CIS_CE, Reg.CIS_INT_STATUS, Reg.DMEM_CE_LO, Reg.DMEM_SRAM_CE, cisBase, dieBase]
  omega

theorem UnitReg.ne_sramUe (d : Nat) : a ≠ Reg.DMEM_INT_STATUS d ∧ a ≠ Reg.DMEM_SRAM_UE d := by
  obtain ⟨hplace, -⟩ := h
  simp only [Reg.DMEM_INT_STATUS, Reg.DMEM_SRAM_UE, dieBase]
  omega

theorem reg_countCe (g : Nat) : (s.countCe g).reg a = s.reg a := by
  unfold State.countCe
  split
  · next d _ =>
    obtain ⟨⟨hce, hint⟩, ⟨hlo, hhi⟩, -⟩ := h.ne_countCe d (cisternOf g)
    rw [reg_count_other _ _ hce hint, reg_bump64_other _ _ hlo hhi]
  · exact reg_bump_other _ _ (h.ne_countCe _ 0).2.2
  · exact reg_bump_other _ _ (h.ne_countCe _ 0).2.2
  · rfl

theorem reg_correctWords (l : List Nat) : (correctWords s l).reg a = s.reg a := by
  induction l generalizing s with
  | nil => rfl
  | cons w t ih =>
    rw [correctWords, ih]
    split
    · exact reg_countCe h w
    · rfl

theorem reg_correct (g : Nat) : (s.correct g).reg a = s.reg a := by
  unfold State.correct
  split
  · split
    · exact reg_countCe h g
    · rfl
  · exact reg_correctWords h _
  · exact reg_correctWords h _
  · exact reg_correctWords h _
  · rfl

theorem reg_corrects (l : List Nat) : (l.foldl State.correct s).reg a = s.reg a := by
  induction l generalizing s with
  | nil => rfl
  | cons g t ih => exact ih.trans (reg_correct h g)

theorem reg_detectSram (w loc : Nat) : (s.detectSram w loc).reg a = s.reg a := by
  have hsram : ∀ d, ((s.bump (Reg.DMEM_SRAM_UE d) 1).raise (Reg.DMEM_INT_STATUS d) 1).reg a = s.reg a := fun d => by
    obtain ⟨hint, hue⟩ := h.ne_sramUe d
    rw [reg_raise_other _ _ hint, reg_bump_other _ _ hue]
  have hsnap := h.not_snapReg
  obtain ⟨-, -, haon, hrpl⟩ := h
  rw [State.detectSram, reg_report hsnap]
  unfold State.countSramUe
  split
  · exact hsram _
  · exact hsram _
  · exact reg_count_other _ _ haon hrpl

theorem reg_detectWords (loc : Nat) (l : List Nat) : (detectWords loc s l).reg a = s.reg a := by
  induction l generalizing s with
  | nil => rfl
  | cons w t ih => exact ih.trans (reg_detectSram h w loc)

theorem reg_detectDram_unit {g d : Nat} (hd : placeOf g = .dram d) (ctl : Bool) : (s.detectDram g ctl).reg a = s.reg a :=
  reg_detectDram hd (h.not_detectReg _ _) (h.not_retireReg _) ctl

/-- A control read changes no register of another unit. -/
theorem reg_readCtl (loc p n : Nat) : (s.readCtl loc p n).st.reg a = s.reg a := by
  unfold State.readCtl
  split
  · rfl
  · split
    · split <;> rfl
    · dsimp only
      split
      · dsimp only
        split
        · next hd => rw [reg_detectDram_unit h hd, reg_corrects h]
        · rw [reg_detectWords h, reg_corrects h]
      · exact reg_corrects h _

theorem reg_prepareGran (loc g : Nat) : (s.prepareGran loc g).reg a = s.reg a := by
  have hwords : ∀ t : State, (if (t.badWords g).isEmpty then t
      else (detectWords loc t (t.badWords g)).setBytes g (List.replicate 64 0)).reg a = t.reg a := fun t => by
    split
    · rfl
    · rw [reg_setBytes, reg_detectWords h]
  unfold State.prepareGran
  dsimp only
  split
  · next hd =>
    split
    · rw [reg_setBytes, reg_detectDram_unit h hd, reg_correct h]
    · exact reg_correct h g
  · rw [hwords, reg_correct h]
  · rw [hwords, reg_correct h]
  · rw [hwords, reg_correct h]
  · exact reg_correct h g

/-- A store changes no register of another unit. -/
theorem reg_writeData (loc p : Nat) (l : List Byte) : (s.writeData loc p l).reg a = s.reg a := by
  have hprep : ∀ (t : State) (q : Prop) [Decidable q] (g : Nat),
      (if q then t.prepareGran loc g else t).reg a = t.reg a := fun t q _ g => by
    split
    · exact reg_prepareGran h loc g
    · rfl
  unfold State.writeData
  split
  · rfl
  · split
    · rfl
    · dsimp only
      rw [reg_of_regs (renewed_freshCells _ _ _).regs, reg_setBytes, hprep, hprep]

end Unit

/-! What a control read changes besides registers (R170). -/

theorem marked_corrects (s : State) (l : List Nat) : Marked s (l.foldl State.correct s) := by
  induction l generalizing s with
  | nil => exact .refl s
  | cons g t ih => exact (marked_correct s g).trans (ih _)

theorem stored_corrects (s : State) (l : List Nat) : Stored s (l.foldl State.correct s) := by
  induction l generalizing s with
  | nil => exact .refl s
  | cons g t ih => exact (stored_correct s g).trans (ih _)

/-- The error that a control read ends at, if it meets one. -/
theorem stored_readCtl (s : State) (loc a n : Nat) : Stored s (s.readCtl loc a n).st := by
  unfold State.readCtl
  split
  · exact .refl s
  · split
    · split <;> exact .refl s
    · dsimp only
      split
      · dsimp only
        split
        · exact (stored_corrects s _).trans (stored_detectDram _ _ _)
        · exact (stored_corrects s _).trans (stored_detectWords _ _ _)
      · exact stored_corrects s _

/-- A control read that fails changes no byte of memory while no sequence holds a block (R247). -/
theorem mem_readCtl_noRecords (h : s.noRecords) (loc a n : Nat) : (s.readCtl loc a n).st.mem = s.mem := by
  have hc := marked_corrects s (granulesOf a n)
  unfold State.readCtl
  split
  · rfl
  · split
    · split <;> rfl
    · dsimp only
      split
      · dsimp only
        split
        · exact (hc.trans (marked_detectDram _ (hc.noBlocks h) _ _)).mem
        · exact (hc.trans (marked_detectWords _ _ _)).mem
      · exact hc.mem

/-- A control read that succeeds changes no byte of memory. -/
theorem mem_readCtl {loc a n : Nat} (h : (s.readCtl loc a n).failed = false) : (s.readCtl loc a n).st.mem = s.mem := by
  revert h
  unfold State.readCtl
  split
  · simp
  · split
    · split <;> simp
    · dsimp only
      split
      · simp
      · exact fun _ => (marked_corrects s _).mem

section Reader

variable {t : State} (h : Stored s t)
include h

theorem Stored.caravans : t.caravans = s.caravans := by rw [h.2]
theorem Stored.streams : t.streams = s.streams := by rw [h.2]
theorem Stored.tb : t.tb = s.tb := by rw [h.2]

end Reader

theorem car_of_caravans {t : State} (h : t.caravans = s.caravans) (e : Nat) : t.car e = s.car e := by
  rw [State.car, h]
  rfl

theorem ctx_of_caravans {t : State} (h : t.caravans = s.caravans) (e c : Nat) : t.ctx e c = s.ctx e c := by
  rw [State.ctx, car_of_caravans h]
  rfl

theorem deviceId_congr {t : State} (hfab : t.fab.granted = s.fab.granted)
    (hstatus : t.reg Reg.ERG_STATUS = s.reg Reg.ERG_STATUS) (hreq : t.reg Reg.ERG_ID_REQ = s.reg Reg.ERG_ID_REQ) :
    t.deviceId = s.deviceId := by
  rw [State.deviceId, State.deviceId, hfab, fld_congr hstatus, fld_congr hreq]

theorem carLoc_of_deviceId {t : State} (h : t.deviceId = s.deviceId) (e : Nat) : t.carLoc e = s.carLoc e := by
  simp only [State.carLoc, State.clLoc, State.oasLoc, State.locPath, h]

theorem deviceId_readCtl (s : State) (loc a n : Nat) : (s.readCtl loc a n).st.deviceId = s.deviceId :=
  deviceId_congr (by rw [(listsOnly_readCtl s loc a n).2]) ((stored_readCtl s loc a n).1 _ (by decide))
    ((stored_readCtl s loc a n).1 _ (by decide))

end Sys2Proof.Machine
end

section
/-!
PROOFS. Transfer requests and the start of transfers (R180 to R182, R197): whose a request is, its counts, what becomes of it
by its 32 bytes, and which waiting transfer takes which context.
-/

namespace Sys2Proof.Machine

variable {s : State}

/-! The order of waiting transfers (R180). -/

theorem Xfer.not_before_iff {a b : Xfer} : a.before b = false ↔ (a.ticked = true → b.ticked = true) ∧
    (a.ticked = b.ticked → a.prio ≤ b.prio) ∧ (a.ticked = b.ticked → a.prio = b.prio → b.order ≤ a.order) := by
  cases ha : a.ticked <;> cases hb : b.ticked <;> simp [Xfer.before, ha, hb]

theorem Xfer.not_before_of_before {a b : Xfer} (h : a.before b = true) : b.before a = false := by
  cases hb : b.before a with
  | false => rfl
  | true =>
    simp only [Xfer.before, Bool.or_eq_true, Bool.and_eq_true, Bool.not_eq_true', beq_iff_eq, decide_eq_true_eq] at h hb
    rcases h with ⟨ha, hn⟩ | ⟨heq, h⟩ <;> rcases hb with ⟨hb, hn'⟩ | ⟨heq', hb⟩ <;> simp_all
    omega

theorem Xfer.not_before_trans {a b c : Xfer} (h1 : a.before b = false) (h2 : b.before c = false) : a.before c = false := by
  rw [Xfer.not_before_iff] at *
  obtain ⟨ht, hp, ho⟩ := h1
  obtain ⟨ht', hp', ho'⟩ := h2
  cases ha : a.ticked <;> cases hb : b.ticked <;> cases hc : c.ticked <;> simp_all <;> omega

theorem firstXfer_spec {l : List Xfer} {z : Xfer} (h : firstXfer l = some z) : z ∈ l ∧ ∀ y ∈ l, y.before z = false := by
  have hirrefl : ∀ x : Xfer, x.before x = false := fun x => by simp [Xfer.before]
  induction l generalizing z with
  | nil => cases h
  | cons x t ih =>
    rw [firstXfer] at h
    split at h
    · next hnone =>
      have ht : t = [] := by
        cases t with
        | nil => rfl
        | cons w t =>
          rw [firstXfer] at hnone
          split at hnone
          · cases hnone
          · split at hnone <;> cases hnone
      cases h
      subst ht
      simp [hirrefl]
    · next y hy =>
      obtain ⟨hmem, hfirst⟩ := ih hy
      split at h
      · next hb =>
        cases h
        exact ⟨List.mem_cons_of_mem _ hmem, List.forall_mem_cons.2 ⟨Xfer.not_before_of_before hb, hfirst⟩⟩
      · next hb =>
        cases h
        have hb : y.before x = false := Bool.eq_false_of_not_eq_true hb
        exact ⟨List.mem_cons_self .., List.forall_mem_cons.2 ⟨hirrefl x, fun w hw => Xfer.not_before_trans (hfirst w hw) hb⟩⟩

/-! Whose a request is (R181). -/

/-- The owner of a request that is no kernel's. -/
def Owner.xfer (o : Owner) : Xfer := { src := o.src, fn := o.fn, prio := o.prio, ticked := o.ticked, handle := o.handle.toNat }

section Owners

variable {e : Nat} {o : Owner}

theorem ownerOf_host (h : o.src = .host) (he : e < 96) : s.ownerOf e o = none := by
  simp only [State.ownerOf, h]
  exact if_pos he

theorem ownerOf_kernel_none (h : o.src = .kernel)
    (hno : 96 ≤ e ∨ (s.invsOf e).find? (fun v => v.handle == o.handle.toNat) = none) : s.ownerOf e o = none := by
  simp only [State.ownerOf, h]
  rcases hno with he | hnone
  · exact if_pos he
  · rw [hnone, Option.map_none, ite_self]

theorem ownerOf_kernel {w : Invocation} (h : o.src = .kernel) (he : e < 96)
    (hw : (s.invsOf e).find? (fun v => v.handle == o.handle.toNat) = some w) : s.ownerOf e o = some (w.owner o.fn) := by
  simp only [State.ownerOf, h, hw]
  exact if_neg (by omega)

theorem ownerOf_other (h : o.src = .part ∨ o.src = .placement ∨ (o.src = .host ∧ 96 ≤ e)) :
    s.ownerOf e o = some o.xfer := by
  rcases h with h | h | ⟨h, he⟩
  · simp only [State.ownerOf, Owner.xfer, h]
  · simp only [State.ownerOf, Owner.xfer, h]
  · simp only [State.ownerOf, Owner.xfer, h]
    exact if_neg (by omega)

end Owners

theorem Xfer.mayUse_of_ne_kernel {x : Xfer} (h : x.src ≠ .kernel) (a n : Nat) : x.mayUse a n = true := by
  simp [Xfer.mayUse, h]

theorem WorkItem.within_of_ne_kernel {x : Xfer} (h : x.src ≠ .kernel) (i : WorkItem) : i.within x = true := by
  simp [WorkItem.within, Xfer.mayUse_of_ne_kernel h]

/-! The counts of a request that does not wait (R197, Table 09-8). -/

section Counts

variable (s) (e : Nat)

theorem reported_countXfer (st : Nat) : Reported s (s.countXfer e st) := by
  have hfirst := reported_count s (Reg.CAR_XFERS e) 1 (Reg.CAR_INT_STATUS e) 4
  unfold State.countXfer
  dsimp only
  split
  · exact (hfirst.trans (reported_count _ _ _ _ _)).trans (reported_raise _ _ _)
  · split
    · exact (hfirst.trans (reported_count _ _ _ _ _)).trans (reported_raise _ _ _)
    · split
      · exact hfirst.trans (reported_raise _ _ _)
      · exact hfirst

theorem caravans_countXfer (st : Nat) : (s.countXfer e st).caravans = s.caravans := by rw [reported_countXfer]
theorem mem_countXfer (st : Nat) : (s.countXfer e st).mem = s.mem := by rw [reported_countXfer]

/-- A counter beside CAR_XFERS that a status counts in. -/
theorem rn_count_after_xfers {a : Nat} (hx : a ≠ Reg.CAR_XFERS e) (hi : a ≠ Reg.CAR_INT_STATUS e) (i : Nat) :
    (((s.count (Reg.CAR_XFERS e) 1 (Reg.CAR_INT_STATUS e) 4).count a 1 (Reg.CAR_INT_STATUS e) 4).raise
      (Reg.CAR_INT_STATUS e) i).rn a = min (s.rn a + 1) 0xFFFFFFFF := by
  obtain ⟨hcount, -⟩ := count_spec (s.count (Reg.CAR_XFERS e) 1 (Reg.CAR_INT_STATUS e) 4) a 1 (Reg.CAR_INT_STATUS e) 4
    (by decide) hi
  rw [State.rn, reg_raise_other _ _ hi, ← State.rn, hcount, State.rn, reg_count_other _ _ hx hi, ← State.rn]

theorem rn_reject_countXfer : (s.countXfer e 8).rn (Reg.CAR_REJECT e) = min (s.rn (Reg.CAR_REJECT e) + 1) 0xFFFFFFFF :=
  rn_count_after_xfers s e (by simp only [Reg.CAR_REJECT, Reg.CAR_XFERS]; omega)
    (by simp only [Reg.CAR_REJECT, Reg.CAR_INT_STATUS]; omega) 2

theorem rbit_reject_countXfer : (s.countXfer e 8).rbit (Reg.CAR_INT_STATUS e) 2 = true := (raise_spec _ _ 2 (by decide)).1

theorem countXfer_faulted : s.countXfer e 6 = ((s.count (Reg.CAR_XFERS e) 1 (Reg.CAR_INT_STATUS e) 4).count
    (Reg.CAR_FAULTED e) 1 (Reg.CAR_INT_STATUS e) 4).raise (Reg.CAR_INT_STATUS e) 0 := by
  unfold State.countXfer
  dsimp only
  rw [if_neg (by decide), if_pos rfl]

theorem rn_faulted_countXfer :
    (s.countXfer e 6).rn (Reg.CAR_FAULTED e) = min (s.rn (Reg.CAR_FAULTED e) + 1) 0xFFFFFFFF := by
  rw [countXfer_faulted]
  exact rn_count_after_xfers s e (by simp only [Reg.CAR_FAULTED, Reg.CAR_XFERS]; omega)
    (by simp only [Reg.CAR_FAULTED, Reg.CAR_INT_STATUS]; omega) 0

end Counts

/-! What becomes of a request (R182, Table 09-1). -/

/-- The request of value v, of an owner, as it waits. -/
def Xfer.asks (own : Xfer) (v order : Nat) : Xfer := { own with
  list := bitsAt v 0 64
  nblk := bitsAt v 64 16
  pref := if bitsAt v 82 3 = 0 then 2 else bitsAt v 82 3
  handle := if own.src = .kernel then own.handle else bitsAt v 96 32
  compl := bitsAt v 128 64
  blk := bitsAt v 192 16
  tile := bitsAt v 224 32
  order := order }

section Items

variable {e addr : Nat} {own : Xfer} {q : Rd} (hq : s.readCtl (s.carLoc e) addr 48 = q)
include hq

theorem forwardItem_failed (hfail : q.failed = true) : s.forwardItem e own addr = (some 6, q.st.countXfer e 6) := by
  unfold State.forwardItem
  dsimp only
  rw [hq]
  exact if_pos hfail

/-- An item that is no FILL, COPY or QSCAN is denied. -/
theorem forwardItem_gives (hread : q.failed = false) (hsrc : own.src ≠ .kernel) {i : WorkItem}
    (hi : i = { parseItem q.bytes with prio := own.prio, ticked := own.ticked, handle := own.handle }) :
    (s.forwardItem e own addr).2 =
      q.st.giveItem i.engine { i with denied := i.op != 2 && i.op != 4 && i.op != 5 } := by
  have hdenied : ∀ b c d : Bool, (!(b || c || d)) = (!b && !c && !d) := by decide
  subst hi
  unfold State.forwardItem
  dsimp only
  rw [hq, hread, if_neg Bool.false_ne_true, WorkItem.within_of_ne_kernel hsrc, Xfer.mayUse_of_ne_kernel hsrc]
  simp only [Bool.and_true, if_true, hdenied]
  rfl

end Items

theorem submitReq_outside {own : Xfer} {addr : Nat} (h : own.mayUse addr 32 = false) (e : Nat) :
    s.submitReq e own addr = (some 8, s.countXfer e 8) := by
  simp only [State.submitReq, h, Bool.not_false, if_true]

section Requests

variable {e addr v : Nat} {own : Xfer} {r : Rd} (hsrc : own.src ≠ .kernel) (hr : s.readCtl (s.carLoc e) addr 32 = r)
include hsrc hr

theorem submitReq_failed (hfail : r.failed = true) : s.submitReq e own addr = (some 6, r.st.countXfer e 6) := by
  unfold State.submitReq
  dsimp only
  rw [hr, Xfer.mayUse_of_ne_kernel hsrc, hfail]
  rfl

variable (hread : r.failed = false) (hv : leVal r.bytes = v)
include hread hv

/-- What a request that can be read gives. -/
theorem submitReq_read : s.submitReq e own addr =
    if bitsAt v 80 2 = 1 ∧ (bitsAt v 82 3 ≤ 4 ∧ bitsAt v 80 2 ≤ 1 ∧ bitsAt v 85 11 = 0 ∧ bitsAt v 208 16 = 0) then
      r.st.forwardItem e (own.asks v (r.st.car e).arrivals) (bitsAt v 0 64)
    else if (bitsAt v 82 3 ≤ 4 ∧ bitsAt v 80 2 ≤ 1 ∧ bitsAt v 85 11 = 0 ∧ bitsAt v 208 16 = 0) ∧ 1 ≤ bitsAt v 64 16 ∧
        bitsAt v 0 64 % 64 = 0 ∧ bitsAt v 128 64 % 32 = 0 then
      (none, r.st.setCar e { r.st.car e with
        waiting := (r.st.car e).waiting ++ [own.asks v (r.st.car e).arrivals]
        arrivals := (r.st.car e).arrivals + 1 })
    else (some 8, if bitsAt v 128 64 % 32 = 0 then
        (r.st.countXfer e 8).writeData ((r.st.countXfer e 8).carLoc e) (bitsAt v 128 64)
          (xferRecord (own.asks v (r.st.car e).arrivals) 8 (r.st.countXfer e 8).tb (bitsAt v 224 32) 0 0)
      else r.st.countXfer e 8) := by
  have huse := Xfer.mayUse_of_ne_kernel hsrc
  unfold State.submitReq
  dsimp only
  rw [hr, hv, hread]
  simp only [huse, Bool.not_true, Bool.false_eq_true, if_false, if_true, and_true]
  rfl

theorem submitReq_item (htype : bitsAt v 80 2 = 1) (hpref : bitsAt v 82 3 ≤ 4) (hres : bitsAt v 85 11 = 0)
    (hres' : bitsAt v 208 16 = 0) :
    s.submitReq e own addr = r.st.forwardItem e (own.asks v (r.st.car e).arrivals) (bitsAt v 0 64) := by
  rw [submitReq_read hsrc hr hread hv]
  exact if_pos ⟨htype, hpref, htype.le, hres, hres'⟩

theorem submitReq_waits (htype : bitsAt v 80 2 = 0) (hpref : bitsAt v 82 3 ≤ 4) (hres : bitsAt v 85 11 = 0)
    (hres' : bitsAt v 208 16 = 0) (hblk : 1 ≤ bitsAt v 64 16) (hlist : bitsAt v 0 64 % 64 = 0)
    (hcompl : bitsAt v 128 64 % 32 = 0) : s.submitReq e own addr = (none, r.st.setCar e { r.st.car e with
      waiting := (r.st.car e).waiting ++ [own.asks v (r.st.car e).arrivals]
      arrivals := (r.st.car e).arrivals + 1 }) := by
  rw [submitReq_read hsrc hr hread hv, if_neg fun h => absurd (htype.symm.trans h.1) (by decide)]
  exact if_pos ⟨⟨hpref, htype.le.trans (by decide), hres, hres'⟩, hblk, hlist, hcompl⟩

/-- A request that breaks Table 09-1 is counted, and may have a record. -/
theorem submitReq_rejects (htype : bitsAt v 80 2 ≠ 1) (h : 2 ≤ bitsAt v 80 2 ∨ 4 < bitsAt v 82 3 ∨ bitsAt v 85 11 ≠ 0 ∨
      bitsAt v 208 16 ≠ 0 ∨ bitsAt v 64 16 = 0 ∨ bitsAt v 0 64 % 64 ≠ 0 ∨ bitsAt v 128 64 % 32 ≠ 0) :
    ∃ t, s.submitReq e own addr = (some 8, t) ∧ t.caravans = r.st.caravans ∧
      ∀ a, UnitReg a → t.reg a = (r.st.countXfer e 8).reg a := by
  rw [submitReq_read hsrc hr hread hv, if_neg fun hitem => htype hitem.1, if_neg (by omega)]
  refine ⟨_, rfl, ?_, fun a ha => ?_⟩
  · split
    · rw [(stored_writeData _ _ _ _).caravans, caravans_countXfer]
    · exact caravans_countXfer _ _ _
  · split
    · exact reg_writeData ha _ _ _
    · rfl

end Requests

/-! What a request leaves, of the part as it was before the request was read. -/

theorem readCtl_keeps {s : State} {l a n : Nat} {r : Rd} (hr : s.readCtl l a n = r) :
    r.st.caravans = s.caravans ∧ r.st.streams = s.streams ∧ r.st.deviceId = s.deviceId ∧
      ∀ a, UnitReg a → r.st.reg a = s.reg a := by
  have hstored : Stored s r.st := hr ▸ stored_readCtl s _ _ _
  exact ⟨hstored.caravans, hstored.streams, hr ▸ deviceId_readCtl s _ _ _, fun a ha => hr ▸ reg_readCtl ha _ _ _⟩

theorem rn_congr {s t : State} {a : Nat} (h : t.reg a = s.reg a) : t.rn a = s.rn a := by rw [State.rn, h, ← State.rn]

section UnitRegs

variable (e : Fin 104)

theorem unitReg_reject : UnitReg (Reg.CAR_REJECT e) := unitReg_car e (k := 0x48) (by decide)
theorem unitReg_faulted : UnitReg (Reg.CAR_FAULTED e) := unitReg_car e (k := 0x4C) (by decide)
theorem unitReg_carInt : UnitReg (Reg.CAR_INT_STATUS e) := unitReg_car e (k := 0x50) (by decide)

end UnitRegs

section Outcomes

variable {e : Fin 104} {addr v : Nat} {own : Xfer} {r : Rd} (hsrc : own.src ≠ .kernel)
  (hr : s.readCtl (s.carLoc e) addr 32 = r)

include hsrc hr

theorem submitReq_failed_spec (hfail : r.failed = true) : ∃ t, (s.submitReq e own addr).2 = t ∧
    (t.car e).waiting = (s.car e).waiting ∧
    t.rn (Reg.CAR_FAULTED e) = min (s.rn (Reg.CAR_FAULTED e) + 1) 0xFFFFFFFF ∧ (s.noRecords → t.mem = s.mem) := by
  obtain ⟨hcar, -, -, hreg⟩ := readCtl_keeps hr
  refine ⟨r.st.countXfer e 6, by rw [submitReq_failed hsrc hr hfail], ?_, ?_, fun hno => ?_⟩
  · rw [car_of_caravans ((caravans_countXfer _ _ _).trans hcar)]
  · rw [rn_faulted_countXfer, rn_congr (hreg _ (unitReg_faulted e))]
  · rw [mem_countXfer]
    exact hr ▸ mem_readCtl_noRecords hno _ _ _

variable (hread : r.failed = false) (hv : leVal r.bytes = v)
include hread hv

theorem submitReq_item_spec (htype : bitsAt v 80 2 = 1) (hpref : bitsAt v 82 3 ≤ 4) (hres : bitsAt v 85 11 = 0)
    (hres' : bitsAt v 208 16 = 0) {q : Rd} {i : WorkItem} (hq : r.st.readCtl (s.carLoc e) (bitsAt v 0 64) 48 = q)
    (hi : i = { parseItem q.bytes with prio := own.prio, ticked := own.ticked, handle := bitsAt v 96 32 }) :
    ∃ t, (s.submitReq e own addr).2 = t ∧ (t.car e).waiting = (s.car e).waiting ∧
      (q.failed = true → t.rn (Reg.CAR_FAULTED e) = min (s.rn (Reg.CAR_FAULTED e) + 1) 0xFFFFFFFF) ∧
      (q.failed = false → t = q.st.giveItem i.engine { i with denied := i.op != 2 && i.op != 4 && i.op != 5 }) := by
  obtain ⟨hcar, -, hdev, hreg⟩ := readCtl_keeps hr
  rw [← carLoc_of_deviceId hdev] at hq
  obtain ⟨hcar', -, -, hreg'⟩ := readCtl_keeps hq
  have hitem := submitReq_item hsrc hr hread hv htype hpref hres hres'
  cases hfail : q.failed with
  | true =>
    rw [forwardItem_failed hq hfail] at hitem
    refine ⟨q.st.countXfer e 6, by rw [hitem], ?_, fun _ => ?_, fun h => Bool.noConfusion h⟩
    · rw [car_of_caravans ((caravans_countXfer _ _ _).trans (hcar'.trans hcar))]
    · rw [rn_faulted_countXfer, rn_congr ((hreg' _ (unitReg_faulted e)).trans (hreg _ (unitReg_faulted e)))]
  | false =>
    have hgives := forwardItem_gives (own := own.asks v (r.st.car e).arrivals) hq hfail hsrc (i := i)
      (by rw [hi, Xfer.asks, if_neg hsrc])
    rw [← hitem] at hgives
    refine ⟨_, hgives, ?_, fun h => Bool.noConfusion h, fun _ => rfl⟩
    exact congrArg Caravan.waiting (car_of_caravans (hcar'.trans hcar) e)

theorem submitReq_waits_spec (htype : bitsAt v 80 2 = 0) (hpref : bitsAt v 82 3 ≤ 4) (hres : bitsAt v 85 11 = 0)
    (hres' : bitsAt v 208 16 = 0) (hblk : 1 ≤ bitsAt v 64 16) (hlist : bitsAt v 0 64 % 64 = 0)
    (hcompl : bitsAt v 128 64 % 32 = 0) : ∃ t, (s.submitReq e own addr).2 = t ∧
      t.car e = { s.car e with
        waiting := (s.car e).waiting ++ [own.asks v (s.car e).arrivals]
        arrivals := (s.car e).arrivals + 1 } ∧
      (∀ k, k ≠ e.val → t.car k = s.car k) ∧ t.mem = s.mem ∧ t.streams = s.streams := by
  obtain ⟨hcar, hstreams, -, -⟩ := readCtl_keeps hr
  have hcar := car_of_caravans hcar
  refine ⟨_, congrArg Prod.snd (submitReq_waits hsrc hr hread hv htype hpref hres hres' hblk hlist hcompl), ?_, fun k hk => ?_,
    ?_, ?_⟩
  · rw [car_setCar_same, hcar]
  · rw [car_setCar_other _ _ hk, hcar]
  · subst hr
    exact mem_readCtl hread
  · exact hstreams

theorem submitReq_rejects_spec (htype : bitsAt v 80 2 ≠ 1) (h : 2 ≤ bitsAt v 80 2 ∨ 4 < bitsAt v 82 3 ∨ bitsAt v 85 11 ≠ 0 ∨
      bitsAt v 208 16 ≠ 0 ∨ bitsAt v 64 16 = 0 ∨ bitsAt v 0 64 % 64 ≠ 0 ∨ bitsAt v 128 64 % 32 ≠ 0) :
    ∃ t, (s.submitReq e own addr).2 = t ∧ (t.car e).waiting = (s.car e).waiting ∧
      t.rn (Reg.CAR_REJECT e) = min (s.rn (Reg.CAR_REJECT e) + 1) 0xFFFFFFFF ∧ t.rbit (Reg.CAR_INT_STATUS e) 2 = true := by
  obtain ⟨hcar, -, -, hreg⟩ := readCtl_keeps hr
  obtain ⟨t, ht, htcar, htreg⟩ := submitReq_rejects hsrc hr hread hv htype h
  refine ⟨t, by rw [ht], by rw [car_of_caravans (htcar.trans hcar)], ?_, ?_⟩
  · rw [rn_congr (htreg _ (unitReg_reject e)), rn_reject_countXfer, rn_congr (hreg _ (unitReg_reject e))]
  · rw [rbit_congr (htreg _ (unitReg_carInt e))]
    exact rbit_reject_countXfer _ _

end Outcomes

/-! The start of a transfer (R180). -/

theorem ctx_setCar_same (s : State) (e c : Nat) (x : Caravan) : (s.setCar e x).ctx e c = AMap.read (fun _ => none) x.ctxs c := by
  rw [State.ctx, car_setCar_same]

section Start

variable {e : Fin 104}

theorem doTransferStart_idle (h : s.carGated e = true ∨ (s.car e).waiting = [] ∨ ∀ c, c < 8 → (s.ctx e c).isSome = true) :
    doTransferStart e s = s := by
  unfold doTransferStart
  split
  · rfl
  · next hg =>
    split
    · rfl
    · next c hc =>
      rcases h with h | h | h
      · exact absurd h hg
      · rw [State.startCtx, h]
        rfl
      · have hsome := h c (List.mem_range.1 (List.mem_of_find?_eq_some hc))
        have hnone := List.find?_some hc
        rw [Option.isNone_iff_eq_none.1 hnone] at hsome
        cases hsome

theorem doTransferStart_gives {c : Nat} {x : Xfer} (hg : s.carGated e = false) (hc : c < 8) (hfree : s.ctx e c = none)
    (hlow : ∀ k, k < c → (s.ctx e k).isSome = true) (hx : firstXfer (s.car e).waiting = some x) :
    doTransferStart e s = s.giveCtx e c x := by
  have hfind : (List.range 8).find? (fun c => (s.ctx e c).isNone) = some c := by
    rw [List.find?_range_eq_some]
    exact ⟨by rw [hfree]; rfl, List.mem_range.2 hc, fun k hk => by simpa using hlow k hk⟩
  rw [doTransferStart, if_neg (by simp [hg]), hfind]
  dsimp only
  rw [State.startCtx, hx]

theorem giveCtx_spec (s : State) (e c : Nat) (x : Xfer) : ∃ y, (s.giveCtx e c x).ctx e c = some y ∧
    y = { x with start := y.start } ∧
    ((s.giveCtx e c x).car e).waiting = (s.car e).waiting.filter (fun w => w.order != x.order) ∧
    (∀ k, k ≠ c → (s.giveCtx e c x).ctx e k = s.ctx e k) ∧ (∀ k, k ≠ e → (s.giveCtx e c x).car k = s.car k) := by
  refine ⟨{ x with start := (s.car e).arrivals }, ?_, rfl, ?_, fun k hk => ?_, fun k hk => car_setCar_other s _ hk⟩
  · rw [State.giveCtx, ctx_setCar_same, AMap.read_write_same]
  · rw [State.giveCtx, car_setCar_same]
  · rw [State.giveCtx, ctx_setCar_same, AMap.read_write_other _ _ _ hk]
    rfl

end Start

end Sys2Proof.Machine

namespace Sys2Proof.Proofs
open Sys2Proof Sys2Proof.Machine

/-- Settles O33: a request is refused, forwarded or waits by what is read at its address, and the free context goes to the
transfer that no other comes before. -/
theorem transfersWaitAndStart : Obligations.TransfersWaitAndStart := by
  refine ⟨fun l z h => ?_, fun s e addr o hh => ?_, fun s e hh => ?_⟩
  · obtain ⟨hmem, hfirst⟩ := firstXfer_spec h
    exact ⟨hmem, fun y hy => Xfer.not_before_iff.1 (hfirst y hy)⟩
  · have hexec : exec (.transferRequest e addr o) s = .next (doTransferRequest e addr o s) := exec_of_running hh rfl
    have hnone : s.ownerOf e o = none → exec (.transferRequest e addr o) s = .next s := fun h => by
      rw [hexec, doTransferRequest, h]
    have hsome : ∀ x, s.ownerOf e o = some x → exec (.transferRequest e addr o) s = .next (s.submitReq e x addr).2 :=
      fun x h => by rw [hexec, doTransferRequest, h]
    refine ⟨fun h he => hnone (ownerOf_host h he), fun h hno => hnone (ownerOf_kernel_none h hno), fun w h he hw => ?_,
      fun v ho hv => ?_⟩
    · have hkernel := hsome _ (ownerOf_kernel h he hw)
      refine ⟨hkernel, fun hout => ?_⟩
      have huse : (w.owner o.fn).mayUse addr 32 = false := hout
      rw [submitReq_outside huse] at hkernel
      exact ⟨_, hkernel, by rw [car_of_caravans (caravans_countXfer _ _ _)], rn_reject_countXfer s e,
        mem_countXfer _ _ _⟩
    · have hown := hsome _ (ownerOf_other ho)
      have hsrc : o.xfer.src ≠ .kernel := by
        rcases ho with h | h | ⟨h, -⟩ <;> simp [Owner.xfer, h]
      refine ⟨fun hfail => ?_, fun q i hread htype hpref hres hres' hq hi => ?_,
        fun hread htype hpref hres hres' hblk hlist hcompl => ?_, fun hread htype hbreak => ?_⟩
      · obtain ⟨t, ht, hspec⟩ := submitReq_failed_spec hsrc rfl hfail
        exact ⟨t, ht ▸ hown, hspec⟩
      · obtain ⟨t, ht, hspec⟩ := submitReq_item_spec hsrc rfl hread hv.symm htype hpref hres hres' hq.symm hi
        exact ⟨t, ht ▸ hown, hspec⟩
      · obtain ⟨t, ht, hcar, hothers, hmem, hstreams⟩ :=
          submitReq_waits_spec hsrc rfl hread hv.symm htype hpref hres hres' hblk hlist hcompl
        refine ⟨t, o.xfer.asks v (s.car e).arrivals, ht ▸ hown, by rw [hcar], rfl, rfl, rfl, if_neg hsrc, rfl, rfl, rfl, rfl,
          rfl, rfl, rfl, rfl, by rw [hcar], by rw [hcar], hothers, hmem, hstreams⟩
      · obtain ⟨t, ht, hspec⟩ := submitReq_rejects_spec hsrc rfl hread hv.symm htype hbreak
        exact ⟨t, ht ▸ hown, hspec⟩
  · have hexec : exec (.transferStart e) s = .next (doTransferStart e s) := exec_of_running hh rfl
    refine ⟨fun h => by rw [hexec, doTransferStart_idle h], fun c x hg hc hfree hlow hx => ?_⟩
    obtain ⟨y, hctx, hy, hwaiting, hctxs, hcars⟩ := giveCtx_spec s e c x
    exact ⟨_, y, hexec.trans (congrArg _ (doTransferStart_gives hg hc hfree hlow hx)), hctx, hy, hwaiting, hctxs, hcars, rfl⟩

end Sys2Proof.Proofs
end

section
/-!
PROOFS. Why O34 is not settled. A state's block may name a cairn slot that no engine has: the registers of slot 289919 of
Oasis engine 0 lie on those of core 4, and its V is that core's WAITCYC. A tile that scans into that slot and arrives where
core 4 waits leaves V, WAITCYC, higher by a draw (log 4). O34 says that V is what the bytes make of it: so it holds only if
all those draws are 0 modulo 2^32, which neither follows from the model nor contradicts it.
-/

namespace Sys2Proof.Machine

variable {s : State}

/-! A tile of no bytes that scans into the stray slot and arrives. -/

/-- A block of one empty row, read at an address in no range, into the stray slot, with an arrival at cluster 1. -/
def strayBlock : CarBlock := { src := 0x5000000000, mode := 1, arrive := 1, cslot := 289919, bcluster := 1 }
/-- A transfer of that block alone, which holds a slot. -/
def strayXfer : Xfer := { nblk := 1, src := .host, slotHeld := some 0, block := some strayBlock }
/-- Core 4 waits for the one arrival that its barrier expects; k values have been drawn. -/
def strayState (k : Nat) : State := {
  freeCtr := k
  caravans := [(96, { ctxs := [(0, some strayXfer)] })]
  objs := [(1, { bars := [(0, { expect := 1 })] })]
  cores := [(4, { wait := some (.barrier 0 7 0) })] }

/-- An empty row at an address in no range reads nothing. -/
theorem fetchRows_nothing (s : State) (l : Nat) : fetchRows l 0xFFFFFFFF s [(0x5000000000, 0)] = ([], 0, s) := by
  have hplace : placeOf 0x5000000000 = .none := by decide
  have hbad : s.badIn 0x5000000000 0 = [] := by
    rw [State.badIn, if_pos (by simp [inOnePlace, hplace])]
  simp only [fetchRows, hplace, State.touchDie, State.readData, if_true, hbad]
  rfl

/-- The command hands the tile over, with nothing read or stored. -/
theorem strayState_handOver (k : Nat) : ∃ w : State, w.regs = [] ∧ w.freeCtr = k ∧ w.objs = (strayState k).objs ∧
    w.cores = (strayState k).cores ∧
    exec (.tileHandover 96 0) (strayState k) = .next ((w.handOver 96 0 strayXfer strayBlock []).yieldCtx 96 0) := by
  refine ⟨((strayState k).modCtx 96 0 (fun y => { y with zeroed := y.zeroed + 0 })).modCtx 96 0
    (fun y => { y with old := [] ++ y.old }), rfl, rfl, rfl, rfl, ?_⟩
  have hremote : (strayState k).remoteDev 0x5000000000 = none := by simp [State.remoteDev]
  have hsrc : strayBlock.srcRows strayXfer.tile = [(0x5000000000, 0)] := rfl
  have hdst : strayBlock.dstRows strayXfer.pref strayXfer.tile = [] := rfl
  have hmiss : (strayState k).pageMiss strayXfer.fn [(0x5000000000, 0)] = none := rfl
  have hhold : (strayState k).holdPages strayXfer.fn (hostPages [(0x5000000000, 0)]) = strayState k := rfl
  have hstep : (strayState k).tileStep 96 0 strayXfer strayBlock =
      (((strayState k).modCtx 96 0 (fun y => { y with zeroed := y.zeroed + 0 })).giveTile 96 0 strayXfer
        strayBlock []).yieldCtx 96 0 := by
    unfold State.tileStep
    simp only [hsrc, hdst, List.append_nil, hmiss, hhold, hremote, List.head?_cons, Option.bind_some]
    rw [show strayXfer.handle = 0xFFFFFFFF from rfl, fetchRows_nothing]
    rfl
  have hexec : exec (.tileHandover 96 0) (strayState k) = .next (doTileHandover 96 0 (strayState k)) :=
    exec_of_running rfl rfl
  have hdo : doTileHandover 96 0 (strayState k) = (strayState k).tileStep 96 0 strayXfer strayBlock := rfl
  rw [hexec, hdo, hstep]
  rfl

/-! The count of cycles that a released core waited. -/

theorem rn_waitcyc_releaseCore (s : State) (n rd : Nat) (v : Dword) : (s.releaseCore n rd v).rn (Reg.NMD_WAITCYC n) =
    min (s.rn (Reg.NMD_WAITCYC n) + (Config.freeValue s.freeCtr).toNat % 2 ^ 32) 0xFFFFFFFF := by
  obtain ⟨⟨-, -, -, -, hregs, -⟩, -⟩ := retireTo_spec s.free.2 n ((s.free.2.core n).pc + 4) ((s.free.2.core n).setX rd v)
  have hother : Reg.NMD_WAITCYC n ∉ retireRegs n ++ [] := by
    simp only [retireRegs, Reg.NMD_WAITCYC, Reg.NMD_PC_LO, Reg.NMD_BUSY_LO, Reg.NMD_INSTRET_LO, List.append_nil, List.mem_cons,
      List.not_mem_nil, Nat.add_assoc, Nat.add_left_cancel_iff]
    decide
  have hst : Reg.NMD_WAITCYC n ≠ Reg.NMD_STATUS n := by simp only [Reg.NMD_WAITCYC, Reg.NMD_STATUS]; omega
  rw [State.releaseCore]
  dsimp only
  rw [(count_spec _ _ _ _ _ (by decide) (by simp only [Reg.NMD_WAITCYC, Reg.NMD_INT_STATUS]; omega)).1, State.nmdState, State.rn,
    reg_setFld_other _ _ _ _ hst, hregs _ hother]
  rfl

theorem Reported.cores {t : State} (h : Reported s t) : t.cores = s.cores := by rw [h]
theorem Reported.objs {t : State} (h : Reported s t) : t.objs = s.objs := by rw [h]
theorem Reported.freeCtr {t : State} (h : Reported s t) : t.freeCtr = s.freeCtr := by rw [h]

theorem core_releaseCore_other (s : State) {n k : Nat} (h : k ≠ n) (rd : Nat) (v : Dword) :
    (s.releaseCore n rd v).core k = s.core k := by
  have hretire := core_retireTo s.free.2 n ((s.free.2.core n).pc + 4) ((s.free.2.core n).setX rd v) k
  rw [if_neg h] at hretire
  have hstatus : ∀ t : State, (t.nmdState n 1).cores = t.cores := fun t => (reported_setReg t _ _).cores
  have hcount : ∀ (t : State) (m : Nat), ((t.nmdState n 1).count (Reg.NMD_WAITCYC n) m (Reg.NMD_INT_STATUS n) 1).core k =
      t.core k := fun t m => core_of_cores ((reported_count _ _ _ _ _).cores.trans (hstatus t)) k
  rw [State.releaseCore]
  dsimp only
  rw [hcount, hretire]
  simp only [State.free, State.core]

/-- The last arrival, where one core of the cluster waits. -/
theorem rn_waitcyc_arriveBar {w : State} (hobjs : w.objs = (strayState 0).objs)
    (hcores : w.cores = (strayState 0).cores) : (w.arriveBar 1 0).rn (Reg.NMD_WAITCYC 4) =
      min (w.rn (Reg.NMD_WAITCYC 4) + (Config.freeValue w.freeCtr).toNat % 2 ^ 32) 0xFFFFFFFF := by
  have hbar : w.bar 1 0 = { expect := 1 } := (bar_of_objs (s := strayState 0) hobjs 1 0).trans rfl
  have hcore : ∀ k, (w.setBar 1 0 { expect := 1, gen := 1 }).core k = (strayState 0).core k :=
    fun k => core_of_cores hcores k
  have hlist : coresOf 1 = [4, 5, 6, 7] := by decide
  unfold State.arriveBar
  rw [hbar, if_pos rfl, hlist]
  generalize hu : w.setBar 1 0 _ = u
  replace hcore : ∀ k, u.core k = (strayState 0).core k := fun k => hu ▸ hcore k
  have hgen : (u.bar 1 0).gen = 1 := by
    rw [← hu, bar_setBar]
    rfl
  have hwait : (u.core 4).wait = some (.barrier 0 7 0) := by rw [hcore]; rfl
  have hnone : ∀ k, 4 < k ∧ k < 8 → ((u.releaseCore 4 0 7).core k).wait = none := by
    intro k hk
    rw [core_releaseCore_other _ (by omega), hcore]
    obtain rfl | rfl | rfl : k = 5 ∨ k = 6 ∨ k = 7 := by omega
    all_goals rfl
  have hrel : releaseBar 1 0 u [4, 5, 6, 7] = u.releaseCore 4 0 7 := by
    rw [releaseBar, hwait]
    dsimp only
    rw [if_pos ⟨rfl, by rw [hgen]; decide⟩]
    show releaseBar 1 0 (u.releaseCore 4 0 7) [5, 6, 7] = _
    rw [releaseBar, hnone 5 (by omega), releaseBar, hnone 6 (by omega), releaseBar, hnone 7 (by omega), releaseBar]
  rw [hrel, rn_waitcyc_releaseCore, ← hu]
  rfl

/-! The stray tile handed over. -/

/-- A tile without destinations counts in the engine's own registers, after one draw. -/
theorem countTile_frame {e : Nat} (s : State) {x : Xfer} (hx : x.prio ≠ 6) (n : Nat) (src : List (Nat × Nat)) :
    Reported s.free.2 (s.countTile e x n src []) ∧
    ∀ a, carBase e + 0x60 ≤ a → (s.countTile e x n src []).reg a = s.reg a := by
  unfold State.countTile
  dsimp only
  rw [if_neg fun h => hx h.1, if_pos rfl]
  constructor
  · exact ((reported_setPair _ _ _).trans (reported_count _ _ _ _ _)).trans (reported_count _ _ _ _ _)
  · intro a ha
    have hmoved (t : State) (p : Bool) : (t.bump64 (if p = true then carBase e + 0x28 else carBase e + 0x18) n).reg a = t.reg a :=
      reg_bump64_other _ _ (by split <;> omega) (by split <;> omega)
    simp only [Reg.CAR_SHORT, Reg.CAR_TAG_STALL, Reg.CAR_INT_STATUS, Reg.CAR_RMT_LO, Reg.CAR_RD_LO]
    rw [reg_count_other _ _ (by omega) (by omega), reg_count_other _ _ (by omega) (by omega), hmoved]
    rfl

theorem reported_crnFeed (s : State) (e i : Nat) (l : List Byte) : Reported s (s.crnFeed e i l) :=
  (reported_setPair s _ _).trans (reported_setPair _ _ _)

theorem reg_endBlock_far {e a : Nat} (s : State) (c : Nat) {x : Xfer} {b : CarBlock} (hb : b.arrive ≠ 2)
    (ha : carBase e + 0x1040 ≤ a) : (s.endBlock e c x b).reg a = s.reg a := by
  have hmod : ∀ (t : State) (f : Xfer → Xfer), (t.modCtx e c f).reg a = t.reg a := fun _ _ => rfl
  rw [State.endBlock, hmod, if_neg hb]
  unfold State.freeSlot
  split
  · simp only [Reg.CRN_STATUS, Reg.CRN_INT_STATUS]
    rw [reg_raise_other _ _ (by omega), reg_setBit_other _ _ _ (by omega)]
  · rfl

theorem regs_yieldCtx (s : State) (e c : Nat) : (s.yieldCtx e c).regs = s.regs := by
  unfold State.yieldCtx
  dsimp only
  split
  · rfl
  · split
    · rfl
    · split <;> rfl

theorem strayValue_eq_waitcyc : Reg.CRN_VALUEs_LO 96 strayBlock.cslot = Reg.NMD_WAITCYC 4 := by decide

/-- A last tile that scans is fed and counted, arrives and ends its block. -/
theorem handOver_arrives (s : State) (e c : Nat) {x : Xfer} {b : CarBlock} (hscans : b.scans = true) (harrive : b.arrive = 1)
    (hcl : b.bcluster = 1) (hsrc : x.src = .host) (hlast : b.tiles ≤ x.tile + 1) (l : List Byte) :
    ∃ f, s.handOver e c x b l =
      ((((s.crnFeed e b.cslot l).countTile e x l.length (b.srcRows x.tile) (b.dstRows x.pref x.tile)).modCtx e c
        f).arriveBar 1 b.barrier).endBlock e c x b := by
  have hindex : x.barIndex b.barrier = b.barrier := if_neg (by rw [hsrc]; decide)
  refine ⟨fun y => { y with
    tile := y.tile + 1
    bytes := (y.bytes + l.length) % 2 ^ 64
    phase := .fresh
    got := []
    issued := 0 }, ?_⟩
  have hone : (if b.bcluster = 127 then e else b.bcluster) = 1 := by rw [hcl]; rfl
  rw [State.handOver, if_pos hscans, if_pos hlast, if_pos harrive, State.arrive, hone, if_pos (by decide), hindex]

theorem rn_waitcyc_counted {w z u : State} (hobjs : w.objs = (strayState 0).objs)
    (hcores : w.cores = (strayState 0).cores) (hfed : Reported w z) (hcounted : Reported z.free.2 u)
    (e c : Nat) (f : Xfer → Xfer) :
    ((u.modCtx e c f).arriveBar 1 0).rn (Reg.NMD_WAITCYC 4) =
      min (u.rn (Reg.NMD_WAITCYC 4) + (Config.freeValue (w.freeCtr + 1)).toNat % 2 ^ 32) 0xFFFFFFFF := by
  have hdraws : u.freeCtr = w.freeCtr + 1 := by
    rw [hcounted.freeCtr, ← hfed.freeCtr]
    rfl
  have huobjs : u.objs = w.objs := hcounted.objs.trans hfed.objs
  have hucores : u.cores = w.cores := hcounted.cores.trans hfed.cores
  have hset (x : Caravan) : ((u.setCar e x).arriveBar 1 0).rn (Reg.NMD_WAITCYC 4) =
      min (u.rn (Reg.NMD_WAITCYC 4) + (Config.freeValue (w.freeCtr + 1)).toNat % 2 ^ 32) 0xFFFFFFFF := by
    have hreg : (u.setCar e x).rn (Reg.NMD_WAITCYC 4) = u.rn (Reg.NMD_WAITCYC 4) := rfl
    rw [rn_waitcyc_arriveBar ((State.setCar_objs u e x).trans (huobjs.trans hobjs))
      ((State.setCar_cores u e x).trans (hucores.trans hcores)), State.setCar_freeCtr, hdraws, hreg]
  exact hset _

theorem rn_waitcyc_handOver_stray {w : State} (hobjs : w.objs = (strayState 0).objs)
    (hcores : w.cores = (strayState 0).cores) : (w.handOver 96 0 strayXfer strayBlock []).rn (Reg.NMD_WAITCYC 4) =
      min ((w.crnFeed 96 strayBlock.cslot []).rn (Reg.NMD_WAITCYC 4) + (Config.freeValue (w.freeCtr + 1)).toNat % 2 ^ 32)
        0xFFFFFFFF := by
  obtain ⟨hcounted, hreg⟩ := countTile_frame (e := 96) (w.crnFeed 96 strayBlock.cslot []) (x := strayXfer) (by decide) 0
    (strayBlock.srcRows 0)
  obtain ⟨f, hhand⟩ := handOver_arrives w 96 0 (x := strayXfer) (b := strayBlock) rfl rfl rfl rfl (by decide) []
  have hdst : strayBlock.dstRows strayXfer.pref strayXfer.tile = [] := rfl
  have hlen : ([] : List Byte).length = 0 := rfl
  have htile : strayXfer.tile = 0 := rfl
  have hbarrier : strayBlock.barrier = 0 := rfl
  rw [hdst, hlen, htile, hbarrier] at hhand
  rw [hhand, rn_congr (reg_endBlock_far _ 0 (by decide) (by decide)),
    rn_waitcyc_counted hobjs hcores (reported_crnFeed w 96 strayBlock.cslot []) hcounted, rn_congr (hreg _ (by decide))]

theorem rn_eq_of_pair_eq {t : State} {a : Nat} (h : t.pair a = s.pair a) : t.rn a = s.rn a := by
  have ht := rn_lt t a
  have hs := rn_lt s a
  simp only [State.pair] at h
  omega

theorem rn_crnFeed_nothing {w : State} (hregs : w.regs = []) :
    (w.crnFeed 96 strayBlock.cslot []).rn (Reg.NMD_WAITCYC 4) = 0 := by
  have hreg (a : Nat) : w.reg a = regReset a := by rw [State.reg, hregs]; rfl
  have hzero : w.pair (Reg.CRN_VALUEs_LO 96 strayBlock.cslot) = 0 := by
    rw [State.pair, State.rn, State.rn, hreg, hreg]
    decide
  have hfed : w.crnFeed 96 strayBlock.cslot [] = (w.setPair (Reg.CRN_VALUEs_LO 96 strayBlock.cslot) 0).bump64
      (Reg.CRN_BYTESs_LO 96 strayBlock.cslot) 0 := by
    simp only [State.crnFeed, hzero, List.foldl_nil, Nat.zero_mod, List.length_nil]
  rw [hfed, State.rn, reg_bump64_other _ _ (by decide) (by decide), ← strayValue_eq_waitcyc, ← State.rn, State.setPair,
    rn_setN_other _ _ (by decide), rn_setN_same, Nat.zero_mod]

end Sys2Proof.Machine

namespace Sys2Proof.Proofs
open Sys2Proof Sys2Proof.Machine

/-- O34 would fix values that the spec leaves open. -/
theorem freeValue_of_tilesAreHandedOverWhole (h : Obligations.TilesAreHandedOverWhole) (k : Nat) :
    (Config.freeValue (k + 1)).toNat % 2 ^ 32 = 0 := by
  obtain ⟨-, -, htile, -⟩ := h (strayState k) 96 0 rfl
  obtain ⟨-, hmove⟩ := htile strayXfer strayBlock rfl rfl rfl (fun h => by simp [strayXfer] at h) rfl rfl (by decide)
  obtain ⟨-, -, hgive⟩ := hmove (.inr rfl)
  obtain ⟨t, y, hexec, hyield, -, -, -, -, -, -, -, -, -, -, -, hvalue, -⟩ :=
    hgive [(0x5000000000, 0)] [] rfl rfl rfl rfl rfl .nil (fun r hr => by
      obtain rfl : r = (0x5000000000, 0) := by simpa using hr
      exact ⟨by simp [State.remoteDev], fun h => absurd rfl h⟩)
  obtain ⟨w, hregs, hctr, hobjs, hcores, hw⟩ := strayState_handOver k
  rw [hyield rfl, hw] at hexec
  injection hexec with ht
  have hpair : t.rn (Reg.CRN_VALUEs_LO 96 strayBlock.cslot) =
      ((strayState k).crnFeed 96 strayBlock.cslot []).rn (Reg.CRN_VALUEs_LO 96 strayBlock.cslot) :=
    rn_eq_of_pair_eq (hvalue rfl)
  have hcounted := rn_waitcyc_handOver_stray hobjs hcores
  rw [rn_crnFeed_nothing hregs, hctr] at hcounted
  have hthere : t.rn (Reg.NMD_WAITCYC 4) = (w.handOver 96 0 strayXfer strayBlock []).rn (Reg.NMD_WAITCYC 4) :=
    rn_congr (by rw [← ht, State.reg, regs_yieldCtx, ← State.reg])
  rw [strayValue_eq_waitcyc, rn_crnFeed_nothing rfl, hthere, hcounted] at hpair
  have hlt := Nat.mod_lt (Config.freeValue (k + 1)).toNat (show 0 < 2 ^ 32 by decide)
  omega

end Sys2Proof.Proofs
end

section
/-!
PROOFS. What reads, stores and the freeing of frames leave of the cells in error: none joins them, and no granule whose
cells hold no error becomes known bad (R166 to R173).
-/

namespace Sys2Proof.Machine

variable {s : State}

/-- No cell in error joins those of before, and a granule that joins a known-bad list holds one of them. -/
def ErrorsWithin (s t : State) : Prop :=
  t.cond.symbols ⊆ s.cond.symbols ∧ t.cond.bits ⊆ s.cond.bits ∧
  ∀ e, ∀ a ∈ (t.cis e).bad, a ∈ (s.cis e).bad ∨ ∃ c ∈ s.cond.symbols, c / 64 * 64 = a

theorem ErrorsWithin.trans {t u : State} (h1 : ErrorsWithin s t) (h2 : ErrorsWithin t u) : ErrorsWithin s u := by
  obtain ⟨hsym1, hbit1, hbad1⟩ := h1
  obtain ⟨hsym2, hbit2, hbad2⟩ := h2
  refine ⟨List.Subset.trans hsym2 hsym1, List.Subset.trans hbit2 hbit1, fun e a ha => ?_⟩
  rcases hbad2 e a ha with hold | ⟨c, hc, hca⟩
  · exact hbad1 e a hold
  · exact .inr ⟨c, hsym1 hc, hca⟩

theorem errorsWithin_of_subset {t : State} (hsym : t.cond.symbols ⊆ s.cond.symbols) (hbit : t.cond.bits ⊆ s.cond.bits)
    (hcis : t.cisterns = s.cisterns) : ErrorsWithin s t :=
  ⟨hsym, hbit, fun e a ha => .inl (by rwa [cis_congr hcis] at ha)⟩

theorem errorsWithin_of_same {t : State} (hcond : t.cond = s.cond) (hcis : t.cisterns = s.cisterns) : ErrorsWithin s t :=
  errorsWithin_of_subset (by rw [hcond]; exact List.Subset.refl _) (by rw [hcond]; exact List.Subset.refl _) hcis

theorem ErrorsWithin.refl (s : State) : ErrorsWithin s s := errorsWithin_of_same rfl rfl

theorem errorsWithin_of_reported {t : State} (h : Reported s t) : ErrorsWithin s t :=
  errorsWithin_of_same (by rw [h]) (by rw [h])

/-- A granule whose cells hold no error, and that is not known bad, stays such. -/
theorem ErrorsWithin.soundGran {t : State} (h : ErrorsWithin s t) {g : Nat} (hg : s.soundGran g) : t.soundGran g := by
  obtain ⟨hsym, hbit, hbad⟩ := h
  obtain ⟨hfaulty, hlisted, hwords⟩ := hg
  have hclear : ∀ c ∈ s.cond.symbols, c / 64 * 64 ≠ g := fun c hc hcg => by
    have hin : c ∈ s.faulty g := List.mem_eraseDups.2 (List.mem_filter.2 ⟨hc, by simpa using hcg⟩)
    rw [hfaulty] at hin
    exact nomatch hin
  have hsound : ∀ w ∈ granWords g, ∀ b ∈ s.cond.bits, b.1 ≠ w := fun w hw b hb hbw => by
    have hin : b.2 ∈ s.badBits w :=
      List.mem_eraseDups.2 (List.mem_map_of_mem (List.mem_filter.2 ⟨hb, by simpa using hbw⟩))
    rw [hwords w hw] at hin
    exact nomatch hin
  refine ⟨List.eq_nil_iff_forall_not_mem.2 fun c hc => ?_, ?_, fun w hw => List.eq_nil_iff_forall_not_mem.2 fun i hi => ?_⟩
  · obtain ⟨hin, hcg⟩ := List.mem_filter.1 (List.mem_eraseDups.1 hc)
    exact hclear c (hsym hin) (by simpa using hcg)
  · refine Bool.eq_false_iff.2 fun hin => ?_
    rcases hbad _ g (List.contains_iff_mem.1 hin) with hold | ⟨c, hc, hcg⟩
    · exact absurd (List.contains_iff_mem.2 hold) (by rw [← State.listed, hlisted]; exact Bool.false_ne_true)
    · exact hclear c hc hcg
  · obtain ⟨b, hb, -⟩ := List.mem_map.1 (List.mem_eraseDups.1 hi)
    obtain ⟨hin, hbw⟩ := List.mem_filter.1 hb
    exact hsound w hw b (hbit hin) (by simpa using hbw)

theorem ErrorsWithin.sound {t : State} (h : ErrorsWithin s t) {a n : Nat} (hs : s.sound a n) : t.sound a n :=
  fun g hg => h.soundGran (hs g hg)

variable (s)

theorem errorsWithin_setBytes (a : Nat) (l : List Byte) : ErrorsWithin s (s.setBytes a l) := by
  rw [setBytes_eq]
  exact errorsWithin_of_same rfl rfl

/-- A known-bad list changed to one whose granules stood in it or hold an error. -/
theorem errorsWithin_setBad {e : Nat} {l : List Nat}
    (h : ∀ a ∈ l, a ∈ (s.cis e).bad ∨ ∃ c ∈ s.cond.symbols, c / 64 * 64 = a) :
    ErrorsWithin s (s.setCis e { s.cis e with bad := l }) := by
  refine ⟨List.Subset.refl _, List.Subset.refl _, fun k a ha => ?_⟩
  by_cases hk : k = e
  · rw [hk, cis_setCis] at ha
    rw [hk]
    exact h a ha
  · rw [cis_setCis_other _ _ hk] at ha
    exact .inl ha

theorem errorsWithin_forgetFrame (f : Nat) : ErrorsWithin s (s.forgetFrame f) :=
  errorsWithin_setBad s fun _ ha => .inl (List.mem_of_mem_filter ha)

theorem errorsWithin_retireFrame (f : Nat) : ErrorsWithin s (s.retireFrame f) := by
  have hforget := errorsWithin_forgetFrame s f
  unfold State.retireFrame
  split
  · exact hforget
  · split
    · exact hforget.trans (errorsWithin_of_reported (reported_retireBank _ _ _ _))
    · exact (hforget.trans (errorsWithin_of_same (t := s.listRetired f) rfl rfl)).trans
        (errorsWithin_of_reported (reported_joins s f))

/-- A granule that its code sees in error holds a symbol in error. -/
theorem symbol_of_granSeen {g : Nat} (h : s.granSeen g = true) : ∃ c ∈ s.cond.symbols, c / 64 * 64 = g := by
  have hne : s.faulty g ≠ [] := fun hnil => by simp [State.granSeen, hnil] at h
  obtain ⟨c, hc⟩ := List.exists_mem_of_ne_nil _ hne
  obtain ⟨hin, hcg⟩ := List.mem_filter.1 (List.mem_eraseDups.1 hc)
  exact ⟨c, hin, by simpa using hcg⟩

theorem errorsWithin_noteUe {g : Nat} (h : s.granSeen g = true) (ctl : Bool) : ErrorsWithin s (s.noteUe g ctl) := by
  have hput : ErrorsWithin s (s.putBad g) := by
    refine (errorsWithin_setBad s (e := cisternOf g) (l := keepLast 32 ((s.cis (cisternOf g)).bad ++ [g])) fun a ha => ?_).trans
      (errorsWithin_of_same (t := s.putBad g) rfl rfl)
    rcases List.mem_append.1 (List.mem_of_mem_drop ha) with hold | hnew
    · exact .inl hold
    · exact .inr (by rw [List.mem_singleton.1 hnew]; exact symbol_of_granSeen s h)
  refine hput.trans (ErrorsWithin.trans (t := s.listBad g) ?_ (errorsWithin_of_reported (reported_noteUe s g ctl)))
  rw [listBad_eq]
  exact errorsWithin_of_same rfl rfl

/-- An uncorrectable granule is known bad, which does nothing more, or holds symbols in error. -/
theorem errorsWithin_detectDram {g : Nat} (h : s.granBad g = true) (ctl : Bool) : ErrorsWithin s (s.detectDram g ctl) := by
  unfold State.detectDram
  split
  · exact .refl s
  · next hlisted =>
    have hseen : s.granSeen g = true := by
      rw [State.granBad, State.listed, Bool.or_eq_true] at h
      exact h.resolve_right hlisted
    split
    · exact errorsWithin_noteUe s hseen ctl
    · exact (errorsWithin_noteUe s hseen ctl).trans (errorsWithin_retireFrame _ _)

theorem errorsWithin_heal (g : Nat) : ErrorsWithin s (s.heal g) :=
  errorsWithin_of_subset (List.filter_subset_self _) (List.Subset.refl _) rfl

theorem errorsWithin_healWord (w : Nat) : ErrorsWithin s (s.healWord w) :=
  errorsWithin_of_subset (List.Subset.refl _) (List.filter_subset_self _) rfl

theorem errorsWithin_correctWords (l : List Nat) : ErrorsWithin s (correctWords s l) := by
  induction l generalizing s with
  | nil => exact .refl s
  | cons w t ih =>
    refine ErrorsWithin.trans ?_ (ih _)
    split
    · exact (errorsWithin_healWord s w).trans (errorsWithin_of_reported (reported_countCe _ _))
    · exact .refl s

theorem errorsWithin_correct (g : Nat) : ErrorsWithin s (s.correct g) := by
  unfold State.correct
  split
  · split
    · exact (errorsWithin_heal s g).trans (errorsWithin_of_reported (reported_countCe _ _))
    · exact .refl s
  · exact errorsWithin_correctWords s _
  · exact errorsWithin_correctWords s _
  · exact errorsWithin_correctWords s _
  · exact .refl s

theorem errorsWithin_detectWords (loc : Nat) (l : List Nat) : ErrorsWithin s (detectWords loc s l) :=
  errorsWithin_of_reported (reported_detectWords s loc l)

theorem errorsWithin_prepareGran (loc g : Nat) : ErrorsWithin s (s.prepareGran loc g) := by
  have hwords : ∀ u : State, ErrorsWithin u (if (u.badWords g).isEmpty then u
      else (detectWords loc u (u.badWords g)).setBytes g (List.replicate 64 0)) := fun u => by
    split
    · exact .refl u
    · exact (errorsWithin_detectWords u loc _).trans (errorsWithin_setBytes _ _ _)
  refine (errorsWithin_correct s g).trans ?_
  unfold State.prepareGran
  dsimp only
  split
  · split
    · next hbad => exact (errorsWithin_detectDram _ hbad false).trans (errorsWithin_setBytes _ _ _)
    · exact .refl _
  · exact hwords _
  · exact hwords _
  · exact hwords _
  · exact .refl _

theorem errorsWithin_freshCells (lo hi : Nat) : ErrorsWithin s (s.freshCells lo hi) := by
  unfold State.freshCells
  split
  · exact errorsWithin_of_subset (List.filter_subset_self _) (List.filter_subset_self _) rfl
  · exact .refl s

theorem errorsWithin_writeData (loc a : Nat) (l : List Byte) : ErrorsWithin s (s.writeData loc a l) := by
  have hprep : ∀ (u : State) (p : Prop) [Decidable p] (g : Nat), ErrorsWithin u (if p then u.prepareGran loc g else u) :=
    fun u p _ g => by
      split
      · exact errorsWithin_prepareGran u loc g
      · exact .refl u
  unfold State.writeData
  split
  · exact .refl s
  · split
    · exact .refl s
    · exact (((hprep s _ _).trans (hprep _ _ _)).trans (errorsWithin_setBytes _ _ _)).trans (errorsWithin_freshCells _ _ _)

theorem errorsWithin_readGran (g loc : Nat) : ErrorsWithin s (s.readGran g loc).2.2 := by
  have hwords : ∀ u : State, ErrorsWithin u (if (u.badWords g).isEmpty then (u.bytes g 64, false, u)
      else (List.replicate 64 0, true, detectWords loc u (u.badWords g))).2.2 := fun u => by
    split
    · exact .refl u
    · exact errorsWithin_detectWords u loc _
  refine (errorsWithin_correct s g).trans ?_
  unfold State.readGran
  dsimp only
  split
  · split
    · next hbad => exact (errorsWithin_detectDram _ hbad false).trans (errorsWithin_of_reported (reported_setPair _ _ _))
    · exact .refl _
  · exact hwords _
  · exact hwords _
  · exact hwords _
  · exact .refl _

theorem errorsWithin_readGrans (loc : Nat) (l : List Nat) : ErrorsWithin s (s.readGrans loc l).2.2 := by
  induction l generalizing s with
  | nil => exact .refl s
  | cons g t ih => exact (errorsWithin_readGran s g loc).trans (ih _)

theorem errorsWithin_readData (loc a n : Nat) : ErrorsWithin s (s.readData loc a n).st := by
  unfold State.readData
  split
  · exact .refl s
  · split
    · exact .refl s
    · split
      · split <;> exact .refl s
      · exact errorsWithin_readGrans s loc _

end Sys2Proof.Machine
end

section
/-!
PROOFS. What work on a sequence's pages leaves (R233 to R236, R241, R250 to R252): the streams, the engines' transfers and
what is placed stay as they are, and so do the counts of pages swapped.
-/

namespace Sys2Proof.Machine

variable {s : State}

/-- Nothing differs but memory, its errors and marks, what the part reports, registers, and pages and swap units in use. -/
def PageFrame (s t : State) : Prop := t = { s with
  regs := t.regs
  mem := t.mem
  errs := t.errs
  snap := t.snap
  fab := t.fab
  host := t.host
  cond := t.cond
  cisterns := t.cisterns
  retired := t.retired
  retireDue := t.retireDue
  weights := t.weights
  freeCtr := t.freeCtr
  pools := t.pools
  swaps := t.swaps }

theorem PageFrame.trans {t u : State} (h1 : PageFrame s t) (h2 : PageFrame t u) : PageFrame s u := by
  unfold PageFrame at *
  rw [h2, h1]

theorem PageFrame.of_stored {t : State} (h : Stored s t) : PageFrame s t := by
  unfold PageFrame
  rw [h.2]

section Frame

variable {t : State} (h : PageFrame s t)
include h

theorem PageFrame.streams : t.streams = s.streams := by rw [h]
theorem PageFrame.caravans : t.caravans = s.caravans := by rw [h]
theorem PageFrame.structure_ : t.structure_ = s.structure_ := by rw [h]
theorem PageFrame.strm (k : Nat) : t.strm k = s.strm k := strm_of_streams h.streams k

theorem PageFrame.calm (hs : s.calm) : t.calm := by
  rw [h]
  exact hs

end Frame

/-- The registers that count pages swapped out and restored (Table 11-6). -/
def swapCounts : List Nat :=
  [Reg.KVC_SWAP_OUT_LO, Reg.KVC_SWAP_OUT_LO + 4, Reg.KVC_SWAP_IN_LO, Reg.KVC_SWAP_IN_LO + 4]

/-- Work on pages that counts none as swapped and brings no cell into error. -/
structure PageWork (s t : State) : Prop where
  frame : PageFrame s t
  counts : ∀ a ∈ swapCounts, t.reg a = s.reg a
  errors : ErrorsWithin s t

theorem PageWork.trans {t u : State} (h1 : PageWork s t) (h2 : PageWork t u) : PageWork s u :=
  ⟨h1.frame.trans h2.frame, fun a ha => (h2.counts a ha).trans (h1.counts a ha), h1.errors.trans h2.errors⟩

theorem PageWork.refl (s : State) : PageWork s s := ⟨rfl, fun _ _ => rfl, .refl s⟩

theorem not_errorReg_swapCounts : ∀ a ∈ swapCounts, ¬ ErrorReg a := by decide

theorem PageWork.of_stored {t : State} (h : Stored s t) (he : ErrorsWithin s t) : PageWork s t :=
  ⟨.of_stored h, fun a ha => h.1 a (not_errorReg_swapCounts a ha), he⟩

theorem PageWork.pair_out {t : State} (h : PageWork s t) : t.pair Reg.KVC_SWAP_OUT_LO = s.pair Reg.KVC_SWAP_OUT_LO :=
  pair_congr (h.counts _ (by decide)) (h.counts _ (by decide))

theorem PageWork.pair_in {t : State} (h : PageWork s t) : t.pair Reg.KVC_SWAP_IN_LO = s.pair Reg.KVC_SWAP_IN_LO :=
  pair_congr (h.counts _ (by decide)) (h.counts _ (by decide))

variable (s)

theorem pageWork_setN {a : Nat} (ha : a ∉ swapCounts) (v : Nat) : PageWork s (s.setN a v) :=
  ⟨rfl, fun _ hb => reg_setReg_other s _ (fun h => ha (h ▸ hb)), errorsWithin_of_same rfl rfl⟩

theorem pageWork_setBytes (a : Nat) (l : List Byte) : PageWork s (s.setBytes a l) :=
  .of_stored (stored_setBytes s a l) (errorsWithin_setBytes s a l)

theorem pageWork_writeData (loc a : Nat) (l : List Byte) : PageWork s (s.writeData loc a l) :=
  .of_stored (stored_writeData s loc a l) (errorsWithin_writeData s loc a l)

theorem pageWork_readData (loc a n : Nat) : PageWork s (s.readData loc a n).st :=
  .of_stored (stored_readData s loc a n) (errorsWithin_readData s loc a n)

theorem pageWork_readRuns (loc : Nat) (l : List (Nat × Nat)) : PageWork s (s.readRuns loc l).st := by
  induction l generalizing s with
  | nil => exact .refl s
  | cons p t ih => exact (pageWork_readData s loc p.1 p.2).trans (ih _)

theorem pageWork_writeRuns (loc : Nat) (l : List (Nat × Nat)) (b : List Byte) : PageWork s (s.writeRuns loc l b) := by
  induction l generalizing s b with
  | nil => exact .refl s
  | cons p t ih => exact (pageWork_writeData s loc p.1 _).trans (ih _ _)

/-! Page lists and block records (R236, R241). -/

theorem pageWork_setKvEnt (h i : Nat) (e : KvEntry) : PageWork s (s.setKvEnt h i e) := pageWork_writeData s _ _ _

theorem pageWork_shareEntries (h j : Nat) (b : Bool) (g : Nat) (l : List Nat) : PageWork s (shareEntries h j b g s l) := by
  induction l generalizing s with
  | nil => exact .refl s
  | cons i t ih => exact (pageWork_setKvEnt s _ _ _).trans (ih _)

theorem pageWork_unindex (r : Nat) : PageWork s (s.unindex r) := by
  unfold State.unindex
  split
  · exact .refl s
  · dsimp only
    split
    · exact (pageWork_writeData s _ _ _).trans (pageWork_writeData _ _ _ _)
    · exact pageWork_writeData s _ _ _

theorem pageWork_retireRec (r : Nat) : PageWork s (s.retireRec r) :=
  ((pageWork_unindex s r).trans (pageWork_writeData _ _ _ _)).trans (pageWork_setN _ (by decide) _)

/-! Frames and swap units (R233, R251). -/

theorem pageWork_lowerLows (d : Nat) (l : List Nat) : PageWork s (lowerLows d s l) := by
  induction l generalizing s with
  | nil => exact .refl s
  | cons i t ih =>
    refine PageWork.trans ?_ (ih _)
    split
    · refine pageWork_setN s (fun h => not_errorReg_swapCounts _ h (.inl ?_)) _
      simp only [Reg.KVP_LOWi, dieBase]
      omega
    · exact .refl s

theorem pageWork_retireRun (f n : Nat) : PageWork s (s.retireRun f n) := by
  induction n generalizing s f with
  | zero => exact .refl s
  | succ n ih =>
    refine PageWork.trans ?_ (ih _ _)
    unfold State.retireIfDue
    split
    · exact .of_stored (stored_retireFrame s f) (errorsWithin_retireFrame s f)
    · exact .refl s

theorem pageWork_freeRun (f n : Nat) : PageWork s (s.freeRun f n) := by
  have hpools : ∀ (u : State) (p : List PagePool), PageWork u { u with pools := p } := fun _ _ =>
    ⟨rfl, fun _ _ => rfl, errorsWithin_of_same rfl rfl⟩
  exact ((pageWork_lowerLows s _ _).trans (hpools _ _)).trans (pageWork_retireRun _ _ _)

theorem pageWork_setSwapRuns (f : Nat) (l : List (Nat × Nat)) : PageWork s (s.setSwapRuns f l) := by
  have hused : Reg.KVC_SWAPf_USED f ∉ swapCounts := by
    simp only [swapCounts, Reg.KVC_SWAPf_USED, Reg.KVC_SWAP_OUT_LO, Reg.KVC_SWAP_IN_LO, List.mem_cons, List.not_mem_nil,
      or_false, not_or]
    omega
  have hswaps : ∀ m : AMap (List (Nat × Nat)), PageWork s { s with swaps := m } := fun _ =>
    ⟨rfl, fun _ _ => rfl, errorsWithin_of_same rfl rfl⟩
  exact (hswaps _).trans (pageWork_setN _ hused _)

/-! Freed frames keep their bytes. -/

theorem mem_lowerLows (d : Nat) (l : List Nat) : (lowerLows d s l).mem = s.mem := by
  induction l generalizing s with
  | nil => rfl
  | cons i t ih =>
    rw [lowerLows, ih]
    split
    · exact State.setN_mem s _ _
    · rfl

theorem mem_retireRun (f n : Nat) : (s.retireRun f n).mem = s.mem := by
  induction n generalizing s f with
  | zero => rfl
  | succ n ih =>
    rw [State.retireRun, ih, State.retireIfDue]
    split
    · exact (marked_retireFrame s f).mem
    · rfl

theorem mem_freeRun (f n : Nat) : (s.freeRun f n).mem = s.mem := by
  have hpools : ∀ (u : State) (p : List PagePool), ({ u with pools := p } : State).mem = u.mem := fun _ _ => rfl
  rw [State.freeRun, mem_retireRun, hpools, mem_lowerLows]

/-! Entries of a page list (Table 11-2). -/

theorem kvEntry_code (kind : Nat) (shared : Bool) (loc : Nat) :
    kvEntry (KvEntry.code ⟨kind, shared, loc⟩) = ⟨kind % 4, shared, loc % 2 ^ 29⟩ := by
  have hshared : b2n shared < 2 := by cases shared <;> decide
  have hbit : b2n shared = 1 ↔ shared = true := by cases shared <;> decide
  simp only [kvEntry, KvEntry.code, bitsAt, bitAt_eq_testBit, Nat.testBit_eq_decide_div_mod_eq, Nat.shiftRight_eq_div_pow,
    KvEntry.mk.injEq]
  refine ⟨by omega, ?_, by omega⟩
  rw [Bool.eq_iff_iff, decide_eq_true_eq, ← hbit]
  omega

end Sys2Proof.Machine
end

section
/-!
PROOFS. A victim's pages go to the swap pool (R249 to R251).
-/

namespace Sys2Proof.AMap

/-- An entry of a map that was written is the one written or stood in it. -/
theorem mem_of_mem_write {β : Type} [DecidableEq β] {d : Nat → β} {m : AMap β} {k : Nat} {v : β} {e : Nat × β}
    (h : e ∈ write d m k v) : e = (k, v) ∨ e ∈ m := by
  unfold write at h
  split at h
  · exact .inr (erase_subset m k e h)
  · exact (mem_place h).imp_right (erase_subset m k e)

end Sys2Proof.AMap

namespace Sys2Proof.Machine

variable {s : State}

/-! A stream's cache. -/

@[simp] theorem strm_setKv_same (s : State) (n : Nat) (v : KvSeq) : (s.setKv n v).strm n = { s.strm n with kv := v } := by
  rw [State.setKv, State.modStrm, strm_setStrm, if_pos rfl]

theorem strm_setKv_other (s : State) {n k : Nat} (v : KvSeq) (h : k ≠ n) : (s.setKv n v).strm k = s.strm k := by
  rw [State.setKv, State.modStrm, strm_setStrm, if_neg h]

@[simp] theorem strm_setBit (s : State) (a i : Nat) (b : Bool) (k : Nat) : (s.setBit a i b).strm k = s.strm k := rfl

/-- What a part where nothing waits asks of a stream. -/
theorem State.calm.need (h : s.calm) (k : Nat) : (s.strm k).kv.need = [] := by
  obtain ⟨-, -, hstrm⟩ := h
  rcases AMap.read_mem_or (fun _ => {}) s.streams k with hm | hd
  · exact (hstrm _ hm).1
  · rw [State.strm, hd]

/-- Nothing waits for pages after a sequence's cache has become one that needs none. -/
theorem State.calm.setKv (h : s.calm) {v : KvSeq} (n : Nat) (hv : v.need = []) : (s.setKv n v).calm := by
  obtain ⟨himport, hstep⟩ := h.strm n
  obtain ⟨hload, hpend, hstrm⟩ := h
  refine ⟨hload, hpend, fun e he => ?_⟩
  have hput : e ∈ AMap.write (fun _ => {}) s.streams n { s.strm n with kv := v } := he
  rcases AMap.mem_of_mem_write hput with rfl | hold
  · exact ⟨hv, himport, hstep⟩
  · exact hstrm e hold

/-! The end of a victim's swap. -/

theorem runDue_of_none {n : Nat} (h : (s.strm n).due = []) : s.runDue n = s := by
  rw [State.runDue, h]
  rfl

/-- The state of a victim once its swap is over (R249). -/
def State.swapEnd (s : State) (n : Nat) : KvState := if (s.swappedEntries n).isEmpty then .resident else .swapped

/-- The victim's swap is over, no command waiting for it. -/
theorem endSwap_eq {n : Nat} (h : (s.strm n).due = []) :
    s.endSwap n = (s.setKv n { (s.strm n).kv with st := s.swapEnd n, swapOut := [] }).showSwapping :=
  runDue_of_none (by rw [State.showSwapping, strm_setBit, strm_setKv_same]; exact h)

theorem sumMap_of_zero {α : Type} {f : α → Nat} {l : List α} (h : ∀ x ∈ l, f x = 0) : sumMap f l = 0 := by
  rw [sumMap]
  induction l with
  | nil => rfl
  | cons x t ih =>
    obtain ⟨hx, ht⟩ := List.forall_mem_cons.1 h
    rw [List.foldl_cons, hx, ih ht]

/-- No victim is chosen while no sequence waits for pages. -/
theorem fillNeeds_of_none (h : ∀ e ∈ s.streams, e.2.kv.need = []) (m : Nat) : fillNeeds m s = s := by
  have hneeds : ∀ p, s.needsWaiting p = 0 := fun p => sumMap_of_zero fun e he => by simp [h e he]
  have hshort : s.shortPool = none := List.find?_eq_none.2 fun p _ => by simp [hneeds]
  cases m with
  | zero => rfl
  | succ m => rw [fillNeeds, hshort]; rfl

/-! A victim's page. -/

/-- Work on the pages of sequence n that counts none as swapped: at most the sequence gives up block records. -/
structure SeqWork (n : Nat) (s t : State) : Prop where
  others : ∀ j, j ≠ n → t.strm j = s.strm j
  own : ∃ l, t.strm n = { s.strm n with kv := { (s.strm n).kv with recs := l } }
  count : t.pair Reg.KVC_SWAP_OUT_LO = s.pair Reg.KVC_SWAP_OUT_LO
  errors : ErrorsWithin s t

theorem PageWork.seqWork {t : State} (h : PageWork s t) (n : Nat) : SeqWork n s t :=
  ⟨fun j _ => h.frame.strm j, ⟨_, h.frame.strm n⟩, h.pair_out, h.errors⟩

theorem seqWork_forgetRec (s : State) (n j : Nat) : SeqWork n s (s.forgetRec n j) :=
  ⟨fun _ hk => strm_setKv_other s _ hk, ⟨_, strm_setKv_same s n _⟩, rfl, errorsWithin_of_same rfl rfl⟩

theorem SeqWork.trans {n : Nat} {t u : State} (h1 : SeqWork n s t) (h2 : SeqWork n t u) : SeqWork n s u := by
  obtain ⟨l1, hown1⟩ := h1.own
  obtain ⟨l2, hown2⟩ := h2.own
  exact ⟨fun j hj => (h2.others j hj).trans (h1.others j hj), ⟨l2, by rw [hown2, hown1]⟩, h2.count.trans h1.count,
    h1.errors.trans h2.errors⟩

theorem SeqWork.list {n : Nat} {t : State} (h : SeqWork n s t) : (t.strm n).kv.list = (s.strm n).kv.list := by
  obtain ⟨l, hown⟩ := h.own
  rw [hown]

theorem SeqWork.swapOut {n : Nat} {t : State} (h : SeqWork n s t) : (t.strm n).kv.swapOut = (s.strm n).kv.swapOut := by
  obtain ⟨l, hown⟩ := h.own
  rw [hown]

theorem pageWork_takeSwap {f m a : Nat} {t : State} (h : s.takeSwap f m = some (a, t)) : PageWork s t := by
  obtain ⟨b, -, hb⟩ := Option.map_eq_some_iff.1 h
  obtain ⟨-, rfl⟩ := Prod.mk.inj hb
  exact pageWork_setSwapRuns s f _

/-- A page that goes has its entry set to SWAPPED, its frames freed and one page counted, after work that only copies its
content and takes its block out of the index (R250, R251). -/
theorem swapPage_eq {n e : Nat} {k : KvDecl} {u : State} (h : s.swapPage n e k = some u) :
    ∃ (w : State) (a f : Nat), SeqWork n s w ∧
      u = ((w.setKvEnt n e ⟨2, false, a⟩).freeRun f k.frames).bump64 Reg.KVC_SWAP_OUT_LO 1 := by
  unfold State.swapPage at h
  dsimp only at h
  split at h
  · exact nomatch h
  · next a t htaken =>
    have hcopied : ∀ (loc p : Nat) (l : List (Nat × Nat)) (b : List Byte), PageWork s ((t.readRuns loc l).st.setBytes p b) :=
      fun loc p l b => ((pageWork_takeSwap htaken).trans (pageWork_readRuns t loc l)).trans (pageWork_setBytes _ p b)
    refine ⟨_, a, _, ?_, (Option.some.inj h).symm⟩
    split
    · exact (((hcopied _ _ _ _).trans ((pageWork_retireRec _ _).trans (pageWork_shareEntries _ _ _ _ _ _))).seqWork n).trans
        (seqWork_forgetRec _ n _)
    · exact (hcopied _ _ _ _).seqWork n

/-- An entry stored over sound cells of a list reads as what was stored. -/
theorem kvEnt_setKvEnt {n i : Nat} (hone : inOnePlace ((s.strm n).kv.list + 4 * i) 4 = true)
    (hregs : placeOf ((s.strm n).kv.list + 4 * i) ≠ .regs) (hs : s.sound ((s.strm n).kv.list + 4 * i) 4)
    (kind loc : Nat) (shared : Bool) :
    (s.setKvEnt n i ⟨kind, shared, loc⟩).kvEnt n i = ⟨kind % 4, shared, loc % 2 ^ 29⟩ := by
  have hlt : KvEntry.code ⟨kind, shared, loc⟩ < 2 ^ 32 := by
    have hshared : b2n shared < 2 := by cases shared <;> decide
    simp only [KvEntry.code]
    omega
  have hlist : ((s.setKvEnt n i ⟨kind, shared, loc⟩).strm n).kv.list = (s.strm n).kv.list :=
    congrArg (fun y => y.kv.list) ((pageWork_setKvEnt s n i _).frame.strm n)
  have hstored := (writeData_sound (l := leBytes 4 (KvEntry.code ⟨kind, shared, loc⟩)) hone hregs hs s.oasisReader).1
  rw [length_leBytes] at hstored
  rw [State.kvEnt, hlist, State.num, State.setKvEnt, hstored, leVal_leBytes, Nat.mod_eq_of_lt hlt, kvEntry_code]

theorem kvEnt_congr {t : State} (hstrm : ∀ j, t.strm j = s.strm j) (hmem : t.mem = s.mem) (n i : Nat) :
    t.kvEnt n i = s.kvEnt n i := by
  rw [State.kvEnt, hstrm, State.num, bytes_congr (fun k _ _ => byte_congr hmem k)]
  rfl

/-- What the going of a page leaves and does (R250, R251). -/
theorem swapPage_spec {n e : Nat} {k : KvDecl} {u : State} (h : s.swapPage n e k = some u) :
    u.pair Reg.KVC_SWAP_OUT_LO = (s.pair Reg.KVC_SWAP_OUT_LO + 1) % 2 ^ 64 ∧
    (u.strm n).kv.swapOut = (s.strm n).kv.swapOut ∧ (∀ j, j ≠ n → u.strm j = s.strm j) ∧
    (inOnePlace ((s.strm n).kv.list + 4 * e) 4 = true → placeOf ((s.strm n).kv.list + 4 * e) ≠ .regs →
      s.sound ((s.strm n).kv.list + 4 * e) 4 → (u.kvEnt n e).kind = 2 ∧ (u.kvEnt n e).shared = false) := by
  obtain ⟨w, a, f, hw, rfl⟩ := swapPage_eq h
  have hfreed : PageWork w ((w.setKvEnt n e ⟨2, false, a⟩).freeRun f k.frames) :=
    (pageWork_setKvEnt w n e _).trans (pageWork_freeRun _ f _)
  have hcounted : ∀ j, (((w.setKvEnt n e ⟨2, false, a⟩).freeRun f k.frames).bump64 Reg.KVC_SWAP_OUT_LO 1).strm j =
      ((w.setKvEnt n e ⟨2, false, a⟩).freeRun f k.frames).strm j := strm_of_streams (State.bump64_streams _ _ _)
  have hall := hw.trans (hfreed.seqWork n)
  refine ⟨?_, ?_, fun j hj => ?_, fun hone hregs hsound => ?_⟩
  · rw [pair_bump64_same, hall.count]
  · rw [hcounted, hall.swapOut]
  · rw [hcounted, hall.others j hj]
  · rw [← hw.list] at hone hregs hsound
    rw [kvEnt_congr (s := w.setKvEnt n e ⟨2, false, a⟩)
      (fun j => (hcounted j).trans ((pageWork_freeRun _ f _).frame.strm j))
      ((State.bump64_mem _ _ _).trans (mem_freeRun _ f _)), kvEnt_setKvEnt hone hregs (hw.errors.sound hsound)]
    exact ⟨rfl, rfl⟩

end Sys2Proof.Machine
end

section
/-!
PROOFS. SWAP_PAGE_WRITE_DONE: the end of a victim's page, and of its swap (R249 to R251).
-/

namespace Sys2Proof.Machine

variable {s : State}

/-! What a swap's end shows. -/

@[simp] theorem strm_showSwapping (s : State) (k : Nat) : s.showSwapping.strm k = s.strm k := rfl
@[simp] theorem strm_showPreempting (s : State) (k : Nat) : s.showPreempting.strm k = s.strm k := rfl
@[simp] theorem mem_showSwapping (s : State) : s.showSwapping.mem = s.mem := State.setBit_mem s _ _ _
@[simp] theorem mem_showPreempting (s : State) : s.showPreempting.mem = s.mem := State.setBit_mem s _ _ _
@[simp] theorem mem_setKv (s : State) (n : Nat) (v : KvSeq) : (s.setKv n v).mem = s.mem := rfl

theorem reg_showSwapping {a : Nat} (h : a ≠ Reg.KVC_STATUS) : s.showSwapping.reg a = s.reg a := reg_setBit_other s _ _ h
theorem reg_showPreempting {a : Nat} (h : a ≠ Reg.PLC_STATUS) : s.showPreempting.reg a = s.reg a := reg_setBit_other s _ _ h

theorem State.calm.of_reported {t : State} (hs : s.calm) (h : Reported s t) : t.calm := by
  rw [h]
  exact hs

theorem State.calm.fillNeeds (h : s.calm) (m : Nat) : fillNeeds m s = s := by
  obtain ⟨-, -, hstrm⟩ := h
  exact fillNeeds_of_none (fun e he => (hstrm e he).1) m

/-- The victim's swap is over: victims are chosen for needs still uncovered, and what waits for pages goes on (R249). -/
def State.swapOver (s : State) (n : Nat) : State :=
  (Machine.fillNeeds (2 * (s.endSwap n).streams.length) (s.endSwap n)).afterGone

theorem State.calm.swapOver (h : s.calm) {n : Nat} (hdue : (s.strm n).due = []) :
    s.swapOver n = (s.setKv n { (s.strm n).kv with st := s.swapEnd n, swapOut := [] }).showSwapping.showPreempting := by
  have hkv : (s.setKv n { (s.strm n).kv with st := s.swapEnd n, swapOut := [] }).calm := h.setKv n (h.need n)
  have hcalm := hkv.of_vacated (t := (s.setKv n { (s.strm n).kv with st := s.swapEnd n, swapOut := [] }).showSwapping)
    (vacated_setReg _ _ _)
  rw [State.swapOver, endSwap_eq hdue, hcalm.fillNeeds, hcalm.afterGone]

theorem swapNext_nil (s : State) (n : Nat) :
    s.swapNext n [] = (s.setKv n { (s.strm n).kv with swapOut := [] }).swapOver n := by
  rw [State.swapNext]
  exact congrArg State.afterGone (if_pos rfl)

theorem swapNext_cons (s : State) (n : Nat) {l : List Nat} (h : l ≠ []) :
    s.swapNext n l = (s.setKv n { (s.strm n).kv with swapOut := l }).afterGone := by
  rw [State.swapNext]
  exact congrArg State.afterGone (if_neg h)

/-- Where nothing else waits, a page's end is the victim's alone. -/
theorem State.calm.swapNext (h : s.calm) {n : Nat} (hdue : (s.strm n).due = []) (l : List Nat) :
    ((s.swapNext n l).strm n).kv.swapOut = l ∧
    (l = [] → ((s.swapNext n l).strm n).kv.st = (s.setKv n { (s.strm n).kv with swapOut := [] }).swapEnd n) ∧
    ((s.swapNext n l).strm n).items = (s.strm n).items ∧ (∀ j, j ≠ n → (s.swapNext n l).strm j = s.strm j) ∧
    (s.swapNext n l).mem = s.mem := by
  have hcalm := h.setKv n (v := { (s.strm n).kv with swapOut := l }) (h.need n)
  by_cases hl : l = []
  · subst hl
    rw [swapNext_nil, hcalm.swapOver (by rw [strm_setKv_same]; exact hdue)]
    refine ⟨by simp, fun _ => by simp, by simp, fun j hj => ?_, by simp⟩
    rw [strm_showPreempting, strm_showSwapping, strm_setKv_other _ _ hj, strm_setKv_other _ _ hj]
  · rw [swapNext_cons s n hl, hcalm.afterGone]
    exact ⟨by simp, fun h => absurd h hl, by simp, fun j hj => strm_setKv_other s _ hj, by simp⟩

/-! A write that failed, or for which no units are free (R251). -/

/-- The victim is counted whose swap is cut short. -/
def State.swapFailed (s : State) : State :=
  (s.count Reg.KVC_SWAP_FAIL 1 Reg.KVC_INT_STATUS 4).raise Reg.KVC_INT_STATUS 1

theorem reported_swapFailed (s : State) : Reported s s.swapFailed := (reported_count s _ _ _ _).trans (reported_raise _ _ _)

theorem rn_swapFailed (s : State) : s.swapFailed.rn Reg.KVC_SWAP_FAIL = min (s.rn Reg.KVC_SWAP_FAIL + 1) 0xFFFFFFFF := by
  rw [State.swapFailed, rn_congr (reg_raise_other _ _ (by decide)), (count_spec s _ 1 _ 4 (by decide) (by decide)).1]

theorem rbit_swapFailed (s : State) : s.swapFailed.rbit Reg.KVC_INT_STATUS 1 = true := (raise_spec _ _ 1 (by decide)).1

theorem streams_swapFailed (s : State) : s.swapFailed.streams = s.streams := by rw [reported_swapFailed s]

theorem mem_swapFailed (s : State) : s.swapFailed.mem = s.mem := reported_mem s (reported_swapFailed s)

/-- Where nothing else waits, a swap cut short is counted and the victim's alone. -/
theorem State.calm.swapCut (h : s.calm) {n : Nat} (hdue : (s.strm n).due = []) :
    ((s.swapFailed.swapOver n).strm n).kv.swapOut = [] ∧
    (s.swapFailed.swapOver n).rn Reg.KVC_SWAP_FAIL = min (s.rn Reg.KVC_SWAP_FAIL + 1) 0xFFFFFFFF ∧
    (s.swapFailed.swapOver n).rbit Reg.KVC_INT_STATUS 1 = true ∧ (s.swapFailed.swapOver n).mem = s.mem ∧
    (∀ j, j ≠ n → (s.swapFailed.swapOver n).strm j = s.strm j) := by
  have hstrm := strm_of_streams (streams_swapFailed s)
  have hreg : ∀ (u : State) {a : Nat}, a ≠ Reg.KVC_STATUS → a ≠ Reg.PLC_STATUS →
      u.showSwapping.showPreempting.reg a = u.reg a := fun u a hkvc hplc =>
    (reg_showPreempting hplc).trans (reg_showSwapping hkvc)
  rw [(h.of_reported (reported_swapFailed s)).swapOver (by rw [hstrm]; exact hdue)]
  refine ⟨by simp, ?_, ?_, by simp [mem_swapFailed], fun j hj => ?_⟩
  · rw [rn_congr (hreg _ (by decide) (by decide))]
    exact rn_swapFailed s
  · rw [rbit_congr (hreg _ (by decide) (by decide))]
    exact rbit_swapFailed s
  · rw [strm_showPreempting, strm_showSwapping, strm_setKv_other _ _ hj, hstrm]

/-! The command. -/

section Command

variable {h : Word} {e : Nat}

theorem doSwapPageWriteDone_ignored (hno : (s.strm h.toNat).kv.swapOut = [] ∨ (s.strm h.toNat).kv.swapOut.head? ≠ some e ∨
    s.kvOf h.toNat = none) (ok : Bool) : doSwapPageWriteDone h e ok s = s := by
  unfold doSwapPageWriteDone
  dsimp only
  split
  · next i t k hq hk =>
    have hi : i ≠ e := by simpa [hq, hk] using hno
    rw [if_pos hi]
  · rfl

variable {l : List Nat} {k : KvDecl} (hq : (s.strm h.toNat).kv.swapOut = e :: l) (hk : s.kvOf h.toNat = some k)
include hq hk

theorem doSwapPageWriteDone_stays (hs : s.swappable h.toNat e k = false) (ok : Bool) :
    doSwapPageWriteDone h e ok s = s.swapNext h.toNat l := by
  simp [doSwapPageWriteDone, hq, hk, hs]

theorem doSwapPageWriteDone_waits (hs : s.swappable h.toNat e k = true) (hhost : s.swapHostOk h.toNat k = false) :
    doSwapPageWriteDone h e true s = s.free.2.priRequest (96 + s.free.1.toNat % 8) := by
  simp [doSwapPageWriteDone, hq, hk, hs, hhost]

theorem doSwapPageWriteDone_goes (hs : s.swappable h.toNat e k = true) (hhost : s.swapHostOk h.toNat k = true) {u : State}
    (hu : s.swapPage h.toNat e k = some u) : doSwapPageWriteDone h e true s = u.swapNext h.toNat l := by
  simp [doSwapPageWriteDone, hq, hk, hs, hhost, hu]

theorem doSwapPageWriteDone_cut (hs : s.swappable h.toNat e k = true) {ok : Bool}
    (hno : ok = false ∨ s.swapHostOk h.toNat k = true ∧ s.swapPage h.toNat e k = none) :
    doSwapPageWriteDone h e ok s = s.swapFailed.swapOver h.toNat := by
  rcases hno with rfl | ⟨hhost, hpage⟩
  · simp [doSwapPageWriteDone, hq, hk, hs, State.swapFailed, State.swapOver]
  · cases ok <;> simp [doSwapPageWriteDone, hq, hk, hs, hhost, hpage, State.swapFailed, State.swapOver]

end Command

end Sys2Proof.Machine
end

section
/-!
PROOFS. KV_RESTORE_COMPLETE: the pages of a sequence come back from the swap pool (R252).
-/

namespace Sys2Proof.Machine

variable {s : State}

/-! Pages that come back. -/

/-- A page of sequence n is read back from its swap units into the frames given for it. -/
def State.pageBack (s : State) (n : Nat) (k : KvDecl) (i f : Nat) : State :=
  ((((s.writePage s.oasisReader f 0 (s.bytes (s.swapAddr (s.strm n).fn (s.kvEnt n i).loc) (k.frames * 16384))).setKvEnt n i
    ⟨1, false, f⟩).freeSwap (s.strm n).fn (s.kvEnt n i).loc).bump64 Reg.KVC_SWAP_IN_LO 1)

/-- The page that list entry i names in the swap pool may be read back. -/
def State.comesBack (s : State) (n : Nat) (k : KvDecl) (i : Nat) : Prop :=
  (s.kvEnt n i).kind = 2 ∧ s.hostOk (s.swapAddr (s.strm n).fn (s.kvEnt n i).loc) (k.frames * 16384) = true

theorem bringBack_comes {n i : Nat} {k : KvDecl} (h : s.comesBack n k i) (f : Nat) (l : List (Nat × Nat)) :
    bringBack n k s ((i, f) :: l) = bringBack n k (s.pageBack n k i f) l := by
  obtain ⟨hkind, hhost⟩ := h
  rw [bringBack]
  exact if_neg (by simp [hkind, hhost])

theorem bringBack_stays {n i : Nat} {k : KvDecl} (h : ¬ s.comesBack n k i) (f : Nat) (l : List (Nat × Nat)) :
    bringBack n k s ((i, f) :: l) = bringBack n k s l := by
  rw [bringBack]
  refine if_pos ?_
  rw [State.comesBack, not_and_or] at h
  exact h.imp id (fun hhost => by simpa using hhost)

/-- Up to the count of pages restored, a page's return is work on pages. -/
theorem pageBack_eq (s : State) (n : Nat) (k : KvDecl) (i f : Nat) :
    ∃ w, PageWork s w ∧ s.pageBack n k i f = w.bump64 Reg.KVC_SWAP_IN_LO 1 :=
  ⟨_, ((pageWork_writeRuns s _ _ _).trans (pageWork_setKvEnt _ n i _)).trans (pageWork_setSwapRuns _ _ _), rfl⟩

theorem pageFrame_bump64 (s : State) (a m : Nat) : PageFrame s (s.bump64 a m) := by
  have hset : ∀ (u : State) (b v : Nat), PageFrame u (u.setN b v) := fun _ _ _ => rfl
  exact (hset s _ _).trans (hset _ _ _)

theorem pageFrame_bringBack (n : Nat) (k : KvDecl) (l : List (Nat × Nat)) (s : State) : PageFrame s (bringBack n k s l) := by
  induction l generalizing s with
  | nil => exact rfl
  | cons p t ih =>
    by_cases h : s.comesBack n k p.1
    · obtain ⟨w, hw, hback⟩ := pageBack_eq s n k p.1 p.2
      rw [bringBack_comes h]
      refine PageFrame.trans ?_ (ih _)
      rw [hback]
      exact hw.frame.trans (pageFrame_bump64 w _ _)
    · rw [bringBack_stays h]
      exact ih s

theorem pair_in_pageBack (s : State) (n : Nat) (k : KvDecl) (i f : Nat) :
    (s.pageBack n k i f).pair Reg.KVC_SWAP_IN_LO = (s.pair Reg.KVC_SWAP_IN_LO + 1) % 2 ^ 64 := by
  obtain ⟨w, hw, hback⟩ := pageBack_eq s n k i f
  rw [hback, pair_bump64_same, hw.pair_in]

/-! The sequence is RESIDENT. -/

/-- The sequence with its pages back. -/
def State.restored (s : State) (n : Nat) (k : KvDecl) : State :=
  let b := bringBack n k s (s.strm n).kv.granted
  b.setKv n { (b.strm n).kv with
    st := .resident
    granted := (b.strm n).kv.granted.filter (fun y => (s.kvEnt n y.1).kind != 2) }

theorem strm_restored_same (s : State) (n : Nat) (k : KvDecl) : (s.restored n k).strm n = { s.strm n with
    kv := { (s.strm n).kv with
      st := .resident
      granted := (s.strm n).kv.granted.filter (fun y => (s.kvEnt n y.1).kind != 2) } } := by
  rw [State.restored, strm_setKv_same, (pageFrame_bringBack n k _ s).strm]

theorem strm_restored_other (s : State) {n j : Nat} (k : KvDecl) (hj : j ≠ n) : (s.restored n k).strm j = s.strm j := by
  rw [State.restored, strm_setKv_other _ _ hj, (pageFrame_bringBack n k _ s).strm]

theorem caravans_restored (s : State) (n : Nat) (k : KvDecl) : (s.restored n k).caravans = s.caravans :=
  (pageFrame_bringBack n k _ s).caravans

theorem structure_restored (s : State) (n : Nat) (k : KvDecl) : (s.restored n k).structure_ = s.structure_ :=
  (pageFrame_bringBack n k _ s).structure_

theorem State.calm.restored (h : s.calm) (n : Nat) (k : KvDecl) : (s.restored n k).calm := by
  have hback := (pageFrame_bringBack n k (s.strm n).kv.granted s).calm h
  exact hback.setKv n (hback.need n)

theorem pair_restored (s : State) (n : Nat) (k : KvDecl) (a : Nat) :
    (s.restored n k).pair a = (bringBack n k s (s.strm n).kv.granted).pair a := rfl

theorem pair_in_restored_nil (s : State) {n : Nat} (k : KvDecl) (h : (s.strm n).kv.granted = []) :
    (s.restored n k).pair Reg.KVC_SWAP_IN_LO = s.pair Reg.KVC_SWAP_IN_LO := by
  rw [pair_restored, h, bringBack]

/-- With one page given for a swapped entry, one page is counted as restored. -/
theorem pair_in_restored_one {n i f : Nat} {k : KvDecl} (h : (s.strm n).kv.granted = [(i, f)]) (hkind : (s.kvEnt n i).kind = 2)
    (hok : s.restoreOk n k = true) :
    (s.restored n k).pair Reg.KVC_SWAP_IN_LO = (s.pair Reg.KVC_SWAP_IN_LO + 1) % 2 ^ 64 := by
  have hhost : s.comesBack n k i := ⟨hkind, by simpa [State.restoreOk, h, hkind] using hok⟩
  rw [pair_restored, h, bringBack_comes hhost, bringBack, pair_in_pageBack]

/-! What waits for the pages goes on. -/

theorem resumeXfers_eq (h : Nat) (full : Bool) (l : List Nat) (s : State) :
    resumeXfers h full s l = { s with caravans := (resumeXfers h full s l).caravans } := by
  induction l generalizing s with
  | nil => rfl
  | cons e t ih =>
    rw [resumeXfers, ih]
    rfl

/-- The sequence restored, and the transfers that wait for its pages going on (R195). -/
def State.restoredXfers (s : State) (n : Nat) (k : KvDecl) : State :=
  resumeXfers ((s.restored n k).handleOf n) false (s.restored n k) ((s.restored n k).caravans.map (fun e => e.1))

theorem strm_restoredXfers (s : State) (n : Nat) (k : KvDecl) (j : Nat) :
    (s.restoredXfers n k).strm j = (s.restored n k).strm j := by
  rw [State.restoredXfers, resumeXfers_eq]
  rfl

theorem structure_restoredXfers (s : State) (n : Nat) (k : KvDecl) : (s.restoredXfers n k).structure_ = s.structure_ := by
  rw [State.restoredXfers, resumeXfers_eq]
  exact structure_restored s n k

theorem restoredXfers_of_none (n : Nat) (k : KvDecl) (h : s.caravans = []) : s.restoredXfers n k = s.restored n k := by
  rw [State.restoredXfers, caravans_restored, h]
  rfl

/-- A step that waited for the restore starts, and one that waited for pages goes on. -/
def State.stepRestored (s : State) (n : Nat) (g : Graph) : Option StepRun → State
  | some r => if r.wait = StepWait.restore then s.startRun n g else if r.wait = StepWait.pages then s.goOn n false else s
  | none => s

section Command

variable {h : Word}

theorem doKvRestoreComplete_ignored (hno : s.kvOf h.toNat = none ∨ (s.strm h.toNat).kv.st ≠ .restore ∨
    (s.strm h.toNat).kv.need ≠ [] ∨ ∃ k, s.kvOf h.toNat = some k ∧ s.restoreOk h.toNat k = false) :
    doKvRestoreComplete h s = s := by
  unfold doKvRestoreComplete
  dsimp only
  split
  · rfl
  · next k hk =>
    refine if_pos ?_
    simpa [hk] using hno

theorem doKvRestoreComplete_restores {k : KvDecl} {g : Graph} (hk : s.kvOf h.toNat = some k)
    (hst : (s.strm h.toNat).kv.st = .restore) (hneed : (s.strm h.toNat).kv.need = []) (hok : s.restoreOk h.toNat k = true)
    (hg : s.graphOf (s.strm h.toNat).graph = some g) : doKvRestoreComplete h s =
      (((s.restoredXfers h.toNat k).stepRestored h.toNat g (s.strm h.toNat).step).runDue h.toNat).afterGone := by
  have hstrm := (strm_restoredXfers s h.toNat k h.toNat).trans (strm_restored_same s h.toNat k)
  have hstep : ((s.restoredXfers h.toNat k).strm h.toNat).step = (s.strm h.toNat).step := by rw [hstrm]
  have hgraph : (s.restoredXfers h.toNat k).graphOf ((s.restoredXfers h.toNat k).strm h.toNat).graph = some g := by
    rw [hstrm, State.graphOf, structure_restoredXfers]
    exact hg
  unfold doKvRestoreComplete
  dsimp only
  rw [hk]
  dsimp only
  rw [if_neg (by simp [hst, hneed, hok])]
  change (State.runDue (match ((s.restoredXfers h.toNat k).strm h.toNat).step,
    (s.restoredXfers h.toNat k).graphOf ((s.restoredXfers h.toNat k).strm h.toNat).graph with
    | some r, some g => _
    | _, _ => _) _).afterGone = _
  rw [hstep, hgraph]
  cases (s.strm h.toNat).step <;> rfl

/-- Where nothing else waits, the restore is the sequence's alone. -/
theorem State.calm.restoreComplete (hs : s.calm) {k : KvDecl} {g : Graph} (hk : s.kvOf h.toNat = some k)
    (hst : (s.strm h.toNat).kv.st = .restore) (hneed : (s.strm h.toNat).kv.need = []) (hok : s.restoreOk h.toNat k = true)
    (hg : s.graphOf (s.strm h.toNat).graph = some g) (hstep : (s.strm h.toNat).step = none) (hdue : (s.strm h.toNat).due = [])
    (hcar : s.caravans = []) : doKvRestoreComplete h s = (s.restored h.toNat k).showPreempting := by
  rw [doKvRestoreComplete_restores hk hst hneed hok hg, hstep, State.stepRestored, restoredXfers_of_none _ k hcar,
    runDue_of_none (by rw [strm_restored_same]; exact hdue), (hs.restored _ k).afterGone]

theorem pair_in_showPreempting (s : State) : s.showPreempting.pair Reg.KVC_SWAP_IN_LO = s.pair Reg.KVC_SWAP_IN_LO :=
  pair_congr (reg_showPreempting (by decide)) (reg_showPreempting (by decide))

end Command

end Sys2Proof.Machine
end

section
/-!
PROOFS. What other members of a sequence send (R254 to R256), and the low-water marks of the pools (R259).
-/

namespace Sys2Proof.Machine

variable {s : State}

theorem waitsMembers_of_step {n : Nat} {r : StepRun} (hstep : (s.strm n).step = some r) (hwait : r.wait = .members) :
    s.waitsMembers n = true := by
  rw [State.waitsMembers, hstep]
  simp [hwait]

/-- A sequence with a cache declaration has a graph. -/
theorem graphOf_of_kvOf {n : Nat} {k : KvDecl} (h : s.kvOf n = some k) : ∃ g, s.graphOf (s.strm n).graph = some g := by
  obtain ⟨g, hg, -⟩ := Option.bind_eq_some_iff.1 h
  exact ⟨g, hg⟩

/-! Ready records (R254). -/

/-- A node of member m joins the parts of the step in progress. -/
def State.nodeJoined (s : State) (n m : Nat) (r : StepRun) (p : AttnNode) : State :=
  let t := s.setRun n { r with parts := r.parts ++ [p] }
  t.setKv n { (t.strm n).kv with
    ready := if (t.strm n).kv.ready.contains m then (t.strm n).kv.ready else (t.strm n).kv.ready ++ [m] }

section Joined

variable (s) (n m : Nat) (r : StepRun) (p : AttnNode)

theorem ready_nodeJoined : m ∈ ((s.nodeJoined n m r p).strm n).kv.ready := by
  rw [State.nodeJoined, strm_setKv_same]
  dsimp only
  split
  · next hin => exact List.contains_iff_mem.1 hin
  · exact List.mem_append_right _ (List.mem_singleton.2 rfl)

theorem step_nodeJoined : ((s.nodeJoined n m r p).strm n).step = some { r with parts := r.parts ++ [p] } := by
  rw [State.nodeJoined, strm_setKv_same, strm_setRun, if_pos rfl]

theorem strm_nodeJoined_other {j : Nat} (h : j ≠ n) : (s.nodeJoined n m r p).strm j = s.strm j := by
  rw [State.nodeJoined, strm_setKv_other _ _ h, strm_setRun, if_neg h]

theorem nodeJoined_eq : s.nodeJoined n m r p = { s with streams := (s.nodeJoined n m r p).streams } := rfl

end Joined

theorem doReadyRecordArrival_ignored {h : Word} (hno : s.jobOf h.toNat = none ∨ s.waitsMembers h.toNat = false ∨
    ∃ j, s.jobOf h.toNat = some j ∧ 1 < j.e.qLen) (m first cnt : Nat) (data : List Byte) :
    doReadyRecordArrival h m first cnt data s = s := by
  unfold doReadyRecordArrival
  dsimp only
  split
  · rfl
  · next j hj =>
    refine if_pos ?_
    simpa [hj] using hno

theorem doReadyRecordArrival_joins {h : Word} {j : AttnJob} {r : StepRun} (hj : s.jobOf h.toNat = some j)
    (hstep : (s.strm h.toNat).step = some r) (hwait : r.wait = .members) (hq : j.e.qLen ≤ 1) (m first cnt : Nat)
    (data : List Byte) :
    doReadyRecordArrival h m first cnt data s = (s.nodeJoined h.toNat m r {
      first := first
      count := cnt
      kvh := 0
      heads := j.d.kvh
      parts := partsOf j.d.dv (j.e.qLen * j.d.heads) data }).goOn h.toNat false := by
  unfold doReadyRecordArrival
  dsimp only
  rw [hj]
  dsimp only
  rw [if_neg (by simp [waitsMembers_of_step hstep hwait, hq]), run_of_step hstep]
  rfl

/-! Ring blocks (R255). -/

/-- A block of a layer is kept for the step, and sent on unless the successor is its origin. -/
def State.ringKept (s : State) (n : Nat) (k : KvDecl) (layer block : Nat) (data : List Byte) : State :=
  s.setKv n { (s.strm n).kv with
    ringBlocks := (s.strm n).kv.ringBlocks ++ [(layer, block, data)]
    ringSent := if k.memberOf block = (s.meOf n k + 1) % k.span then (s.strm n).kv.ringSent
      else (s.strm n).kv.ringSent ++ [(layer, block)] }

theorem waitsMembers_setKv (s : State) (n : Nat) (v : KvSeq) : (s.setKv n v).waitsMembers n = s.waitsMembers n := by
  rw [State.waitsMembers, strm_setKv_same, State.waitsMembers]

theorem doRingBlockReceive_ignored {h : Word} {layer block : Nat} (hno : s.kvOf h.toNat = none ∨
    (s.strm h.toNat).step = none ∨ (s.strm h.toNat).kv.ringLost = true ∨
    (∃ k, s.kvOf h.toNat = some k ∧ (k.spread = false ∨ s.ownBlock h.toNat k block = true)) ∨
    (s.strm h.toNat).kv.ringBlocks.any (fun b => b.1 == layer && b.2.1 == block) = true) (data : List Byte) :
    doRingBlockReceive h layer block data s = s := by
  unfold doRingBlockReceive
  dsimp only
  split
  · rfl
  · next k hk =>
    refine if_pos ?_
    rcases hno with hnone | hstep | hlost | ⟨k', hk', hspread | hown⟩ | hany
    · exact nomatch hnone.symm.trans hk
    · exact .inr (.inl (by rw [hstep]; rfl))
    · exact .inr (.inr (.inr (.inl hlost)))
    · obtain rfl := Option.some.inj (hk.symm.trans hk')
      exact .inl (by rw [hspread]; rfl)
    · obtain rfl := Option.some.inj (hk.symm.trans hk')
      exact .inr (.inr (.inl hown))
    · exact .inr (.inr (.inr (.inr hany)))

theorem doRingBlockReceive_keeps {h : Word} {layer block : Nat} {k : KvDecl} (hk : s.kvOf h.toNat = some k)
    (hspread : k.spread = true) (hstep : (s.strm h.toNat).step.isSome = true) (hown : s.ownBlock h.toNat k block = false)
    (hlost : (s.strm h.toNat).kv.ringLost = false)
    (hnew : (s.strm h.toNat).kv.ringBlocks.any (fun b => b.1 == layer && b.2.1 == block) = false) (data : List Byte) :
    doRingBlockReceive h layer block data s = if s.waitsMembers h.toNat then
      (s.ringKept h.toNat k layer block data).goOn h.toNat false else s.ringKept h.toNat k layer block data := by
  have hgo : ¬ ((!k.spread) = true ∨ (s.strm h.toNat).step.isNone = true ∨ s.ownBlock h.toNat k block = true ∨
      (s.strm h.toNat).kv.ringLost = true ∨
      (s.strm h.toNat).kv.ringBlocks.any (fun b => b.1 == layer && b.2.1 == block) = true) := by
    rw [hspread, hown, hlost, hnew, Option.isNone_eq_false_iff.2 hstep]
    decide
  unfold doRingBlockReceive
  dsimp only
  rw [hk]
  dsimp only
  rw [if_neg hgo, waitsMembers_setKv]
  rfl

/-! The ring's timeout (R256). -/

/-- The timebase has come to the limit of a member's wait (log 13). -/
def State.ringLimit (s : State) (r : StepRun) : State :=
  s.reach (r.waitTb + 1000 * max 1 (s.fld Reg.KVC_RING_TIMEOUT 0 16))

/-- The member's timeout is counted. -/
def State.ringCounted (s : State) (r : StepRun) : State :=
  ((s.ringLimit r).count Reg.KVC_RING_TMO 1 Reg.KVC_INT_STATUS 4).raise Reg.KVC_INT_STATUS 2

/-- Its ring is lost, and the member forwards nothing more. -/
def State.ringLeft (s : State) (n : Nat) : State :=
  (s.setKv n { (s.strm n).kv with ring := false, ringLost := true }).showRing

/-- Its node ends with a status, and its step waits for nothing more. -/
def State.nodeEnded (s : State) (n code : Nat) : State := (s.fail n code).waitFor n .done

theorem nodeEnded_eq (s : State) (n code : Nat) : s.nodeEnded n code = { s with streams := (s.nodeEnded n code).streams } := rfl

theorem strm_nodeEnded {n : Nat} {r : StepRun} (h : (s.strm n).step = some r) (code : Nat) :
    (s.nodeEnded n code).strm n = { s.strm n with step := some { r with
      status := code :: r.status
      stop := true
      wait := .done } } := by
  have hfail : (s.fail n code).strm n = { s.strm n with step := some { r with status := code :: r.status, stop := true } } := by
    rw [State.fail, run_of_step h, strm_setRun, if_pos rfl]
  rw [State.nodeEnded, State.waitFor, run_of_step (by rw [hfail]), strm_setRun, if_pos rfl, hfail]
  rfl

theorem strm_nodeEnded_other (s : State) {n j : Nat} (code : Nat) (h : j ≠ n) : (s.nodeEnded n code).strm j = s.strm j := by
  rw [State.nodeEnded, State.waitFor, strm_setRun, if_neg h, State.fail, strm_setRun, if_neg h]

theorem reg_nodeEnded (s : State) (n code a : Nat) : (s.nodeEnded n code).reg a = s.reg a := reg_of_regs rfl a

theorem reg_ringLeft (s : State) (n : Nat) {a : Nat} (h : a ≠ Reg.KVC_STATUS) : (s.ringLeft n).reg a = s.reg a := by
  rw [State.ringLeft, State.showRing, reg_setBit_other _ _ _ h]
  exact reg_of_regs rfl a

theorem strm_ringLeft_same (s : State) (n : Nat) : (s.ringLeft n).strm n =
    { s.strm n with kv := { (s.strm n).kv with ring := false, ringLost := true } } := by
  rw [State.ringLeft, State.showRing, strm_setBit, strm_setKv_same]

theorem strm_ringLeft_other (s : State) {n j : Nat} (h : j ≠ n) : (s.ringLeft n).strm j = s.strm j := by
  rw [State.ringLeft, State.showRing, strm_setBit, strm_setKv_other _ _ h]

/-- The part after a ring's timeout. -/
def State.ringEnded (s : State) (n : Nat) (r : StepRun) : State := ((s.ringCounted r).ringLeft n).nodeEnded n 5

section Ended

variable (s) (n : Nat) (r : StepRun)

theorem reported_ringCounted : Reported (s.ringLimit r) (s.ringCounted r) :=
  (reported_count _ _ _ _ _).trans (reported_raise _ _ _)

theorem strm_ringCounted (j : Nat) : (s.ringCounted r).strm j = s.strm j := by
  have hlimit : (s.ringLimit r).streams = s.streams := rfl
  exact strm_of_streams (by rw [reported_ringCounted s r, hlimit]) j

theorem reg_ringEnded {a : Nat} (h : a ≠ Reg.KVC_STATUS) : (s.ringEnded n r).reg a = (s.ringCounted r).reg a := by
  rw [State.ringEnded, reg_nodeEnded, reg_ringLeft _ n h]

theorem rn_ringEnded : (s.ringEnded n r).rn Reg.KVC_RING_TMO = min (s.rn Reg.KVC_RING_TMO + 1) 0xFFFFFFFF := by
  have hlimit : ∀ a, (s.ringLimit r).reg a = s.reg a := reg_of_regs rfl
  rw [rn_congr (reg_ringEnded s n r (by decide)), State.ringCounted, rn_congr (reg_raise_other _ _ (by decide)),
    (count_spec _ _ 1 _ 4 (by decide) (by decide)).1, rn_congr (hlimit _)]

theorem rbit_ringEnded : (s.ringEnded n r).rbit Reg.KVC_INT_STATUS 2 = true := by
  rw [rbit_congr (reg_ringEnded s n r (by decide))]
  exact (raise_spec _ _ 2 (by decide)).1

theorem strm_ringEnded_other {j : Nat} (h : j ≠ n) : (s.ringEnded n r).strm j = s.strm j := by
  rw [State.ringEnded, strm_nodeEnded_other _ _ h, strm_ringLeft_other _ h, strm_ringCounted]

theorem mem_ringEnded : (s.ringEnded n r).mem = s.mem := by
  have hlimit : (s.ringLimit r).mem = s.mem := rfl
  rw [State.ringEnded, nodeEnded_eq, State.ringLeft, State.showRing, State.setBit_mem, mem_setKv, reported_ringCounted s r,
    hlimit]

theorem tb_ringEnded : (s.ringEnded n r).tb = (s.ringLimit r).tb := by
  have hkv : ∀ (t : State) (v : KvSeq), (t.setKv n v).tb = t.tb := fun _ _ => rfl
  rw [State.ringEnded, nodeEnded_eq, State.ringLeft, State.showRing, State.setBit_tb, hkv, reported_ringCounted s r]

end Ended

/-- The step's node ends UNREACHABLE. -/
theorem strm_ringEnded {n : Nat} {r : StepRun} (h : (s.strm n).step = some r) : (s.ringEnded n r).strm n = { s.strm n with
    kv := { (s.strm n).kv with
      ring := false
      ringLost := true }
    step := some { r with
      status := 5 :: r.status
      stop := true
      wait := .done } } := by
  have hleft : ((s.ringCounted r).ringLeft n).strm n =
      { s.strm n with kv := { (s.strm n).kv with ring := false, ringLost := true } } := by
    rw [strm_ringLeft_same, strm_ringCounted]
  rw [State.ringEnded, strm_nodeEnded (by rw [hleft]; exact h), hleft]

theorem doRingTimeout_ignored {h : Word} (hno : s.waitsMembers h.toNat = false ∨ (s.strm h.toNat).kv.ring = false) :
    doRingTimeout h s = s := by
  rw [doRingTimeout]
  refine if_pos ?_
  simpa using hno

theorem doRingTimeout_ends {h : Word} {r : StepRun} (hstep : (s.strm h.toNat).step = some r) (hwait : r.wait = .members)
    (hring : (s.strm h.toNat).kv.ring = true) : doRingTimeout h s = s.ringEnded h.toNat r := by
  unfold doRingTimeout
  dsimp only
  rw [if_neg (by simp [waitsMembers_of_step hstep hwait, hring]), run_of_step hstep]
  rfl

end Sys2Proof.Machine
end

section
/-!
PROOFS. The obligation on pages swapped and restored and on what members send (O43).
-/

namespace Sys2Proof.Proofs
open Sys2Proof Sys2Proof.Machine

section Running

variable {s : State} (hrun : s.halted = false) (h : Word)
include hrun

theorem exec_swapPageWriteDone (e : Nat) (ok : Bool) :
    exec (.swapPageWriteDone h e ok) s = .next (doSwapPageWriteDone h e ok s) := exec_of_running hrun rfl

theorem exec_kvRestoreComplete : exec (.kvRestoreComplete h) s = .next (doKvRestoreComplete h s) := exec_of_running hrun rfl

theorem exec_readyRecordArrival (m first cnt : Nat) (data : List Byte) :
    exec (.readyRecordArrival h m first cnt data) s = .next (doReadyRecordArrival h m first cnt data s) :=
  exec_of_running hrun rfl

theorem exec_ringBlockReceive (layer block : Nat) (data : List Byte) :
    exec (.ringBlockReceive h layer block data) s = .next (doRingBlockReceive h layer block data s) :=
  exec_of_running hrun rfl

theorem exec_ringTimeout : exec (.ringTimeout h) s = .next (doRingTimeout h s) := exec_of_running hrun rfl

end Running

/-- Settles O43: each command by the cases of its meaning; a swap and a restore are work on pages, which leaves the streams,
and nothing follows them where nothing waits. -/
theorem pagesAreSwappedAndRestored : Obligations.PagesAreSwappedAndRestored := by
  unfold Obligations.PagesAreSwappedAndRestored
  refine ⟨fun s h n x hrun hn hx => ?_, fun s d i v hrun => ?_⟩
  · subst hn hx
    refine ⟨fun e ok hno => ?_, fun e l k hq hk => ⟨fun ok hs => ?_, fun hs hhost => ?_, fun u hs hhost hu => ?_,
      fun ok hs hno => ?_⟩, fun l => ?_, fun e l k u hq hk hs hhost hu hcalm hdue hcalm' hdue' => ?_,
      fun e l k hq hk hs hcalm hdue => ?_, fun hno => ?_, fun k b w v hk hst hneed hok hb hw hv => ?_,
      fun k hk hst hneed hok hstep hdue hcalm hcar => ?_, fun m first cnt data hno => ?_,
      fun m first cnt data j r hj hstep hwait hq => ?_, fun layer block data hno => ?_,
      fun layer block data k hk hspread hstep hown hlost hnew => ?_, fun hno => ?_, fun r hstep hwait hring => ?_⟩
    -- SWAP_PAGE_WRITE_DONE (R249 to R251).
    · rw [exec_swapPageWriteDone hrun, doSwapPageWriteDone_ignored hno]
    · rw [exec_swapPageWriteDone hrun, doSwapPageWriteDone_stays hq hk hs]
    · refine ⟨96 + s.free.1.toNat % 8, by omega, by omega, ?_⟩
      rw [exec_swapPageWriteDone hrun, doSwapPageWriteDone_waits hq hk hs hhost]
    · obtain ⟨hcount, hout, hothers, hentry⟩ := swapPage_spec hu
      refine ⟨?_, hcount, hout, hothers, hentry⟩
      rw [exec_swapPageWriteDone hrun, doSwapPageWriteDone_goes hq hk hs hhost hu]
    · refine ⟨s.swapFailed, _, rfl, ?_, rn_swapFailed s, rbit_swapFailed s, streams_swapFailed s, mem_swapFailed s⟩
      rw [exec_swapPageWriteDone hrun, doSwapPageWriteDone_cut hq hk hs hno]
      rfl
    · refine ⟨s.setKv h.toNat { (s.strm h.toNat).kv with swapOut := l }, _, strm_setKv_same s _ _,
        fun j hj => strm_setKv_other s _ hj, rfl, rfl, ?_⟩
      split
      · next hl => rw [hl, swapNext_nil]; rfl
      · next hl => exact swapNext_cons s _ hl
    · rw [exec_swapPageWriteDone hrun, doSwapPageWriteDone_goes hq hk hs hhost hu]
      exact ⟨_, rfl, hcalm'.swapNext hdue' l⟩
    · rw [exec_swapPageWriteDone hrun, doSwapPageWriteDone_cut hq hk hs (.inl rfl)]
      exact ⟨_, rfl, hcalm.swapCut hdue⟩
    -- KV_RESTORE_COMPLETE (R252).
    · rw [exec_kvRestoreComplete hrun, doKvRestoreComplete_ignored hno]
    · obtain rfl : w = s.restored h.toNat k := by rw [hw, hb]; rfl
      obtain rfl : v = s.restoredXfers h.toNat k := hv
      have hstrm := strm_restored_same s h.toNat k
      refine ⟨fun g hg => ?_, by rw [hstrm], by rw [hstrm], by rw [hstrm], fun j hj => strm_restored_other s k hj,
        caravans_restored s _ k⟩
      rw [exec_kvRestoreComplete hrun, doKvRestoreComplete_restores hk hst hneed hok hg]
      cases (s.strm h.toNat).step <;> rfl
    · obtain ⟨g, hg⟩ := graphOf_of_kvOf hk
      have hstrm := (strm_showPreempting _ _).trans (strm_restored_same s h.toNat k)
      rw [exec_kvRestoreComplete hrun, hcalm.restoreComplete hk hst hneed hok hg hstep hdue hcar]
      refine ⟨_, rfl, by rw [hstrm], by rw [hstrm], by rw [hstrm], fun j hj => ?_, fun hnil => ?_, fun i f hone hkind => ?_⟩
      · rw [strm_showPreempting, strm_restored_other s k hj]
      · rw [pair_in_showPreempting, pair_in_restored_nil s k hnil]
      · rw [pair_in_showPreempting, pair_in_restored_one hone hkind hok]
    -- What members send (R254 to R256).
    · rw [exec_readyRecordArrival hrun, doReadyRecordArrival_ignored hno]
    · rw [exec_readyRecordArrival hrun, doReadyRecordArrival_joins hj hstep hwait hq]
      exact ⟨_, rfl, ready_nodeJoined s _ m r _, step_nodeJoined s _ m r _, fun k hk => strm_nodeJoined_other s _ m r _ hk,
        nodeJoined_eq s _ m r _⟩
    · rw [exec_ringBlockReceive hrun, doRingBlockReceive_ignored hno]
    · rw [exec_ringBlockReceive hrun, doRingBlockReceive_keeps hk hspread hstep hown hlost hnew]
      exact ⟨s.ringKept h.toNat k layer block data, rfl, strm_setKv_same s _ _, fun j hj => strm_setKv_other s _ hj, rfl⟩
    · rw [exec_ringTimeout hrun, doRingTimeout_ignored hno]
    · rw [exec_ringTimeout hrun, doRingTimeout_ends hstep hwait hring]
      exact ⟨_, rfl, rn_ringEnded s _ r, rbit_ringEnded s _ r, strm_ringEnded hstep, fun j hj => strm_ringEnded_other s _ r hj,
        mem_ringEnded s _ r, tb_ringEnded s _ r⟩
  · exact ⟨_, exec_of_running (f := fun t => t.setN (Reg.KVP_LOWi d i) (t.kvpFree d i)) hrun rfl, reg_setReg_same s _ _,
      onlyRegs_setReg s _ _⟩

end Sys2Proof.Proofs
end

section
/-!
PROOFS. The obligation on feeds, marks, pauses and resumes (O39): its clause on commands that wait, for a STREAM_EXPORT of a
stream that was paused at a yield of its step.
-/

namespace Sys2Proof.Proofs
open Sys2Proof Sys2Proof.Machine

/-- STREAM_EXPORT of stream 1 to 0x8000 with 512 bytes of room. -/
def parcelCmd : BitVec 512 := BitVec.ofNat 512 (0x06 + 2 ^ 32 + 0x8000 * 2 ^ 64 + 512 * 2 ^ 128)

/-- Stream 1, on cluster 0, was paused at a yield of its step, of which nothing lies saved any more. -/
def pausedAtYield : State := { State.reset with
  streams := [(1, { st := .paused, cluster := some 0, step := some { yielded := true } })] }

/-- The part after the command. -/
def parcelWaiting : State := pausedAtYield.command 0x06 0 0 parcelCmd (fun u => u.named 0 0 parcelCmd)

theorem turn_pausedAtYield : pausedAtYield.turn 0 0 parcelCmd 0x06 := by
  simp only [State.turn]
  decide +kernel

/-- The step goes on. -/
theorem step_parcelWaiting : (parcelWaiting.strm 1).step = some {} := by decide +kernel

/-- Refutes O39: STREAM_EXPORT of a stream that was paused at a yield of its step waits on the stream, and lets that step go
on (R278: a yielded step is first resumed and completed), so that it does more than wait. -/
theorem not_streamsAreFedMarkedAndPaused : ¬ Obligations.StreamsAreFedMarkedAndPaused := by
  rintro ⟨hnamed, -⟩
  obtain ⟨-, hwaits, -⟩ := hnamed pausedAtYield 0 0 parcelCmd 0x06 (.streamExport 0 0 parcelCmd) (by simp)
    turn_pausedAtYield
  obtain ⟨u, hexec, hstrm, -⟩ := hwaits 1 (by decide +kernel) (by decide) (.inr (by decide +kernel))
  have hrun : exec (.streamExport 0 0 parcelCmd) pausedAtYield = .next parcelWaiting :=
    exec_of_running (f := fun t => t.command 0x06 0 0 parcelCmd (fun u => u.named 0 0 parcelCmd)) rfl rfl
  obtain rfl : parcelWaiting = u := Host.Outcome.next.inj (hrun.symm.trans hexec)
  have hstep := step_parcelWaiting
  rw [hstrm] at hstep
  exact absurd hstep (by decide +kernel)

end Sys2Proof.Proofs
end

section
/-!
PROOFS. What the end of a command, the look at a stream without chunks and the asking of streams that are neither swapped out
nor paused leave: the registers of the dies, and every stream's state, queue and sink (R267, R275, R355, R380).
-/

namespace Sys2Proof.Machine

variable {s : State}

/-- The address lies in the dies' windows of BAR0 (R9). -/
def DieReg (a : Nat) : Prop := 0x1000000 ≤ a ∧ a < 0x100000000

/-- No register of a die differs, and every stream has the state, the queue and the sink that it had. -/
structure Stands (s t : State) : Prop where
  reg : ∀ a, DieReg a → t.reg a = s.reg a
  st : ∀ k, (t.strm k).st = (s.strm k).st
  queue : ∀ k, (t.strm k).queue = (s.strm k).queue
  sink : ∀ k, (t.strm k).sink = (s.strm k).sink

theorem Stands.refl (s : State) : Stands s s := ⟨fun _ _ => rfl, fun _ => rfl, fun _ => rfl, fun _ => rfl⟩

theorem Stands.trans {t u : State} (h1 : Stands s t) (h2 : Stands t u) : Stands s u where
  reg a ha := (h2.reg a ha).trans (h1.reg a ha)
  st k := (h2.st k).trans (h1.st k)
  queue k := (h2.queue k).trans (h1.queue k)
  sink k := (h2.sink k).trans (h1.sink k)

theorem stands_of_streams {t : State} (hstreams : t.streams = s.streams) (hreg : ∀ a, DieReg a → t.reg a = s.reg a) :
    Stands s t where
  reg := hreg
  st k := by rw [strm_of_streams hstreams]
  queue k := by rw [strm_of_streams hstreams]
  sink k := by rw [strm_of_streams hstreams]

theorem stands_of_same {t : State} (hregs : t.regs = s.regs) (hstreams : t.streams = s.streams) : Stands s t :=
  stands_of_streams hstreams fun a _ => reg_of_regs hregs a

theorem stands_setN {a : Nat} (ha : ¬ DieReg a) (v : Nat) : Stands s (s.setN a v) :=
  stands_of_streams rfl fun _ hb => reg_setReg_other s _ fun h => ha (h ▸ hb)

theorem stands_raise {a : Nat} (ha : ¬ DieReg a) (i : Nat) : Stands s (s.raise a i) :=
  stands_of_streams (by rw [reported_raise s a i]) fun _ hb => reg_raise_other s i fun h => ha (h ▸ hb)

theorem stands_count {a st : Nat} (ha : ¬ DieReg a) (hst : ¬ DieReg st) (n bit : Nat) : Stands s (s.count a n st bit) := by
  unfold State.count
  dsimp only
  split
  · exact (stands_setN ha _).trans (stands_raise hst bit)
  · exact stands_setN ha _

theorem stands_setStrm {h : Nat} {x : Stream} (hst : x.st = (s.strm h).st) (hq : x.queue = (s.strm h).queue)
    (hsink : x.sink = (s.strm h).sink) : Stands s (s.setStrm h x) := by
  have hstrm : ∀ k, (s.setStrm h x).strm k = x ∧ k = h ∨ (s.setStrm h x).strm k = s.strm k := fun k => by
    rw [strm_setStrm]
    split
    · next hk => exact .inl ⟨rfl, hk⟩
    · exact .inr rfl
  refine ⟨fun _ _ => rfl, fun k => ?_, fun k => ?_, fun k => ?_⟩ <;>
    rcases hstrm k with ⟨heq, hk⟩ | heq <;> rw [heq]
  · rw [hst, hk]
  · rw [hq, hk]
  · rw [hsink, hk]

/-! The registers that these operations change lie outside the dies. -/

theorem not_dieReg_low {a : Nat} (h : a < 0x1000000) : ¬ DieReg a := fun ha => by
  obtain ⟨hlo, -⟩ := ha
  omega

theorem not_dieReg_bar2 (f k : Nat) : ¬ DieReg (bar2Base f + k) := fun ha => by
  obtain ⟨-, hhi⟩ := ha
  unfold bar2Base at hhi
  omega

/-! The end of a command (R380, R384). -/

theorem stands_raiseFnVector (f i : Nat) : Stands s (s.raiseFnVector f i) := by
  unfold State.raiseFnVector
  split
  · refine stands_of_same ?_ ?_ <;> rw [raiseVector_eq]
  · exact .refl s

theorem stands_cqSignal (f q : Nat) : Stands s (s.cqSignal f q) := by
  have hstate : ∀ x, Stands s (s.setCqState f q x) := fun _ => stands_of_same rfl rfl
  unfold State.cqSignal
  dsimp only
  split
  · exact (hstate _).trans (stands_raiseFnVector _ _)
  · exact hstate _

theorem stands_cqStatus (f q v : Nat) : Stands s (s.setN (Reg.HQ_CQq_STATUS f q) v) := by
  refine stands_setN ?_ v
  rw [Reg.HQ_CQq_STATUS, Nat.add_assoc]
  exact not_dieReg_bar2 f _

theorem stands_cqWrite (f q : Nat) (e : CplEntry) : Stands s (s.cqWrite f q e) := by
  have hstored : ∀ (a : Nat) (l : List Byte), Stands s (s.setBytes a l) := fun a l => by
    refine stands_of_same ?_ ?_ <;> rw [setBytes_eq]
  unfold State.cqWrite
  dsimp only
  split
  · exact (stands_cqStatus f q _).trans (stands_setN (not_dieReg_bar2 f _) _)
  · refine (Stands.trans ?_ (stands_cqStatus f q _)).trans (stands_cqSignal f q)
    split
    · exact ((hstored _ _).trans (stands_cqStatus f q _)).trans (stands_cqStatus f q _)
    · exact (hstored _ _).trans (stands_cqStatus f q _)

theorem stands_post (f q : Nat) (e : CplEntry) : Stands s (s.post f q e) := by
  unfold State.post
  split
  · exact .refl s
  · split
    · split
      · refine stands_count ?_ (not_dieReg_low (by decide)) 1 3
        rw [Reg.HQ_CQq_EVT_DROP, Nat.add_assoc]
        exact not_dieReg_bar2 f _
      · exact stands_of_same rfl rfl
    · exact stands_cqWrite f q e

theorem stands_endCmd (f : Fin 64) (q : Nat) (d : BitVec 512) (st res : Nat) : Stands s (s.endCmd f q d st res) := by
  have hint : ¬ DieReg Reg.HQ_INT_STATUS := not_dieReg_low (by decide)
  have hcmds : ¬ DieReg (Reg.HQ_FNf_CMDS f) := not_dieReg_low (by unfold Reg.HQ_FNf_CMDS; omega)
  have hrej : ¬ DieReg (Reg.HQ_FNf_REJ f) := not_dieReg_low (by unfold Reg.HQ_FNf_REJ; omega)
  have hdone : Stands s ({ s with host := { s.host with fetched := dropDone f q d s.host.fetched } } : State) :=
    stands_of_same rfl rfl
  have hcounted : ∀ t : State, Stands t (if st = 8 then t.count (Reg.HQ_FNf_REJ f) 1 Reg.HQ_INT_STATUS 3 else t) :=
      fun t => by
    split
    · exact stands_count hrej hint 1 3
    · exact .refl t
  unfold State.endCmd
  dsimp only
  split
  · exact (hdone.trans (stands_count hcmds hint 1 3)).trans (hcounted _)
  · exact ((hdone.trans (stands_count hcmds hint 1 3)).trans (hcounted _)).trans (stands_post _ _ _)

/-! The look at a stream without chunks (R267, R355). -/

theorem stands_fixTick (h : Nat) : Stands s (s.fixTick h) := by
  rcases fixTick_cases s h with heq | ⟨g, -, -, heq⟩
  · rw [heq]
    exact .refl s
  · rw [heq]
    exact stands_setStrm rfl rfl rfl

theorem stands_checkStarve (h : Nat) : Stands s (s.checkStarve h) := by
  have hint : ¬ DieReg Reg.STRM_INT_STATUS := not_dieReg_low (by decide)
  have hcount : ∀ t : State, Stands t (t.strmCount Reg.STRM_STARVE 1) := fun t =>
    stands_count (not_dieReg_low (by decide)) hint 1 4
  have hstarved : Stands s (s.modStrm h fun y => { y with starved := true }) := stands_setStrm rfl rfl rfl
  unfold State.checkStarve
  dsimp only
  split
  · exact .refl s
  · exact (hstarved.trans (hcount _)).trans (stands_raise hint 0)

theorem stands_wakeRegion (j : Nat) : Stands s (s.wakeRegion j) := by
  have hjoin : ∀ x, Stands s ({ s with place := x } : State) := fun _ => stands_of_same rfl rfl
  have hcount : ∀ t : State, Stands t (t.count Reg.PLC_WAKE 1 Reg.PLC_INT_STATUS 5) := fun _ =>
    stands_count (not_dieReg_low (by decide)) (not_dieReg_low (by decide)) 1 5
  have hshow : ∀ t : State, Stands t t.showWaking := fun _ => stands_setN (not_dieReg_low (by decide)) _
  have hbusy : ∀ (t : State) (d : Nat), Stands t (t.dieBusy d) := fun _ _ => stands_of_same rfl rfl
  unfold State.wakeRegion
  split
  · exact .refl s
  · exact (((hjoin _).trans (hcount _)).trans (hshow _)).trans (hbusy _ _)

theorem stands_offerItem (h : Nat) : Stands s (s.offerItem h) := by
  have hint : ¬ DieReg Reg.PLC_INT_STATUS := not_dieReg_low (by decide)
  have hjoin : ∀ i : Item, Stands s ({ s with place := { s.place with items := s.place.items ++ [i] } } : State) :=
    fun _ => stands_of_same rfl rfl
  have hurgent : ∀ (i : Item) (t : State), Stands t
      (if i.urgent then (t.count Reg.PLC_URGENT 1 Reg.PLC_INT_STATUS 5).raise Reg.PLC_INT_STATUS 2 else t) := fun i t => by
    split
    · exact (stands_count (not_dieReg_low (by decide)) hint 1 5).trans (stands_raise hint 2)
    · exact .refl t
  have hwake : ∀ (cl : Nat) (t : State), Stands t (if t.awake cl then t else t.wakeRegion (clRegion16 cl)) := fun cl t => by
    split
    · exact .refl t
    · exact stands_wakeRegion _
  unfold State.offerItem
  dsimp only
  split
  · split
    · exact .refl s
    · exact ((hjoin _).trans (hurgent _ _)).trans (hwake _ _)
  · exact .refl s

theorem stands_lookAt {h : Nat} (hq : (s.strm h).queue = []) : Stands s (s.lookAt h) := by
  have heat : s.eatEnd h = s := by rw [State.eatEnd, hq]; rfl
  unfold State.lookAt
  dsimp only
  rw [heat]
  split
  · exact .refl s
  · exact ((stands_fixTick h).trans (stands_checkStarve h)).trans (stands_offerItem h)

/-! Who asks to be restored (R275). -/

theorem restoreOne_of_standing {h : Nat} (hst : (s.strm h).st ≠ .swapped ∧ (s.strm h).st ≠ .paused) :
    s.restoreOne h = s := by
  obtain ⟨hswapped, hpaused⟩ := hst
  unfold State.restoreOne
  dsimp only
  rw [if_pos]
  simp [hswapped, hpaused]

theorem stands_askers (n : Nat) (hst : ∀ k, (s.strm k).st ≠ .swapped ∧ (s.strm k).st ≠ .paused) :
    Stands s (askers n s) := by
  induction n generalizing s with
  | zero => exact .refl s
  | succ n ih =>
    rw [askers]
    split
    · exact .refl s
    · next e _ =>
      have hask : Stands s (s.modStrm e.1 fun x => { x with asks := false }) := stands_setStrm rfl rfl rfl
      have hst' : ∀ k, ((s.modStrm e.1 fun x => { x with asks := false }).strm k).st ≠ .swapped ∧
          ((s.modStrm e.1 fun x => { x with asks := false }).strm k).st ≠ .paused := fun k => by
        rw [hask.st k]
        exact hst k
      rw [restoreOne_of_standing (hst' e.1)]
      exact hask.trans (ih hst')

/-- Where no stream is SWAPPED or PAUSED, the completion of an open, the look at its stream and the asking leave all this. -/
theorem stands_opened {h : Nat} (hq : (s.strm h).queue = [])
    (hst : ∀ k, (s.strm k).st ≠ .swapped ∧ (s.strm k).st ≠ .paused) (f : Fin 64) (q : Nat) (d : BitVec 512) (res : Nat) :
    Stands s (((s.endCmd f q d 0 res).lookAt h).asked) := by
  have hend : Stands s (s.endCmd f q d 0 res) := stands_endCmd f q d 0 res
  have hlook := hend.trans (stands_lookAt ((hend.queue h).trans hq))
  exact hlook.trans (stands_askers _ fun k => by rw [hlook.st k]; exact hst k)

end Sys2Proof.Machine
end

section
/-!
PROOFS. The loading of a weight that meets an uncorrectable granule (R168, R169, R273), and STREAM_OPEN that a cluster takes
at once (R263, R357).
-/

namespace Sys2Proof.Machine

variable {s : State}

/-! Weights of a graph in a cluster's store. -/

theorem pair_high {p a : Nat} (h : s.pair a = p) : s.rn (a + 4) = p / 2 ^ 32 := by
  have hlow := rn_lt s a
  unfold State.pair at h
  omega

/-- A store of whole granules reads none of them, and changes no register. -/
theorem reg_writeData_whole {p : Nat} {l : List Byte} (hp : p % 64 = 0) (hl : (p + l.length) % 64 = 0) (loc a : Nat) :
    (s.writeData loc p l).reg a = s.reg a := by
  unfold State.writeData
  split
  · rfl
  · split
    · rfl
    · dsimp only
      rw [if_neg (by omega : ¬ p % 64 ≠ 0), if_neg (by omega), reg_of_regs (renewed_freshCells _ _ _).regs, reg_setBytes]

/-- A weight of one uncorrectable granule: the copy of it changes the registers as the read of the granule does (R168). -/
theorem reg_copyWeight {cl a d : Nat} {w : Weight} {x : StoredWeight} (hsize : w.ref.size = 64)
    (hpieces : s.weightPieces w.addr 0 64 = [(a, 64)]) (hd : placeOf a = .dram d) (halign : a % 64 = 0)
    (hbad : s.granBad a = true) (hofs : x.ofs % 64 = 0) (b : Nat) :
    (s.copyWeight cl w x).reg b = ((s.detectDram a false).bump64 (Reg.DMEM_UE_READ_LO d) 1).reg b := by
  obtain ⟨hone, hlow⟩ := granule_dram halign hd
  have hread := readData_granule halign hone hlow (List.length_replicate ..) (readGran_bad hd hbad (s.clLoc cl 5 0))
  have hst : (s.readRuns (s.clLoc cl 5 0) [(a, 64)]).st = (s.detectDram a false).bump64 (Reg.DMEM_UE_READ_LO d) 1 := by
    rw [State.readRuns, hread, State.readRuns]
  have hlen : (s.readRuns (s.clLoc cl 5 0) [(a, 64)]).bytes.length = 64 := by
    rw [State.readRuns, hread, State.readRuns, List.length_append, List.length_replicate, List.length_nil]
  have hwhole : (clusterStore cl + x.ofs) % 64 = 0 := by unfold clusterStore; omega
  unfold State.copyWeight
  dsimp only
  rw [hsize, hpieces, ← hst]
  exact (reg_of_regs (State.setCl_regs _ cl _) b).trans (reg_writeData_whole hwhole (by rw [hlen]; omega) (s.clLoc cl 5 0) b)

/-- A weight whose one granule is first found uncorrectable as it is loaded into a cluster's store shows its address in the
LAST_UE registers of its die (R168, R169). -/
theorem lastUe_loadWeight {cl i d a : Nat} {w : Weight} (hw : s.weight i = some w) (hpresent : w.present = true)
    (hsize : w.ref.size = 64) (hpieces : s.weightPieces w.addr 0 64 = [(a, 64)]) (hnew : (s.cl cl).loaded = [])
    (hd : placeOf a = .dram d) (halign : a % 64 = 0) (hseen : s.granSeen a = true)
    (hlisted : s.listed a = false) :
    (State.loadWeight cl s i).pair (Reg.DMEM_LAST_UE_LO d) = a := by
  obtain ⟨-, hlast, -⟩ := counts_detectDram hd hlisted false
  have hbad : s.granBad a = true := by simp [State.granBad, hseen]
  have hstored : s.stored cl i = none := by simp [State.stored, hnew]
  have hrun : lowestRun [] 131072 1 = some 0 := by decide
  have hload : State.loadWeight cl s i = s.copyWeight cl w { id := i, units := 1, above := 0 } := by
    unfold State.loadWeight
    simp only [hw, hstored, hpresent, hsize, hnew, List.map_nil, if_true, Nat.reduceAdd, Nat.reduceDiv, hrun]
  have hreg := reg_copyWeight (cl := cl) (x := { id := i, units := 1, above := 0 }) hsize hpieces hd halign hbad
    (by simp [StoredWeight.ofs])
  have hapart : Reg.DMEM_UE_READ_LO d + 4 < Reg.DMEM_LAST_UE_LO d := by
    unfold Reg.DMEM_UE_READ_LO Reg.DMEM_LAST_UE_LO
    omega
  rw [hload, pair_congr (hreg _) (hreg _), pair_congr (reg_bump64_other _ _ (by omega) (by omega))
    (reg_bump64_other _ _ (by omega) (by omega)), hlast]

theorem streams_copyWeight (cl : Nat) (w : Weight) (x : StoredWeight) : (s.copyWeight cl w x).streams = s.streams := by
  have hruns : ∀ (loc : Nat) (l : List (Nat × Nat)) (t : State), (t.readRuns loc l).st.streams = t.streams := fun loc l => by
    induction l with
    | nil => exact fun _ => rfl
    | cons p l ih => exact fun t => (ih _).trans (stored_readData t loc p.1 p.2).streams
  exact (stored_writeData _ _ _ _).streams.trans (hruns _ _ s)

theorem streams_loadWeights (cl : Nat) (g : Graph) : (s.loadWeights cl g).streams = s.streams := by
  have hone : ∀ (t : State) (i : Nat), (State.loadWeight cl t i).streams = t.streams := fun t i => by
    unfold State.loadWeight
    split
    · dsimp only
      split
      · exact streams_copyWeight ..
      · rfl
    · rfl
  unfold State.loadWeights
  induction g.storeIds generalizing s with
  | nil => rfl
  | cons i l ih => exact (ih (s := State.loadWeight cl s i)).trans (hone s i)

/-- A graph whose nodes are no kernels takes nothing of its cluster beside its weights. -/
theorem placeNodes_of_noKernel {l : List NodeRec} (hl : ∀ n ∈ l, ∀ x, n.node ≠ .kernel x) (cl h i : Nat) :
    placeNodes cl h s i l = s := by
  induction l generalizing i with
  | nil => rfl
  | cons n t ih =>
    obtain ⟨hn, ht⟩ := List.forall_mem_cons.1 hl
    rw [placeNodes]
    split
    · next x hx => exact absurd hx (hn x)
    · exact ih ht (i + 1)

/-! Opens. -/

/-- The command has its turn: it starts and acts. -/
theorem command_of_turn {fn sq op : Nat} {d : BitVec 512} (h : s.turn fn sq d op) (go : State → State) :
    s.command op fn sq d go = go (s.startCmd fn sq d) := by
  obtain ⟨-, hop, hstart, hok⟩ := h
  have hfmt : descOk ((s.startCmd fn sq d).fmt1 fn sq) d = true := hok
  unfold State.command
  rw [if_neg (by simp [hop, hstart])]
  exact if_pos hfmt

/-- A request that a cluster takes at once changes nothing before it is placed. -/
theorem decide_of_on {r : Request} {cl : Nat} (h : (s.decide_ r).1 = .on cl) : s.decide_ r = (.on cl, s) := by
  revert h
  unfold State.decide_
  split
  · rintro ⟨⟩
    rfl
  · dsimp only
    split
    · rintro ⟨⟩
    · split <;> rintro ⟨⟩

/-- The stream of a request as it takes its place under a new handle. -/
def State.seated (s : State) (p : PendAdmit) : State := s.newId.2.nextOrder.2.setStrm s.newId.1 { p.strm with
  cluster := some p.cluster
  order := s.newId.2.nextOrder.1
  opened := s.tb
  resv := if p.strm.kv.st = .none then 0 else p.strm.pages
  kv := { p.strm.kv with home := clDie p.cluster } }

theorem strm_seated_same (s : State) (p : PendAdmit) : (s.seated p).strm s.newId.1 = { p.strm with
    cluster := some p.cluster
    order := s.newId.2.nextOrder.1
    opened := s.tb
    resv := if p.strm.kv.st = .none then 0 else p.strm.pages
    kv := { p.strm.kv with home := clDie p.cluster } } := by
  rw [State.seated, strm_setStrm, if_pos rfl]

theorem strm_seated_other (s : State) (p : PendAdmit) {k : Nat} (hk : k ≠ s.newId.1) : (s.seated p).strm k = s.strm k := by
  rw [State.seated, strm_setStrm, if_neg hk]
  rfl

/-- A stream without source, cache and kernels lands with its graph's weights loaded. -/
theorem landOpen_plain {p : PendAdmit} {g : Graph} (hg : s.graphOf p.strm.graph = some g) (hsource : p.strm.source = none)
    (hkv : p.strm.kv.st = .none) (hnodes : ∀ n ∈ g.nodes, ∀ x, n.node ≠ .kernel x) :
    s.landOpen p = (s.newId.1, ((s.seated p).loadWeights p.cluster g).countAdmit) := by
  have hland : s.landOpen p = (s.newId.1, (((s.seated p).clearList s.newId.1).placeObjs s.newId.1).countAdmit) := by
    simp only [State.landOpen, hsource, State.seated]
  have hclear : (s.seated p).clearList s.newId.1 = s.seated p := by
    unfold State.clearList
    dsimp only
    rw [strm_seated_same]
    exact if_pos hkv
  have hgraph : (s.seated p).graphOf ((s.seated p).strm s.newId.1).graph = some g := by
    rw [strm_seated_same]
    exact hg
  have hcluster : ((s.seated p).strm s.newId.1).cluster = some p.cluster := by rw [strm_seated_same]
  rw [hland, hclear, State.placeObjs, hgraph, hcluster]
  dsimp only
  rw [placeNodes_of_noKernel hnodes]

/-- A stream without a sink binds nothing. -/
theorem bindSink_of_none {h : Nat} (hsink : (s.strm h).sink = .none) : s.bindSink h = s := by
  rw [State.bindSink, hsink]

/-- The open of such a stream, without a sink: from the loading of the weights to its completion nothing differs in the dies'
registers. -/
theorem finishOpen_plain {p : PendAdmit} {g : Graph} (hp : s.graphOf p.graph = some g) (hg : s.graphOf p.strm.graph = some g)
    (hsink : p.strm.sink = .none) (hsource : p.strm.source = none) (hkv : p.strm.kv.st = .none)
    (hnodes : ∀ n ∈ g.nodes, ∀ x, n.node ≠ .kernel x) (f q : Nat) (d : BitVec 512) :
    ∃ u, s.finishOpen p f q d = (u.endCmd f q d 0 (u.handleOf s.newId.1)).lookAt s.newId.1 ∧
      Stands ((s.seated p).loadWeights p.cluster g) u := by
  have hfree : (!((s.graphOf p.graph).map (fun g => s.sinkFree g p.strm.sink)).getD false) = false := by
    rw [hp, hsink]
    rfl
  have hadmit : ∀ t : State, Stands t t.countAdmit := fun t =>
    stands_count (not_dieReg_low (by decide)) (not_dieReg_low (by decide)) 1 5
  have hopens : ∀ t : State, Stands t (t.strmCount Reg.STRM_OPENS 1) := fun t =>
    stands_count (not_dieReg_low (by decide)) (not_dieReg_low (by decide)) 1 4
  have hdrift : ∀ t : State, Stands t (if t.fmt1 f q then
      t.modStrm s.newId.1 fun x => { x with drift := BitVec.ofNat 64 (t.handleOf s.newId.1) } else t) := fun t => by
    split
    · exact stands_setStrm rfl rfl rfl
    · exact .refl t
  have hhost : ∀ t : State, Stands t (t.openHost s.newId.1 q (db d 11 1)) := fun t => stands_of_same rfl rfl
  have hloaded : (((s.seated p).loadWeights p.cluster g).strm s.newId.1).sink = .none := by
    rw [strm_of_streams (streams_loadWeights _ _), strm_seated_same]
    exact hsink
  have hplaced := ((hadmit ((s.seated p).loadWeights p.cluster g)).trans (hdrift _)).trans (hhost _)
  unfold State.finishOpen
  rw [hfree, landOpen_plain hg hsource hkv hnodes]
  refine ⟨_, rfl, ?_⟩
  rw [bindSink_of_none ((hplaced.sink _).trans hloaded)]
  exact hplaced.trans (hopens _)

/-- STREAM_OPEN that a cluster takes at once (R263, R357): the open of a stream of the graph on the cluster, and then those
ask that have been swapped out. -/
theorem actOpen_on {f q cl st : Nat} {d : BitVec 512} {g : Graph} {r : OpenReq} {c : CostEntry} {k : Sink} {src : Option Nat}
    (hfmt : s.fmt1 f q = false) (hop : dOp d ≠ 7) (hg : s.graphOf (db d 8 2) = some g)
    (hr : r = { cls := dfield d 10 0 3, size := db d 12 4, list := db d 32 8, cap := db d 40 4, sink := db d 48 8,
                source := db d 44 4 })
    (hvet : s.vetOpen f g r = (st, some (c, k, src))) (hdec : (s.decide_ ⟨g, r.cls, c⟩).1 = .on cl) :
    ∃ p : PendAdmit, s.actOpen f q d = ((s.reserve ⟨g, r.cls, c⟩ cl).finishOpen p f q d).asked ∧ p.graph = g.id ∧
      p.cluster = cl ∧ p.strm.graph = g.id ∧ p.strm.st = .active ∧ p.strm.queue = [] ∧ p.strm.sink = k ∧
      p.strm.source = src ∧ (g.kv = none → p.strm.kv.st = .none) := by
  subst hr
  refine ⟨?request, ?placed, ?fields⟩
  case placed =>
    simp only [State.actOpen, hfmt, hg, Bool.false_and, Bool.false_eq_true, if_false, hvet, State.takeIn, decide_of_on hdec,
      landOne, hop, if_true]
    rfl
  case fields => exact ⟨rfl, rfl, rfl, rfl, rfl, rfl, rfl, fun hkv => by simp [hkv]⟩

end Sys2Proof.Machine
end

section
/-!
PROOFS. The obligation on the opening and the close of streams (O40): its clause on the cycles reserved, for a graph whose
plane is none that the part has.
-/

namespace Sys2Proof.Proofs
open Sys2Proof Sys2Proof.Machine

/-- A graph with one weight and with a plane that the part does not have: the reservation of its frame budget on cluster 0
would lie at the address of the high word of DMEM_LAST_UE of die 1. -/
def strayGraph : Graph := {
  id := 3
  plane := 0x2F302
  frame := true
  ticked := true
  costs := [{ bound := 8, cycles := 5 }]
  nodes := [{ node := .mat {}, ops := [.weight 7 .cluster] }] }

/-- STREAM_OPEN of graph 3 with declared size 8, without sink and source, and what it asks for. -/
def openCmd : BitVec 512 := BitVec.ofNat 512 (0x01 + 3 * 2 ^ 64 + 8 * 2 ^ 96 + 0xFFFFFFFF * 2 ^ 352)
def openReq : OpenReq := { cls := 0, size := 8, list := 0, cap := 0, sink := 0, source := 0xFFFFFFFF }

/-- The cost entry that serves it. -/
def openCost : CostEntry := { bound := 8, cycles := 5 }

/-- Cluster 0 is awake and has room; the weight lies in die 1, in a granule with two symbols in error. -/
def openingBadWeight : State := { State.reset with
  regs := [(Reg.PLC_AWAKE, 1), (Reg.HQ_FNf_LIMIT 0, 0x107), (Reg.TBG_CAP 0 (budgetOf strayGraph), 1000)]
  structure_ := { State.reset.structure_ with
    graphs := [strayGraph]
    pools := [{ kind := 0, mask := 3 }] }
  weights := [{ ref := { id := 7, size := 64 }, present := true, addr := dramBase 1 }]
  cond := { symbols := [dramBase 1, dramBase 1 + 2] } }

theorem turn_openingBadWeight : openingBadWeight.turn 0 0 openCmd 0x01 := by
  simp only [State.turn]
  decide +kernel

theorem resReg_strayGraph : Reg.TBG_RES 0 (budgetOf strayGraph) = Reg.DMEM_LAST_UE_LO 1 + 4 := by decide

/-- The part once the stream's cycles are reserved. -/
def reservedBadWeight : State := (openingBadWeight.startCmd 0 0 openCmd).reserve ⟨strayGraph, 0, openCost⟩ 0

/-- As the stream takes its place, the load of the weight shows the granule's address. -/
theorem lastUe_reservedBadWeight (p : PendAdmit) :
    ((reservedBadWeight.seated p).loadWeights 0 strayGraph).rn (Reg.TBG_RES 0 (budgetOf strayGraph)) = 16 := by
  have hids : strayGraph.storeIds = [7] := by decide
  have hload : (reservedBadWeight.seated p).loadWeights 0 strayGraph =
      State.loadWeight 0 (reservedBadWeight.seated p) 7 := by
    rw [State.loadWeights, hids]
    rfl
  rw [hload, resReg_strayGraph]
  refine (pair_high (p := dramBase 1) ?_).trans (by decide)
  have hpieces : reservedBadWeight.weightPieces (dramBase 1) 0 64 = [(dramBase 1, 64)] := by decide +kernel
  have hseen : reservedBadWeight.granSeen (dramBase 1) = true := by decide +kernel
  exact lastUe_loadWeight (w := { ref := { id := 7, size := 64 }, present := true, addr := dramBase 1 }) rfl rfl rfl
    hpieces rfl (by decide) (by decide) hseen rfl

/-- The open puts its stream on cluster 0, and as it completes the address stands where the reservation stood. -/
theorem exec_openingBadWeight : ∃ (u : State) (h : Nat), exec (.streamOpen 0 0 openCmd) openingBadWeight =
    .next (((u.endCmd 0 0 openCmd 0 (u.handleOf h)).lookAt h).asked) ∧ (u.strm h).st = .active ∧ (u.strm h).queue = [] ∧
    (∀ k, k ≠ h → (u.strm k).st = .closed) ∧ u.rn (Reg.TBG_RES 0 (budgetOf strayGraph)) = 16 := by
  have hopen : exec (.streamOpen 0 0 openCmd) openingBadWeight =
      .next ((openingBadWeight.startCmd 0 0 openCmd).actOpen 0 0 openCmd) :=
    (exec_of_running (f := fun t => t.command 0x01 0 0 openCmd (fun u => u.actOpen 0 0 openCmd)) rfl rfl).trans
      (congrArg _ (command_of_turn turn_openingBadWeight _))
  obtain ⟨p, hact, hid, hcl, hgraph, hst, hqueue, hsink, hsource, hkv⟩ := actOpen_on
    (s := openingBadWeight.startCmd 0 0 openCmd) (f := 0) (q := 0) (d := openCmd) (g := strayGraph) (r := openReq)
    (c := openCost) (k := .none) (src := none) (st := 0) (cl := 0)
    (by decide +kernel) (by decide +kernel) (by decide +kernel) (by decide +kernel) (by decide +kernel) (by decide +kernel)
  obtain ⟨u, hfinish, hstands⟩ := finishOpen_plain (s := reservedBadWeight) (p := p) (g := strayGraph)
    (by rw [hid]; decide +kernel) (by rw [hgraph]; decide +kernel) hsink hsource (hkv rfl) (by simp [strayGraph]) 0 0 openCmd
  rw [hcl] at hstands
  have hstrm (k : Nat) := strm_of_streams (streams_loadWeights (s := reservedBadWeight.seated p) 0 strayGraph) k
  have hdie : DieReg (Reg.TBG_RES 0 (budgetOf strayGraph)) := ⟨by decide, by decide⟩
  refine ⟨u, reservedBadWeight.newId.1, ?_, ?_, ?_, fun k hk => ?_, ?_⟩
  · rw [hopen, hact]
    exact congrArg (fun t => Host.Outcome.next (State.asked t)) hfinish
  · rw [hstands.st, hstrm, strm_seated_same, hst]
  · rw [hstands.queue, hstrm, strm_seated_same, hqueue]
  · rw [hstands.st, hstrm, strm_seated_other _ _ hk]
    rfl
  · rw [State.rn, hstands.reg _ hdie]
    exact lastUe_reservedBadWeight p

/-- While the new stream is the only open one, the rest of the command leaves the dies' registers as they are. -/
theorem rn_opened {u : State} {h : Nat} (hst : (u.strm h).st = .active) (hqueue : (u.strm h).queue = [])
    (hothers : ∀ k, k ≠ h → (u.strm k).st = .closed) {a : Nat} (ha : DieReg a) (d : BitVec 512) (res : Nat) :
    (((u.endCmd 0 0 d 0 res).lookAt h).asked).rn a = u.rn a := by
  have hstanding : ∀ k, (u.strm k).st ≠ .swapped ∧ (u.strm k).st ≠ .paused := fun k => by
    by_cases hk : k = h
    · simp [hk, hst]
    · simp [hothers k hk]
  exact congrArg BitVec.toNat ((stands_opened hqueue hstanding 0 0 d res).reg a ha)

/-- Refutes O40: a graph's plane may be any number, and so its reservation on a cluster may lie at any register of a later
die. Where that is one of the registers that the load of the graph's weight changes, the open does not leave the reservation
that its last clause gives (no plane of the part, 0 to 3, has such a reservation). -/
theorem not_streamsOpenAndClose : ¬ Obligations.StreamsOpenAndClose := by
  rintro ⟨hopens, -⟩
  obtain ⟨-, -, hopen, -⟩ := hopens openingBadWeight 0 0 openCmd
  obtain ⟨-, hplaced⟩ := hopen strayGraph openReq false turn_openingBadWeight (by decide +kernel) (by decide +kernel) nofun
    (by decide +kernel)
  obtain ⟨-, -, -, hon⟩ := hplaced 0 openCost .none none _ _ (by decide +kernel)
    (decide_of_on (cl := 0) (by decide +kernel))
  obtain ⟨u, h, hexec, hst, -, -, -, -, -, -, -, -, hqueue, -, -, -, -, hothers, -, -, -, hres⟩ := hon 0 rfl
  obtain ⟨v, k, hexec', hst', hqueue', hothers', hres'⟩ := exec_openingBadWeight
  have hdie : DieReg (Reg.TBG_RES 0 (budgetOf strayGraph)) := ⟨by decide, by decide⟩
  have hfree : openingBadWeight.rn (Reg.TBG_RES 0 (budgetOf strayGraph)) = 0 := by decide +kernel
  have hclosed : ∀ j, j ≠ h → (u.strm j).st = .closed := fun j hj => by
    rw [hothers j hj nofun]
    rfl
  have hlast := congrArg (State.rn · (Reg.TBG_RES 0 (budgetOf strayGraph)))
    (Host.Outcome.next.inj (hexec.symm.trans hexec'))
  have hsame : u.rn (Reg.TBG_RES 0 (budgetOf strayGraph)) = v.rn (Reg.TBG_RES 0 (budgetOf strayGraph)) :=
    (rn_opened hst hqueue hclosed hdie openCmd (u.handleOf h)).symm.trans
      (hlast.trans (rn_opened hst' hqueue' hothers' hdie openCmd (v.handleOf k)))
  rw [hres', hres _ rfl rfl (by rw [hfree]; decide), hfree] at hsame
  exact absurd hsame (by decide)

end Sys2Proof.Proofs
end
